-- ==== Sys2Proof/Word.lean ====
section
/-!
DEFINITION. Word.lean: the words the machine is built of. A byte, the 64-bit word of a general register, the widest register
of the register maps (320 bits, Table 15.6), and the index types that the spec's counts fix (Table 0.1).
-/
namespace Sys2Proof

/-- One byte. -/
abbrev Byte := BitVec 8
/-- A 64-bit word: a general register (R31), a command operand (R57), a host quad-word. -/
abbrev Word := BitVec 64
/-- A register of the register maps, zero-extended to the widest of them (Table 15.6, 320 bits). -/
abbrev RegVal := BitVec 320
/-- A port: P0-P127, then MGMT0 = 128 and MGMT1 = 129 (Table 2.15, byte 0x02). -/
abbrev Port := Fin 130
/-- A port of the traffic manager: the 130 ports, then the recirculation ports 130-145 (R200, R231). -/
abbrev TmPort := Fin 146
/-- An ingress or egress quay, IQ0-IQ15, EQ0-EQ15 (R11). -/
abbrev Quay := Fin 16
/-- A ledger slice, LS0-LS15. -/
abbrev Slice := Fin 16
/-- A tug core, T0-T15. -/
abbrev Core := Fin 16
/-- A seal unit, SU0-SU15. -/
abbrev SealUnit := Fin 16
/-- A general register number, g0-g31 (R31). -/
abbrev RegNo := Fin 32
/-- A berth of a slice (Table 0.1: 1,024 per slice). -/
abbrev Berth := Fin 1024
/-- A channel (Table 0.1: 1,024). -/
abbrev Chan := Fin 1024
/-- A time base TB0-TB7. -/
abbrev TBase := Fin 8
/-- A task (Table 0.1: 512). -/
abbrev TaskIx := Fin 512
/-- A mailbox (64 of them, Machine/Regs: TUG_MBOX_CFG). -/
abbrev Mbox := Fin 64
/-- A command engine, CE0-CE7. -/
abbrev Engine := Fin 8
/-- A PCIe function: 0 is the PF, n is VFn (Table 0.1: 1 PF and 63 VFs). -/
abbrev Fn := Fin 64
/-- An MSI-X vector (Table 0.1: 2,048). -/
abbrev Vec := Fin 2048

end Sys2Proof
end

