-- ==== Sys2Proof/Types.lean ====
section
/-!
DEFINITION. Types.lean: the operand types of the commands that are not plain numbers: which context runs an instruction,
which sender issued a control instruction, a field of an address space, and what an event of the outside world reports.
-/
namespace Sys2Proof

/-- Where an instruction runs (Table 2.1): a pilot context, a stevedore, a rewrite context, a tug core or a K stream. -/
inductive CtxId
  | pilot (q : Quay) (e : Fin 64) (c : Fin 8)
  | stev (s : Slice) (e : Fin 20)
  | rew (q : Quay) (e : Fin 48) (c : Fin 4)
  | tug (t : Core)
  | chan (c : Chan)
  deriving DecidableEq, Repr

/-- The five profiles of Table 2.1. -/
inductive Profile | p | s | e | t | k
  deriving DecidableEq, Repr

/-- The profile a context runs (R28). -/
def CtxId.profile : CtxId → Profile
  | .pilot _ _ _ => .p
  | .stev _ _ => .s
  | .rew _ _ _ => .e
  | .tug _ => .t
  | .chan _ => .k

/-- Who issued a control instruction: a CMD channel or a tug core's command port (R334, R343). -/
inductive Issuer
  | chan (c : Chan)
  | tug (t : Core)
  deriving DecidableEq, Repr

/-- The operand of an F-X instruction (Table 2.6): space code, byte offset, bit offset, width minus 1, X. -/
structure FieldOp where
  space : BitVec 3
  off : BitVec 8
  bit : BitVec 3
  wm1 : BitVec 6
  sx : Bool
  deriving DecidableEq, Repr

/-- The width of one register access in bits (R55, R340, the host's 32- and 64-bit accesses). -/
inductive RegAccess | w32 | w64 | w128 | w256 | w320
  deriving DecidableEq, Repr

/-- What boot step 7 reports (Table 15.4): the chosen slot, the stacks that failed, the time taken, the firmware image
placed in tug memory with its entry, and the image's harbour section as writes into bank 0 (R426, R433). -/
structure BootReport where
  slot : Bool
  hbmFail : BitVec 4
  bootMs : Nat
  entry : Word
  firmware : List (Nat × Byte)
  harbour : Option (List (BitVec 26 × Word))
  harbourAtBoot : Bool
  deriving DecidableEq, Repr

/-- One segment that the start-up scan finds on a drive (R414). -/
structure SegScan where
  drive : Fin 4
  slot : Nat
  tag : BitVec 128
  seg : Nat
  sealedOk : Bool
  first : Nat
  records : Nat
  bodyHash : BitVec 256
  closedS : Nat
  deriving DecidableEq, Repr

/-- What a drive's controller reports of its namespace (R410). -/
structure DriveId where
  lba : Nat
  mdts : Nat
  zasl : Nat
  zoned : Bool
  zoneCapMib : Nat
  openZones : Nat
  slots : Nat
  deriving DecidableEq, Repr

/-- The memories of Table 16.1, in its row order. -/
inductive MemKind
  | hbm | cell | bufState | staging | flowCache | table | meter | progStore | micro | saveArea | tugMem | capture | harbour | fuse
  deriving DecidableEq, Repr

/-- What one scrub visit finds in a word (R449). -/
inductive ScrubOut | clean | corrected | uncorrectable
  deriving DecidableEq, Repr

end Sys2Proof
end

