-- ==== Sys2Proof/Config.lean ====
section
/-!
DEFINITION. Config.lean: what one device fixes and the spec leaves open. Every constant here is opaque: nothing in Lean can
evaluate it or prove a value of it (log entries 4, 5). `free n` is the n-th free value a step takes; the rest are the
functions of published standards the device computes but the spec does not write out, and the fuses and straps of one part.
-/
namespace Sys2Proof.Config

/-- The n-th free value: what the spec leaves undefined, one fresh value for each use. -/
opaque free : Nat → BitVec 64
/-- SHA3-256 (FIPS 202) of a byte string (R405, R460). -/
opaque sha3 : List Byte → BitVec 256
/-- ML-DSA-44 (FIPS 204) signature of a message with the identity key derived for an owner hash (R405, R462, R463). -/
opaque sign : BitVec 256 → List Byte → List Byte
/-- ML-DSA-44 (FIPS 204) verification: a public key, a message, a signature (R460). -/
opaque verify : List Byte → List Byte → List Byte → Bool
/-- The fused unique device secret, die identifier and root key hash (Table 16.6). -/
opaque dieId : BitVec 64
opaque vrootHash : BitVec 256
/-- The fused anti-rollback counts on delivery (Table 16.6, thermometer counts). -/
opaque arbFw : BitVec 7
opaque arbPatch : BitVec 6
/-- DEBUG_LOCK on delivery (Table 16.6). -/
opaque debugLock : Bool
/-- The fused AVS target, 0-20 (Table 17: SYS_AVS.TARGET). -/
opaque avsTarget : BitVec 5
/-- The board straps STRAP_PCIE and STRAP_FLASH (R470). -/
opaque strapPcie : Bool
opaque strapFlash : Bool
/-- The identity public key and the endorsement signature derived for an owner hash (R462). -/
opaque idPublic : BitVec 256 → List Byte
opaque endorsement : BitVec 256 → List Byte
/-- LOG_DRIVE_STATUS.QBASE of each drive, fixed in the part (R410). -/
opaque qbase : Fin 4 → BitVec 36

end Sys2Proof.Config
end

