-- ==== Sys2Proof/Machine/Tab.lean ====
section
/-!
DEFINITION. Machine/Tab.lean: plain data by number. A `Tab` is a list of (number, value) pairs whose numbers rise strictly,
so that two tables with the same contents are the same list; a byte memory is such a list of `Host.Cell` in which no byte
equals what an unlisted address reads as.
-/
namespace Sys2Proof.Machine

/-- Sparse data by number, kept with its numbers strictly rising. -/
abbrev Tab (α : Type) := List (Nat × α)

/-- The entry numbered `n`. -/
def Tab.get? {α : Type} : Tab α → Nat → Option α
  | [], _ => none
  | (k, v) :: t, n => if k = n then some v else Tab.get? t n

/-- Store `v` as entry `n`, keeping the order. -/
def Tab.put {α : Type} : Tab α → Nat → α → Tab α
  | [], n, v => [(n, v)]
  | (k, w) :: t, n, v =>
    if n < k then (n, v) :: (k, w) :: t
    else if n = k then (n, v) :: t
    else (k, w) :: Tab.put t n v

/-- Remove entry `n`. -/
def Tab.del {α : Type} : Tab α → Nat → Tab α
  | [], _ => []
  | (k, v) :: t, n => if k = n then Tab.del t n else (k, v) :: Tab.del t n

/-- Entry `n`, or `d` where there is none. -/
def Tab.getD {α : Type} (t : Tab α) (n : Nat) (d : α) : α := (t.get? n).getD d

/-- Change entry `n` where there is one. -/
def Tab.upd {α : Type} (t : Tab α) (n : Nat) (f : α → α) : Tab α :=
  match t.get? n with
  | some v => t.put n (f v)
  | none => t

/-- Whether entry `n` is present. -/
def Tab.has {α : Type} (t : Tab α) (n : Nat) : Bool := (t.get? n).isSome

/-- The numbers rise strictly and all lie above `lo`. -/
def Tab.sortedFrom {α : Type} (lo : Nat) : Tab α → Bool
  | [] => true
  | (k, _) :: t => decide (lo ≤ k) && Tab.sortedFrom (k + 1) t

/-- The canonical form of a table. -/
def Tab.wf {α : Type} (t : Tab α) : Bool := Tab.sortedFrom 0 t

/-- A byte-addressed memory: cells in canonical form; every address not listed reads 0 (log entry 3). -/
abbrev Memory := List Host.Cell

/-- One byte of a memory. -/
def Memory.get (m : Memory) (a : Nat) : Byte := Tab.getD (α := Byte) m a 0

/-- Write one byte; writing 0 removes the cell, so that equal memories are equal lists. -/
def Memory.set (m : Memory) (a : Nat) (b : Byte) : Memory :=
  if b = 0 then Tab.del (α := Byte) m a else Tab.put (α := Byte) m a b

/-- The canonical form of a memory: addresses strictly rising and no cell equal to what an unlisted address reads as. -/
def Memory.wf (m : Memory) : Bool := Tab.wf (α := Byte) m && m.all (fun c => c.2 != 0)

/-- `n` bytes from address `a`, lowest address first. -/
def Memory.bytes (m : Memory) (a : Nat) : Nat → List Byte
  | 0 => []
  | n + 1 => m.get a :: Memory.bytes m (a + 1) n

/-- Write bytes from address `a` up. -/
def Memory.setBytes (m : Memory) (a : Nat) : List Byte → Memory
  | [] => m
  | b :: bs => Memory.setBytes (m.set a b) (a + 1) bs

/-- The little-endian number of a list of bytes (R5). -/
def leNat : List Byte → Nat
  | [] => 0
  | b :: bs => b.toNat + 256 * leNat bs

/-- The low `n` bytes of a number, least significant first (R5). -/
def leBytes : Nat → Nat → List Byte
  | 0, _ => []
  | n + 1, v => BitVec.ofNat 8 v :: leBytes n (v / 256)

/-- The big-endian number of a list of bytes (wire order, R5). -/
def beNat (l : List Byte) : Nat := l.foldl (fun a b => a * 256 + b.toNat) 0

/-- `n` bytes of a number, most significant first (wire order, R5). -/
def beBytes (n v : Nat) : List Byte := (leBytes n v).reverse

/-- The little-endian number of `n` bytes at `a`. -/
def Memory.le (m : Memory) (a n : Nat) : Nat := leNat (m.bytes a n)

/-- Write `v` as `n` little-endian bytes at `a`. -/
def Memory.setLe (m : Memory) (a n v : Nat) : Memory := m.setBytes a (leBytes n v)

end Sys2Proof.Machine
end

