-- ==== Sys2Proof/Syntax.lean ====
section
/-!
DEFINITION. Syntax.lean: the commands of the block, one constructor per row of spec/opcode_table.json, in its order.
The operands are what the row's event or instruction carries; what the spec leaves to the outside world (a failing parity
check, a measured value, what a driver wrote before a doorbell) is an operand too.
-/
namespace Sys2Proof

/-- A command: one whole, indivisible step of the part. -/
inductive Instr
  /-- FRAME_RX_START (R296). The first bit of a frame is captured at a port's PCS/PMA boundary: the frame is stamped on every base in STAMP_MASK and takes the next stamp sequence ID. -/
  | frameRxStart (p : Port) (lane : Fin 4) (bit : BitVec 16) (phi : BitVec 16) (frag : Bool) (bytes : List Byte)
  /-- FRAME_RX_END (R12). A frame's last byte arrives and its FCS is checked; a bad frame is discarded, and its berth is released without a write. -/
  | frameRxEnd (fid : Nat) (fecBad : Bool)
  /-- HEAD_DISPATCH (R72). A head that has reached its dispatch point is given to a free pilot context, and its manifest is opened. -/
  | headDispatch (q : Quay) (fetchBad : Bool)
  /-- ADD (R38). The ALU adds two registers modulo 2^64. -/
  | add (x : CtxId) (rd ra rb : RegNo)
  /-- SUB (R38). The ALU subtracts two registers modulo 2^64. -/
  | sub (x : CtxId) (rd ra rb : RegNo)
  /-- AND (R38). The ALU computes the bitwise AND of two registers. -/
  | andd (x : CtxId) (rd ra rb : RegNo)
  /-- OR (R38). The ALU computes the bitwise OR of two registers. -/
  | orr (x : CtxId) (rd ra rb : RegNo)
  /-- XOR (R38). The ALU computes the bitwise XOR of two registers. -/
  | xor (x : CtxId) (rd ra rb : RegNo)
  /-- ANDN (R38). The ALU computes a AND NOT b. -/
  | andn (x : CtxId) (rd ra rb : RegNo)
  /-- SHL (R38). The ALU shifts a register left. -/
  | shl (x : CtxId) (rd ra rb : RegNo)
  /-- SHR (R38). The ALU shifts a register right logically. -/
  | shr (x : CtxId) (rd ra rb : RegNo)
  /-- SAR (R38). The ALU shifts a register right arithmetically. -/
  | sar (x : CtxId) (rd ra rb : RegNo)
  /-- ROL (R38). The ALU rotates a register left. -/
  | rol (x : CtxId) (rd ra rb : RegNo)
  /-- MINU (R38). The ALU returns the unsigned minimum. -/
  | minu (x : CtxId) (rd ra rb : RegNo)
  /-- MAXU (R38). The ALU returns the unsigned maximum. -/
  | maxu (x : CtxId) (rd ra rb : RegNo)
  /-- MIN (R38). The ALU returns the signed minimum. -/
  | min (x : CtxId) (rd ra rb : RegNo)
  /-- MAX (R38). The ALU returns the signed maximum. -/
  | max (x : CtxId) (rd ra rb : RegNo)
  /-- SLTU (R38). The ALU sets 1 if a < b unsigned. -/
  | sltu (x : CtxId) (rd ra rb : RegNo)
  /-- SLT (R38). The ALU sets 1 if a < b signed. -/
  | slt (x : CtxId) (rd ra rb : RegNo)
  /-- MUL (R38). The ALU returns the low 64 bits of the product. -/
  | mul (x : CtxId) (rd ra rb : RegNo)
  /-- POPC (R38). The ALU counts the 1 bits of a register. -/
  | popc (x : CtxId) (rd ra rb : RegNo)
  /-- CLZ (R38). The ALU counts the leading zeros of a register. -/
  | clz (x : CtxId) (rd ra rb : RegNo)
  /-- BSWAP16 (R38). The ALU byte-swaps the low 16 bits. -/
  | bswap16 (x : CtxId) (rd ra rb : RegNo)
  /-- BSWAP32 (R38). The ALU byte-swaps the low 32 bits. -/
  | bswap32 (x : CtxId) (rd ra rb : RegNo)
  /-- BSWAP64 (R38). The ALU byte-swaps all 64 bits. -/
  | bswap64 (x : CtxId) (rd ra rb : RegNo)
  /-- CSADD (R38). The ALU returns the 16-bit ones'-complement sum with end-around carry. -/
  | csadd (x : CtxId) (rd ra rb : RegNo)
  /-- ADDI (R39). Adds a sign-extended immediate to a register. -/
  | addi (x : CtxId) (rd ra : RegNo) (imm : BitVec 16)
  /-- ANDI (R39). ANDs a zero-extended immediate into a register. -/
  | andi (x : CtxId) (rd ra : RegNo) (imm : BitVec 16)
  /-- ORI (R39). ORs a zero-extended immediate into a register. -/
  | ori (x : CtxId) (rd ra : RegNo) (imm : BitVec 16)
  /-- XORI (R39). XORs a zero-extended immediate into a register. -/
  | xori (x : CtxId) (rd ra : RegNo) (imm : BitVec 16)
  /-- SHI (R39). Shifts or rotates a register by an immediate amount of the kind the immediate selects. -/
  | shi (x : CtxId) (rd ra : RegNo) (imm : BitVec 16)
  /-- MOVI (R39). Places a 16-bit immediate into one quarter of a register, keeping or clearing the rest. -/
  | movi (x : CtxId) (rd ra : RegNo) (imm : BitVec 16)
  /-- EXT (R40). Extracts a field at a static offset of a space into a register. -/
  | ext (x : CtxId) (rd : RegNo) (f : FieldOp)
  /-- EXTC (R40). Extracts a field at an offset counted from the cursor. -/
  | extc (x : CtxId) (rd : RegNo) (f : FieldOp)
  /-- INS (R40). Inserts the low bits of a register into a field at a static offset. -/
  | ins (x : CtxId) (rd : RegNo) (f : FieldOp)
  /-- INSC (R483). Inserts a field at a cursor-relative offset, discarding the whole write if it leaves the space or the profile's rights. -/
  | insc (x : CtxId) (rd : RegNo) (f : FieldOp)
  /-- HDR (R42). Records one header on the stack, runs its checks and advances the cursor. -/
  | hdr (x : CtxId) (rd ra : RegNo) (imm : BitVec 16)
  /-- ADVC (R43). Advances the cursor without recording a header. -/
  | advc (x : CtxId) (rd ra : RegNo) (imm : BitVec 16)
  /-- LKP (R44). Copies a key from K and sends it to a lookup descriptor's table, marking the result register pending. -/
  | lkp (x : CtxId) (tbl : BitVec 6) (klen : BitVec 6) (rd : RegNo) (koff : BitVec 6) (nohit : Bool)
  /-- LOOKUP_REPLY (R44). A lookup result arrives and is written into the pending register, setting the hit bit unless NOHIT. -/
  | lookupReply (n : Nat) (bad : Bool)
  /-- MTR (R46). Runs a table or record meter on a length and yields a colour. -/
  | mtr (x : CtxId) (rd ra rb : RegNo) (func : BitVec 11)
  /-- METER_REPLY (R485). A table meter's colour is written into the pending register after the meter store applies the request. -/
  | meterReply (n : Nat) (bad : Bool)
  /-- HSH (R45). Hashes bytes of K with one of 16 hash units into a register. -/
  | hsh (x : CtxId) (rd ra : RegNo) (imm : BitVec 16)
  /-- FLOW (R47). Requests one flow pass with a key, a flow program and a copy of the manifest. -/
  | flow (x : CtxId) (rd ra : RegNo) (imm : BitVec 16)
  /-- LDB (R53). Loads one byte from D memory. -/
  | ldb (t : Core) (rd ra : RegNo) (imm : BitVec 16) (ue : Bool)
  /-- LDH (R53). Loads two bytes from D memory. -/
  | ldh (t : Core) (rd ra : RegNo) (imm : BitVec 16) (ue : Bool)
  /-- LDW (R53). Loads four bytes from D memory. -/
  | ldw (t : Core) (rd ra : RegNo) (imm : BitVec 16) (ue : Bool)
  /-- LDD (R53). Loads eight bytes from D memory. -/
  | ldd (t : Core) (rd ra : RegNo) (imm : BitVec 16) (ue : Bool)
  /-- STB (R53). Stores one byte to D memory. -/
  | stb (t : Core) (rd ra : RegNo) (imm : BitVec 16)
  /-- STH (R53). Stores two bytes to D memory. -/
  | sth (t : Core) (rd ra : RegNo) (imm : BitVec 16)
  /-- STW (R53). Stores four bytes to D memory. -/
  | stw (t : Core) (rd ra : RegNo) (imm : BitVec 16)
  /-- STD (R53). Stores eight bytes to D memory. -/
  | std (t : Core) (rd ra : RegNo) (imm : BitVec 16)
  /-- LDC (R55). Loads 32 bits from C space. -/
  | ldc (t : Core) (rd ra : RegNo) (imm : BitVec 16)
  /-- STC (R55). Stores 32 bits to C space, subject to the mode. -/
  | stc (t : Core) (rd ra : RegNo) (imm : BitVec 16)
  /-- LDCD (R55). Loads 64 bits from C space. -/
  | ldcd (t : Core) (rd ra : RegNo) (imm : BitVec 16)
  /-- STCD (R55). Stores 64 bits to C space, subject to the mode. -/
  | stcd (t : Core) (rd ra : RegNo) (imm : BitVec 16)
  /-- AMO_ADD (R54). Adds to a shared word indivisibly and returns the old value. -/
  | amoAdd (t : Core) (rd ra rb : RegNo) (ue : Bool)
  /-- AMO_SWAP (R54). Swaps a shared word indivisibly. -/
  | amoSwap (t : Core) (rd ra rb : RegNo) (ue : Bool)
  /-- AMO_OR (R54). ORs into a shared word indivisibly. -/
  | amoOr (t : Core) (rd ra rb : RegNo) (ue : Bool)
  /-- AMO_AND (R54). ANDs into a shared word indivisibly. -/
  | amoAnd (t : Core) (rd ra rb : RegNo) (ue : Bool)
  /-- AMO_CAS (R54). Compares and swaps a shared word indivisibly. -/
  | amoCas (t : Core) (rd ra rb : RegNo) (ue : Bool)
  /-- BR (R50). Compares registers or a parse flag and branches if the condition holds. -/
  | br (x : CtxId) (cond : BitVec 4) (i : Bool) (ra rb : RegNo) (disp : BitVec 11)
  /-- JAL (R52). Jumps relative and links the return address. -/
  | jal (t : Core) (rd ra : RegNo) (imm : BitVec 16)
  /-- JR (R52). Jumps to a register address. -/
  | jr (t : Core) (rd ra rb : RegNo) (func : BitVec 11)
  /-- MFS (R56). Reads a special register into a general register. -/
  | mfs (x : CtxId) (rd ra : RegNo) (imm : BitVec 16)
  /-- MTS (R56). Writes a special register from a general register. -/
  | mts (x : CtxId) (rd ra : RegNo) (imm : BitVec 16)
  /-- CTL (R57). Issues a control instruction to a command port or channel with its operands. -/
  | ctl (t : Core) (op : BitVec 10) (desc : BitVec 16)
  /-- NOP (R58). Does nothing. -/
  | nop (x : CtxId)
  /-- END (R58). Ends the program so that its action word applies. -/
  | endProg (x : CtxId)
  /-- DROP (R58). Sets verdict DROP, or flow flag DROP in S. -/
  | drop (x : CtxId) (reason : BitVec 8)
  /-- EXC (R58). Sets verdict EXCEPTION or a copy request, or flow flag EXC in S. -/
  | excp (x : CtxId) (cause : BitVec 6) (copy : Bool)
  /-- RECIRC (R58). Sets verdict RECIRCULATE, or DROP RECIRC_LIMIT on pass 3. -/
  | recirc (x : CtxId)
  /-- MIRROR (R58). Requests a mirror session. -/
  | mirror (x : CtxId) (session : BitVec 4)
  /-- FEND (R58). Ends a flow pass, writing, discarding or deleting the record. -/
  | fend (x : CtxId) (write delete : Bool)
  /-- WAIT (R58). Waits until no result is pending. -/
  | waitPend (x : CtxId)
  /-- TRAP (R58). Raises trap SYSCALL with a code. -/
  | trap (t : Core) (code : BitVec 8)
  /-- TRET (R66). Returns through the innermost trap slot. -/
  | tret (t : Core)
  /-- FENCE (R58). Completes all earlier D and C accesses before any later one. -/
  | fence (t : Core)
  /-- WAITF (R359). Waits on the task's event flags, with an optional timeout. -/
  | waitf (t : Core) (r : RegNo)
  /-- YIELD (R361). Offers the core to the next ready task. -/
  | yield (t : Core)
  /-- INTERRUPT_TAKEN (R66). A latched interrupt is taken at an instruction boundary once INTEN is 1. -/
  | interruptTaken (t : Core)
  /-- FLOW_REQUEST_ACCEPT (R144). A slice takes one flow request, allocates a berth, looks up the berth-lock, the cache and the stash. -/
  | flowRequestAccept (sl : Slice) (q : Quay)
  /-- INDEX_READ_DONE (R149). An index line read returns, and tags are compared to issue the record read or prepare a blank record. -/
  | indexReadDone (sl : Slice) (b : Berth) (ue : Bool)
  /-- RECORD_READ_DONE (R150). A record read returns, is checked and installed in the flow cache with any victim write-back. -/
  | recordReadDone (sl : Slice) (b : Berth) (ue : Bool)
  /-- STEVEDORE_DISPATCH (R29). A pass whose record is present starts on a free stevedore. -/
  | stevedoreDispatch (sl : Slice) (b : Berth) (fetchBad : Bool)
  /-- FLOW_PASS_RETURN (R48). A flow pass result returns and is merged into the manifest, and the berth is freed. -/
  | flowPassReturn (sl : Slice) (b : Berth)
  /-- INDEX_WRITE_DONE (R159). A new record's index write completes in HBM, and the record may be evicted. -/
  | indexWriteDone (sl : Slice)
  /-- INDEX_UNIT_MOVE (R160). The index unit places a stash entry through the alternate line or a chain of moves. -/
  | indexUnitMove (sl : Slice)
  /-- LEDGER_AGER_VISIT (R164). The ledger ager visits a record, deleting idle records or posting ACTIVE exports. -/
  | ledgerAgerVisit (sl : Slice) (ue : Bool)
  /-- REHASH_MIGRATE (R175). The migrator moves one record from the old table into the new one under its berth-lock. -/
  | rehashMigrate (sl : Slice)
  /-- RELEASE (R15). The release stage releases the frame at the head of its list in order, applying its action word. -/
  | release (fid : Nat) (bad : Bool)
  /-- REPLICATION_COPY (R194). A replication engine makes one copy of a listed frame per clock. -/
  | replicationCopy (q : Quay)
  /-- ALLOC_REQUEST (R211). A quay's admission stage requests a frame buffer from its sub-pool, spilling or promoting on failure. -/
  | allocRequest (q : Quay) (pick : Nat)
  /-- CELL_WRITE_START (R208). A quay starts writing a frame's cells in its cyclic slot and computes the CRC. -/
  | cellWriteStart (q : Quay)
  /-- ENQUEUE (R226). A copy is checked for its queue and thresholds and enqueued with its cargo seal. -/
  | enqueue (q : Quay)
  /-- TM_SELECT (R235). The selector chooses one frame for an egress quay through the scheduling tree. -/
  | tmSelect (e : Quay)
  /-- EGRESS_READ_START (R210). An egress quay starts reading an eligible frame whose cell 0 lies in its slot. -/
  | egressReadStart (e : Quay) (damaged zoneBad fetchBad : Bool)
  /-- EGRESS_COMMIT (R190). At the commit point the copy is released to the FIFO, with time fields and egress mirror. -/
  | egressCommit (x : CtxId) (phic : BitVec 16)
  /-- TX_COMPLETE (R304). A copy has left on the wire; its transmit stamp is captured and its buffer or reference released. -/
  | txComplete (p : TmPort) (bit : BitVec 16) (phi : BitVec 16) (expr : Bool) (cuts : Nat)
  /-- BREAKWATER_TICK (R91). Each limiter adds RATE to its counter at a 1 µs tick. -/
  | breakwaterTick
  /-- LEARN_FILTER (R116). The learn filter takes a notice, suppressing it or posting it to the learn channel. -/
  | learnFilter (g : Fin 4)
  /-- EM_AGE_TICK (R112). A partition's ageing tick starts a pass over its entries. -/
  | emAgeTick (p : Fin 16)
  /-- EM_AGER_VISIT (R112). The exact-match ager visits a line, clearing hits, ageing or deleting entries. -/
  | emAgerVisit (p : Fin 16)
  /-- FRAG_AGE_TICK (R87). Fragment entries unused for 8 ticks of 250 ms are removed. -/
  | fragAgeTick
  /-- LPM_SPARE_RETURN (R121). An old LPM sub-tree's units return to the spare area 512 clocks after the pointer write. -/
  | lpmSpareReturn
  /-- TABLE_REPAIR (R135). A command engine repairs a bad table entry from a sibling replica, or posts PARITY. -/
  | tableRepair
  /-- METER_SWEEP (R246). The meter sweep refills each table meter once per second. -/
  | meterSweep
  /-- DEPTH_SAMPLE_SWEEP (R263). The traffic manager publishes queue depth snapshots every 8,192 clocks. -/
  | depthSampleSweep
  /-- GCL_ENTRY_ADVANCE (R249). A gate list moves to its next entry or cycle. -/
  | gclEntryAdvance (p : Port)
  /-- GCL_CHANGE (R250). At the change time the ADMIN gate list becomes OPER. -/
  | gclChange (p : Port)
  /-- LINK_UP (R275). A port's link comes up after its debounce, calibration is applied and LINK_UP is posted. -/
  | linkUp (p : Port)
  /-- LINK_DOWN (R275). A port's link goes down, and its queues are held and frames on the wire aborted. -/
  | linkDown (p : Port)
  /-- CAL_DONE (R301). Link-up calibration of skew, PMA delays and K_TX completes and CAL_STATE becomes 2. -/
  | calDone (p : Port) (skew : BitVec 48) (dRx dTx : BitVec 16) (kTx : BitVec 32)
  /-- LINK_HOLD_EXPIRY (R261). The hold expires and every queue of the port is flushed. -/
  | linkHoldExpiry (p : Port)
  /-- FEC_DEGRADED_TICK (R272). At a 1 ms tick, corrected codewords above threshold post FEC_DEGRADED. -/
  | fecDegradedTick (p : Port) (corrected : Nat)
  /-- PAUSE_FRAME_RX (R279). A received PAUSE frame pauses the port. -/
  | pauseFrameRx (p : Port) (quanta : BitVec 16)
  /-- PFC_FRAME_RX (R279). A received PFC frame pauses the named class slots. -/
  | pfcFrameRx (p : Port) (mask : BitVec 8) (quanta : List (BitVec 16))
  /-- PAUSE_EXPIRY (R280). A pause ends when its time runs out. -/
  | pauseExpiry (p : Port) (prio : Option (Fin 8))
  /-- PFC_REFRESH (R281). While XOFF lasts, a flow-control frame is sent again every REFRESH quanta. -/
  | pfcRefresh (p : Port)
  /-- PFC_WD_TICK (R282). The PFC watchdog examines a priority at a 1 ms tick, detecting a storm or its end. -/
  | pfcWdTick (p : Port) (prio : Fin 8)
  /-- LPI_ENTER (R277). A port idle for LPI_IDLE enters low-power idle. -/
  | lpiEnter (p : Port)
  /-- RX_LPI (R278). A partner's LPI is received and counted, and on a timing port flagged. -/
  | rxLpi (p : Port)
  /-- PREEMPT_VERIFY_SEND (R288). A verify frame is sent under IEEE 802.3br, or verification fails after three. -/
  | preemptVerifySend (p : Port)
  /-- PREEMPT_VERIFY_RESPONSE (R288). A verify response makes preemption active and posts PREEMPT_ACTIVE. -/
  | preemptVerifyResponse (p : Port)
  /-- MEAS_TIMEOUT (R310). A base without a measurement for MEAS_TIMEOUT enters HOLDOVER. -/
  | measTimeout (b : TBase)
  /-- JUMP_WINDOW_END (R313). At the end of JUMP_WINDOW a jump that is not common is held ISOLATED. -/
  | jumpWindowEnd (g : Fin 4)
  /-- ACCEPT_AFTER_EXPIRY (R314). A base in SUSPECT for ACCEPT_AFTER s returns to LOCKED. -/
  | acceptAfterExpiry (b : TBase)
  /-- REPLICA_LOOP_UPDATE (R302). Every second the PMA delays are re-measured and moved by at most 2 ps. -/
  | replicaLoopUpdate (p : Port) (mRx mTx : BitVec 16)
  /-- PPS_IN_EDGE (R321). A PPS input edge is stamped and may give a base a measurement. -/
  | ppsInEdge (n : Fin 4) (phi : BitVec 16)
  /-- PPS_IN_LOSS (R321). No PPS edge within 1.1 s posts PPS_IN_LOSS. -/
  | ppsInLoss (n : Fin 4)
  /-- PPS_OUT_EDGE (R320). A PPS output pulses at a whole second of its base. -/
  | ppsOutEdge (n : Fin 4)
  /-- TOD_TX_SEND (R322). A ToD message is sent 1 ms after a PPS_OUT edge. -/
  | todTxSend (n : Fin 2)
  /-- TOD_RX_MESSAGE (R322). A ToD message is received and labels its edge, or is ignored with TOD_ERROR. -/
  | todRxMessage (n : Fin 2) (msg : List Byte)
  /-- DPLL_QUALIFY (R317). An input within range for 10 s qualifies, and the DPLL may switch. -/
  | dpllQualify (d : Fin 4) (inp : Fin 11)
  /-- DPLL_DISQUALIFY (R317). An input that misses periods or leaves ±12 ppm is disqualified. -/
  | dpllDisqualify (d : Fin 4) (inp : Fin 11)
  /-- DPLL_STATE (R318). A DPLL changes state and posts DPLL_STATE. -/
  | dpllState (d : Fin 4) (st : BitVec 2)
  /-- TXTS_DRAIN (R306). A FIFO entry is posted to the TXTS channel when room appears. -/
  | txtsDrain (p : Port)
  /-- DOORBELL_TAIL (R330). A write to a channel's TAIL makes a batch of slots visible. -/
  | doorbellTail (fn : Fn) (c : Chan) (index : BitVec 16) (gen : BitVec 8) (mem : List (Nat × Word))
  /-- DOORBELL_HEAD (R332). A write to HEAD frees completion or EVT entries. -/
  | doorbellHead (fn : Fn) (c : Chan) (index : BitVec 16) (gen : BitVec 8)
  /-- CMD_DISPATCH (R335). A free engine takes the head of the ready list and executes F-I words and one CTL. -/
  | cmdDispatch (e : Engine) (ucErr : Option (BitVec 15))
  /-- SLICE_END (R336). At the end of its slice a resumable CTL micro-traps and its channel rejoins the ready list. -/
  | sliceEnd (e : Engine)
  /-- PARK_WAKE (R341). A parked CTL's condition holds and it rejoins the ready list. -/
  | parkWake (iss : Issuer)
  /-- PARK_TIMEOUT (R341). A parked CTL's timeout passes and it completes with TIMEOUT. -/
  | parkTimeout (iss : Issuer)
  /-- CHAN_OPEN (R327). Opens the lowest free channel and returns its handle. -/
  | chanOpen (iss : Issuer) (tag : BitVec 6) (w : List Word)
  /-- CHAN_CLOSE (R329). Closes a channel, finishing its executing CTL and dropping what is in flight. -/
  | chanClose (iss : Issuer) (tag : BitVec 6) (w : List Word)
  /-- CHAN_INFO (R338). Returns a channel's state and progress. -/
  | chanInfo (iss : Issuer) (tag : BitVec 6) (w : List Word)
  /-- CMD_ABORT (R345). Marks the current CTL of a channel or port for abort. -/
  | cmdAbort (iss : Issuer) (tag : BitVec 6) (w : List Word)
  /-- CMD_WAIT (R341). Parks until a register, masked, equals a value. -/
  | cmdWait (iss : Issuer) (tag : BitVec 6) (w : List Word)
  /-- BARRIER (R341). Parks until every frame dispatched before it has left or been dropped. -/
  | barrier (iss : Issuer) (tag : BitVec 6) (w : List Word)
  /-- GET (R340). Reads a register as an atomic snapshot. -/
  | getReg (iss : Issuer) (tag : BitVec 6) (w : List Word)
  /-- SET (R340). Writes a register as a direct write would in MOORED. -/
  | setReg (iss : Issuer) (tag : BitVec 6) (w : List Word)
  /-- SET_MASKED (R340). Changes only the masked bits in one read-modify-write. -/
  | setMasked (iss : Issuer) (tag : BitVec 6) (w : List Word)
  /-- SETM (R340). Writes up to seven registers of one block in one clock, or none. -/
  | setm (iss : Issuer) (tag : BitVec 6) (w : List Word)
  /-- SYS_MODE_MOORED (R418). Requests MOORED from SERVICE, SLACK, DRYDOCK or SAFE HARBOUR. -/
  | sysModeMoored (iss : Issuer) (tag : BitVec 6) (w : List Word)
  /-- SYS_MODE_SERVICE (R427). Requests SERVICE from MOORED or SLACK. -/
  | sysModeService (iss : Issuer) (tag : BitVec 6) (w : List Word)
  /-- SYS_MODE_SLACK (R428). Pauses the named quays and enters SLACK once they are quiesced. -/
  | sysModeSlack (iss : Issuer) (tag : BitVec 6) (w : List Word)
  /-- SYS_MODE_DRYDOCK (R418). Requests DRYDOCK from MOORED. -/
  | sysModeDrydock (iss : Issuer) (tag : BitVec 6) (w : List Word)
  /-- SYS_MODE_HALT (R445). Requests HALT. -/
  | sysModeHalt (iss : Issuer) (tag : BitVec 6) (w : List Word)
  /-- HARBOUR (R439). Sets harbour cause COMMAND with a reason. -/
  | harbour (iss : Issuer) (tag : BitVec 6) (w : List Word)
  /-- EM_INSERT (R109). Inserts an exact-match entry, displacing or stashing as needed. -/
  | emInsert (iss : Issuer) (tag : BitVec 6) (w : List Word)
  /-- EM_DELETE (R111). Deletes an exact-match entry and tries to move one stash entry back. -/
  | emDelete (iss : Issuer) (tag : BitVec 6) (w : List Word)
  /-- EM_UPDATE (R339). Replaces the data of a present entry. -/
  | emUpdate (iss : Issuer) (tag : BitVec 6) (w : List Word)
  /-- EM_SEARCH (R339). Searches for an entry without setting its hit bit. -/
  | emSearch (iss : Issuer) (tag : BitVec 6) (w : List Word)
  /-- EM_NEXT (R339). Returns the next valid entry of a partition from a cursor. -/
  | emNext (iss : Issuer) (tag : BitVec 6) (w : List Word)
  /-- EM_FLUSH_PORT (R114). Deletes every non-static entry of a partition for a port, resumably. -/
  | emFlushPort (iss : Issuer) (tag : BitVec 6) (w : List Word)
  /-- LPM_INSERT (R121). Inserts a prefix by rebuilding its sub-tree. -/
  | lpmInsert (iss : Issuer) (tag : BitVec 6) (w : List Word)
  /-- LPM_DELETE (R122). Deletes a prefix by rebuilding its sub-tree. -/
  | lpmDelete (iss : Issuer) (tag : BitVec 6) (w : List Word)
  /-- LPM_SEARCH (R339). Returns an exact or longest-match prefix. -/
  | lpmSearch (iss : Issuer) (tag : BitVec 6) (w : List Word)
  /-- LPM_NEXT (R339). Returns the next prefix of a route table from a cursor. -/
  | lpmNext (iss : Issuer) (tag : BitVec 6) (w : List Word)
  /-- TCAM_WRITE (R126). Writes a ternary entry, valid bit last. -/
  | tcamWrite (iss : Issuer) (tag : BitVec 6) (w : List Word)
  /-- TCAM_READ (R339). Reads a ternary entry's value, mask and data. -/
  | tcamRead (iss : Issuer) (tag : BitVec 6) (w : List Word)
  /-- TCAM_CLEAR (R344). Clears a range of ternary entries, resumably. -/
  | tcamClear (iss : Issuer) (tag : BitVec 6) (w : List Word)
  /-- OBJ_WRITE (R339). Writes a next hop, group, member, zone, list, rewrite entry, template or meter. -/
  | objWrite (iss : Issuer) (tag : BitVec 6) (w : List Word)
  /-- OBJ_READ (R339). Reads one of those objects. -/
  | objRead (iss : Issuer) (tag : BitVec 6) (w : List Word)
  /-- PROG_LOAD (R63). Checks and loads program words into a shadow generation's stores. -/
  | progLoad (iss : Issuer) (tag : BitVec 6) (w : List Word)
  /-- GEN_SWAP (R136). Makes the SHADOW generation ACTIVE in one clock. -/
  | genSwap (iss : Issuer) (tag : BitVec 6) (w : List Word)
  /-- FLOW_READ (R163). Reads a flow record under its berth-lock. -/
  | flowRead (iss : Issuer) (tag : BitVec 6) (w : List Word)
  /-- FLOW_WRITE (R339). Writes or creates a flow record. -/
  | flowWrite (iss : Issuer) (tag : BitVec 6) (w : List Word)
  /-- FLOW_DELETE (R162). Deletes a flow record and exports it. -/
  | flowDelete (iss : Issuer) (tag : BitVec 6) (w : List Word)
  /-- FLOW_PIN (R151). Pins a record in the flow cache. -/
  | flowPin (iss : Issuer) (tag : BitVec 6) (w : List Word)
  /-- FLOW_UNPIN (R151). Unpins a record. -/
  | flowUnpin (iss : Issuer) (tag : BitVec 6) (w : List Word)
  /-- FLOW_NEXT (R339). Returns the next record of a slice from a cursor. -/
  | flowNext (iss : Issuer) (tag : BitVec 6) (w : List Word)
  /-- LEDGER_REHASH (R174). Starts a rehash into a new table. -/
  | ledgerRehash (iss : Issuer) (tag : BitVec 6) (w : List Word)
  /-- TM_SHAPER (R244). Changes a shaper profile with FULL or ZERO tokens. -/
  | tmShaper (iss : Issuer) (tag : BitVec 6) (w : List Word)
  /-- TM_GCL (R250). Writes a port's ADMIN gate list and requests the change. -/
  | tmGcl (iss : Issuer) (tag : BitVec 6) (w : List Word)
  /-- TIME_MEAS (R309). Gives a base one measurement for its servo. -/
  | timeMeas (iss : Issuer) (tag : BitVec 6) (w : List Word)
  /-- TIME_MASTER (R310). Puts a base in HOLDOVER with cause MASTER. -/
  | timeMaster (iss : Issuer) (tag : BitVec 6) (w : List Word)
  /-- TIME_ACCEPT_STEP (R311). Releases a held base to step at its next measurement. -/
  | timeAcceptStep (iss : Issuer) (tag : BitVec 6) (w : List Word)
  /-- TIME_ACCEPT_SLEW (R311). Releases a held base to slew at its next measurement. -/
  | timeAcceptSlew (iss : Issuer) (tag : BitVec 6) (w : List Word)
  /-- TIME_ACCEPT_KEEP (R314). Releases a base from SUSPECT or ISOLATED holdover without step or slew. -/
  | timeAcceptKeep (iss : Issuer) (tag : BitVec 6) (w : List Word)
  /-- TIME_XG_OPEN (R312). Opens a cross-check group of bases. -/
  | timeXgOpen (iss : Issuer) (tag : BitVec 6) (w : List Word)
  /-- TIME_XG_CLOSE (R312). Closes a cross-check group. -/
  | timeXgClose (iss : Issuer) (tag : BitVec 6) (w : List Word)
  /-- LOG_SEAL (R404). Closes the open segment of one or all partitions. -/
  | logSeal (iss : Issuer) (tag : BitVec 6) (w : List Word)
  /-- LOG_PART_OPEN (R407). Opens or resumes a harbour-log partition. -/
  | logPartOpen (iss : Issuer) (tag : BitVec 6) (w : List Word)
  /-- LOG_PART_CLOSE (R409). Seals a partition and stops its capture. -/
  | logPartClose (iss : Issuer) (tag : BitVec 6) (w : List Word)
  /-- TASK_CREATE (R354). Creates a task at the lowest free index and makes it READY. -/
  | taskCreate (iss : Issuer) (tag : BitVec 6) (w : List Word)
  /-- TASK_REARM (R355). Re-arms a CANCELLED task from a descriptor. -/
  | taskRearm (iss : Issuer) (tag : BitVec 6) (w : List Word)
  /-- TASK_CANCEL (R356). Cancels a task, or frees a cancelled one. -/
  | taskCancel (iss : Issuer) (tag : BitVec 6) (w : List Word)
  /-- TASK_SIGNAL (R358). ORs flags into a task's flag word. -/
  | taskSignal (iss : Issuer) (tag : BitVec 6) (w : List Word)
  /-- MBOX_POST (R367). Posts a message to a mailbox, parking while it is full. -/
  | mboxPost (iss : Issuer) (tag : BitVec 6) (w : List Word)
  /-- BUF_ALLOC (R228). Allocates a HOST or LOG pool buffer. -/
  | bufAlloc (iss : Issuer) (tag : BitVec 6) (w : List Word)
  /-- BUF_FREE (R217). Frees an HBM pool buffer as its owner. -/
  | bufFree (iss : Issuer) (tag : BitVec 6) (w : List Word)
  /-- BUF_GIVE (R339). Hands an HBM pool buffer to a new owner. -/
  | bufGive (iss : Issuer) (tag : BitVec 6) (w : List Word)
  /-- UCODE_PATCH (R342). Verifies and installs a micro-patch on all engines. -/
  | ucodePatch (iss : Issuer) (tag : BitVec 6) (w : List Word)
  /-- UCODE_INFO (R338). Returns CMD_UC_INFO. -/
  | ucodeInfo (iss : Issuer) (tag : BitVec 6) (w : List Word)
  /-- TASK_PLACE (R363). The scheduler places a ready task on a core of its affinity. -/
  | taskPlace (k : TaskIx)
  /-- CONTEXT_SWITCH (R364). A core switches to its NEXT task at a preemption point. -/
  | contextSwitch (t : Core)
  /-- DELAY_LIST_EXPIRY (R360). A waiting task's timeout expires and it becomes READY. -/
  | delayListExpiry
  /-- SEND0 (R367). A store to SEND0 latches the first message word. -/
  | send0 (t : Core) (m : Mbox) (v : Word)
  /-- SEND1 (R367). A store to SEND1 posts the message, stalling while the mailbox is full. -/
  | send1 (t : Core) (m : Mbox) (v : Word)
  /-- RECV0 (R366). A read of RECV0 latches the head message. -/
  | recv0 (t : Core) (rd : RegNo) (m : Mbox)
  /-- RECV1 (R366). A read of RECV1 returns word 1 and removes the message. -/
  | recv1 (t : Core) (rd : RegNo) (m : Mbox)
  /-- EXQ_HEAD_WRITE (R368). Firmware frees exception queue entries by writing HEAD. -/
  | exqHeadWrite (t : Core) (v : Word)
  /-- WD_KICK (R371). A write restarts the core watchdog. -/
  | wdKick (t : Core)
  /-- TIMER_WRITE (R370). Arms or cancels the core's one-shot timer. -/
  | timerWrite (t : Core) (v : Word)
  /-- TIMER_EXPIRY (R370). The core timer expires and raises interrupt source 1. -/
  | timerExpiry (t : Core)
  /-- IPI (R370). A write raises interrupt source 2 on each named core. -/
  | ipi (t : Core) (v : Word)
  /-- CORE_WD_EXPIRY (R371). The core watchdog expires, raising WATCHDOG or, on the second expiry, resetting the core. -/
  | coreWdExpiry (t : Core)
  /-- SYSWD_KICK (R372). A store to KICK advances or restarts the system watchdog kick sequence. -/
  | syswdKick (t : Core) (v : Word)
  /-- SYSWD_EXPIRY (R372). The system watchdog expires and acts as a harbour request. -/
  | syswdExpiry
  /-- PMC_SNAPSHOT (R376). A write copies all device counters into their shadows. -/
  | pmcSnapshot (v : BitVec 32)
  /-- PMC_SAMPLE_HEAD (R377). A write frees sample ring records. -/
  | pmcSampleHead (v : BitVec 32)
  /-- RXP_DELIVERY (R386). A frame or copy is written into a run of RXP entries once they suffice. -/
  | rxpDelivery (c : Chan)
  /-- RXP_STALL_EXPIRY (R386). A frame waiting on an RXP channel for STALL_US is dropped NO_DESC. -/
  | rxpStallExpiry (c : Chan)
  /-- TXP_FETCH (R387). A host frame is fetched into staging once its EOP is posted and room exists, and written back. -/
  | txpFetch (c : Chan)
  /-- EVT_HOLD_RELEASE (R390). A held record is written when room appears. -/
  | evtHoldRelease (c : Chan)
  /-- EVT_HOLD_EXPIRY (R390). A held record is dropped after STALL_US. -/
  | evtHoldExpiry (c : Chan)
  /-- REC_ENTRY_SERVE (R391). A REC entry is served by reading a segment range. -/
  | recEntryServe (c : Chan)
  /-- MSIX_SEND (R393). A channel sends its vector after IRQ_COUNT entries or IRQ_US. -/
  | msixSend (c : Chan)
  /-- MSIX_UNMASK (R392). Unmasking a vector sends its pending message. -/
  | msixUnmask (v : Vec)
  /-- DMA_READ_ERROR (R384). A failed or timed-out DMA read stops its channel and is reported. -/
  | dmaReadError (c : Chan) (cause : BitVec 2) (addr : Word)
  /-- FUNCTION_LEVEL_RESET (R382). An FLR closes the function's channels. -/
  | functionLevelReset (fn : Fn)
  /-- VF_ENABLE_CLEAR (R382). Clearing VF Enable closes every VF channel. -/
  | vfEnableClear
  /-- BUS_MASTER_DISABLE (R382). While Bus Master Enable is 0, a function's channels fetch and write nothing. -/
  | busMasterDisable (fn : Fn)
  /-- BAR4_ACCESS (R380). A BAR4 access reaches the HOST region, or outside it returns zeros. -/
  | bar4Access (write : Bool) (off : BitVec 32) (data : Word)
  /-- HOST_ERR_STATUS_CLEAR (R394). A W1C write clears error tree bits whose sources are cleared. -/
  | hostErrStatusClear (v : BitVec 32)
  /-- LOG_CAPTURE (R398). A selected frame or record is captured into a partition's staging, or lost. -/
  | logCapture
  /-- SEAL_MS_EXPIRY (R404). A segment closes SEAL_MS after its first record. -/
  | sealMsExpiry (p : Fin 16)
  /-- SEAL_SIGN (R406). The crypto unit signs the next queued seal body. -/
  | sealSign
  /-- CHUNK_WRITE_DONE (R412). A chunk write to a drive completes, and the seal follows when all have. -/
  | chunkWriteDone (p : Fin 16) (seg : Nat) (lba : Nat)
  /-- SEGMENT_FLUSH_DONE (R412). The Flush after a seal completes, and the segment's chunks are released. -/
  | segmentFlushDone (p : Fin 16) (seg : Nat)
  /-- DRIVE_WRITE_FAIL (R413). A write fails twice or times out, the drive is FAILED and the segment relocated. -/
  | driveWriteFail (p : Fin 16) (seg : Nat)
  /-- LOG_SCAN_DONE (R414). The start-up scan ends, and the directory is built and STATE becomes RUN. -/
  | logScanDone (found : List SegScan)
  /-- RESET_ASSERT (R417). The reset pin is asserted, and the device enters RESET. -/
  | resetAssert
  /-- RESET_RELEASE (R423). Reset is released, and the device runs the boot sequence. -/
  | resetRelease
  /-- DPLL0_STABLE (R292). DPLL0 reports its output stable, and TL and the enabled bases start. -/
  | dpll0Stable
  /-- BOOT_COMPLETE (R426). Boot completes and the device enters MOORED or SAFE HARBOUR. -/
  | bootComplete (b : BootReport)
  /-- BOOT_ERROR (R424). Boot fails and the device enters HALT with BOOT_ERR. -/
  | bootError (code : BitVec 3)
  /-- SYS_RESET (R446). A key write to SYS_RESET performs a warm reset. -/
  | sysReset (v : BitVec 32)
  /-- HARBOUR_N_ASSERT (R421). HARBOUR_N is recognised asserted and latches cause PIN. -/
  | harbourNAssert
  /-- HARBOUR_N_DEASSERT (R421). HARBOUR_N is deasserted after 1 ms high. -/
  | harbourNDeassert
  /-- HARBOUR_ENTRY (R440). A harbour cause enters SAFE HARBOUR, abandoning frames and walking the queues. -/
  | harbourEntry
  /-- HBOR_FRAME_RX (R434). The harbour plane takes a frame, matches an entry, applies redundancy and buffers copies. -/
  | hborFrameRx (fid : Nat)
  /-- HBOR_LAUNCH (R437). A harbour frame is launched on a port at its launch time, with CF update. -/
  | hborLaunch (p : Port)
  /-- HBOR_DRAIN_EXPIRY (R444). At DRAIN_US during exit the harbour queues are dropped. -/
  | hborDrainExpiry
  /-- HARBOUR_EXIT_COMPLETE (R444). Exit from SAFE HARBOUR completes with SYS_MODE 4 or 2. -/
  | harbourExitComplete
  /-- SLACK_QUIESCED (R428). Every named quay is quiesced and SYS.MODE 4 completes. -/
  | slackQuiesced
  /-- SLACK_TIMEOUT (R428). Quiescing exceeds BARRIER_TO, quays resume and SYS.MODE completes TIMEOUT. -/
  | slackTimeout
  /-- HALT_ENTRY (R445). The device enters HALT, stopping transmitters and flushing the harbour log. -/
  | haltEntry
  /-- HBOR_BANK_SWITCH (R433). A write changing BANK starts a check of the named bank. -/
  | hborBankSwitch (v : Word)
  /-- HBOR_BANK_CHECK_DONE (R433). The bank check ends, activating the bank or setting BAD. -/
  | hborBankCheckDone
  /-- SYS_HBOR_CAUSE_CLEAR (R439). A W1C write clears harbour cause bits that allow it. -/
  | sysHborCauseClear (v : BitVec 32)
  /-- DRYDOCK_BIST_START (R448). A START write runs the selected self-tests. -/
  | drydockBistStart (v : BitVec 32)
  /-- DRYDOCK_BIST_DONE (R448). The self-tests finish and report FAIL bits. -/
  | drydockBistDone (fail : BitVec 6)
  /-- PWR_OK_LOSS (R475). PWR_OK low for 100 ns acts as reset. -/
  | pwrOkLoss
  /-- THERMTRIP (R479). A die sensor reaches 125 °C, THERMTRIP_N asserts and the device enters HALT. -/
  | thermtrip
  /-- TEMP_ALARM (R478). The hottest die sensor reaches ALARM_THR and asserts SMB_ALERT_N. -/
  | tempAlarm (die hbm : BitVec 8)
  /-- AVS_COMMAND (R473). The device sends an AVSBus voltage command, setting FAULT after three failures. -/
  | avsCommand (target : BitVec 5) (acked : Bool)
  /-- SCRUB_VISIT (R451). A background sweep checks and corrects a memory word. -/
  | scrubVisit (mem : MemKind) (unit : BitVec 8) (addr : Nat) (out : ScrubOut)
  /-- SEAL_STORM_TICK (R453). At a 1 s tick seal failures at threshold raise SEAL_STORM. -/
  | sealStormTick
  /-- CORR_RATE_TICK (R457). At a 1 s tick corrections above CORR_THR post CORR_RATE. -/
  | corrRateTick
  /-- SEAL_START (R458). A seal unit starts reading an HBM range. -/
  | sealStart (u : SealUnit)
  /-- SEAL_RANGE_DONE (R458). A seal unit finishes reading its range. -/
  | sealRangeDone (u : SealUnit)
  /-- SEAL_DATA (R458). A write feeds 8 bytes to a seal unit. -/
  | sealData (u : SealUnit) (v : Word)
  /-- SEAL_FINAL (R459). A seal unit folds, finalises, compares and enters DONE. -/
  | sealFinal (u : SealUnit)
  /-- SEAL_RESET (R458). A seal unit returns to its initial value and IDLE. -/
  | sealReset (u : SealUnit)
  /-- SEAL_RUNNING_WRITE (R459). A write restores a saved seal state. -/
  | sealRunningWrite (u : SealUnit) (v : Word)
  /-- SEC_ARB_ADVANCE (R461). A write raises an anti-rollback fuse count. -/
  | secArbAdvance (fn : Fn) (v : BitVec 32)
  /-- OWNER_SLOT_PROGRAM (R461). A write programs a blank owner slot. -/
  | ownerSlotProgram (fn : Fn) (hash : BitVec 256) (slot : Bool)
  /-- OWNER_REVOKE (R461). A write sets REVOKED on owner slot 0. -/
  | ownerRevoke (fn : Fn)
  /-- DEBUG_LOCK (R464). A write sets the permanent debug lock. -/
  | debugLock (fn : Fn)
  /-- ATTESTATION_START (R463). START builds an attestation message for signing. -/
  | attestationStart
  /-- ATTESTATION_DONE (R463). The signed attestation is written and DONE set. -/
  | attestationDone
  /-- DEBUG_OPEN (R464). Opening the debug port erases the private keys. -/
  | debugOpen
  /-- QUAY_FRAG_FLUSH (R88). A write removes every fragment entry from all replicas. -/
  | quayFragFlush (v : BitVec 32)
  /-- QUAY_BW_CFG_WRITE (R91). A write to a limiter's configuration refills its counter to BURST. -/
  | quayBwCfgWrite (c : Fin 64) (v : Word)
  /-- EGR_MIRROR_CFG_WRITE (R202). A write to a mirror session resets its request counter. -/
  | egrMirrorCfgWrite (n : Fin 16) (v : Word)
  /-- TM_LAT_CFG_WRITE (R264). A write to a latency sampler clears it. -/
  | tmLatCfgWrite (n : Fin 64) (v : Word)
  /-- TM_LAT_COUNT_READ (R264). A read of TM_LAT_COUNT takes a snapshot of the sampler. -/
  | tmLatCountRead (n : Fin 64)
  /-- TIME_NOW_READ (R294). A read of the low word of a NOW register latches the 128-bit value per master. -/
  | timeNowRead (master : BitVec 8) (b : Option TBase)
  /-- TXTS_DATA_READ (R306). Reads of TIME_TXTS_DATA latch and then remove the head entry. -/
  | txtsDataRead (p : Port) (word : Fin 4)
  /-- LOG_ENABLE (R414). Writing LOG_CFG.EN 1 starts a drive scan. -/
  | logEnable (v : Word)
  /-- DRIVE_READY (R410). Setting READY hands a drive to the harbour log after checks. -/
  | driveReady (r : Fin 4) (id : DriveId) (v : Word)
  /-- CMD_ENGINE_UNFENCE (R347). A write returns a fenced engine to service. -/
  | cmdEngineUnfence (e : Engine)
  /-- MBOX_ENABLE (R366). Writing EN from 0 to 1 advances a mailbox's generation. -/
  | mboxEnable (m : Mbox) (v : BitVec 32)
  /-- COUNTER_READ_CLEAR (R6). A read of an RC counter returns and clears it. -/
  | counterReadClear (off : BitVec 26)
  /-- REGISTER_WRITE (R6). A direct write to a register with no row of its own, under its access code and mode. -/
  | registerWrite (fn : Fn) (off : BitVec 26) (n : RegAccess) (v : RegVal)
  /-- ILLEGAL_INSTRUCTION (R37). A tug core fetches a reserved or illegal instruction word and traps ILLEGAL. -/
  | illegalInstruction (t : Core) (word : BitVec 32)
  /-- LINK_CONDITIONS_MET (R275). PCS lock, alignment-marker lock and FEC lock are gained with no fault, which starts the LINK_UP_DEB debounce and the link-up calibration. -/
  | linkConditionsMet (p : Port)
  /-- LINK_CONDITION_FAILED (R275). A link condition (PCS, alignment or FEC lock, or local or remote fault) fails, which starts the LINK_DOWN_DEB debounce. -/
  | linkConditionFailed (p : Port) (cause : BitVec 8)
  /-- THERMTRIP_CLEAR (R479). With RESET_N low and every die sensor below 115 °C, THERMTRIP_N is deasserted and reset release is honoured again. -/
  | thermtripClear
  /-- HBM_STACK_LOST (R478). An HBM stack is lost to a link fault, a training fault or a 105 °C trip, raising HBM_FATAL and harbour cause HBM. -/
  | hbmStackLost (st : Fin 4) (hot : Bool)
  /-- CRYPTO_SELF_TEST_FAIL (R456). The crypto unit fails its self-test, raising source CRYPTO, after which seals are written UNSIGNED. -/
  | cryptoSelfTestFail
  /-- QUALITY_TRAINED (R310). A base's LOCKED_S first reaches 60 s and its quality becomes TRAINED. -/
  | qualityTrained (b : TBase)
  /-- DEGRADE_AFTER_EXPIRY (R315). A base has been in HOLDOVER for DEGRADE_AFTER seconds, and its stamps become DEGRADED. -/
  | degradeAfterExpiry (b : TBase)
  /-- HOLD_READY (R318). A DPLL has been LOCKED for 60 s and sets HOLD_READY. -/
  | holdReady (d : Fin 4)
  /-- REC_READ_COMPLETE (R391). A drive read for a REC entry completes, its data and flags are written back, and any retirement waiting on it may proceed. -/
  | recReadComplete (c : Chan) (ok : Bool)
  /-- RETENTION_EXPIRY (R409). A segment of a closed partition reaches RETAIN_S and is retired, and the partition index becomes free after its last segment. -/
  | retentionExpiry (p : Fin 16) (seg : Nat)
  /-- DRIVE_LINKED (R410). An NVMe drive links up on a root port and its status becomes LINKED. -/
  | driveLinked (r : Fin 4)
  /-- DRIVE_REMOVED (R413). A drive is removed from its root port, and its segments read back NOT_FOUND. -/
  | driveRemoved (r : Fin 4)
  deriving DecidableEq, Repr

end Sys2Proof
end

