-- ==== Sys2Proof/Machine/Blocks.lean ====
section
/-!
DEFINITION. Machine/Blocks.lean: the state of each block of the die beyond its registers, as plain data: frames and engine
contexts, tables, ledger slices, buffers, the traffic manager, egress, ports, time, command engines, tug cores, host rings,
the harbour log, the harbour plane, and what has left the device.
-/
namespace Sys2Proof.Machine

/-- A KTS-128 stamp (Table 0.7). -/
abbrev Stamp := BitVec 128
/-- A manifest (Table 2.15), byte 0 in bits [7:0] (R5). -/
abbrev Man := BitVec 1024

/-! ### Frames, parsing and engine contexts (R12, R68-R96) -/

/-- Where a frame came from, which names its release list (R15, R17). -/
inductive FrameSrc | wire | recirc | host
  deriving DecidableEq, Repr

/-- How far a frame is: its bytes arrive; its head waits or runs in a pilot; its program has ended and it waits at the
release stage; it is admitted to the buffer; its copies are being made; it has ended. -/
inductive Stage
  | receiving | queued | pilot (x : CtxId) | parsed | admitted | granted | written | copying
  deriving DecidableEq, Repr

/-- The fragment fields a frame carries (R78, R83). -/
structure FragId where
  v6 : Bool
  src : BitVec 128
  dst : BitVec 128
  proto : BitVec 8
  ident : BitVec 32
  first : Bool
  later : Bool
  deriving DecidableEq, Repr

/-- An IP header recorded by HDR, as later checks need it (R76-R78, R283). -/
structure IpInfo where
  v6 : Bool
  start : Nat
  endAt : Nat
  src : BitVec 128
  dst : BitVec 128
  fragLater : Bool
  fragAny : Bool
  deriving DecidableEq, Repr

/-- A header check that waits for the frame's length (R76): the declared end must equal (or not pass) the frame's end. -/
structure LateCheck where
  endAt : Nat
  atMost : Bool
  vlans : Nat
  deriving DecidableEq, Repr

/-- The transport checksum check of R283, made once the last byte has arrived. -/
structure CsumJob where
  tcp : Bool
  ip : IpInfo
  start : Nat
  deriving DecidableEq, Repr

/-- What HDR has learnt in the pass (R76-R78). -/
structure Parse where
  ips : List IpInfo := []
  nextHdr : Option (BitVec 8) := none
  holder : Option FragId := none
  nested : Bool := false
  vlans : Nat := 0
  l4seen : Bool := false
  late : List LateCheck := []
  csum : Option CsumJob := none
  deriving DecidableEq, Repr

/-- Where a frame's flow pass stands (R47-R49): none, waiting in the quay, in a berth of a slice, or returned. -/
inductive FlowLeg
  | none
  | asked (sl : Slice)
  | berth (sl : Slice) (b : Berth)
  | back
  deriving DecidableEq, Repr

/-- A frame from its first bit to the end of its admission. -/
structure Frame where
  port : Nat
  src : FrameSrc
  quay : Quay
  bytes : List Byte
  lenKnown : Bool
  man : Man
  manW : BitVec 128
  seqId : Nat
  stamps : Tab Stamp
  gen : Bool
  stage : Stage
  parse : Parse := {}
  stopped : Bool := false
  resolved : Bool := false
  look : Bool := false
  xcopy : List Nat := []
  flow : FlowLeg := .none
  flowReg : RegNo := 0
  askMan : Man := 0
  askKey : List Byte := []
  askProg : Nat := 0
  flowOut : Man := 0
  flowOutW : BitVec 128 := 0
  flowDrop : Option Nat := Option.none
  noRoom : Bool := false
  sticky : Option (Slice × Nat) := Option.none
  flight : Nat := 0
  lossless : Bool := false
  bid : Nat := 0
  members : List (Nat × Nat × Nat) := []
  mirror : Option Nat := Option.none
  logIn : Option Nat := Option.none
  deriving DecidableEq, Repr

/-- A lookup, meter or flow result still to be written (R32). -/
inductive PendKind | lkp | mtr | flow
  deriving DecidableEq, Repr

/-- A running program of profile P, S or E (R28-R33). -/
structure Ctx where
  fid : Nat
  cid : Nat := 0
  gen : Bool
  pass : Nat
  pc : Nat
  cyc : Nat := 0
  cur : Nat := 0
  key : BitVec 512 := 0
  man : Man
  manW : BitVec 128 := 0
  f : BitVec 1024 := 0
  fW : BitVec 128 := 0
  h : BitVec 2048 := 0
  hlen : Nat := 0
  pend : List (RegNo × PendKind × Nat) := []
  flowDone : Bool := false
  parse : Parse := {}
  berth : Nat := 0
  prog : Nat := 0
  compact : Bool := false
  pushed : Nat := 0
  strip : Nat := 0
  tlen : Nat := 0
  noCsum : Bool := false
  udpFull : Bool := false
  tail : List Byte := []
  ended : Bool := false
  mirror : Option Nat := none
  excCopy : Option (BitVec 6) := none
  prp : Bool := false
  sealBad : Bool := false
  readEnd : Nat := 0
  deriving DecidableEq, Repr

/-- An outstanding table lookup, with its key as LKP copied it (R44). -/
structure Lookup where
  x : CtxId
  rd : RegNo
  gen : Bool
  desc : BitVec 64
  key : List Byte
  noHit : Bool
  group : Nat
  port : Nat
  zone : Nat
  live : Bool
  deriving DecidableEq, Repr

/-- An outstanding table meter request (R46). -/
structure MeterReq where
  x : CtxId
  rd : RegNo
  ix : Nat
  len : Nat
  aware : Bool
  test : Bool
  inCol : Nat
  live : Bool
  deriving DecidableEq, Repr

/-- One word of a program store: the word, the PROG.LOAD that wrote it, and whether its check now fails (R450, R484). -/
structure ProgWord where
  word : BitVec 32
  load : Nat
  bad : Bool
  deriving DecidableEq, Repr

/-- A copy: one queue entry (R234) with the manifest its egress program will see. -/
structure Copy where
  flight : Nat
  bid : Nat
  port : Nat
  queue : Nat
  rewrite : Nat
  man : Man
  manW : BitVec 128
  ingress : Nat
  seqId : Nat
  gen : Bool
  treq : BitVec 8
  enqNs : Nat
  lo : Nat
  trunc : Nat := 0
  mirror : Bool := false
  sealV : BitVec 32 := 0
  launch : Option Nat := none
  rxStamp : Stamp := 0
  deriving DecidableEq, Repr

/-- A quay's front end: the dispatch queue, the engine chosen last, the frames released and not yet admitted in release
order, the copies made and not yet enqueued, the per-quay frame count of Table 7.3, and the clock in which its write port is free. -/
structure QuaySt where
  waiting : List Nat := []
  lastEngine : Nat := 0
  repl : List Nat := []
  made : List Copy := []
  seq : Nat := 0
  writeEnd : Nat := 0
  deriving DecidableEq, Repr

/-- The ingress side and the engines. -/
structure Eng where
  ctxs : Tab Ctx := []
  gregs : Tab Word := []
  lkps : Tab Lookup := []
  mtrs : Tab MeterReq := []
  serial : Nat := 0
  frames : Tab Frame := []
  nextFid : Nat := 1
  nextFlight : Nat := 1
  quays : Tab QuaySt := []
  progs : Tab ProgWord := []
  loads : Nat := 0
  flights : Tab (Bool × Nat) := []
  deriving DecidableEq, Repr

/-! ### Tables (R97-R140) -/

/-- An exact-match entry (Tables 4.4, 4.5); `born` orders the stash (R111). -/
structure EmEntry where
  part : Nat
  key : List Byte
  data : BitVec 40
  static : Bool
  hit : Bool
  age : Nat
  born : Nat
  deriving DecidableEq, Repr

/-- A prefix (R119, R120). -/
structure LpmEntry where
  rt : Nat
  v6 : Bool
  len : Nat
  addr : BitVec 128
  data : BitVec 40
  deriving DecidableEq, Repr

/-- A ternary entry (R123). -/
structure TcamEntry where
  value : BitVec 320
  mask : BitVec 320
  data : BitVec 40
  valid : Bool
  hit : Bool
  deriving DecidableEq, Repr

/-- A fragment entry (R83): key bytes, the three data fields, and the ticks since last use. -/
structure FragEntry where
  key : List Byte
  d04 : BitVec 16
  d3c : BitVec 160
  d58 : BitVec 192
  written : BitVec 128
  age : Nat
  deriving DecidableEq, Repr

/-- A learn notice (Table 4.7) waiting for the filter (R117). -/
structure Notice where
  kind : Nat
  part : Nat
  port : Nat
  zone : Nat
  key : List Byte
  data : BitVec 40
  deriving DecidableEq, Repr

/-- A place of the learn filter (R116). -/
structure LearnKey where
  part : Nat
  key : List Byte
  postedNs : Nat
  deriving DecidableEq, Repr

/-- A pass of the exact-match ager over one partition (R112): when its ticks are counted from, and what is left. -/
structure EmAger where
  originNs : Nat := 0
  todo : List Nat := []
  deriving DecidableEq, Repr

/-- The on-die tables. The four replicas differ only in the entries whose check fails: `bad` lists them as
(table kind, quay group, index), the kinds numbered as Table 11.9 numbers them (log entry 9). -/
structure Tables where
  em : Tab EmEntry := []
  emBorn : Nat := 0
  lpm : Tab LpmEntry := []
  tcam : Tab TcamEntry := []
  frag : Tab FragEntry := []
  objs : Tab (List Word) := []
  bad : List (Nat × Nat × Nat) := []
  repairs : List (Nat × Nat × Nat) := []
  learnWait : Tab (List Notice) := []
  filter : Tab (List LearnKey) := []
  agers : Tab EmAger := []
  ecmpSamples : Tab Nat := []
  spare : List (Nat × Nat) := []
  bw : Tab Nat := []
  mirrorCnt : Tab Nat := []
  genSets : Tab Nat := []
  deriving DecidableEq, Repr

/-! ### The ledger (R141-R179, R489, R491) -/

/-- What the berth is doing (Tables 5.6, 5.7). -/
inductive BerthPhase
  | chained | indexRead (alt : Bool) (other : Bool) | recordRead (recNo : Nat) | ready | running (e : Fin 20) | heldLen | done | sticky
  deriving DecidableEq, Repr

/-- A berth: one flow request on its way (R144-R159). -/
structure BerthSt where
  fid : Nat
  quay : Quay
  prog : Nat
  gen : Bool
  key : List Byte
  hs : Word
  man : Man
  phase : BerthPhase
  order : Nat
  newRec : Bool := false
  cacheHit : Bool := false
  noRoom : Bool := false
  recNo : Option Nat := none
  viaStash : Bool := false
  img : BitVec 1024 := 0
  out : BitVec 1024 := 0
  wrote : BitVec 128 := 0
  fread : Bool := false
  candidates : List Nat := []
  status : Nat := 0
  flags : BitVec 8 := 0
  cause : BitVec 8 := 0
  manOut : Man := 0
  manOutW : BitVec 128 := 0
  write : Bool := false
  delete : Bool := false
  drop : Option (BitVec 8) := none
  deriving DecidableEq, Repr

/-- A record, by slice and record number of a table: its bytes, and where its slot stands. -/
structure Rec where
  img : BitVec 1024
  key : List Byte
  hs : Word
  inIndex : Bool
  alt : Bool
  cached : Bool
  stashOrd : Option Nat
  writing : Bool
  dirty : Bool
  used : Nat
  deriving DecidableEq, Repr

/-- A record export waiting to be posted is posted at once; a slice holds what R159-R177 give it. -/
structure SliceSt where
  berths : Tab BerthSt := []
  order : Nat := 0
  recs : Tab Rec := []
  old : Tab Rec := []
  freed : List Nat := []
  fresh : Nat := 0
  reserved : List Nat := []
  writes : List Nat := []
  stashOrd : Nat := 0
  agerPos : Nat := 0
  sweepMs : Nat := 0
  migrate : Nat := 0
  migrated : Nat := 0
  lru : Nat := 0
  walk : Nat := 0
  deriving DecidableEq, Repr

/-- A rehash in progress (R174-R177): the old table's shape and seed. -/
structure Rehash where
  log2 : Nat
  form : Bool
  seed : Word
  deriving DecidableEq, Repr

structure Ledger where
  slices : Tab SliceSt := []
  asks : Tab (List Nat) := []
  rehash : Option Rehash := none
  doneSlices : List Nat := []
  deriving DecidableEq, Repr

/-! ### The output buffer and the copies (R203-R230) -/

/-- A buffer descriptor (Table 7.3) with the bytes its cells hold. -/
structure Desc where
  refc : Bool
  mid : Nat
  refcnt : Nat
  len : Nat
  start : Nat
  seq : BitVec 32
  crc : BitVec 32
  pg : Nat
  acct : Nat
  bytes : List Byte
  written : Bool
  t0 : Nat
  bad : Bool := false
  deriving DecidableEq, Repr

/-- A priority group's account (R222, R223). -/
structure PgAcct where
  used : Nat := 0
  hdrm : Nat := 0
  xoff : Bool := false
  deriving DecidableEq, Repr

/-- A buffer of an HBM pool (R228). -/
structure HbmBuf where
  mid : Nat
  refc : Bool
  refcnt : Nat
  deriving DecidableEq, Repr

structure Buf where
  descs : Tab Desc := []
  pgs : Tab PgAcct := []
  hbmBufs : Tab HbmBuf := []
  deriving DecidableEq, Repr

/-! ### The traffic manager (R231-R266) -/

/-- A dual-rate shaper (R242): both buckets in 2^-8 B, the time of the last evaluation, and a pending token setting (R244). -/
structure Shaper where
  c : Int := 0
  p : Int := 0
  lastNs : Nat := 0
  pendTok : Option Bool := none
  deriving DecidableEq, Repr

/-- WFQ tags of a child (R241), modulo 2^48. -/
structure Wfq where
  s : Nat := 0
  f : Nat := 0
  awake : Bool := false
  deriving DecidableEq, Repr

/-- A credit shaper (R248): credit in millibits, the time it was last brought up to date, and frames on the wire. -/
structure Cbs where
  cr : Int := 0
  lastNs : Nat := 0
  wire : Nat := 0
  deriving DecidableEq, Repr

/-- A gate control list (Tables 8.3, 8.4). -/
structure GateList where
  baseS : Nat
  baseNs : Nat
  cycNs : Nat
  cycFrac : Nat
  extNs : Nat
  entries : List (BitVec 64)
  deriving DecidableEq, Repr

/-- The gate state of a port (R249-R254). -/
structure Gate where
  oper : Option GateList := none
  admin : Option GateList := none
  change16 : Option Nat := none
  hold : Bool := false
  deriving DecidableEq, Repr

/-- A TM port's own state (R235-R237). -/
structure TmPortSt where
  wpPs : Nat := 0
  rot : Nat := 0
  holdUntil : Option Nat := none
  deriving DecidableEq, Repr

/-- A latency sampler as it counts (R264); its registers hold the snapshot that the last read of TM_LAT_COUNT took. -/
structure LatSt where
  count : Nat := 0
  skip : Nat := 0
  least : Nat := 0
  most : Nat := 0
  sum : Nat := 0
  bins : Tab Nat := []
  deriving DecidableEq, Repr

structure Tm where
  copies : Tab Copy := []
  nextCid : Nat := 1
  queues : Tab (List Nat) := []
  windows : Tab (List Nat) := []
  shapers : Tab Shaper := []
  deficits : Tab Nat := []
  rounds : Tab (List Nat) := []
  wfq : Tab Wfq := []
  vtime : Tab Nat := []
  cbs : Tab Cbs := []
  gates : Tab Gate := []
  ports : Tab TmPortSt := []
  depth : Tab Nat := []
  lat : Tab LatSt := []
  rot : Tab Nat := []
  readEnd : Tab Nat := []
  deriving DecidableEq, Repr

/-! ### Egress and ports (R180-R202, R267-R290) -/

/-- A frame past its commit point (R190, R303). -/
structure OnWire where
  cid : Nat
  copy : Copy
  bytes : List Byte
  pred : Nat
  kill : Bool
  atNs : Nat
  deriving DecidableEq, Repr

/-- A port's own state beyond its registers. -/
structure PortSt where
  seqId : Nat := 0
  condUp : Option Nat := none
  condDown : Option (Nat × Nat) := none
  pauseUntil : Option Nat := none
  pfcUntil : Tab Nat := []
  pfcSince : Tab Nat := []
  pfcLast : Tab Nat := []
  storm : BitVec 8 := 0
  xoff : BitVec 8 := 0
  refreshNs : Option Nat := none
  idleSince : Nat := 0
  wakeUntil : Nat := 0
  lpiStamp : Bool := false
  lastLpiEvt : Option Nat := none
  lastFecEvt : Option Nat := none
  verifyTries : Nat := 0
  verifySent : Option Nat := none
  drift : Nat := 0
  skew : Nat := 0
  failoverPosted : Bool := false
  wdTicks : Tab Nat := []
  deriving DecidableEq, Repr

structure Ports where
  st : Tab PortSt := []
  wire : Tab (List OnWire) := []
  deriving DecidableEq, Repr

/-! ### Time (R291-R325) -/

/-- A time base beyond its registers (R291, R309-R314). Times in 2^-40 ns; rates in ppb as exact rationals. -/
structure Base where
  running : Bool := false
  t40 : Nat := 0
  frate : Int := 0
  i : Rat := 0
  n : Nat := 0
  count : Nat := 0
  t0 : Int := 0
  tPrev : Int := 0
  dm : Rat := 0
  started : Bool := false
  lastMeasNs : Nat := 0
  holdSinceNs : Nat := 0
  lockedSinceNs : Option Nat := none
  accept : Option Bool := none
  suspectSinceNs : Nat := 0
  good : Nat := 0
  learn : List (Rat × Rat) := []
  firstD : Rat := 0
  lastD : Rat := 0
  iso : Nat := 0
  degraded : Bool := false
  deriving DecidableEq, Repr

/-- A cross-check group (R312, R313): its handle generation and the jump being judged: when and with what offset the first member
jumped, which others were LOCKED then, which members' jumps agree with it, and which are pending. -/
structure Xg where
  gen : Nat := 0
  jumpNs : Option Nat := none
  theta : Int := 0
  locked : BitVec 8 := 0
  jumped : BitVec 8 := 0
  waiting : BitVec 8 := 0
  deriving DecidableEq, Repr

/-- An entry of a transmit stamp FIFO (Table 10.3). -/
structure TxEntry where
  kind : Nat
  port : Nat
  seq : Nat
  lost : Nat
  reason : Nat
  stamp : Stamp
  deriving DecidableEq, Repr

/-- A PPS input (R321). -/
structure PpsIn where
  lastNs : Option Nat := none
  edge : Tab Stamp := []
  deriving DecidableEq, Repr

structure Time where
  tl : Bool := false
  tlNs : Nat := 0
  bases : Tab Base := []
  xgs : Tab Xg := []
  txts : Tab (List TxEntry) := []
  lostSeq : Tab Nat := []
  latches : Tab (BitVec 128) := []
  txLatch : Tab (BitVec 256) := []
  held : Tab Stamp := []
  ppsIn : Tab PpsIn := []
  ppsOutNs : Tab Nat := []
  todDue : Tab (Nat × List Byte) := []
  dpllLocked : Tab Nat := []
  deriving DecidableEq, Repr

/-! ### Command channels and engines (R326-R349) -/

/-- A record held for an EVT ring (R390). -/
structure EvRec where
  kind : Nat
  bytes : List Byte
  atNs : Nat
  deriving DecidableEq, Repr

/-- A frame waiting at an RXP channel (R386). -/
structure RxWait where
  cause : Nat
  man : Man
  stamps : Tab Stamp
  bytes : List Byte
  trunc : Bool
  flight : Nat
  bid : Option Nat
  atNs : Nat
  deriving DecidableEq, Repr

/-- A channel beyond CMD_CH_STATE and CMD_CH_PROGRESS (R326-R333, R383-R393). -/
structure ChanSt where
  ring : Nat := 0
  cq : Nat := 0
  log2ring : Nat := 6
  log2cq : Nat := 4
  vector : Nat := 0
  loc : Bool := false
  flag : Bool := false
  prefixN : Nat := 0
  stallUs : Nat := 1
  iq : Nat := 0
  irqCount : Nat := 1
  irqUs : Nat := 0
  cqTail : Nat := 0
  cqHead : Nat := 0
  phase : Bool := true
  devHead : Nat := 0
  evSeq : Nat := 0
  drops : Nat := 0
  stopped : Bool := false
  unsignalled : Nat := 0
  firstNs : Nat := 0
  batches : List Nat := []
  failing : Bool := false
  hold : List EvRec := []
  rx : List RxWait := []
  bell : Option Nat := none
  mute : Bool := false
  reading : Option Nat := none
  deriving DecidableEq, Repr

/-- A CTL in hand: fetched and not yet completed (R336, R341, R343). `settled` is the status with which it will complete once that
is decided; `note` is what its routine keeps for its next turn. -/
structure Ctl where
  op : Nat
  tag : Nat
  slot : Nat
  w : List Word
  progress : Nat := 0
  changed : Bool := false
  started : Bool := false
  untilNs : Option Nat := none
  settled : Option Nat := none
  note : Nat := 0
  task : Option Nat := none
  sup : Bool := true
  deriving DecidableEq, Repr

/-- A tug core's command port (R334). -/
structure TugPort where
  queue : List Ctl := []
  cqTail : Nat := 0
  phase : Bool := true
  deriving DecidableEq, Repr

structure Cmd where
  chans : Tab ChanSt := []
  tugs : Tab TugPort := []
  ready : List Issuer := []
  engines : Tab Issuer := []
  parked : Tab Ctl := []
  current : Tab Ctl := []
  lastMc : Tab Nat := []
  patch : Tab (BitVec 136) := []
  deriving DecidableEq, Repr

/-! ### Tug cores and tasks (R350-R378) -/

/-- A trap slot (R66). -/
structure TrapSlot where
  ra : Word
  code : BitVec 8
  detail : Word
  sup : Bool
  inten : Bool
  deriving DecidableEq, Repr

/-- The context of a task apart from its general registers. -/
structure TaskCtx where
  pc : Word := 0
  sup : Bool := false
  inten : Bool := false
  cnten : Bool := false
  tbase : Word := 0
  dbase : Word := 0
  slots : List TrapSlot := []
  send0 : Word := 0
  deriving DecidableEq, Repr

/-- A task beyond TUG_TASK_STATE (Tables 12.3, 12.4). -/
structure Task where
  ctx : TaskCtx := {}
  regs : List Word := []
  aff : BitVec 16 := 0
  w3 : Word := 0
  wait : Option (RegNo × Word) := none
  cancel : Bool := false
  deriving DecidableEq, Repr

/-- A tug core: the context of its running task is `ctx` and the general registers of `CtxId.tug`. -/
structure TCore where
  ctx : TaskCtx := {}
  next : Option Nat := none
  ccnt : List Word := [0, 0, 0, 0]
  timer : Option Nat := none
  wd : Nat := 0
  wdOnce : Bool := false
  deriving DecidableEq, Repr

structure Tug where
  cores : Tab TCore := []
  tasks : Tab Task := []
  ready : Tab (List Nat) := []
  delay : List (Nat × Nat) := []
  mail : Tab (List (Word × Word)) := []
  mailGen : Tab Nat := []
  recv : Tab (Word × Word) := []
  exqHead : Nat := 0
  exqTail : Nat := 0
  exqCount : Nat := 0
  lastCore : Nat := 15
  sysKick : Option Nat := none
  sysDue : Option Nat := none
  bad : List Nat := []
  lostSample : Bool := false
  deriving DecidableEq, Repr

/-! ### Host, harbour log, harbour plane, modes (R379-R448) -/

/-- Functions whose Bus Master Enable the host has cleared, VF Enable, the unmasked vectors and the pending ones. -/
structure HostIf where
  bmOff : List Nat := []
  vfEnable : Bool := true
  unmasked : List Nat := []
  pendingVec : List Nat := []
  deriving DecidableEq, Repr

/-- A segment of the harbour log (Tables 14.3, 14.4). `chunks` are its LOG buffers with the bytes filled, the header's 4,096 apart;
`lba` the start blocks of the chunks that the drive has completed, in chunk order; `alien` marks one found by the scan. -/
structure Seg where
  part : Nat
  num : Nat
  drive : Nat
  slot : Nat
  isOpen : Bool := true
  chunks : List (Nat × List Byte) := []
  lba : List Nat := []
  first : Nat := 0
  records : Nat := 0
  prev : Option (BitVec 256) := none
  link : BitVec 256 := 0
  flags : Nat := 0
  openT : Stamp := 0
  closeT : Stamp := 0
  firstNs : Nat := 0
  sealNs : Nat := 0
  sealed : Bool := false
  sig : List Byte := []
  written : Bool := false
  fails : Nat := 0
  alien : Bool := false
  deriving DecidableEq, Repr

/-- A partition (Table 14.5); `bucket` is in 1/8000 B (R402). -/
structure Part where
  gen : Nat := 0
  w0 : Word := 0
  w1 : Word := 0
  w2 : Word := 0
  tag : Word := 0
  bucket : Nat := 0
  bucketNs : Nat := 0
  nextSeq : Nat := 0
  nextSeg : Nat := 0
  lastLink : BitVec 256 := 0
  genesis : Bool := true
  lostN : Nat := 0
  lostB : Nat := 0
  lostAt : Stamp := 0
  restart : Option (List Nat) := none
  lastSealed : Option Nat := none
  deriving DecidableEq, Repr

/-- A record waiting to be captured (R398). -/
structure Capture where
  kind : Nat
  part : Nat
  word : BitVec 32
  stamp : Stamp
  body : List Byte
  bid : Option Nat
  deriving DecidableEq, Repr

structure Log where
  parts : Tab Part := []
  segs : Tab Seg := []
  nextSegId : Nat := 0
  queue : List Capture := []
  signQ : List Nat := []
  signNs : Option Nat := none
  dev : Nat := 0
  devNs : Nat := 0
  lastSlot : Tab Nat := []
  dir : List SegScan := []
  ids : Tab DriveId := []
  flushNs : Option Nat := none
  deriving DecidableEq, Repr

/-- A frame held by the harbour plane (R434-R438). -/
structure HFrame where
  entry : Nat
  bytes : List Byte
  port : Nat
  seqId : Nat
  stamp : Option Stamp
  readyNs : Nat
  copies : Nat
  deriving DecidableEq, Repr

structure Hbor where
  frames : Tab HFrame := []
  queues : Tab (List Nat) := []
  redLast : Tab Nat := []
  check : Option Nat := none
  passed : List Nat := []
  draining : Option Nat := none
  exitTo : Nat := 0
  sramBad : Bool := false
  badEntries : List Nat := []
  launchNs : Tab Nat := []
  deriving DecidableEq, Repr

/-- A commanded transition that has not completed (R418, R428, R444). -/
structure Pending where
  target : Nat
  mask : BitVec 16
  iss : Issuer
  deadlineNs : Option Nat
  deriving DecidableEq, Repr

structure Modes where
  trans : Option Pending := none
  pinLow : Bool := false
  causeSeen : Bool := false
  haltOwed : Bool := false
  bells : List (Nat × Nat) := []
  thermtrip : Bool := false
  debugOpen : Bool := false
  bootSlot : Bool := false
  fuseOwner0 : Option (BitVec 256) := none
  fuseOwner1 : Option (BitVec 256) := none
  revoked0 : Bool := false
  arbRun : Nat := 0
  patchArb : Nat := 0
  keyOwner : BitVec 256 := 0
  keys : Bool := false
  imageHash : BitVec 256 := 0
  patchHash : BitVec 256 := 0
  attest : List Byte := []
  resetHeld : Bool := true
  sealFails : Nat := 0
  corr : Tab Nat := []
  avsNaks : Nat := 0
  avsNs : Option Nat := none
  deriving DecidableEq, Repr

/-- What leaves the device, in order (the model's own trace, log entry 6); `rdata` is what a host read returns. -/
inductive OutEv
  | frame (port : Nat) (bytes : List Byte) (killed : Bool)
  | flowCtl (port : Nat) (pfc : Bool) (mask : BitVec 8) (quanta : List Nat)
  | vector (v : Nat)
  | pps (n : Nat)
  | tod (n : Nat) (msg : List Byte)
  | avs (target : Nat)
  | aer
  | alert
  | verify (port : Nat)
  | lpi (port : Nat) (on : Bool)
  | rdata (v : BitVec 320)
  deriving DecidableEq, Repr

end Sys2Proof.Machine
end

