-- ==== Sys2Proof/Machine/Regs.lean ====
section
/-!
DEFINITION. Machine/Regs.lean: every register and counter that the register maps of the spec name: its BAR0 offset, how it
repeats, its width, the modes that accept a direct write, its fields with their access codes (Table 0.5) and reset values.
`Reg.row` is written from the register tables at the end of each chapter (R96, R140, R179, R202, R230, R266, R290, R325,
R349, R378, R397, R416, R448, R466, R482); the doorbell page of Table 13.3 lies in BAR2 and is not here.
-/
namespace Sys2Proof.Machine

/-- Access codes of Table 0.5 (R6); RWS is stored as `rw`. -/
inductive Acc | ro | rw | w1c | rc | wo | rwl
  deriving DecidableEq, Repr

/-- Which modes accept a direct write (the register's line, else its block's rule). -/
inductive WMode | cfg | every | drydock | moored | unfence | ch0 | never
  deriving DecidableEq, Repr

/-- One field of a register map: its low bit, its length, its access code and its reset value. -/
structure FieldSpec where
  lo : Nat
  len : Nat
  acc : Acc
  reset : Nat
  deriving DecidableEq, Repr

/-- The registers, one name per line of the register maps. -/
inductive Reg
  | quayPilotCtrl | quayPilotStatus | quayParsePolicy | quayCntParseDepth | quayCntParseLen | quayCntParseBudget
  | quayCntProgramFault | quayCntFragFirst | quayCntFragHit | quayCntFragNofirst | quayCntFragTblFull | quayCntNoDest
  | quayFragStatus | quayFragFlush | quayBwCfg | quayBwChan | quayBwPass | quayBwRefuse | tblGenStatus | tblGenInflight0
  | tblGenInflight1 | tblDesc | tblEmPart | tblEmSeed | tblEmStatus | tblLpmStatus | tblRange | tblHashSeed | tblHashFunc
  | tblLearnCfg | tblLearnChan | tblCntEmFull | tblCntStashIns | tblCntLpmFull | tblCntLearnPosted | tblCntLearnSuppressed
  | tblCntLearnDropped | tblCntAged | tblCntParity | tblCntRepaired | tblCntUnrepaired | tblCntZoneDenied | ledgerCfg
  | ledgerStatus | ledgerSeedSlice | ledgerSeedTable | ledgerRegionA | ledgerRegionB | ledgerRehashRate | ledgerPolicy
  | ledgerExportChan | ledgerAgeProfile | ledgerProg | ledgerProgSlice | ledgerLibParam | ledgerLibSeq | ledgerMeterProfile
  | ledgerSliceStatus | ledgerSliceRecords | ledgerCntHit | ledgerCntMiss | ledgerCntNew | ledgerCntNoroom | ledgerCntAltRead
  | ledgerCntAged | ledgerCntParity | ledgerCntMigrated | ledgerCntExportDropped | ledgerCntProgramFault | egrMirrorCfg
  | egrMirrorDest | egrCntTx | egrCntProgDrop | egrCntProgramFault | egrCntStripInvalid | egrCntTooLong | egrCntCsumSkipped
  | egrCntCfSkipped | egrCntRecirc | egrCntPruned | egrCntCopies | egrMirrorCntReq | egrMirrorCntTaken | bufPoolCfg
  | bufPoolStatus | bufSharedStatus | bufHbmPool | bufPgCfg | bufPgHdrm | bufQUsed | bufQCfg | bufCntPoolEmpty
  | bufCntSpill | bufCntPromoted | bufCntQThreshold | bufCntHdrmOverflow | bufCntNotOwner | bufCntAlreadyFree | bufCntSealUnchecked
  | bufCntReadIdle | tmQMap | tmSubNode | tmSvcNode | tmShaperProfile | tmMeterProfile | tmPortCfg | tmPortCfg2
  | tmPortStatus | tmClassCfg | tmClassCbs | tmGclStatus | tmCntDropPortDown | tmCntFlushed | tmCntAge | tmCntTooLong
  | tmCntWindowPassed | tmCntGateLate | tmCntGclStep | tmCntGclChange | tmCntSelected | tmAgeProfile | tmLatCfg
  | tmLatCount | tmLatMin | tmLatMax | tmLatSum | tmLatBin | tmCntQDisabled | tmCntQPortMismatch | tmCntMeterSweep
  | portPbMode | portCfg | portFlowctl | portPfcWd | portLpi | portPreempt | portStatus | portMac | portFfGroup
  | portFfMember | portEvtChan | portCntRxOctets | portCntRxFrames | portCntRxMcast | portCntRxBcast | portCntRxFcs
  | portCntRxRunt | portCntRxOversize | portCntRxStaging | portCntRxCtlDiscard | portCntRxPause | portCntRxPfc
  | portCntTxOctets | portCntTxFrames | portCntTxPause | portCntTxPfc | portCntTxAborted | portCntFecCorr | portCntFecUncorr
  | portCntRxLpi | portCntTxLpi | portCntPfcStorm | portCntStormDrop | portCntFragments | portCntLinkDown | portCntRxModeDiscard
  | timeTbCfg | timeTbServo | timeTbHold | timeTbStatus | timeTbRate | timeTbOffset | timeTbPdelay | timeTbAsym
  | timeTbNow | timeTlNow | timeXgCfg | timeXgNominal | timePortCfg | timePortCal | timePortKtx | timeTxtsData
  | timeTxtsStatus | timePpsOut | timePpsIn | timePpsInLast | timeDpllCfg | timeDpllPrio | timeDpllStatus | timeRclkSel
  | timeSynceTx | timeEvtChan | timeTxtsChan | timeCntMeas | timeCntMeasStale | timeCntJump | timeCntStep | timeCntPathStep
  | timeCntIsolated | timeCntTxtsLost | timeCntTxtsFlushed | timeCntHeldFull | timeCntPredictErr | cmdCfg | cmdEngineStatus
  | cmdEngineCtl | cmdMcLog | cmdCh0Cfg | cmdCh0RingBase | cmdCh0CqBase | cmdChState | cmdChProgress | cmdUcInfo
  | cmdUcMatch | cmdEvtChan | cmdTugCq | cmdCntExec | cmdCntMc | cmdCntSliceTrap | cmdCntParkFull | cmdCntStaleDb
  | cmdCntBadDb | cmdCntCloseDrop | cmdCntEvtDropped | tugCoreCfg | tugCoreStatus | tugCcntCfg | tugCcntStatus
  | tugTaskState | tugMboxCfg | tugExqCfg | tugTbaseDefault | tugSyswdCfg | tugCntCollision | tugCntMboxRefused
  | tugCntExqDropped | tugCntExqNobuf | tugCntCoreReset | tugCntSyswdBad | tugCntEccCorr | pmcCntCfg | pmcCntAddr
  | pmcCntValue | pmcCntShadow | pmcSnapshot | pmcSampleCfg | pmcSampleHead | pmcSampleTail | pmcCntCollision | pmcCntSampleLost
  | hostErrStatus | hostErrMask | hostErrVec | hostDmaCfg | hostChErr | hostChCntEntries | hostChCntNoDesc | hostChCntDropped
  | hostChCntBadDesc | hostCntBar4Outside | logCfg | logStatus | logSrcCap | logZoneCap | logDriveCfg | logDriveStatus
  | logPartStatus | logCntRecords | logCntLost | logCntSealed | logCntRetired | logCntRelocated | logCntNoPart
  | sysMode | sysStatus | sysHborCause | sysReset | sysDrydockCtl | sysDrydockStatus | sysDrydockPort | sysCntSlackDiscard
  | hborCfg | hborStatus | hborPortCfg | hborGclHdr | hborGcl | hborEntry | hborRed | hborCntDrainDrop | hborCntAbandoned
  | hborCntCfSkipped | hborCntRx | hborCntMiss | hborCntOversize | hborCntDiscard | hborCntQfull | hborCntNobuf
  | hborCntTooLong | hborCntTx | rasMcPolicy | rasMcStatus | rasMcLog | rasSealCfg | rasEvtChan | rasCntCorr | rasCntSealFail
  | rasCntEvtDropped | sealCfg | sealPoly | sealSrc | sealCtl | sealData | sealFold | sealRunning | sealExpect
  | sealResult | secStatus | secArbAdvance | secOwnerProg | secAttNonce | secAttCtl | secCntRefused | sysTemp | sysAvs
  | sysStrap
  deriving DecidableEq, Repr

/-- A register's line: offset of element 0, (stride, count) of each index, width in bits, write modes, whether the
index counts ports by block slot (R290), and the fields. -/
structure RegRow where
  base : Nat
  dims : List (Nat × Nat)
  width : Nat
  wmode : WMode
  portIx : Bool
  fields : List FieldSpec
  deriving DecidableEq, Repr

/-- A named field of a register. -/
structure Fld where
  reg : Reg
  lo : Nat
  len : Nat
  deriving DecidableEq, Repr

/-- The line of each register in the register maps. -/
def Reg.row : Reg → RegRow
  | .quayPilotCtrl => ⟨0x400000, [(0x8000, 16)], 32, .cfg, false, [⟨0, 1, .rw, 1⟩, ⟨1, 3, .rw, 7⟩]⟩
  | .quayPilotStatus => ⟨0x400004, [(0x8000, 16)], 32, .never, false, [⟨0, 10, .ro, 0⟩, ⟨16, 11, .ro, 0⟩]⟩
  | .quayParsePolicy => ⟨0x400010, [(0x8000, 16)], 32, .cfg, false, [⟨0, 2, .rw, 0⟩, ⟨2, 1, .rw, 1⟩, ⟨3, 1, .rw, 0⟩, ⟨4, 1, .rw, 0⟩]⟩
  | .quayCntParseDepth => ⟨0x400100, [(0x8000, 16)], 64, .never, false, [⟨0, 64, .rc, 0⟩]⟩
  | .quayCntParseLen => ⟨0x400108, [(0x8000, 16)], 64, .never, false, [⟨0, 64, .rc, 0⟩]⟩
  | .quayCntParseBudget => ⟨0x400110, [(0x8000, 16)], 64, .never, false, [⟨0, 64, .rc, 0⟩]⟩
  | .quayCntProgramFault => ⟨0x400118, [(0x8000, 16)], 64, .never, false, [⟨0, 64, .rc, 0⟩]⟩
  | .quayCntFragFirst => ⟨0x400120, [(0x8000, 16)], 64, .never, false, [⟨0, 64, .rc, 0⟩]⟩
  | .quayCntFragHit => ⟨0x400128, [(0x8000, 16)], 64, .never, false, [⟨0, 64, .rc, 0⟩]⟩
  | .quayCntFragNofirst => ⟨0x400130, [(0x8000, 16)], 64, .never, false, [⟨0, 64, .rc, 0⟩]⟩
  | .quayCntFragTblFull => ⟨0x400138, [(0x8000, 16)], 64, .never, false, [⟨0, 64, .rc, 0⟩]⟩
  | .quayCntNoDest => ⟨0x400140, [(0x8000, 16)], 64, .never, false, [⟨0, 64, .rc, 0⟩]⟩
  | .quayFragStatus => ⟨0x4E0000, [], 32, .never, false, [⟨0, 17, .ro, 0⟩]⟩
  | .quayFragFlush => ⟨0x4E0004, [], 32, .cfg, false, [⟨0, 1, .wo, 0⟩]⟩
  | .quayBwCfg => ⟨0x4F0000, [(0x20, 64)], 64, .cfg, false, [⟨0, 24, .rw, 66⟩, ⟨24, 16, .rw, 16⟩, ⟨40, 8, .rw, 0⟩]⟩
  | .quayBwChan => ⟨0x4F0008, [(0x20, 64)], 32, .cfg, false, [⟨0, 32, .rw, 0⟩]⟩
  | .quayBwPass => ⟨0x4F0010, [(0x20, 64)], 64, .never, false, [⟨0, 64, .rc, 0⟩]⟩
  | .quayBwRefuse => ⟨0x4F0018, [(0x20, 64)], 64, .never, false, [⟨0, 64, .rc, 0⟩]⟩
  | .tblGenStatus => ⟨0x600000, [], 32, .never, false, [⟨0, 1, .ro, 0⟩, ⟨1, 2, .ro, 1⟩, ⟨3, 2, .ro, 0⟩]⟩
  | .tblGenInflight0 => ⟨0x600008, [], 64, .never, false, [⟨0, 32, .ro, 0⟩]⟩
  | .tblGenInflight1 => ⟨0x600010, [], 64, .never, false, [⟨0, 32, .ro, 0⟩]⟩
  | .tblDesc => ⟨0x601000, [(0x200, 2), (0x8, 64)], 64, .cfg, false, [⟨0, 64, .rw, 0⟩]⟩
  | .tblEmPart => ⟨0x602000, [(0x10, 16)], 64, .cfg, false, [⟨0, 1, .rw, 0⟩, ⟨1, 1, .rw, 0⟩, ⟨2, 5, .rw, 0⟩, ⟨7, 15, .rw, 0⟩, ⟨22, 4, .rw, 8⟩, ⟨26, 1, .rw, 0⟩, ⟨27, 3, .rw, 5⟩, ⟨30, 16, .rw, 60000⟩, ⟨46, 1, .rw, 0⟩]⟩
  | .tblEmSeed => ⟨0x602100, [(0x8, 4)], 64, .cfg, false, [⟨0, 64, .rwl, 0⟩]⟩
  | .tblEmStatus => ⟨0x602200, [], 32, .never, false, [⟨0, 20, .ro, 0⟩, ⟨20, 10, .ro, 0⟩]⟩
  | .tblLpmStatus => ⟨0x603000, [], 64, .never, false, [⟨0, 22, .ro, 0⟩, ⟨32, 19, .ro, 393216⟩]⟩
  | .tblRange => ⟨0x604000, [(0x8, 512)], 64, .cfg, false, [⟨0, 16, .rw, 0⟩, ⟨16, 16, .rw, 0⟩, ⟨32, 5, .rw, 0⟩, ⟨37, 1, .rw, 0⟩]⟩
  | .tblHashSeed => ⟨0x605000, [(0x10, 16)], 64, .cfg, false, [⟨0, 64, .rw, 0⟩]⟩
  | .tblHashFunc => ⟨0x605008, [(0x10, 16)], 32, .cfg, false, [⟨0, 1, .rw, 0⟩]⟩
  | .tblLearnCfg => ⟨0x606000, [], 32, .cfg, false, [⟨0, 1, .rw, 1⟩, ⟨1, 16, .rw, 100⟩]⟩
  | .tblLearnChan => ⟨0x606008, [], 32, .cfg, false, [⟨0, 32, .rw, 0⟩]⟩
  | .tblCntEmFull => ⟨0x607000, [], 64, .never, false, [⟨0, 64, .rc, 0⟩]⟩
  | .tblCntStashIns => ⟨0x607008, [], 64, .never, false, [⟨0, 64, .rc, 0⟩]⟩
  | .tblCntLpmFull => ⟨0x607010, [], 64, .never, false, [⟨0, 64, .rc, 0⟩]⟩
  | .tblCntLearnPosted => ⟨0x607018, [], 64, .never, false, [⟨0, 64, .rc, 0⟩]⟩
  | .tblCntLearnSuppressed => ⟨0x607020, [], 64, .never, false, [⟨0, 64, .rc, 0⟩]⟩
  | .tblCntLearnDropped => ⟨0x607028, [], 64, .never, false, [⟨0, 64, .rc, 0⟩]⟩
  | .tblCntAged => ⟨0x607030, [], 64, .never, false, [⟨0, 64, .rc, 0⟩]⟩
  | .tblCntParity => ⟨0x607038, [], 64, .never, false, [⟨0, 64, .rc, 0⟩]⟩
  | .tblCntRepaired => ⟨0x607040, [], 64, .never, false, [⟨0, 64, .rc, 0⟩]⟩
  | .tblCntUnrepaired => ⟨0x607048, [], 64, .never, false, [⟨0, 64, .rc, 0⟩]⟩
  | .tblCntZoneDenied => ⟨0x607050, [], 64, .never, false, [⟨0, 64, .rc, 0⟩]⟩
  | .ledgerCfg => ⟨0x800000, [], 64, .cfg, false, [⟨0, 1, .rwl, 0⟩, ⟨1, 1, .rwl, 0⟩, ⟨2, 5, .rwl, 24⟩]⟩
  | .ledgerStatus => ⟨0x800008, [], 32, .never, false, [⟨0, 2, .ro, 0⟩, ⟨2, 1, .ro, 0⟩]⟩
  | .ledgerSeedSlice => ⟨0x800010, [], 64, .cfg, false, [⟨0, 64, .rwl, 311454391272800567⟩]⟩
  | .ledgerSeedTable => ⟨0x800018, [], 64, .never, false, [⟨0, 64, .ro, 13714699805381954668⟩]⟩
  | .ledgerRegionA => ⟨0x800020, [], 32, .cfg, false, [⟨0, 7, .rwl, 0⟩, ⟨7, 7, .rwl, 40⟩]⟩
  | .ledgerRegionB => ⟨0x800028, [], 32, .cfg, false, [⟨0, 7, .rwl, 40⟩, ⟨7, 7, .rwl, 40⟩]⟩
  | .ledgerRehashRate => ⟨0x800030, [], 32, .cfg, false, [⟨0, 13, .rw, 1700⟩]⟩
  | .ledgerPolicy => ⟨0x800038, [], 32, .cfg, false, [⟨0, 2, .rw, 0⟩]⟩
  | .ledgerExportChan => ⟨0x800040, [], 32, .cfg, false, [⟨0, 32, .rw, 0⟩]⟩
  | .ledgerAgeProfile => ⟨0x800100, [(0x8, 16)], 64, .cfg, false, [⟨0, 16, .rw, 300⟩, ⟨16, 16, .rw, 0⟩]⟩
  | .ledgerProg => ⟨0x801000, [(0x800, 2), (0x8, 256)], 64, .cfg, false, [⟨0, 12, .rw, 0⟩, ⟨12, 1, .rw, 0⟩]⟩
  | .ledgerProgSlice => ⟨0x802000, [(0x4, 256)], 32, .cfg, false, [⟨0, 6, .rwl, 0⟩]⟩
  | .ledgerLibParam => ⟨0x803000, [], 64, .cfg, false, [⟨0, 2, .rw, 2⟩, ⟨2, 1, .rw, 1⟩, ⟨3, 1, .rw, 0⟩, ⟨4, 2, .rw, 0⟩, ⟨6, 1, .rw, 0⟩, ⟨7, 6, .rw, 48⟩, ⟨13, 32, .rw, 0⟩]⟩
  | .ledgerLibSeq => ⟨0x803008, [], 32, .cfg, false, [⟨0, 24, .rw, 10000⟩]⟩
  | .ledgerMeterProfile => ⟨0x808000, [(0x10, 4096)], 128, .cfg, false, [⟨0, 1, .rw, 0⟩, ⟨1, 1, .rw, 0⟩, ⟨32, 32, .rw, 0⟩, ⟨64, 32, .rw, 0⟩, ⟨96, 16, .rw, 0⟩, ⟨112, 16, .rw, 0⟩]⟩
  | .ledgerSliceStatus => ⟨0x804000, [(0x40, 16)], 64, .never, false, [⟨0, 11, .ro, 0⟩, ⟨11, 17, .ro, 0⟩, ⟨28, 15, .ro, 0⟩, ⟨43, 13, .ro, 0⟩]⟩
  | .ledgerSliceRecords => ⟨0x804008, [(0x40, 16)], 64, .never, false, [⟨0, 26, .ro, 0⟩, ⟨32, 24, .ro, 0⟩]⟩
  | .ledgerCntHit => ⟨0x805000, [(0x80, 16)], 64, .never, false, [⟨0, 64, .rc, 0⟩]⟩
  | .ledgerCntMiss => ⟨0x805008, [(0x80, 16)], 64, .never, false, [⟨0, 64, .rc, 0⟩]⟩
  | .ledgerCntNew => ⟨0x805010, [(0x80, 16)], 64, .never, false, [⟨0, 64, .rc, 0⟩]⟩
  | .ledgerCntNoroom => ⟨0x805018, [(0x80, 16)], 64, .never, false, [⟨0, 64, .rc, 0⟩]⟩
  | .ledgerCntAltRead => ⟨0x805020, [(0x80, 16)], 64, .never, false, [⟨0, 64, .rc, 0⟩]⟩
  | .ledgerCntAged => ⟨0x805028, [(0x80, 16)], 64, .never, false, [⟨0, 64, .rc, 0⟩]⟩
  | .ledgerCntParity => ⟨0x805030, [(0x80, 16)], 64, .never, false, [⟨0, 64, .rc, 0⟩]⟩
  | .ledgerCntMigrated => ⟨0x805038, [(0x80, 16)], 64, .never, false, [⟨0, 64, .rc, 0⟩]⟩
  | .ledgerCntExportDropped => ⟨0x805040, [(0x80, 16)], 64, .never, false, [⟨0, 64, .rc, 0⟩]⟩
  | .ledgerCntProgramFault => ⟨0x805048, [(0x80, 16)], 64, .never, false, [⟨0, 64, .rc, 0⟩]⟩
  | .egrMirrorCfg => ⟨0x490000, [(0x40, 16)], 64, .cfg, false, [⟨0, 2, .rw, 0⟩, ⟨2, 1, .rw, 0⟩, ⟨3, 24, .rw, 0⟩, ⟨27, 8, .rw, 0⟩]⟩
  | .egrMirrorDest => ⟨0x490008, [(0x40, 16)], 64, .cfg, false, [⟨0, 17, .rw, 0⟩, ⟨17, 17, .rw, 0⟩]⟩
  | .egrCntTx => ⟨0x480100, [(0x1000, 16)], 64, .never, false, [⟨0, 64, .rc, 0⟩]⟩
  | .egrCntProgDrop => ⟨0x480108, [(0x1000, 16)], 64, .never, false, [⟨0, 64, .rc, 0⟩]⟩
  | .egrCntProgramFault => ⟨0x480110, [(0x1000, 16)], 64, .never, false, [⟨0, 64, .rc, 0⟩]⟩
  | .egrCntStripInvalid => ⟨0x480118, [(0x1000, 16)], 64, .never, false, [⟨0, 64, .rc, 0⟩]⟩
  | .egrCntTooLong => ⟨0x480120, [(0x1000, 16)], 64, .never, false, [⟨0, 64, .rc, 0⟩]⟩
  | .egrCntCsumSkipped => ⟨0x480128, [(0x1000, 16)], 64, .never, false, [⟨0, 64, .rc, 0⟩]⟩
  | .egrCntCfSkipped => ⟨0x480130, [(0x1000, 16)], 64, .never, false, [⟨0, 64, .rc, 0⟩]⟩
  | .egrCntRecirc => ⟨0x480138, [(0x1000, 16)], 64, .never, false, [⟨0, 64, .rc, 0⟩]⟩
  | .egrCntPruned => ⟨0x480140, [(0x1000, 16)], 64, .never, false, [⟨0, 64, .rc, 0⟩]⟩
  | .egrCntCopies => ⟨0x480148, [(0x1000, 16)], 64, .never, false, [⟨0, 64, .rc, 0⟩]⟩
  | .egrMirrorCntReq => ⟨0x490010, [(0x40, 16)], 64, .never, false, [⟨0, 64, .rc, 0⟩]⟩
  | .egrMirrorCntTaken => ⟨0x490018, [(0x40, 16)], 64, .never, false, [⟨0, 64, .rc, 0⟩]⟩
  | .bufPoolCfg => ⟨0xA00000, [(0x10, 4)], 64, .cfg, false, [⟨0, 17, .rwl, 0⟩, ⟨17, 21, .rw, 0⟩, ⟨38, 1, .rw, 0⟩]⟩
  | .bufPoolStatus => ⟨0xA00008, [(0x10, 4)], 64, .never, false, [⟨0, 21, .ro, 0⟩, ⟨21, 21, .ro, 0⟩]⟩
  | .bufSharedStatus => ⟨0xA00100, [], 64, .never, false, [⟨0, 21, .ro, 1507328⟩, ⟨21, 21, .ro, 1507328⟩]⟩
  | .bufHbmPool => ⟨0xA00200, [(0x10, 2)], 32, .cfg, false, [⟨0, 7, .rwl, 0⟩, ⟨7, 7, .rwl, 0⟩, ⟨14, 4, .rwl, 0⟩]⟩
  | .bufPgCfg => ⟨0xA10000, [(0x8, 1040)], 64, .cfg, false, [⟨0, 16, .rw, 0⟩, ⟨16, 16, .rw, 0⟩, ⟨32, 1, .rw, 0⟩, ⟨33, 4, .rw, 7⟩, ⟨37, 1, .rw, 0⟩, ⟨38, 16, .rw, 0⟩]⟩
  | .bufPgHdrm => ⟨0xA14000, [(0x8, 1040)], 32, .cfg, false, [⟨0, 20, .rw, 0⟩]⟩
  | .bufQUsed => ⟨0xA40000, [(0x4, 131072)], 32, .never, false, [⟨0, 21, .ro, 0⟩]⟩
  | .bufQCfg => ⟨0xAC0000, [(0x4, 131072)], 32, .cfg, false, [⟨0, 16, .rw, 0⟩, ⟨16, 4, .rw, 7⟩, ⟨20, 1, .rw, 0⟩]⟩
  | .bufCntPoolEmpty => ⟨0xA01000, [(0x8, 4)], 64, .never, false, [⟨0, 64, .rc, 0⟩]⟩
  | .bufCntSpill => ⟨0xA01020, [], 64, .never, false, [⟨0, 64, .rc, 0⟩]⟩
  | .bufCntPromoted => ⟨0xA01028, [], 64, .never, false, [⟨0, 64, .rc, 0⟩]⟩
  | .bufCntQThreshold => ⟨0xA01030, [], 64, .never, false, [⟨0, 64, .rc, 0⟩]⟩
  | .bufCntHdrmOverflow => ⟨0xA01038, [], 64, .never, false, [⟨0, 64, .rc, 0⟩]⟩
  | .bufCntNotOwner => ⟨0xA01040, [], 64, .never, false, [⟨0, 64, .rc, 0⟩]⟩
  | .bufCntAlreadyFree => ⟨0xA01048, [], 64, .never, false, [⟨0, 64, .rc, 0⟩]⟩
  | .bufCntSealUnchecked => ⟨0xA01050, [], 64, .never, false, [⟨0, 64, .rc, 0⟩]⟩
  | .bufCntReadIdle => ⟨0xA01100, [(0x8, 16)], 64, .never, false, [⟨0, 64, .rc, 0⟩]⟩
  | .tmQMap => ⟨0xB00000, [(0x4, 131072)], 32, .cfg, false, [⟨0, 1, .rw, 0⟩, ⟨1, 2, .rw, 0⟩, ⟨3, 15, .rw, 0⟩, ⟨18, 3, .rw, 0⟩, ⟨21, 8, .rw, 1⟩, ⟨29, 3, .rw, 0⟩]⟩
  | .tmSubNode => ⟨0xB80000, [(0x8, 32768)], 64, .cfg, false, [⟨0, 1, .rw, 0⟩, ⟨1, 2, .rw, 0⟩, ⟨3, 15, .rw, 0⟩, ⟨18, 3, .rw, 0⟩, ⟨21, 8, .rw, 1⟩, ⟨29, 1, .rw, 0⟩, ⟨30, 3, .rw, 0⟩, ⟨33, 8, .rw, 16⟩, ⟨41, 11, .rw, 0⟩, ⟨52, 1, .rw, 0⟩]⟩
  | .tmSvcNode => ⟨0xBC0000, [(0x8, 4096)], 64, .cfg, false, [⟨0, 1, .rw, 0⟩, ⟨1, 2, .rw, 0⟩, ⟨3, 15, .rw, 0⟩, ⟨18, 3, .rw, 0⟩, ⟨21, 8, .rw, 1⟩, ⟨29, 1, .rw, 0⟩, ⟨30, 3, .rw, 0⟩, ⟨33, 8, .rw, 16⟩, ⟨41, 11, .rw, 0⟩, ⟨52, 1, .rw, 0⟩]⟩
  | .tmShaperProfile => ⟨0xBC8000, [(0x10, 2048)], 128, .cfg, false, [⟨0, 32, .rw, 0⟩, ⟨32, 32, .rw, 0⟩, ⟨64, 24, .rw, 0⟩, ⟨88, 24, .rw, 0⟩, ⟨112, 8, .rw, 20⟩, ⟨120, 8, .ro, 0⟩]⟩
  | .tmMeterProfile => ⟨0xBD0000, [(0x10, 4096)], 128, .cfg, false, [⟨0, 1, .rw, 0⟩, ⟨1, 1, .rw, 0⟩, ⟨32, 32, .rw, 0⟩, ⟨64, 32, .rw, 0⟩, ⟨96, 16, .rw, 0⟩, ⟨112, 16, .rw, 0⟩]⟩
  | .tmPortCfg => ⟨0xBE0000, [(0x100, 146)], 64, .cfg, false, [⟨0, 1, .rw, 0⟩, ⟨1, 1, .rw, 0⟩, ⟨2, 3, .rw, 0⟩, ⟨5, 8, .rw, 16⟩, ⟨13, 11, .rw, 0⟩, ⟨24, 1, .rw, 0⟩, ⟨25, 10, .rw, 10⟩, ⟨35, 1, .rw, 0⟩, ⟨36, 4, .rw, 15⟩, ⟨40, 8, .rw, 0⟩, ⟨48, 11, .rw, 600⟩]⟩
  | .tmPortCfg2 => ⟨0xBE0008, [(0x100, 146)], 32, .cfg, false, [⟨0, 16, .rw, 400⟩, ⟨16, 8, .rw, 0⟩]⟩
  | .tmPortStatus => ⟨0xBE000C, [(0x100, 146)], 32, .never, false, [⟨0, 1, .ro, 0⟩, ⟨1, 1, .ro, 0⟩, ⟨2, 1, .ro, 0⟩, ⟨3, 8, .ro, 0⟩, ⟨11, 1, .ro, 0⟩, ⟨12, 1, .ro, 0⟩, ⟨13, 1, .ro, 0⟩, ⟨14, 4, .ro, 0⟩]⟩
  | .tmClassCfg => ⟨0xBE0010, [(0x100, 146), (0x8, 8)], 64, .cfg, false, [⟨0, 3, .rw, 0⟩, ⟨3, 8, .rw, 1⟩, ⟨11, 1, .rw, 0⟩, ⟨12, 3, .rw, 0⟩, ⟨15, 8, .rw, 16⟩, ⟨23, 11, .rw, 0⟩, ⟨34, 1, .rw, 0⟩, ⟨35, 1, .rw, 0⟩, ⟨36, 1, .rw, 0⟩]⟩
  | .tmClassCbs => ⟨0xBE0050, [(0x100, 146), (0x4, 8)], 32, .cfg, false, [⟨0, 32, .rw, 0⟩]⟩
  | .tmGclStatus => ⟨0xBE0070, [(0x100, 146)], 64, .never, false, [⟨0, 32, .ro, 0⟩, ⟨32, 9, .ro, 0⟩, ⟨41, 8, .ro, 0⟩, ⟨49, 8, .ro, 255⟩]⟩
  | .tmCntDropPortDown => ⟨0xBE0080, [(0x100, 146)], 64, .never, false, [⟨0, 64, .rc, 0⟩]⟩
  | .tmCntFlushed => ⟨0xBE0088, [(0x100, 146)], 64, .never, false, [⟨0, 64, .rc, 0⟩]⟩
  | .tmCntAge => ⟨0xBE0090, [(0x100, 146)], 64, .never, false, [⟨0, 64, .rc, 0⟩]⟩
  | .tmCntTooLong => ⟨0xBE0098, [(0x100, 146)], 64, .never, false, [⟨0, 64, .rc, 0⟩]⟩
  | .tmCntWindowPassed => ⟨0xBE00A0, [(0x100, 146)], 64, .never, false, [⟨0, 64, .rc, 0⟩]⟩
  | .tmCntGateLate => ⟨0xBE00A8, [(0x100, 146)], 64, .never, false, [⟨0, 64, .rc, 0⟩]⟩
  | .tmCntGclStep => ⟨0xBE00B0, [(0x100, 146)], 64, .never, false, [⟨0, 64, .rc, 0⟩]⟩
  | .tmCntGclChange => ⟨0xBE00B8, [(0x100, 146)], 64, .never, false, [⟨0, 64, .rc, 0⟩]⟩
  | .tmCntSelected => ⟨0xBE00C0, [(0x100, 146)], 64, .never, false, [⟨0, 64, .rc, 0⟩]⟩
  | .tmAgeProfile => ⟨0xBF8000, [(0x4, 8)], 32, .cfg, false, [⟨0, 24, .rw, 0⟩]⟩
  | .tmLatCfg => ⟨0xBF0000, [(0x200, 64)], 64, .cfg, false, [⟨0, 2, .rw, 0⟩, ⟨2, 17, .rw, 0⟩, ⟨19, 16, .rw, 0⟩, ⟨35, 1, .wo, 0⟩]⟩
  | .tmLatCount => ⟨0xBF0008, [(0x200, 64)], 64, .never, false, [⟨0, 48, .ro, 0⟩, ⟨63, 1, .ro, 0⟩]⟩
  | .tmLatMin => ⟨0xBF0010, [(0x200, 64)], 64, .never, false, [⟨0, 64, .ro, 0⟩]⟩
  | .tmLatMax => ⟨0xBF0018, [(0x200, 64)], 64, .never, false, [⟨0, 64, .ro, 0⟩]⟩
  | .tmLatSum => ⟨0xBF0020, [(0x200, 64)], 64, .never, false, [⟨0, 64, .ro, 0⟩]⟩
  | .tmLatBin => ⟨0xBF0040, [(0x200, 64), (0x8, 16)], 64, .never, false, [⟨0, 64, .ro, 0⟩]⟩
  | .tmCntQDisabled => ⟨0xBF8100, [], 64, .never, false, [⟨0, 64, .rc, 0⟩]⟩
  | .tmCntQPortMismatch => ⟨0xBF8108, [], 64, .never, false, [⟨0, 64, .rc, 0⟩]⟩
  | .tmCntMeterSweep => ⟨0xBF8110, [], 64, .never, false, [⟨0, 64, .rc, 0⟩]⟩
  | .portPbMode => ⟨0x200000, [(0x2000, 34)], 32, .cfg, false, [⟨0, 4, .rw, 0⟩]⟩
  | .portCfg => ⟨0x200400, [(0x2000, 34), (0x400, 4)], 64, .cfg, true, [⟨0, 1, .rw, 0⟩, ⟨1, 2, .rw, 0⟩, ⟨3, 14, .rw, 1522⟩, ⟨17, 1, .rw, 1⟩, ⟨18, 1, .rw, 0⟩, ⟨19, 2, .rw, 0⟩, ⟨21, 1, .rw, 0⟩, ⟨22, 10, .rw, 10⟩, ⟨32, 10, .rw, 0⟩, ⟨42, 16, .rw, 65535⟩]⟩
  | .portFlowctl => ⟨0x200408, [(0x2000, 34), (0x400, 4)], 64, .cfg, true, [⟨0, 2, .rw, 0⟩, ⟨2, 16, .rw, 65535⟩, ⟨18, 16, .rw, 32767⟩]⟩
  | .portPfcWd => ⟨0x200410, [(0x2000, 34), (0x400, 4)], 64, .cfg, true, [⟨0, 8, .rw, 255⟩, ⟨8, 1, .rw, 0⟩, ⟨9, 16, .rw, 200⟩, ⟨25, 16, .rw, 400⟩]⟩
  | .portLpi => ⟨0x200418, [(0x2000, 34), (0x400, 4)], 32, .cfg, true, [⟨0, 1, .rw, 0⟩, ⟨1, 15, .rw, 50⟩, ⟨16, 16, .rw, 0⟩]⟩
  | .portPreempt => ⟨0x20041C, [(0x2000, 34), (0x400, 4)], 32, .cfg, true, [⟨0, 1, .rw, 0⟩, ⟨1, 1, .rw, 0⟩, ⟨2, 8, .rw, 10⟩, ⟨10, 2, .rw, 0⟩]⟩
  | .portStatus => ⟨0x200420, [(0x2000, 34), (0x400, 4)], 64, .never, true, [⟨0, 1, .ro, 0⟩, ⟨1, 1, .ro, 0⟩, ⟨2, 1, .ro, 0⟩, ⟨3, 1, .ro, 0⟩, ⟨4, 1, .ro, 0⟩, ⟨5, 1, .ro, 0⟩, ⟨6, 8, .ro, 0⟩, ⟨16, 48, .ro, 0⟩]⟩
  | .portMac => ⟨0x200428, [(0x2000, 34), (0x400, 4)], 64, .cfg, true, [⟨0, 48, .rw, 0⟩]⟩
  | .portFfGroup => ⟨0x248000, [(0x40, 256)], 64, .cfg, false, [⟨0, 1, .rw, 0⟩, ⟨1, 3, .rw, 0⟩]⟩
  | .portFfMember => ⟨0x248008, [(0x40, 256), (0x4, 8)], 32, .cfg, false, [⟨0, 8, .rw, 0⟩, ⟨8, 17, .rw, 0⟩]⟩
  | .portEvtChan => ⟨0x24FF00, [], 32, .cfg, false, [⟨0, 32, .rw, 0⟩]⟩
  | .portCntRxOctets => ⟨0x200600, [(0x2000, 34), (0x400, 4)], 64, .never, true, [⟨0, 64, .rc, 0⟩]⟩
  | .portCntRxFrames => ⟨0x200608, [(0x2000, 34), (0x400, 4)], 64, .never, true, [⟨0, 64, .rc, 0⟩]⟩
  | .portCntRxMcast => ⟨0x200610, [(0x2000, 34), (0x400, 4)], 64, .never, true, [⟨0, 64, .rc, 0⟩]⟩
  | .portCntRxBcast => ⟨0x200618, [(0x2000, 34), (0x400, 4)], 64, .never, true, [⟨0, 64, .rc, 0⟩]⟩
  | .portCntRxFcs => ⟨0x200620, [(0x2000, 34), (0x400, 4)], 64, .never, true, [⟨0, 64, .rc, 0⟩]⟩
  | .portCntRxRunt => ⟨0x200628, [(0x2000, 34), (0x400, 4)], 64, .never, true, [⟨0, 64, .rc, 0⟩]⟩
  | .portCntRxOversize => ⟨0x200630, [(0x2000, 34), (0x400, 4)], 64, .never, true, [⟨0, 64, .rc, 0⟩]⟩
  | .portCntRxStaging => ⟨0x200638, [(0x2000, 34), (0x400, 4)], 64, .never, true, [⟨0, 64, .rc, 0⟩]⟩
  | .portCntRxCtlDiscard => ⟨0x200640, [(0x2000, 34), (0x400, 4)], 64, .never, true, [⟨0, 64, .rc, 0⟩]⟩
  | .portCntRxPause => ⟨0x200648, [(0x2000, 34), (0x400, 4)], 64, .never, true, [⟨0, 64, .rc, 0⟩]⟩
  | .portCntRxPfc => ⟨0x200650, [(0x2000, 34), (0x400, 4), (0x8, 8)], 64, .never, true, [⟨0, 64, .rc, 0⟩]⟩
  | .portCntTxOctets => ⟨0x200690, [(0x2000, 34), (0x400, 4)], 64, .never, true, [⟨0, 64, .rc, 0⟩]⟩
  | .portCntTxFrames => ⟨0x200698, [(0x2000, 34), (0x400, 4)], 64, .never, true, [⟨0, 64, .rc, 0⟩]⟩
  | .portCntTxPause => ⟨0x2006A0, [(0x2000, 34), (0x400, 4)], 64, .never, true, [⟨0, 64, .rc, 0⟩]⟩
  | .portCntTxPfc => ⟨0x2006A8, [(0x2000, 34), (0x400, 4), (0x8, 8)], 64, .never, true, [⟨0, 64, .rc, 0⟩]⟩
  | .portCntTxAborted => ⟨0x2006E8, [(0x2000, 34), (0x400, 4)], 64, .never, true, [⟨0, 64, .rc, 0⟩]⟩
  | .portCntFecCorr => ⟨0x2006F0, [(0x2000, 34), (0x400, 4)], 64, .never, true, [⟨0, 64, .rc, 0⟩]⟩
  | .portCntFecUncorr => ⟨0x2006F8, [(0x2000, 34), (0x400, 4)], 64, .never, true, [⟨0, 64, .rc, 0⟩]⟩
  | .portCntRxLpi => ⟨0x200700, [(0x2000, 34), (0x400, 4)], 64, .never, true, [⟨0, 64, .rc, 0⟩]⟩
  | .portCntTxLpi => ⟨0x200708, [(0x2000, 34), (0x400, 4)], 64, .never, true, [⟨0, 64, .rc, 0⟩]⟩
  | .portCntPfcStorm => ⟨0x200710, [(0x2000, 34), (0x400, 4)], 64, .never, true, [⟨0, 64, .rc, 0⟩]⟩
  | .portCntStormDrop => ⟨0x200718, [(0x2000, 34), (0x400, 4)], 64, .never, true, [⟨0, 64, .rc, 0⟩]⟩
  | .portCntFragments => ⟨0x200720, [(0x2000, 34), (0x400, 4)], 64, .never, true, [⟨0, 64, .rc, 0⟩]⟩
  | .portCntLinkDown => ⟨0x200728, [(0x2000, 34), (0x400, 4)], 64, .never, true, [⟨0, 64, .rc, 0⟩]⟩
  | .portCntRxModeDiscard => ⟨0x200730, [(0x2000, 34), (0x400, 4)], 64, .never, true, [⟨0, 64, .rc, 0⟩]⟩
  | .timeTbCfg => ⟨0x100000, [(0x100, 8)], 64, .cfg, false, [⟨0, 1, .rw, 0⟩, ⟨1, 2, .rw, 1⟩, ⟨3, 3, .rw, 0⟩, ⟨6, 1, .rw, 0⟩, ⟨8, 24, .rw, 1000⟩, ⟨32, 16, .rw, 100⟩, ⟨48, 16, .rw, 5000⟩]⟩
  | .timeTbServo => ⟨0x100008, [(0x100, 8)], 64, .cfg, false, [⟨0, 16, .rw, 2867⟩, ⟨16, 16, .rw, 1229⟩, ⟨32, 16, .rw, 3000⟩, ⟨48, 16, .rw, 0⟩]⟩
  | .timeTbHold => ⟨0x100010, [(0x100, 8)], 32, .cfg, false, [⟨0, 7, .rw, 100⟩, ⟨16, 16, .rw, 100⟩]⟩
  | .timeTbStatus => ⟨0x100018, [(0x100, 8)], 64, .never, false, [⟨0, 3, .ro, 0⟩, ⟨3, 1, .ro, 0⟩, ⟨4, 4, .ro, 0⟩, ⟨8, 8, .ro, 0⟩, ⟨16, 1, .ro, 0⟩, ⟨17, 1, .ro, 0⟩, ⟨32, 32, .ro, 0⟩]⟩
  | .timeTbRate => ⟨0x100020, [(0x100, 8)], 64, .never, false, [⟨0, 64, .ro, 0⟩]⟩
  | .timeTbOffset => ⟨0x100028, [(0x100, 8)], 64, .never, false, [⟨0, 64, .ro, 0⟩]⟩
  | .timeTbPdelay => ⟨0x100030, [(0x100, 8)], 64, .never, false, [⟨0, 64, .ro, 0⟩]⟩
  | .timeTbAsym => ⟨0x100038, [(0x100, 8)], 64, .cfg, false, [⟨0, 64, .rw, 0⟩]⟩
  | .timeTbNow => ⟨0x100040, [(0x100, 8)], 128, .never, false, [⟨0, 128, .ro, 0⟩]⟩
  | .timeTlNow => ⟨0x100800, [], 128, .never, false, [⟨0, 128, .ro, 0⟩]⟩
  | .timeXgCfg => ⟨0x100900, [(0x40, 4)], 32, .cfg, false, [⟨0, 8, .ro, 0⟩, ⟨8, 1, .ro, 0⟩, ⟨16, 16, .rw, 2000⟩]⟩
  | .timeXgNominal => ⟨0x100A00, [(0x8, 8)], 64, .cfg, false, [⟨0, 64, .rw, 0⟩]⟩
  | .timePortCfg => ⟨0x102000, [(0x20, 130)], 64, .cfg, false, [⟨0, 4, .rw, 15⟩, ⟨4, 9, .rw, 256⟩, ⟨16, 16, .rw, 0⟩, ⟨32, 16, .rw, 0⟩]⟩
  | .timePortCal => ⟨0x102008, [(0x20, 130)], 64, .never, false, [⟨0, 2, .ro, 0⟩, ⟨16, 16, .ro, 0⟩, ⟨32, 16, .ro, 0⟩]⟩
  | .timePortKtx => ⟨0x102010, [(0x20, 130)], 32, .never, false, [⟨0, 32, .ro, 0⟩]⟩
  | .timeTxtsData => ⟨0x104000, [(0x40, 130)], 256, .never, false, [⟨0, 256, .ro, 0⟩]⟩
  | .timeTxtsStatus => ⟨0x104020, [(0x40, 130)], 32, .never, false, [⟨0, 7, .ro, 0⟩, ⟨7, 16, .ro, 0⟩]⟩
  | .timePpsOut => ⟨0x106800, [(0x20, 4)], 64, .cfg, false, [⟨0, 2, .rw, 0⟩, ⟨2, 4, .rw, 15⟩, ⟨6, 20, .rw, 100000⟩, ⟨26, 16, .rw, 0⟩, ⟨42, 1, .rw, 0⟩, ⟨43, 3, .rw, 4⟩]⟩
  | .timePpsIn => ⟨0x106900, [(0x20, 4)], 32, .cfg, false, [⟨0, 1, .rw, 0⟩, ⟨1, 1, .rw, 0⟩, ⟨2, 16, .rw, 0⟩, ⟨18, 1, .rw, 0⟩, ⟨19, 3, .rw, 4⟩]⟩
  | .timePpsInLast => ⟨0x106908, [(0x20, 4)], 128, .never, false, [⟨0, 128, .ro, 0⟩]⟩
  | .timeDpllCfg => ⟨0x107000, [(0x40, 4)], 64, .cfg, false, [⟨0, 1, .rw, 1⟩, ⟨1, 2, .rw, 0⟩, ⟨3, 3, .rw, 2⟩, ⟨6, 4, .rw, 0⟩, ⟨10, 2, .rw, 0⟩]⟩
  | .timeDpllPrio => ⟨0x107008, [(0x40, 4)], 64, .cfg, false, [⟨0, 44, .rw, 0⟩]⟩
  | .timeDpllStatus => ⟨0x107010, [(0x40, 4)], 32, .never, false, [⟨0, 2, .ro, 0⟩, ⟨2, 4, .ro, 0⟩, ⟨6, 11, .ro, 0⟩, ⟨17, 1, .ro, 0⟩]⟩
  | .timeRclkSel => ⟨0x107200, [(0x4, 4)], 32, .cfg, false, [⟨0, 7, .rw, 0⟩, ⟨7, 1, .rw, 0⟩, ⟨8, 1, .rw, 1⟩]⟩
  | .timeSynceTx => ⟨0x107300, [], 32, .cfg, false, [⟨0, 32, .rw, 0⟩]⟩
  | .timeEvtChan => ⟨0x107F00, [], 32, .cfg, false, [⟨0, 32, .rw, 0⟩]⟩
  | .timeTxtsChan => ⟨0x107F08, [], 32, .cfg, false, [⟨0, 32, .rw, 0⟩]⟩
  | .timeCntMeas => ⟨0x107800, [(0x40, 8)], 64, .never, false, [⟨0, 64, .rc, 0⟩]⟩
  | .timeCntMeasStale => ⟨0x107808, [(0x40, 8)], 64, .never, false, [⟨0, 64, .rc, 0⟩]⟩
  | .timeCntJump => ⟨0x107810, [(0x40, 8)], 64, .never, false, [⟨0, 64, .rc, 0⟩]⟩
  | .timeCntStep => ⟨0x107818, [(0x40, 8)], 64, .never, false, [⟨0, 64, .rc, 0⟩]⟩
  | .timeCntPathStep => ⟨0x107820, [(0x40, 8)], 64, .never, false, [⟨0, 64, .rc, 0⟩]⟩
  | .timeCntIsolated => ⟨0x107828, [(0x40, 8)], 64, .never, false, [⟨0, 64, .rc, 0⟩]⟩
  | .timeCntTxtsLost => ⟨0x104028, [(0x40, 130)], 64, .never, false, [⟨0, 64, .rc, 0⟩]⟩
  | .timeCntTxtsFlushed => ⟨0x104030, [(0x40, 130)], 64, .never, false, [⟨0, 64, .rc, 0⟩]⟩
  | .timeCntHeldFull => ⟨0x107A00, [], 64, .never, false, [⟨0, 64, .rc, 0⟩]⟩
  | .timeCntPredictErr => ⟨0x107A08, [], 64, .never, false, [⟨0, 64, .rc, 0⟩]⟩
  | .cmdCfg => ⟨0xD00000, [], 64, .cfg, false, [⟨0, 16, .rw, 8192⟩, ⟨16, 24, .rw, 100000⟩]⟩
  | .cmdEngineStatus => ⟨0xD00040, [(0x8, 8)], 32, .never, false, [⟨0, 1, .ro, 0⟩, ⟨1, 1, .ro, 0⟩, ⟨2, 1, .ro, 0⟩, ⟨3, 10, .ro, 0⟩, ⟨13, 1, .ro, 0⟩]⟩
  | .cmdEngineCtl => ⟨0xD00080, [(0x8, 8)], 32, .unfence, false, [⟨0, 1, .wo, 0⟩]⟩
  | .cmdMcLog => ⟨0xD00100, [(0x20, 8)], 128, .never, false, [⟨0, 15, .ro, 0⟩, ⟨15, 1, .ro, 0⟩, ⟨16, 10, .ro, 0⟩, ⟨32, 32, .ro, 0⟩, ⟨64, 64, .ro, 0⟩]⟩
  | .cmdCh0Cfg => ⟨0xD00200, [], 64, .ch0, false, [⟨0, 5, .rwl, 6⟩, ⟨5, 5, .rwl, 4⟩, ⟨10, 11, .rwl, 0⟩]⟩
  | .cmdCh0RingBase => ⟨0xD00208, [], 64, .ch0, false, [⟨0, 64, .rwl, 0⟩]⟩
  | .cmdCh0CqBase => ⟨0xD00210, [], 64, .ch0, false, [⟨0, 64, .rwl, 0⟩]⟩
  | .cmdChState => ⟨0xD10000, [(0x20, 1024)], 64, .never, false, [⟨0, 2, .ro, 0⟩, ⟨2, 1, .ro, 0⟩, ⟨3, 4, .ro, 0⟩, ⟨7, 8, .ro, 0⟩, ⟨15, 1, .ro, 0⟩, ⟨16, 6, .ro, 0⟩, ⟨22, 16, .ro, 0⟩, ⟨38, 16, .ro, 0⟩]⟩
  | .cmdChProgress => ⟨0xD10008, [(0x20, 1024)], 64, .never, false, [⟨0, 32, .ro, 0⟩, ⟨32, 10, .ro, 0⟩, ⟨42, 1, .ro, 0⟩]⟩
  | .cmdUcInfo => ⟨0xD00300, [], 64, .never, false, [⟨0, 16, .ro, 256⟩, ⟨16, 16, .ro, 0⟩, ⟨32, 7, .ro, 0⟩]⟩
  | .cmdUcMatch => ⟨0xD00400, [(0x8, 64)], 32, .never, false, [⟨0, 15, .ro, 0⟩, ⟨15, 10, .ro, 0⟩, ⟨25, 1, .ro, 0⟩]⟩
  | .cmdEvtChan => ⟨0xD00600, [], 32, .cfg, false, [⟨0, 32, .rw, 0⟩]⟩
  | .cmdTugCq => ⟨0xD00700, [(0x8, 16)], 64, .cfg, false, [⟨0, 32, .rw, 0⟩, ⟨32, 4, .rw, 4⟩]⟩
  | .cmdCntExec => ⟨0xD00800, [(0x8, 8)], 64, .never, false, [⟨0, 64, .rc, 0⟩]⟩
  | .cmdCntMc => ⟨0xD00840, [(0x8, 8)], 64, .never, false, [⟨0, 64, .rc, 0⟩]⟩
  | .cmdCntSliceTrap => ⟨0xD00880, [], 64, .never, false, [⟨0, 64, .rc, 0⟩]⟩
  | .cmdCntParkFull => ⟨0xD00888, [], 64, .never, false, [⟨0, 64, .rc, 0⟩]⟩
  | .cmdCntStaleDb => ⟨0xD00890, [], 64, .never, false, [⟨0, 64, .rc, 0⟩]⟩
  | .cmdCntBadDb => ⟨0xD00898, [], 64, .never, false, [⟨0, 64, .rc, 0⟩]⟩
  | .cmdCntCloseDrop => ⟨0xD008A0, [], 64, .never, false, [⟨0, 64, .rc, 0⟩]⟩
  | .cmdCntEvtDropped => ⟨0xD008A8, [], 64, .never, false, [⟨0, 64, .rc, 0⟩]⟩
  | .tugCoreCfg => ⟨0xE00000, [(0x100, 16)], 32, .cfg, false, [⟨0, 10, .rw, 100⟩, ⟨10, 1, .rw, 0⟩]⟩
  | .tugCoreStatus => ⟨0xE00008, [(0x100, 16)], 32, .never, false, [⟨0, 9, .ro, 0⟩, ⟨9, 1, .ro, 1⟩, ⟨10, 1, .ro, 0⟩, ⟨11, 5, .ro, 0⟩]⟩
  | .tugCcntCfg => ⟨0xE00020, [(0x100, 16), (0x8, 4)], 32, .cfg, false, [⟨0, 5, .rw, 0⟩, ⟨5, 2, .rw, 0⟩, ⟨7, 1, .rw, 0⟩, ⟨8, 9, .rw, 0⟩, ⟨17, 1, .rw, 0⟩, ⟨18, 1, .rw, 0⟩]⟩
  | .tugCcntStatus => ⟨0xE00040, [(0x100, 16)], 32, .cfg, false, [⟨0, 4, .w1c, 0⟩]⟩
  | .tugTaskState => ⟨0xE10000, [(0x10, 512)], 64, .never, false, [⟨0, 3, .ro, 0⟩, ⟨3, 5, .ro, 0⟩, ⟨8, 8, .ro, 0⟩, ⟨16, 4, .ro, 0⟩, ⟨20, 2, .ro, 0⟩, ⟨32, 32, .ro, 0⟩]⟩
  | .tugMboxCfg => ⟨0xE20000, [(0x10, 64)], 32, .cfg, false, [⟨0, 1, .rw, 0⟩, ⟨1, 9, .rw, 0⟩, ⟨10, 5, .rw, 0⟩]⟩
  | .tugExqCfg => ⟨0xE30000, [], 64, .cfg, false, [⟨0, 24, .rw, 7340032⟩, ⟨24, 4, .rw, 12⟩, ⟨28, 9, .rw, 0⟩, ⟨37, 4, .rw, 0⟩]⟩
  | .tugTbaseDefault => ⟨0xE30008, [], 64, .cfg, false, [⟨0, 64, .rw, 0⟩]⟩
  | .tugSyswdCfg => ⟨0xE30100, [], 32, .cfg, false, [⟨0, 1, .rwl, 0⟩, ⟨1, 16, .rw, 1000⟩]⟩
  | .tugCntCollision => ⟨0xE31000, [], 64, .never, false, [⟨0, 64, .rc, 0⟩]⟩
  | .tugCntMboxRefused => ⟨0xE31008, [], 64, .never, false, [⟨0, 64, .rc, 0⟩]⟩
  | .tugCntExqDropped => ⟨0xE31010, [], 64, .never, false, [⟨0, 64, .rc, 0⟩]⟩
  | .tugCntExqNobuf => ⟨0xE31018, [], 64, .never, false, [⟨0, 64, .rc, 0⟩]⟩
  | .tugCntCoreReset => ⟨0xE31020, [], 64, .never, false, [⟨0, 64, .rc, 0⟩]⟩
  | .tugCntSyswdBad => ⟨0xE31028, [], 64, .never, false, [⟨0, 64, .rc, 0⟩]⟩
  | .tugCntEccCorr => ⟨0xE31030, [], 64, .never, false, [⟨0, 64, .rc, 0⟩]⟩
  | .pmcCntCfg => ⟨0xF00000, [(0x20, 32)], 64, .cfg, false, [⟨0, 16, .rw, 0⟩, ⟨16, 8, .rw, 0⟩, ⟨24, 8, .rw, 0⟩, ⟨32, 2, .rw, 0⟩, ⟨34, 8, .rw, 255⟩, ⟨42, 1, .rw, 0⟩, ⟨43, 1, .rw, 0⟩]⟩
  | .pmcCntAddr => ⟨0xF00008, [(0x20, 32)], 64, .cfg, false, [⟨0, 26, .rw, 0⟩, ⟨26, 26, .rw, 0⟩]⟩
  | .pmcCntValue => ⟨0xF00010, [(0x20, 32)], 64, .cfg, false, [⟨0, 48, .rw, 0⟩, ⟨63, 1, .w1c, 0⟩]⟩
  | .pmcCntShadow => ⟨0xF00018, [(0x20, 32)], 64, .never, false, [⟨0, 48, .ro, 0⟩, ⟨63, 1, .ro, 0⟩]⟩
  | .pmcSnapshot => ⟨0xF00800, [], 32, .cfg, false, [⟨0, 1, .wo, 0⟩]⟩
  | .pmcSampleCfg => ⟨0xF00900, [], 64, .cfg, false, [⟨0, 1, .rw, 0⟩, ⟨1, 5, .rw, 12⟩, ⟨12, 37, .rw, 0⟩]⟩
  | .pmcSampleHead => ⟨0xF00908, [], 32, .every, false, [⟨0, 20, .wo, 0⟩]⟩
  | .pmcSampleTail => ⟨0xF00910, [], 32, .never, false, [⟨0, 20, .ro, 0⟩]⟩
  | .pmcCntCollision => ⟨0xF00A00, [], 64, .never, false, [⟨0, 64, .rc, 0⟩]⟩
  | .pmcCntSampleLost => ⟨0xF00A08, [], 64, .never, false, [⟨0, 64, .rc, 0⟩]⟩
  | .hostErrStatus => ⟨0xC00000, [], 32, .every, false, [⟨0, 21, .w1c, 0⟩]⟩
  | .hostErrMask => ⟨0xC00004, [], 32, .every, false, [⟨0, 21, .rw, 0⟩]⟩
  | .hostErrVec => ⟨0xC00008, [], 32, .cfg, false, [⟨0, 11, .rw, 0⟩]⟩
  | .hostDmaCfg => ⟨0xC00010, [], 32, .cfg, false, [⟨0, 16, .rw, 50⟩]⟩
  | .hostChErr => ⟨0xC10000, [(0x10, 1024)], 128, .never, false, [⟨0, 1, .ro, 0⟩, ⟨1, 2, .ro, 0⟩, ⟨64, 64, .ro, 0⟩]⟩
  | .hostChCntEntries => ⟨0xC20000, [(0x20, 1024)], 64, .never, false, [⟨0, 64, .rc, 0⟩]⟩
  | .hostChCntNoDesc => ⟨0xC20008, [(0x20, 1024)], 64, .never, false, [⟨0, 64, .rc, 0⟩]⟩
  | .hostChCntDropped => ⟨0xC20010, [(0x20, 1024)], 64, .never, false, [⟨0, 64, .rc, 0⟩]⟩
  | .hostChCntBadDesc => ⟨0xC20018, [(0x20, 1024)], 64, .never, false, [⟨0, 64, .rc, 0⟩]⟩
  | .hostCntBar4Outside => ⟨0xC00100, [], 64, .never, false, [⟨0, 64, .rc, 0⟩]⟩
  | .logCfg => ⟨0x1000000, [], 64, .cfg, false, [⟨0, 1, .rwl, 0⟩, ⟨1, 7, .rwl, 92⟩, ⟨8, 16, .rw, 200⟩]⟩
  | .logStatus => ⟨0x1000008, [], 32, .never, false, [⟨0, 2, .ro, 0⟩, ⟨2, 7, .ro, 0⟩]⟩
  | .logSrcCap => ⟨0x100010C, [(0x4, 4)], 32, .cfg, false, [⟨0, 1, .rw, 0⟩, ⟨1, 4, .rw, 0⟩]⟩
  | .logZoneCap => ⟨0x1010000, [(0x4, 4096)], 32, .cfg, false, [⟨0, 2, .rw, 0⟩, ⟨2, 4, .rw, 0⟩, ⟨6, 8, .rw, 0⟩]⟩
  | .logDriveCfg => ⟨0x1001000, [(0x40, 4)], 64, .cfg, false, [⟨0, 1, .rw, 0⟩, ⟨1, 1, .rw, 1⟩, ⟨2, 32, .rw, 1⟩, ⟨34, 16, .rw, 1040⟩]⟩
  | .logDriveStatus => ⟨0x1001008, [(0x40, 4)], 64, .never, false, [⟨0, 2, .ro, 0⟩, ⟨2, 1, .ro, 0⟩, ⟨3, 24, .ro, 0⟩, ⟨28, 36, .ro, 0⟩]⟩
  | .logPartStatus => ⟨0x1002000, [(0x40, 16)], 64, .never, false, [⟨0, 2, .ro, 0⟩, ⟨2, 1, .ro, 0⟩, ⟨32, 32, .ro, 0⟩]⟩
  | .logCntRecords => ⟨0x1002010, [(0x40, 16)], 64, .never, false, [⟨0, 64, .rc, 0⟩]⟩
  | .logCntLost => ⟨0x1002018, [(0x40, 16)], 64, .never, false, [⟨0, 64, .rc, 0⟩]⟩
  | .logCntSealed => ⟨0x1002020, [(0x40, 16)], 64, .never, false, [⟨0, 64, .rc, 0⟩]⟩
  | .logCntRetired => ⟨0x1002028, [(0x40, 16)], 64, .never, false, [⟨0, 64, .rc, 0⟩]⟩
  | .logCntRelocated => ⟨0x1002030, [(0x40, 16)], 64, .never, false, [⟨0, 64, .rc, 0⟩]⟩
  | .logCntNoPart => ⟨0x1003000, [], 64, .never, false, [⟨0, 64, .rc, 0⟩]⟩
  | .sysMode => ⟨0x0, [], 32, .never, false, [⟨0, 3, .ro, 0⟩, ⟨3, 16, .ro, 0⟩]⟩
  | .sysStatus => ⟨0x8, [], 32, .never, false, [⟨0, 3, .ro, 0⟩, ⟨3, 1, .ro, 0⟩, ⟨4, 4, .ro, 0⟩, ⟨8, 11, .ro, 0⟩, ⟨19, 1, .ro, 0⟩, ⟨20, 1, .ro, 0⟩]⟩
  | .sysHborCause => ⟨0x10, [], 32, .every, false, [⟨0, 7, .w1c, 0⟩, ⟨8, 8, .ro, 0⟩]⟩
  | .sysReset => ⟨0x18, [], 32, .every, false, [⟨0, 32, .wo, 0⟩]⟩
  | .sysDrydockCtl => ⟨0x100, [], 32, .drydock, false, [⟨0, 6, .rw, 0⟩, ⟨6, 1, .wo, 0⟩]⟩
  | .sysDrydockStatus => ⟨0x108, [], 32, .never, false, [⟨0, 1, .ro, 0⟩, ⟨1, 6, .ro, 0⟩]⟩
  | .sysDrydockPort => ⟨0x1000, [(0x8, 130)], 64, .drydock, false, [⟨0, 2, .rw, 0⟩, ⟨32, 32, .rc, 0⟩]⟩
  | .sysCntSlackDiscard => ⟨0x2000, [(0x8, 16)], 64, .never, false, [⟨0, 64, .rc, 0⟩]⟩
  | .hborCfg => ⟨0x1400000, [], 64, .cfg, false, [⟨0, 1, .rw, 0⟩, ⟨1, 1, .rw, 0⟩, ⟨2, 16, .rw, 1000⟩, ⟨18, 24, .rw, 10000⟩]⟩
  | .hborStatus => ⟨0x1400008, [], 64, .never, false, [⟨0, 1, .ro, 0⟩, ⟨1, 1, .ro, 0⟩, ⟨2, 1, .ro, 0⟩, ⟨3, 13, .ro, 0⟩, ⟨16, 13, .ro, 4096⟩]⟩
  | .hborPortCfg => ⟨0x1401000, [(0x1000, 2), (0x10, 130)], 64, .cfg, false, [⟨0, 1, .rw, 0⟩, ⟨1, 12, .rw, 1⟩, ⟨13, 1, .rw, 0⟩, ⟨14, 4, .rw, 15⟩, ⟨18, 12, .rw, 256⟩]⟩
  | .hborGclHdr => ⟨0x1410000, [(0x2000, 2), (0x20, 130)], 256, .cfg, false, [⟨0, 64, .rw, 0⟩, ⟨64, 32, .rw, 0⟩, ⟨96, 32, .rw, 0⟩, ⟨128, 16, .rw, 0⟩, ⟨144, 7, .rw, 0⟩]⟩
  | .hborGcl => ⟨0x1420000, [(0x20000, 2), (0x200, 130), (0x8, 64)], 64, .cfg, false, [⟨0, 64, .rw, 0⟩]⟩
  | .hborEntry => ⟨0x1480000, [(0x40000, 2), (0x40, 4096)], 320, .cfg, false, [⟨0, 48, .rw, 0⟩, ⟨48, 12, .rw, 0⟩, ⟨60, 1, .rw, 0⟩, ⟨61, 8, .rw, 0⟩, ⟨69, 3, .rw, 0⟩, ⟨72, 1, .rw, 0⟩, ⟨73, 10, .rw, 0⟩, ⟨83, 2, .rw, 0⟩, ⟨85, 4, .rw, 0⟩, ⟨89, 12, .rw, 0⟩, ⟨128, 128, .rw, 0⟩, ⟨256, 1, .rw, 0⟩, ⟨257, 1, .rw, 0⟩]⟩
  | .hborRed => ⟨0x1460000, [(0x10, 1024)], 128, .never, false, [⟨0, 16, .ro, 0⟩, ⟨16, 1, .ro, 1⟩, ⟨17, 32, .ro, 0⟩, ⟨64, 32, .ro, 0⟩, ⟨96, 32, .ro, 0⟩]⟩
  | .hborCntDrainDrop => ⟨0x1403000, [], 64, .never, false, [⟨0, 64, .rc, 0⟩]⟩
  | .hborCntAbandoned => ⟨0x1403008, [], 64, .never, false, [⟨0, 64, .rc, 0⟩]⟩
  | .hborCntCfSkipped => ⟨0x1403010, [], 64, .never, false, [⟨0, 64, .rc, 0⟩]⟩
  | .hborCntRx => ⟨0x1404000, [(0x40, 130)], 64, .never, false, [⟨0, 64, .rc, 0⟩]⟩
  | .hborCntMiss => ⟨0x1404008, [(0x40, 130)], 64, .never, false, [⟨0, 64, .rc, 0⟩]⟩
  | .hborCntOversize => ⟨0x1404010, [(0x40, 130)], 64, .never, false, [⟨0, 64, .rc, 0⟩]⟩
  | .hborCntDiscard => ⟨0x1404018, [(0x40, 130)], 64, .never, false, [⟨0, 64, .rc, 0⟩]⟩
  | .hborCntQfull => ⟨0x1404020, [(0x40, 130)], 64, .never, false, [⟨0, 64, .rc, 0⟩]⟩
  | .hborCntNobuf => ⟨0x1404028, [(0x40, 130)], 64, .never, false, [⟨0, 64, .rc, 0⟩]⟩
  | .hborCntTooLong => ⟨0x1404030, [(0x40, 130)], 64, .never, false, [⟨0, 64, .rc, 0⟩]⟩
  | .hborCntTx => ⟨0x1404038, [(0x40, 130)], 64, .never, false, [⟨0, 64, .rc, 0⟩]⟩
  | .rasMcPolicy => ⟨0x1300000, [], 64, .cfg, false, [⟨0, 20, .rwl, 0⟩]⟩
  | .rasMcStatus => ⟨0x1300008, [], 32, .every, false, [⟨0, 10, .w1c, 0⟩]⟩
  | .rasMcLog => ⟨0x1300100, [(0x20, 10)], 256, .never, false, [⟨0, 32, .ro, 0⟩, ⟨32, 8, .ro, 0⟩, ⟨64, 64, .ro, 0⟩, ⟨128, 128, .ro, 0⟩]⟩
  | .rasSealCfg => ⟨0x1300400, [], 64, .cfg, false, [⟨0, 16, .rw, 16⟩, ⟨16, 32, .rw, 1000⟩]⟩
  | .rasEvtChan => ⟨0x1300408, [], 32, .cfg, false, [⟨0, 32, .rw, 0⟩]⟩
  | .rasCntCorr => ⟨0x1301000, [(0x8, 14)], 64, .never, false, [⟨0, 64, .rc, 0⟩]⟩
  | .rasCntSealFail => ⟨0x1301100, [(0x8, 16)], 64, .never, false, [⟨0, 64, .rc, 0⟩]⟩
  | .rasCntEvtDropped => ⟨0x1301180, [], 64, .never, false, [⟨0, 64, .rc, 0⟩]⟩
  | .sealCfg => ⟨0x1100000, [(0x100, 16)], 32, .cfg, false, [⟨0, 2, .rw, 0⟩, ⟨2, 1, .rw, 0⟩, ⟨3, 1, .rw, 0⟩]⟩
  | .sealPoly => ⟨0x1100008, [(0x100, 16)], 128, .cfg, false, [⟨0, 32, .rw, 0⟩, ⟨32, 32, .rw, 0⟩, ⟨64, 32, .rw, 0⟩, ⟨96, 1, .rw, 0⟩]⟩
  | .sealSrc => ⟨0x1100018, [(0x100, 16)], 64, .cfg, false, [⟨0, 37, .rw, 0⟩, ⟨37, 27, .rw, 0⟩]⟩
  | .sealCtl => ⟨0x1100020, [(0x100, 16)], 32, .cfg, false, [⟨0, 1, .wo, 0⟩, ⟨1, 1, .wo, 0⟩, ⟨2, 1, .wo, 0⟩, ⟨3, 2, .ro, 0⟩, ⟨5, 1, .ro, 0⟩]⟩
  | .sealData => ⟨0x1100028, [(0x100, 16)], 64, .cfg, false, [⟨0, 64, .wo, 0⟩]⟩
  | .sealFold => ⟨0x1100030, [(0x100, 16)], 64, .cfg, false, [⟨0, 64, .rw, 0⟩]⟩
  | .sealRunning => ⟨0x1100038, [(0x100, 16)], 64, .cfg, false, [⟨0, 64, .rw, 0⟩]⟩
  | .sealExpect => ⟨0x1100040, [(0x100, 16)], 64, .cfg, false, [⟨0, 64, .rw, 0⟩]⟩
  | .sealResult => ⟨0x1100048, [(0x100, 16)], 64, .cfg, false, [⟨0, 64, .ro, 0⟩]⟩
  | .secStatus => ⟨0x1200000, [], 64, .never, false, [⟨0, 7, .ro, 0⟩, ⟨7, 6, .ro, 0⟩, ⟨13, 2, .ro, 0⟩, ⟨15, 1, .ro, 0⟩, ⟨16, 1, .ro, 0⟩, ⟨17, 1, .ro, 0⟩]⟩
  | .secArbAdvance => ⟨0x1200010, [], 32, .moored, false, [⟨0, 7, .wo, 0⟩, ⟨7, 6, .wo, 0⟩]⟩
  | .secOwnerProg => ⟨0x1200020, [], 320, .moored, false, [⟨0, 256, .wo, 0⟩, ⟨256, 1, .wo, 0⟩, ⟨257, 1, .wo, 0⟩, ⟨258, 1, .wo, 0⟩]⟩
  | .secAttNonce => ⟨0x1200100, [], 256, .cfg, false, [⟨0, 256, .rw, 0⟩]⟩
  | .secAttCtl => ⟨0x1200120, [], 64, .cfg, false, [⟨0, 1, .wo, 0⟩, ⟨1, 1, .ro, 0⟩, ⟨2, 1, .w1c, 0⟩, ⟨3, 8, .ro, 0⟩, ⟨12, 37, .rw, 0⟩]⟩
  | .secCntRefused => ⟨0x1200200, [], 64, .never, false, [⟨0, 64, .rc, 0⟩]⟩
  | .sysTemp => ⟨0x300, [], 64, .cfg, false, [⟨0, 8, .ro, 0⟩, ⟨8, 8, .ro, 0⟩, ⟨16, 8, .rw, 100⟩, ⟨24, 1, .w1c, 0⟩, ⟨25, 4, .ro, 0⟩]⟩
  | .sysAvs => ⟨0x308, [], 32, .never, false, [⟨0, 5, .ro, 0⟩, ⟨5, 5, .ro, 10⟩, ⟨10, 1, .ro, 0⟩, ⟨11, 1, .ro, 0⟩]⟩
  | .sysStrap => ⟨0x310, [], 32, .never, false, [⟨0, 1, .ro, 0⟩, ⟨1, 1, .ro, 0⟩]⟩

/-- All registers, in the order of the declaration. -/
def allRegs0 : List Reg := [.quayPilotCtrl, .quayPilotStatus, .quayParsePolicy, .quayCntParseDepth, .quayCntParseLen, .quayCntParseBudget, .quayCntProgramFault, .quayCntFragFirst, .quayCntFragHit, .quayCntFragNofirst, .quayCntFragTblFull, .quayCntNoDest, .quayFragStatus, .quayFragFlush, .quayBwCfg, .quayBwChan, .quayBwPass, .quayBwRefuse, .tblGenStatus, .tblGenInflight0, .tblGenInflight1, .tblDesc, .tblEmPart, .tblEmSeed, .tblEmStatus, .tblLpmStatus, .tblRange, .tblHashSeed, .tblHashFunc, .tblLearnCfg, .tblLearnChan, .tblCntEmFull, .tblCntStashIns, .tblCntLpmFull, .tblCntLearnPosted, .tblCntLearnSuppressed, .tblCntLearnDropped, .tblCntAged, .tblCntParity, .tblCntRepaired, .tblCntUnrepaired, .tblCntZoneDenied, .ledgerCfg, .ledgerStatus, .ledgerSeedSlice, .ledgerSeedTable, .ledgerRegionA, .ledgerRegionB, .ledgerRehashRate, .ledgerPolicy, .ledgerExportChan, .ledgerAgeProfile, .ledgerProg, .ledgerProgSlice, .ledgerLibParam, .ledgerLibSeq, .ledgerMeterProfile, .ledgerSliceStatus, .ledgerSliceRecords, .ledgerCntHit]
def allRegs1 : List Reg := [.ledgerCntMiss, .ledgerCntNew, .ledgerCntNoroom, .ledgerCntAltRead, .ledgerCntAged, .ledgerCntParity, .ledgerCntMigrated, .ledgerCntExportDropped, .ledgerCntProgramFault, .egrMirrorCfg, .egrMirrorDest, .egrCntTx, .egrCntProgDrop, .egrCntProgramFault, .egrCntStripInvalid, .egrCntTooLong, .egrCntCsumSkipped, .egrCntCfSkipped, .egrCntRecirc, .egrCntPruned, .egrCntCopies, .egrMirrorCntReq, .egrMirrorCntTaken, .bufPoolCfg, .bufPoolStatus, .bufSharedStatus, .bufHbmPool, .bufPgCfg, .bufPgHdrm, .bufQUsed, .bufQCfg, .bufCntPoolEmpty, .bufCntSpill, .bufCntPromoted, .bufCntQThreshold, .bufCntHdrmOverflow, .bufCntNotOwner, .bufCntAlreadyFree, .bufCntSealUnchecked, .bufCntReadIdle, .tmQMap, .tmSubNode, .tmSvcNode, .tmShaperProfile, .tmMeterProfile, .tmPortCfg, .tmPortCfg2, .tmPortStatus, .tmClassCfg, .tmClassCbs, .tmGclStatus, .tmCntDropPortDown, .tmCntFlushed, .tmCntAge, .tmCntTooLong, .tmCntWindowPassed, .tmCntGateLate, .tmCntGclStep, .tmCntGclChange, .tmCntSelected]
def allRegs2 : List Reg := [.tmAgeProfile, .tmLatCfg, .tmLatCount, .tmLatMin, .tmLatMax, .tmLatSum, .tmLatBin, .tmCntQDisabled, .tmCntQPortMismatch, .tmCntMeterSweep, .portPbMode, .portCfg, .portFlowctl, .portPfcWd, .portLpi, .portPreempt, .portStatus, .portMac, .portFfGroup, .portFfMember, .portEvtChan, .portCntRxOctets, .portCntRxFrames, .portCntRxMcast, .portCntRxBcast, .portCntRxFcs, .portCntRxRunt, .portCntRxOversize, .portCntRxStaging, .portCntRxCtlDiscard, .portCntRxPause, .portCntRxPfc, .portCntTxOctets, .portCntTxFrames, .portCntTxPause, .portCntTxPfc, .portCntTxAborted, .portCntFecCorr, .portCntFecUncorr, .portCntRxLpi, .portCntTxLpi, .portCntPfcStorm, .portCntStormDrop, .portCntFragments, .portCntLinkDown, .portCntRxModeDiscard, .timeTbCfg, .timeTbServo, .timeTbHold, .timeTbStatus, .timeTbRate, .timeTbOffset, .timeTbPdelay, .timeTbAsym, .timeTbNow, .timeTlNow, .timeXgCfg, .timeXgNominal, .timePortCfg, .timePortCal]
def allRegs3 : List Reg := [.timePortKtx, .timeTxtsData, .timeTxtsStatus, .timePpsOut, .timePpsIn, .timePpsInLast, .timeDpllCfg, .timeDpllPrio, .timeDpllStatus, .timeRclkSel, .timeSynceTx, .timeEvtChan, .timeTxtsChan, .timeCntMeas, .timeCntMeasStale, .timeCntJump, .timeCntStep, .timeCntPathStep, .timeCntIsolated, .timeCntTxtsLost, .timeCntTxtsFlushed, .timeCntHeldFull, .timeCntPredictErr, .cmdCfg, .cmdEngineStatus, .cmdEngineCtl, .cmdMcLog, .cmdCh0Cfg, .cmdCh0RingBase, .cmdCh0CqBase, .cmdChState, .cmdChProgress, .cmdUcInfo, .cmdUcMatch, .cmdEvtChan, .cmdTugCq, .cmdCntExec, .cmdCntMc, .cmdCntSliceTrap, .cmdCntParkFull, .cmdCntStaleDb, .cmdCntBadDb, .cmdCntCloseDrop, .cmdCntEvtDropped, .tugCoreCfg, .tugCoreStatus, .tugCcntCfg, .tugCcntStatus, .tugTaskState, .tugMboxCfg, .tugExqCfg, .tugTbaseDefault, .tugSyswdCfg, .tugCntCollision, .tugCntMboxRefused, .tugCntExqDropped, .tugCntExqNobuf, .tugCntCoreReset, .tugCntSyswdBad, .tugCntEccCorr]
def allRegs4 : List Reg := [.pmcCntCfg, .pmcCntAddr, .pmcCntValue, .pmcCntShadow, .pmcSnapshot, .pmcSampleCfg, .pmcSampleHead, .pmcSampleTail, .pmcCntCollision, .pmcCntSampleLost, .hostErrStatus, .hostErrMask, .hostErrVec, .hostDmaCfg, .hostChErr, .hostChCntEntries, .hostChCntNoDesc, .hostChCntDropped, .hostChCntBadDesc, .hostCntBar4Outside, .logCfg, .logStatus, .logSrcCap, .logZoneCap, .logDriveCfg, .logDriveStatus, .logPartStatus, .logCntRecords, .logCntLost, .logCntSealed, .logCntRetired, .logCntRelocated, .logCntNoPart, .sysMode, .sysStatus, .sysHborCause, .sysReset, .sysDrydockCtl, .sysDrydockStatus, .sysDrydockPort, .sysCntSlackDiscard, .hborCfg, .hborStatus, .hborPortCfg, .hborGclHdr, .hborGcl, .hborEntry, .hborRed, .hborCntDrainDrop, .hborCntAbandoned, .hborCntCfSkipped, .hborCntRx, .hborCntMiss, .hborCntOversize, .hborCntDiscard, .hborCntQfull, .hborCntNobuf, .hborCntTooLong, .hborCntTx, .rasMcPolicy]
def allRegs5 : List Reg := [.rasMcStatus, .rasMcLog, .rasSealCfg, .rasEvtChan, .rasCntCorr, .rasCntSealFail, .rasCntEvtDropped, .sealCfg, .sealPoly, .sealSrc, .sealCtl, .sealData, .sealFold, .sealRunning, .sealExpect, .sealResult, .secStatus, .secArbAdvance, .secOwnerProg, .secAttNonce, .secAttCtl, .secCntRefused, .sysTemp, .sysAvs, .sysStrap]
def allRegs : List Reg := allRegs0 ++ allRegs1 ++ allRegs2 ++ allRegs3 ++ allRegs4 ++ allRegs5

/-! The fields by name: `F.<register>_<field>`. -/
namespace F
abbrev quayPilotCtrl_dispatchEn : Fld := ⟨.quayPilotCtrl, 0, 1⟩
abbrev quayPilotCtrl_ctxMax : Fld := ⟨.quayPilotCtrl, 1, 3⟩
abbrev quayPilotStatus_busy : Fld := ⟨.quayPilotStatus, 0, 10⟩
abbrev quayPilotStatus_waiting : Fld := ⟨.quayPilotStatus, 16, 11⟩
abbrev quayParsePolicy_lenAct : Fld := ⟨.quayParsePolicy, 0, 2⟩
abbrev quayParsePolicy_depthCopy : Fld := ⟨.quayParsePolicy, 2, 1⟩
abbrev quayParsePolicy_nofirstAct : Fld := ⟨.quayParsePolicy, 3, 1⟩
abbrev quayParsePolicy_tblfullCopy : Fld := ⟨.quayParsePolicy, 4, 1⟩
abbrev quayCntParseDepth : Fld := ⟨.quayCntParseDepth, 0, 64⟩
abbrev quayCntParseLen : Fld := ⟨.quayCntParseLen, 0, 64⟩
abbrev quayCntParseBudget : Fld := ⟨.quayCntParseBudget, 0, 64⟩
abbrev quayCntProgramFault : Fld := ⟨.quayCntProgramFault, 0, 64⟩
abbrev quayCntFragFirst : Fld := ⟨.quayCntFragFirst, 0, 64⟩
abbrev quayCntFragHit : Fld := ⟨.quayCntFragHit, 0, 64⟩
abbrev quayCntFragNofirst : Fld := ⟨.quayCntFragNofirst, 0, 64⟩
abbrev quayCntFragTblFull : Fld := ⟨.quayCntFragTblFull, 0, 64⟩
abbrev quayCntNoDest : Fld := ⟨.quayCntNoDest, 0, 64⟩
abbrev quayFragStatus_used : Fld := ⟨.quayFragStatus, 0, 17⟩
abbrev quayFragFlush_flush : Fld := ⟨.quayFragFlush, 0, 1⟩
abbrev quayBwCfg_rate : Fld := ⟨.quayBwCfg, 0, 24⟩
abbrev quayBwCfg_burst : Fld := ⟨.quayBwCfg, 24, 16⟩
abbrev quayBwCfg_snap : Fld := ⟨.quayBwCfg, 40, 8⟩
abbrev quayBwChan_handle : Fld := ⟨.quayBwChan, 0, 32⟩
abbrev quayBwPass : Fld := ⟨.quayBwPass, 0, 64⟩
abbrev quayBwRefuse : Fld := ⟨.quayBwRefuse, 0, 64⟩
abbrev tblGenStatus_active : Fld := ⟨.tblGenStatus, 0, 1⟩
abbrev tblGenStatus_g0State : Fld := ⟨.tblGenStatus, 1, 2⟩
abbrev tblGenStatus_g1State : Fld := ⟨.tblGenStatus, 3, 2⟩
abbrev tblGenInflight0_count : Fld := ⟨.tblGenInflight0, 0, 32⟩
abbrev tblGenInflight1_count : Fld := ⟨.tblGenInflight1, 0, 32⟩
abbrev tblDesc_desc : Fld := ⟨.tblDesc, 0, 64⟩
abbrev tblEmPart_en : Fld := ⟨.tblEmPart, 0, 1⟩
abbrev tblEmPart_wide : Fld := ⟨.tblEmPart, 1, 1⟩
abbrev tblEmPart_keyw : Fld := ⟨.tblEmPart, 2, 5⟩
abbrev tblEmPart_base : Fld := ⟨.tblEmPart, 7, 15⟩
abbrev tblEmPart_log2size : Fld := ⟨.tblEmPart, 22, 4⟩
abbrev tblEmPart_ageEn : Fld := ⟨.tblEmPart, 26, 1⟩
abbrev tblEmPart_ageLimit : Fld := ⟨.tblEmPart, 27, 3⟩
abbrev tblEmPart_ageTick : Fld := ⟨.tblEmPart, 30, 16⟩
abbrev tblEmPart_ageNotify : Fld := ⟨.tblEmPart, 46, 1⟩
abbrev tblEmSeed_seed : Fld := ⟨.tblEmSeed, 0, 64⟩
abbrev tblEmStatus_unitsUsed : Fld := ⟨.tblEmStatus, 0, 20⟩
abbrev tblEmStatus_stashUsed : Fld := ⟨.tblEmStatus, 20, 10⟩
abbrev tblLpmStatus_unitsUsed : Fld := ⟨.tblLpmStatus, 0, 22⟩
abbrev tblLpmStatus_spareFree : Fld := ⟨.tblLpmStatus, 32, 19⟩
abbrev tblRange_lo : Fld := ⟨.tblRange, 0, 16⟩
abbrev tblRange_hi : Fld := ⟨.tblRange, 16, 16⟩
abbrev tblRange_off : Fld := ⟨.tblRange, 32, 5⟩
abbrev tblRange_en : Fld := ⟨.tblRange, 37, 1⟩
abbrev tblHashSeed_seed : Fld := ⟨.tblHashSeed, 0, 64⟩
abbrev tblHashFunc_func : Fld := ⟨.tblHashFunc, 0, 1⟩
abbrev tblLearnCfg_en : Fld := ⟨.tblLearnCfg, 0, 1⟩
abbrev tblLearnCfg_window : Fld := ⟨.tblLearnCfg, 1, 16⟩
abbrev tblLearnChan_handle : Fld := ⟨.tblLearnChan, 0, 32⟩
abbrev tblCntEmFull : Fld := ⟨.tblCntEmFull, 0, 64⟩
abbrev tblCntStashIns : Fld := ⟨.tblCntStashIns, 0, 64⟩
abbrev tblCntLpmFull : Fld := ⟨.tblCntLpmFull, 0, 64⟩
abbrev tblCntLearnPosted : Fld := ⟨.tblCntLearnPosted, 0, 64⟩
abbrev tblCntLearnSuppressed : Fld := ⟨.tblCntLearnSuppressed, 0, 64⟩
abbrev tblCntLearnDropped : Fld := ⟨.tblCntLearnDropped, 0, 64⟩
abbrev tblCntAged : Fld := ⟨.tblCntAged, 0, 64⟩
abbrev tblCntParity : Fld := ⟨.tblCntParity, 0, 64⟩
abbrev tblCntRepaired : Fld := ⟨.tblCntRepaired, 0, 64⟩
abbrev tblCntUnrepaired : Fld := ⟨.tblCntUnrepaired, 0, 64⟩
abbrev tblCntZoneDenied : Fld := ⟨.tblCntZoneDenied, 0, 64⟩
abbrev ledgerCfg_en : Fld := ⟨.ledgerCfg, 0, 1⟩
abbrev ledgerCfg_form : Fld := ⟨.ledgerCfg, 1, 1⟩
abbrev ledgerCfg_log2rec : Fld := ⟨.ledgerCfg, 2, 5⟩
abbrev ledgerStatus_state : Fld := ⟨.ledgerStatus, 0, 2⟩
abbrev ledgerStatus_region : Fld := ⟨.ledgerStatus, 2, 1⟩
abbrev ledgerSeedSlice_seed : Fld := ⟨.ledgerSeedSlice, 0, 64⟩
abbrev ledgerSeedTable_seed : Fld := ⟨.ledgerSeedTable, 0, 64⟩
abbrev ledgerRegionA_base : Fld := ⟨.ledgerRegionA, 0, 7⟩
abbrev ledgerRegionA_size : Fld := ⟨.ledgerRegionA, 7, 7⟩
abbrev ledgerRegionB_base : Fld := ⟨.ledgerRegionB, 0, 7⟩
abbrev ledgerRegionB_size : Fld := ⟨.ledgerRegionB, 7, 7⟩
abbrev ledgerRehashRate_rate : Fld := ⟨.ledgerRehashRate, 0, 13⟩
abbrev ledgerPolicy_noroomAct : Fld := ⟨.ledgerPolicy, 0, 2⟩
abbrev ledgerExportChan_handle : Fld := ⟨.ledgerExportChan, 0, 32⟩
abbrev ledgerAgeProfile_idleS : Fld := ⟨.ledgerAgeProfile, 0, 16⟩
abbrev ledgerAgeProfile_activeS : Fld := ⟨.ledgerAgeProfile, 16, 16⟩
abbrev ledgerProg_start : Fld := ⟨.ledgerProg, 0, 12⟩
abbrev ledgerProg_en : Fld := ⟨.ledgerProg, 12, 1⟩
abbrev ledgerProgSlice_sliceBytes : Fld := ⟨.ledgerProgSlice, 0, 6⟩
abbrev ledgerLibParam_log2blk : Fld := ⟨.ledgerLibParam, 0, 2⟩
abbrev ledgerLibParam_repick : Fld := ⟨.ledgerLibParam, 2, 1⟩
abbrev ledgerLibParam_redAct : Fld := ⟨.ledgerLibParam, 3, 1⟩
abbrev ledgerLibParam_invalidAct : Fld := ⟨.ledgerLibParam, 4, 2⟩
abbrev ledgerLibParam_midstream : Fld := ⟨.ledgerLibParam, 6, 1⟩
abbrev ledgerLibParam_tcpCause : Fld := ⟨.ledgerLibParam, 7, 6⟩
abbrev ledgerLibParam_tcpClass : Fld := ⟨.ledgerLibParam, 13, 32⟩
abbrev ledgerLibSeq_recoveryTimeoutUs : Fld := ⟨.ledgerLibSeq, 0, 24⟩
abbrev ledgerMeterProfile_mode : Fld := ⟨.ledgerMeterProfile, 0, 1⟩
abbrev ledgerMeterProfile_init : Fld := ⟨.ledgerMeterProfile, 1, 1⟩
abbrev ledgerMeterProfile_cir : Fld := ⟨.ledgerMeterProfile, 32, 32⟩
abbrev ledgerMeterProfile_eirPir : Fld := ⟨.ledgerMeterProfile, 64, 32⟩
abbrev ledgerMeterProfile_cbs : Fld := ⟨.ledgerMeterProfile, 96, 16⟩
abbrev ledgerMeterProfile_ebsPbs : Fld := ⟨.ledgerMeterProfile, 112, 16⟩
abbrev ledgerSliceStatus_berths : Fld := ⟨.ledgerSliceStatus, 0, 11⟩
abbrev ledgerSliceStatus_cacheUsed : Fld := ⟨.ledgerSliceStatus, 11, 17⟩
abbrev ledgerSliceStatus_pinned : Fld := ⟨.ledgerSliceStatus, 28, 15⟩
abbrev ledgerSliceStatus_stashUsed : Fld := ⟨.ledgerSliceStatus, 43, 13⟩
abbrev ledgerSliceRecords_used : Fld := ⟨.ledgerSliceRecords, 0, 26⟩
abbrev ledgerSliceRecords_pointer : Fld := ⟨.ledgerSliceRecords, 32, 24⟩
abbrev ledgerCntHit : Fld := ⟨.ledgerCntHit, 0, 64⟩
abbrev ledgerCntMiss : Fld := ⟨.ledgerCntMiss, 0, 64⟩
abbrev ledgerCntNew : Fld := ⟨.ledgerCntNew, 0, 64⟩
abbrev ledgerCntNoroom : Fld := ⟨.ledgerCntNoroom, 0, 64⟩
abbrev ledgerCntAltRead : Fld := ⟨.ledgerCntAltRead, 0, 64⟩
abbrev ledgerCntAged : Fld := ⟨.ledgerCntAged, 0, 64⟩
abbrev ledgerCntParity : Fld := ⟨.ledgerCntParity, 0, 64⟩
abbrev ledgerCntMigrated : Fld := ⟨.ledgerCntMigrated, 0, 64⟩
abbrev ledgerCntExportDropped : Fld := ⟨.ledgerCntExportDropped, 0, 64⟩
abbrev ledgerCntProgramFault : Fld := ⟨.ledgerCntProgramFault, 0, 64⟩
abbrev egrMirrorCfg_type : Fld := ⟨.egrMirrorCfg, 0, 2⟩
abbrev egrMirrorCfg_mode : Fld := ⟨.egrMirrorCfg, 2, 1⟩
abbrev egrMirrorCfg_nM1 : Fld := ⟨.egrMirrorCfg, 3, 24⟩
abbrev egrMirrorCfg_trunc : Fld := ⟨.egrMirrorCfg, 27, 8⟩
abbrev egrMirrorDest_queue : Fld := ⟨.egrMirrorDest, 0, 17⟩
abbrev egrMirrorDest_rewrite : Fld := ⟨.egrMirrorDest, 17, 17⟩
abbrev egrCntTx : Fld := ⟨.egrCntTx, 0, 64⟩
abbrev egrCntProgDrop : Fld := ⟨.egrCntProgDrop, 0, 64⟩
abbrev egrCntProgramFault : Fld := ⟨.egrCntProgramFault, 0, 64⟩
abbrev egrCntStripInvalid : Fld := ⟨.egrCntStripInvalid, 0, 64⟩
abbrev egrCntTooLong : Fld := ⟨.egrCntTooLong, 0, 64⟩
abbrev egrCntCsumSkipped : Fld := ⟨.egrCntCsumSkipped, 0, 64⟩
abbrev egrCntCfSkipped : Fld := ⟨.egrCntCfSkipped, 0, 64⟩
abbrev egrCntRecirc : Fld := ⟨.egrCntRecirc, 0, 64⟩
abbrev egrCntPruned : Fld := ⟨.egrCntPruned, 0, 64⟩
abbrev egrCntCopies : Fld := ⟨.egrCntCopies, 0, 64⟩
abbrev egrMirrorCntReq : Fld := ⟨.egrMirrorCntReq, 0, 64⟩
abbrev egrMirrorCntTaken : Fld := ⟨.egrMirrorCntTaken, 0, 64⟩
abbrev bufPoolCfg_rows : Fld := ⟨.bufPoolCfg, 0, 17⟩
abbrev bufPoolCfg_hr : Fld := ⟨.bufPoolCfg, 17, 21⟩
abbrev bufPoolCfg_promote : Fld := ⟨.bufPoolCfg, 38, 1⟩
abbrev bufPoolStatus_free : Fld := ⟨.bufPoolStatus, 0, 21⟩
abbrev bufPoolStatus_subMin : Fld := ⟨.bufPoolStatus, 21, 21⟩
abbrev bufSharedStatus_s : Fld := ⟨.bufSharedStatus, 0, 21⟩
abbrev bufSharedStatus_f : Fld := ⟨.bufSharedStatus, 21, 21⟩
abbrev bufHbmPool_base : Fld := ⟨.bufHbmPool, 0, 7⟩
abbrev bufHbmPool_size : Fld := ⟨.bufHbmPool, 7, 7⟩
abbrev bufHbmPool_bufsz : Fld := ⟨.bufHbmPool, 14, 4⟩
abbrev bufPgCfg_min : Fld := ⟨.bufPgCfg, 0, 16⟩
abbrev bufPgCfg_xoff : Fld := ⟨.bufPgCfg, 16, 16⟩
abbrev bufPgCfg_dyn : Fld := ⟨.bufPgCfg, 32, 1⟩
abbrev bufPgCfg_alpha : Fld := ⟨.bufPgCfg, 33, 4⟩
abbrev bufPgCfg_lossless : Fld := ⟨.bufPgCfg, 37, 1⟩
abbrev bufPgCfg_xonDelta : Fld := ⟨.bufPgCfg, 38, 16⟩
abbrev bufPgHdrm_hdrm : Fld := ⟨.bufPgHdrm, 0, 20⟩
abbrev bufQUsed_used : Fld := ⟨.bufQUsed, 0, 21⟩
abbrev bufQCfg_min : Fld := ⟨.bufQCfg, 0, 16⟩
abbrev bufQCfg_alpha : Fld := ⟨.bufQCfg, 16, 4⟩
abbrev bufQCfg_lossless : Fld := ⟨.bufQCfg, 20, 1⟩
abbrev bufCntPoolEmpty : Fld := ⟨.bufCntPoolEmpty, 0, 64⟩
abbrev bufCntSpill : Fld := ⟨.bufCntSpill, 0, 64⟩
abbrev bufCntPromoted : Fld := ⟨.bufCntPromoted, 0, 64⟩
abbrev bufCntQThreshold : Fld := ⟨.bufCntQThreshold, 0, 64⟩
abbrev bufCntHdrmOverflow : Fld := ⟨.bufCntHdrmOverflow, 0, 64⟩
abbrev bufCntNotOwner : Fld := ⟨.bufCntNotOwner, 0, 64⟩
abbrev bufCntAlreadyFree : Fld := ⟨.bufCntAlreadyFree, 0, 64⟩
abbrev bufCntSealUnchecked : Fld := ⟨.bufCntSealUnchecked, 0, 64⟩
abbrev bufCntReadIdle : Fld := ⟨.bufCntReadIdle, 0, 64⟩
abbrev tmQMap_en : Fld := ⟨.tmQMap, 0, 1⟩
abbrev tmQMap_ptype : Fld := ⟨.tmQMap, 1, 2⟩
abbrev tmQMap_parent : Fld := ⟨.tmQMap, 3, 15⟩
abbrev tmQMap_prio : Fld := ⟨.tmQMap, 18, 3⟩
abbrev tmQMap_weight : Fld := ⟨.tmQMap, 21, 8⟩
abbrev tmQMap_agep : Fld := ⟨.tmQMap, 29, 3⟩
abbrev tmSubNode_en : Fld := ⟨.tmSubNode, 0, 1⟩
abbrev tmSubNode_ptype : Fld := ⟨.tmSubNode, 1, 2⟩
abbrev tmSubNode_parent : Fld := ⟨.tmSubNode, 3, 15⟩
abbrev tmSubNode_prio : Fld := ⟨.tmSubNode, 18, 3⟩
abbrev tmSubNode_weight : Fld := ⟨.tmSubNode, 21, 8⟩
abbrev tmSubNode_disc : Fld := ⟨.tmSubNode, 29, 1⟩
abbrev tmSubNode_qunit : Fld := ⟨.tmSubNode, 30, 3⟩
abbrev tmSubNode_burst : Fld := ⟨.tmSubNode, 33, 8⟩
abbrev tmSubNode_shaper : Fld := ⟨.tmSubNode, 41, 11⟩
abbrev tmSubNode_shapeEn : Fld := ⟨.tmSubNode, 52, 1⟩
abbrev tmSvcNode_en : Fld := ⟨.tmSvcNode, 0, 1⟩
abbrev tmSvcNode_ptype : Fld := ⟨.tmSvcNode, 1, 2⟩
abbrev tmSvcNode_parent : Fld := ⟨.tmSvcNode, 3, 15⟩
abbrev tmSvcNode_prio : Fld := ⟨.tmSvcNode, 18, 3⟩
abbrev tmSvcNode_weight : Fld := ⟨.tmSvcNode, 21, 8⟩
abbrev tmSvcNode_disc : Fld := ⟨.tmSvcNode, 29, 1⟩
abbrev tmSvcNode_qunit : Fld := ⟨.tmSvcNode, 30, 3⟩
abbrev tmSvcNode_burst : Fld := ⟨.tmSvcNode, 33, 8⟩
abbrev tmSvcNode_shaper : Fld := ⟨.tmSvcNode, 41, 11⟩
abbrev tmSvcNode_shapeEn : Fld := ⟨.tmSvcNode, 52, 1⟩
abbrev tmShaperProfile_cir : Fld := ⟨.tmShaperProfile, 0, 32⟩
abbrev tmShaperProfile_pir : Fld := ⟨.tmShaperProfile, 32, 32⟩
abbrev tmShaperProfile_cbs : Fld := ⟨.tmShaperProfile, 64, 24⟩
abbrev tmShaperProfile_pbs : Fld := ⟨.tmShaperProfile, 88, 24⟩
abbrev tmShaperProfile_overhead : Fld := ⟨.tmShaperProfile, 112, 8⟩
abbrev tmShaperProfile_version : Fld := ⟨.tmShaperProfile, 120, 8⟩
abbrev tmMeterProfile_mode : Fld := ⟨.tmMeterProfile, 0, 1⟩
abbrev tmMeterProfile_init : Fld := ⟨.tmMeterProfile, 1, 1⟩
abbrev tmMeterProfile_cir : Fld := ⟨.tmMeterProfile, 32, 32⟩
abbrev tmMeterProfile_eirPir : Fld := ⟨.tmMeterProfile, 64, 32⟩
abbrev tmMeterProfile_cbs : Fld := ⟨.tmMeterProfile, 96, 16⟩
abbrev tmMeterProfile_ebsPbs : Fld := ⟨.tmMeterProfile, 112, 16⟩
abbrev tmPortCfg_en : Fld := ⟨.tmPortCfg, 0, 1⟩
abbrev tmPortCfg_disc : Fld := ⟨.tmPortCfg, 1, 1⟩
abbrev tmPortCfg_qunit : Fld := ⟨.tmPortCfg, 2, 3⟩
abbrev tmPortCfg_burst : Fld := ⟨.tmPortCfg, 5, 8⟩
abbrev tmPortCfg_shaper : Fld := ⟨.tmPortCfg, 13, 11⟩
abbrev tmPortCfg_shapeEn : Fld := ⟨.tmPortCfg, 24, 1⟩
abbrev tmPortCfg_linkHold : Fld := ⟨.tmPortCfg, 25, 10⟩
abbrev tmPortCfg_gateEn : Fld := ⟨.tmPortCfg, 35, 1⟩
abbrev tmPortCfg_gateBase : Fld := ⟨.tmPortCfg, 36, 4⟩
abbrev tmPortCfg_gateOverhead : Fld := ⟨.tmPortCfg, 40, 8⟩
abbrev tmPortCfg_lead : Fld := ⟨.tmPortCfg, 48, 11⟩
abbrev tmPortCfg2_ahead : Fld := ⟨.tmPortCfg2, 0, 16⟩
abbrev tmPortCfg2_preempt : Fld := ⟨.tmPortCfg2, 16, 8⟩
abbrev tmPortStatus_link : Fld := ⟨.tmPortStatus, 0, 1⟩
abbrev tmPortStatus_hold : Fld := ⟨.tmPortStatus, 1, 1⟩
abbrev tmPortStatus_paused : Fld := ⟨.tmPortStatus, 2, 1⟩
abbrev tmPortStatus_pfcPaused : Fld := ⟨.tmPortStatus, 3, 8⟩
abbrev tmPortStatus_gclOper : Fld := ⟨.tmPortStatus, 11, 1⟩
abbrev tmPortStatus_gclList : Fld := ⟨.tmPortStatus, 12, 1⟩
abbrev tmPortStatus_gclPending : Fld := ⟨.tmPortStatus, 13, 1⟩
abbrev tmPortStatus_outstanding : Fld := ⟨.tmPortStatus, 14, 4⟩
abbrev tmClassCfg_prio : Fld := ⟨.tmClassCfg, 0, 3⟩
abbrev tmClassCfg_weight : Fld := ⟨.tmClassCfg, 3, 8⟩
abbrev tmClassCfg_disc : Fld := ⟨.tmClassCfg, 11, 1⟩
abbrev tmClassCfg_qunit : Fld := ⟨.tmClassCfg, 12, 3⟩
abbrev tmClassCfg_burst : Fld := ⟨.tmClassCfg, 15, 8⟩
abbrev tmClassCfg_shaper : Fld := ⟨.tmClassCfg, 23, 11⟩
abbrev tmClassCfg_shapeEn : Fld := ⟨.tmClassCfg, 34, 1⟩
abbrev tmClassCfg_cbsEn : Fld := ⟨.tmClassCfg, 35, 1⟩
abbrev tmClassCfg_cycleBound : Fld := ⟨.tmClassCfg, 36, 1⟩
abbrev tmClassCbs_idleSlope : Fld := ⟨.tmClassCbs, 0, 32⟩
abbrev tmGclStatus_cycleNs : Fld := ⟨.tmGclStatus, 0, 32⟩
abbrev tmGclStatus_count : Fld := ⟨.tmGclStatus, 32, 9⟩
abbrev tmGclStatus_entry : Fld := ⟨.tmGclStatus, 41, 8⟩
abbrev tmGclStatus_gates : Fld := ⟨.tmGclStatus, 49, 8⟩
abbrev tmCntDropPortDown : Fld := ⟨.tmCntDropPortDown, 0, 64⟩
abbrev tmCntFlushed : Fld := ⟨.tmCntFlushed, 0, 64⟩
abbrev tmCntAge : Fld := ⟨.tmCntAge, 0, 64⟩
abbrev tmCntTooLong : Fld := ⟨.tmCntTooLong, 0, 64⟩
abbrev tmCntWindowPassed : Fld := ⟨.tmCntWindowPassed, 0, 64⟩
abbrev tmCntGateLate : Fld := ⟨.tmCntGateLate, 0, 64⟩
abbrev tmCntGclStep : Fld := ⟨.tmCntGclStep, 0, 64⟩
abbrev tmCntGclChange : Fld := ⟨.tmCntGclChange, 0, 64⟩
abbrev tmCntSelected : Fld := ⟨.tmCntSelected, 0, 64⟩
abbrev tmAgeProfile_limit : Fld := ⟨.tmAgeProfile, 0, 24⟩
abbrev tmLatCfg_ttype : Fld := ⟨.tmLatCfg, 0, 2⟩
abbrev tmLatCfg_target : Fld := ⟨.tmLatCfg, 2, 17⟩
abbrev tmLatCfg_nM1 : Fld := ⟨.tmLatCfg, 19, 16⟩
abbrev tmLatCfg_clear : Fld := ⟨.tmLatCfg, 35, 1⟩
abbrev tmLatCount_count : Fld := ⟨.tmLatCount, 0, 48⟩
abbrev tmLatCount_insufficient : Fld := ⟨.tmLatCount, 63, 1⟩
abbrev tmLatMin_value : Fld := ⟨.tmLatMin, 0, 64⟩
abbrev tmLatMax_value : Fld := ⟨.tmLatMax, 0, 64⟩
abbrev tmLatSum_value : Fld := ⟨.tmLatSum, 0, 64⟩
abbrev tmLatBin_value : Fld := ⟨.tmLatBin, 0, 64⟩
abbrev tmCntQDisabled : Fld := ⟨.tmCntQDisabled, 0, 64⟩
abbrev tmCntQPortMismatch : Fld := ⟨.tmCntQPortMismatch, 0, 64⟩
abbrev tmCntMeterSweep : Fld := ⟨.tmCntMeterSweep, 0, 64⟩
abbrev portPbMode_mode : Fld := ⟨.portPbMode, 0, 4⟩
abbrev portCfg_en : Fld := ⟨.portCfg, 0, 1⟩
abbrev portCfg_fec : Fld := ⟨.portCfg, 1, 2⟩
abbrev portCfg_maxFrame : Fld := ⟨.portCfg, 3, 14⟩
abbrev portCfg_csumEn : Fld := ⟨.portCfg, 17, 1⟩
abbrev portCfg_timingPort : Fld := ⟨.portCfg, 18, 1⟩
abbrev portCfg_redRole : Fld := ⟨.portCfg, 19, 2⟩
abbrev portCfg_mgmtRate : Fld := ⟨.portCfg, 21, 1⟩
abbrev portCfg_linkUpDeb : Fld := ⟨.portCfg, 22, 10⟩
abbrev portCfg_linkDownDeb : Fld := ⟨.portCfg, 32, 10⟩
abbrev portCfg_fecDegThr : Fld := ⟨.portCfg, 42, 16⟩
abbrev portFlowctl_mode : Fld := ⟨.portFlowctl, 0, 2⟩
abbrev portFlowctl_pfcQuanta : Fld := ⟨.portFlowctl, 2, 16⟩
abbrev portFlowctl_refresh : Fld := ⟨.portFlowctl, 18, 16⟩
abbrev portPfcWd_wdEn : Fld := ⟨.portPfcWd, 0, 8⟩
abbrev portPfcWd_wdAction : Fld := ⟨.portPfcWd, 8, 1⟩
abbrev portPfcWd_wdDetect : Fld := ⟨.portPfcWd, 9, 16⟩
abbrev portPfcWd_wdRestore : Fld := ⟨.portPfcWd, 25, 16⟩
abbrev portLpi_lpiEn : Fld := ⟨.portLpi, 0, 1⟩
abbrev portLpi_lpiIdle : Fld := ⟨.portLpi, 1, 15⟩
abbrev portLpi_twTx : Fld := ⟨.portLpi, 16, 16⟩
abbrev portPreempt_preemptEn : Fld := ⟨.portPreempt, 0, 1⟩
abbrev portPreempt_verifyDis : Fld := ⟨.portPreempt, 1, 1⟩
abbrev portPreempt_verifyTime : Fld := ⟨.portPreempt, 2, 8⟩
abbrev portPreempt_addFragSize : Fld := ⟨.portPreempt, 10, 2⟩
abbrev portStatus_link : Fld := ⟨.portStatus, 0, 1⟩
abbrev portStatus_localFault : Fld := ⟨.portStatus, 1, 1⟩
abbrev portStatus_remoteFault : Fld := ⟨.portStatus, 2, 1⟩
abbrev portStatus_eeeAble : Fld := ⟨.portStatus, 3, 1⟩
abbrev portStatus_txLpi : Fld := ⟨.portStatus, 4, 1⟩
abbrev portStatus_preemptActive : Fld := ⟨.portStatus, 5, 1⟩
abbrev portStatus_pfcStorm : Fld := ⟨.portStatus, 6, 8⟩
abbrev portStatus_skew : Fld := ⟨.portStatus, 16, 48⟩
abbrev portMac_addr : Fld := ⟨.portMac, 0, 48⟩
abbrev portFfGroup_en : Fld := ⟨.portFfGroup, 0, 1⟩
abbrev portFfGroup_countM1 : Fld := ⟨.portFfGroup, 1, 3⟩
abbrev portFfMember_port : Fld := ⟨.portFfMember, 0, 8⟩
abbrev portFfMember_qbase : Fld := ⟨.portFfMember, 8, 17⟩
abbrev portEvtChan_handle : Fld := ⟨.portEvtChan, 0, 32⟩
abbrev portCntRxOctets : Fld := ⟨.portCntRxOctets, 0, 64⟩
abbrev portCntRxFrames : Fld := ⟨.portCntRxFrames, 0, 64⟩
abbrev portCntRxMcast : Fld := ⟨.portCntRxMcast, 0, 64⟩
abbrev portCntRxBcast : Fld := ⟨.portCntRxBcast, 0, 64⟩
abbrev portCntRxFcs : Fld := ⟨.portCntRxFcs, 0, 64⟩
abbrev portCntRxRunt : Fld := ⟨.portCntRxRunt, 0, 64⟩
abbrev portCntRxOversize : Fld := ⟨.portCntRxOversize, 0, 64⟩
abbrev portCntRxStaging : Fld := ⟨.portCntRxStaging, 0, 64⟩
abbrev portCntRxCtlDiscard : Fld := ⟨.portCntRxCtlDiscard, 0, 64⟩
abbrev portCntRxPause : Fld := ⟨.portCntRxPause, 0, 64⟩
abbrev portCntRxPfc : Fld := ⟨.portCntRxPfc, 0, 64⟩
abbrev portCntTxOctets : Fld := ⟨.portCntTxOctets, 0, 64⟩
abbrev portCntTxFrames : Fld := ⟨.portCntTxFrames, 0, 64⟩
abbrev portCntTxPause : Fld := ⟨.portCntTxPause, 0, 64⟩
abbrev portCntTxPfc : Fld := ⟨.portCntTxPfc, 0, 64⟩
abbrev portCntTxAborted : Fld := ⟨.portCntTxAborted, 0, 64⟩
abbrev portCntFecCorr : Fld := ⟨.portCntFecCorr, 0, 64⟩
abbrev portCntFecUncorr : Fld := ⟨.portCntFecUncorr, 0, 64⟩
abbrev portCntRxLpi : Fld := ⟨.portCntRxLpi, 0, 64⟩
abbrev portCntTxLpi : Fld := ⟨.portCntTxLpi, 0, 64⟩
abbrev portCntPfcStorm : Fld := ⟨.portCntPfcStorm, 0, 64⟩
abbrev portCntStormDrop : Fld := ⟨.portCntStormDrop, 0, 64⟩
abbrev portCntFragments : Fld := ⟨.portCntFragments, 0, 64⟩
abbrev portCntLinkDown : Fld := ⟨.portCntLinkDown, 0, 64⟩
abbrev portCntRxModeDiscard : Fld := ⟨.portCntRxModeDiscard, 0, 64⟩
abbrev timeTbCfg_en : Fld := ⟨.timeTbCfg, 0, 1⟩
abbrev timeTbCfg_policy : Fld := ⟨.timeTbCfg, 1, 2⟩
abbrev timeTbCfg_src : Fld := ⟨.timeTbCfg, 3, 3⟩
abbrev timeTbCfg_asymLearn : Fld := ⟨.timeTbCfg, 6, 1⟩
abbrev timeTbCfg_stepThr : Fld := ⟨.timeTbCfg, 8, 24⟩
abbrev timeTbCfg_lockThr : Fld := ⟨.timeTbCfg, 32, 16⟩
abbrev timeTbCfg_pathStepThr : Fld := ⟨.timeTbCfg, 48, 16⟩
abbrev timeTbServo_kp : Fld := ⟨.timeTbServo, 0, 16⟩
abbrev timeTbServo_ki : Fld := ⟨.timeTbServo, 16, 16⟩
abbrev timeTbServo_measTimeout : Fld := ⟨.timeTbServo, 32, 16⟩
abbrev timeTbServo_acceptAfter : Fld := ⟨.timeTbServo, 48, 16⟩
abbrev timeTbHold_slewMax : Fld := ⟨.timeTbHold, 0, 7⟩
abbrev timeTbHold_degradeAfter : Fld := ⟨.timeTbHold, 16, 16⟩
abbrev timeTbStatus_state : Fld := ⟨.timeTbStatus, 0, 3⟩
abbrev timeTbStatus_quality : Fld := ⟨.timeTbStatus, 3, 1⟩
abbrev timeTbStatus_hcause : Fld := ⟨.timeTbStatus, 4, 4⟩
abbrev timeTbStatus_epoch : Fld := ⟨.timeTbStatus, 8, 8⟩
abbrev timeTbStatus_slewing : Fld := ⟨.timeTbStatus, 16, 1⟩
abbrev timeTbStatus_jumpPending : Fld := ⟨.timeTbStatus, 17, 1⟩
abbrev timeTbStatus_lockedS : Fld := ⟨.timeTbStatus, 32, 32⟩
abbrev timeTbRate_value : Fld := ⟨.timeTbRate, 0, 64⟩
abbrev timeTbOffset_value : Fld := ⟨.timeTbOffset, 0, 64⟩
abbrev timeTbPdelay_value : Fld := ⟨.timeTbPdelay, 0, 64⟩
abbrev timeTbAsym_value : Fld := ⟨.timeTbAsym, 0, 64⟩
abbrev timeTbNow_now : Fld := ⟨.timeTbNow, 0, 128⟩
abbrev timeTlNow_now : Fld := ⟨.timeTlNow, 0, 128⟩
abbrev timeXgCfg_members : Fld := ⟨.timeXgCfg, 0, 8⟩
abbrev timeXgCfg_en : Fld := ⟨.timeXgCfg, 8, 1⟩
abbrev timeXgCfg_jumpWindow : Fld := ⟨.timeXgCfg, 16, 16⟩
abbrev timeXgNominal_nom : Fld := ⟨.timeXgNominal, 0, 64⟩
abbrev timePortCfg_primary : Fld := ⟨.timePortCfg, 0, 4⟩
abbrev timePortCfg_stampMask : Fld := ⟨.timePortCfg, 4, 9⟩
abbrev timePortCfg_boardRx : Fld := ⟨.timePortCfg, 16, 16⟩
abbrev timePortCfg_boardTx : Fld := ⟨.timePortCfg, 32, 16⟩
abbrev timePortCal_calState : Fld := ⟨.timePortCal, 0, 2⟩
abbrev timePortCal_dPmaRx : Fld := ⟨.timePortCal, 16, 16⟩
abbrev timePortCal_dPmaTx : Fld := ⟨.timePortCal, 32, 16⟩
abbrev timePortKtx_kTx : Fld := ⟨.timePortKtx, 0, 32⟩
abbrev timeTxtsData_entry : Fld := ⟨.timeTxtsData, 0, 256⟩
abbrev timeTxtsStatus_count : Fld := ⟨.timeTxtsStatus, 0, 7⟩
abbrev timeTxtsStatus_lost : Fld := ⟨.timeTxtsStatus, 7, 16⟩
abbrev timePpsOut_mode : Fld := ⟨.timePpsOut, 0, 2⟩
abbrev timePpsOut_base : Fld := ⟨.timePpsOut, 2, 4⟩
abbrev timePpsOut_width : Fld := ⟨.timePpsOut, 6, 20⟩
abbrev timePpsOut_delay : Fld := ⟨.timePpsOut, 26, 16⟩
abbrev timePpsOut_todEn : Fld := ⟨.timePpsOut, 42, 1⟩
abbrev timePpsOut_baud : Fld := ⟨.timePpsOut, 43, 3⟩
abbrev timePpsIn_en : Fld := ⟨.timePpsIn, 0, 1⟩
abbrev timePpsIn_edge : Fld := ⟨.timePpsIn, 1, 1⟩
abbrev timePpsIn_delay : Fld := ⟨.timePpsIn, 2, 16⟩
abbrev timePpsIn_todEn : Fld := ⟨.timePpsIn, 18, 1⟩
abbrev timePpsIn_baud : Fld := ⟨.timePpsIn, 19, 3⟩
abbrev timePpsInLast_last : Fld := ⟨.timePpsInLast, 0, 128⟩
abbrev timeDpllCfg_en : Fld := ⟨.timeDpllCfg, 0, 1⟩
abbrev timeDpllCfg_mode : Fld := ⟨.timeDpllCfg, 1, 2⟩
abbrev timeDpllCfg_bw : Fld := ⟨.timeDpllCfg, 3, 3⟩
abbrev timeDpllCfg_force : Fld := ⟨.timeDpllCfg, 6, 4⟩
abbrev timeDpllCfg_outFreq : Fld := ⟨.timeDpllCfg, 10, 2⟩
abbrev timeDpllPrio_prio : Fld := ⟨.timeDpllPrio, 0, 44⟩
abbrev timeDpllStatus_state : Fld := ⟨.timeDpllStatus, 0, 2⟩
abbrev timeDpllStatus_input : Fld := ⟨.timeDpllStatus, 2, 4⟩
abbrev timeDpllStatus_qualified : Fld := ⟨.timeDpllStatus, 6, 11⟩
abbrev timeDpllStatus_holdReady : Fld := ⟨.timeDpllStatus, 17, 1⟩
abbrev timeRclkSel_lane : Fld := ⟨.timeRclkSel, 0, 7⟩
abbrev timeRclkSel_en : Fld := ⟨.timeRclkSel, 7, 1⟩
abbrev timeRclkSel_squelch : Fld := ⟨.timeRclkSel, 8, 1⟩
abbrev timeSynceTx_pb : Fld := ⟨.timeSynceTx, 0, 32⟩
abbrev timeEvtChan_handle : Fld := ⟨.timeEvtChan, 0, 32⟩
abbrev timeTxtsChan_handle : Fld := ⟨.timeTxtsChan, 0, 32⟩
abbrev timeCntMeas : Fld := ⟨.timeCntMeas, 0, 64⟩
abbrev timeCntMeasStale : Fld := ⟨.timeCntMeasStale, 0, 64⟩
abbrev timeCntJump : Fld := ⟨.timeCntJump, 0, 64⟩
abbrev timeCntStep : Fld := ⟨.timeCntStep, 0, 64⟩
abbrev timeCntPathStep : Fld := ⟨.timeCntPathStep, 0, 64⟩
abbrev timeCntIsolated : Fld := ⟨.timeCntIsolated, 0, 64⟩
abbrev timeCntTxtsLost : Fld := ⟨.timeCntTxtsLost, 0, 64⟩
abbrev timeCntTxtsFlushed : Fld := ⟨.timeCntTxtsFlushed, 0, 64⟩
abbrev timeCntHeldFull : Fld := ⟨.timeCntHeldFull, 0, 64⟩
abbrev timeCntPredictErr : Fld := ⟨.timeCntPredictErr, 0, 64⟩
abbrev cmdCfg_slice : Fld := ⟨.cmdCfg, 0, 16⟩
abbrev cmdCfg_barrierTo : Fld := ⟨.cmdCfg, 16, 24⟩
abbrev cmdEngineStatus_busy : Fld := ⟨.cmdEngineStatus, 0, 1⟩
abbrev cmdEngineStatus_fenced : Fld := ⟨.cmdEngineStatus, 1, 1⟩
abbrev cmdEngineStatus_recentMc : Fld := ⟨.cmdEngineStatus, 2, 1⟩
abbrev cmdEngineStatus_channel : Fld := ⟨.cmdEngineStatus, 3, 10⟩
abbrev cmdEngineStatus_tug : Fld := ⟨.cmdEngineStatus, 13, 1⟩
abbrev cmdEngineCtl_unfence : Fld := ⟨.cmdEngineCtl, 0, 1⟩
abbrev cmdMcLog_upc : Fld := ⟨.cmdMcLog, 0, 15⟩
abbrev cmdMcLog_patch : Fld := ⟨.cmdMcLog, 15, 1⟩
abbrev cmdMcLog_op : Fld := ⟨.cmdMcLog, 16, 10⟩
abbrev cmdMcLog_handle : Fld := ⟨.cmdMcLog, 32, 32⟩
abbrev cmdMcLog_time : Fld := ⟨.cmdMcLog, 64, 64⟩
abbrev cmdCh0Cfg_log2Ring : Fld := ⟨.cmdCh0Cfg, 0, 5⟩
abbrev cmdCh0Cfg_log2Cq : Fld := ⟨.cmdCh0Cfg, 5, 5⟩
abbrev cmdCh0Cfg_vector : Fld := ⟨.cmdCh0Cfg, 10, 11⟩
abbrev cmdCh0RingBase_base : Fld := ⟨.cmdCh0RingBase, 0, 64⟩
abbrev cmdCh0CqBase_base : Fld := ⟨.cmdCh0CqBase, 0, 64⟩
abbrev cmdChState_state : Fld := ⟨.cmdChState, 0, 2⟩
abbrev cmdChState_parked : Fld := ⟨.cmdChState, 2, 1⟩
abbrev cmdChState_type : Fld := ⟨.cmdChState, 3, 4⟩
abbrev cmdChState_gen : Fld := ⟨.cmdChState, 7, 8⟩
abbrev cmdChState_restricted : Fld := ⟨.cmdChState, 15, 1⟩
abbrev cmdChState_function : Fld := ⟨.cmdChState, 16, 6⟩
abbrev cmdChState_head : Fld := ⟨.cmdChState, 22, 16⟩
abbrev cmdChState_tail : Fld := ⟨.cmdChState, 38, 16⟩
abbrev cmdChProgress_progress : Fld := ⟨.cmdChProgress, 0, 32⟩
abbrev cmdChProgress_op : Fld := ⟨.cmdChProgress, 32, 10⟩
abbrev cmdChProgress_valid : Fld := ⟨.cmdChProgress, 42, 1⟩
abbrev cmdUcInfo_romVer : Fld := ⟨.cmdUcInfo, 0, 16⟩
abbrev cmdUcInfo_patchVer : Fld := ⟨.cmdUcInfo, 16, 16⟩
abbrev cmdUcInfo_active : Fld := ⟨.cmdUcInfo, 32, 7⟩
abbrev cmdUcMatch_romAddr : Fld := ⟨.cmdUcMatch, 0, 15⟩
abbrev cmdUcMatch_patchAddr : Fld := ⟨.cmdUcMatch, 15, 10⟩
abbrev cmdUcMatch_en : Fld := ⟨.cmdUcMatch, 25, 1⟩
abbrev cmdEvtChan_handle : Fld := ⟨.cmdEvtChan, 0, 32⟩
abbrev cmdTugCq_base : Fld := ⟨.cmdTugCq, 0, 32⟩
abbrev cmdTugCq_log2 : Fld := ⟨.cmdTugCq, 32, 4⟩
abbrev cmdCntExec : Fld := ⟨.cmdCntExec, 0, 64⟩
abbrev cmdCntMc : Fld := ⟨.cmdCntMc, 0, 64⟩
abbrev cmdCntSliceTrap : Fld := ⟨.cmdCntSliceTrap, 0, 64⟩
abbrev cmdCntParkFull : Fld := ⟨.cmdCntParkFull, 0, 64⟩
abbrev cmdCntStaleDb : Fld := ⟨.cmdCntStaleDb, 0, 64⟩
abbrev cmdCntBadDb : Fld := ⟨.cmdCntBadDb, 0, 64⟩
abbrev cmdCntCloseDrop : Fld := ⟨.cmdCntCloseDrop, 0, 64⟩
abbrev cmdCntEvtDropped : Fld := ⟨.cmdCntEvtDropped, 0, 64⟩
abbrev tugCoreCfg_wdMs : Fld := ⟨.tugCoreCfg, 0, 10⟩
abbrev tugCoreCfg_rasEn : Fld := ⟨.tugCoreCfg, 10, 1⟩
abbrev tugCoreStatus_task : Fld := ⟨.tugCoreStatus, 0, 9⟩
abbrev tugCoreStatus_idle : Fld := ⟨.tugCoreStatus, 9, 1⟩
abbrev tugCoreStatus_nextValid : Fld := ⟨.tugCoreStatus, 10, 1⟩
abbrev tugCoreStatus_pending : Fld := ⟨.tugCoreStatus, 11, 5⟩
abbrev tugCcntCfg_event : Fld := ⟨.tugCcntCfg, 0, 5⟩
abbrev tugCcntCfg_level : Fld := ⟨.tugCcntCfg, 5, 2⟩
abbrev tugCcntCfg_taskf : Fld := ⟨.tugCcntCfg, 7, 1⟩
abbrev tugCcntCfg_task : Fld := ⟨.tugCcntCfg, 8, 9⟩
abbrev tugCcntCfg_int : Fld := ⟨.tugCcntCfg, 17, 1⟩
abbrev tugCcntCfg_sample : Fld := ⟨.tugCcntCfg, 18, 1⟩
abbrev tugCcntStatus_ovf : Fld := ⟨.tugCcntStatus, 0, 4⟩
abbrev tugTaskState_state : Fld := ⟨.tugTaskState, 0, 3⟩
abbrev tugTaskState_level : Fld := ⟨.tugTaskState, 3, 5⟩
abbrev tugTaskState_gen : Fld := ⟨.tugTaskState, 8, 8⟩
abbrev tugTaskState_core : Fld := ⟨.tugTaskState, 16, 4⟩
abbrev tugTaskState_cause : Fld := ⟨.tugTaskState, 20, 2⟩
abbrev tugTaskState_flags : Fld := ⟨.tugTaskState, 32, 32⟩
abbrev tugMboxCfg_en : Fld := ⟨.tugMboxCfg, 0, 1⟩
abbrev tugMboxCfg_owner : Fld := ⟨.tugMboxCfg, 1, 9⟩
abbrev tugMboxCfg_flag : Fld := ⟨.tugMboxCfg, 10, 5⟩
abbrev tugExqCfg_base : Fld := ⟨.tugExqCfg, 0, 24⟩
abbrev tugExqCfg_log2 : Fld := ⟨.tugExqCfg, 24, 4⟩
abbrev tugExqCfg_task : Fld := ⟨.tugExqCfg, 28, 9⟩
abbrev tugExqCfg_core : Fld := ⟨.tugExqCfg, 37, 4⟩
abbrev tugTbaseDefault_tbase : Fld := ⟨.tugTbaseDefault, 0, 64⟩
abbrev tugSyswdCfg_en : Fld := ⟨.tugSyswdCfg, 0, 1⟩
abbrev tugSyswdCfg_timeout : Fld := ⟨.tugSyswdCfg, 1, 16⟩
abbrev tugCntCollision : Fld := ⟨.tugCntCollision, 0, 64⟩
abbrev tugCntMboxRefused : Fld := ⟨.tugCntMboxRefused, 0, 64⟩
abbrev tugCntExqDropped : Fld := ⟨.tugCntExqDropped, 0, 64⟩
abbrev tugCntExqNobuf : Fld := ⟨.tugCntExqNobuf, 0, 64⟩
abbrev tugCntCoreReset : Fld := ⟨.tugCntCoreReset, 0, 64⟩
abbrev tugCntSyswdBad : Fld := ⟨.tugCntSyswdBad, 0, 64⟩
abbrev tugCntEccCorr : Fld := ⟨.tugCntEccCorr, 0, 64⟩
abbrev pmcCntCfg_event : Fld := ⟨.pmcCntCfg, 0, 16⟩
abbrev pmcCntCfg_mmatch : Fld := ⟨.pmcCntCfg, 16, 8⟩
abbrev pmcCntCfg_mmask : Fld := ⟨.pmcCntCfg, 24, 8⟩
abbrev pmcCntCfg_priv : Fld := ⟨.pmcCntCfg, 32, 2⟩
abbrev pmcCntCfg_tcmask : Fld := ⟨.pmcCntCfg, 34, 8⟩
abbrev pmcCntCfg_addrEn : Fld := ⟨.pmcCntCfg, 42, 1⟩
abbrev pmcCntCfg_sample : Fld := ⟨.pmcCntCfg, 43, 1⟩
abbrev pmcCntAddr_base : Fld := ⟨.pmcCntAddr, 0, 26⟩
abbrev pmcCntAddr_limit : Fld := ⟨.pmcCntAddr, 26, 26⟩
abbrev pmcCntValue_count : Fld := ⟨.pmcCntValue, 0, 48⟩
abbrev pmcCntValue_ovf : Fld := ⟨.pmcCntValue, 63, 1⟩
abbrev pmcCntShadow_count : Fld := ⟨.pmcCntShadow, 0, 48⟩
abbrev pmcCntShadow_ovf : Fld := ⟨.pmcCntShadow, 63, 1⟩
abbrev pmcSnapshot_take : Fld := ⟨.pmcSnapshot, 0, 1⟩
abbrev pmcSampleCfg_en : Fld := ⟨.pmcSampleCfg, 0, 1⟩
abbrev pmcSampleCfg_log2 : Fld := ⟨.pmcSampleCfg, 1, 5⟩
abbrev pmcSampleCfg_base : Fld := ⟨.pmcSampleCfg, 12, 37⟩
abbrev pmcSampleHead_index : Fld := ⟨.pmcSampleHead, 0, 20⟩
abbrev pmcSampleTail_index : Fld := ⟨.pmcSampleTail, 0, 20⟩
abbrev pmcCntCollision : Fld := ⟨.pmcCntCollision, 0, 64⟩
abbrev pmcCntSampleLost : Fld := ⟨.pmcCntSampleLost, 0, 64⟩
abbrev hostErrStatus_block : Fld := ⟨.hostErrStatus, 0, 21⟩
abbrev hostErrMask_mask : Fld := ⟨.hostErrMask, 0, 21⟩
abbrev hostErrVec_vector : Fld := ⟨.hostErrVec, 0, 11⟩
abbrev hostDmaCfg_cplTimeout : Fld := ⟨.hostDmaCfg, 0, 16⟩
abbrev hostChErr_valid : Fld := ⟨.hostChErr, 0, 1⟩
abbrev hostChErr_cause : Fld := ⟨.hostChErr, 1, 2⟩
abbrev hostChErr_addr : Fld := ⟨.hostChErr, 64, 64⟩
abbrev hostChCntEntries : Fld := ⟨.hostChCntEntries, 0, 64⟩
abbrev hostChCntNoDesc : Fld := ⟨.hostChCntNoDesc, 0, 64⟩
abbrev hostChCntDropped : Fld := ⟨.hostChCntDropped, 0, 64⟩
abbrev hostChCntBadDesc : Fld := ⟨.hostChCntBadDesc, 0, 64⟩
abbrev hostCntBar4Outside : Fld := ⟨.hostCntBar4Outside, 0, 64⟩
abbrev logCfg_en : Fld := ⟨.logCfg, 0, 1⟩
abbrev logCfg_dirBase : Fld := ⟨.logCfg, 1, 7⟩
abbrev logCfg_haltFlushMs : Fld := ⟨.logCfg, 8, 16⟩
abbrev logStatus_state : Fld := ⟨.logStatus, 0, 2⟩
abbrev logStatus_sigq : Fld := ⟨.logStatus, 2, 7⟩
abbrev logSrcCap_en : Fld := ⟨.logSrcCap, 0, 1⟩
abbrev logSrcCap_part : Fld := ⟨.logSrcCap, 1, 4⟩
abbrev logZoneCap_point : Fld := ⟨.logZoneCap, 0, 2⟩
abbrev logZoneCap_part : Fld := ⟨.logZoneCap, 2, 4⟩
abbrev logZoneCap_trunc : Fld := ⟨.logZoneCap, 6, 8⟩
abbrev logDriveCfg_ready : Fld := ⟨.logDriveCfg, 0, 1⟩
abbrev logDriveCfg_allocEn : Fld := ⟨.logDriveCfg, 1, 1⟩
abbrev logDriveCfg_nsid : Fld := ⟨.logDriveCfg, 2, 32⟩
abbrev logDriveCfg_slotMib : Fld := ⟨.logDriveCfg, 34, 16⟩
abbrev logDriveStatus_state : Fld := ⟨.logDriveStatus, 0, 2⟩
abbrev logDriveStatus_zoned : Fld := ⟨.logDriveStatus, 2, 1⟩
abbrev logDriveStatus_free : Fld := ⟨.logDriveStatus, 3, 24⟩
abbrev logDriveStatus_qbase : Fld := ⟨.logDriveStatus, 28, 36⟩
abbrev logPartStatus_state : Fld := ⟨.logPartStatus, 0, 2⟩
abbrev logPartStatus_stalled : Fld := ⟨.logPartStatus, 2, 1⟩
abbrev logPartStatus_segments : Fld := ⟨.logPartStatus, 32, 32⟩
abbrev logCntRecords : Fld := ⟨.logCntRecords, 0, 64⟩
abbrev logCntLost : Fld := ⟨.logCntLost, 0, 64⟩
abbrev logCntSealed : Fld := ⟨.logCntSealed, 0, 64⟩
abbrev logCntRetired : Fld := ⟨.logCntRetired, 0, 64⟩
abbrev logCntRelocated : Fld := ⟨.logCntRelocated, 0, 64⟩
abbrev logCntNoPart : Fld := ⟨.logCntNoPart, 0, 64⟩
abbrev sysMode_mode : Fld := ⟨.sysMode, 0, 3⟩
abbrev sysMode_paused : Fld := ⟨.sysMode, 3, 16⟩
abbrev sysStatus_bootErr : Fld := ⟨.sysStatus, 0, 3⟩
abbrev sysStatus_slot : Fld := ⟨.sysStatus, 3, 1⟩
abbrev sysStatus_hbmFail : Fld := ⟨.sysStatus, 4, 4⟩
abbrev sysStatus_bootMs : Fld := ⟨.sysStatus, 8, 11⟩
abbrev sysStatus_safeOk : Fld := ⟨.sysStatus, 19, 1⟩
abbrev sysStatus_harbourN : Fld := ⟨.sysStatus, 20, 1⟩
abbrev sysHborCause_cause : Fld := ⟨.sysHborCause, 0, 7⟩
abbrev sysHborCause_reason : Fld := ⟨.sysHborCause, 8, 8⟩
abbrev sysReset_key : Fld := ⟨.sysReset, 0, 32⟩
abbrev sysDrydockCtl_bist : Fld := ⟨.sysDrydockCtl, 0, 6⟩
abbrev sysDrydockCtl_start : Fld := ⟨.sysDrydockCtl, 6, 1⟩
abbrev sysDrydockStatus_busy : Fld := ⟨.sysDrydockStatus, 0, 1⟩
abbrev sysDrydockStatus_fail : Fld := ⟨.sysDrydockStatus, 1, 6⟩
abbrev sysDrydockPort_loop : Fld := ⟨.sysDrydockPort, 0, 2⟩
abbrev sysDrydockPort_errors : Fld := ⟨.sysDrydockPort, 32, 32⟩
abbrev sysCntSlackDiscard : Fld := ⟨.sysCntSlackDiscard, 0, 64⟩
abbrev hborCfg_armed : Fld := ⟨.hborCfg, 0, 1⟩
abbrev hborCfg_bank : Fld := ⟨.hborCfg, 1, 1⟩
abbrev hborCfg_drainUs : Fld := ⟨.hborCfg, 2, 16⟩
abbrev hborCfg_redTimeoutUs : Fld := ⟨.hborCfg, 18, 24⟩
abbrev hborStatus_active : Fld := ⟨.hborStatus, 0, 1⟩
abbrev hborStatus_checking : Fld := ⟨.hborStatus, 1, 1⟩
abbrev hborStatus_bad : Fld := ⟨.hborStatus, 2, 1⟩
abbrev hborStatus_badIndex : Fld := ⟨.hborStatus, 3, 13⟩
abbrev hborStatus_free : Fld := ⟨.hborStatus, 16, 13⟩
abbrev hborPortCfg_en : Fld := ⟨.hborPortCfg, 0, 1⟩
abbrev hborPortCfg_pvid : Fld := ⟨.hborPortCfg, 1, 12⟩
abbrev hborPortCfg_gateEn : Fld := ⟨.hborPortCfg, 13, 1⟩
abbrev hborPortCfg_gateBase : Fld := ⟨.hborPortCfg, 14, 4⟩
abbrev hborPortCfg_qlimit : Fld := ⟨.hborPortCfg, 18, 12⟩
abbrev hborGclHdr_baseS : Fld := ⟨.hborGclHdr, 0, 64⟩
abbrev hborGclHdr_baseNs : Fld := ⟨.hborGclHdr, 64, 32⟩
abbrev hborGclHdr_cycleNs : Fld := ⟨.hborGclHdr, 96, 32⟩
abbrev hborGclHdr_cycleFrac : Fld := ⟨.hborGclHdr, 128, 16⟩
abbrev hborGclHdr_count : Fld := ⟨.hborGclHdr, 144, 7⟩
abbrev hborGcl_entry : Fld := ⟨.hborGcl, 0, 64⟩
abbrev hborEntry_dmac : Fld := ⟨.hborEntry, 0, 48⟩
abbrev hborEntry_vid : Fld := ⟨.hborEntry, 48, 12⟩
abbrev hborEntry_valid : Fld := ⟨.hborEntry, 60, 1⟩
abbrev hborEntry_inport : Fld := ⟨.hborEntry, 61, 8⟩
abbrev hborEntry_tc : Fld := ⟨.hborEntry, 69, 3⟩
abbrev hborEntry_redEn : Fld := ⟨.hborEntry, 72, 1⟩
abbrev hborEntry_stream : Fld := ⟨.hborEntry, 73, 10⟩
abbrev hborEntry_seqsrc : Fld := ⟨.hborEntry, 83, 2⟩
abbrev hborEntry_cfBase : Fld := ⟨.hborEntry, 85, 4⟩
abbrev hborEntry_maxf : Fld := ⟨.hborEntry, 89, 12⟩
abbrev hborEntry_egress : Fld := ⟨.hborEntry, 128, 128⟩
abbrev hborEntry_mgmt0 : Fld := ⟨.hborEntry, 256, 1⟩
abbrev hborEntry_mgmt1 : Fld := ⟨.hborEntry, 257, 1⟩
abbrev hborRed_seq : Fld := ⟨.hborRed, 0, 16⟩
abbrev hborRed_takeany : Fld := ⟨.hborRed, 16, 1⟩
abbrev hborRed_history : Fld := ⟨.hborRed, 17, 32⟩
abbrev hborRed_passed : Fld := ⟨.hborRed, 64, 32⟩
abbrev hborRed_discarded : Fld := ⟨.hborRed, 96, 32⟩
abbrev hborCntDrainDrop : Fld := ⟨.hborCntDrainDrop, 0, 64⟩
abbrev hborCntAbandoned : Fld := ⟨.hborCntAbandoned, 0, 64⟩
abbrev hborCntCfSkipped : Fld := ⟨.hborCntCfSkipped, 0, 64⟩
abbrev hborCntRx : Fld := ⟨.hborCntRx, 0, 64⟩
abbrev hborCntMiss : Fld := ⟨.hborCntMiss, 0, 64⟩
abbrev hborCntOversize : Fld := ⟨.hborCntOversize, 0, 64⟩
abbrev hborCntDiscard : Fld := ⟨.hborCntDiscard, 0, 64⟩
abbrev hborCntQfull : Fld := ⟨.hborCntQfull, 0, 64⟩
abbrev hborCntNobuf : Fld := ⟨.hborCntNobuf, 0, 64⟩
abbrev hborCntTooLong : Fld := ⟨.hborCntTooLong, 0, 64⟩
abbrev hborCntTx : Fld := ⟨.hborCntTx, 0, 64⟩
abbrev rasMcPolicy_policy : Fld := ⟨.rasMcPolicy, 0, 20⟩
abbrev rasMcStatus_fired : Fld := ⟨.rasMcStatus, 0, 10⟩
abbrev rasMcLog_count : Fld := ⟨.rasMcLog, 0, 32⟩
abbrev rasMcLog_master : Fld := ⟨.rasMcLog, 32, 8⟩
abbrev rasMcLog_addr : Fld := ⟨.rasMcLog, 64, 64⟩
abbrev rasMcLog_time : Fld := ⟨.rasMcLog, 128, 128⟩
abbrev rasSealCfg_stormThr : Fld := ⟨.rasSealCfg, 0, 16⟩
abbrev rasSealCfg_corrThr : Fld := ⟨.rasSealCfg, 16, 32⟩
abbrev rasEvtChan_handle : Fld := ⟨.rasEvtChan, 0, 32⟩
abbrev rasCntCorr : Fld := ⟨.rasCntCorr, 0, 64⟩
abbrev rasCntSealFail : Fld := ⟨.rasCntSealFail, 0, 64⟩
abbrev rasCntEvtDropped : Fld := ⟨.rasCntEvtDropped, 0, 64⟩
abbrev sealCfg_poly : Fld := ⟨.sealCfg, 0, 2⟩
abbrev sealCfg_foldEn : Fld := ⟨.sealCfg, 2, 1⟩
abbrev sealCfg_cmpEn : Fld := ⟨.sealCfg, 3, 1⟩
abbrev sealPoly_poly : Fld := ⟨.sealPoly, 0, 32⟩
abbrev sealPoly_init : Fld := ⟨.sealPoly, 32, 32⟩
abbrev sealPoly_xorout : Fld := ⟨.sealPoly, 64, 32⟩
abbrev sealPoly_refl : Fld := ⟨.sealPoly, 96, 1⟩
abbrev sealSrc_srcBase : Fld := ⟨.sealSrc, 0, 37⟩
abbrev sealSrc_srcLen : Fld := ⟨.sealSrc, 37, 27⟩
abbrev sealCtl_start : Fld := ⟨.sealCtl, 0, 1⟩
abbrev sealCtl_final : Fld := ⟨.sealCtl, 1, 1⟩
abbrev sealCtl_reset : Fld := ⟨.sealCtl, 2, 1⟩
abbrev sealCtl_state : Fld := ⟨.sealCtl, 3, 2⟩
abbrev sealCtl_mismatch : Fld := ⟨.sealCtl, 5, 1⟩
abbrev sealData_value : Fld := ⟨.sealData, 0, 64⟩
abbrev sealFold_value : Fld := ⟨.sealFold, 0, 64⟩
abbrev sealRunning_value : Fld := ⟨.sealRunning, 0, 64⟩
abbrev sealExpect_value : Fld := ⟨.sealExpect, 0, 64⟩
abbrev sealResult_value : Fld := ⟨.sealResult, 0, 64⟩
abbrev secStatus_arbFw : Fld := ⟨.secStatus, 0, 7⟩
abbrev secStatus_arbPatch : Fld := ⟨.secStatus, 7, 6⟩
abbrev secStatus_owner : Fld := ⟨.secStatus, 13, 2⟩
abbrev secStatus_debugLock : Fld := ⟨.secStatus, 15, 1⟩
abbrev secStatus_debugOpened : Fld := ⟨.secStatus, 16, 1⟩
abbrev secStatus_keysReady : Fld := ⟨.secStatus, 17, 1⟩
abbrev secArbAdvance_fwTo : Fld := ⟨.secArbAdvance, 0, 7⟩
abbrev secArbAdvance_patchTo : Fld := ⟨.secArbAdvance, 7, 6⟩
abbrev secOwnerProg_hash : Fld := ⟨.secOwnerProg, 0, 256⟩
abbrev secOwnerProg_slot : Fld := ⟨.secOwnerProg, 256, 1⟩
abbrev secOwnerProg_revoke0 : Fld := ⟨.secOwnerProg, 257, 1⟩
abbrev secOwnerProg_lock : Fld := ⟨.secOwnerProg, 258, 1⟩
abbrev secAttNonce_nonce : Fld := ⟨.secAttNonce, 0, 256⟩
abbrev secAttCtl_start : Fld := ⟨.secAttCtl, 0, 1⟩
abbrev secAttCtl_busy : Fld := ⟨.secAttCtl, 1, 1⟩
abbrev secAttCtl_done : Fld := ⟨.secAttCtl, 2, 1⟩
abbrev secAttCtl_status : Fld := ⟨.secAttCtl, 3, 8⟩
abbrev secAttCtl_dest : Fld := ⟨.secAttCtl, 12, 37⟩
abbrev secCntRefused : Fld := ⟨.secCntRefused, 0, 64⟩
abbrev sysTemp_dieMax : Fld := ⟨.sysTemp, 0, 8⟩
abbrev sysTemp_hbmMax : Fld := ⟨.sysTemp, 8, 8⟩
abbrev sysTemp_alarmThr : Fld := ⟨.sysTemp, 16, 8⟩
abbrev sysTemp_alarm : Fld := ⟨.sysTemp, 24, 1⟩
abbrev sysTemp_hbmHot : Fld := ⟨.sysTemp, 25, 4⟩
abbrev sysAvs_target : Fld := ⟨.sysAvs, 0, 5⟩
abbrev sysAvs_applied : Fld := ⟨.sysAvs, 5, 5⟩
abbrev sysAvs_cold : Fld := ⟨.sysAvs, 10, 1⟩
abbrev sysAvs_fault : Fld := ⟨.sysAvs, 11, 1⟩
abbrev sysStrap_pcieX8 : Fld := ⟨.sysStrap, 0, 1⟩
abbrev sysStrap_flashSingle : Fld := ⟨.sysStrap, 1, 1⟩
end F

/-- The value a register has at reset when no index differs: its fields' reset values laid in place. -/
def Reg.resetBase (r : Reg) : Nat := r.row.fields.foldl (fun a f => a + f.reset * 2 ^ f.lo) 0

/-- Whether a field is written by nobody and reads its reset value for ever, or may hold something else. -/
def RegRow.fieldAt (w : RegRow) (lo : Nat) : Option FieldSpec := w.fields.find? (fun f => f.lo == lo)

end Sys2Proof.Machine
end

