-- ==== Sys2Proof/Machine/State.lean ====
section
/-!
DEFINITION. Machine/State.lean: the whole state of the block, the reasons a command can stop, and the state after reset.
-/
namespace Sys2Proof.Machine

/-- A fault: the machine meets an address the spec says does not exist.
`noHbm`: raised by SCRUB_VISIT where its address names an HBM byte at or above 96 GiB; safe, the hardware has no such word
to visit. -/
inductive Fault
  | noHbm
  deriving DecidableEq, Repr

/-- A refusal: the command has no effect the spec gives.
`notModelled`: an arm of Dispatch that has no meaning yet; safe.
`rejectedByLoad`: raised by an instruction of profile P, S or E that the load checks of R63 never let into a program store
(wrong profile, reserved bit, space or number): no engine ever issues such a word; safe. -/
inductive Refusal
  | notModelled (mnemonic : String)
  | rejectedByLoad (mnemonic : String)
  deriving DecidableEq, Repr

/-- The state. Registers live in `regs`, keyed by register and index (`Regs.lean`); a register without an entry
holds its reset value. `ns` counts TIME_CLK cycles since RESET_N was released (1 ns each); `freeCtr` numbers the free values
that steps have taken (log entry 4); `out` is what has left the device (log entry 6). -/
structure State where
  pending : List Instr
  freeCtr : Nat
  ns : Nat
  regs : Tab RegVal
  eng : Eng
  tab : Tables
  led : Ledger
  buf : Buf
  tm : Tm
  ports : Ports
  time : Time
  cmd : Cmd
  tug : Tug
  host : HostIf
  log : Log
  hbor : Hbor
  mode : Modes
  dmem : Memory
  hbm : Memory
  hostMem : Memory
  hbmBad : List Nat
  out : List OutEv
  deriving DecidableEq, Repr

/-- The machine right after reset: SYS_MODE is RESET (Table 15.1, R448), every register at its reset value, every queue,
table, context and memory empty, TL and the bases stopped (R292). -/
def State.reset : State where
  pending := []
  freeCtr := 0
  ns := 0
  regs := []
  eng := {}
  tab := {}
  led := {}
  buf := {}
  tm := {}
  ports := {}
  time := {}
  cmd := {}
  tug := {}
  host := {}
  log := {}
  hbor := {}
  mode := {}
  dmem := []
  hbm := []
  hostMem := []
  hbmBad := []
  out := []

/-- What a meaning answers. -/
abbrev Outc := Host.Outcome State Fault Refusal

end Sys2Proof.Machine
end

