-- ==== Sys2Proof/Machine/Ops.lean ====
section
/-!
DEFINITION. Machine/Ops.lean: the named operations over the state: registers and their fields, counters, free values, time
and stamps, general registers, the memories, handles, KX64 and the CRCs.
-/
namespace Sys2Proof

/-- The number of a context. -/
def CtxId.code : CtxId → Nat
  | .pilot q e c => q.val * 512 + e.val * 8 + c.val
  | .stev s e => 8192 + s.val * 20 + e.val
  | .rew q e c => 9000 + q.val * 192 + e.val * 4 + c.val
  | .tug t => 13000 + t.val
  | .chan c => 14000 + c.val

end Sys2Proof

namespace Sys2Proof.Machine

/-! ### Registers (R6, Table 0.5) -/

/-- Where a register lives in `State.regs`. -/
def regKey (r : Reg) (i : Nat) : Nat := r.ctorIdx + 1024 * i

/-- A register's value at reset: its fields' reset values, and the lines of the register maps that differ by index. -/
def Reg.resetAt (r : Reg) (i : Nat) : Nat :=
  match r with
  | .tblEmSeed => [0x243F6A8885A308D3, 0x13198A2E03707344, 0xA4093822299F31D0, 0x082EFA98EC4E6C89].getD i 0
  | .ledgerProgSlice => if i = 0xF0 then 6 else 0
  | .bufPoolCfg => [16384, 16384, 33280, 28160].getD i 0
  | .bufHbmPool => if i = 0 then 80 + 4 * 2 ^ 7 + 2 * 2 ^ 14 else 84 + 8 * 2 ^ 7 + 10 * 2 ^ 14
  | .tmClassCfg => Reg.resetBase r + (7 - i % 8)
  | .timeDpllPrio => if i = 1 then 2 ^ 24 else 1
  | .cmdChState => if i = 0 then 1 + 1 * 2 ^ 3 else 0
  | .tugCoreCfg => 100 + (if i = 0 then 1024 else 0)
  | .rasMcPolicy => 1 * 2 ^ 2 + 1 * 2 ^ 4 + 2 * 2 ^ 16
  | .secStatus => Config.arbFw.toNat + Config.arbPatch.toNat * 2 ^ 7 + Config.debugLock.toNat * 2 ^ 15
  | .sysAvs => Config.avsTarget.toNat + 10 * 2 ^ 5
  | .sysStrap => Config.strapPcie.toNat + Config.strapFlash.toNat * 2
  | .logDriveStatus => if h : i < 4 then (Config.qbase ⟨i, h⟩).toNat * 2 ^ 28 else 0
  | _ => Reg.resetBase r

/-- Read a register as stored. -/
def State.reg (s : State) (r : Reg) (i : Nat) : RegVal :=
  match Tab.get? s.regs (regKey r i) with
  | some v => v
  | none => BitVec.ofNat 320 (r.resetAt i)

/-- Store a register. -/
def State.setReg (s : State) (r : Reg) (i : Nat) (v : RegVal) : State :=
  { s with regs := Tab.put s.regs (regKey r i) v }

/-- Read a field. -/
def State.get (s : State) (f : Fld) (i : Nat) : Nat := ((s.reg f.reg i).extractLsb' f.lo f.len).toNat

/-- The value with bits `lo .. lo + len - 1` replaced. -/
def putBits {n : Nat} (v : BitVec n) (lo len x : Nat) : BitVec n :=
  (v &&& ~~~(BitVec.ofNat n ((2 ^ len - 1) * 2 ^ lo))) ||| BitVec.ofNat n (x % 2 ^ len * 2 ^ lo)

/-- Write a field, the register's other bits unchanged. -/
def State.set (s : State) (f : Fld) (i : Nat) (x : Nat) : State :=
  s.setReg f.reg i (putBits (s.reg f.reg i) f.lo f.len x)

/-- Whether a one-bit field is 1. -/
def State.bit (s : State) (f : Fld) (i : Nat) : Bool := s.get f i == 1

/-- Write a one-bit field. -/
def State.setBit (s : State) (f : Fld) (i : Nat) (b : Bool) : State := s.set f i b.toNat

/-- Count `n` in a 64-bit counter. -/
def State.addTo (s : State) (f : Fld) (i n : Nat) : State := s.set f i (s.get f i + n)

/-- Count one. -/
def State.bump (s : State) (f : Fld) (i : Nat) : State := s.addTo f i 1

/-- Count one where `b` holds. -/
def State.bumpIf (s : State) (b : Bool) (f : Fld) (i : Nat) : State := if b then s.bump f i else s

/-- The index of a port in the port block's register maps (R290: the management ports lie in block slots 32 and 33). -/
def portIx (p : Nat) : Nat := if p < 128 then p else 128 + (p - 128) * 4

/-- Whether `n` nanoseconds have passed at `now` since an instant, if there was one. -/
def since (at0 : Option Nat) (n now : Nat) : Bool := match at0 with | some t => decide (t + n ≤ now) | none => true

/-! ### Free values (log entry 4) -/

/-- The free value that the next use takes. -/
def State.freeVal (s : State) : Word := Config.free s.freeCtr

/-- Move on to a fresh free value. -/
def State.useFree (s : State) : State := { s with freeCtr := s.freeCtr + 1 }

/-! ### Modes (Table 15.1) -/

def State.modeNo (s : State) : Nat := s.get F.sysMode_mode 0
abbrev mRESET : Nat := 0
abbrev mBOOT : Nat := 1
abbrev mMOORED : Nat := 2
abbrev mSERVICE : Nat := 3
abbrev mSLACK : Nat := 4
abbrev mHARBOUR : Nat := 5
abbrev mDRYDOCK : Nat := 6
abbrev mHALT : Nat := 7

/-- Whether IQn is paused (SYS_MODE.PAUSED, R428). -/
def State.paused (s : State) (q : Nat) : Bool := (s.get F.sysMode_paused 0).testBit q

/-- Whether frames move: SERVICE and SLACK. -/
def State.forwarding (s : State) : Bool := s.modeNo == mSERVICE || s.modeNo == mSLACK

/-- Any stack lost (R425). -/
def State.hbmFailed (s : State) : Bool := s.get F.sysStatus_hbmFail 0 != 0

/-! ### Time (R8, R291-R295, R487) -/

/-- Nanoseconds of TL: TL adds 1 ns per cycle from its start (R291, R292). -/
def State.tlNs (s : State) : Nat := s.time.tlNs

/-- Core clocks since reset: 1.5 GHz against the 1.0 GHz TIME_CLK (Table 1.4). -/
def State.coreClk (s : State) : Nat := s.ns * 3 / 2

/-- s.now: TL as seconds x 10^9 + nanoseconds (Table 2.2); 0 before TL starts (R292). -/
def State.now (s : State) : Word := BitVec.ofNat 64 s.tlNs

/-- A KTS-128 value (Table 0.7) from whole nanoseconds and a 16-bit fraction. -/
def kts (base : Nat) (flags epoch ns frac : Nat) : Stamp :=
  BitVec.ofNat 128 (base * 2 ^ 124 + flags % 16 * 2 ^ 120 + epoch % 256 * 2 ^ 112
    + ns / 1000000000 % 2 ^ 64 * 2 ^ 48 + ns % 1000000000 * 2 ^ 16 + frac % 2 ^ 16)

/-- TL in KTS-128 form, without flags (R294). -/
def State.ktsTl (s : State) : Stamp := kts 15 0 0 s.tlNs 0

/-- The nanoseconds of a KTS-128 value. -/
def ktsNs (t : Stamp) : Nat := (t.extractLsb' 48 64).toNat * 1000000000 + (t.extractLsb' 16 32).toNat
def ktsFrac (t : Stamp) : Nat := (t.extractLsb' 0 16).toNat
def ktsEpoch (t : Stamp) : Nat := (t.extractLsb' 112 8).toNat
def ktsBase (t : Stamp) : Nat := (t.extractLsb' 124 4).toNat
/-- A KTS-128 value in units of 2^-16 ns. -/
def kts16 (t : Stamp) : Nat := ktsNs t * 65536 + ktsFrac t

/-! ### General registers (R31) -/

/-- Read a general register: g0 reads as zero (R31). -/
def State.g (s : State) (x : CtxId) (r : RegNo) : Word :=
  if r = 0 then 0 else Tab.getD s.eng.gregs (x.code * 32 + r.val) 0

/-- Write a general register: writes to g0 are discarded (R31). -/
def State.setG (s : State) (x : CtxId) (r : RegNo) (v : Word) : State :=
  if r = 0 then s else { s with eng := { s.eng with gregs := Tab.put s.eng.gregs (x.code * 32 + r.val) v } }

/-- Zero g1-g31 of a context. -/
def State.zeroG (s : State) (x : CtxId) : State :=
  { s with eng := { s.eng with gregs := s.eng.gregs.filter (fun e => e.1 / 32 != x.code) } }

/-- The running program of a context. -/
def State.ctx? (s : State) (x : CtxId) : Option Ctx := Tab.get? s.eng.ctxs x.code

def State.setCtx (s : State) (x : CtxId) (c : Ctx) : State :=
  { s with eng := { s.eng with ctxs := Tab.put s.eng.ctxs x.code c } }

def State.delCtx (s : State) (x : CtxId) : State :=
  { s with eng := { s.eng with ctxs := Tab.del s.eng.ctxs x.code } }

def State.updCtx (s : State) (x : CtxId) (f : Ctx → Ctx) : State :=
  match s.ctx? x with
  | some c => s.setCtx x (f c)
  | none => s

def State.frame? (s : State) (fid : Nat) : Option Frame := Tab.get? s.eng.frames fid
def State.setFrame (s : State) (fid : Nat) (f : Frame) : State :=
  { s with eng := { s.eng with frames := Tab.put s.eng.frames fid f } }
def State.delFrame (s : State) (fid : Nat) : State :=
  { s with eng := { s.eng with frames := Tab.del s.eng.frames fid } }
def State.updFrame (s : State) (fid : Nat) (f : Frame → Frame) : State :=
  match s.frame? fid with
  | some x => s.setFrame fid (f x)
  | none => s

def State.quay (s : State) (q : Nat) : QuaySt := Tab.getD s.eng.quays q {}
def State.setQuay (s : State) (q : Nat) (v : QuaySt) : State :=
  { s with eng := { s.eng with quays := Tab.put s.eng.quays q v } }

def State.slice (s : State) (n : Nat) : SliceSt := Tab.getD s.led.slices n {}
def State.setSlice (s : State) (n : Nat) (v : SliceSt) : State :=
  { s with led := { s.led with slices := Tab.put s.led.slices n v } }

def State.portSt (s : State) (p : Nat) : PortSt := Tab.getD s.ports.st p {}
def State.setPortSt (s : State) (p : Nat) (v : PortSt) : State :=
  { s with ports := { s.ports with st := Tab.put s.ports.st p v } }

def State.base (s : State) (b : Nat) : Base := Tab.getD s.time.bases b {}
def State.setBase (s : State) (b : Nat) (v : Base) : State :=
  { s with time := { s.time with bases := Tab.put s.time.bases b v } }

def State.chan (s : State) (c : Nat) : ChanSt := Tab.getD s.cmd.chans c {}
def State.setChan (s : State) (c : Nat) (v : ChanSt) : State :=
  { s with cmd := { s.cmd with chans := Tab.put s.cmd.chans c v } }

def State.tport (s : State) (t : Nat) : TugPort := Tab.getD s.cmd.tugs t {}
def State.setTport (s : State) (t : Nat) (v : TugPort) : State :=
  { s with cmd := { s.cmd with tugs := Tab.put s.cmd.tugs t v } }

def State.tcore (s : State) (t : Nat) : TCore := Tab.getD s.tug.cores t {}
def State.setTcore (s : State) (t : Nat) (v : TCore) : State :=
  { s with tug := { s.tug with cores := Tab.put s.tug.cores t v } }

def State.task (s : State) (k : Nat) : Task := Tab.getD s.tug.tasks k {}
def State.setTask (s : State) (k : Nat) (v : Task) : State :=
  { s with tug := { s.tug with tasks := Tab.put s.tug.tasks k v } }

/-- One thing leaves the device. -/
def State.emit (s : State) (e : OutEv) : State := { s with out := s.out ++ [e] }

/-! ### Bit fields (R5, R40) -/

/-- A field of `w` bits counted up from bit `first` (little-endian spaces). -/
def fieldLe {n : Nat} (v : BitVec n) (first w : Nat) : Word := (v.extractLsb' first w).setWidth 64

/-- Replace a field counted up from bit `first`. -/
def putLe {n : Nat} (v : BitVec n) (first w : Nat) (x : Word) : BitVec n := putBits v first w x.toNat

/-- A field of `w` bits whose first bit is bit `first` in wire order, bit 0 being the most significant of `n` bits; bits
past the end read as zero. -/
def fieldBe {n : Nat} (v : BitVec n) (first w : Nat) : Word :=
  let wide : BitVec (n + 128) := v ++ (0 : BitVec 128)
  (wide.extractLsb' (n + 128 - first - w) w).setWidth 64

/-- Replace a field in wire order that lies inside the space. -/
def putBe {n : Nat} (v : BitVec n) (first w : Nat) (x : Word) : BitVec n := putBits v (n - first - w) w x.toNat

/-- Byte `i` of a manifest or record. -/
def byteLe {n : Nat} (v : BitVec n) (i : Nat) : Nat := (v.extractLsb' (8 * i) 8).toNat
/-- `k` little-endian bytes from byte `i`. -/
def bytesLe {n : Nat} (v : BitVec n) (i k : Nat) : Nat := (v.extractLsb' (8 * i) (8 * k)).toNat
/-- Write `k` little-endian bytes at byte `i`. -/
def putBytesLe {n : Nat} (v : BitVec n) (i k x : Nat) : BitVec n := putBits v (8 * i) (8 * k) x

/-- Bytes of a space in wire order (byte 0 most significant). -/
def wireBytes {n : Nat} (v : BitVec n) (i : Nat) : Nat → List Byte
  | 0 => []
  | k + 1 => (if 8 * i + 8 ≤ n then v.extractLsb' (n - 8 * i - 8) 8 else 0) :: wireBytes v (i + 1) k

/-- The wire-order space of a byte list, zero-padded or cut to `n` bits. -/
def ofWire (n : Nat) (l : List Byte) : BitVec n :=
  let k := n / 8
  BitVec.ofNat n (beNat ((l ++ List.replicate (k - l.length) (0 : Byte)).take k))

/-- The bytes of a little-endian space, byte 0 first. -/
def leBytesOf {n : Nat} (v : BitVec n) : List Byte := leBytes (n / 8) v.toNat

/-! ### Hashes and checks (R105, R225, Table 16.5) -/

/-- One round of KX64 over each 8 bytes (R105). -/
def kx64Rounds (h : Word) : List Byte → Nat → Word
  | _, 0 => h
  | [], _ => h
  | l, fuel + 1 =>
    let w : Word := BitVec.ofNat 64 (beNat (l.take 8 ++ List.replicate (8 - l.length) (0 : Byte)))
    let h1 := (h ^^^ w) * 0xBF58476D1CE4E5B9#64
    kx64Rounds (h1 ^^^ (h1 >>> 31)) (l.drop 8) fuel

/-- KX64 (R105). -/
def kx64 (s : List Byte) (seed : Word) : Word :=
  let h0 := seed ^^^ (BitVec.ofNat 64 s.length * 0x9E3779B97F4A7C15#64)
  let h1 := kx64Rounds h0 s s.length
  let h2 := h1 * 0x94D049BB133111EB#64
  h2 ^^^ (h2 >>> 29)

/-- Eight steps of a reflected CRC. -/
def crcBitsR (poly : BitVec 32) (c : BitVec 32) : Nat → BitVec 32
  | 0 => c
  | n + 1 => crcBitsR poly (if c.getLsbD 0 then (c >>> 1) ^^^ poly else c >>> 1) n

/-- A reflected 32-bit CRC state after more bytes; `poly` is the reversed polynomial. -/
def crcR (poly : BitVec 32) (c : BitVec 32) (l : List Byte) : BitVec 32 :=
  l.foldl (fun c b => crcBitsR poly (c ^^^ b.setWidth 32) 8) c

/-- Eight steps of a most-significant-first CRC of `w` bits kept in the low `w` of 32. -/
def crcBitsF (w : Nat) (poly c : BitVec 32) : Nat → BitVec 32
  | 0 => c
  | n + 1 => crcBitsF w poly (if c.getLsbD (w - 1) then ((c <<< 1) ^^^ poly) else c <<< 1) n

/-- A CRC of `w` bits, most significant bit first. -/
def crcF (w : Nat) (poly c : BitVec 32) (l : List Byte) : BitVec 32 :=
  l.foldl (fun c b => (crcBitsF w poly (c ^^^ ((b.setWidth 32 : BitVec 32) <<< (w - 8))) 8) &&& BitVec.ofNat 32 (2 ^ w - 1)) c

/-- The state of CRC-32C after bytes (R225): polynomial 0x1EDC_6F41 reflected. -/
def crc32c (c : BitVec 32) (l : List Byte) : BitVec 32 := crcR 0x82F63B78#32 c l
/-- The Ethernet FCS of a frame's bytes, least significant byte sent first. -/
def fcsOf (l : List Byte) : List Byte := leBytes 4 (~~~(crcR 0xEDB88320#32 0xFFFFFFFF#32 l)).toNat
/-- CRC-16/CCITT-FALSE (Tables 10.7, 16.5). -/
def crc16 (l : List Byte) : Nat := (crcF 16 0x1021#32 0xFFFF#32 l).toNat

/-- The ones'-complement sum of 16-bit big-endian words, folded; an odd last byte is the high byte of its word. -/
def onesSum : List Byte → Nat → Nat
  | [], a => a
  | [b], a => let t := a + b.toNat * 256; t % 65536 + t / 65536
  | b :: c :: r, a => let t := a + b.toNat * 256 + c.toNat; onesSum r (t % 65536 + t / 65536)

/-- Fold to 16 bits with end-around carry (CSADD, R38; RFC 1624). -/
def fold16 (a : Nat) : Nat := let t := a % 65536 + a / 65536; t % 65536 + t / 65536

/-! ### Handles (R7, Table 0.6) -/

def handle (type gen ix : Nat) : Nat := type * 2 ^ 28 + gen % 256 * 2 ^ 20 + ix
def hType (h : Nat) : Nat := h / 2 ^ 28 % 16
def hGen (h : Nat) : Nat := h / 2 ^ 20 % 256
def hIx (h : Nat) : Nat := h % 2 ^ 20

/-! ### Status codes (Table 0.8) -/
abbrev stOK : Nat := 0x00
abbrev stPOOL_EMPTY : Nat := 0x02
abbrev stNOT_OWNER : Nat := 0x03
abbrev stALREADY_FREE : Nat := 0x04
abbrev stTABLE_FULL : Nat := 0x05
abbrev stNOT_FOUND : Nat := 0x06
abbrev stEXISTS : Nat := 0x07
abbrev stBAD_HANDLE : Nat := 0x08
abbrev stBAD_MODE : Nat := 0x09
abbrev stPARITY : Nat := 0x0A
abbrev stABORTED : Nat := 0x0B
abbrev stMC_UCODE : Nat := 0x0C
abbrev stTIMEOUT : Nat := 0x0D
abbrev stDENIED : Nat := 0x0E
abbrev stBAD_PARAM : Nat := 0x0F
abbrev stGEN_BUSY : Nat := 0x10
abbrev stNO_DESC : Nat := 0x11
abbrev stPARTIAL : Nat := 0x12
abbrev stREPAIRED : Nat := 0x13
abbrev stNO_ROOM : Nat := 0x14

/-! ### HBM regions (R228) -/

/-- The HBM bytes of pool h: HOST (0) or LOG (1): base and size in bytes. -/
def State.hbmRegion (s : State) (h : Nat) : Nat × Nat :=
  (s.get F.bufHbmPool_base h * 2 ^ 30, s.get F.bufHbmPool_size h * 2 ^ 30)

def State.inRegion (s : State) (h a n : Nat) : Bool :=
  let r := s.hbmRegion h
  decide (r.1 ≤ a) && decide (a + n ≤ r.1 + r.2)

end Sys2Proof.Machine
end

