-- ==== Sys2Proof/Machine/Flags.lean ====
section
/-!
DEFINITION. Machine/Flags.lean: the manifest's fields and flags (Table 2.15), the parse flags (Table 3.1), the action word
(Table 2.17), which manifest bytes a profile may write (R68), and the exception causes and drop reasons by number.
-/
namespace Sys2Proof.Machine

/-! ### Manifest fields (Table 2.15): byte offset and size -/

abbrev mLen : Nat × Nat := (0x00, 2)
abbrev mPort : Nat × Nat := (0x02, 1)
abbrev mKind : Nat × Nat := (0x03, 1)
abbrev mItc : Nat × Nat := (0x04, 1)
abbrev mEtc : Nat × Nat := (0x05, 1)
abbrev mZone : Nat × Nat := (0x06, 2)
abbrev mSeq : Nat × Nat := (0x08, 2)
abbrev mBases : Nat × Nat := (0x0A, 2)
abbrev mPflags : Nat × Nat := (0x0C, 4)
abbrev mStamp : Nat × Nat := (0x10, 16)
abbrev mHcount : Nat × Nat := (0x38, 1)
abbrev mAct : Nat × Nat := (0x3C, 4)
abbrev mNh : Nat × Nat := (0x40, 4)
abbrev mQueue : Nat × Nat := (0x44, 4)
abbrev mRewrite : Nat × Nat := (0x48, 4)
abbrev mRepl : Nat × Nat := (0x4C, 2)
abbrev mEport : Nat × Nat := (0x4E, 1)
abbrev mTreq : Nat × Nat := (0x4F, 1)
abbrev mFhash : Nat × Nat := (0x50, 4)
abbrev mFprog : Nat × Nat := (0x54, 1)
abbrev mFstat : Nat × Nat := (0x55, 1)
abbrev mFflags : Nat × Nat := (0x56, 1)
abbrev mFcause : Nat × Nat := (0x57, 1)
abbrev mFres : Nat × Nat := (0x58, 24)

/-- Read a manifest field. -/
def mget (m : Man) (f : Nat × Nat) : Nat := bytesLe m f.1 f.2
/-- Write a manifest field. -/
def mset (m : Man) (f : Nat × Nat) (x : Nat) : Man := putBytesLe m f.1 f.2 x
/-- Read bits of a manifest field. -/
def mbits (m : Man) (f : Nat × Nat) (lo len : Nat) : Nat := mget m f / 2 ^ lo % 2 ^ len
/-- Write bits of a manifest field. -/
def msetBits (m : Man) (f : Nat × Nat) (lo len x : Nat) : Man := putBits m (8 * f.1 + lo) len x

/-- Ingress and egress traffic classes, zone, pass, generation. -/
def mItcOf (m : Man) : Nat := mbits m mItc 0 3
def mEtcOf (m : Man) : Nat := mbits m mEtc 0 3
def mZoneOf (m : Man) : Nat := mbits m mZone 0 12
def mPassOf (m : Man) : Nat := mbits m mKind 0 2
def mGenOf (m : Man) : Bool := mbits m mKind 2 1 == 1

/-! ### Parse flags (Table 3.1) -/

abbrev pfDEPTH : Nat := 0
abbrev pfLEN : Nat := 1
abbrev pfBUDGET : Nat := 2
abbrev pfFRAG_FIRST : Nat := 3
abbrev pfFRAG_LATER : Nat := 4
abbrev pfFRAG_HIT : Nat := 5
abbrev pfFRAG_NOFIRST : Nat := 6
abbrev pfFRAG_NESTED : Nat := 7
abbrev pfIP_OPTIONS : Nat := 8
abbrev pfL3_BAD : Nat := 9
abbrev pfL4_BAD : Nat := 10
abbrev pfNO_DEST : Nat := 11
abbrev pfLEN_PENDING : Nat := 12
abbrev pfPADDED : Nat := 13
abbrev pfTTL_LE1 : Nat := 14

/-- Whether parse flag `b` is set. -/
def mflag (m : Man) (b : Nat) : Bool := (mget m mPflags).testBit b
/-- Set parse flag `b`: a flag, once set, stays set for the pass (R75). -/
def mraise (m : Man) (b : Nat) : Man := msetBits m mPflags b 1 1
/-- Set a parse flag where `c` holds. -/
def mraiseIf (m : Man) (c : Bool) (b : Nat) : Man := if c then mraise m b else m
/-- LEN_PENDING follows the frame's end (R74). -/
def msetLenPending (m : Man) (c : Bool) : Man := msetBits m mPflags pfLEN_PENDING 1 c.toNat

/-! ### Action word (Table 2.17) -/

abbrev vFORWARD : Nat := 0
abbrev vDROP : Nat := 1
abbrev vEXCEPTION : Nat := 2
abbrev vRECIRCULATE : Nat := 3

def mVerdict (m : Man) : Nat := mbits m mAct 0 2
def mCopy (m : Man) : Bool := mbits m mAct 2 1 == 1
def mCause (m : Man) : Nat := mbits m mAct 3 6
def mSession (m : Man) : Nat := mbits m mAct 9 4
def mMirror (m : Man) : Bool := mbits m mAct 13 1 == 1
def mReason (m : Man) : Nat := mbits m mAct 16 8
/-- Verdict DROP with a reason. -/
def mDrop (m : Man) (r : Nat) : Man := msetBits (msetBits m mAct 0 2 vDROP) mAct 16 8 r
/-- Verdict EXCEPTION with a cause. -/
def mExc (m : Man) (c : Nat) : Man := msetBits (msetBits m mAct 0 2 vEXCEPTION) mAct 3 6 c
/-- A copy request with a cause. -/
def mCopyReq (m : Man) (c : Nat) : Man := msetBits (msetBits m mAct 2 1 1) mAct 3 6 c

/-! ### Flow flags (Table 2.15, byte 0x56) -/
abbrev ffNEW : Nat := 0
abbrev ffCACHE_HIT : Nat := 1
abbrev ffBUDGET : Nat := 2
abbrev ffEXC : Nat := 3
abbrev ffDROP : Nat := 4

/-! ### Rights of the profiles (R68) -/

/-- Whether a profile may write manifest byte `i`. -/
def manWritable (pr : Profile) (i : Nat) : Bool :=
  let inn (a b : Nat) : Bool := decide (a ≤ i) && decide (i ≤ b)
  match pr with
  | .p => inn 0x04 0x07 || inn 0x3A 0x3A || inn 0x3C 0x4F || inn 0x70 0x7F
  | .s => inn 0x40 0x4F || inn 0x58 0x6F
  | .e => inn 0x70 0x7F
  | _ => false

/-- The reserved bits of fields that programs write: writes to them are discarded (R68). -/
def manReserved : Man :=
  BitVec.ofNat 1024 (0xE0 * 2 ^ (8 * 0x04) + 0xF8 * 2 ^ (8 * 0x05) + 0xF000 * 2 ^ (8 * 0x06)
    + 0xFF00C000 * 2 ^ (8 * 0x3C) + 0xFFFE0000 * 2 ^ (8 * 0x44) + 0xFFFE0000 * 2 ^ (8 * 0x48) + 0x08 * 2 ^ (8 * 0x4F))

/-- Whether every byte from `i`, `k` of them, is writable by the profile. -/
def manWritableRange (pr : Profile) (i : Nat) : Nat → Bool
  | 0 => true
  | k + 1 => manWritable pr i && manWritableRange pr (i + 1) k

/-- Bits for bytes `i .. i + k - 1` in a record of which bytes were written. -/
def byteMask (i k : Nat) : BitVec 128 := BitVec.ofNat 128 ((2 ^ k - 1) * 2 ^ i)

/-- Merge bytes of `b` marked in `w` over `a` (R48: the stevedore's value stands). -/
def manMerge (a b : Man) (w : BitVec 128) : Nat → Man
  | 0 => a
  | n + 1 => manMerge (if w.getLsbD n then putBytesLe a n 1 (bytesLe b n 1) else a) b w n

/-! ### Exception causes (Table 3.4) and drop reasons -/

abbrev xPARSE_DEPTH : Nat := 0x01
abbrev xPARSE_LEN : Nat := 0x02
abbrev xPARSE_BUDGET : Nat := 0x03
abbrev xFRAG_NOFIRST : Nat := 0x04
abbrev xFRAG_SLOWPATH : Nat := 0x05
abbrev xFRAG_TBL_FULL : Nat := 0x06
abbrev xLEDGER_NOROOM : Nat := 0x0A
abbrev xSAMPLE : Nat := 0x0C
abbrev xPROGRAM_TRAP : Nat := 0x0E
abbrev xUNCLASSIFIED : Nat := 0x3F

/-- Codes 0x1E to 0x2F are reserved and are treated as UNCLASSIFIED (R89). -/
def causeOf (c : Nat) : Nat := if 0x1E ≤ c ∧ c ≤ 0x2F then xUNCLASSIFIED else c

abbrev rRECIRC_LIMIT : Nat := 0x01
abbrev rBUDGET : Nat := 0x02
abbrev rPROGRAM_FAULT : Nat := 0x03
abbrev rPARSE_LEN : Nat := 0x04
abbrev rFRAG_NOFIRST : Nat := 0x05
abbrev rEXC_LIMITED : Nat := 0x06
abbrev rNO_DESC : Nat := 0x1E
abbrev rHARBOUR_ENTRY : Nat := 0x1F
abbrev rCARGO_SEAL : Nat := 0x20

end Sys2Proof.Machine
end

