-- ==== Sys2Proof/Machine/Operands.lean ====
section
/-!
DEFINITION. Machine/Operands.lean: the operand forms: sign and zero extension, the shift kinds of SHI, the field of F-X
(R40), and the operand words of a control instruction (R57, Table 11.5): words, fields of words, keys and CTL descriptors.
-/
namespace Sys2Proof.Machine

/-- sext(v, n): sign-extend the low n bits. -/
def sextN (v : Word) (n : Nat) : Word := if n ≥ 64 ∨ n = 0 then v else (v <<< (64 - n)).sshiftRight (64 - n)
/-- zext(v, n): the low n bits. -/
def zextN (v : Word) (n : Nat) : Word := if n ≥ 64 then v else v &&& BitVec.ofNat 64 (2 ^ n - 1)

/-- A sign-extended 16-bit immediate. -/
def simm (imm : BitVec 16) : Word := imm.signExtend 64
/-- A zero-extended 16-bit immediate. -/
def zimm (imm : BitVec 16) : Word := imm.setWidth 64
/-- A bit field of a 16-bit immediate. -/
def immBits (imm : BitVec 16) (lo len : Nat) : Nat := (imm.extractLsb' lo len).toNat

/-- The shift of kind 0 SHL, 1 SHR, 2 SAR, 3 ROL (R39). -/
def shiftKind (k : Nat) (a : Word) (n : Nat) : Word :=
  match k with
  | 0 => a <<< n
  | 1 => a >>> n
  | 2 => a.sshiftRight n
  | _ => a.rotateLeft n

/-- First bit of a field and its width (R40). -/
def fopFirst (f : FieldOp) (cur : Nat) : Nat := 8 * (f.off.toNat + cur) + f.bit.toNat
def fopWidth (f : FieldOp) : Nat := f.wm1.toNat + 1
/-- The last byte that a field covers, one past. -/
def fopEnd (f : FieldOp) (cur : Nat) : Nat := (fopFirst f cur + fopWidth f + 7) / 8
/-- The first byte that a field covers. -/
def fopStart (f : FieldOp) (cur : Nat) : Nat := f.off.toNat + cur + f.bit.toNat / 8
/-- sext or zext of an extracted field. -/
def fopExtend (f : FieldOp) (v : Word) : Word := if f.sx then sextN v (fopWidth f) else zextN v (fopWidth f)

/-! ### Operand words of a control instruction -/

/-- Operand word `i`; a word the CTL does not supply reads as 0 and fails the count check. -/
def wd (w : List Word) (i : Nat) : Nat := (w.getD i 0).toNat
/-- A field of operand word `i`. -/
def wf (w : List Word) (i lo len : Nat) : Nat := wd w i / 2 ^ lo % 2 ^ len
/-- A flag of operand word `i`. -/
def wb (w : List Word) (i lo : Nat) : Bool := wf w i lo 1 == 1
/-- A key of `l` bytes from word `i`: key byte j in bits [8(j mod 8)+7 : 8(j mod 8)] of key word j / 8. -/
def wkey (w : List Word) (i l : Nat) : List Byte :=
  ((w.drop i).flatMap (fun v => leBytes 8 v.toNat)).take l
/-- The words that a key of `l` bytes takes. -/
def keyWords (l : Nat) : Nat := (l + 7) / 8
/-- Key bytes as result words. -/
def keyToWords (k : List Byte) : List Word :=
  (List.range (keyWords k.length)).map (fun j => BitVec.ofNat 64 (leNat ((k.drop (8 * j)).take 8)))

/-- The CTL operand descriptor (Table 2.13b). -/
structure CtlDesc where
  inl : Bool
  rs : Nat
  n : Nat
  tag : Nat
  deriving DecidableEq, Repr

def ctlDesc (d : Nat) : CtlDesc := ⟨d.testBit 15, d / 2 ^ 10 % 32, d / 2 ^ 6 % 16, d % 64⟩

end Sys2Proof.Machine
end

