-- ==== Sys2Proof/WellFormed.lean ====
section
/-!
DEFINITION. WellFormed.lean: which commands are well formed. For an instruction of an engine these are the checks of R36, R37
and R63 that the word alone decides: the profile may run it, every reserved bit and number is legal, the field lies inside its
space and, for a write, inside the profile's rights. Operand lists have the lengths the rules give them.
-/
namespace Sys2Proof

/-- Profiles that may run an instruction (Table 2.10). -/
def inProfiles (x : CtxId) (l : List Profile) : Bool := l.contains x.profile

/-- Space numbers (Table 2.3). -/
abbrev spH : Nat := 0
abbrev spM : Nat := 1
abbrev spF : Nat := 2
abbrev spK : Nat := 3
abbrev spD : Nat := 5

/-- Spaces that an extract of a profile may name, without and with the cursor. -/
def readSpaces : Profile → Bool → List Nat
  | .p, _ => [spH, spM, spK]
  | .e, _ => [spH, spM, spK]
  | .s, false => [spM, spF]
  | .t, false => [spD]
  | _, _ => []
/-- Spaces that an insert of a profile may name. -/
def writeSpaces : Profile → Bool → List Nat
  | .p, false => [spM, spK]
  | .e, _ => [spH, spM, spK]
  | .s, false => [spM, spF]
  | .t, false => [spD]
  | _, _ => []
/-- Bytes of a space (Table 2.3); the 256-B window of D may be left by a field's last bytes. -/
def spaceBytes (sp : Nat) : Nat := match sp with | 0 => 256 | 1 => 128 | 2 => 128 | 3 => 64 | _ => 264

/-- EXT and EXTC (R40, R41, R63, R483). -/
def wfExt (x : CtxId) (f : FieldOp) (cur : Bool) : Bool :=
  (readSpaces x.profile cur).contains f.space.toNat && decide (Machine.fopEnd f 0 ≤ spaceBytes f.space.toNat)
/-- INS and INSC (R40, R63, R68, R483). -/
def wfIns (x : CtxId) (f : FieldOp) (cur : Bool) : Bool :=
  !f.sx && (writeSpaces x.profile cur).contains f.space.toNat && decide (Machine.fopEnd f 0 ≤ spaceBytes f.space.toNat) &&
  (f.space.toNat != spM || Machine.manWritableRange x.profile (Machine.fopStart f 0) (Machine.fopEnd f 0 - Machine.fopStart f 0))

/-- Header types of Table 2.12 that are not reserved. -/
def wfHeader (t : Nat) : Bool := (decide (1 ≤ t) && decide (t ≤ 15)) || decide (24 ≤ t)
/-- HDR (R42). -/
def wfHdr (x : CtxId) (rd : RegNo) (imm : BitVec 16) : Bool :=
  inProfiles x [.p] && wfHeader rd.val && decide (imm.toNat < 256)
/-- ADVC (R43). -/
def wfAdvc (x : CtxId) (rd : RegNo) (imm : BitVec 16) : Bool :=
  inProfiles x [.p, .e] && decide (rd.val = 0) && decide (imm.toNat < 256)
/-- LKP (Table 2.8): the key lies inside K. -/
def wfLkp (x : CtxId) (klen koff : BitVec 6) : Bool := inProfiles x [.p, .e] && decide (koff.toNat + klen.toNat + 1 ≤ 64)
/-- MTR (R46). -/
def wfMtr (x : CtxId) (ra : RegNo) (func : BitVec 11) : Bool :=
  inProfiles x [.p, .s] && decide (func.toNat < 4) && (x.profile != .s || decide (ra.val = 0))
/-- HSH (R45). -/
def wfHsh (x : CtxId) (ra : RegNo) (imm : BitVec 16) : Bool :=
  inProfiles x [.p, .e] && decide (ra.val = 0) && decide (Machine.immBits imm 0 6 + Machine.immBits imm 6 6 + 1 ≤ 64)
/-- FLOW (R47). -/
def wfFlow (x : CtxId) (ra : RegNo) (imm : BitVec 16) : Bool :=
  inProfiles x [.p] && decide (ra.val = 0) && decide (imm.toNat < 2 ^ 14)
/-- BR (R50, R51). -/
def wfBr (x : CtxId) (cond : BitVec 4) (i : Bool) (ra rb : RegNo) (disp : BitVec 11) : Bool :=
  let c := cond.toNat
  inProfiles x [.p, .s, .e, .t] && decide (disp.toNat ≠ 0) && (x.profile == .t || decide (disp.toNat < 1024)) &&
  (if c ≤ 7 then true
   else if c = 8 ∨ c = 9 then !i && decide (rb.val = 0)
   else if c = 10 then inProfiles x [.p, .e] && decide (ra.val = 0)
   else if c = 12 then !i && decide (ra.val = 0) && decide (rb.val = 0)
   else false)
/-- Special registers that a profile may read, and write (Table 2.2). -/
def readSpecial : Profile → List Nat
  | .p => [0, 2, 3, 4, 5, 6, 7, 8]
  | .e => [0, 2, 3, 4, 5, 6, 7, 8]
  | .s => [0, 2, 4, 5, 6, 7, 8]
  | .t => [0, 2, 6, 7, 8, 0x14, 0x15, 0x18, 0x19, 0x1A, 0x1B, 0x20, 0x21, 0x22, 0x23, 0x24, 0x25]
  | .k => []
def writeSpecial : Profile → List Nat
  | .e => [3]
  | .t => [0x14, 0x18, 0x19, 0x1A, 0x1B, 0x20, 0x21, 0x22]
  | _ => []
/-- MFS and MTS (R33, R56). -/
def wfMfs (x : CtxId) (ra : RegNo) (imm : BitVec 16) : Bool :=
  decide (ra.val = 0) && decide (imm.toNat < 64) && (readSpecial x.profile).contains imm.toNat
def wfMts (x : CtxId) (rd : RegNo) (imm : BitVec 16) : Bool :=
  decide (rd.val = 0) && decide (imm.toNat < 64) && (writeSpecial x.profile).contains imm.toNat
/-- CTL in profile T (R57): the operand registers lie below 32. -/
def wfCtl (desc : BitVec 16) : Bool :=
  let d := Machine.ctlDesc desc.toNat
  d.inl || decide (d.n = 0) || decide (d.rs + d.n ≤ 32)
/-- A control instruction carries at most 15 operand words (Table 2.13b). -/
def wfOps (w : List Word) : Bool := decide (w.length ≤ 15)

/-- Whether a command is well formed. -/
def Instr.wf : Instr → Bool
  | .frameRxStart .. => true
  | .frameRxEnd .. => true
  | .headDispatch .. => true
  | .add x _ _ _ => inProfiles x [.p, .s, .e, .t]
  | .sub x _ _ _ => inProfiles x [.p, .s, .e, .t]
  | .andd x _ _ _ => inProfiles x [.p, .s, .e, .t]
  | .orr x _ _ _ => inProfiles x [.p, .s, .e, .t]
  | .xor x _ _ _ => inProfiles x [.p, .s, .e, .t]
  | .andn x _ _ _ => inProfiles x [.p, .s, .e, .t]
  | .shl x _ _ _ => inProfiles x [.p, .s, .e, .t]
  | .shr x _ _ _ => inProfiles x [.p, .s, .e, .t]
  | .sar x _ _ _ => inProfiles x [.p, .s, .e, .t]
  | .rol x _ _ _ => inProfiles x [.p, .s, .e, .t]
  | .minu x _ _ _ => inProfiles x [.p, .s, .e, .t]
  | .maxu x _ _ _ => inProfiles x [.p, .s, .e, .t]
  | .min x _ _ _ => inProfiles x [.p, .s, .e, .t]
  | .max x _ _ _ => inProfiles x [.p, .s, .e, .t]
  | .sltu x _ _ _ => inProfiles x [.p, .s, .e, .t]
  | .slt x _ _ _ => inProfiles x [.p, .s, .e, .t]
  | .mul x _ _ _ => inProfiles x [.p, .s, .e, .t]
  | .popc x _ _ _ => inProfiles x [.p, .s, .e, .t]
  | .clz x _ _ _ => inProfiles x [.p, .s, .e, .t]
  | .bswap16 x _ _ _ => inProfiles x [.p, .s, .e, .t]
  | .bswap32 x _ _ _ => inProfiles x [.p, .s, .e, .t]
  | .bswap64 x _ _ _ => inProfiles x [.p, .s, .e, .t]
  | .csadd x _ _ _ => inProfiles x [.p, .s, .e, .t]
  | .addi _ _ _ _ => true
  | .andi _ _ _ _ => true
  | .ori _ _ _ _ => true
  | .xori _ _ _ _ => true
  | .shi _ _ _ imm => decide (imm.toNat < 256)
  | .movi _ _ ra _ => decide (ra.val < 8)
  | .ext x _ f => wfExt x f false
  | .extc x _ f => wfExt x f true
  | .ins x _ f => wfIns x f false
  | .insc x _ f => wfIns x f true
  | .hdr x rd _ imm => wfHdr x rd imm
  | .advc x rd _ imm => wfAdvc x rd imm
  | .lkp x _ klen _ koff _ => wfLkp x klen koff
  | .lookupReply .. => true
  | .mtr x _ ra _ func => wfMtr x ra func
  | .meterReply .. => true
  | .hsh x _ ra imm => wfHsh x ra imm
  | .flow x _ ra imm => wfFlow x ra imm
  | .ldb .. => true
  | .ldh .. => true
  | .ldw .. => true
  | .ldd .. => true
  | .stb .. => true
  | .sth .. => true
  | .stw .. => true
  | .std .. => true
  | .ldc .. => true
  | .stc .. => true
  | .ldcd .. => true
  | .stcd .. => true
  | .amoAdd .. => true
  | .amoSwap .. => true
  | .amoOr .. => true
  | .amoAnd .. => true
  | .amoCas .. => true
  | .br x cond i ra rb disp => wfBr x cond i ra rb disp
  | .jal _ _ ra _ => decide (ra.val = 0)
  | .jr _ rd _ rb func => decide (rd.val = 0) && decide (rb.val = 0) && decide (func.toNat = 0)
  | .mfs x _ ra imm => wfMfs x ra imm
  | .mts x rd _ imm => wfMts x rd imm
  | .ctl _ _ desc => wfCtl desc
  | .nop x => inProfiles x [.p, .s, .e, .t]
  | .endProg x => inProfiles x [.p, .e]
  | .drop x _ => inProfiles x [.p, .s, .e]
  | .excp x _ _ => inProfiles x [.p, .s, .e]
  | .recirc x => inProfiles x [.p]
  | .mirror x _ => inProfiles x [.p, .e]
  | .fend x _ _ => inProfiles x [.s]
  | .waitPend x => inProfiles x [.p, .s, .e, .t]
  | .trap .. => true
  | .tret .. => true
  | .fence .. => true
  | .waitf .. => true
  | .yield .. => true
  | .interruptTaken .. => true
  | .flowRequestAccept .. => true
  | .indexReadDone .. => true
  | .recordReadDone .. => true
  | .stevedoreDispatch .. => true
  | .flowPassReturn .. => true
  | .indexWriteDone .. => true
  | .indexUnitMove .. => true
  | .ledgerAgerVisit .. => true
  | .rehashMigrate .. => true
  | .release .. => true
  | .replicationCopy .. => true
  | .allocRequest .. => true
  | .cellWriteStart .. => true
  | .enqueue .. => true
  | .tmSelect .. => true
  | .egressReadStart .. => true
  | .egressCommit .. => true
  | .txComplete .. => true
  | .breakwaterTick => true
  | .learnFilter .. => true
  | .emAgeTick .. => true
  | .emAgerVisit .. => true
  | .fragAgeTick => true
  | .lpmSpareReturn => true
  | .tableRepair => true
  | .meterSweep => true
  | .depthSampleSweep => true
  | .gclEntryAdvance .. => true
  | .gclChange .. => true
  | .linkUp .. => true
  | .linkDown .. => true
  | .calDone .. => true
  | .linkHoldExpiry .. => true
  | .fecDegradedTick .. => true
  | .pauseFrameRx .. => true
  | .pfcFrameRx _ _ quanta => decide (quanta.length = 8)
  | .pauseExpiry .. => true
  | .pfcRefresh .. => true
  | .pfcWdTick .. => true
  | .lpiEnter .. => true
  | .rxLpi .. => true
  | .preemptVerifySend .. => true
  | .preemptVerifyResponse .. => true
  | .measTimeout .. => true
  | .jumpWindowEnd .. => true
  | .acceptAfterExpiry .. => true
  | .replicaLoopUpdate .. => true
  | .ppsInEdge .. => true
  | .ppsInLoss .. => true
  | .ppsOutEdge .. => true
  | .todTxSend .. => true
  | .todRxMessage .. => true
  | .dpllQualify .. => true
  | .dpllDisqualify .. => true
  | .dpllState .. => true
  | .txtsDrain .. => true
  | .doorbellTail .. => true
  | .doorbellHead .. => true
  | .cmdDispatch .. => true
  | .sliceEnd .. => true
  | .parkWake .. => true
  | .parkTimeout .. => true
  | .chanOpen _ _ w => wfOps w
  | .chanClose _ _ w => wfOps w
  | .chanInfo _ _ w => wfOps w
  | .cmdAbort _ _ w => wfOps w
  | .cmdWait _ _ w => wfOps w
  | .barrier _ _ w => wfOps w
  | .getReg _ _ w => wfOps w
  | .setReg _ _ w => wfOps w
  | .setMasked _ _ w => wfOps w
  | .setm _ _ w => wfOps w
  | .sysModeMoored _ _ w => wfOps w
  | .sysModeService _ _ w => wfOps w
  | .sysModeSlack _ _ w => wfOps w
  | .sysModeDrydock _ _ w => wfOps w
  | .sysModeHalt _ _ w => wfOps w
  | .harbour _ _ w => wfOps w
  | .emInsert _ _ w => wfOps w
  | .emDelete _ _ w => wfOps w
  | .emUpdate _ _ w => wfOps w
  | .emSearch _ _ w => wfOps w
  | .emNext _ _ w => wfOps w
  | .emFlushPort _ _ w => wfOps w
  | .lpmInsert _ _ w => wfOps w
  | .lpmDelete _ _ w => wfOps w
  | .lpmSearch _ _ w => wfOps w
  | .lpmNext _ _ w => wfOps w
  | .tcamWrite _ _ w => wfOps w
  | .tcamRead _ _ w => wfOps w
  | .tcamClear _ _ w => wfOps w
  | .objWrite _ _ w => wfOps w
  | .objRead _ _ w => wfOps w
  | .progLoad _ _ w => wfOps w
  | .genSwap _ _ w => wfOps w
  | .flowRead _ _ w => wfOps w
  | .flowWrite _ _ w => wfOps w
  | .flowDelete _ _ w => wfOps w
  | .flowPin _ _ w => wfOps w
  | .flowUnpin _ _ w => wfOps w
  | .flowNext _ _ w => wfOps w
  | .ledgerRehash _ _ w => wfOps w
  | .tmShaper _ _ w => wfOps w
  | .tmGcl _ _ w => wfOps w
  | .timeMeas _ _ w => wfOps w
  | .timeMaster _ _ w => wfOps w
  | .timeAcceptStep _ _ w => wfOps w
  | .timeAcceptSlew _ _ w => wfOps w
  | .timeAcceptKeep _ _ w => wfOps w
  | .timeXgOpen _ _ w => wfOps w
  | .timeXgClose _ _ w => wfOps w
  | .logSeal _ _ w => wfOps w
  | .logPartOpen _ _ w => wfOps w
  | .logPartClose _ _ w => wfOps w
  | .taskCreate _ _ w => wfOps w
  | .taskRearm _ _ w => wfOps w
  | .taskCancel _ _ w => wfOps w
  | .taskSignal _ _ w => wfOps w
  | .mboxPost _ _ w => wfOps w
  | .bufAlloc _ _ w => wfOps w
  | .bufFree _ _ w => wfOps w
  | .bufGive _ _ w => wfOps w
  | .ucodePatch _ _ w => wfOps w
  | .ucodeInfo _ _ w => wfOps w
  | .taskPlace .. => true
  | .contextSwitch .. => true
  | .delayListExpiry => true
  | .send0 .. => true
  | .send1 .. => true
  | .recv0 .. => true
  | .recv1 .. => true
  | .exqHeadWrite .. => true
  | .wdKick .. => true
  | .timerWrite .. => true
  | .timerExpiry .. => true
  | .ipi .. => true
  | .coreWdExpiry .. => true
  | .syswdKick .. => true
  | .syswdExpiry => true
  | .pmcSnapshot .. => true
  | .pmcSampleHead .. => true
  | .rxpDelivery .. => true
  | .rxpStallExpiry .. => true
  | .txpFetch .. => true
  | .evtHoldRelease .. => true
  | .evtHoldExpiry .. => true
  | .recEntryServe .. => true
  | .msixSend .. => true
  | .msixUnmask .. => true
  | .dmaReadError .. => true
  | .functionLevelReset .. => true
  | .vfEnableClear => true
  | .busMasterDisable .. => true
  | .bar4Access .. => true
  | .hostErrStatusClear .. => true
  | .logCapture => true
  | .sealMsExpiry .. => true
  | .sealSign => true
  | .chunkWriteDone .. => true
  | .segmentFlushDone .. => true
  | .driveWriteFail .. => true
  | .logScanDone .. => true
  | .resetAssert => true
  | .resetRelease => true
  | .dpll0Stable => true
  | .bootComplete .. => true
  | .bootError .. => true
  | .sysReset .. => true
  | .harbourNAssert => true
  | .harbourNDeassert => true
  | .harbourEntry => true
  | .hborFrameRx .. => true
  | .hborLaunch .. => true
  | .hborDrainExpiry => true
  | .harbourExitComplete => true
  | .slackQuiesced => true
  | .slackTimeout => true
  | .haltEntry => true
  | .hborBankSwitch .. => true
  | .hborBankCheckDone => true
  | .sysHborCauseClear .. => true
  | .drydockBistStart .. => true
  | .drydockBistDone .. => true
  | .pwrOkLoss => true
  | .thermtrip => true
  | .tempAlarm .. => true
  | .avsCommand .. => true
  | .scrubVisit .. => true
  | .sealStormTick => true
  | .corrRateTick => true
  | .sealStart .. => true
  | .sealRangeDone .. => true
  | .sealData .. => true
  | .sealFinal .. => true
  | .sealReset .. => true
  | .sealRunningWrite .. => true
  | .secArbAdvance .. => true
  | .ownerSlotProgram .. => true
  | .ownerRevoke .. => true
  | .debugLock .. => true
  | .attestationStart => true
  | .attestationDone => true
  | .debugOpen => true
  | .quayFragFlush .. => true
  | .quayBwCfgWrite .. => true
  | .egrMirrorCfgWrite .. => true
  | .tmLatCfgWrite .. => true
  | .tmLatCountRead .. => true
  | .timeNowRead .. => true
  | .txtsDataRead .. => true
  | .logEnable .. => true
  | .driveReady .. => true
  | .cmdEngineUnfence .. => true
  | .mboxEnable .. => true
  | .counterReadClear .. => true
  | .registerWrite .. => true
  | .illegalInstruction .. => true
  | .linkConditionsMet .. => true
  | .linkConditionFailed .. => true
  | .thermtripClear => true
  | .hbmStackLost .. => true
  | .cryptoSelfTestFail => true
  | .qualityTrained .. => true
  | .degradeAfterExpiry .. => true
  | .holdReady .. => true
  | .recReadComplete .. => true
  | .retentionExpiry .. => true
  | .driveLinked .. => true
  | .driveRemoved .. => true

end Sys2Proof
end

