-- ==== Sys2Proof/Decode.lean ====
section
/-!
DEFINITION. Decode.lean: an instruction word read into its command (Tables 2.4 to 2.13c), as PROG.LOAD, the command engines and
the tug cores read it; and the host's table word, which this table never spells, since no row of it gives bits.
-/
namespace Sys2Proof

/-- Bits of an instruction word. -/
def wbits (w : BitVec 32) (lo len : Nat) : Nat := (w.extractLsb' lo len).toNat
/-- A register number of an instruction word. -/
def wreg (w : BitVec 32) (lo : Nat) : RegNo := ⟨(w.extractLsb' lo 5).toNat, (w.extractLsb' lo 5).isLt⟩

/-- The ALU function in [5:0] (Table 2.11). -/
def aluInstr (x : CtxId) (rd ra rb : RegNo) : Nat → Option Instr
  | 0x00 => some (.add x rd ra rb)
  | 0x01 => some (.sub x rd ra rb)
  | 0x02 => some (.andd x rd ra rb)
  | 0x03 => some (.orr x rd ra rb)
  | 0x04 => some (.xor x rd ra rb)
  | 0x05 => some (.andn x rd ra rb)
  | 0x06 => some (.shl x rd ra rb)
  | 0x07 => some (.shr x rd ra rb)
  | 0x08 => some (.sar x rd ra rb)
  | 0x09 => some (.rol x rd ra rb)
  | 0x0A => some (.minu x rd ra rb)
  | 0x0B => some (.maxu x rd ra rb)
  | 0x0C => some (.min x rd ra rb)
  | 0x0D => some (.max x rd ra rb)
  | 0x0E => some (.sltu x rd ra rb)
  | 0x0F => some (.slt x rd ra rb)
  | 0x10 => some (.mul x rd ra rb)
  | 0x11 => some (.popc x rd ra rb)
  | 0x12 => some (.clz x rd ra rb)
  | 0x13 => some (.bswap16 x rd ra rb)
  | 0x14 => some (.bswap32 x rd ra rb)
  | 0x15 => some (.bswap64 x rd ra rb)
  | 0x16 => some (.csadd x rd ra rb)
  | _ => none

/-- A DPC operation (Table 2.13c); reserved descriptor bits must be 0 (R58). -/
def dpcInstr (x : CtxId) (op d : Nat) : Option Instr :=
  match op, x with
  | 0x000, _ => if d = 0 then some (.nop x) else none
  | 0x001, _ => if d = 0 then some (.endProg x) else none
  | 0x002, _ => if d < 256 then some (.drop x (BitVec.ofNat 8 d)) else none
  | 0x003, _ => if d / 64 = 0 ∨ d / 64 = 4 then some (.excp x (BitVec.ofNat 6 d) (d.testBit 8)) else none
  | 0x004, _ => if d = 0 then some (.recirc x) else none
  | 0x005, _ => if d < 16 then some (.mirror x (BitVec.ofNat 4 d)) else none
  | 0x008, _ => if d < 4 then some (.fend x (d.testBit 0) (d.testBit 1)) else none
  | 0x010, _ => if d = 0 then some (.waitPend x) else none
  | 0x020, .tug t => if d < 256 then some (.trap t (BitVec.ofNat 8 d)) else none
  | 0x021, .tug t => if d = 0 then some (.tret t) else none
  | 0x022, .tug t => if d = 0 then some (.fence t) else none
  | 0x023, .tug t => if h : d < 32 then some (.waitf t ⟨d, h⟩) else none
  | 0x024, .tug t => if d = 0 then some (.yield t) else none
  | _, _ => none

/-- An instruction of profile T alone (Table 2.10). -/
def tugInstr (t : Core) (w : BitVec 32) : Option Instr :=
  let rd := wreg w 21
  let ra := wreg w 16
  let rb := wreg w 11
  let imm := w.extractLsb' 0 16
  match wbits w 26 6 with
  | 0x28 => some (.ldb t rd ra imm false)
  | 0x29 => some (.ldh t rd ra imm false)
  | 0x2A => some (.ldw t rd ra imm false)
  | 0x2B => some (.ldd t rd ra imm false)
  | 0x2C => some (.stb t rd ra imm)
  | 0x2D => some (.sth t rd ra imm)
  | 0x2E => some (.stw t rd ra imm)
  | 0x2F => some (.std t rd ra imm)
  | 0x30 => some (.ldc t rd ra imm)
  | 0x31 => some (.stc t rd ra imm)
  | 0x32 => some (.ldcd t rd ra imm)
  | 0x33 => some (.stcd t rd ra imm)
  | 0x34 =>
    match wbits w 0 11 with
    | 0 => some (.amoAdd t rd ra rb false)
    | 1 => some (.amoSwap t rd ra rb false)
    | 2 => some (.amoOr t rd ra rb false)
    | 3 => some (.amoAnd t rd ra rb false)
    | 4 => some (.amoCas t rd ra rb false)
    | _ => none
  | 0x39 => some (.jal t rd ra imm)
  | 0x3A => some (.jr t rd ra rb (w.extractLsb' 0 11))
  | 0x3E => some (.ctl t (w.extractLsb' 16 10) imm)
  | _ => none

/-- The instruction that a word spells in context `x`, before the checks of `Instr.wf` (R36, R37). -/
def wordInstr (x : CtxId) (w : BitVec 32) : Option Instr :=
  let rd := wreg w 21
  let ra := wreg w 16
  let rb := wreg w 11
  let imm := w.extractLsb' 0 16
  let fop : FieldOp := ⟨w.extractLsb' 18 3, w.extractLsb' 10 8, w.extractLsb' 7 3, w.extractLsb' 1 6, w.getLsbD 0⟩
  match wbits w 26 6 with
  | 0x01 => if wbits w 6 5 = 0 then aluInstr x rd ra rb (wbits w 0 6) else none
  | 0x02 => some (.addi x rd ra imm)
  | 0x03 => some (.andi x rd ra imm)
  | 0x04 => some (.ori x rd ra imm)
  | 0x05 => some (.xori x rd ra imm)
  | 0x06 => some (.shi x rd ra imm)
  | 0x07 => some (.movi x rd ra imm)
  | 0x10 => some (.ext x rd fop)
  | 0x11 => some (.extc x rd fop)
  | 0x12 => some (.ins x rd fop)
  | 0x13 => some (.insc x rd fop)
  | 0x14 => some (.hdr x rd ra imm)
  | 0x15 => some (.advc x rd ra imm)
  | 0x20 =>
    if wbits w 1 2 = 0 then some (.lkp x (w.extractLsb' 20 6) (w.extractLsb' 14 6) (wreg w 9) (w.extractLsb' 3 6) (w.getLsbD 0)) else none
  | 0x21 => some (.mtr x rd ra rb (w.extractLsb' 0 11))
  | 0x22 => some (.hsh x rd ra imm)
  | 0x24 => some (.flow x rd ra imm)
  | 0x38 => some (.br x (w.extractLsb' 22 4) (w.getLsbD 21) ra rb (w.extractLsb' 0 11))
  | 0x3C => some (.mfs x rd ra imm)
  | 0x3D => some (.mts x rd ra imm)
  | 0x3F => dpcInstr x (wbits w 16 10) (wbits w 0 16)
  | _ => match x with | .tug t => tugInstr t w | _ => none

/-- The command that a word of the opcode table spells: no row of this block's table gives bits, so there is none. -/
def decodeTableWord (_nbits _w : Nat) : Option Instr := none

end Sys2Proof
end

