-- ==== Sys2Proof/Machine/Events.lean ====
section
/-!
DEFINITION. Machine/Events.lean: what every block uses to speak to the outside: host and D memory accesses, MSI-X vectors and
the error tree, task signals, core and device counters with their samples, the firmware exception queue, EVT rings, captures
for the harbour log, RAS events and machine checks, and harbour causes.
-/
namespace Sys2Proof.Machine

/-! ### Memories (Table 12.1, R380, R381) -/

/-- The HBM window of the D map starts here. -/
abbrev hbmWin : Nat := 0x1000000000
/-- The bytes of HBM: 96 GiB. -/
abbrev hbmSize : Nat := 96 * 2 ^ 30

/-- The cell of D memory that core `t` reaches at address `a`: 0x0000_0000 is its own local memory (R351). -/
def dCell (t a : Nat) : Nat := if a < 0x40000 then 0x01000000 + t * 0x40000 + a else a

/-- Read bytes of D memory or of the HBM window. -/
def State.dRead (s : State) (t a n : Nat) : List Byte :=
  if hbmWin ≤ a then s.hbm.bytes (a - hbmWin) n else s.dmem.bytes (dCell t a) n

/-- Write bytes of D memory or of the HBM window. -/
def State.dWrite (s : State) (t a : Nat) (l : List Byte) : State :=
  if hbmWin ≤ a then { s with hbm := s.hbm.setBytes (a - hbmWin) l } else { s with dmem := s.dmem.setBytes (dCell t a) l }

/-- Host memory as function `fn` addresses it: each function has its own address space (R381). -/
def hostCell (fn a : Nat) : Nat := fn * 2 ^ 64 + a

def State.hostRead (s : State) (fn a n : Nat) : List Byte := s.hostMem.bytes (hostCell fn a) n
def State.hostWrite (s : State) (fn a : Nat) (l : List Byte) : State :=
  { s with hostMem := s.hostMem.setBytes (hostCell fn a) l }

/-- The function, the LOCAL flag and the index of a channel decide where its addresses lead (log entry 10). -/
def State.chanFn (s : State) (c : Nat) : Nat := s.get F.cmdChState_function c
def State.chRead (s : State) (c a n : Nat) : List Byte :=
  if (s.chan c).loc then s.dRead 0 a n else s.hostRead (s.chanFn c) a n
def State.chWrite (s : State) (c a : Nat) (l : List Byte) : State :=
  if (s.chan c).loc then s.dWrite 0 a l else s.hostWrite (s.chanFn c) a l

/-! ### Vectors and the error tree (R392-R394) -/

/-- Send a vector, or mark it pending while it is masked (R392). -/
def State.sendVector (s : State) (v : Nat) : State :=
  if s.host.unmasked.contains v then s.emit (.vector v)
  else if s.host.pendingVec.contains v then s
  else { s with host := { s.host with pendingVec := s.host.pendingVec ++ [v] } }

/-- Set bit `b` of HOST_ERR_STATUS; a change of an unmasked bit from 0 to 1 sends HOST_ERR_VEC (R394). -/
def State.hostErr (s : State) (b : Nat) : State :=
  let old := s.get F.hostErrStatus_block 0
  if old.testBit b then s
  else
    let s := s.set F.hostErrStatus_block 0 (old + 2 ^ b)
    if (s.get F.hostErrMask_mask 0).testBit b then s else s.sendVector (s.get F.hostErrVec_vector 0)

/-! ### Tasks and their flags (R358-R363) -/

abbrev tFREE : Nat := 0
abbrev tREADY : Nat := 1
abbrev tRUNNING : Nat := 2
abbrev tWAITING : Nat := 3
abbrev tCANCELLED : Nat := 4

def State.taskState (s : State) (k : Nat) : Nat := s.get F.tugTaskState_state k
def State.taskHandle (s : State) (k : Nat) : Nat := handle 2 (s.get F.tugTaskState_gen k) k

/-- A list of ready tasks of one level. -/
def State.readyOf (s : State) (lvl : Nat) : List Nat := Tab.getD s.tug.ready lvl []
def State.setReady (s : State) (lvl : Nat) (l : List Nat) : State :=
  { s with tug := { s.tug with ready := if l.isEmpty then Tab.del s.tug.ready lvl else Tab.put s.tug.ready lvl l } }

/-- Make a task READY at the tail of its level (R361). -/
def State.makeReady (s : State) (k : Nat) : State :=
  let lvl := s.get F.tugTaskState_level k
  (s.set F.tugTaskState_state k tREADY).setReady lvl (s.readyOf lvl ++ [k])

/-- Take a task off the delay list. -/
def State.undelay (s : State) (k : Nat) : State :=
  { s with tug := { s.tug with delay := s.tug.delay.filter (fun e => e.2 != k) } }

/-- What a WAITF mask makes of a flag word (R359): the matched flags when the mask is satisfied. -/
def waitHit (op : Word) (flags : BitVec 32) : Option (BitVec 32) :=
  let m : BitVec 32 := op.setWidth 32
  let all := op.getLsbD 32
  let hit := flags &&& m
  if m = 0 then none
  else if (if all then hit == m else hit != 0) then some hit else none

/-- Wake a WAITING task whose flags satisfy its mask (R359). -/
def State.wakeOnFlags (s : State) (k : Nat) : State :=
  let tk := s.task k
  match tk.wait with
  | none => s
  | some (r, op) =>
    let fl : BitVec 32 := BitVec.ofNat 32 (s.get F.tugTaskState_flags k)
    match waitHit op fl with
    | none => s
    | some hit =>
      let s := if op.getLsbD 33 then s else s.set F.tugTaskState_flags k (fl &&& ~~~hit).toNat
      let regs := if r = 0 then tk.regs else tk.regs.set r.val (hit.setWidth 64)
      ((s.setTask k { tk with wait := none, regs := regs }).undelay k).makeReady k

/-- Signal flags to a task: they are ORed into its flag word, and wake it if it waits for them (R358). -/
def State.signal (s : State) (k : Nat) (bits : BitVec 32) : State :=
  if s.taskState k == tFREE then s
  else
    let s := s.set F.tugTaskState_flags k ((BitVec.ofNat 32 (s.get F.tugTaskState_flags k)) ||| bits).toNat
    if s.taskState k == tWAITING then s.wakeOnFlags k else s

/-- Latch an interrupt source of a core (R370). -/
def State.latchIrq (s : State) (t src : Nat) : State :=
  let old := s.get F.tugCoreStatus_pending t
  if old.testBit src then s else s.set F.tugCoreStatus_pending t (old + 2 ^ src)

/-- The task that core `t` runs. -/
def State.running? (s : State) (t : Nat) : Option Nat :=
  if s.bit F.tugCoreStatus_idle t then none else some (s.get F.tugCoreStatus_task t)

/-! ### Samples and counters (R373-R377) -/

/-- The identifiers of one counted event. -/
structure PmcEv where
  code : Nat
  master : Nat
  n : Nat := 1
  tc : Option Nat := none
  addr : Option Nat := none
  sup : Option Bool := none
  port : Nat := 0xFFFF
  who : Nat := 0
  what : Nat := 0
  task : Nat := 0

/-- Write a sample record (R377, Table 12.11), or count it lost. -/
def State.sample (s : State) (ctr : Nat) (e : PmcEv) : State :=
  if s.bit F.pmcSampleCfg_en 0 then
    let size := 2 ^ s.get F.pmcSampleCfg_log2 0
    let tail := s.get F.pmcSampleTail_index 0
    let a := s.get F.pmcSampleCfg_base 0 * 4096 + tail * 64
    if (tail + 1) % size = s.get F.pmcSampleHead_index 0 % size ∨ s.hbmFailed = true ∨ s.inRegion 0 a 64 = false then
      { s.bump F.pmcCntSampleLost 0 with tug := { s.tug with lostSample := true } }
    else
      let fl := 1 + (if e.sup == some true then 2 else 0) + (if s.tug.lostSample then 4 else 0)
      let rec64 := leBytes 1 ctr ++ leBytes 1 e.master ++ leBytes 1 fl ++ leBytes 1 (e.tc.getD 0) ++ leBytes 2 e.code
        ++ leBytes 2 e.port ++ leBytes 8 e.who ++ leBytes 8 (e.addr.getD e.what) ++ leBytes 4 e.task ++ leBytes 4 0
        ++ leBytes 16 s.ktsTl.toNat ++ leBytes 16 0
      let s := { s with hbm := s.hbm.setBytes a rec64, tug := { s.tug with lostSample := false } }
      s.set F.pmcSampleTail_index 0 ((tail + 1) % size)
  else s

/-- Whether device counter `n` counts an event through its filters (R375). -/
def State.pmcHit (s : State) (n : Nat) (e : PmcEv) : Bool :=
  s.get F.pmcCntCfg_event n == e.code
    && (e.master &&& s.get F.pmcCntCfg_mmask n) == s.get F.pmcCntCfg_mmatch n
    && (match e.addr with
        | some a => !(s.bit F.pmcCntCfg_addrEn n)
            || (decide (s.get F.pmcCntAddr_base n ≤ a / 4096) && decide (a / 4096 ≤ s.get F.pmcCntAddr_limit n))
        | none => true)
    && (match e.sup with
        | some b => let pv := s.get F.pmcCntCfg_priv n; pv == 0 || pv == 3 || (pv == 1 && !b) || (pv == 2 && b)
        | none => true)
    && (match e.tc with
        | some c => (s.get F.pmcCntCfg_tcmask n).testBit c
        | none => true)

/-- One device counter takes an event (R376). -/
def State.pmcOne (s : State) (n : Nat) (e : PmcEv) : State :=
  if s.pmcHit n e then
    let c := s.get F.pmcCntValue_count n + e.n
    let s := s.set F.pmcCntValue_count n c
    if 2 ^ 48 ≤ c then
      let s := s.setBit F.pmcCntValue_ovf n true
      if s.bit F.pmcCntCfg_sample n then s.sample n e else s
    else s
  else s

/-- Every device counter takes an event (R375). -/
def State.pmc (s : State) (e : PmcEv) : State := (List.range 32).foldl (fun s n => s.pmcOne n e) s

/-- One counter of core `t` takes `n` events of a code of Table 12.9 (R373, R374). -/
def State.ccntOne (s : State) (t i code n : Nat) : State :=
  let ix := t * 4 + i
  let sup := (s.tcore t).ctx.sup
  let lv := s.get F.tugCcntCfg_level ix
  if s.get F.tugCcntCfg_event ix == code && code != 0 && (lv == 0 || lv == 3 || (lv == 1 && !sup) || (lv == 2 && sup))
      && (!(s.bit F.tugCcntCfg_taskf ix) || s.running? t == some (s.get F.tugCcntCfg_task ix)) then
    let tc := s.tcore t
    let c := (tc.ccnt.getD i 0).toNat + n
    let s := s.setTcore t { tc with ccnt := tc.ccnt.set i (BitVec.ofNat 64 c) }
    if 2 ^ 64 ≤ c then
      let s := s.set F.tugCcntStatus_ovf t (s.get F.tugCcntStatus_ovf t ||| 2 ^ i)
      let s := if s.bit F.tugCcntCfg_int ix then s.latchIrq t 3 else s
      if s.bit F.tugCcntCfg_sample ix then
        s.sample (0x80 + 4 * t + i)
          { code := code, master := t, sup := some sup, who := tc.ctx.pc.toNat,
            task := match s.running? t with | some k => s.taskHandle k | none => 0 }
      else s
    else s
  else s

/-- The four counters of core `t` take `n` events of a code of Table 12.9. -/
def State.ccnt (s : State) (t code n : Nat) : State :=
  (List.range 4).foldl (fun s i => s.ccntOne t i code n) s

/-! ### Captures for the harbour log (R398, Table 14.1) -/

/-- Whether a kind of record is captured in the current mode. -/
def State.capMode (s : State) (kind : Nat) : Bool :=
  let m := s.modeNo
  match kind with
  | 1 | 2 => m == mSERVICE || m == mSLACK
  | 3 | 6 => m == mMOORED || m == mSERVICE || m == mSLACK
  | _ => !(m == mRESET || m == mBOOT || m == mHALT)

/-- A record of kind 3 to 6 is offered to the harbour log by its source. -/
def State.captureRec (s : State) (kind : Nat) (body : List Byte) : State :=
  if s.capMode kind && s.bit F.logSrcCap_en (kind - 3) && s.get F.logStatus_state 0 != 0 then
    let p := s.get F.logSrcCap_part (kind - 3)
    if s.get F.logPartStatus_state p == 1 then
      { s with log := { s.log with queue := s.log.queue ++ [⟨kind, p, 0, s.ktsTl, body, none⟩] } }
    else s.bump F.logCntNoPart 0
  else s

/-! ### The firmware exception queue (R368) -/

/-- Post an entry to the exception queue; `head` is bytes 0x00 to 0x1F and `body` the 224 bytes from 0x20. -/
def State.exqPut (s : State) (head body : List Byte) : State :=
  let log2 := s.get F.tugExqCfg_log2 0
  if s.tug.exqCount < 2 ^ log2 then
    let a := s.get F.tugExqCfg_base 0 + s.tug.exqTail * 256
    let entry := (head ++ List.replicate (32 - head.length) (0 : Byte)) ++ (body ++ List.replicate (224 - body.length) (0 : Byte))
    let s := { s with dmem := s.dmem.setBytes a entry,
                      tug := { s.tug with exqTail := (s.tug.exqTail + 1) % 2 ^ log2, exqCount := s.tug.exqCount + 1 } }
    s.signal (s.get F.tugExqCfg_task 0) (BitVec.ofNat 32 (2 ^ 31))
  else s.bump F.tugCntExqDropped 0

/-- Post a record (not a frame) to the exception queue. -/
def State.exqRec (s : State) (kind : Nat) (body : List Byte) : State :=
  s.exqPut (leBytes 1 kind ++ leBytes 1 0 ++ leBytes 2 body.length) body

/-! ### Channels as destinations (R329, R382-R390) -/

/-- Whether a handle names an OPEN channel of type `ty` of the current generation. -/
def State.chanLive (s : State) (h ty : Nat) : Bool :=
  hType h == 1 && decide (hIx h < 1024) && s.get F.cmdChState_state (hIx h) == 1
    && s.get F.cmdChState_gen (hIx h) == hGen h && s.get F.cmdChState_type (hIx h) == ty

/-- Whether the device may fetch and write for channel `c`: it is not stopped, its function is bus master, and the mode lets the
device use the host's memory (R382, R384, Table 15.3). -/
def State.chanRuns (s : State) (c : Nat) : Bool :=
  let m := s.modeNo
  !(s.chan c).stopped && ((s.chan c).loc || !(s.host.bmOff.contains (s.chanFn c) || m == mRESET || m == mBOOT || m == mHALT))

/-- Write bytes for channel `c`; a host channel's bytes are an event of the device counters (Table 12.10). -/
def State.chPut (s : State) (c a : Nat) (l : List Byte) : State :=
  let s := s.chWrite c a l
  if (s.chan c).loc then s else s.pmc { code := 0x0C02, master := 0x50, n := l.length, addr := some a }

/-- The event of `n` bytes read for channel `c` (Table 12.10). -/
def State.chGot (s : State) (c a n : Nat) : State :=
  if (s.chan c).loc then s else s.pmc { code := 0x0C01, master := 0x50, n := n, addr := some a }

/-- Count an entry that channel `c` has written towards its message (R393). -/
def State.entryWritten (s : State) (c : Nat) : State :=
  let ch := s.chan c
  (s.setChan c { ch with unsignalled := ch.unsignalled + 1, firstNs := if ch.unsignalled = 0 then s.ns else ch.firstNs }).bump
    F.hostChCntEntries c

/-- Write one entry of an EVT ring that has room (R390, Table 13.6). -/
def State.evtWrite (s : State) (c kind : Nat) (body : List Byte) : State :=
  let ch := s.chan c
  let entry := leBytes 1 kind ++ leBytes 1 0 ++ leBytes 2 body.length ++ leBytes 2 (Nat.min ch.drops 65535) ++ leBytes 2 0
    ++ leBytes 8 ch.evSeq ++ (body ++ List.replicate (224 - body.length) (0 : Byte)) ++ leBytes 12 0 ++ leBytes 4 ch.phase.toNat
  let s := s.chPut c (ch.ring + ch.devHead * 256) entry
  let next := (ch.devHead + 1) % 2 ^ ch.log2ring
  let s := s.setChan c { ch with devHead := next, evSeq := ch.evSeq + 1, drops := 0,
                                 phase := if next = 0 then !ch.phase else ch.phase }
  s.entryWritten c

/-- Whether an EVT ring has room: one entry always stays empty (R383). -/
def State.evtRoom (s : State) (c : Nat) : Bool :=
  let ch := s.chan c
  s.chanRuns c && (ch.devHead + 1) % 2 ^ ch.log2ring != ch.cqHead

/-- Drop a record of channel `c` (R390). -/
def State.evtDrop (s : State) (c : Nat) : State :=
  let ch := s.chan c
  (s.setChan c { ch with drops := ch.drops + 1 }).bump F.hostChCntDropped c

/-- Post a record to the channel that a register names; the answer's flag says it was dropped (R390, R368). -/
def State.evtTo (s : State) (h kind : Nat) (body : List Byte) : State × Bool :=
  if h = 0 then
    let s2 := s.exqRec kind body
    (s2, decide (s.get F.tugCntExqDropped 0 ≠ s2.get F.tugCntExqDropped 0))
  else if s.chanLive h 4 then
    let c := hIx h
    let ch := s.chan c
    if s.evtRoom c && ch.hold.isEmpty then (s.evtWrite c kind body, false)
    else if ch.flag || ch.stopped || decide (16 ≤ ch.hold.length) then (s.evtDrop c, true)
    else (s.setChan c { ch with hold := ch.hold ++ [⟨kind, body, s.ns⟩] }, false)
  else if hType h == 1 && decide (hIx h < 1024) && s.get F.cmdChState_state (hIx h) == 1
      && s.get F.cmdChState_gen (hIx h) == hGen h then (s.bump F.hostChCntDropped (hIx h), true)
  else (s, true)

/-- Post a record and count a drop in the source's counter. -/
def State.evtOr (s : State) (h kind : Nat) (body : List Byte) (f : Fld) : State :=
  let r := s.evtTo h kind body
  if r.2 then r.1.bump f 0 else r.1

/-- Post a record whose source keeps no drop counter of its own. -/
def State.evtPost (s : State) (h kind : Nat) (body : List Byte) : State := (s.evtTo h kind body).1

/-- A command event (R348, Tables 11.8 and 11.9); it is also an ALARM for the harbour log. -/
def State.cmdEvent (s : State) (ty unit status value : Nat) : State :=
  let body := leBytes 1 ty ++ leBytes 1 unit ++ leBytes 1 status ++ leBytes 5 0 ++ leBytes 8 value ++ leBytes 16 s.ktsTl.toNat
  (s.captureRec 5 body).evtOr (s.get F.cmdEvtChan_handle 0) 6 body F.cmdCntEvtDropped

/-- A RAS event (Table 16.4); the kind its EVT entry carries is not given by the spec: a free value (log entry 11). -/
def State.rasEventAt (s : State) (t : Stamp) (ty b1 b2 w4 v8 : Nat) : State :=
  let body := leBytes 1 ty ++ leBytes 1 b1 ++ leBytes 1 b2 ++ leBytes 1 0 ++ leBytes 4 w4 ++ leBytes 8 v8 ++ leBytes 16 t.toNat
  let kind := s.freeVal.toNat % 256
  ((s.captureRec 5 body).evtOr (s.get F.rasEvtChan_handle 0) kind body F.rasCntEvtDropped).useFree

def State.rasEvent (s : State) (ty b1 b2 w4 v8 : Nat) : State := s.rasEventAt s.ktsTl ty b1 b2 w4 v8

/-! ### Causes and machine checks (R419, R439, R455, R456) -/

/-- Settle a commanded transition in progress: its parked CTL will complete with this status (R419, R444). -/
def State.settleTrans (s : State) (status : Nat) : State :=
  match s.mode.trans with
  | none => s
  | some t =>
    let k := match t.iss with | .chan c => c.val | .tug c => 1024 + c.val
    { s with mode := { s.mode with trans := none },
             cmd := { s.cmd with parked := Tab.upd s.cmd.parked k (fun c => { c with settled := some status }),
                                 current := Tab.upd s.cmd.current k (fun c => { c with settled := some status }) } }

/-- Set a harbour cause (R439): it owes an entry in MOORED, SERVICE, SLACK and DRYDOCK, abandons an exit in SAFE HARBOUR
(R444), and is ignored in RESET, BOOT and HALT (R419). -/
def State.setCause (s : State) (b : Nat) : State :=
  let m := s.modeNo
  if m == mRESET || m == mBOOT || m == mHALT then s
  else
    let old := s.get F.sysHborCause_cause 0
    let s := s.set F.sysHborCause_cause 0 (old ||| 2 ^ b)
    let s := { s with hbor := { s.hbor with check := none } }
    let s := if s.hbor.check.isNone then s.setBit F.hborStatus_checking 0 false else s
    if m == mHARBOUR then
      match s.hbor.draining with
      | none => s
      | some _ =>
        let s := s.settleTrans stABORTED
        { s.set F.sysMode_paused 0 0 with hbor := { s.hbor with draining := none } }
    else { s with mode := { s.mode with causeSeen := true } }

/-- A machine-check source fires (R455): log, status, event, interrupts and policy. -/
def State.mcheck (s : State) (k addr master : Nat) : State :=
  let m := s.modeNo
  let policy := s.reg .rasMcPolicy 0 |>.extractLsb' (2 * k) 2 |>.toNat
  let applied := if policy = 1 ∧ (m = mRESET ∨ m = mBOOT ∨ m = mHALT) then 0 else if policy = 2 ∧ m = mRESET then 0 else policy
  let s := s.set F.rasMcLog_count k (Nat.min (s.get F.rasMcLog_count k + 1) (2 ^ 32 - 1))
  let s := ((s.set F.rasMcLog_master k master).set F.rasMcLog_addr k addr).set F.rasMcLog_time k s.ktsTl.toNat
  let s := s.set F.rasMcStatus_fired 0 (s.get F.rasMcStatus_fired 0 ||| 2 ^ k)
  let s := s.rasEvent 1 k applied 0 addr
  let s := (List.range 16).foldl (fun s t => if s.bit F.tugCoreCfg_rasEn t then s.latchIrq t 4 else s) s
  let s := s.hostErr 19
  if applied = 1 then s.setCause 1
  else if applied = 2 then { s with mode := { s.mode with haltOwed := true } }
  else s

end Sys2Proof.Machine
end

