-- ==== Sys2Proof/Machine/Tables.lean ====
section
/-!
DEFINITION. Machine/Tables.lean: the on-die tables as functions of the state: exact-match places, chains and stash
(R104-R111), LPM (R119-R122), ternary rules with range vectors (R123-R125), objects, next hops and ECMP (R127-R129), zones
(R131), the parity marks and events (R133-R135), learn notices (R115-R117) and the generations (R136-R139).
-/
namespace Sys2Proof.Machine

/-! ### Parity marks (R133, R134, log entry 9) -/

abbrev tkEM : Nat := 1
abbrev tkLPM : Nat := 2
abbrev tkTCAM : Nat := 3
abbrev tkNH : Nat := 4
abbrev tkECMP : Nat := 5
abbrev tkZONE : Nat := 6
abbrev tkFRAG : Nat := 7

/-- Whether the copy of an entry in group `g` fails its check. -/
def State.isBad (s : State) (kind g ix : Nat) : Bool := s.tab.bad.contains (kind, g, ix)
/-- A write of an entry makes every copy good. -/
def State.unbad (s : State) (kind ix : Nat) : State :=
  if s.tab.bad.isEmpty then s
  else { s with tab := { s.tab with bad := s.tab.bad.filter (fun e => e.1 != kind || e.2.2 != ix),
                                    repairs := s.tab.repairs.filter (fun e => e.1 != kind || e.2.2 != ix) } }
/-- A parity event: counted, and queued for repair (R135). -/
def State.parityEvent (s : State) (kind g ix : Nat) : State :=
  let s := s.bump F.tblCntParity 0
  let s := if s.tab.bad.contains (kind, g, ix) then s else { s with tab := { s.tab with bad := s.tab.bad ++ [(kind, g, ix)] } }
  if s.tab.repairs.contains (kind, g, ix) then s
  else { s with tab := { s.tab with repairs := s.tab.repairs ++ [(kind, g, ix)] } }

/-! ### A chain of displacements (R109 step 2): shared by the exact-match pool and the fragment table -/

/-- What a cuckoo table tells the search: its candidate places of an occupied place (the resident's other buckets), and
whether a place is free or holds an entry that may move. -/
structure Cuckoo where
  others : Nat → List Nat
  free : Nat → Bool
  movable : Nat → Bool

/-- One level of the breadth-first search: each node is the path of places from the one to vacate back to the first. -/
def cuckooLevel (c : Cuckoo) : List (List Nat) → List Nat → List (List Nat) → (Option (List Nat)) × List (List Nat) × List Nat
  | [], seen, acc => (none, acc.reverse, seen)
  | path :: rest, seen, acc =>
    match path with
    | [] => cuckooLevel c rest seen acc
    | p :: _ =>
      let os := c.others p
      match os.find? c.free with
      | some q => (some (q :: path), [], seen)
      | none =>
        let next := os.filter (fun q => c.movable q && !seen.contains q)
        cuckooLevel c rest (seen ++ next) ((next.map (fun q => q :: path)).reverse ++ acc)

/-- The shortest chain of at most `fuel` moves from the given paths. -/
def cuckooSearch (c : Cuckoo) : Nat → List (List Nat) → List Nat → Option (List Nat)
  | 0, _, _ => none
  | fuel + 1, nodes, seen =>
    match cuckooLevel c nodes seen [] with
    | (some path, _, _) => some path
    | (none, [], _) => none
    | (none, next, seen2) => cuckooSearch c fuel next seen2

/-- The moves of a path [free, …, first], from the last to the first, as (from, to). -/
def cuckooMoves : List Nat → List (Nat × Nat)
  | q :: p :: rest => (p, q) :: cuckooMoves (p :: rest)
  | _ => []

/-- Steps 1 to 3 of R109: the moves to make, in order, and the place that the new entry then takes. -/
def cuckooPlace (c : Cuckoo) (cands : List Nat) : Option (List (Nat × Nat) × Nat) :=
  match cands.find? c.free with
  | some p => some ([], p)
  | none =>
    let start := cands.filter c.movable
    match cuckooSearch c 8 (start.map (fun p => [p])) start with
    | some path => some (cuckooMoves path, path.getLastD 0)
    | none => none

/-! ### The exact-match pool (R104-R111) -/

abbrev emStash : Nat := 524288

def State.emL (s : State) (p : Nat) : Nat := s.get F.tblEmPart_log2size p
def State.emKeyLen (s : State) (p : Nat) : Nat := s.get F.tblEmPart_keyw p + 1

/-- The bucket of a key in way `w` (R106). -/
def State.emBucket (s : State) (p w : Nat) (key : List Byte) : Nat :=
  let h := kx64 (BitVec.ofNat 8 p :: key) (BitVec.ofNat 64 (s.get F.tblEmSeed_seed w))
  s.get F.tblEmPart_base p + h.toNat / 2 ^ (64 - s.emL p)

/-- The places of a key in way `w`: units 0 to 3, or the aligned pairs of a double-width partition (R109). -/
def State.emPlaces (s : State) (p w : Nat) (key : List Byte) : List Nat :=
  let b := w * 131072 + s.emBucket p w key * 4
  if s.bit F.tblEmPart_wide p then [b, b + 2] else [b, b + 1, b + 2, b + 3]

/-- All candidate places, W0 to W3, lowest unit first. -/
def State.emCands (s : State) (p : Nat) (key : List Byte) : List Nat :=
  (List.range 4).flatMap (fun w => s.emPlaces p w key)

/-- The exact-match pool as the chain search sees it. -/
def State.emCuckoo (s : State) (p : Nat) : Cuckoo where
  others := fun ix =>
    match Tab.get? s.tab.em ix with
    | some e => (List.range 4).flatMap (fun w => if w = ix / 131072 then [] else s.emPlaces p w e.key)
    | none => []
  free := fun ix => !(Tab.has s.tab.em ix)
  movable := fun ix => match Tab.get? s.tab.em ix with | some e => e.part == p | none => false

/-- The index at which partition `p` holds a key (R108). -/
def State.emFind (s : State) (p : Nat) (key : List Byte) : Option (Nat × EmEntry) :=
  let hitAt := fun ix => match Tab.get? s.tab.em ix with
    | some e => if e.part = p ∧ e.key = key then some (ix, e) else none
    | none => none
  match (s.emCands p key).findSome? hitAt with
  | some r => some r
  | none => s.tab.em.find? (fun e => decide (emStash ≤ e.1) && e.2.part == p && e.2.key == key)

def State.setEm (s : State) (ix : Nat) (e : EmEntry) : State :=
  ({ s with tab := { s.tab with em := Tab.put s.tab.em ix e } }).unbad tkEM ix
def State.delEm (s : State) (ix : Nat) : State :=
  ({ s with tab := { s.tab with em := Tab.del s.tab.em ix } }).unbad tkEM ix

/-- Make one move of R110. -/
def State.emMove (s : State) (m : Nat × Nat) : State :=
  match Tab.get? s.tab.em m.1 with
  | some e => (s.setEm m.2 e).delEm m.1
  | none => s

/-- The first free stash slot. -/
def State.stashSlot (s : State) : Option Nat :=
  (List.range 512).find? (fun j => !(Tab.has s.tab.em (emStash + j)))

/-- Insert a key that is not present (R109 steps 1 to 5): its index, or none for TABLE_FULL. -/
def State.emPut (s : State) (p : Nat) (key : List Byte) (data : BitVec 40) (static : Bool) : State × Option Nat :=
  let e : EmEntry := { part := p, key := key, data := data, static := static, hit := false, age := 0, born := s.tab.emBorn }
  let s := { s with tab := { s.tab with emBorn := s.tab.emBorn + 1 } }
  match cuckooPlace (s.emCuckoo p) (s.emCands p key) with
  | some (moves, ix) => ((moves.foldl State.emMove s).setEm ix e, some ix)
  | none =>
    match s.stashSlot with
    | some j => ((s.setEm (emStash + j) e).bump F.tblCntStashIns 0, some (emStash + j))
    | none => (s.bump F.tblCntEmFull 0, none)

/-- The stash entries of a partition, oldest first (R111). -/
def State.stashOf (s : State) (p : Nat) : List (Nat × EmEntry) :=
  (s.tab.em.filter (fun e => decide (emStash ≤ e.1) && e.2.part == p)).foldl
    (fun acc e => acc.takeWhile (fun x => decide (x.2.born ≤ e.2.born)) ++ e :: acc.dropWhile (fun x => decide (x.2.born ≤ e.2.born))) []

/-- Try to move one stash entry back into its buckets, oldest first (R111). -/
def State.emUnstash (s : State) (p : Nat) : List (Nat × EmEntry) → State
  | [] => s
  | (ix, e) :: rest =>
    match cuckooPlace (s.emCuckoo p) (s.emCands p e.key) with
    | some (moves, dest) => ((moves.foldl State.emMove s).setEm dest e).delEm ix
    | none => s.emUnstash p rest

/-- Delete the entry at `ix` of partition `p`, then move one stash entry back (R111). -/
def State.emRemove (s : State) (p ix : Nat) : State :=
  let s := s.delEm ix
  s.emUnstash p (s.stashOf p)

/-- The position of an entry in the numbering of R114, times 4, plus its unit. -/
def State.emPos (s : State) (p ix : Nat) : Nat :=
  let n := 2 ^ s.emL p
  if emStash ≤ ix then (4 * n + (ix - emStash)) * 4
  else (ix / 131072 * n + (ix % 131072 / 4 - s.get F.tblEmPart_base p)) * 4 + ix % 4

/-- The first entry of partition `p` at or after position key `c` (R112, R114). -/
def State.emFrom (s : State) (p c : Nat) : Option (Nat × EmEntry) :=
  s.tab.em.foldl (fun best e =>
    if e.2.part = p ∧ c ≤ s.emPos p e.1 then
      match best with
      | some b => if s.emPos p e.1 < s.emPos p b.1 then some e else best
      | none => some e
    else best) none

/-- UNITS_USED and STASH_USED of TBL_EM_STATUS. -/
def State.emUnits (s : State) : Nat :=
  s.tab.em.foldl (fun n e => if emStash ≤ e.1 then n else n + (if s.bit F.tblEmPart_wide e.2.part then 2 else 1)) 0
def State.emStashUsed (s : State) : Nat := (s.tab.em.filter (fun e => decide (emStash ≤ e.1))).length
/-- Whether a partition holds no entry. -/
def State.emEmpty (s : State) (p : Nat) : Bool := s.tab.em.all (fun e => e.2.part != p)

/-! ### Lookup results (Table 2.14) -/

/-- A hit with its index and data. -/
def lkHit (ix : Nat) (data : BitVec 40) : Word := BitVec.ofNat 64 (2 ^ 63 + ix % 2 ^ 20 * 2 ^ 40 + data.toNat)
/-- A miss. -/
def lkMiss : Word := 0
/-- A miss with ERR. -/
def lkErr : Word := BitVec.ofNat 64 (2 ^ 62)

/-- A descriptor's fields (Table 4.3). -/
def dKind (d : BitVec 64) : Nat := fieldLe d 0 3 |>.toNat
def dKlen (d : BitVec 64) : Nat := (fieldLe d 3 6).toNat + 1
def dPok (d : BitVec 64) : Bool := d.getLsbD 9
def dEok (d : BitVec 64) : Bool := d.getLsbD 10
def dPart (d : BitVec 64) : Nat := (fieldLe d 11 4).toNat
def dLearn (d : BitVec 64) : Bool := d.getLsbD 15
def dMove (d : BitVec 64) : Bool := d.getLsbD 16
def dVrf (d : BitVec 64) : Bool := d.getLsbD 17
def dV6 (d : BitVec 64) : Bool := d.getLsbD 18
def dRset (d : BitVec 64) : Nat := (fieldLe d 19 4).toNat
def dTbase (d : BitVec 64) : Nat := (fieldLe d 23 16).toNat
def dTcount (d : BitVec 64) : Nat := (fieldLe d 39 17).toNat

/-- The descriptor of a generation. -/
def State.desc (s : State) (g : Bool) (t : Nat) : BitVec 64 := (s.reg .tblDesc (g.toNat * 64 + t)).setWidth 64

/-- Whether a descriptor value meets R100 (and Table 4.3's own limits). -/
def State.descOk (s : State) (d : BitVec 64) : Bool :=
  (fieldLe d 56 8) == 0 &&
  match dKind d with
  | 0 => true
  | 1 => dKlen d == s.emKeyLen (dPart d)
  | 2 => !(dEok d) && dKlen d == (if dV6 d then 16 else 4) + (if dVrf d then 2 else 0)
  | 3 => decide (dKlen d ≤ 32) && decide (dRset d ≤ 8) && decide (1 ≤ dTcount d) && decide (dTbase d + dTcount d ≤ 65536)
  | _ => false

/-! ### LPM (R119-R122) -/

/-- An address with the bits beyond a length cleared. -/
def maskAddr (v6 : Bool) (len : Nat) (a : BitVec 128) : BitVec 128 :=
  let w := if v6 then 128 else 32
  let a := if v6 then a else a &&& BitVec.ofNat 128 (2 ^ 32 - 1)
  a &&& ~~~(BitVec.ofNat 128 (2 ^ (w - len) - 1))

/-- Whether a prefix covers an address. -/
def lpmCovers (e : LpmEntry) (rt : Nat) (v6 : Bool) (a : BitVec 128) : Bool :=
  e.rt == rt && e.v6 == v6 && maskAddr v6 e.len a == e.addr

/-- The longest prefix of a route table that covers an address (R120). -/
def State.lpmBest (s : State) (rt : Nat) (v6 : Bool) (a : BitVec 128) : Option (Nat × LpmEntry) :=
  s.tab.lpm.foldl (fun best e =>
    if lpmCovers e.2 rt v6 a then
      match best with
      | some b => if b.2.len < e.2.len then some e else best
      | none => some e
    else best) none

/-- The prefix of exactly this length. -/
def State.lpmFind (s : State) (rt : Nat) (v6 : Bool) (len : Nat) (a : BitVec 128) : Option (Nat × LpmEntry) :=
  s.tab.lpm.find? (fun e => e.2.rt == rt && e.2.v6 == v6 && e.2.len == len && e.2.addr == maskAddr v6 len a)

/-- UNITS_USED of TBL_LPM_STATUS (R119). -/
def State.lpmUnits (s : State) : Nat := s.tab.lpm.foldl (fun n e => n + (if e.2.v6 then 8 else 3)) 0
/-- SPARE_FREE of TBL_LPM_STATUS (R121). -/
def State.lpmSpareFree (s : State) : Nat := 393216 - s.tab.spare.foldl (fun n e => n + e.1) 0
/-- The lowest prefix number that no prefix holds (R120). -/
def firstFree {α : Type} : Tab α → Nat → Nat
  | [], n => n
  | (k, _) :: t, n => if k = n then firstFree t (n + 1) else n

/-! ### Ternary rules (R123-R125) -/

/-- The 40-byte key of a ternary lookup; byte i in bits [8i+7:8i]. -/
def State.tcamKey (s : State) (key : List Byte) (rset : Nat) : BitVec 320 :=
  let k32 := (key ++ List.replicate 32 (0 : Byte)).take 32
  let base := BitVec.ofNat 320 (leNat k32)
  if rset < 8 then
    (List.range 64).foldl (fun acc i =>
      let n := 64 * rset + i
      let off := s.get F.tblRange_off n
      let v := (k32.getD off 0).toNat * 256 + (k32.getD (off + 1) 0).toNat
      if s.bit F.tblRange_en n && decide (s.get F.tblRange_lo n ≤ v) && decide (v ≤ s.get F.tblRange_hi n)
      then putBits acc (256 + i) 1 1 else acc) base
  else base

/-- The lookup over entries TBASE to TBASE + TCOUNT - 1: the best match, and whether a BAD entry lies below it (R125, R134). -/
def State.tcamBest (s : State) (g base count : Nat) (key : BitVec 320) : Option (Nat × TcamEntry) × Bool :=
  s.tab.tcam.foldl (fun st e =>
    if base ≤ e.1 ∧ e.1 < base + count ∧ st.1.isNone = true then
      if s.isBad tkTCAM g e.1 then (st.1, true)
      else if e.2.valid && (key &&& e.2.mask) == (e.2.value &&& e.2.mask) then (some e, st.2)
      else st
    else st) (none, false)

/-- Make one lookup in the replica of group `g`: the result register, and the entry to mark as hit (kind, index). -/
def State.lookup (s : State) (g : Nat) (d : BitVec 64) (key : List Byte) : Word × Option (Nat × Nat) × Option (Nat × Nat) :=
  match dKind d with
  | 1 =>
    if s.bit F.tblEmPart_en (dPart d) then
      match s.emFind (dPart d) key with
      | some (ix, e) => if s.isBad tkEM g ix then (lkErr, none, some (tkEM, ix)) else (lkHit ix e.data, some (tkEM, ix), none)
      | none => (lkMiss, none, none)
    else (lkMiss, none, none)
  | 2 =>
    let rt := if dVrf d then beNat (key.take 2) % 4096 else dTbase d % 4096
    let ab := if dVrf d then key.drop 2 else key
    let a : BitVec 128 := BitVec.ofNat 128 (beNat ab)
    match s.lpmBest rt (dV6 d) a with
    | some (ix, e) => if s.isBad tkLPM g ix then (lkErr, none, some (tkLPM, ix)) else (lkHit ix e.data, none, none)
    | none => (lkMiss, none, none)
  | 3 =>
    let k := s.tcamKey key (dRset d)
    match s.tcamBest g (dTbase d) (dTcount d) k with
    | (some (ix, e), false) => (lkHit ix e.data, some (tkTCAM, ix), none)
    | (_, true) => (lkErr, none, none)
    | (none, false) => (lkMiss, none, none)
  | _ => (lkErr, none, none)

/-- Set the hit bit of an entry. -/
def State.markHit (s : State) (h : Option (Nat × Nat)) : State :=
  match h with
  | some (kind, ix) =>
    if kind = tkEM then { s with tab := { s.tab with em := Tab.upd s.tab.em ix (fun e => { e with hit := true }) } }
    else { s with tab := { s.tab with tcam := Tab.upd s.tab.tcam ix (fun e => { e with hit := true }) } }
  | none => s

/-! ### Learn notices (R115-R117) -/

/-- Post a notice towards the filter: each quay group holds up to 64 (R117). -/
def State.learnPost (s : State) (g : Nat) (n : Notice) : State :=
  if s.bit F.tblLearnCfg_en 0 then
    let l := Tab.getD s.tab.learnWait g []
    if l.length < 64 then { s with tab := { s.tab with learnWait := Tab.put s.tab.learnWait g (l ++ [n]) } }
    else s.bump F.tblCntLearnDropped 0
  else s

/-- The learn notice record (Table 4.7). -/
def noticeBytes (n : Notice) : List Byte :=
  leBytes 1 n.kind ++ leBytes 1 n.part ++ leBytes 1 n.key.length ++ leBytes 1 n.port ++ leBytes 2 n.zone ++ leBytes 2 0
    ++ (n.key ++ List.replicate (20 - n.key.length) (0 : Byte)) ++ leBytes 4 (if n.kind = 1 then 0 else n.data.toNat % 2 ^ 32)

/-- Post a notice to TBL_LEARN_CHAN; a stale handle drops it. -/
def State.noticeOut (s : State) (n : Notice) : State :=
  let h := s.get F.tblLearnChan_handle 0
  if h = 0 ∨ s.chanLive h 4 = true then (s.evtPost h 2 (noticeBytes n)).bump F.tblCntLearnPosted 0
  else s.bump F.tblCntLearnDropped 0

/-! ### Objects (Table 11.6) -/

abbrev oNH : Nat := 1
abbrev oECMP : Nat := 2
abbrev oMEMBER : Nat := 3
abbrev oZONE : Nat := 4
abbrev oLIST : Nat := 5
abbrev oRMEMBER : Nat := 6
abbrev oREWRITE : Nat := 7
abbrev oTEMPLATE : Nat := 8
abbrev oMETER : Nat := 9

def objKey (code ix : Nat) : Nat := code * 2 ^ 20 + ix
/-- The words an object takes. -/
def objWords : Nat → Nat
  | 4 => 3
  | 7 => 4
  | 8 => 16
  | 9 => 2
  | _ => 1
/-- How many objects of a kind there are (Table 11.6). -/
def objCount : Nat → Nat
  | 1 => 262144
  | 2 => 16384
  | 3 => 262144
  | 4 => 4096
  | 5 => 65536
  | 6 => 262144
  | 7 => 131072
  | 8 => 16384
  | 9 => 262144
  | _ => 0
/-- An object nobody has written: zero, and for a zone every permit bit (R131). -/
def objReset (code : Nat) : List Word :=
  if code = oZONE then [BitVec.allOnes 64, BitVec.allOnes 64, 3] else List.replicate (objWords code) 0
def State.obj (s : State) (code ix : Nat) : List Word := Tab.getD s.tab.objs (objKey code ix) (objReset code)
/-- The little-endian number an object's words spell. -/
def objNat (l : List Word) : Nat := l.foldr (fun w a => w.toNat + 2 ^ 64 * a) 0
def State.objN (s : State) (code ix : Nat) : Nat := objNat (s.obj code ix)
/-- A field of an object. -/
def State.objF (s : State) (code ix lo len : Nat) : Nat := s.objN code ix / 2 ^ lo % 2 ^ len

/-! ### Next hops and ECMP (R127, R128) -/

/-- Depth of a queue as last sampled (R263). -/
def State.depthOf (s : State) (q : Nat) : Nat := Tab.getD s.tm.depth q 0

/-- The member of a group that hash `h` selects. -/
def State.ecmpMember (s : State) (grp h : Nat) : Nat :=
  let count := s.objF oECMP grp 18 9 + 1
  s.objF oECMP grp 0 18 + h * count / 2 ^ 32

/-- The next hop that an ECMP group gives a frame (R128), and whether an entry it met is bad (R133). -/
def State.ecmpPick (s : State) (g : Nat) (grp : Nat) (m : Man) : Nat × Bool :=
  let h := if s.objF oECMP grp 28 1 = 1 then mget m (0x70, 4) else mget m mFhash
  let rot := h % 2 ^ 16 * 2 ^ 16 + h / 2 ^ 16
  let m1 := s.ecmpMember grp h
  let m2 := s.ecmpMember grp rot
  let n1 := s.objF oMEMBER m1 0 18
  let n2 := s.objF oMEMBER m2 0 18
  let q := fun n => s.objF oNH n 26 17 + mEtcOf m
  let bad1 := s.isBad tkECMP g grp || s.isBad tkECMP g (16384 + m1)
  if s.objF oECMP grp 27 1 = 1 ∧ 1024 ≤ Tab.getD s.tab.ecmpSamples grp 0 then
    if s.depthOf (q n2) < s.depthOf (q n1) then (n2, bad1 || s.isBad tkECMP g (16384 + m2)) else (n1, bad1)
  else (n1, bad1)

/-! ### Zones (R131) -/

/-- Whether zone `z` lets a copy leave on port `p` (0-127, 128 MGMT0, 129 MGMT1). -/
def State.zonePermits (s : State) (z p : Nat) : Bool :=
  let n := s.objN oZONE z
  !(n.testBit 130) || n.testBit p

/-! ### Generations (R136-R139) -/

abbrev gSHADOW : Nat := 0
abbrev gACTIVE : Nat := 1
abbrev gRETIRING : Nat := 2

def State.genState (s : State) (g : Bool) : Nat :=
  if g then s.get F.tblGenStatus_g1State 0 else s.get F.tblGenStatus_g0State 0
def State.setGenState (s : State) (g : Bool) (x : Nat) : State :=
  if g then s.set F.tblGenStatus_g1State 0 x else s.set F.tblGenStatus_g0State 0 x
def State.activeGen (s : State) : Bool := s.bit F.tblGenStatus_active 0
def State.inflight (s : State) (g : Bool) : Nat :=
  if g then s.get F.tblGenInflight1_count 0 else s.get F.tblGenInflight0_count 0
def State.setInflight (s : State) (g : Bool) (n : Nat) : State :=
  if g then s.set F.tblGenInflight1_count 0 n else s.set F.tblGenInflight0_count 0 n
/-- The handle of a generation set (R139). -/
def State.genHandle (s : State) (g : Bool) : Nat := handle 4 (Tab.getD s.tab.genSets g.toNat 0) g.toNat

/-- A set becomes SHADOW: its handle generation advances, and GEN_RETIRED carries the handle of the set that became SHADOW
(R137, R139; the handle after the advance, log entry 12). -/
def State.becomeShadow (s : State) (g : Bool) : State :=
  let s := s.setGenState g gSHADOW
  let s := { s with tab := { s.tab with genSets := Tab.put s.tab.genSets g.toNat ((Tab.getD s.tab.genSets g.toNat 0 + 1) % 256) } }
  s.cmdEvent 6 g.toNat stOK (s.genHandle g)

/-- A RETIRING generation whose count is zero becomes SHADOW (R137). -/
def State.retireCheck (s : State) (g : Bool) : State :=
  if s.genState g = gRETIRING ∧ s.inflight g = 0 then s.becomeShadow g else s

/-- A first pass is dispatched: its flight is counted under the active generation (R73, R137). -/
def State.flightStart (s : State) : State × Nat × Bool :=
  let g := s.activeGen
  let n := s.eng.nextFlight
  let s := { s with eng := { s.eng with nextFlight := n + 1, flights := Tab.put s.eng.flights n (g, 1) } }
  (s.setInflight g (s.inflight g + 1), n, g)

/-- One more copy belongs to a flight. -/
def State.flightAdd (s : State) (n : Nat) : State :=
  { s with eng := { s.eng with flights := Tab.upd s.eng.flights n (fun e => (e.1, e.2 + 1)) } }

/-- A frame or copy of a flight has ended: at the last one the count falls (R137). -/
def State.flightEnd (s : State) (n : Nat) : State :=
  match Tab.get? s.eng.flights n with
  | none => s
  | some (g, k) =>
    if k ≤ 1 then
      let s := { s with eng := { s.eng with flights := Tab.del s.eng.flights n } }
      (s.setInflight g (s.inflight g - 1)).retireCheck g
    else { s with eng := { s.eng with flights := Tab.put s.eng.flights n (g, k - 1) } }

end Sys2Proof.Machine
end

