-- ==== Sys2Proof/Machine/Buffer.lean ====
section
/-!
DEFINITION. Machine/Buffer.lean: the buffer pool manager: port rates and the flow control it drives (R268, R281), pools and
sub-pools (R205-R213), descriptors, owners and references (R215-R218), accounts and thresholds (R219-R223), and the HBM pools
(R228).
-/
namespace Sys2Proof.Machine

/-! ### Ports: rate, quay, state (R11, R267-R269) -/

/-- The quay that serves a TM port (R11, R269, Table 8.1). -/
def quayOf (p : Nat) : Nat := if p < 128 then p / 8 else if p = 128 then 0 else if p = 129 then 15 else p - 130

/-- The mode of a port's block (PORT_PB_MODE). -/
def State.pbMode (s : State) (p : Nat) : Nat := s.get F.portPbMode_mode (p / 4)

/-- Lanes of a port by block mode (Table 9.1). -/
def modeLanes : Nat → Nat
  | 1 => 4 | 2 => 2 | 3 => 4 | 4 => 1 | 5 => 4 | 6 => 2 | 7 => 1 | 8 => 1 | 9 => 1
  | _ => 0
/-- Port rate by block mode, Mb/s (Table 9.1). -/
def modeRate : Nat → Nat
  | 1 => 400000 | 2 => 200000 | 3 => 200000 | 4 => 100000 | 5 => 100000 | 6 => 50000 | 7 => 25000 | 8 => 10000 | 9 => 1000
  | _ => 0

/-- Whether a port number exists (R267). -/
def State.portExists (s : State) (p : Nat) : Bool :=
  if p < 128 then
    let n := modeLanes (s.pbMode p)
    n != 0 && p % 4 % n == 0
  else p == 128 || p == 129

/-- The rate of a TM port in Mb/s. -/
def State.portRate (s : State) (p : Nat) : Nat :=
  if p < 128 then modeRate (s.pbMode p)
  else if p < 130 then (if s.bit F.portCfg_mgmtRate (portIx p) then 10000 else 1000)
  else 200000

/-- Wire time of `n` bytes on a port, in ps, rounded up. -/
def State.wirePs (s : State) (p n : Nat) : Nat :=
  let r := s.portRate p
  if r = 0 then 0 else (n * 8 * 1000000 + r - 1) / r

/-- Whether a TM port's link is up; the recirculation ports are always up (Table 8.1, log entry 14). -/
def State.linkUp (s : State) (p : Nat) : Bool := if p < 130 then s.bit F.tmPortStatus_link p else true

/-! ### XOFF and the frames that signal it (R223, R281) -/

def pgKey (port tc : Nat) : Nat := port * 8 + tc
def State.pg (s : State) (k : Nat) : PgAcct := Tab.getD s.buf.pgs k {}
def State.setPg (s : State) (k : Nat) (v : PgAcct) : State := { s with buf := { s.buf with pgs := Tab.put s.buf.pgs k v } }

/-- Send one flow-control frame for a port whose link is up and that may send frames now (R1, R281, R437); on the way out of
SAFE HARBOUR the quays are paused as in SLACK (R444). -/
def State.sendFlow (s : State) (p : Nat) (mask : BitVec 8) (quanta : List Nat) : State :=
  if s.linkUp p = false ∨ (s.forwarding = false ∧ s.hbor.draining = none ∧ ¬(s.modeNo = mMOORED ∧ 128 ≤ p)) then s else
  match s.get F.portFlowctl_mode (portIx p) with
  | 1 => (s.emit (.flowCtl p false mask quanta)).bump F.portCntTxPause (portIx p)
  | 2 => (List.range 8).foldl (fun s n => s.bumpIf (mask.getLsbD n) F.portCntTxPfc (portIx p * 8 + n)) (s.emit (.flowCtl p true mask quanta))
  | _ => s

/-- Nanoseconds of a number of quanta on a port (R280). -/
def State.quantaNs (s : State) (p q : Nat) : Nat :=
  let r := s.portRate p
  if r = 0 then 0 else (q * 512 * 1000 + r - 1) / r

/-- The priorities of a port that are in XOFF: those whose group says so, and all lossless ones of a paused quay (R429). -/
def State.xoffMask (s : State) (p : Nat) : BitVec 8 :=
  (List.range 8).foldl (fun m tc =>
    if s.bit F.bufPgCfg_lossless (pgKey p tc) && ((s.pg (pgKey p tc)).xoff || s.paused (quayOf p))
    then m ||| BitVec.ofNat 8 (2 ^ tc) else m) 0

/-- Signal a change of a port's XOFF state: one frame carries every priority that changed (R281). -/
def State.xoffUpdate (s : State) (p : Nat) : State :=
  let st := s.portSt p
  let now := s.xoffMask p
  if now = st.xoff then s
  else
    let chg := now ^^^ st.xoff
    let q := s.get F.portFlowctl_pfcQuanta (portIx p)
    let ref := s.ns + s.quantaNs p (s.get F.portFlowctl_refresh (portIx p))
    let s := s.setPortSt p { st with xoff := now, refreshNs := if now = 0 then none else some (st.refreshNs.getD ref) }
    if s.get F.portFlowctl_mode (portIx p) = 1 then
      if st.xoff = 0 then s.sendFlow p 0xFF [q] else if now = 0 then s.sendFlow p 0xFF [0] else s
    else s.sendFlow p chg ((List.range 8).map (fun i => if now.getLsbD i then q else 0))

/-! ### Pools (Table 7.2, R204-R207, R215) -/

def poolCells : Nat → Nat
  | 0 => 1 | 1 => 4 | 2 => 16 | _ => 80
def State.poolSize (s : State) (p : Nat) : Nat := s.get F.bufPoolCfg_rows p * 16 / poolCells p
def bidOf (p x : Nat) : Nat := p * 2 ^ 21 + x
def bidPool (b : Nat) : Nat := b / 2 ^ 21 % 4
def bidIx (b : Nat) : Nat := b % 2 ^ 21

/-- The sub-pool of buffer `x` (Table 7.2; every pool starts at a row that is a multiple of 16, R206). -/
def subPool (p x : Nat) : Nat := if p = 1 then x / 4 % 4 + 4 * (x % 4) else x % 16
/-- The k-th buffer of sub-pool `sp`. -/
def subBuffer (p sp k : Nat) : Nat := if p = 1 then 16 * k + 4 * (sp % 4) + sp / 4 else 16 * k + sp

/-- The smallest pool whose buffers hold `n` cells (R207). -/
def poolFor (n : Nat) : Nat := if n ≤ 1 then 0 else if n ≤ 4 then 1 else if n ≤ 16 then 2 else 3
/-- Cells of a frame of `l` bytes (R207). -/
def cellsOf (l : Nat) : Nat := (l + 127) / 128

def State.desc? (s : State) (b : Nat) : Option Desc := Tab.get? s.buf.descs b
def State.setDesc (s : State) (b : Nat) (d : Desc) : State := { s with buf := { s.buf with descs := Tab.put s.buf.descs b d } }
def State.delDesc (s : State) (b : Nat) : State := { s with buf := { s.buf with descs := Tab.del s.buf.descs b } }

def State.poolHeld (s : State) (p : Nat) : Nat := (s.buf.descs.filter (fun e => bidPool e.1 == p)).length
def State.poolFree (s : State) (p : Nat) : Nat := s.poolSize p - s.poolHeld p
def State.subHeld (s : State) (p sp : Nat) : Nat :=
  (s.buf.descs.filter (fun e => bidPool e.1 == p && subPool p (bidIx e.1) == sp)).length
def State.subFree (s : State) (p sp : Nat) : Nat := s.poolSize p / 16 - s.subHeld p sp
def State.poolSubMin (s : State) (p : Nat) : Nat := (List.range 16).foldl (fun m sp => Nat.min m (s.subFree p sp)) (2 ^ 20)

/-- A free buffer of a sub-pool: which of them its free list gives is left to the outside (`pick`, log entry 15). -/
def State.pickBuf (s : State) (p sp : Nat) (k : Nat) : Nat → Option Nat
  | 0 => none
  | fuel + 1 =>
    let n := s.poolSize p / 16
    if n = 0 then none
    else
      let b := bidOf p (subBuffer p sp (k % n))
      if (s.desc? b).isNone then some b else s.pickBuf p sp (k + 1) fuel

/-- The first sub-pool from `sp` on with a buffer available (R211, R212). -/
def State.findSub (s : State) (p sp : Nat) (hdrm : Bool) : Option Nat :=
  if hdrm || decide (s.get F.bufPoolCfg_hr p < s.poolFree p) then
    ((List.range 16).map (fun j => (sp + j) % 16)).find? (fun x => decide (0 < s.subFree p x))
  else none

/-- An allocation from pool `p`, promoting where PROMOTE is 1 (R211-R213): the buffer, and the sub-pool it came from. -/
def State.allocFrom (s : State) (sp pick : Nat) (hdrm : Bool) : Nat → Nat → State × Option (Nat × Nat)
  | 0, _ => (s, none)
  | fuel + 1, p =>
    match s.findSub p sp hdrm with
    | some x =>
      match s.pickBuf p x pick (s.subHeld p x + 1) with
      | some b => (s.bumpIf (x != sp) F.bufCntSpill 0, some (b, x))
      | none => (s, none)
    | none =>
      if p < 3 ∧ s.bit F.bufPoolCfg_promote p = true then
        match s.allocFrom sp pick hdrm fuel (p + 1) with
        | (s, some r) => (s.bump F.bufCntPromoted 0, some r)
        | r => r
      else (s, none)

/-! ### Accounts (R219-R223) -/

/-- The indexes at which a register has been written; at every other index it holds its reset value. -/
def State.regIxs (s : State) (r : Reg) : List Nat :=
  (s.regs.filter (fun e => e.1 % 1024 == r.ctorIdx)).map (fun e => e.1 / 1024)

/-- The cells of all pools. -/
def State.poolCellsAll (s : State) : Nat := (List.range 4).foldl (fun n p => n + s.get F.bufPoolCfg_rows p * 16) 0

/-- The shared area S (R219); negative where a configuration would make it so. -/
def State.sharedS (s : State) : Int :=
  let qmin := (s.regIxs .bufQCfg).foldl (fun n q => n + s.get F.bufQCfg_min q) 0
  let pmin := (s.regIxs .bufPgCfg).foldl (fun n k => if s.bit F.bufPgCfg_lossless k then n + s.get F.bufPgCfg_min k else n) 0
  let hr := (List.range 4).foldl (fun n p => n + s.get F.bufPoolCfg_hr p * poolCells p) 0
  (s.poolCellsAll : Int) - qmin - pmin - hr

/-- The cells counted against a queue; recirculation queues are counted apart (log entry 16). -/
def State.qUsed (s : State) (q : Nat) : Nat :=
  if q < 131072 then s.get F.bufQUsed_used q
  else s.tm.copies.foldl (fun n e => if e.2.queue = q then n + poolCells (bidPool e.2.bid) else n) 0

def State.addQUsed (s : State) (q n : Nat) : State :=
  if q < 131072 then s.set F.bufQUsed_used q (s.get F.bufQUsed_used q + n) else s
def State.subQUsed (s : State) (q n : Nat) : State :=
  if q < 131072 then s.set F.bufQUsed_used q (s.get F.bufQUsed_used q - n) else s

/-- The shared use U (R219). -/
def State.sharedU (s : State) : Nat :=
  (s.regIxs .bufQUsed).foldl (fun n q =>
    if s.bit F.bufQCfg_lossless q then n else n + (s.get F.bufQUsed_used q - s.get F.bufQCfg_min q)) 0
  + s.buf.pgs.foldl (fun n e => if s.bit F.bufPgCfg_lossless e.1 then n + (e.2.used - s.get F.bufPgCfg_min e.1) else n) 0
/-- The shared free count F = S - U (R219). -/
def State.sharedF (s : State) : Int := s.sharedS - s.sharedU

/-- Whether `x` cells are at most α × F, α = 2^(code - 7); codes above 10 act as 10 (log entry 17). -/
def State.withinAlpha (s : State) (code x : Nat) : Bool := decide ((x * 128 : Int) ≤ 2 ^ (Nat.min code 10) * s.sharedF)

/-- The threshold test of R220. -/
def State.qAdmit (s : State) (q n : Nat) : Bool :=
  let mn := if q < 131072 then s.get F.bufQCfg_min q else 0
  let al := if q < 131072 then s.get F.bufQCfg_alpha q else 7
  let u := s.qUsed q + n
  decide (u ≤ mn) || s.withinAlpha al (u - mn)

/-- Re-evaluate a group's XOFF state (R223) and signal a change. -/
def State.pgCheck (s : State) (k : Nat) : State :=
  let g := s.pg k
  let above := g.used - s.get F.bufPgCfg_min k
  let thrHit := if s.bit F.bufPgCfg_dyn k then decide ((2 ^ (Nat.min (s.get F.bufPgCfg_alpha k) 10) * s.sharedF : Int) ≤ above * 128)
    else decide (s.get F.bufPgCfg_xoff k ≤ above)
  let thrOk := if s.bit F.bufPgCfg_dyn k then
      decide (((above + s.get F.bufPgCfg_xonDelta k) * 128 : Int) ≤ 2 ^ (Nat.min (s.get F.bufPgCfg_alpha k) 10) * s.sharedF)
    else decide (above + s.get F.bufPgCfg_xonDelta k ≤ s.get F.bufPgCfg_xoff k)
  let xoff := if g.xoff then !(g.hdrm == 0 && thrOk) else (thrHit || g.hdrm != 0)
  if xoff = g.xoff then s else (s.setPg k { g with xoff := xoff }).xoffUpdate (k / 8)

/-- How R222 admits `n` cells of a lossless group into pool `p`: 1 shared, 2 headroom, 0 refused. -/
def State.losslessClass (s : State) (k n p : Nat) : Nat :=
  let g := s.pg k
  let above := decide (s.get F.bufPoolCfg_hr p < s.poolFree p)
  if g.used + n ≤ s.get F.bufPgCfg_min k ∧ above = true then 1
  else if g.xoff = false ∧ (n : Int) ≤ s.sharedF ∧ above = true then 1
  else if g.hdrm + n ≤ s.get F.bufPgHdrm_hdrm k then 2
  else 0

/-- Charge an admission to its group. -/
def State.pgCharge (s : State) (k acct n : Nat) : State :=
  let g := s.pg k
  (if acct = 1 then s.setPg k { g with used := g.used + n }
   else if acct = 2 then s.setPg k { g with hdrm := g.hdrm + n } else s).pgCheck k

/-- Release the account a descriptor records (R217, R223). -/
def State.pgRelease (s : State) (d : Desc) (n : Nat) : State :=
  let g := s.pg d.pg
  if d.acct = 1 then (s.setPg d.pg { g with used := g.used - n }).pgCheck d.pg
  else if d.acct = 2 then (s.setPg d.pg { g with hdrm := g.hdrm - n }).pgCheck d.pg
  else s

/-! ### Owners and references (R217, R218) -/

/-- An owner event, posted to RAS (Tables 7.5, 16.4). -/
def State.ownerEvent (s : State) (status req tag bid : Nat) : State := s.rasEvent 5 status req tag bid

/-- Refuse a free or release request: counted, and an owner event posted. -/
def State.ownerRefuse (s : State) (status req tag bid : Nat) : State :=
  ((s.bumpIf (status == stNOT_OWNER) F.bufCntNotOwner 0).bumpIf (status == stALREADY_FREE) F.bufCntAlreadyFree 0).ownerEvent
    status req tag bid

/-- Put a held buffer back into its sub-pool. -/
def State.bufDrop (s : State) (b : Nat) (d : Desc) : State := (s.delDesc b).pgRelease d (poolCells (bidPool b))

/-- A free request (R217): the status and the state. The owner tag of a FREE descriptor is not given: a free value. -/
def State.bufFree (s : State) (b req : Nat) : Nat × State :=
  match s.desc? b with
  | none => (stALREADY_FREE, s.useFree.ownerRefuse stALREADY_FREE req (s.freeVal.toNat % 4096) b)
  | some d =>
    if d.refc then (stNOT_OWNER, s.ownerRefuse stNOT_OWNER req (0x800 + d.mid) b)
    else if d.mid ≠ req then (stNOT_OWNER, s.ownerRefuse stNOT_OWNER req d.mid b)
    else (stOK, s.bufDrop b d)

/-- A reference release (R218). -/
def State.refRelease (s : State) (b req : Nat) : State :=
  match s.desc? b with
  | none => s.useFree.ownerRefuse stALREADY_FREE req (s.freeVal.toNat % 4096) b
  | some d =>
    if d.refcnt = 0 then s.ownerRefuse stALREADY_FREE req ((if d.refc then 0x800 else 0) + d.mid) b
    else if d.refcnt = 1 then s.bufDrop b d
    else s.setDesc b { d with refcnt := d.refcnt - 1 }

/-- A holder gives up its hold of a buffer, as owner or as reference (R195, R216). -/
def State.letGo (s : State) (b req : Nat) : State :=
  match s.desc? b with
  | some d => if d.refc then s.refRelease b req else (s.bufFree b req).2
  | none => (s.bufFree b req).2

/-! ### HBM pools (R228): pool h is 0 HOST, 1 LOG -/

def hbKey (h x : Nat) : Nat := h * 2 ^ 22 + x
def State.hbCount (s : State) (h : Nat) : Nat := s.get F.bufHbmPool_size h * 2 ^ 20 / 2 ^ s.get F.bufHbmPool_bufsz h
def State.hbBytes (s : State) (h : Nat) : Nat := 2 ^ (s.get F.bufHbmPool_bufsz h + 10)
def State.hbAddr (s : State) (h x : Nat) : Nat := (s.hbmRegion h).1 + x * s.hbBytes h
/-- The buffer ID of an HBM buffer: bit 23 set, the pool at [22:21] (Tables 7.5, 12.7, log entry 18). -/
def hbId (h x : Nat) : Nat := 2 ^ 23 + h * 2 ^ 21 + x

/-- The lowest free buffer of pool `h`. -/
def State.hbFirst (s : State) (h : Nat) : Nat :=
  firstFree ((s.buf.hbmBufs.filter (fun e => e.1 / 2 ^ 22 == h)).map (fun e => (e.1 % 2 ^ 22, e.2))) 0
/-- Buffer `x` of pool `h` is granted. -/
def State.hbGrant (s : State) (h x mid : Nat) (refc : Bool) : State :=
  { s with buf := { s.buf with hbmBufs := Tab.put s.buf.hbmBufs (hbKey h x) ⟨mid, refc, if refc then 1 else 0⟩ } }
/-- Grant one buffer of an HBM pool: the lowest free one (log entry 15). -/
def State.hbAlloc (s : State) (h mid : Nat) (refc : Bool) : State × Option Nat :=
  if s.hbmFailed then (s, none)
  else if s.hbFirst h < s.hbCount h then (s.hbGrant h (s.hbFirst h) mid refc, some (s.hbFirst h))
  else (s, none)

/-- A free request for an HBM buffer (R217 as R228 applies it). -/
def State.hbFree (s : State) (h x req : Nat) : Nat × State :=
  match Tab.get? s.buf.hbmBufs (hbKey h x) with
  | none => (stALREADY_FREE, s.useFree.ownerRefuse stALREADY_FREE req (s.freeVal.toNat % 4096) (hbId h x))
  | some b =>
    if b.refc then (stNOT_OWNER, s.ownerRefuse stNOT_OWNER req (0x800 + b.mid) (hbId h x))
    else if b.mid ≠ req then (stNOT_OWNER, s.ownerRefuse stNOT_OWNER req b.mid (hbId h x))
    else (stOK, { s with buf := { s.buf with hbmBufs := Tab.del s.buf.hbmBufs (hbKey h x) } })

/-- The harbour log lets a LOG buffer go. -/
def State.hbLet (s : State) (h x : Nat) : State :=
  { s with buf := { s.buf with hbmBufs := Tab.del s.buf.hbmBufs (hbKey h x) } }

/-! ### The cargo seal (R225-R227, Table 7.6) -/

/-- The copy's cargo seal: the stored state continued over the fold word, inverted. -/
def sealOf (crc seq : BitVec 32) (queue port : Nat) : BitVec 32 :=
  let fold := seq.toNat * 2 ^ 32 + queue % 2 ^ 17 * 2 ^ 8 + port % 256
  ~~~(crc32c crc (leBytes 8 fold))

end Sys2Proof.Machine
end

