-- ==== Sys2Proof/Machine/Sched.lean ====
section
/-!
DEFINITION. Machine/Sched.lean: the traffic manager: the tree (Table 8.1, R232), shapers (R242-R244), credit shapers (R248),
gate lists (R249-R257), and the choice among children (R238-R241). Elements are numbered: a queue by itself, recirculation
queue n, TC as 131072 + n x 8 + TC, subscriber node u as 200000 + u, service node v as 240000 + v, class slot i as 250000 + i,
TM port p as 260000 + p.
-/
namespace Sys2Proof.Machine

def elSub (u : Nat) : Nat := 200000 + u
def elSvc (v : Nat) : Nat := 240000 + v
def elSlot (p c : Nat) : Nat := 250000 + p * 8 + c
def elPort (p : Nat) : Nat := 260000 + p
def isQueue (e : Nat) : Bool := decide (e < 200000)
def isSub (e : Nat) : Bool := decide (200000 ≤ e) && decide (e < 240000)
def isSvc (e : Nat) : Bool := decide (240000 ≤ e) && decide (e < 250000)
def isSlot (e : Nat) : Bool := decide (250000 ≤ e) && decide (e < 260000)

/-! ### The tree (R232) -/

/-- The element that a parent field names: PTYPE 0 subscriber, 1 service, 2 class slot. -/
def parentEl (ptype ix : Nat) : Option Nat :=
  match ptype with
  | 0 => some (elSub ix)
  | 1 => if ix < 4096 then some (elSvc ix) else none
  | 2 => if ix < 1168 then some (250000 + ix) else none
  | _ => none

/-- The parent of an element. -/
def State.parentOf (s : State) (e : Nat) : Option Nat :=
  if e < 131072 then parentEl (s.get F.tmQMap_ptype e) (s.get F.tmQMap_parent e)
  else if isQueue e then some (elSlot (130 + (e - 131072) / 8) ((e - 131072) % 8))
  else if isSub e then
    (match s.get F.tmSubNode_ptype (e - 200000) with
     | 1 => parentEl 1 (s.get F.tmSubNode_parent (e - 200000))
     | 2 => parentEl 2 (s.get F.tmSubNode_parent (e - 200000))
     | _ => none)
  else if isSvc e then
    (if s.get F.tmSvcNode_ptype (e - 240000) = 2 then parentEl 2 (s.get F.tmSvcNode_parent (e - 240000)) else none)
  else if isSlot e then some (elPort ((e - 250000) / 8))
  else none

/-- Whether an element is enabled. -/
def State.elEn (s : State) (e : Nat) : Bool :=
  if e < 131072 then s.bit F.tmQMap_en e
  else if isQueue e then true
  else if isSub e then s.bit F.tmSubNode_en (e - 200000)
  else if isSvc e then s.bit F.tmSvcNode_en (e - 240000)
  else if isSlot e then s.bit F.tmPortCfg_en ((e - 250000) / 8)
  else s.bit F.tmPortCfg_en (e - 260000)

/-- The class slot at the root of an element's tree. -/
def State.slotOf (s : State) : Nat → Nat → Option Nat
  | 0, _ => none
  | fuel + 1, e => if isSlot e then some (e - 250000) else match s.parentOf e with | some p => s.slotOf fuel p | none => none

/-- A queue's TM port and class (R232). -/
def State.queueSlot (s : State) (q : Nat) : Option (Nat × Nat) := (s.slotOf 4 q).map (fun i => (i / 8, i % 8))

/-- The path from an element up to its port. -/
def State.pathUp (s : State) : Nat → Nat → List Nat
  | 0, e => [e]
  | fuel + 1, e => e :: (match s.parentOf e with | some p => s.pathUp fuel p | none => [])

/-- The children of an element that are enabled, in child index order. -/
def State.childrenOf (s : State) (e : Nat) : List Nat :=
  let qs := (s.regIxs .tmQMap).filter (fun q => s.elEn q && s.parentOf q == some e)
  let us := ((s.regIxs .tmSubNode).map elSub).filter (fun x => s.elEn x && s.parentOf x == some e)
  let vs := ((s.regIxs .tmSvcNode).map elSvc).filter (fun x => s.elEn x && s.parentOf x == some e)
  let rs := if isSlot e ∧ 130 * 8 ≤ e - 250000 then [131072 + (e - 250000 - 130 * 8)] else []
  qs ++ us ++ vs ++ rs

/-- PRIO and WEIGHT of a child; DISC, QUNIT and BURST of a parent. -/
def State.elPrio (s : State) (e : Nat) : Nat :=
  if e < 131072 then s.get F.tmQMap_prio e else if isQueue e then 0
  else if isSub e then s.get F.tmSubNode_prio (e - 200000)
  else if isSvc e then s.get F.tmSvcNode_prio (e - 240000)
  else if isSlot e then s.get F.tmClassCfg_prio (e - 250000) else 0
def State.elWeight (s : State) (e : Nat) : Nat :=
  Nat.max 1 (if e < 131072 then s.get F.tmQMap_weight e else if isQueue e then 1
    else if isSub e then s.get F.tmSubNode_weight (e - 200000)
    else if isSvc e then s.get F.tmSvcNode_weight (e - 240000)
    else if isSlot e then s.get F.tmClassCfg_weight (e - 250000) else 1)
def State.elDisc (s : State) (e : Nat) : Bool :=
  if isSub e then s.bit F.tmSubNode_disc (e - 200000) else if isSvc e then s.bit F.tmSvcNode_disc (e - 240000)
  else if isSlot e then s.bit F.tmClassCfg_disc (e - 250000) else s.bit F.tmPortCfg_disc (e - 260000)
def State.elQunit (s : State) (e : Nat) : Nat :=
  if isSub e then s.get F.tmSubNode_qunit (e - 200000) else if isSvc e then s.get F.tmSvcNode_qunit (e - 240000)
  else if isSlot e then s.get F.tmClassCfg_qunit (e - 250000) else s.get F.tmPortCfg_qunit (e - 260000)
def State.elBurst (s : State) (e : Nat) : Nat :=
  1024 * (if isSub e then s.get F.tmSubNode_burst (e - 200000) else if isSvc e then s.get F.tmSvcNode_burst (e - 240000)
  else if isSlot e then s.get F.tmClassCfg_burst (e - 250000) else s.get F.tmPortCfg_burst (e - 260000))
/-- The shaper profile of an element whose shaper applies. -/
def State.elShaper (s : State) (e : Nat) : Option Nat :=
  if isSub e then (if s.bit F.tmSubNode_shapeEn (e - 200000) then some (s.get F.tmSubNode_shaper (e - 200000)) else none)
  else if isSvc e then (if s.bit F.tmSvcNode_shapeEn (e - 240000) then some (s.get F.tmSvcNode_shaper (e - 240000)) else none)
  else if isSlot e then (if s.bit F.tmClassCfg_shapeEn (e - 250000) then some (s.get F.tmClassCfg_shaper (e - 250000)) else none)
  else if isQueue e then none
  else (if s.bit F.tmPortCfg_shapeEn (e - 260000) then some (s.get F.tmPortCfg_shaper (e - 260000)) else none)

/-! ### Shapers (R242-R244, log entry 20) -/

/-- The tokens with which a profile's last change started its elements. -/
def profKey (i : Nat) : Nat := 1000000 + i

/-- A shaper of profile `i` brought up to now: both buckets in 2^-8 byte (R242). -/
def State.shaperNow (s : State) (e i : Nat) : Shaper :=
  let sh := (Tab.get? s.tm.shapers e).getD (Tab.getD s.tm.shapers (profKey i) {})
  let dt := s.ns - sh.lastNs
  let add := fun (b : Int) (rate cap : Nat) =>
    let v := b + (rate * dt / 31250 : Nat)
    if (cap * 256 : Nat) < v then ((cap * 256 : Nat) : Int) else v
  { sh with c := add sh.c (s.get F.tmShaperProfile_cir i) (s.get F.tmShaperProfile_cbs i),
            p := add sh.p (s.get F.tmShaperProfile_pir i) (s.get F.tmShaperProfile_pbs i), lastNs := s.ns }

abbrev cCOMMIT : Nat := 0
abbrev cEXCESS : Nat := 1
abbrev cBLOCKED : Nat := 2

/-- The state of a child (R243); PIR = 0 means no peak limit. -/
def State.childState (s : State) (e : Nat) : Nat :=
  match s.elShaper e with
  | none => cCOMMIT
  | some i =>
    let sh := s.shaperNow e i
    let pOk := s.get F.tmShaperProfile_pir i == 0 || decide (0 ≤ sh.p)
    if !pOk then cBLOCKED
    else if decide (0 ≤ sh.c) && s.get F.tmShaperProfile_cir i != 0 then cCOMMIT else cEXCESS

/-- Charge a selection to an element's shaper (R242). -/
def State.shaperCharge (s : State) (lo : Nat) (e : Nat) : State :=
  match s.elShaper e with
  | none => s
  | some i =>
    let ov : Int := (BitVec.ofNat 8 (s.get F.tmShaperProfile_overhead i)).toInt
    let sh := s.shaperNow e i
    let n : Int := ((lo : Int) + ov) * 256
    let sh := { sh with c := sh.c - n, p := if s.get F.tmShaperProfile_pir i = 0 then sh.p else sh.p - n }
    { s with tm := { s.tm with shapers := Tab.put s.tm.shapers e sh } }

/-- A change of profile `i` with tokens FULL or ZERO (R244). -/
def State.shaperChange (s : State) (i : Nat) (full : Bool) : State :=
  let sh : Shaper := if full then ⟨s.get F.tmShaperProfile_cbs i * 256, s.get F.tmShaperProfile_pbs i * 256, s.ns, none⟩
    else ⟨0, 0, s.ns, none⟩
  let l := s.tm.shapers.map (fun e => if s.elShaper e.1 = some i then (e.1, sh) else e)
  let s := { s with tm := { s.tm with shapers := Tab.put l (profKey i) sh } }
  s.set F.tmShaperProfile_version i (s.get F.tmShaperProfile_version i + 1)

/-! ### Gates (R249-R255); times in 2^-16 ns on the gate base -/

/-- The time of a base (0-7) or TL (15) in ns; none while a base does not run. -/
def State.baseNs? (s : State) (b : Nat) : Option Nat :=
  if b < 8 then (if (s.base b).running then some ((s.base b).t40 / 2 ^ 40) else none) else some s.tlNs
def State.baseT16 (s : State) (b : Nat) : Nat := if b < 8 then (s.base b).t40 / 2 ^ 24 else s.tlNs * 65536
def State.basePs (s : State) (b : Nat) : Nat := if b < 8 then (s.base b).t40 * 1000 / 2 ^ 40 else s.tlNs * 1000

def gcStates (e : BitVec 64) : Nat := (e.extractLsb' 32 8).toNat
def gcIntv (e : BitVec 64) : Nat := (e.extractLsb' 0 32).toNat
def gcOp (e : BitVec 64) : Nat := (e.extractLsb' 40 2).toNat
def glCycle (l : GateList) : Nat := l.cycNs * 65536 + l.cycFrac
def glBase (l : GateList) : Nat := (l.baseS * 1000000000 + l.baseNs) * 65536

/-- Start of the cycle that holds instant `t`, also for instants before BASE after a step back (R252). -/
def glStart (l : GateList) (t : Nat) : Int :=
  let c := glCycle l
  if c = 0 then t else (t : Int) - ((t : Int) - (glBase l : Int)).emod c

/-- The entry in force at offset `pos` of a cycle: its number, its states, its operation and the offset where it ends. -/
def glEntry (cycle : Nat) : List (BitVec 64) → Nat → Nat → Nat → Nat × Nat × Nat × Nat
  | [], _, _, _ => (0, 0xFF, 0, cycle)
  | [e], i, _, _ => (i, gcStates e, gcOp e, cycle)
  | e :: r, i, at0, pos =>
    let stop := at0 + gcIntv e * 65536
    if pos < stop ∨ cycle ≤ stop then (i, gcStates e, gcOp e, Nat.min stop cycle) else glEntry cycle r (i + 1) stop pos

/-- The gates of a port at instant `t`: entry, states, operation, and the instant at which that entry ends. -/
def gateAt (g : Gate) (t : Nat) : Nat × Nat × Nat × Nat :=
  let chg := g.change16
  let cut := fun (x : Nat) => match chg with | some c => if t < c then Nat.min x c else x | none => x
  let run := fun (l : GateList) =>
    let st := glStart l t
    let r := glEntry (glCycle l) l.entries 0 0 ((t : Int) - st).toNat
    (r.1, r.2.1, r.2.2.1, (st + r.2.2.2).toNat)
  match chg, g.admin with
  | some c, some a => if c ≤ t then run a else
      match g.oper with
      | none => (0, 0xFF, 0, c)
      | some l =>
        let st := glStart l t
        if (c : Int) - st < l.extNs * 65536 then
          let r := glEntry (glCycle l) l.entries 0 0 (glCycle l - 1)
          (r.1, r.2.1, 0, c)
        else let r := run l; (r.1, r.2.1, r.2.2.1, cut r.2.2.2)
  | _, _ =>
    match g.oper with
    | none => (0, 0xFF, 0, t + 2 ^ 64)
    | some l => run l

def State.gate (s : State) (p : Nat) : Gate := Tab.getD s.tm.gates p {}
def State.setGate (s : State) (p : Nat) (g : Gate) : State := { s with tm := { s.tm with gates := Tab.put s.tm.gates p g } }
def State.gateBase (s : State) (p : Nat) : Nat := s.get F.tmPortCfg_gateBase p
/-- Whether gates and launch times act on a port: a port gated on a base that does not run acts as with GATE_EN = 0 (R292). -/
def State.gateEn (s : State) (p : Nat) : Bool :=
  decide (p < 130) && s.bit F.tmPortCfg_gateEn p && (decide (8 ≤ s.gateBase p) || (s.base (s.gateBase p)).running)

/-- How long, in 2^-16 ns, the gate of class `c` is open from `t` to `stop`. -/
def gateOpenFor (g : Gate) (c stop : Nat) : Nat → Nat → Nat → Nat
  | 0, _, acc => acc
  | fuel + 1, t, acc =>
    if stop ≤ t then acc
    else
      let e := gateAt g t
      let n := Nat.min (Nat.max e.2.2.2 (t + 1)) stop
      gateOpenFor g c stop fuel n (if e.2.1.testBit c then acc + (n - t) else acc)

/-- Whether the gate of class `c` stays open from `t` to `stop` (R253). -/
def gateOpen (g : Gate) (c stop : Nat) : Nat → Nat → Bool
  | 0, _ => false
  | fuel + 1, t =>
    let e := gateAt g t
    if e.2.1.testBit c then (if stop ≤ e.2.2.2 then true else gateOpen g c stop fuel e.2.2.2) else false

/-- The spans of a list of entries over two cycles, as (states, length). -/
def glSpans (l : GateList) : List (Nat × Nat) :=
  let c := glCycle l
  let go := l.entries.foldl (fun (a : Nat × List (Nat × Nat)) e =>
    let n := Nat.min (gcIntv e * 65536) (c - a.1)
    (a.1 + n, a.2 ++ [(gcStates e, n)])) (0, [])
  let rest := c - go.1
  let one := if rest = 0 then go.2 else go.2 ++ [((go.2.getLastD (0xFF, 0)).1, rest)]
  one ++ one

/-- Wc of a class: the longest open span, none where the gate never closes (R254). -/
def glWc (l : GateList) (c : Nat) : Option Nat :=
  let sp := glSpans l
  if sp.all (fun x => x.1.testBit c || x.2 == 0) then none
  else some (sp.foldl (fun (a : Nat × Nat) x =>
    if x.1.testBit c then (a.1 + x.2, Nat.max a.2 (a.1 + x.2)) else (0, a.2)) (0, 0)).2

/-! ### Copies in queues -/

def State.queue (s : State) (q : Nat) : List Nat := Tab.getD s.tm.queues q []
def State.setQueue (s : State) (q : Nat) (l : List Nat) : State :=
  { s with tm := { s.tm with queues := if l.isEmpty then Tab.del s.tm.queues q else Tab.put s.tm.queues q l } }
def State.copy? (s : State) (c : Nat) : Option Copy := Tab.get? s.tm.copies c
def State.setCopy (s : State) (c : Nat) (v : Copy) : State := { s with tm := { s.tm with copies := Tab.put s.tm.copies c v } }
def State.delCopy (s : State) (c : Nat) : State := { s with tm := { s.tm with copies := Tab.del s.tm.copies c } }
/-- The wire size of a copy (R234). -/
def copyLw (c : Copy) : Nat := Nat.max 64 c.lo + 20

/-- The queues of a class slot that hold a frame. -/
def State.slotQueues (s : State) (i : Nat) : List Nat :=
  (s.tm.queues.filter (fun e => !e.2.isEmpty && s.slotOf 4 e.1 == some i)).map (·.1)

/-! ### Credit shaper (R248, log entry 21): credit in millibits -/

def State.cbsOf (s : State) (i : Nat) : Cbs := Tab.getD s.tm.cbs i {}
/-- Bring the credit of slot `i` up to now, its queues having been constant since it was last brought up. -/
def State.cbsTouch (s : State) (i : Nat) : State :=
  if s.bit F.tmClassCfg_cbsEn i then
    let p := i / 8
    let cb := s.cbsOf i
    let waiting := !(s.slotQueues i).isEmpty
    let dt := s.ns - cb.lastNs
    let t := s.baseT16 (s.gateBase p)
    let openT := if s.gateEn p then gateOpenFor (s.gate p) (i % 8) t (dt / 10 + 700) (t - dt * 65536) 0 else dt * 65536
    let gain : Int := (s.get F.tmClassCbs_idleSlope i * openT / 65536000 : Nat)
    let cr : Int :=
      if waiting && cb.wire == 0 then cb.cr + gain
      else if !waiting && decide (cb.cr < 0) then min 0 (cb.cr + gain)
      else if !waiting && decide (0 < cb.cr) then 0
      else cb.cr
    { s with tm := { s.tm with cbs := Tab.put s.tm.cbs i { cb with cr := cr, lastNs := s.ns } } }
  else s
def State.setCbs (s : State) (i : Nat) (c : Cbs) : State := { s with tm := { s.tm with cbs := Tab.put s.tm.cbs i c } }

/-! ### Whether a head may leave now (R238, R253-R257, R262) -/

/-- What a queue's head may do: leave, wait, or be dropped with a reason. -/
inductive HeadAct | go | wait | drop (reason : Nat)
  deriving DecidableEq, Repr

abbrev rAGE_LIMIT : Nat := 0x17
abbrev rTOO_LONG : Nat := 0x18
abbrev rWINDOW_PASSED : Nat := 0x19

/-- Preemption is active on a port (R256, R288). -/
def State.preemptOn (s : State) (p : Nat) : Bool := decide (p < 130) && s.bit F.portStatus_preemptActive (portIx p)

/-- Launch time S of the next frame of a gated port, in ps on its gate base (R236). -/
def State.launchPs (s : State) (p : Nat) : Nat :=
  let tp : TmPortSt := Tab.getD s.tm.ports p {}
  Nat.max tp.wpPs (s.basePs (s.gateBase p) + s.get F.tmPortCfg_lead p * 2000 / 3)

/-- The first instant at or after `t` at which the gate of `c` is open, and the instant at which that window ends (R255). -/
def gateWindow (g : Gate) (c : Nat) : Nat → Nat → Bool → Nat
  | 0, t, _ => t
  | fuel + 1, t, seen =>
    let e := gateAt g t
    if e.2.1.testBit c then gateWindow g c fuel e.2.2.2 true
    else if seen then t else gateWindow g c fuel e.2.2.2 false

/-- The head test of one copy at its class slot. -/
def State.headTest (s : State) (slot : Nat) (cp : Copy) : HeadAct :=
  let p := slot / 8
  let c := slot % 8
  if s.gateEn p then
    let g := s.gate p
    let timed := cp.treq.toNat % 8 != 0
    let pre := s.preemptOn p && (s.get F.tmPortCfg2_preempt p).testBit c
    let n := if pre && !timed then (1 + s.get F.portPreempt_addFragSize (portIx p)) * 64 + 20 else copyLw cp
    let dur := 65536 + s.wirePs p (n + s.get F.tmPortCfg_gateOverhead p) * 65536 / 1000
    let t := s.launchPs p * 65536 / 1000
    let cur := match g.change16, g.admin with | some ch, some a => if ch ≤ t then some a else g.oper | _, _ => g.oper
    let bound := s.bit F.tmClassCfg_cycleBound slot
    let enq16 := (s.baseT16 (s.gateBase p)) - (s.tlNs - cp.enqNs) * 65536
    if (match cur with | some l => (match glWc l c with | some w => decide (w < dur) | none => false) | none => false) then .drop rTOO_LONG
    else if bound && decide (gateWindow g c 600 enq16 false ≤ s.baseT16 (s.gateBase p)) && cur.isSome
        && (match cur with | some l => (glWc l c).isSome | none => false) then .drop rWINDOW_PASSED
    else if pre && g.hold then .wait
    else if gateOpen g c (t + dur) (dur / 655360 + 700) t then .go else .wait
  else .go

/-- Whether a class slot's credit and pause state let it send (R248, R258, R282). -/
def State.slotOpen (s : State) (i : Nat) : Bool :=
  let p := i / 8
  let c := i % 8
  let s2 := s.cbsTouch i
  (!(s.bit F.tmClassCfg_cbsEn i) || decide (0 ≤ (s2.cbsOf i).cr)) &&
  (!((s.get F.tmPortStatus_pfcPaused p).testBit c) ||
    (decide (p < 130) && (s.portSt p).storm.getLsbD c && s.bit F.portPfcWd_wdAction (portIx p)))

/-- Whether an element has something to choose: an eligible element (R238), looking `fuel` levels down. -/
def State.eligible (s : State) (slot : Nat) : Nat → Nat → Bool
  | 0, _ => false
  | fuel + 1, e =>
    s.elEn e && s.childState e != cBLOCKED &&
    (if isQueue e then
       match s.queue e with
       | [] => false
       | h :: _ => match s.copy? h with | some cp => s.headTest slot cp != .wait | none => false
     else if isSlot e then s.slotOpen slot && (s.childrenOf e).any (s.eligible slot fuel)
     else (s.childrenOf e).any (s.eligible slot fuel))

/-- Whether an element holds any frame. -/
def State.backlogged (s : State) : Nat → Nat → Bool
  | 0, _ => false
  | fuel + 1, e => if isQueue e then !(s.queue e).isEmpty else (s.childrenOf e).any (s.backlogged fuel)

/-! ### Choosing among children (R239-R241) -/

def levelKey (e prio : Nat) : Nat := e * 8 + prio

/-- Signed difference of two 48-bit tags is negative (R241). -/
def tagLess (a b : Nat) : Bool := decide (2 ^ 47 ≤ (a + 2 ^ 48 - b) % 2 ^ 48)

/-- What the choice needs of each child: whether it may be chosen, and the wire size of the frame it would send. -/
abbrev ChildView := Nat → Option Nat

/-- DWRR (R240): serve the round until a child's deficit covers its head. -/
def State.dwrr (s : State) (e prio : Nat) (view : ChildView) : Nat → State × Option Nat
  | 0 => (s, none)
  | fuel + 1 =>
    let k := levelKey e prio
    let round := Tab.getD s.tm.rounds k []
    match round.find? (fun c => (view c).isSome) with
    | none => (s, none)
    | some c =>
      let lw := (view c).getD 0
      let fresh := Tab.getD s.tm.rot (5000000 + k) 0 != c + 1
      let dc0 := Tab.getD s.tm.deficits c 0
      let dc := if fresh then Nat.min (dc0 + s.elWeight c * 64 * 2 ^ s.elQunit e) (s.elBurst e) else dc0
      let s := { s with tm := { s.tm with deficits := Tab.put s.tm.deficits c dc, rot := Tab.put s.tm.rot (5000000 + k) (c + 1) } }
      if lw ≤ dc then ({ s with tm := { s.tm with deficits := Tab.put s.tm.deficits c (dc - lw) } }, some c)
      else
        let s := { s with tm := { s.tm with rounds := Tab.put s.tm.rounds k (round.filter (· != c) ++ [c]),
                                            rot := Tab.put s.tm.rot (5000000 + k) 0 } }
        s.dwrr e prio view fuel

/-- The children of a level join and leave its round as they empty and wake (R240, R241). -/
def State.syncLevel (s : State) (e prio : Nat) (kids : List Nat) : State :=
  let k := levelKey e prio
  let live := kids.filter (fun c => s.elPrio c == prio && s.backlogged 4 c)
  let old := (Tab.getD s.tm.rounds k []).filter (fun c => live.contains c)
  let round := old ++ live.filter (fun c => !old.contains c)
  let v := Tab.getD s.tm.vtime k 0
  let wfq := kids.foldl (fun w c =>
    if s.elPrio c = prio then
      let t := Tab.getD w c {}
      if live.contains c then (if t.awake then w else Tab.put w c ⟨v, 0, true⟩) else Tab.put w c { t with awake := false }
    else w) s.tm.wfq
  { s with tm := { s.tm with rounds := Tab.put s.tm.rounds k round, wfq := wfq } }

/-- WFQ (R241): the smallest finish tag; ties by start tag, then by index. -/
def State.wfqPick (s : State) (e prio : Nat) (kids : List Nat) (view : ChildView) : State × Option Nat :=
  let k := levelKey e prio
  let tag := fun c => let t := Tab.getD s.tm.wfq c {}; (t.s, (t.s + ((view c).getD 0 * 256 + s.elWeight c - 1) / s.elWeight c) % 2 ^ 48)
  let best := kids.foldl (fun (b : Option Nat) c =>
    if (view c).isSome then
      match b with
      | none => some c
      | some d =>
        let x := tag c; let y := tag d
        if tagLess x.2 y.2 || (x.2 == y.2 && tagLess x.1 y.1) then some c else b
    else b) none
  match best with
  | none => (s, none)
  | some c =>
    let x := tag c
    let v := Tab.getD s.tm.vtime k 0
    let s := { s with tm := { s.tm with vtime := Tab.put s.tm.vtime k (if tagLess v x.1 then x.1 else v),
                                        wfq := Tab.put s.tm.wfq c ⟨x.2, x.2, true⟩ } }
    (s, some c)

/-- Descend from an element to the queue that is served: the queue chosen and the state with its choices charged (R237). -/
def State.descend (s : State) (slot : Nat) : Nat → Nat → State × Option Nat
  | 0, _ => (s, none)
  | fuel + 1, e =>
    if isQueue e then (s, some e)
    else
      let kids := s.childrenOf e
      let ok := kids.filter (s.eligible slot 4)
      let levels := (List.range 2).flatMap (fun st => (List.range 8).map (fun pr => (st, pr)))
      match levels.find? (fun l => ok.any (fun c => s.childState c == l.1 && s.elPrio c == l.2)) with
      | none => (s, none)
      | some (st, pr) =>
        let set := ok.filter (fun c => s.childState c == st && s.elPrio c == pr)
        let view : ChildView := fun c =>
          if set.contains c then
            match (s.descend slot fuel c).2 with
            | some q => match s.queue q with
              | h :: _ => (s.copy? h).map copyLw
              | [] => none
            | none => none
          else none
        let s := s.syncLevel e pr kids
        let r := if s.elDisc e then s.wfqPick e pr kids view else s.dwrr e pr view (kids.length * 200 + 200)
        match r with
        | (s, some c) => s.descend slot fuel c
        | (s, none) => (s, none)

/-- The class slot that a port serves, and the queue chosen in it (R239 at the port). -/
def State.portPick (s : State) (p : Nat) : State × Option (Nat × Nat) :=
  let slots := (List.range 8).map (fun c => elSlot p c)
  let ok := slots.filter (fun e => s.eligible (e - 250000) 4 e)
  let levels := (List.range 2).flatMap (fun st => (List.range 8).map (fun pr => (st, pr)))
  match levels.find? (fun l => ok.any (fun c => s.childState c == l.1 && s.elPrio c == l.2)) with
  | none => (s, none)
  | some (st, pr) =>
    let set := ok.filter (fun c => s.childState c == st && s.elPrio c == pr)
    let view : ChildView := fun c =>
      if set.contains c then
        match (s.descend (c - 250000) 4 c).2 with
        | some q => match s.queue q with
          | h :: _ => (s.copy? h).map copyLw
          | [] => none
        | none => none
      else none
    let s := s.syncLevel (elPort p) pr slots
    let r := if s.elDisc (elPort p) then s.wfqPick (elPort p) pr slots view else s.dwrr (elPort p) pr view 3000
    match r with
    | (s, some c) =>
      match s.descend (c - 250000) 4 c with
      | (s, some q) => (s, some (c - 250000, q))
      | (s, none) => (s, none)
    | (s, none) => (s, none)

end Sys2Proof.Machine
end

