-- ==== Sys2Proof/Machine/Meter.lean ====
section
/-!
DEFINITION. Machine/Meter.lean: the meters of R245 and R246: refill, colour decision, the table meter object (Table 8.2) and
the record meter (Table 5.3, R147).
-/
namespace Sys2Proof.Machine

/-- A meter profile in bytes and kb/s (TM_METER_PROFILE, LEDGER_METER_PROFILE). -/
structure MProf where
  mode : Bool
  init : Bool
  cir : Nat
  pir : Nat
  cbs : Nat
  ebs : Nat
  deriving DecidableEq, Repr

def State.tmProf (s : State) (i : Nat) : MProf :=
  ⟨s.bit F.tmMeterProfile_mode i, s.bit F.tmMeterProfile_init i, s.get F.tmMeterProfile_cir i, s.get F.tmMeterProfile_eirPir i,
   s.get F.tmMeterProfile_cbs i * 64, s.get F.tmMeterProfile_ebsPbs i * 64⟩
def State.ledProf (s : State) (i : Nat) : MProf :=
  ⟨s.bit F.ledgerMeterProfile_mode i, s.bit F.ledgerMeterProfile_init i, s.get F.ledgerMeterProfile_cir i,
   s.get F.ledgerMeterProfile_eirPir i, s.get F.ledgerMeterProfile_cbs i * 64, s.get F.ledgerMeterProfile_ebsPbs i * 64⟩

/-- The level a meter starts at: both counts (R246, R147). -/
def MProf.start (p : MProf) : Nat × Nat := if p.init then (0, 0) else (p.cbs, p.ebs)

/-- R246 for an elapsed time of `d` units of 64 ns: whether the last update advances, and the two counts. -/
def MProf.refill (p : MProf) (d tc te : Nat) : Bool × Nat × Nat :=
  let k := p.cir * d / 125000
  if k = 0 ∧ tc < p.cbs then (false, tc, te)
  else
    let tc2 := Nat.min (tc + k) p.cbs
    if p.mode then (true, tc2, Nat.min (te + p.pir * d / 125000) p.ebs)
    else (true, tc2, Nat.min (te + (tc + k - p.cbs)) p.ebs)

/-- R245: the colour (0 green, 1 yellow, 2 red) of `b` bytes with input colour `inc`, and the counts after it. -/
def MProf.decide (p : MProf) (inc b tc te : Nat) (test : Bool) : Nat × Nat × Nat :=
  let r : Nat × Nat × Nat :=
    if p.mode then
      if 2 ≤ inc ∨ te < b then (2, tc, te)
      else if inc = 1 ∨ tc < b then (1, tc, te - b)
      else (0, tc - b, te - b)
    else
      if inc = 0 ∧ b ≤ tc then (0, tc - b, te)
      else if inc < 2 ∧ b ≤ te then (1, tc, te - b)
      else (2, tc, te)
  if test then (r.1, tc, te) else r

/-- The current time in units of 64 ns of TL. -/
def State.tl64 (s : State) : Nat := s.tlNs / 64
/-- The current TL milliseconds modulo 2^32. -/
def State.tlMs (s : State) : Nat := s.tlNs / 1000000 % 2 ^ 32

/-! ### Table meters (Table 8.2) -/

/-- A table meter's words from its fields. -/
def meterWords (prof last tc te : Nat) : List Word :=
  let n := prof % 4096 + last % 2 ^ 40 * 2 ^ 12 + tc % 2 ^ 32 * 2 ^ 52 + te % 2 ^ 32 * 2 ^ 84
  [BitVec.ofNat 64 n, BitVec.ofNat 64 (n / 2 ^ 64)]

/-- A meter newly written with a profile: full or empty as INIT says (R246). -/
def State.meterFresh (s : State) (prof : Nat) : List Word :=
  let l := (s.tmProf prof).start
  meterWords prof s.tl64 l.1 l.2

/-- Refill table meter `ix`, then take `b` bytes where `req` asks: the colour and the state (R245-R247). -/
def State.meterRun (s : State) (ix : Nat) (req : Option (Nat × Nat × Bool)) : Nat × State :=
  let prof := s.objF oMETER ix 0 12
  let p := s.tmProf prof
  let last := s.objF oMETER ix 12 40
  let d := (s.tl64 % 2 ^ 40 + 2 ^ 40 - last) % 2 ^ 40
  let r := p.refill d (s.objF oMETER ix 52 32) (s.objF oMETER ix 84 32)
  let last2 := if r.1 then s.tl64 % 2 ^ 40 else last
  let q := match req with
    | some (inc, b, test) => p.decide inc b r.2.1 r.2.2 test
    | none => (0, r.2.1, r.2.2)
  let v := meterWords prof last2 q.2.1 q.2.2
  (q.1, { s with tab := { s.tab with objs := Tab.put s.tab.objs (objKey oMETER ix) v } })

/-! ### Record meters (Table 5.3): the record image is little-endian, byte 0 in bits [7:0] -/

def recWord (f : BitVec 1024) : Nat := bytesLe f 0x30 2
def wordEn (w : Nat) : Bool := w.testBit 12
def wordProf (w : Nat) : Nat := w % 4096
def recLast (f : BitVec 1024) : Nat := bytesLe f 0x34 4
def recTc (f : BitVec 1024) : Nat := bytesLe f 0x38 4
def recTe (f : BitVec 1024) : Nat := bytesLe f 0x3C 4
def recSet (f : BitVec 1024) (last tc te : Nat) : BitVec 1024 :=
  putBytesLe (putBytesLe (putBytesLe f 0x34 4 last) 0x38 4 tc) 0x3C 4 te

/-- The record's meter at the start of a pass (R147): full where its last use is 100,000 ms old or more. -/
def State.recStart (s : State) (f : BitVec 1024) : BitVec 1024 :=
  let w := recWord f
  if wordEn w ∧ 100000 ≤ (s.tlMs + 2 ^ 32 - bytesLe f 0x04 4) % 2 ^ 32 then
    let p := s.ledProf (wordProf w)
    recSet f (s.tl64 % 2 ^ 32) p.cbs p.ebs
  else f

/-- Refill a record's meter with its profile word `w`; `force` advances the last update after 2^30 units. -/
def State.recRefill (s : State) (f : BitVec 1024) (w : Nat) (force : Bool) : BitVec 1024 :=
  let p := s.ledProf (wordProf w)
  let d := (s.tl64 % 2 ^ 32 + 2 ^ 32 - recLast f) % 2 ^ 32
  let r := p.refill d (recTc f) (recTe f)
  let adv := r.1 || (force && decide (2 ^ 30 ≤ d))
  recSet f (if adv then s.tl64 % 2 ^ 32 else recLast f) r.2.1 r.2.2

/-- MTR on a record meter whose word at the pass's start was `w`: the colour and the image (R46, R147). -/
def State.recMeter (s : State) (f : BitVec 1024) (w inc b : Nat) (test : Bool) : Nat × BitVec 1024 :=
  if wordEn w then
    let f := s.recRefill f w false
    let q := (s.ledProf (wordProf w)).decide inc b (recTc f) (recTe f) test
    (q.1, recSet f (recLast f) q.2.1 q.2.2)
  else (0, f)

/-- What a commit does to the meter of an image whose word was `old` before the pass (R147). -/
def State.recCommitMeter (s : State) (f : BitVec 1024) (old : Nat) : BitVec 1024 :=
  let w := recWord f
  if wordEn w then
    if wordEn old ∧ wordProf old = wordProf w then s.recRefill f w true
    else
      let l := (s.ledProf (wordProf w)).start
      recSet f (s.tl64 % 2 ^ 32) l.1 l.2
  else f

end Sys2Proof.Machine
end

