-- ==== Sys2Proof/Machine/Store.lean ====
section
/-!
DEFINITION. Machine/Store.lean: the program stores (R30, R484): where a word lies, what a fetch finds, the checks of PROG.LOAD
(R63), and the byte releases that a flow program's paths allow (R154, R155).
-/
namespace Sys2Proof.Machine

/-- Number of a word of a store: kind 0 P, 1 S, 2 E; unit; generation; word. -/
def progKey (kind unit : Nat) (gen : Bool) (word : Nat) : Nat := ((kind * 16 + unit) * 2 + gen.toNat) * 8192 + word
/-- Words of a store per generation (Table 2.1). -/
def storeSize (kind : Nat) : Nat := if kind = 1 then 4096 else 8192
/-- Profile P, S or E of a store, as the context that a word is read for. -/
def storeCtx (kind : Nat) : CtxId := if kind = 0 then .pilot 0 0 0 else if kind = 1 then .stev 0 0 else .rew 0 0 0
/-- The store that a context runs from. -/
def ctxStore (x : CtxId) : Nat × Nat :=
  match x with
  | .pilot q _ _ => (0, q.val)
  | .stev sl _ => (1, sl.val)
  | .rew q _ _ => (2, q.val)
  | _ => (3, 0)

/-- What a fetch finds (Table 2.16, R484). -/
inductive Fetch | good | parity | unloaded
  deriving DecidableEq, Repr

/-- Fetch the word at byte address `pc` for a context. -/
def State.fetch (s : State) (x : CtxId) (gen : Bool) (pc : Nat) : Fetch :=
  let u := ctxStore x
  match Tab.get? s.eng.progs (progKey u.1 u.2 gen (pc / 4)) with
  | none => .unloaded
  | some w => if w.bad then .parity else .good

/-! ### Load checks (R63) -/

/-- Record bytes by form: false full, true compact. -/
def recLen (compact : Bool) : Nat := if compact then 64 else 128
/-- Whether a program may write a bit of the record window (Tables 5.1, 5.2). -/
def recBitWritable (compact : Bool) (bit : Nat) : Bool :=
  bit == 3 || bit / 8 == 3 || decide ((if compact then 0x20 else 0x30) ≤ bit / 8)
def recRangeWritable (compact : Bool) (bit : Nat) : Nat → Bool
  | 0 => true
  | n + 1 => recBitWritable compact bit && recRangeWritable compact (bit + 1) n

/-- The checks of R63 that need more than the word: branch targets, descriptors, the record form. -/
def State.instrLoads (s : State) (gen compact : Bool) (n i : Nat) (ins : Instr) : Bool :=
  match ins with
  | .br _ _ _ _ _ disp => decide (i + disp.toNat < n)
  | .lkp x tbl klen _ _ _ =>
    let d := s.desc gen tbl.toNat
    (if x.profile == .p then dPok d else dEok d) && dKlen d == klen.toNat + 1
  | .ext _ _ f => f.space.toNat != spF || decide (fopEnd f 0 ≤ recLen compact)
  | .ins _ _ f => f.space.toNat != spF ||
      (decide (fopEnd f 0 ≤ recLen compact) && recRangeWritable compact (fopFirst f 0) (fopWidth f))
  | _ => true

/-- Whether a word may end a program of profile P or S (R51). -/
def endsProgram (kind : Nat) (ins : Instr) : Bool :=
  match kind, ins with
  | 0, .endProg _ => true
  | 0, .drop _ _ => true
  | 0, .excp _ _ copy => !copy
  | 0, .recirc _ => true
  | 1, .fend _ _ _ => true
  | 2, _ => true
  | _, _ => false

/-- Write the words of a checked program into one unit's store. -/
def State.storeWords (s : State) (kind unit : Nat) (gen : Bool) (load first : Nat) : List (BitVec 32) → State
  | [] => s
  | w :: r =>
    State.storeWords { s with eng := { s.eng with progs := Tab.put s.eng.progs (progKey kind unit gen first) ⟨w, load, false⟩ } }
      kind unit gen load (first + 1) r

/-! ### Released bytes (R154, R155) -/

/-- What may still happen from a word on: bytes of F written, the longest path in cycles, and whether a path ends in FEND
with WRITE = 0 or DELETE (or leaves the loaded words). -/
structure PathInfo where
  mask : BitVec 128
  cyc : Nat
  weak : Bool
  deriving DecidableEq, Repr

/-- Bytes `a .. b - 1`. -/
def byteSpan (a b : Nat) : BitVec 128 := BitVec.ofNat 128 ((2 ^ (b - a) - 1) * 2 ^ a)

/-- One word before the words of `rest`. -/
def pathStep (w : BitVec 32) (rest : List PathInfo) : PathInfo :=
  let dead : PathInfo := ⟨BitVec.allOnes 128, 10000, true⟩
  let next := rest.headD dead
  match wordInstr (.stev 0 0) w with
  | some (.fend _ wr del) => ⟨0, 1, !wr || del⟩
  | some (.br _ cond _ _ _ disp) =>
    let tgt := rest.getD (disp.toNat - 1) dead
    if cond = 12 then ⟨tgt.mask, tgt.cyc + 1, tgt.weak⟩
    else ⟨next.mask ||| tgt.mask, Nat.max next.cyc tgt.cyc + 1, next.weak || tgt.weak⟩
  | some (.ins _ _ f) =>
    ⟨next.mask ||| (if f.space.toNat = spF then byteSpan (fopStart f 0) (fopEnd f 0) else 0), next.cyc + 1, next.weak⟩
  | some (.mtr ..) => ⟨next.mask ||| byteSpan 0x34 0x40, next.cyc + 2, next.weak⟩
  | _ => ⟨next.mask, next.cyc + 1, next.weak⟩

/-- The loaded words of a slice's store from word `i` on. -/
def State.storeFrom (s : State) (sl : Nat) (gen : Bool) (i : Nat) : Nat → List (BitVec 32)
  | 0 => []
  | fuel + 1 =>
    match Tab.get? s.eng.progs (progKey 1 sl gen i) with
    | some w => w.word :: s.storeFrom sl gen (i + 1) fuel
    | none => []

/-- What may still happen from word `i` of a slice's store. -/
def State.pathFrom (s : State) (sl : Nat) (gen : Bool) (i : Nat) : PathInfo :=
  ((s.storeFrom sl gen i 4096).foldr (fun w acc => pathStep w acc :: acc) []).headD ⟨BitVec.allOnes 128, 10000, true⟩

/-- Whether a program releases bytes before its FEND (R155). -/
def PathInfo.early (p : PathInfo) : Bool := !p.weak && decide (p.cyc ≤ 64)

end Sys2Proof.Machine
end

