-- ==== Sys2Proof/Machine/Ledger.lean ====
section
/-!
DEFINITION. Machine/Ledger.lean: the ledger slices: keys, lines, cache and stash (R141-R152), berths and berth-lock chains
(R144-R158), creation, commit and deletion of records (R146, R147, R159-R162), and export (R166). A record stands where its
slot stands (line, alternate line or stash) rather than as line images (log entry 22).
-/
namespace Sys2Proof.Machine

/-! ### Keys, hashes, lines (R141-R143, R148) -/

def State.compact (s : State) : Bool := s.bit F.ledgerCfg_form 0
def keyMax (compact : Bool) : Nat := if compact then 24 else 32
def keyOff (compact : Bool) : Nat := if compact then 0x08 else 0x10
def areaOff (compact : Bool) : Nat := if compact then 0x20 else 0x40
/-- The slice hash (R142). -/
def State.hsOf (s : State) (key : List Byte) : Word := kx64 key (BitVec.ofNat 64 (s.get F.ledgerSeedSlice_seed 0))
/-- The slice of a key under a flow program (R143). -/
def State.sliceOf (s : State) (prog : Nat) (key : List Byte) : Nat :=
  let n := s.get F.ledgerProgSlice_sliceBytes prog
  (if n = 0 then s.hsOf key else s.hsOf (key.take n)).toNat / 2 ^ 60

/-- The active table's shape and seed; the old one's is `led.rehash`. -/
def State.shape (s : State) : Rehash :=
  ⟨s.get F.ledgerCfg_log2rec 0, s.compact, BitVec.ofNat 64 (s.get F.ledgerSeedTable_seed 0)⟩
def hiOf (r : Rehash) (key : List Byte) : Nat := (kx64 key r.seed).toNat
def lineP (r : Rehash) (key : List Byte) : Nat := hiOf r key % 2 ^ 60 / 2 ^ (60 - (r.log2 - 2))
def lineM (r : Rehash) (key : List Byte) : Nat :=
  let t := hiOf r key % 65536 * 0x9E3779B9 % 2 ^ 32 / 2 ^ (32 - (r.log2 - 2))
  if t = 0 then 1 else t
def lineA (r : Rehash) (key : List Byte) : Nat := Nat.xor (lineP r key) (lineM r key)
def tagOf (r : Rehash) (key : List Byte) : Nat := hiOf r key % 65536
def hintOf (r : Rehash) (key : List Byte) : Nat := hiOf r key % 32768

/-- The line that holds a record's slot. -/
def recLine (r : Rehash) (e : Rec) : Nat := if e.alt then lineA r e.key else lineP r e.key

/-! ### Records of a slice -/

/-- Record numbers of the old table stand above this. -/
abbrev oldOff : Nat := 2 ^ 26
def SliceSt.recAt (v : SliceSt) (n : Nat) : Option Rec := if n < oldOff then Tab.get? v.recs n else Tab.get? v.old (n - oldOff)
def SliceSt.setRec (v : SliceSt) (n : Nat) (e : Rec) : SliceSt :=
  if n < oldOff then { v with recs := Tab.put v.recs n e } else { v with old := Tab.put v.old (n - oldOff) e }
def SliceSt.updRec (v : SliceSt) (n : Nat) (f : Rec → Rec) : SliceSt :=
  match v.recAt n with | some e => v.setRec n (f e) | none => v
/-- Whether a lookup can reach a record: by the cache, the stash or the index; the rest are orphans (R158). -/
def recReach (e : Rec) : Bool := e.cached || e.stashOrd.isSome || e.inIndex
/-- The number of a key's record in either table. -/
def SliceSt.findKey (v : SliceSt) (key : List Byte) : Option (Nat × Rec) :=
  match v.recs.find? (fun e => e.2.key == key && recReach e.2) with
  | some e => some e
  | none => (v.old.find? (fun e => e.2.key == key && recReach e.2)).map (fun e => (e.1 + oldOff, e.2))

def recPinned (e : Rec) : Bool := e.img.getLsbD 2
def recStatic (e : Rec) : Bool := e.img.getLsbD 1
def recExport (e : Rec) : Bool := e.img.getLsbD 3

/-- Slots in use in a line of the active table, reservations among them (R159). -/
def State.lineUsed (s : State) (v : SliceSt) (line : Nat) : Nat :=
  let r := s.shape
  (v.recs.filter (fun e => e.2.inIndex && recLine r e.2 == line)).length +
  (v.berths.filter (fun e => e.2.newRec && e.2.recNo.isSome && !e.2.viaStash && lineP r e.2.key == line)).length
/-- Hint tags in use in a line of the active table. -/
def State.hintsUsed (s : State) (v : SliceSt) (line : Nat) : Nat :=
  let r := s.shape
  (v.recs.filter (fun e => e.2.inIndex && e.2.alt && lineP r e.2.key == line)).length
/-- Stash entries in use, reservations among them. -/
def SliceSt.stashUsed (v : SliceSt) : Nat :=
  (v.recs.filter (fun e => e.2.stashOrd.isSome)).length + (v.old.filter (fun e => e.2.stashOrd.isSome)).length +
  (v.berths.filter (fun e => e.2.newRec && e.2.recNo.isSome && e.2.viaStash)).length

/-! ### The flow cache (R150, R151) -/

def setOf (hs : Word) : Nat := hs.toNat / 2 ^ 16 % 4096
/-- Records cached in a set, with the places that new records hold. -/
def SliceSt.setCount (v : SliceSt) (st : Nat) : Nat :=
  (v.recs.filter (fun e => e.2.cached && setOf e.2.hs == st)).length + (v.old.filter (fun e => e.2.cached && setOf e.2.hs == st)).length
  + (v.berths.filter (fun e => e.2.newRec && e.2.phase != .done && setOf e.2.hs == st)).length
/-- Whether a berth holds record `n`. -/
def SliceSt.heldRec (v : SliceSt) (n : Nat) : Bool := v.berths.any (fun e => e.2.recNo == some n && e.2.phase != .done)
/-- The least recently used eligible victim of a set. -/
def SliceSt.victim (v : SliceSt) (st : Nat) : Option Nat :=
  let c := (v.recs ++ v.old.map (fun e => (e.1 + oldOff, e.2))).filter (fun e =>
    e.2.cached && setOf e.2.hs == st && !recPinned e.2 && !v.heldRec e.1 && !e.2.writing)
  (c.foldl (fun (b : Option (Nat × Rec)) e => match b with
    | some x => if e.2.used < x.2.used then some e else b
    | none => some e) none).map (·.1)
/-- A ledger access to HBM by slice `sl`, for the device counters (Table 12.10); which address it has is not given by the spec: a
free value. -/
def State.ledHbm (s : State) (sl n : Nat) (write : Bool) : State :=
  (s.pmc { code := if write then 0x0002 else 0x0001, master := 0x40 + sl, n := n,
           addr := some (s.freeVal.toNat % hbmSize) }).useFree
/-- Make a place in a set (R150), writing a dirty victim back: none where no place is eligible. -/
def State.makePlace (s : State) (sl : Nat) (hs : Word) : Option State :=
  let v := s.slice sl
  if v.setCount (setOf hs) < (if s.compact then 16 else 8) then some s
  else match v.victim (setOf hs) with
    | some n =>
      let dirty := match v.recAt n with | some e => e.dirty | none => false
      let s := s.setSlice sl (v.updRec n (fun e => { e with cached := false, dirty := false }))
      some (if dirty then s.ledHbm sl (if s.compact then 64 else 128) true else s)
    | none => none
/-- Touch a record for LRU. -/
def SliceSt.touch (v : SliceSt) (n : Nat) : SliceSt :=
  let v := { v with lru := v.lru + 1 }
  v.updRec n (fun e => { e with used := v.lru })

/-! ### Berths and chains (R153, R154) -/

def State.berth? (s : State) (sl b : Nat) : Option BerthSt := Tab.get? (s.slice sl).berths b
def State.setBerth (s : State) (sl b : Nat) (v : BerthSt) : State :=
  let sv := s.slice sl
  s.setSlice sl { sv with berths := Tab.put sv.berths b v }
def State.delBerth (s : State) (sl b : Nat) : State :=
  let sv := s.slice sl
  s.setSlice sl { sv with berths := Tab.del sv.berths b }

/-- Whether any berth holds the lock of `hs` (R153, R163). -/
def State.lockHeld (s : State) (sl : Nat) (hs : Word) : Bool :=
  (s.slice sl).berths.any (fun e => e.2.hs == hs && e.2.phase != .done)

/-- The chain member just ahead of a berth. -/
def State.predOf (s : State) (sl : Nat) (st : BerthSt) : Option (Nat × BerthSt) :=
  (s.slice sl).berths.foldl (fun (b : Option (Nat × BerthSt)) e =>
    if e.2.hs == st.hs && decide (e.2.order < st.order) && e.2.phase != .done then
      match b with
      | some x => if x.2.order < e.2.order then some e else b
      | none => some e
    else b) none
/-- The chain member just behind. -/
def State.succOf (s : State) (sl : Nat) (st : BerthSt) : Option (Nat × BerthSt) :=
  (s.slice sl).berths.foldl (fun (b : Option (Nat × BerthSt)) e =>
    if e.2.hs == st.hs && decide (st.order < e.2.order) && e.2.phase != .done then
      match b with
      | some x => if e.2.order < x.2.order then some e else b
      | none => some e
    else b) none

/-- Whether a frame's length and FCS are known (R157). -/
def State.fcsKnown (s : State) (fid : Nat) : Bool := match s.frame? fid with | some f => f.lenKnown | none => true

/-- The start word of a flow program. -/
def State.flowStart (s : State) (gen : Bool) (prog : Nat) : Nat := s.get F.ledgerProg_start (gen.toNat * 256 + prog)

/-- Whether byte `i` of the record window is released to a pass by every member ahead of it (R154, R155, R157). -/
def State.released (s : State) (sl : Nat) (st : BerthSt) (i : Nat) : Nat → Bool
  | 0 => false
  | fuel + 1 =>
    match s.predOf sl st with
    | none => true
    | some (_, p) =>
      p.key == st.key && s.fcsKnown p.fid && decide (0x0C ≤ i) &&
      (match p.phase with
       | .running e =>
         (match s.ctx? (.stev ⟨sl % 16, Nat.mod_lt _ (by decide)⟩ e) with
          | some c => (s.pathFrom sl p.gen (s.flowStart p.gen p.prog)).early &&
              !(s.pathFrom sl p.gen (c.pc / 4)).mask.getLsbD i
          | none => false)
       | .heldLen => true
       | _ => false) && s.released sl p i fuel

/-- The record window as a pass sees it: what stands behind it, with its own writes over it (R154). -/
def State.fView (s : State) (sl : Nat) (st : BerthSt) : Nat → BitVec 1024
  | 0 => st.img
  | fuel + 1 =>
    let base := match s.predOf sl st with
      | some (_, p) => if p.key == st.key then s.fView sl p fuel else st.img
      | none => st.img
    match st.phase with
    | .running e =>
      (match s.ctx? (.stev ⟨sl % 16, Nat.mod_lt _ (by decide)⟩ e) with
       | some c => manMerge base c.f c.fW 128
       | none => base)
    | .heldLen => manMerge base st.out st.wrote 128
    | _ => base

/-! ### Reservation and creation (R159) -/

/-- A window of zeros with the key filled in (R159). -/
def blankRec (compact : Bool) (key : List Byte) : BitVec 1024 := putBytesLe 0 (keyOff compact) key.length (leNat key)

/-- Take a free record number: most recently freed first, then the next never used. -/
def SliceSt.takeNumber (v : SliceSt) (log2 : Nat) : Option (Nat × SliceSt) :=
  match v.freed with
  | n :: r => some (n, { v with freed := r })
  | [] => if v.fresh < 2 ^ log2 then some (v.fresh, { v with fresh := v.fresh + 1 }) else none

/-- Reserve room for a key: the number, and whether a stash entry is reserved; none for NO_ROOM. -/
def State.reserveRoom (s : State) (sl : Nat) (key : List Byte) : State × Option (Nat × Bool) :=
  let v := s.slice sl
  let stash := decide (7 ≤ s.lineUsed v (lineP s.shape key))
  if stash = true ∧ 4096 ≤ v.stashUsed then (s, none)
  else match v.takeNumber s.shape.log2 with
    | some (n, v) => (s.setSlice sl v, some (n, stash))
    | none => (s, none)

/-- Give a reserved number back. -/
def State.unreserve (s : State) (sl : Nat) (n : Option Nat) : State :=
  match n with
  | some n => let v := s.slice sl; s.setSlice sl { v with freed := n :: v.freed }
  | none => s

/-- Prepare a blank record for a berth whose key was not found (Table 5.7, step 3c). -/
def State.prepBlank (s : State) (sl b : Nat) : State :=
  match s.berth? sl b with
  | none => s
  | some st =>
    match s.makePlace sl st.hs with
    | none => s
    | some s =>
      let img := blankRec s.compact st.key
      let s := (s.bump F.ledgerCntMiss sl).pmc
        { code := 0x0802, master := 0x40 + sl, tc := some (mItcOf st.man), port := mget st.man mPort, who := mget st.man mFhash }
      match s.reserveRoom sl st.key with
      | (s, some (n, stash)) =>
        s.setBerth sl b { st with phase := .ready, newRec := true, recNo := some n, viaStash := stash, img := img,
                                  status := stOK, flags := BitVec.ofNat 8 (2 ^ ffNEW) }
      | (s, none) =>
        (s.bump F.ledgerCntNoroom sl).setBerth sl b
          { st with phase := .ready, newRec := true, noRoom := true, recNo := none, img := img,
                    status := stNO_ROOM, flags := BitVec.ofNat 8 (2 ^ ffNEW) }

/-- Step 3 of Table 5.6 for the head of a chain: cache, stash, or an index read (R149, R152). -/
def State.lookupStart (s : State) (sl b : Nat) : State :=
  match s.berth? sl b with
  | none => s
  | some st =>
    match (s.slice sl).findKey st.key with
    | some (n, e) =>
      if e.cached then
        let s := s.setSlice sl ((s.slice sl).touch n)
        (s.bump F.ledgerCntHit sl).setBerth sl b
          { st with phase := .ready, recNo := some n, cacheHit := true, img := e.img, status := stOK,
                    flags := BitVec.ofNat 8 (2 ^ ffCACHE_HIT) }
      else if e.stashOrd.isSome then s.setBerth sl b { st with phase := .recordRead n, viaStash := true, candidates := [] }
      else s.setBerth sl b { st with phase := .indexRead false false }
    | none => s.setBerth sl b { st with phase := .indexRead false false }

/-! ### Export and deletion (R162, R166) -/

/-- Post an export record (Table 5.8). -/
def State.exportRec (s : State) (sl etype n : Nat) (e : Rec) : State :=
  let h := s.get F.ledgerExportChan_handle 0
  if h ≠ 0 ∧ s.chanLive h 4 = false then s.bump F.ledgerCntExportDropped sl
  else
    let form := if n < oldOff then s.compact else match s.led.rehash with | some r => r.form | none => s.compact
    s.evtPost h 3 (leBytes 1 etype ++ leBytes 1 sl ++ leBytes 1 form.toNat ++ leBytes 1 0 ++ leBytes 4 (n % oldOff)
      ++ leBytes 8 e.hs.toNat ++ leBytes 16 s.ktsTl.toNat ++ leBytes (recLen form) e.img.toNat)

/-- Remove a record without an export: slot, hint, stash entry, cache entry, number. -/
def State.dropRec (s : State) (sl n : Nat) : State :=
  let v := s.slice sl
  s.setSlice sl (if n < oldOff then { v with recs := Tab.del v.recs n, freed := n :: v.freed, writes := v.writes.filter (· != n) }
    else { v with old := Tab.del v.old (n - oldOff) })

/-- The reverse key and the block key that belong to a NAT forward key with its translated port (Table 5.10). -/
def natReverseKey (fwd : List Byte) (port : Nat) : List Byte :=
  fwd.take 6 ++ [1] ++ beBytes 2 port ++ (fwd.drop 15).take 4 ++ (fwd.drop 19).take 2 ++ (fwd.drop 21).take 1
def natBlockKey (fwd : List Byte) : List Byte := fwd.take 6 ++ [2]
def natIsForward (e : Rec) : Bool := bytesLe e.img 2 1 == 0xF0 && e.key.length == 22 && (e.key.getD 6 0) == 0
def natB (s : State) : Nat := 6 + Nat.min (s.get F.ledgerLibParam_log2blk 0) 2

/-- Remove the reverse record of a NAT forward record and clear its bitmap bit (R169). -/
def State.natUnmap (s : State) (e : Rec) : State :=
  let port := bytesLe e.img 0x40 2
  let rk := natReverseKey e.key port
  let bk := natBlockKey e.key
  let sr := s.sliceOf 0xF0 rk
  let s := match (s.slice sr).findKey rk with | some (n, _) => s.dropRec sr n | none => s
  let sb := s.sliceOf 0xF0 bk
  match (s.slice sb).findKey bk with
  | some (n, _) =>
    s.setSlice sb ((s.slice sb).updRec n (fun r => { r with img := putBits r.img (8 * 0x40 + port % 2 ^ natB s) 1 0 }))
  | none => s

/-- Delete record `n` (R162): its export, its number, and the reverse record of a NAT forward record. -/
def State.recDelete (s : State) (sl n etype : Nat) : State :=
  match (s.slice sl).recAt n with
  | none => s
  | some e =>
    let s := s.dropRec sl n
    let s := if natIsForward e then s.natUnmap e else s
    if recExport e then s.exportRec sl etype n e else s

/-! ### Commit (R146, R147, R159) -/

/-- The device fields of a commit (R146). -/
def State.commitFields (s : State) (compact : Bool) (img : BitVec 1024) : BitVec 1024 :=
  let img := putBytesLe img 0x04 4 s.tlMs
  if compact then img else putBytesLe img 0x08 4 (bytesLe img 0x08 4 + 1)
/-- The fields that a creation sets (R146). -/
def State.createFields (s : State) (compact : Bool) (prog : Nat) (key : List Byte) (img : BitVec 1024) : BitVec 1024 :=
  let img := putBits img 0 1 1
  let img := putBytesLe (putBytesLe img 0x01 1 (key.length - 1)) 0x02 1 prog
  let img := putBytesLe img (keyOff compact) (keyMax compact) (leNat key)
  if compact then img else putBytesLe img 0x0C 4 s.tlMs

/-- Create a record in the cache and post its index write (R159). -/
def State.createRec (s : State) (sl n : Nat) (stash : Bool) (key : List Byte) (img : BitVec 1024) : State :=
  let v := s.slice sl
  let e : Rec := { img := img, key := key, hs := s.hsOf key, inIndex := !stash, alt := false, cached := true,
                   stashOrd := if stash then some v.stashOrd else none, writing := !stash, dirty := true, used := v.lru + 1 }
  let v := { v with recs := Tab.put v.recs n e, lru := v.lru + 1, stashOrd := v.stashOrd + 1,
                    writes := if stash then v.writes else v.writes ++ [n] }
  (s.setSlice sl v).bump F.ledgerCntNew sl

/-- Let the next member of a chain go on after the member ahead of it, whose state was `p`, is done (R153, R154, R161). -/
def State.chainOn (s : State) (sl : Nat) (p : BerthSt) : State :=
  match s.succOf sl p with
  | none => s
  | some (b, st) =>
    let rec? := (s.slice sl).findKey st.key
    match st.phase with
    | .chained =>
      if st.key == p.key then
        match rec? with
        | some (n, e) =>
          (s.bump F.ledgerCntHit sl).setBerth sl b
            { st with phase := .ready, recNo := some n, cacheHit := true, img := e.img, status := stOK,
                      flags := BitVec.ofNat 8 (2 ^ ffCACHE_HIT) }
        | none => s.lookupStart sl b
      else s.lookupStart sl b
    | .running _ | .heldLen =>
      (match rec? with
       | some (n, e) => s.setBerth sl b { st with recNo := some n, img := e.img }
       | none => s)
    | _ => s

/-- Commit a pass whose program has ended (R146, R159, R161, R162), and let the chain go on. -/
def State.passCommit (s : State) (sl b : Nat) : State :=
  match s.berth? sl b with
  | none => s
  | some st =>
    let cp := s.compact
    let s :=
      if st.delete then
        if st.newRec then s.unreserve sl st.recNo
        else match st.recNo with | some n => s.recDelete sl n 3 | none => s
      else if st.newRec then
        match st.recNo with
        | some n =>
          if st.write then
            let img := manMerge st.img st.out st.wrote 128
            let img := s.recCommitMeter img (recWord st.img)
            s.createRec sl n st.viaStash st.key (s.commitFields cp (s.createFields cp st.prog st.key img))
          else s.unreserve sl st.recNo
        | none => s
      else
        match st.recNo with
        | some n =>
          let img := if st.write then manMerge st.img st.out st.wrote 128 else st.img
          let img := s.commitFields cp (s.recCommitMeter img (recWord st.img))
          s.setSlice sl ((s.slice sl).updRec n (fun e => { e with img := img, dirty := true }))
        | none => s
    let img := manMerge st.img st.out st.wrote 128
    if st.prog == 0xF1 && st.status == stOK && st.write && !(img.getLsbD (8 * (areaOff cp + 6))) then
      s.setBerth sl b { st with phase := .sticky, recNo := ((s.slice sl).findKey st.key).map (·.1) }
    else
      let st2 := { st with phase := .done }
      (s.setBerth sl b st2).chainOn sl st2

/-- A pass ends without a commit: the record stands as before it (R61, R64, R157). -/
def State.passDiscard (s : State) (sl b : Nat) : State :=
  match s.berth? sl b with
  | none => s
  | some st =>
    let s := if st.newRec then s.unreserve sl st.recNo else s
    let st2 := { st with phase := .done, recNo := if st.newRec then none else st.recNo }
    (s.setBerth sl b st2).chainOn sl st2

/-- A pass's program has ended: it commits once its frame's FCS is known and every member ahead has committed (R157). -/
def State.passSettle (s : State) (sl b : Nat) : State :=
  match s.berth? sl b with
  | none => s
  | some st => if st.phase = .heldLen ∧ s.fcsKnown st.fid = true ∧ (s.predOf sl st).isNone = true then s.passCommit sl b else s

/-- Every held pass of a slice that can now commit does so, in chain order. -/
def State.passSettleAll (s : State) (sl : Nat) : State :=
  (s.slice sl).berths.foldl (fun s e => s.passSettle sl e.1) s
/-- Repeat until the chains have moved as far as they can. -/
def State.passSettleN (s : State) (sl : Nat) : Nat → State
  | 0 => s
  | n + 1 => (s.passSettleAll sl).passSettleN sl n

/-- The stevedore of a pass is free again. -/
def State.stevFree (s : State) (sl : Nat) (st : BerthSt) : State :=
  match st.phase with
  | .running e => let x : CtxId := .stev ⟨sl % 16, Nat.mod_lt _ (by decide)⟩ e; (s.delCtx x).zeroG x
  | _ => s

/-- Stop a stevedore's pass (R61, R64): changes discarded, the flags, the status and the drop that its frame takes. -/
def State.passStop (s : State) (sl b flag status reason : Nat) : State :=
  match s.berth? sl b with
  | none => s
  | some st =>
    let s := s.stevFree sl st
    let s := s.setBerth sl b { st with flags := st.flags ||| BitVec.ofNat 8 flag, status := status, drop := some (BitVec.ofNat 8 reason),
                                       write := false, delete := false }
    s.passDiscard sl b

/-- R156: a faulting pass ends every later running pass of its chain that has read a byte it released. -/
def State.chainFault (s : State) (sl : Nat) (st : BerthSt) : State :=
  (s.slice sl).berths.foldl (fun s e =>
    if e.2.hs == st.hs && e.2.key == st.key && decide (st.order < e.2.order) && e.2.fread && e.2.phase != .done then
      s.passStop sl e.1 0 e.2.status rPROGRAM_FAULT
    else s) s

/-- A frame is discarded: the pass it holds is discarded and its berth freed (R12, R157). -/
def State.berthKill (s : State) (sl b : Nat) : State :=
  match s.berth? sl b with
  | none => s
  | some st =>
    let s := s.stevFree sl st
    let s := if st.phase = .done then s else s.passDiscard sl b
    (s.delBerth sl b).passSettleN sl 3

/-- The flow leg of a frame that is discarded. -/
def State.flowKill (s : State) (fid : Nat) : State :=
  match s.frame? fid with
  | none => s
  | some f =>
    match f.flow with
    | .asked sl =>
      let k := f.quay.val * 16 + sl.val
      { s with led := { s.led with asks := Tab.put s.led.asks k ((Tab.getD s.led.asks k []).filter (· != fid)) } }
    | .berth sl b => s.berthKill sl.val b.val
    | _ => s

end Sys2Proof.Machine
end

