-- ==== Sys2Proof/Machine/Clock.lean ====
section
/-!
DEFINITION. Machine/Clock.lean: the passing of time: what one cycle of TIME_CLK does when no command waits (R291, R292), and the counters
that count clocks (Tables 12.9, 12.10).
-/
namespace Sys2Proof.Machine

/-- A base takes one cycle: 1 ns plus its rate, in 2^-40 ns, while it runs (R291). -/
def Base.cycle (b : Base) : Base :=
  if b.running then { b with t40 := ((b.t40 : Int) + 2 ^ 40 + b.frate).toNat } else b

/-- Tug clocks since reset: 1.2 GHz against the 1.0 GHz TIME_CLK (Table 1.4). -/
def State.tugClk (s : State) : Nat := s.ns * 6 / 5

/-- `n` clocks of every tug core are counted (Table 12.9, event 1). -/
def State.tugClocks (s : State) (n : Nat) : State := (List.range 16).foldl (fun s t => s.ccnt t 1 n) s

/-- A berth of slice `sl` has waited `n` core clocks on its chain, if it is chained (Table 12.10, event 0x0803). -/
def State.chainWait (s : State) (sl n : Nat) (b : BerthSt) : State :=
  match b.phase with
  | .chained =>
    s.pmc { code := 0x0803, master := 0x40 + sl, n := n, tc := some (mItcOf b.man), port := mget b.man mPort, who := mget b.man mFhash }
  | _ => s

/-- The chained berths of every slice wait `n` core clocks. -/
def State.chainClocks (s : State) (n : Nat) : State :=
  s.led.slices.foldl (fun s (e : Nat × SliceSt) => e.2.berths.foldl (fun s (b : Nat × BerthSt) => s.chainWait e.1 n b.2) s) s

/-- One cycle of TIME_CLK: TL adds 1 ns from its start, and so does each running base with its rate; the counters of clocks count. While
the device is held in reset nothing runs (Table 15.1). -/
def State.tick (s : State) : State :=
  if s.mode.resetHeld then s
  else
    let u := { s with ns := s.ns + 1,
                      time := { s.time with tlNs := if s.time.tl then s.time.tlNs + 1 else s.time.tlNs,
                                            bases := s.time.bases.map (fun (e : Nat × Base) => (e.1, e.2.cycle)) } }
    (u.tugClocks (u.tugClk - s.tugClk)).chainClocks (u.coreClk - s.coreClk)

end Sys2Proof.Machine
end

