-- ==== Sys2Proof/Machine/Excep.lean ====
section
/-!
DEFINITION. Machine/Excep.lean: the breakwater and the deliveries that it grants (R91-R94), to the firmware exception queue
(R369) and to RXP channels (R385, R386), and the end of a copy (R137, R195).
-/
namespace Sys2Proof.Machine

/-! ### Frame events of the device counters (Table 12.10) -/

/-- A counted event of a frame: `eg` says whether the egress TC or the ingress TC is filtered. -/
def frameEv (code master : Nat) (m : Man) (eg : Bool) (n : Nat) : PmcEv :=
  { code := code, master := master, n := n, tc := some (if eg then mEtcOf m else mItcOf m), port := mget m mPort,
    who := mget m mFhash, what := mget m mQueue % 131072 }

/-! ### Limiters (R91, R92) -/

/-- A limiter's counter, in 2^-16 packet; it starts full. -/
def State.bwCount (s : State) (c : Nat) : Nat := Tab.getD s.tab.bw c (s.get F.quayBwCfg_burst c * 65536)

/-- Ask limiter `c`: granted while the counter holds a whole token. A refusal is counted, and is an event of quay `q`. -/
def State.bwAsk (s : State) (c : Nat) (q : Nat) (m : Man) : State × Bool :=
  let n := s.bwCount c
  if 65536 ≤ n then
    (({ s with tab := { s.tab with bw := Tab.put s.tab.bw c (n - 65536) } }).bump F.quayBwPass c, true)
  else ((s.bump F.quayBwRefuse c).pmc (frameEv 0x0403 q m (decide (0x30 ≤ q)) 1), false)

/-! ### The ends of flights and copies -/

/-- A frame, copy or delivery of flight `n` with manifest `m` has ended (0 names none); with its flight the stamp held for it
goes (R297). -/
def State.flightDone (s : State) (n : Nat) (m : Man) : State :=
  if n = 0 then s
  else
    let s := s.flightEnd n
    if Tab.has s.eng.flights n then s
    else { s with time := { s.time with held := Tab.del s.time.held (mget m mPort * 65536 + mget m mSeq) } }

/-- A delivery to a channel or to firmware has ended: its buffer reference and its flight. -/
def State.deliveryEnd (s : State) (w : RxWait) : State :=
  (match w.bid with | some b => s.letGo b 0x70 | none => s).flightDone w.flight w.man

/-! ### Stamps of a delivery (R297, R369) -/

/-- The 256-B stamp block: entry n is the stamp on TBn (entry 8 on TL) where manifest 0x0A bit n is set. -/
def stampBlock (m : Man) (st : Tab Stamp) : List Byte :=
  (List.range 9).flatMap (fun n => leBytes 16 (if (mget m mBases).testBit n then (Tab.getD st n 0).toNat else 0))
    ++ List.replicate 112 (0 : Byte)

/-! ### The firmware exception queue (R368, R369) -/

/-- Take `n` buffers of the HOST pool for master `mid`; none where the pool cannot grant them all. -/
def State.hbTake (s : State) (mid : Nat) : Nat → State × Option (List Nat)
  | 0 => (s, some [])
  | n + 1 =>
    match s.hbAlloc 0 mid false with
    | (s1, some x) =>
      (match s1.hbTake mid n with
       | (s2, some l) => (s2, some (x :: l))
       | (_, none) => (s, none))
    | (_, none) => (s, none)

/-- Fill buffers in turn with bytes. -/
def State.hbFill (s : State) : List Nat → List Byte → State
  | [], _ => s
  | x :: r, l =>
    let n := s.hbBytes 0
    State.hbFill { s with hbm := s.hbm.setBytes (s.hbAddr 0 x) (l.take n) } r (l.drop n)

/-- Post a frame to the firmware exception queue (R369); `cut0` says that the frame was truncated before it came here. -/
def State.exqFrame (s : State) (cause : Nat) (m : Man) (st : Tab Stamp) (bytes : List Byte) (cut0 : Bool) : State :=
  let stamps := mget m mBases != 0
  let pre := if stamps then stampBlock m st else []
  let room := 3 * s.hbBytes 0 - pre.length
  let body := bytes.take room
  let cut := cut0 || decide (room < bytes.length)
  let n := (pre.length + body.length + s.hbBytes 0 - 1) / s.hbBytes 0
  if s.tug.exqCount < 2 ^ s.get F.tugExqCfg_log2 0 then
    match s.hbTake (s.get F.tugExqCfg_core 0) n with
    | (_, none) => s.bump F.tugCntExqNobuf 0
    | (s, some xs) =>
      let s := s.hbFill xs (pre ++ body)
      let ids := xs.flatMap (fun x => leBytes 4 (hbId 0 x))
      s.exqPut (leBytes 1 1 ++ leBytes 1 cause ++ leBytes 2 body.length ++ leBytes 1 n
        ++ leBytes 1 (cut.toNat + 2 * stamps.toNat) ++ leBytes 2 0 ++ ids) (leBytesOf m)
  else s.bump F.tugCntExqDropped 0

/-! ### RXP channels (R385, R386, Table 13.4) -/

/-- What stands before a frame's bytes under PREFIX. -/
def State.rxPrefix (s : State) (c : Nat) (w : RxWait) : List Byte :=
  match (s.chan c).prefixN with
  | 1 => leBytesOf w.man
  | 2 => leBytesOf w.man ++ stampBlock w.man w.stamps
  | _ => []

/-- The entries from `ix` whose buffers together cover `need` bytes, as (index, buffer length); none where those posted do not
suffice. -/
def State.rxRun (s : State) (c need : Nat) : Nat → Nat → Option (List (Nat × Nat))
  | 0, _ => none
  | fuel + 1, ix =>
    if need = 0 then some []
    else if ix = s.get F.cmdChState_tail c then none
    else
      let len := leNat (s.chRead c ((s.chan c).ring + ix * 32 + 8) 4)
      (s.rxRun c (need - len) fuel ((ix + 1) % 2 ^ (s.chan c).log2ring)).map (fun r => (ix, len) :: r)

/-- The entries that a waiting frame takes from `ix`. -/
def State.rxEntries (s : State) (c ix : Nat) (w : RxWait) : Option (List (Nat × Nat)) :=
  s.rxRun c ((s.rxPrefix c w).length + w.bytes.length) (2 ^ (s.chan c).log2ring) ix

/-- Whether every waiting frame of a list finds its entries from `ix` on. -/
def State.rxAll (s : State) (c : Nat) : Nat → List RxWait → Bool
  | _, [] => true
  | ix, w :: r =>
    match s.rxEntries c ix w with
    | some run => s.rxAll c ((ix + run.length) % 2 ^ (s.chan c).log2ring) r
    | none => false

/-- A frame is dropped NO_DESC at channel `c`. -/
def State.rxDrop (s : State) (c : Nat) (w : RxWait) : State := (s.bump F.hostChCntNoDesc c).deliveryEnd w

/-- A delivery reaches an RXP channel: it waits its turn, or is dropped (R386, R384, R382). -/
def State.rxArrive (s : State) (c : Nat) (w : RxWait) : State :=
  let ch := s.chan c
  if ch.stopped ∨ 64 ≤ ch.rx.length then s.rxDrop c w
  else if ch.flag = true ∧ (s.chanRuns c && s.rxAll c ch.devHead (ch.rx ++ [w])) = false then s.rxDrop c w
  else s.setChan c { ch with rx := ch.rx ++ [w] }

/-- Deliver a frame or copy under cause `c` as QUAY_BW_CHAN says (R94). `bid` is the buffer reference that it holds, and `cut0` says
that TRUNC has truncated it (R198). -/
def State.deliver (s : State) (c : Nat) (m : Man) (st : Tab Stamp) (bytes : List Byte) (flight : Nat)
    (bid : Option Nat := none) (cut0 : Bool := false) : State :=
  let snap := s.get F.quayBwCfg_snap c
  let cut := snap != 0 && decide (snap ≤ 160) && decide (snap * 64 < bytes.length)
  let data := if cut then bytes.take (snap * 64) else bytes
  let h := s.get F.quayBwChan_handle c
  let w : RxWait := ⟨c, m, st, data, cut0 || cut, flight, bid, s.ns⟩
  if h = 0 then (s.exqFrame c m st data (cut0 || cut)).deliveryEnd w
  else if s.chanLive h 2 then s.rxArrive (hIx h) w
  else (s.bump F.quayBwRefuse c).deliveryEnd w

/-- A copy request under cause `c` from quay `q`: delivered where its limiter grants it (R93, R94). -/
def State.copyAsk (s : State) (c q : Nat) (m : Man) (st : Tab Stamp) (bytes : List Byte) (flight : Nat) : State :=
  match s.bwAsk (causeOf c) q m with
  | (s, true) => ((if flight = 0 then s else s.flightAdd flight)).deliver (causeOf c) m st bytes flight
  | (s, false) => s

/-! ### The end of a copy (R137, R195, R216) -/

/-- A copy has ended at egress quay `e`: its queue's cells, its buffer or reference, and its flight. -/
def State.copyEnd (s : State) (e : Nat) (cp : Copy) : State :=
  ((s.subQUsed cp.queue (poolCells (bidPool cp.bid))).letGo cp.bid (0x30 + e)).flightDone cp.flight cp.man

/-- The stamps that a delivery of a copy carries: its primary stamp and what the held-stamp store keeps (R297). -/
def State.copyStamps (s : State) (m : Man) : Tab Stamp :=
  let t := m.extractLsb' 128 128
  let ix := fun (x : Stamp) => if ktsBase x = 15 then 8 else ktsBase x
  let one : Tab Stamp := if t = 0 then [] else [(ix t, t)]
  match Tab.get? s.time.held (mget m mPort * 65536 + mget m mSeq) with
  | some h => Tab.put one (ix h) h
  | none => one

end Sys2Proof.Machine
end

