-- ==== Sys2Proof/Machine/Parse.lean ====
section
/-!
DEFINITION. Machine/Parse.lean: the header checks of HDR (R76-R78, R490), the receive checksum checks (R283), the fragment
decision table (R83-R88, R488), and the end of a parse program (R79-R82).
-/
namespace Sys2Proof.Machine

/-! ### Header checks (Table 3.2) -/

/-- `n` bytes of H from byte `i`, most significant first; bytes past the window read as zero. -/
def hNum (h : BitVec 2048) (i n : Nat) : Nat := beNat (wireBytes h i n)

/-- A header end against the frame's length less FCS, with the padding allowance (R77, R490). -/
def lateTest (len : Nat) (m : Man) (c : LateCheck) : Man :=
  if c.endAt + 4 = len ∨ (c.atMost = true ∧ c.endAt + 4 ≤ len) then m
  else if c.endAt + 4 < len ∧ len ≤ 64 + 4 * c.vlans then mraise m pfPADDED
  else mraise m pfLEN

/-- Make such a check now, or when the last byte arrives (R76). -/
def outerCheck (len : Option Nat) (p : Parse) (m : Man) (endAt : Nat) (atMost : Bool) : Parse × Man :=
  let c : LateCheck := ⟨endAt, atMost, p.vlans⟩
  match len with
  | some n => (p, lateTest n m c)
  | none => ({ p with late := p.late ++ [c] }, m)

/-- The end of an IP datagram against its enclosing end (R77). -/
def ipEnd (len : Option Nat) (p : Parse) (m : Man) (e : Nat) : Parse × Man :=
  match p.ips.getLast? with
  | some o => (p, mraiseIf m (e != o.endAt) pfLEN)
  | none => outerCheck len p m e false

/-- Fragment state (R78): the first header with it holds it; a second sets FRAG_NESTED. -/
def fragState (p : Parse) (m : Man) (off : Nat) (more : Bool) (id : FragId) : Parse × Man :=
  if off = 0 ∧ more = false then (p, m)
  else if p.holder.isSome then ({ p with nested := true }, mraise m pfFRAG_NESTED)
  else ({ p with holder := some { id with first := off == 0, later := off != 0 } },
        mraise m (if off = 0 then pfFRAG_FIRST else pfFRAG_LATER))

/-- Mark the nearest IP datagram as one whose holder has FRAG_LATER. -/
def markLater (l : List IpInfo) (b : Bool) : List IpInfo :=
  match l.reverse with
  | x :: r => (({ x with fragLater := x.fragLater || b }) :: r).reverse
  | [] => []

/-- IPV4 recorded at `a` with the given length. -/
def hdrIpv4 (h : BitVec 2048) (len : Option Nat) (csum : Bool) (p : Parse) (m : Man) (a n : Nat) : Parse × Man :=
  let b0 := hNum h a 1
  let ihl := b0 % 16
  let tot := hNum h (a + 2) 2
  let m := mraiseIf m (b0 / 16 != 4 || decide (ihl < 5) || n != 4 * ihl || decide (tot < 4 * ihl)) pfLEN
  let m := mraiseIf m (decide (5 < ihl)) pfIP_OPTIONS
  let m := mraiseIf m (p.ips.isEmpty && decide (hNum h (a + 8) 1 ≤ 1)) pfTTL_LE1
  let r := ipEnd len p m (a + tot)
  let outer4 := r.1.ips.all (·.v6)
  let fo := hNum h (a + 6) 2
  let id : FragId := ⟨false, BitVec.ofNat 128 (hNum h (a + 12) 4), BitVec.ofNat 128 (hNum h (a + 16) 4),
    BitVec.ofNat 8 (hNum h (a + 9) 1), BitVec.ofNat 32 (hNum h (a + 4) 2), false, false⟩
  let had := r.1.holder.isSome
  let q := fragState r.1 r.2 (fo % 8192) (fo.testBit 13) id
  let ip : IpInfo := ⟨false, a, a + tot, id.src, id.dst, !had && fo % 8192 != 0, fo % 8192 != 0 || fo.testBit 13⟩
  let p := { q.1 with ips := q.1.ips ++ [ip] }
  (p, mraiseIf q.2 (csum && outer4 && !mflag q.2 pfLEN && onesSum (wireBytes h a (4 * ihl)) 0 != 0xFFFF) pfL3_BAD)

/-- IPV6 recorded at `a`. -/
def hdrIpv6 (h : BitVec 2048) (len : Option Nat) (p : Parse) (m : Man) (a n : Nat) : Parse × Man :=
  let pl := hNum h (a + 4) 2
  let m := mraiseIf m (hNum h a 1 / 16 != 6 || n != 40 || pl == 0) pfLEN
  let m := mraiseIf m (p.ips.isEmpty && decide (hNum h (a + 7) 1 ≤ 1)) pfTTL_LE1
  let r := ipEnd len p m (a + 40 + pl)
  let ip : IpInfo := ⟨true, a, a + 40 + pl, BitVec.ofNat 128 (hNum h (a + 8) 16), BitVec.ofNat 128 (hNum h (a + 24) 16), false, false⟩
  ({ r.1 with ips := r.1.ips ++ [ip], nextHdr := some (BitVec.ofNat 8 (hNum h (a + 6) 1)) }, r.2)

/-- IPV6EXT recorded at `a`: tracked only behind an IPV6 header of the pass (R78). -/
def hdrExt (h : BitVec 2048) (p : Parse) (m : Man) (a n : Nat) : Parse × Man :=
  match p.nextHdr with
  | none => (p, m)
  | some nh =>
    let next := BitVec.ofNat 8 (hNum h a 1)
    let r : Parse × Man :=
      if nh = 44 then
        let m := mraiseIf m (n != 8) pfLEN
        let fo := hNum h (a + 2) 2
        let ip := (p.ips.filter (·.v6)).getLast?
        let id : FragId := ⟨true, (ip.map (·.src)).getD 0, (ip.map (·.dst)).getD 0, next, BitVec.ofNat 32 (hNum h (a + 4) 4),
          false, false⟩
        let had := p.holder.isSome
        let q := fragState p m (fo / 8) (fo.testBit 0) id
        ({ q.1 with ips := markLater q.1.ips (!had && fo / 8 != 0) }, q.2)
      else (p, m)
    ({ r.1 with nextHdr := some next }, r.2)

/-- UDP or TCP recorded at `a` (R76, R490). -/
def hdrL4 (h : BitVec 2048) (len : Option Nat) (tcp : Bool) (p : Parse) (m : Man) (a n : Nat) : Parse × Man :=
  let ip := p.ips.getLast?
  let p := if p.l4seen then p else { p with l4seen := true, csum := ip.map (fun i => ⟨tcp, i, a⟩) }
  if (ip.map (·.fragLater)).getD false then (p, m)
  else
    let ul := hNum h (a + 4) 2
    let off := hNum h (a + 12) 1 / 16
    let m := if tcp then mraiseIf m (decide (off < 5) || n != 4 * off) pfLEN else mraiseIf m (n != 8 || decide (ul < 8)) pfLEN
    let e := if tcp then a + n else a + ul
    match ip with
    | some i => (p, mraiseIf m (if tcp then decide (i.endAt < e) else e != i.endAt) pfLEN)
    | none => outerCheck len p m e tcp

/-- The checks of the header type just recorded (Table 3.2). -/
def hdrChecks (h : BitVec 2048) (len : Option Nat) (csum : Bool) (ty : Nat) (p : Parse) (m : Man) (a n : Nat) : Parse × Man :=
  match ty with
  | 2 => ({ p with vlans := p.vlans + 1 }, m)
  | 4 => hdrIpv4 h len csum p m a n
  | 5 => hdrIpv6 h len p m a n
  | 6 => hdrExt h p m a n
  | 7 => hdrL4 h len false p m a n
  | 8 => hdrL4 h len true p m a n
  | _ => (p, m)

/-- The transport checksum check, made once the last byte has arrived (R283). -/
def csumRun (bytes : List Byte) (m : Man) (j : CsumJob) : Man :=
  let n := j.ip.endAt - j.start
  let seg := (bytes.drop j.start).take n
  let at6 := beNat ((bytes.drop (j.start + 6)).take 2)
  let proto := if j.tcp then 6 else 17
  let ph := if j.ip.v6 then beBytes 16 j.ip.src.toNat ++ beBytes 16 j.ip.dst.toNat ++ beBytes 4 n ++ beBytes 4 proto
    else beBytes 4 j.ip.src.toNat ++ beBytes 4 j.ip.dst.toNat ++ beBytes 2 proto ++ beBytes 2 n
  if mflag m pfLEN ∨ mflag m pfFRAG_FIRST ∨ mflag m pfFRAG_LATER ∨ j.ip.endAt < j.start ∨ bytes.length < j.ip.endAt + 4 then m
  else if j.tcp = false ∧ j.ip.v6 = false ∧ at6 = 0 then m
  else mraiseIf m (onesSum (ph ++ seg) 0 != 0xFFFF) pfL4_BAD

/-- The checks that waited for the frame's length (R74, R76, R283). -/
def lastByte (bytes : List Byte) (csum : Bool) (p : Parse) (m : Man) : Parse × Man :=
  let m := msetLenPending (mset m mLen bytes.length) false
  let m := p.late.foldl (lateTest bytes.length) m
  let m := match p.csum with | some j => if csum then csumRun bytes m j else m | none => m
  ({ p with late := [], csum := none }, m)

/-- Whether the port checks a frame's checksums (R283). -/
def State.csumOn (s : State) (f : Frame) : Bool := f.src == .wire && s.bit F.portCfg_csumEn (portIx f.port)

/-! ### The fragment decision table (R83-R88, R488) -/

/-- The key of a fragment entry (Table 3.3). -/
def fragKey (id : FragId) (zone : Nat) : List Byte :=
  let al := if id.v6 then 16 else 4
  leBytes 1 (if id.v6 then 6 else 4) ++ beBytes 2 zone ++ beBytes al id.src.toNat ++ beBytes al id.dst.toNat
    ++ leBytes 1 id.proto.toNat ++ beBytes (if id.v6 then 4 else 2) id.ident.toNat

/-- The four entries of a key's bucket in way `w`. -/
def State.fragPlaces (s : State) (w : Nat) (key : List Byte) : List Nat :=
  let b := w * 16384 + (kx64 ((0xFF : Byte) :: key) (BitVec.ofNat 64 (s.get F.tblEmSeed_seed w))).toNat / 2 ^ 52 * 4
  [b, b + 1, b + 2, b + 3]

def State.fragCuckoo (s : State) : Cuckoo where
  others := fun ix =>
    match Tab.get? s.tab.frag ix with
    | some e => (List.range 4).flatMap (fun w => if w = ix / 16384 then [] else s.fragPlaces w e.key)
    | none => []
  free := fun ix => !(Tab.has s.tab.frag ix)
  movable := fun ix => Tab.has s.tab.frag ix

/-- The place of a key. -/
def State.fragFind (s : State) (key : List Byte) : Option (Nat × FragEntry) := s.tab.frag.find? (fun e => e.2.key == key)

def State.setFrag (s : State) (ix : Nat) (e : FragEntry) : State :=
  ({ s with tab := { s.tab with frag := Tab.put s.tab.frag ix e } }).unbad tkFRAG ix
def State.delFrag (s : State) (ix : Nat) : State :=
  ({ s with tab := { s.tab with frag := Tab.del s.tab.frag ix } }).unbad tkFRAG ix
def State.fragMove (s : State) (m : Nat × Nat) : State :=
  match Tab.get? s.tab.frag m.1 with
  | some e => (s.setFrag m.2 e).delFrag m.1
  | none => s

/-- Insert or overwrite an entry (R84, R488): whether a place was found. -/
def State.fragInsert (s : State) (e : FragEntry) : State × Bool :=
  match s.fragFind e.key with
  | some (ix, _) => (s.setFrag ix e, true)
  | none =>
    match cuckooPlace s.fragCuckoo ((List.range 4).flatMap (fun w => s.fragPlaces w e.key)) with
    | some (moves, ix) => ((moves.foldl State.fragMove s).setFrag ix e, true)
    | none => (s, false)

/-- The entry that a manifest makes (Table 3.3). -/
def fragEntryOf (key : List Byte) (m : Man) (w : BitVec 128) : FragEntry :=
  ⟨key, m.extractLsb' (8 * 0x04) 16, m.extractLsb' (8 * 0x3C) 160, m.extractLsb' (8 * 0x58) 192, w, 0⟩

/-- Copy an entry's data over a manifest (R85). -/
def fragApply (e : FragEntry) (m : Man) : Man :=
  mraise (putBits (putBits (putBits m (8 * 0x04) 16 e.d04.toNat) (8 * 0x3C) 160 e.d3c.toNat) (8 * 0x58) 192 e.d58.toNat) pfFRAG_HIT

/-! ### The end of a parse program (R79-R82) -/

/-- Whether a destination has been written (R82). -/
def hasDest (w : BitVec 128) : Bool := (w &&& (byteMask 0x40 4 ||| byteMask 0x4C 3)) != 0

/-- Whether PARSE_LEN ends the frame, and its action word then (R81). -/
def State.parseLenAct (s : State) (q : Nat) (m : Man) : Option Man :=
  let act := s.get F.quayParsePolicy_lenAct q
  if mflag m pfLEN = true ∧ act ≠ 2 then some (if act = 1 then mExc m xPARSE_LEN else mDrop m rPARSE_LEN) else none

/-- Resolve a frame whose program has ended and whose flow pass, if any, has returned (R79). -/
def State.resolveFrame (s : State) (fid : Nat) : State :=
  match s.frame? fid with
  | none => s
  | some f =>
    if f.stage ≠ .parsed ∨ f.resolved = true ∨ (f.flow ≠ .none ∧ f.flow ≠ .back) then s
    else if f.stopped then s.setFrame fid { f with resolved := true }
    else
      let q := f.quay.val
      match s.parseLenAct q f.man with
      | some m => s.setFrame fid { f with resolved := true, man := m }
      | none =>
        let svc := s.modeNo == mSERVICE || s.modeNo == mSLACK
        if f.parse.nested = true ∨ (f.parse.holder.isSome = true ∧ svc = false) then
          s.setFrame fid { f with resolved := true, man := mExc f.man xFRAG_SLOWPATH }
        else if mVerdict f.man = vFORWARD ∧ hasDest f.manW = false then
          s.setFrame fid { f with resolved := true, man := mExc (mraise f.man pfNO_DEST) xUNCLASSIFIED }
        else
          let m := if mflag f.man pfDEPTH && s.bit F.quayParsePolicy_depthCopy q && mCause f.man == 0
            then mCopyReq f.man xPARSE_DEPTH else f.man
          let f := { f with resolved := true, man := m, look := mflag m pfFRAG_LATER }
          match f.parse.holder with
          | some id =>
            if id.first = true ∧ mVerdict m ≠ vRECIRCULATE then
              (match s.fragInsert (fragEntryOf (fragKey id (mZoneOf m)) m f.manW) with
               | (s, true) => (s.bump F.quayCntFragFirst q).setFrame fid f
               | (s, false) =>
                 let more := if s.bit F.quayParsePolicy_tblfullCopy q then [xFRAG_TBL_FULL] else []
                 (s.bump F.quayCntFragTblFull q).setFrame fid { f with xcopy := f.xcopy ++ more })
            else s.setFrame fid f
          | none => s.setFrame fid f

end Sys2Proof.Machine
end

