-- ==== Sys2Proof/Machine/Task.lean ====
section
/-!
DEFINITION. Machine/Task.lean: task contexts and the scheduler's switches (R354-R365): loading and saving a context, what a core
takes when it gives up its task, cancelling, and the delay list.
-/
namespace Sys2Proof.Machine

/-- Whether a task's affinity names core `t`. -/
def State.affine (s : State) (k t : Nat) : Bool := (s.task k).aff.getLsbD t
/-- The level of a task. -/
def State.level (s : State) (k : Nat) : Nat := s.get F.tugTaskState_level k

/-- Save the context of core `t` into its task `k`. -/
def State.saveTask (s : State) (t : Core) (k : Nat) : State :=
  let regs := (List.finRange 32).map (fun (r : RegNo) => s.g (.tug t) r)
  s.setTask k { s.task k with ctx := (s.tcore t.val).ctx, regs := regs }

/-- A task leaves the ready list of its level. -/
def State.unready (s : State) (k : Nat) : State :=
  let lvl := s.level k
  s.setReady lvl ((s.readyOf lvl).filter (· != k))

/-- A core's NEXT slot (R364). -/
def State.setNext (s : State) (t : Nat) (n : Option Nat) : State :=
  (s.setTcore t { s.tcore t with next := n }).setBit F.tugCoreStatus_nextValid t n.isSome
/-- A task that starts or goes is in no NEXT slot any more. -/
def State.unnext (s : State) (k : Nat) : State :=
  (List.range 16).foldl (fun s t => if (s.tcore t).next = some k then s.setNext t none else s) s

/-- Task `k` starts on core `t`: its context is loaded, and the core watchdog restarts (R364, R371). -/
def State.startTask (s : State) (t : Core) (k : Nat) : State :=
  let s := (s.unready k).unnext k
  let tk := s.task k
  let s := (s.set F.tugTaskState_state k tRUNNING).set F.tugTaskState_core k t.val
  let s := (List.finRange 32).foldl (fun s (r : RegNo) => s.setG (.tug t) r (tk.regs.getD r.val 0)) (s.zeroG (.tug t))
  let s := s.setTcore t.val { s.tcore t.val with ctx := tk.ctx, wd := s.ns, wdOnce := false }
  ((s.set F.tugCoreStatus_task t.val k).setBit F.tugCoreStatus_idle t.val false).ccnt t.val 10 1

/-- The task that core `t` takes: the first in FIFO order of the most urgent level whose affinity names it (R362), among levels
below `lim`. -/
def State.firstFor (s : State) (t lim : Nat) : Option Nat :=
  (List.range lim).findSome? (fun lvl => (s.readyOf lvl).find? (fun k => s.affine k t))

/-- The core has no task. -/
def State.coreIdle (s : State) (t : Core) : State := s.setBit F.tugCoreStatus_idle t.val true

/-- The core's task waits or is cancelled: the core takes the next one, or is idle (R362). -/
def State.coreTake (s : State) (t : Core) : State :=
  match s.firstFor t.val 32 with
  | some k => s.startTask t k
  | none => (s.coreIdle t).setNext t.val none

/-- Whether core `t` stands at a preemption point (R365). -/
def State.preemptPoint (s : State) (t : Core) : Bool :=
  let c := (s.tcore t.val).ctx
  !c.sup || c.inten

/-- A task becomes CANCELLED (R356) with a cause of TUG_TASK_STATE. -/
def State.cancelTask (s : State) (k cause : Nat) : State :=
  let s := ((s.unready k).unnext k).undelay k
  let s := s.setTask k { s.task k with wait := none, cancel := false }
  (s.set F.tugTaskState_state k tCANCELLED).set F.tugTaskState_cause k cause

/-- A running task that has been cancelled stops at its preemption point. -/
def State.cancelHere (s : State) (t : Core) (k : Nat) : State := ((s.saveTask t k).cancelTask k 0).coreTake t

/-- Whether core `t`'s task is to stop now. -/
def State.cancelDue (s : State) (t : Core) : Option Nat :=
  match s.running? t.val with
  | some k => if (s.task k).cancel && s.preemptPoint t then some k else none
  | none => none

/-- 1 µs ticks (R360): they fall at whole multiples of 1 µs of TL (R487). -/
def State.ticks (s : State) : Nat := s.tlNs / 1000

/-- A task enters the delay list, behind those that expire no later (R360). -/
def State.delayFor (s : State) (k due : Nat) : State :=
  let l := s.tug.delay
  let l2 := l.takeWhile (fun e => decide (e.1 ≤ due)) ++ (due, k) :: l.dropWhile (fun e => decide (e.1 ≤ due))
  { s with tug := { s.tug with delay := l2 } }

/-- A waiting task's timeout has passed: its register takes 0 and it is READY. -/
def State.waitOver (s : State) (k : Nat) : State :=
  let tk := s.task k
  match tk.wait with
  | none => s.undelay k
  | some (r, _) => ((s.setTask k { tk with wait := none, regs := if r = 0 then tk.regs else tk.regs.set r.val 0 }).undelay k).makeReady k

end Sys2Proof.Machine
end

