-- ==== Sys2Proof/Machine/Trap.lean ====
section
/-!
DEFINITION. Machine/Trap.lean: the tug cores: taking a trap or an interrupt and returning (R66, R67), the core reset of R371, the
issue of an instruction, and the D memory map with its windows (R350-R353, R366-R368, R370-R372).
-/
namespace Sys2Proof.Machine

/-! ### Trap causes (Table 2.13) -/
abbrev tcILLEGAL : Nat := 0x01
abbrev tcPRIV : Nat := 0x02
abbrev tcD_FAULT : Nat := 0x03
abbrev tcMISALIGN : Nat := 0x04
abbrev tcC_DENIED : Nat := 0x05
abbrev tcSYSCALL : Nat := 0x06
abbrev tcMEM_ECC : Nat := 0x07

/-- The entry point of a cause (R66). -/
def trapClass (cause : Nat) : Nat := if cause = tcMEM_ECC then 3 else if 0x80 ≤ cause then 2 else if cause = tcSYSCALL then 1 else 0

/-- A RAS event whose type Table 16.4 does not list: a core reset, a program word's parity error (log entry 25). -/
def State.rasOther (s : State) (b1 b2 v8 : Nat) : State := s.useFree.rasEvent (s.freeVal.toNat % 256) b1 b2 0 v8

/-- The time at which core `t`'s watchdog next expires restarts (R371). -/
def State.wdRestart (s : State) (t : Nat) : State :=
  s.setTcore t { s.tcore t with wd := s.ns, wdOnce := false }

/-- The core becomes idle. -/
def State.setIdle (s : State) (t : Nat) : State := s.setBit F.tugCoreStatus_idle t true

/-- Reset core `t` (R67, R371): its task becomes CANCELLED with the cause, and the core idle. -/
def State.coreReset (s : State) (t cause : Nat) : State :=
  match s.running? t with
  | none => s
  | some k =>
    let s := (s.set F.tugTaskState_state k tCANCELLED).set F.tugTaskState_cause k cause
    let s := s.setTask k { s.task k with cancel := false }
    ((s.setIdle t).bump F.tugCntCoreReset 0).rasOther 0 t k

/-- Enter a trap or an interrupt (R66): the slot, the mode, the entry address; with four slots in use the core is reset. -/
def State.trapEnter (s : State) (t : Core) (cause : Nat) (detail ra : Word) : State :=
  let tc := s.tcore t.val
  if 4 ≤ tc.ctx.slots.length then s.coreReset t.val 2
  else
    let slot : TrapSlot := ⟨ra, BitVec.ofNat 8 cause, detail, tc.ctx.sup, tc.ctx.inten⟩
    let pc := tc.ctx.tbase + BitVec.ofNat 64 (64 * trapClass cause)
    let s := s.setTcore t.val { tc with ctx := { tc.ctx with slots := slot :: tc.ctx.slots, sup := true, inten := false, pc := pc } }
    s.ccnt t.val (if 0x80 ≤ cause then 9 else 8) 1

/-- Return through the innermost trap slot (R66). -/
def State.trapReturn (s : State) (t : Core) : State :=
  let tc := s.tcore t.val
  match tc.ctx.slots with
  | [] => s
  | sl :: r => s.setTcore t.val { tc with ctx := { tc.ctx with slots := r, sup := sl.sup, inten := sl.inten, pc := sl.ra } }

/-- The pc of core `t`. -/
def State.tpc (s : State) (t : Core) : Word := (s.tcore t.val).ctx.pc
def State.setTpc (s : State) (t : Core) (pc : Word) : State :=
  let tc := s.tcore t.val
  s.setTcore t.val { tc with ctx := { tc.ctx with pc := pc } }
def State.tsup (s : State) (t : Core) : Bool := (s.tcore t.val).ctx.sup

/-- A trap of the instruction at the pc. -/
def State.trapHere (s : State) (t : Core) (cause : Nat) (detail : Word) : State := s.trapEnter t cause detail (s.tpc t)

/-- An event of core `t` for the device counters (Table 12.10). -/
def State.tugEv (s : State) (t : Core) (code n : Nat) (addr : Option Nat) : PmcEv where
  code := code
  master := t.val
  n := n
  addr := addr
  sup := some (s.tsup t)
  who := (s.tpc t).toNat
  task := (s.running? t.val).elim 0 s.taskHandle

/-- An instruction retires: counted as Tables 12.9 and 12.10 say. -/
def State.tugCount (s : State) (t : Core) : State := (s.ccnt t.val 2 1).pmc (s.tugEv t 0x0E01 1 none)

/-- An instruction retires and the next word follows. -/
def State.tugDone (s : State) (t : Core) : State := (s.tugCount t).setTpc t (s.tpc t + 4)
/-- An instruction retires and the pc becomes `pc`. -/
def State.tugJump (s : State) (t : Core) (pc : Word) : State := (s.tugCount t).setTpc t pc

/-! ### The D memory map (Table 12.1) -/

/-- Where a D access of `n` bytes lies. -/
inductive DReg
  | loc | shared | remote | mbox (m off : Nat) | exq (off : Nat) | core (off : Nat) | syswd (off : Nat) | hbm | hole
  deriving DecidableEq, Repr

def dReg (a n : Nat) : DReg :=
  let inn (base size : Nat) : Bool := decide (base ≤ a) && decide (a + n ≤ base + size)
  if inn 0 0x40000 then .loc
  else if inn 0x100000 0x800000 then .shared
  else if inn 0x01000000 0x400000 then (if (a - 0x01000000) / 0x40000 = (a + n - 1 - 0x01000000) / 0x40000 then .remote else .hole)
  else if inn 0x02000000 0x1000 then .mbox ((a - 0x02000000) / 64) ((a - 0x02000000) % 64)
  else if inn 0x02010000 64 then .exq (a - 0x02010000)
  else if inn 0x02020000 64 then .core (a - 0x02020000)
  else if inn 0x02030000 16 then .syswd (a - 0x02030000)
  else if inn hbmWin hbmSize then .hbm
  else .hole

/-- The word that the running task's descriptor gives its regions and permissions (Table 12.4, w3). -/
def State.taskW3 (s : State) (t : Core) : Word := match s.running? t.val with | some k => (s.task k).w3 | none => 0

/-- Whether bytes lie in the running task's local or shared region. -/
def inTaskRegion (w3 : Word) (shared : Bool) (a n : Nat) : Bool :=
  let f := fun (lo len : Nat) => (w3.extractLsb' lo len).toNat * 4096
  if shared then decide (0x100000 + f 13 11 ≤ a) && decide (a + n ≤ 0x100000 + f 13 11 + f 24 12)
  else decide (f 0 6 ≤ a) && decide (a + n ≤ f 0 6 + f 6 7)

/-- Whether core `t` may read or write memory there at its level (Table 12.1); windows are judged apart. -/
def State.memAllowed (s : State) (t : Core) (a n : Nat) : Bool :=
  let sup := s.tsup t
  match dReg a n with
  | .loc => sup || inTaskRegion (s.taskW3 t) false a n
  | .shared => sup || inTaskRegion (s.taskW3 t) true a n
  | .remote => sup
  | .hbm => sup && (s.inRegion 0 (a - hbmWin) n || s.inRegion 1 (a - hbmWin) n)
  | _ => false

/-- Whether core `t` may fetch at an address. -/
def State.fetchAllowed (s : State) (t : Core) (a : Nat) : Bool :=
  match dReg a 4 with
  | .loc => s.tsup t || inTaskRegion (s.taskW3 t) false a 4
  | .shared => true
  | _ => false

/-- The number of the 64-bit word of tug memory or HBM that holds an address. -/
def State.wordBad (s : State) (t a : Nat) : Bool :=
  if hbmWin ≤ a then s.hbmBad.contains ((a - hbmWin) / 8) else s.tug.bad.contains (dCell t a / 8)

/-- Issue an instruction on core `t`: nothing while the core is idle; a bad fetch or an illegal word traps; else `body` runs. -/
def State.tugRun (s : State) (t : Core) (ok : Bool) (body : State → State) : State :=
  if s.running? t.val = none then s
  else if let some k := s.cancelDue t then s.cancelHere t k
  else
    let pc := (s.tpc t).toNat
    if s.fetchAllowed t pc = false then s.trapHere t tcD_FAULT (s.tpc t)
    else if s.wordBad t.val pc then (s.mcheck 3 (dCell t.val pc) t.val).trapHere t tcMEM_ECC (s.tpc t)
    else if ok = false then s.trapHere t tcILLEGAL (BitVec.ofNat 64 (leNat (s.dRead t.val pc 4)))
    else body s

/-! ### Mailboxes (R366, R367) -/

def State.mailOf (s : State) (m : Nat) : List (Word × Word) := Tab.getD s.tug.mail m []
def State.setMail (s : State) (m : Nat) (l : List (Word × Word)) : State :=
  { s with tug := { s.tug with mail := if l.isEmpty then Tab.del s.tug.mail m else Tab.put s.tug.mail m l } }
def State.mboxOwner (s : State) (m : Nat) : Nat := s.get F.tugMboxCfg_owner m
/-- Whether a post is accepted: the mailbox is in use and its owner is READY, RUNNING or WAITING. -/
def State.mboxTakes (s : State) (m : Nat) : Bool :=
  let st := s.taskState (s.mboxOwner m)
  s.bit F.tugMboxCfg_en m && (st == tREADY || st == tRUNNING || st == tWAITING)
/-- Store a message and signal the owner. -/
def State.mboxPut (s : State) (m : Nat) (a b : Word) : State :=
  (s.setMail m (s.mailOf m ++ [(a, b)])).signal (s.mboxOwner m) (BitVec.ofNat 32 (2 ^ s.get F.tugMboxCfg_flag m))

/-! ### Accesses (R53, Table 12.2) -/

/-- What an access gives: done with the value read, a trap, or a stall without effect (R365). -/
inductive TugRes
  | ok (s : State) (v : Word)
  | trap (s : State) (cause : Nat)
  | stall

/-- May the running task use the mailbox windows, the exception queue window? -/
def State.mayMbox (s : State) (t : Core) : Bool := s.tsup t || (s.taskW3 t).getLsbD 36
def State.mayExq (s : State) (t : Core) : Bool := s.tsup t || (s.taskW3 t).getLsbD 37

/-- HEAD of the exception queue is written: the entries before it are freed (R368). -/
def State.exqFree (s : State) (v : Word) : State :=
  let size := 2 ^ s.get F.tugExqCfg_log2 0
  let h := v.toNat % size
  let n := (h + size - s.tug.exqHead) % size
  if n ≤ s.tug.exqCount then { s with tug := { s.tug with exqHead := h, exqCount := s.tug.exqCount - n } } else s

/-- TIMER is written: one shot after `v` µs; 0 cancels it (Table 12.2). -/
def State.timerSet (s : State) (t : Core) (v : Word) : State :=
  s.setTcore t.val { s.tcore t.val with timer := if v = 0 then none else some (s.ns + v.toNat * 1000) }

/-- IPI is written: source 2 on each named core. -/
def State.ipiSend (s : State) (v : Word) : State :=
  (List.range 16).foldl (fun s t => if v.getLsbD t then s.latchIrq t 2 else s) s

/-- KICK is written (R372). -/
def State.sysKickWrite (s : State) (v : Word) : State :=
  match s.tug.sysKick with
  | none => if v = 0x4B58 then { s with tug := { s.tug with sysKick := some s.ns } } else s.bump F.tugCntSyswdBad 0
  | some t0 =>
    let s := { s with tug := { s.tug with sysKick := none } }
    if v = 0xB4A7 ∧ s.ns ≤ t0 + 1000000 then
      { s with tug := { s.tug with sysDue := s.tug.sysDue.map (fun _ => s.ns + s.get F.tugSyswdCfg_timeout 0 * 1000000) } }
    else s.bump F.tugCntSyswdBad 0

/-- SEND1: the message of the SEND0 latch is posted, discarded where the owner does not take it, or stalled while the mailbox is
full (R367). -/
def State.send1Write (s : State) (t : Core) (m : Nat) (v : Word) : TugRes :=
  if s.mboxTakes m = false then .ok (s.bump F.tugCntMboxRefused 0) 0
  else if 256 ≤ (s.mailOf m).length then .stall
  else .ok (s.mboxPut m (s.tcore t.val).ctx.send0 v) 0

/-- SEND0 latches the first word of a message in the task's context. -/
def State.send0Write (s : State) (t : Core) (v : Word) : State :=
  let tc := s.tcore t.val
  s.setTcore t.val { tc with ctx := { tc.ctx with send0 := v } }

/-- What a mailbox's window has latched. -/
def State.setLatch (s : State) (m : Nat) (v : Option (Word × Word)) : State :=
  { s with tug := { s.tug with recv := match v with | some w => Tab.put s.tug.recv m w | none => Tab.del s.tug.recv m } }

/-- RECV0: the owner latches the head message and reads its word 0; an empty mailbox reads 0. -/
def State.recv0Read (s : State) (t : Core) (m : Nat) : TugRes :=
  if s.running? t.val = some (s.mboxOwner m) then
    match s.mailOf m with
    | [] => .ok (s.setLatch m none) 0
    | (a, b) :: _ => .ok (s.setLatch m (some (a, b))) a
  else .trap s tcD_FAULT

/-- RECV1: word 1 of the latched message, which is removed; with nothing latched it reads 0. -/
def State.recv1Read (s : State) (t : Core) (m : Nat) : TugRes :=
  if s.running? t.val = some (s.mboxOwner m) then
    match Tab.get? s.tug.recv m with
    | some (_, b) => .ok ((s.setMail m (s.mailOf m).tail).setLatch m none) b
    | none => .ok s 0
  else .trap s tcD_FAULT

/-- A load of `n` bytes at `a` by core `t`; `ue` says that the memory word read has an uncorrectable error now. -/
def State.tugLoad (s : State) (t : Core) (a n : Nat) (ue : Bool) : TugRes :=
  if a % n ≠ 0 then .trap s tcMISALIGN
  else
    match dReg a n with
    | .mbox m off =>
      if n ≠ 8 ∨ s.mayMbox t = false then .trap s tcD_FAULT
      else if off = 0x10 then s.recv0Read t m
      else if off = 0x18 then s.recv1Read t m
      else if off = 0x20 then .ok s (BitVec.ofNat 64 (s.mailOf m).length)
      else .trap s tcD_FAULT
    | .exq off =>
      if n ≠ 8 ∨ s.mayExq t = false then .trap s tcD_FAULT
      else if off = 0 then .ok s (BitVec.ofNat 64 s.tug.exqHead)
      else if off = 8 then .ok s (BitVec.ofNat 64 s.tug.exqTail)
      else if off = 0x10 then .ok s (BitVec.ofNat 64 s.tug.exqCount)
      else .trap s tcD_FAULT
    | .core off => if n = 8 ∧ off = 0x18 ∧ s.tsup t = true then .ok s (BitVec.ofNat 64 (s.tlNs / 1000)) else .trap s tcD_FAULT
    | _ =>
      if s.memAllowed t a n = false then .trap s tcD_FAULT
      else if ue ∨ s.wordBad t.val a = true then
        .trap (s.mcheck (if hbmWin ≤ a then 0 else 3) (if hbmWin ≤ a then a - hbmWin else dCell t.val a) t.val) tcMEM_ECC
      else .ok s (BitVec.ofNat 64 (leNat (s.dRead t.val a n)))

/-- Count a D access of core `t` (Tables 12.9, 12.10). -/
def State.tugAccCount (s : State) (t : Core) (a n : Nat) (store : Bool) : State :=
  let s := s.ccnt t.val (if store then 4 else 3) 1
  match dReg a n with
  | .hbm => (s.ccnt t.val 6 1).pmc (s.tugEv t (if store then 0x0002 else 0x0001) n (some (a - hbmWin)))
  | .shared => s.pmc (s.tugEv t 0x0E02 1 (some a))
  | _ => s

/-- Whole words that a store rewrites hold no error any more. -/
def State.wordMend (s : State) (t a n : Nat) : State :=
  if n < 8 then s
  else if hbmWin ≤ a then { s with hbmBad := s.hbmBad.filter (· != (a - hbmWin) / 8) }
  else { s with tug := { s.tug with bad := s.tug.bad.filter (· != dCell t a / 8) } }

/-- A store of the low `n` bytes of `v` at `a` by core `t`. -/
def State.tugStore (s : State) (t : Core) (a n : Nat) (v : Word) : TugRes :=
  if a % n ≠ 0 then .trap s tcMISALIGN
  else
    match dReg a n with
    | .mbox m off =>
      if n ≠ 8 ∨ s.mayMbox t = false then .trap s tcD_FAULT
      else if off = 0 then .ok (s.send0Write t v) 0
      else if off = 8 then s.send1Write t m v
      else .trap s tcD_FAULT
    | .exq off => if n = 8 ∧ s.mayExq t = true ∧ off = 0 then .ok (s.exqFree v) 0 else .trap s tcD_FAULT
    | .core off =>
      if n ≠ 8 then .trap s tcD_FAULT
      else if off = 0 then .ok (s.wdRestart t.val) 0
      else if s.tsup t = false then .trap s tcD_FAULT
      else if off = 8 then .ok (s.timerSet t v) 0
      else if off = 0x10 then .ok (s.ipiSend v) 0
      else .trap s tcD_FAULT
    | .syswd off => if n = 8 ∧ off = 0 ∧ s.tsup t = true then .ok (s.sysKickWrite v) 0 else .trap s tcD_FAULT
    | _ =>
      if s.memAllowed t a n = false then .trap s tcD_FAULT
      else .ok ((s.dWrite t.val a (leBytes n v.toNat)).wordMend t.val a n) 0

/-- Finish an access: the register, the retired instruction; or its trap with the address as detail; or a stall. -/
def State.tugFinish (s : State) (t : Core) (rd : Option RegNo) (a : Word) (n : Nat) (r : TugRes) : State :=
  match r with
  | .stall => s
  | .trap s2 cause => s2.trapHere t cause a
  | .ok s2 v =>
    let s2 := s2.tugAccCount t a.toNat n rd.isNone
    (match rd with | some r => s2.setG (.tug t) r v | none => s2).tugDone t

end Sys2Proof.Machine
end

