-- ==== Sys2Proof/Machine/Compl.lean ====
section
/-!
DEFINITION. Machine/Compl.lean: completion entries and rings (Table 11.3, R332-R334).
-/
namespace Sys2Proof.Machine

/-- The number under which an issuer's parked and current CTLs are kept. -/
def issKey : Issuer → Nat
  | .chan c => c.val
  | .tug t => 1024 + t.val

/-- The engine that serves an issuer: CE0 stands where no engine holds it (log entry 26). -/
def State.engineOf (s : State) (iss : Issuer) : Nat :=
  match s.cmd.engines.find? (fun e => e.2 = iss) with
  | some e => e.1
  | none => 0

/-- One completion entry without its phase word (Table 11.3). -/
def complBytes (status tag op progress slot master : Nat) (res : List Word) (phase : Bool) : List Byte :=
  leBytes 1 status ++ leBytes 1 (tag % 64) ++ leBytes 2 (op % 1024) ++ leBytes 4 progress ++ leBytes 4 slot
    ++ leBytes 1 (res.take 5).length ++ leBytes 1 master ++ leBytes 2 0
    ++ (List.range 5).flatMap (fun i => leBytes 8 (res.getD i 0).toNat) ++ leBytes 4 0 ++ leBytes 4 phase.toNat

/-- Whether a channel's completion ring is full (R332). -/
def State.cqFull (s : State) (c : Nat) : Bool :=
  let ch := s.chan c
  (ch.cqTail + 1) % 2 ^ ch.log2cq == ch.cqHead

/-- Result words go to g30 and g31 of a channel (R333). -/
def State.chanResults (s : State) (c : Chan) (res : List Word) : State :=
  let s := match res with | a :: _ => s.setG (.chan c) 30 a | [] => s
  match res with | _ :: b :: _ => s.setG (.chan c) 31 b | _ => s

/-- The micro-cycles that a CTL took are counted as it completes, where a device counter counts them (Table 12.10, event 0x0D02): the spec
does not give their number. -/
def State.microCount (s : State) (master : Nat) : State :=
  if (List.range 32).any (fun n => s.get F.pmcCntCfg_event n == 0x0D02) then
    (s.pmc { code := 0x0D02, master := master, n := s.freeVal.toNat % 2 ^ 48 }).useFree
  else s

/-- Write the completion of a CTL (R332-R334). `task` is the task that issued a tug core's CTL, `sup` whether it did so at supervisor level. -/
def State.complete (s : State) (iss : Issuer) (op tag slot status progress : Nat) (res : List Word) (task : Option Nat)
    (sup : Option Bool) : State :=
  let master := 0x10 + s.engineOf iss
  let s := (s.bump F.cmdCntExec (s.engineOf iss)).pmc
    { code := 0x0D01, master := master, sup := sup, task := match task with | some k => s.taskHandle k | none => 0 }
  let s := s.microCount master
  match iss with
  | .chan c =>
    let s := s.chanResults c res
    let ch := s.chan c.val
    if ch.mute then s else
    let s := if s.chanRuns c.val then s.chPut c.val (ch.cq + ch.cqTail * 64) (complBytes status tag op progress slot master res ch.phase) else s
    let next := (ch.cqTail + 1) % 2 ^ ch.log2cq
    let ch := s.chan c.val
    (s.setChan c.val { ch with cqTail := next, phase := if next = 0 then !ch.phase else ch.phase }).entryWritten c.val
  | .tug t =>
    let p := s.tport t.val
    let base := s.get F.cmdTugCq_base t.val
    let size := 2 ^ s.get F.cmdTugCq_log2 t.val
    let s := s.dWrite t.val (base + p.cqTail * 64) (complBytes status tag op progress slot master res p.phase)
    let next := (p.cqTail + 1) % size
    let s := s.setTport t.val { p with cqTail := next, phase := if next = 0 then !p.phase else p.phase }
    match task with
    | some k => s.signal k (BitVec.ofNat 32 (2 ^ 30))
    | none => s

/-- Whether a channel is an OPEN CMD channel. -/
def State.cmdOpen (s : State) (c : Nat) : Bool := s.get F.cmdChState_state c == 1 && s.get F.cmdChState_type c == 1

/-- A word that a K stream may not hold: it completes with BAD_PARAM under op 0x000 (R59, R331). -/
def State.kBadWord (s : State) (c : Chan) (slot : Nat) : State :=
  s.complete (.chan c) 0 0 slot stBAD_PARAM 0 [] none none

end Sys2Proof.Machine
end

