-- ==== Sys2Proof/Machine/Stamp.lean ====
section
/-!
DEFINITION. Machine/Stamp.lean: time and link events (R276, R324), the flags of stamps (R299, R315), the formation of receive and
transmit stamps (Table 10.1), and the transmit stamp FIFOs (R304, R305).
-/
namespace Sys2Proof.Machine

/-! ### Events -/

/-- A time event (Tables 10.10, 10.11). Table 10.10 gives Info for two types and no Value for one: what it does not give is a
free value. -/
def State.timeEvent (s : State) (ty unit : Nat) (info : Option Nat) (value : Option Int) : State :=
  let i := info.getD s.freeVal.toNat
  let v := match value with | some x => (x.emod (2 ^ 64)).toNat | none => s.useFree.freeVal.toNat
  let body := leBytes 1 ty ++ leBytes 1 unit ++ leBytes 1 i ++ leBytes 5 0 ++ leBytes 8 v ++ leBytes 16 s.ktsTl.toNat
  ((s.captureRec 4 body).evtPost (s.get F.timeEvtChan_handle 0) 5 body).useFree.useFree

/-- A link event (Tables 9.2, 9.3); none is posted in RESET and HALT (R275). -/
def State.linkEvent (s : State) (ty p info : Nat) : State :=
  if s.modeNo = mRESET ∨ s.modeNo = mHALT then s
  else
    let body := leBytes 1 ty ++ leBytes 1 p ++ leBytes 1 info ++ leBytes 13 0 ++ leBytes 16 s.ktsTl.toNat
    (s.captureRec 6 body).evtPost (s.get F.portEvtChan_handle 0) 4 body

/-! ### Flags (R299, R315) -/

abbrev sFREE : Nat := 0
abbrev sACQUIRE : Nat := 1
abbrev sLOCKED : Nat := 2
abbrev sHOLDOVER : Nat := 3
abbrev sSUSPECT : Nat := 4

/-- Whether a base's own state makes its stamps DEGRADED (R315). -/
def State.baseDegraded (s : State) (b : Nat) : Bool :=
  let st := s.get F.timeTbStatus_state b
  st == sFREE || st == sACQUIRE || (st == sLOCKED && s.bit F.timeTbStatus_slewing b)
    || (st == sHOLDOVER && (!(s.bit F.timeTbStatus_quality b) || (s.base b).degraded))

/-- The flags of a base's stamps and readings, [0] HOLDOVER, [1] SUSPECT, [3] DEGRADED (Table 0.7). -/
def State.baseFlags (s : State) (b : Nat) : Nat :=
  let st := s.get F.timeTbStatus_state b
  (st == sHOLDOVER).toNat + 2 * (st == sSUSPECT).toNat + 8 * (s.baseDegraded b).toNat

/-- A stamp on base `b` (0-7, 15 TL) of the instant `num / den` ns from now, cut to 2^-16 ns (R295). -/
def State.stampOn (s : State) (b : Nat) (portBad pre : Bool) (num : Int) (den : Nat) : Stamp :=
  let t40 : Nat := if b < 8 then (s.base b).t40 else s.tlNs * 2 ^ 40
  let n := ((((t40 : Int) * den + num * 2 ^ 40) * 65536) / (2 ^ 40 * den)).toNat
  let own := if b < 8 then s.baseFlags b else 0
  kts b ((own ||| 8 * portBad.toNat) ||| 4 * pre.toNat) (if b < 8 then s.get F.timeTbStatus_epoch b else 0) (n / 65536) (n % 65536)

/-- Whether a base gives stamps (R292). -/
def State.baseRuns (s : State) (b : Nat) : Bool := if b < 8 then (s.base b).running else s.time.tl

/-- 32 times the lane rate of a port in Gb/s (Table 9.1). -/
def State.laneX (s : State) (p : Nat) : Nat :=
  if p < 128 then
    match s.pbMode p with
    | 1 | 2 | 4 => 3400
    | 3 => 1700
    | 5 | 6 | 7 => 825
    | 8 => 330
    | _ => 40
  else if s.bit F.portCfg_mgmtRate (portIx p) then 330 else 40

/-- A 16-bit field as a signed number. -/
def signed16 (n : Nat) : Int := (BitVec.ofNat 16 n).toInt

/-- The skew of lane `l` of a port, in ps (R270). -/
def State.skewPs (s : State) (p l : Nat) : Int :=
  if l = 0 then 0 else signed16 (s.get F.portStatus_skew (portIx p) / 2 ^ (16 * (l - 1)))

/-- Whether a port's own causes make its stamps DEGRADED (R301, R302). -/
def State.calBad (s : State) (p : Nat) : Bool := s.get F.timePortCal_calState p != 2

/-- The part of Table 10.1 beyond V_b(k): −φ + n × t_bit + `ps`, as a fraction in ns. -/
def State.stampTerms (s : State) (p : Nat) (bit phi : BitVec 16) (ps : Int) : Int × Nat :=
  let x := s.laneX p
  (-(phi.toNat * 1000 * x : Nat) + (32 * 256 * 1000 * bit.toNat : Nat) + ps * ((256 * x : Nat) : Int), 256000 * x)

/-- The receive stamp of a frame on base `b` (Table 10.1). -/
def State.rxStamp (s : State) (p lane b : Nat) (bit phi : BitVec 16) (pre wake : Bool) : Stamp :=
  let t := s.stampTerms p bit phi
    (-(s.skewPs p lane) - s.get F.timePortCal_dPmaRx p - signed16 (s.get F.timePortCfg_boardRx p))
  s.stampOn b (s.calBad p || wake) pre t.1 t.2

/-- The transmit stamp of a frame on base `b` (Table 10.1). -/
def State.txStamp (s : State) (p b : Nat) (bit phi : BitVec 16) (pre : Bool) : Stamp :=
  let t := s.stampTerms p bit phi ((s.get F.timePortCal_dPmaTx p : Int) + signed16 (s.get F.timePortCfg_boardTx p))
  s.stampOn b (s.calBad p) pre t.1 t.2

/-- The predicted transmit time T on base `b` (R303); `phic` is the phase from the commit edge to the next word edge, in 2^-8 ns. -/
def State.predicted (s : State) (p b : Nat) (phic : BitVec 16) : Stamp :=
  let ps : Int := (s.get F.timePortKtx_kTx p : Int) + s.get F.timePortCal_dPmaTx p + signed16 (s.get F.timePortCfg_boardTx p)
  s.stampOn b (s.calBad p) false (phic.toNat * 1000 + ps * 256) 256000

/-! ### The transmit stamp FIFOs (R304-R306) -/

def State.txts (s : State) (p : Nat) : List TxEntry := Tab.getD s.time.txts p []
def State.setTxts (s : State) (p : Nat) (l : List TxEntry) : State :=
  { s with time := { s.time with txts := Tab.put s.time.txts p l } }

/-- Lose a stamp to a full FIFO (R305). -/
def State.txtsLose (s : State) (p seq : Nat) : State :=
  let n := s.get F.timeTxtsStatus_lost p
  let s := if n = 0 then { s with time := { s.time with lostSeq := Tab.put s.time.lostSeq p seq } } else s
  (s.set F.timeTxtsStatus_lost p (Nat.min (n + 1) 65535)).bump F.timeCntTxtsLost p

/-- Write an entry into a port's FIFO, or lose it (R304, R305). -/
def State.txtsPut (s : State) (p : Nat) (e : TxEntry) : State :=
  if (s.txts p).length < 64 then
    let s := s.setTxts p (s.txts p ++ [e])
    s.bumpIf (e.kind == 3) F.timeCntTxtsFlushed p
  else s.txtsLose p e.seq

/-- A slot has freed: where stamps were lost, one GAP entry takes it (R305). -/
def State.txtsGap (s : State) (p : Nat) : State :=
  let n := s.get F.timeTxtsStatus_lost p
  if n = 0 ∨ 64 ≤ (s.txts p).length then s
  else
    let e : TxEntry := { kind := 2, port := 0, seq := Tab.getD s.time.lostSeq p 0, lost := n, reason := 0, stamp := 0 }
    ((s.setTxts p (s.txts p ++ [e])).set F.timeTxtsStatus_lost p 0).timeEvent 11 p none (some n)

/-- The bytes of an entry (Table 10.3). -/
def txtsBytes (e : TxEntry) : List Byte :=
  leBytes 1 e.kind ++ leBytes 1 e.port ++ leBytes 2 e.seq ++ leBytes 2 e.lost ++ leBytes 1 e.reason ++ leBytes 9 0
    ++ leBytes 16 e.stamp.toNat

/-- A copy with TSREQ was dropped after its enqueue (R304); only the ports 0 to 129 have a FIFO. -/
def State.txtsFlushed (s : State) (cp : Copy) (reason : Nat) : State :=
  if cp.treq.getLsbD 0 = true ∧ cp.port < 130 then
    s.txtsPut cp.port { kind := 3, port := mget cp.man mPort, seq := cp.seqId, lost := 0, reason := reason, stamp := 0 }
  else s

/-- A copy is dropped at egress quay `e` after its enqueue: its FLUSHED entry, and its end (R195, R216, R274, R304). -/
def State.copyDrop (s : State) (e : Nat) (cp : Copy) (reason : Nat) : State := (s.txtsFlushed cp reason).copyEnd e cp

end Sys2Proof.Machine
end

