-- ==== Sys2Proof/Machine/Engine.lean ====
section
/-!
DEFINITION. Machine/Engine.lean: how an instruction is issued in each profile (R28-R33, R59-R64), how a program of profile P, S or
E ends or is stopped (R58, R61, R64, R79, R180), and how the results of lookups and meters find their contexts.
-/
namespace Sys2Proof.Machine

/-- Maximum budgets (Table 2.1). -/
def budgetOf : Profile → Nat
  | .p => 160
  | .s => 64
  | .e => 120
  | _ => 0

/-- The unit of a context: quay, slice or core. -/
def ctxUnit : CtxId → Nat
  | .pilot q _ _ => q.val
  | .stev sl _ => sl.val
  | .rew q _ _ => q.val
  | .tug t => t.val
  | .chan _ => 0

/-- Results still outstanding lose their register: the hit-bit update of a lookup still takes place (R44). -/
def State.orphan (s : State) (x : CtxId) : State :=
  { s with eng := { s.eng with lkps := s.eng.lkps.map (fun e => (e.1, if e.2.x = x then { e.2 with live := false } else e.2)),
                               mtrs := s.eng.mtrs.map (fun e => (e.1, if e.2.x = x then { e.2 with live := false } else e.2)) } }

/-- A context is free again. -/
def State.ctxFree (s : State) (x : CtxId) : State := ((s.orphan x).delCtx x).zeroG x

/-! ### Profile P: the end of a parse program -/

/-- The program of a pilot context ends: its manifest goes to the frame, merged with a flow pass that has returned (R48), and the
frame is resolved as soon as R79 can be. -/
def State.pilotEnd (s : State) (x : CtxId) (stopped : Bool) : State :=
  match s.ctx? x with
  | none => s
  | some c =>
    let s := s.ctxFree x
    let s := s.pmc (frameEv 0x0402 (0x20 + ctxUnit x) c.man false c.cyc)
    (s.updFrame c.fid (fun f => { f with man := manMerge c.man f.flowOut f.flowOutW 128, manW := c.manW ||| f.flowOutW,
                                         parse := c.parse, stage := .parsed, stopped := stopped })).resolveFrame c.fid

/-- A pilot's program is stopped with a drop reason and, where `cause` is given, a copy request under it (R61, Table 2.16). -/
def State.pilotStop (s : State) (x : CtxId) (reason : Nat) (cause : Option Nat) : State :=
  (s.updCtx x (fun c => { c with man := match cause with | some k => mCopyReq (mDrop c.man reason) k | none => mDrop c.man reason })).pilotEnd x true

/-! ### Profile E: the end of an egress program -/

/-- The outgoing frame as it stands: H, then the rest, then its FCS. -/
def rewBytes (c : Ctx) : List Byte :=
  let l := wireBytes c.h 0 c.hlen ++ c.tail
  l ++ fcsOf l

/-- A selected frame of TM port `p` has passed its commit point or ended before it (R235). -/
def State.outDone (s : State) (p : Nat) : State := s.set F.tmPortStatus_outstanding p (s.get F.tmPortStatus_outstanding p - 1)

/-- Report a copy whose cargo seal check failed at egress quay `e` (R452, R453, Table 16.4). -/
def State.sealReport (s : State) (e : Nat) (cp : Copy) : State :=
  let seq := match s.desc? cp.bid with | some d => d.seq.toNat | none => 0
  let s := (s.bump F.rasCntSealFail e).rasEvent 2 cp.port (0x30 + e) (cp.queue % 2 ^ 17) (cp.bid + seq * 2 ^ 32)
  { s with mode := { s.mode with sealFails := s.mode.sealFails + 1 } }

/-- The copy of a rewrite context ends without being sent, with a reason; a failed seal check is reported all the same. -/
def State.rewDrop (s : State) (x : CtxId) (reason : Nat) : State :=
  match s.ctx? x with
  | none => s
  | some c =>
    let s := s.ctxFree x
    match s.copy? c.cid with
    | some cp =>
      let s := if c.sealBad then s.sealReport (ctxUnit x) cp else s
      ((s.delCopy c.cid).outDone cp.port).copyDrop (ctxUnit x) cp reason
    | none => s

/-- A copy for the exception path from a rewrite context (R61, R180). -/
def State.rewCopyAsk (s : State) (x : CtxId) (cause : Nat) : State :=
  match s.ctx? x with
  | none => s
  | some c =>
    match s.copy? c.cid with
    | some cp => s.copyAsk cause (0x30 + ctxUnit x) c.man (s.copyStamps c.man) (rewBytes c) cp.flight
    | none => s

/-- The copy that an egress program has requested goes to the exception path. -/
def State.rewAsked (s : State) (x : CtxId) : State :=
  match (s.ctx? x).bind (·.excCopy) with
  | some k => s.rewCopyAsk x k.toNat
  | none => s

/-- An egress program ends: a copy it requested goes to the exception path, and the copy waits for its commit point. -/
def State.rewEnd (s : State) (x : CtxId) : State :=
  (s.rewAsked x).updCtx x (fun c => { c with ended := true, excCopy := none })

/-! ### Profile S: the berth of a stevedore's pass -/

/-- The slice and berth of a stevedore's context. -/
def State.passOf (s : State) (x : CtxId) : Nat × Nat := (ctxUnit x, ((s.ctx? x).map (·.berth)).getD 0)
/-- Change the berth of a stevedore's pass. -/
def State.updBerth (s : State) (sl b : Nat) (f : BerthSt → BerthSt) : State :=
  match s.berth? sl b with
  | some st => s.setBerth sl b (f st)
  | none => s

/-! ### Faults and the budget (R61, R64) -/

/-- Count a fault in the unit's program-fault counter (R64). -/
def State.faultCount (s : State) (x : CtxId) : State :=
  match x with
  | .pilot q _ _ => s.bump F.quayCntProgramFault q.val
  | .stev sl _ => s.bump F.ledgerCntProgramFault sl.val
  | .rew q _ _ => s.bump F.egrCntProgramFault q.val
  | _ => s

/-- A fault of a stevedore's pass: discarded, its chain told (R64, R156). -/
def State.stevFault (s : State) (x : CtxId) : State :=
  let u := s.passOf x
  match s.berth? u.1 u.2 with
  | none => s
  | some st => ((s.passStop u.1 u.2 0 st.status rPROGRAM_FAULT).chainFault u.1 st).passSettleN u.1 3

/-- The next instruction would pass the budget (R61). -/
def State.stopBudget (s : State) (x : CtxId) : State :=
  let s := s.faultCount x
  match x with
  | .pilot q _ _ =>
    ((s.bump F.quayCntParseBudget q.val).updCtx x (fun c => { c with man := mraise c.man pfBUDGET })).pilotStop x rBUDGET (some xPARSE_BUDGET)
  | .stev sl _ =>
    let b := (s.passOf x).2
    (s.passStop sl.val b (2 ^ ffBUDGET) stTIMEOUT rBUDGET).passSettleN sl.val 3
  | .rew q _ _ => (((s.rewCopyAsk x xPROGRAM_TRAP).rewDrop x rBUDGET).bump F.egrCntProgDrop q.val)
  | _ => s

/-- A fetched word fails its check, or was never loaded (Table 2.16). -/
def State.stopFetch (s : State) (x : CtxId) (parity : Bool) : State :=
  let s := s.faultCount x
  let s := if parity then s.rasOther (ctxUnit x) (match x with | .pilot q _ _ => 0x20 + q.val | .stev sl _ => 0x40 + sl.val | _ => 0x30 + ctxUnit x)
    (((s.ctx? x).map (·.pc)).getD 0) else s
  match x with
  | .pilot _ _ _ => s.pilotStop x rPROGRAM_FAULT (some xPROGRAM_TRAP)
  | .stev _ _ => s.stevFault x
  | .rew q _ _ => (s.rewDrop x rPROGRAM_FAULT).bump F.egrCntProgDrop q.val
  | _ => s

/-! ### Issue (R31, R32, R59, R60) -/

/-- Whether a register of a context waits for a result. -/
def isPending (c : Ctx) (l : List RegNo) : Bool := c.pend.any (fun p => l.contains p.1)

/-- Whether an egress program has run past its last word, which acts as END (R180). -/
def State.pastEnd (s : State) (x : CtxId) (c : Ctx) : Bool :=
  match x with
  | .rew q _ _ =>
    c.prog != 0 && (match Tab.get? s.eng.progs (progKey 2 q.val c.gen (c.pc / 4)) with
      | some w => w.load != c.prog
      | none => true)
  | _ => false

/-- Issue one instruction of profile P, S or E: `ok` says that the word is legal, `cost` its cycles, `uses` the registers it
reads or writes. Nothing happens without a running program, or while a register it uses is pending (R32). -/
def engine (x : CtxId) (mn : String) (ok : Bool) (cost : Nat) (uses : List RegNo) (s : State) (body : Ctx → State → State) : Outc :=
  if ok = false then .refused (.rejectedByLoad mn)
  else
    match s.ctx? x with
    | none => .next s
    | some c =>
      if c.ended = true ∨ isPending c uses = true then .next s
      else if s.pastEnd x c then .next (s.rewEnd x)
      else
        match s.fetch x c.gen c.pc with
        | .parity => .next (s.stopFetch x true)
        | .unloaded => .next (s.stopFetch x false)
        | .good =>
          if budgetOf x.profile < c.cyc + cost then .next (s.stopBudget x)
          else
            let c := { c with cyc := c.cyc + cost, pc := c.pc + 4 }
            .next (body c (s.setCtx x c))

/-- Issue an instruction that acts on general registers alone, in any profile: in profile K where `k` allows it (R59). -/
def issue (x : CtxId) (mn : String) (ok k : Bool) (uses : List RegNo) (s : State) (f : State → State) : Outc :=
  match x with
  | .tug t => .next (s.tugRun t ok (fun s => (f s).tugDone t))
  | .chan c => .next (if s.cmdOpen c.val then (if k && ok then f s else s.kBadWord c (s.get F.cmdChState_head c.val)) else s)
  | _ => engine x mn ok 1 uses s (fun _ s => f s)

end Sys2Proof.Machine
end

