-- ==== Sys2Proof/Machine/Move.lean ====
section
/-!
DEFINITION. Machine/Move.lean: field moves, the cursor and header recording (R40-R43, R74, R186, R284, R483), and the special
registers (R33, R34, R56, R65).
-/
namespace Sys2Proof.Machine

/-! ### Waits -/

/-- Whether the last byte of a context's frame has arrived. -/
def State.ctxLen (s : State) (c : Ctx) : Option Nat :=
  match s.frame? c.fid with
  | some f => if f.lenKnown then some f.bytes.length else none
  | none => none
/-- Whether bytes `a .. b - 1` of K wait for the PRP trailer (R284). -/
def prpWaits (c : Ctx) (a b : Nat) : Bool := c.prp && decide (a < 8) && decide (a < b)
/-- Whether bytes `a .. b - 1` of the manifest wait for the frame's length (R74). -/
def State.lenWaits (s : State) (pr : Profile) (c : Ctx) (a b : Nat) : Bool :=
  pr == .p && decide (a < 2) && decide (a < b) && (s.ctxLen c).isNone
/-- Whether bytes of the record window are released to a pass (R154). -/
def State.fReady (s : State) (x : CtxId) (a b : Nat) : Bool :=
  let u := s.passOf x
  match s.berth? u.1 u.2 with
  | some st => (List.range (b - a)).all (fun i => s.released u.1 st (a + i) 1024)
  | none => true
/-- The record window as a pass sees it (R154). -/
def State.fWindow (s : State) (x : CtxId) (c : Ctx) : BitVec 1024 :=
  let u := s.passOf x
  match s.berth? u.1 u.2 with
  | some st => s.fView u.1 st 1024
  | none => c.f
/-- A pass reads bytes that a pass ahead of it has released: it is marked for R156. -/
def State.fMark (s : State) (x : CtxId) : State :=
  let u := s.passOf x
  match s.berth? u.1 u.2 with
  | some st => if (s.predOf u.1 st).isSome then s.setBerth u.1 u.2 { st with fread := true } else s
  | none => s

/-- Whether a field move must wait: for a pending register, the length, the PRP trailer or a release. -/
def State.fieldWaits (s : State) (x : CtxId) (c : Ctx) (f : FieldOp) (cur : Nat) : Bool :=
  let a := fopStart f cur
  let b := fopEnd f cur
  match f.space.toNat with
  | 1 => s.lenWaits x.profile c a b
  | 2 => !(s.fReady x a b)
  | 3 => prpWaits c a b
  | _ => false

/-! ### EXT and EXTC -/

/-- H of a rewrite context with the bytes past the outgoing frame's end read as zeros (R186). -/
def hCut (h : BitVec 2048) (n : Nat) : BitVec 2048 := ofWire 2048 ((wireBytes h 0 256).take n)

/-- The field that an extract reads in profile P, S or E. -/
def State.fieldRead (s : State) (x : CtxId) (c : Ctx) (f : FieldOp) (cur : Nat) (dyn : Bool) : Word :=
  let first := fopFirst f cur
  let w := fopWidth f
  let v := match f.space.toNat with
    | 0 => fieldBe (if dyn && x.profile == .e then hCut c.h c.hlen else c.h) first w
    | 1 => fieldLe c.man first w
    | 2 => fieldLe (s.fWindow x c) first w
    | 3 => fieldBe c.key first w
    | _ => 0
  fopExtend f v

/-- The parse flags of an H read in profile P (R41). -/
def hReadFlags (c : Ctx) (f : FieldOp) (cur : Nat) : Man :=
  let e := fopEnd f cur
  mraiseIf (mraiseIf c.man (decide (256 < e)) pfDEPTH) (decide (c.hlen < 256) && decide (fopStart f cur < 256) && decide (c.hlen < Nat.min e 256)) pfLEN

/-- An extract in profile P, S or E. -/
def extBody (x : CtxId) (rd : RegNo) (f : FieldOp) (dyn : Bool) (c : Ctx) (s : State) : State :=
  let cur := if dyn then c.cur else 0
  let v := s.fieldRead x c f cur dyn
  let s := if f.space.toNat = spF then s.fMark x else s
  let s := if x.profile = .p ∧ f.space.toNat = spH then s.updCtx x (fun c => { c with man := hReadFlags c f cur }) else s
  s.setG x rd v

/-- Issue a field move of an engine, which waits without effect while its field is not ready. -/
def fieldIssue (x : CtxId) (mn : String) (ok dyn : Bool) (rd : RegNo) (f : FieldOp) (s : State) (body : Ctx → State → State) : Outc :=
  match s.ctx? x with
  | some c => if ok && !c.ended && s.fieldWaits x c f (if dyn then c.cur else 0) then .next s else engine x mn ok 1 [rd] s body
  | none => engine x mn ok 1 [rd] s body

/-! ### Space D of a tug core (Table 2.3) -/

/-- The D bytes that a field covers: address and count. -/
def dSpan (s : State) (t : Core) (f : FieldOp) : Nat × Nat :=
  (((s.tcore t.val).ctx.dbase + BitVec.ofNat 64 (fopStart f 0)).toNat, fopEnd f 0 - fopStart f 0)
/-- Whether any byte of a span lies in a bad word. -/
def State.spanBad (s : State) (t : Core) (a n : Nat) : Bool := (List.range n).any (fun i => s.wordBad t.val (a + i))

/-- EXT in profile T. -/
def extTug (t : Core) (rd : RegNo) (f : FieldOp) (s : State) : State :=
  let p := dSpan s t f
  let a := BitVec.ofNat 64 p.1
  if s.memAllowed t p.1 p.2 = false then s.trapHere t tcD_FAULT a
  else if s.spanBad t p.1 p.2 then (s.mcheck (if hbmWin ≤ p.1 then 0 else 3) p.1 t.val).trapHere t tcMEM_ECC a
  else
    let v := leNat (s.dRead t.val p.1 p.2) / 2 ^ (f.bit.toNat % 8) % 2 ^ fopWidth f
    ((s.tugAccCount t p.1 p.2 false).setG (.tug t) rd (fopExtend f (BitVec.ofNat 64 v))).tugDone t

/-- INS in profile T. -/
def insTug (t : Core) (rd : RegNo) (f : FieldOp) (s : State) : State :=
  let p := dSpan s t f
  let a := BitVec.ofNat 64 p.1
  if s.memAllowed t p.1 p.2 = false then s.trapHere t tcD_FAULT a
  else if s.spanBad t p.1 p.2 then (s.mcheck (if hbmWin ≤ p.1 then 0 else 3) p.1 t.val).trapHere t tcMEM_ECC a
  else
    let old : BitVec 72 := BitVec.ofNat 72 (leNat (s.dRead t.val p.1 p.2))
    let v := putLe old (f.bit.toNat % 8) (fopWidth f) (s.g (.tug t) rd)
    ((s.tugAccCount t p.1 p.2 true).dWrite t.val p.1 (leBytes p.2 v.toNat)).tugDone t

/-- EXT (R40, R41). -/
def execExt (x : CtxId) (rd : RegNo) (f : FieldOp) (s : State) : Outc :=
  match x with
  | .tug t => .next (s.tugRun t (wfExt x f false) (extTug t rd f))
  | .chan c => .next (if s.cmdOpen c.val then s.kBadWord c (s.get F.cmdChState_head c.val) else s)
  | _ => fieldIssue x "EXT" (wfExt x f false) false rd f s (extBody x rd f false)

/-- EXTC (R40, R41, R186, R483). -/
def execExtc (x : CtxId) (rd : RegNo) (f : FieldOp) (s : State) : Outc :=
  match x with
  | .tug t => .next (s.tugRun t false id)
  | .chan c => .next (if s.cmdOpen c.val then s.kBadWord c (s.get F.cmdChState_head c.val) else s)
  | _ => fieldIssue x "EXTC" (wfExt x f true) true rd f s (extBody x rd f true)

/-! ### INS and INSC -/

/-- Whether the meter of the record that a pass started with is on. -/
def State.passMeterOn (s : State) (x : CtxId) : Bool :=
  let u := s.passOf x
  match s.berth? u.1 u.2 with
  | some st => wordEn (recWord st.img)
  | none => false

/-- Write a field of the record window; while the record's meter is on, its bytes 0x32 to 0x3F are kept and the write is counted
(R147). -/
def State.recWrite (s : State) (x : CtxId) (first w a b : Nat) (v : Word) : State :=
  match s.ctx? x with
  | none => s
  | some c =>
    let old := s.fWindow x c
    let new := putLe old first w v
    let keep := byteMask 0x32 14
    if s.passMeterOn x && decide (a < 0x40) && decide (0x32 < b) then
      let new := putBits new (8 * 0x32) (8 * 14) (bytesLe old 0x32 14)
      (s.setCtx x { c with f := new, fW := c.fW ||| (byteMask a (b - a) &&& ~~~keep) }).faultCount x
    else s.setCtx x { c with f := new, fW := c.fW ||| byteMask a (b - a) }

/-- Write a field of a space that a context holds. -/
def State.fieldWrite (s : State) (x : CtxId) (f : FieldOp) (cur : Nat) (v : Word) : State :=
  let first := fopFirst f cur
  let w := fopWidth f
  let a := fopStart f cur
  let b := fopEnd f cur
  match f.space.toNat with
  | 0 => s.updCtx x (fun c => { c with h := putBe c.h first w v })
  | 1 => s.updCtx x (fun c => { c with man := putLe c.man first w v &&& ~~~manReserved, manW := c.manW ||| byteMask a (b - a) })
  | 2 => s.recWrite x first w a b v
  | 3 => s.updCtx x (fun c => { c with key := putBe c.key first w v })
  | _ => s

/-- INS (R40). -/
def execIns (x : CtxId) (rd : RegNo) (f : FieldOp) (s : State) : Outc :=
  match x with
  | .tug t => .next (s.tugRun t (wfIns x f false) (insTug t rd f))
  | .chan c => .next (if s.cmdOpen c.val then s.kBadWord c (s.get F.cmdChState_head c.val) else s)
  | _ => fieldIssue x "INS" (wfIns x f false) false rd f s (fun _ s => s.fieldWrite x f 0 (s.g x rd))

/-- Whether a cursor-relative insert lies wholly where the profile may write (R186, R483). -/
def insDynOk (x : CtxId) (c : Ctx) (f : FieldOp) : Bool :=
  let a := fopStart f c.cur
  let b := fopEnd f c.cur
  match f.space.toNat with
  | 0 => decide (b ≤ Nat.min 256 c.hlen)
  | 1 => decide (b ≤ 128) && manWritableRange x.profile a (b - a)
  | 3 => decide (b ≤ 64)
  | _ => false

/-- INSC (R40, R186, R483): a write outside the space or the rights is discarded whole and counted. -/
def execInsc (x : CtxId) (rd : RegNo) (f : FieldOp) (s : State) : Outc :=
  match x with
  | .tug t => .next (s.tugRun t false id)
  | .chan c => .next (if s.cmdOpen c.val then s.kBadWord c (s.get F.cmdChState_head c.val) else s)
  | _ => fieldIssue x "INSC" (wfIns x f true) true rd f s (fun c s =>
      if insDynOk x c f then s.fieldWrite x f c.cur (s.g x rd) else s.faultCount x)

/-! ### HDR and ADVC (R42, R43) -/

/-- An instruction that only engines run: a tug core traps ILLEGAL on it, and a K stream refuses it. -/
def engineOnly (x : CtxId) (mn : String) (ok : Bool) (cost : Nat) (uses : List RegNo) (s : State) (body : Ctx → State → State) : Outc :=
  match x with
  | .tug t => .next (s.tugRun t false id)
  | .chan c => .next (if s.cmdOpen c.val then s.kBadWord c (s.get F.cmdChState_head c.val) else s)
  | _ => engine x mn ok cost uses s body

/-- HDR (R42, R76-R78). -/
def execHdr (x : CtxId) (rd ra : RegNo) (imm : BitVec 16) (s : State) : Outc :=
  engineOnly x "HDR" (wfHdr x rd imm) 1 [ra] s (fun c s =>
    let n := (s.g x ra).toNat + imm.toNat
    let k := mget c.man mHcount
    if k = 12 ∨ 255 < c.cur ∨ 256 < c.cur + n then s.setCtx x { c with man := mraise c.man pfDEPTH }
    else
      let m := putBytesLe (putBytesLe c.man (0x20 + 2 * k) 1 rd.val) (0x21 + 2 * k) 1 c.cur
      let m := mset m mHcount (k + 1)
      let csum := match s.frame? c.fid with | some f => s.csumOn f | none => false
      let r := hdrChecks c.h (s.ctxLen c) csum rd.val c.parse m c.cur n
      let r : Parse × Man := match s.frame? c.fid, r.1.csum with
        | some f, some j => if f.lenKnown then ({ r.1 with csum := none }, if csum then csumRun f.bytes r.2 j else r.2) else r
        | _, _ => r
      s.setCtx x { c with man := r.2, parse := r.1, cur := c.cur + n })

/-- ADVC (R43). -/
def execAdvc (x : CtxId) (rd ra : RegNo) (imm : BitVec 16) (s : State) : Outc :=
  engineOnly x "ADVC" (wfAdvc x rd imm) 1 [ra] s (fun c s =>
    let n := (s.g x ra).toNat + imm.toNat
    if x.profile = .e then s.setCtx x { c with cur := Nat.min (c.cur + n) 256 }
    else if 256 < c.cur + n then s.setCtx x { c with man := mraise c.man pfDEPTH }
    else s.setCtx x { c with cur := c.cur + n })

/-! ### Special registers (Table 2.2) -/

/-- s.ctx: the engine in [15:8] and the context in [7:0]. -/
def ctxNo : CtxId → Nat
  | .pilot _ e c => e.val * 256 + c.val
  | .stev _ e => e.val * 256
  | .rew _ e c => e.val * 256 + c.val
  | _ => 0

/-- A special register of an engine's context; `c` stands after its own charge, so s.pc and s.cyc are those before it. -/
def State.special (s : State) (x : CtxId) (c : Ctx) (n : Nat) : Word :=
  match n with
  | 0 => BitVec.ofNat 64 (c.pc - 4)
  | 2 => BitVec.ofNat 64 (c.cyc - 1)
  | 3 => BitVec.ofNat 64 c.cur
  | 4 => BitVec.ofNat 64 c.gen.toNat
  | 5 => BitVec.ofNat 64 c.pass
  | 6 => BitVec.ofNat 64 (ctxUnit x)
  | 7 => BitVec.ofNat 64 (ctxNo x)
  | 8 => s.now
  | _ => 0

/-- A special register of a tug core; none where the level may not read it (R34, R65). -/
def State.tugSpecial (s : State) (t : Core) (n : Nat) : Option Word :=
  let c := (s.tcore t.val).ctx
  let top := c.slots.head?
  match n with
  | 0 => some c.pc
  | 2 => some (BitVec.ofNat 64 s.coreClk)
  | 6 => some (BitVec.ofNat 64 t.val)
  | 7 => some 0
  | 8 => some s.now
  | 0x14 => some c.dbase
  | 0x15 => some (BitVec.ofNat 64 ((s.running? t.val).elim 0 s.taskHandle))
  | 0x18 | 0x19 | 0x1A | 0x1B => if c.sup || c.cnten then some ((s.tcore t.val).ccnt.getD (n - 0x18) 0) else none
  | 0x20 => if c.sup then some (BitVec.ofNat 64 (c.sup.toNat + 2 * c.inten.toNat + 4 * c.cnten.toNat)) else none
  | 0x21 => if c.sup then some c.tbase else none
  | 0x22 => if c.sup then some ((top.map (·.ra)).getD 0) else none
  | 0x23 => some ((top.map (fun q => q.code.setWidth 64)).getD 0)
  | 0x24 => some ((top.map (·.detail)).getD 0)
  | 0x25 => some (BitVec.ofNat 64 c.slots.length)
  | _ => none

/-- MFS (R33, R56). -/
def execMfs (x : CtxId) (rd ra : RegNo) (imm : BitVec 16) (s : State) : Outc :=
  match x with
  | .tug t => .next (s.tugRun t (wfMfs x ra imm) (fun s =>
      match s.tugSpecial t imm.toNat with
      | some v => (s.setG x rd v).tugDone t
      | none => s.trapHere t tcPRIV (BitVec.ofNat 64 (leNat (s.dRead t.val (s.tpc t).toNat 4)))))
  | _ => engineOnly x "MFS" (wfMfs x ra imm) 1 [rd] s (fun c s => s.setG x rd (s.special x c imm.toNat))

/-- Write a counter of core `t` by MTS: the written value stands, and an increment of the same clock is lost and counted (R374). -/
def State.ccntWrite (s : State) (t : Core) (i : Nat) (v : Word) : State :=
  let s2 := s.tugCount t
  let lost := (s2.tcore t.val).ccnt.getD i 0 != (s.tcore t.val).ccnt.getD i 0
  let tc := s2.tcore t.val
  ((s2.setTcore t.val { tc with ccnt := tc.ccnt.set i v }).bumpIf lost F.tugCntCollision 0).setTpc t (s2.tpc t + 4)

/-- Write a special register of a tug core; the level is judged first (R65). -/
def State.tugSpecialWrite (s : State) (t : Core) (n : Nat) (v : Word) : State :=
  let tc := s.tcore t.val
  let c := tc.ctx
  let put := fun (c : TaskCtx) => (s.setTcore t.val { tc with ctx := c }).tugDone t
  let deny := fun (cause : Nat) => s.trapHere t cause (BitVec.ofNat 64 (leNat (s.dRead t.val (s.tpc t).toNat 4)))
  match n with
  | 0x14 => put { c with dbase := v }
  | 0x20 => if c.sup then put { c with sup := v.getLsbD 0, inten := v.getLsbD 1, cnten := v.getLsbD 2 } else deny tcPRIV
  | 0x21 => if c.sup then put { c with tbase := v &&& ~~~(0xFF : Word) } else deny tcPRIV
  | 0x22 => if c.sup then put { c with slots := match c.slots with | q :: r => { q with ra := v } :: r | [] => [] } else deny tcPRIV
  | _ => if c.sup then s.ccntWrite t (n - 0x18) v else deny tcILLEGAL

/-- MTS (R33, R43, R56, R65). -/
def execMts (x : CtxId) (rd ra : RegNo) (imm : BitVec 16) (s : State) : Outc :=
  match x with
  | .tug t => .next (s.tugRun t (wfMts x rd imm) (fun s => s.tugSpecialWrite t imm.toNat (s.g x ra)))
  | _ => engineOnly x "MTS" (wfMts x rd imm) 1 [ra] s (fun c s => s.setCtx x { c with cur := Nat.min (s.g x ra).toNat 256 })

end Sys2Proof.Machine
end

