-- ==== Sys2Proof/Machine/Branch.lean ====
section
/-!
DEFINITION. Machine/Branch.lean: branches, jumps and the data-plane and core operations of DPC (R50-R52, R58, R66).
-/
namespace Sys2Proof.Machine

/-- Whether a branch is taken (Table 2.13a). -/
def brTaken (cond : Nat) (a b : Word) (flags : Nat) : Bool :=
  match cond with
  | 0 => a == b
  | 1 => a != b
  | 2 => decide (a.toInt < b.toInt)
  | 3 => decide (b.toInt ≤ a.toInt)
  | 4 => decide (a.toNat < b.toNat)
  | 5 => decide (b.toNat ≤ a.toNat)
  | 6 => a.getLsbD (b.toNat % 64)
  | 7 => !(a.getLsbD (b.toNat % 64))
  | 8 => a == 0
  | 9 => a != 0
  | 10 => flags.testBit (b.toNat % 32)
  | _ => true

/-- The second operand of BR: a register, or the 5-bit field zero-extended. -/
def State.brB (s : State) (x : CtxId) (i : Bool) (rb : RegNo) : Word := if i then BitVec.ofNat 64 rb.val else s.g x rb
/-- The registers that BR reads. -/
def brUses (cond : Nat) (i : Bool) (ra rb : RegNo) : List RegNo :=
  if cond = 12 then [] else if i then [ra] else [ra, rb]

/-- BR (R50): s.pc becomes s.pc + 4 × displacement where it is taken. -/
def execBr (x : CtxId) (cond : BitVec 4) (i : Bool) (ra rb : RegNo) (disp : BitVec 11) (s : State) : Outc :=
  let ok := wfBr x cond i ra rb disp
  match x with
  | .tug t => .next (s.tugRun t ok (fun s =>
      if brTaken cond.toNat (s.g x ra) (s.brB x i rb) 0 then
        (s.ccnt t.val 7 1).tugJump t (s.tpc t + 4 * disp.signExtend 64)
      else s.tugDone t))
  | _ => engineOnly x "BR" ok 1 (brUses cond.toNat i ra rb) s (fun c s =>
      if brTaken cond.toNat (s.g x ra) (s.brB x i rb) (mget c.man mPflags) then s.setCtx x { c with pc := c.pc - 4 + 4 * disp.toNat }
      else s)

/-- JAL (R52). -/
def execJal (t : Core) (rd ra : RegNo) (imm : BitVec 16) (s : State) : Outc :=
  .next (s.tugRun t (decide (ra.val = 0)) (fun s => (s.setG (.tug t) rd (s.tpc t + 4)).tugJump t (s.tpc t + 4 * simm imm)))

/-- JR (R52): a target that is not 4-byte aligned traps MISALIGN. -/
def execJr (t : Core) (rd ra rb : RegNo) (func : BitVec 11) (s : State) : Outc :=
  .next (s.tugRun t (decide (rd.val = 0) && decide (rb.val = 0) && decide (func.toNat = 0)) (fun s =>
    let a := s.g (.tug t) ra
    if a.toNat % 4 = 0 then s.tugJump t a else s.trapHere t tcMISALIGN a))

/-! ### DPC (Table 2.13c) -/

/-- NOP (R58). -/
def execNop (x : CtxId) (s : State) : Outc := issue x "NOP" (inProfiles x [.p, .s, .e, .t]) false [] s id

/-- A program of profile P or E ends. -/
def State.progEnd (s : State) (x : CtxId) : State := if x.profile = .p then s.pilotEnd x false else s.rewEnd x

/-- END (R58, R180). -/
def execEndProg (x : CtxId) (s : State) : Outc :=
  engineOnly x "END" (inProfiles x [.p, .e]) 1 [] s (fun _ s => s.progEnd x)

/-- The fields of a stevedore's flow flags and cause in its own context: they travel in the manifest (Table 2.15). -/
def flowFlag (m : Man) (bit cause : Nat) : Man := mset (mset m mFflags (mget m mFflags ||| 2 ^ bit)) mFcause cause

/-- DROP (R58). -/
def execDrop (x : CtxId) (reason : BitVec 8) (s : State) : Outc :=
  engineOnly x "DROP" (inProfiles x [.p, .s, .e]) 1 [] s (fun c s =>
    match x.profile with
    | .s => s.setCtx x { c with man := flowFlag c.man ffDROP reason.toNat }
    | .p => (s.setCtx x { c with man := mDrop c.man reason.toNat }).pilotEnd x false
    | _ => ((s.rewAsked x).rewDrop x reason.toNat).bump F.egrCntProgDrop (ctxUnit x))

/-- EXC (R58, R180). -/
def execExcp (x : CtxId) (cause : BitVec 6) (copy : Bool) (s : State) : Outc :=
  engineOnly x "EXC" (inProfiles x [.p, .s, .e]) 1 [] s (fun c s =>
    match x.profile with
    | .s => s.setCtx x { c with man := flowFlag c.man ffEXC cause.toNat }
    | .p =>
      if copy then s.setCtx x { c with man := mCopyReq c.man cause.toNat }
      else (s.setCtx x { c with man := mExc c.man cause.toNat }).pilotEnd x false
    | _ =>
      if copy then s.setCtx x { c with excCopy := some cause }
      else ((s.rewAsked x).rewCopyAsk x cause.toNat).rewDrop x 0)

/-- RECIRC (R58): on pass 3 the verdict is DROP with reason RECIRC_LIMIT. -/
def execRecirc (x : CtxId) (s : State) : Outc :=
  engineOnly x "RECIRC" (inProfiles x [.p]) 1 [] s (fun c s =>
    (s.setCtx x { c with man := if c.pass = 3 then mDrop c.man rRECIRC_LIMIT else msetBits c.man mAct 0 2 vRECIRCULATE }).pilotEnd x false)

/-- MIRROR (R58): a later MIRROR replaces an earlier one. -/
def execMirror (x : CtxId) (session : BitVec 4) (s : State) : Outc :=
  engineOnly x "MIRROR" (inProfiles x [.p, .e]) 1 [] s (fun c s =>
    if x.profile = .p then s.setCtx x { c with man := msetBits (msetBits c.man mAct 9 4 session.toNat) mAct 13 1 1 }
    else s.setCtx x { c with mirror := some session.toNat })

/-- FEND (R58, R157): the pass ends, and settles once its frame's FCS is known and the passes ahead have. -/
def execFend (x : CtxId) (write delete : Bool) (s : State) : Outc :=
  engineOnly x "FEND" (inProfiles x [.s]) 1 [] s (fun c s =>
    let u := s.passOf x
    let s := s.ctxFree x
    let s := s.updBerth u.1 u.2 (fun st =>
      { st with phase := .heldLen, out := c.f, wrote := c.fW, write := write, delete := delete,
                manOut := c.man, manOutW := c.manW, flags := st.flags ||| BitVec.ofNat 8 (mget c.man mFflags),
                cause := BitVec.ofNat 8 (mget c.man mFcause) })
    s.passSettleN u.1 3)

/-- WAIT (R58): goes on once no result is pending; the waiting is not charged. -/
def execWaitPend (x : CtxId) (s : State) : Outc :=
  match x with
  | .tug t => .next (s.tugRun t true (fun s => s.tugDone t))
  | _ =>
    match s.ctx? x with
    | some c => if !c.ended && !c.pend.isEmpty then .next s else engineOnly x "WAIT" (inProfiles x [.p, .s, .e]) 0 [] s (fun _ s => s)
    | none => engineOnly x "WAIT" (inProfiles x [.p, .s, .e]) 0 [] s (fun _ s => s)

/-- TRAP (R58): SYSCALL with the code as detail; its return address is the next word. -/
def execTrap (t : Core) (code : BitVec 8) (s : State) : Outc :=
  .next (s.tugRun t true (fun s => s.trapEnter t tcSYSCALL (code.setWidth 64) (s.tpc t + 4)))

/-- TRET (R65, R66). -/
def execTret (t : Core) (s : State) : Outc :=
  .next (s.tugRun t true (fun s =>
    let word := BitVec.ofNat 64 (leNat (s.dRead t.val (s.tpc t).toNat 4))
    if s.tsup t = false then s.trapHere t tcPRIV word
    else if (s.tcore t.val).ctx.slots = [] then s.trapHere t tcILLEGAL word
    else (s.tugCount t).trapReturn t))

/-- FENCE (R58, R353): in this model every access completes as it is made. -/
def execFence (t : Core) (s : State) : Outc := .next (s.tugRun t true (fun s => s.tugDone t))

/-- ILLEGAL_INSTRUCTION (R37, R66). -/
def execIllegalInstruction (t : Core) (word : BitVec 32) (s : State) : Outc :=
  .next (s.tugRun t true (fun s => s.trapHere t tcILLEGAL (word.setWidth 64)))

/-- INTERRUPT_TAKEN (R66, R370): the lowest latched source is taken once INTEN is 1. -/
def execInterruptTaken (t : Core) (s : State) : Outc :=
  .next (
    if s.running? t.val = none ∨ (s.tcore t.val).ctx.inten = false then s
    else
      match (List.range 5).find? (fun i => (s.get F.tugCoreStatus_pending t.val).testBit i) with
      | none => s
      | some i =>
        let s := s.set F.tugCoreStatus_pending t.val (s.get F.tugCoreStatus_pending t.val - 2 ^ i)
        s.trapEnter t (0x80 + i) 0 (s.tpc t))

end Sys2Proof.Machine
end

