-- ==== Sys2Proof/Machine/FlowLib.lean ====
section
/-!
DEFINITION. Machine/FlowLib.lean: the flow program library (R167-R173, R491): NAT44 with port blocks, sticky load balancing, TCP
tracking, sequence recovery and the plain record meter. A library program runs as one whole at its dispatch.
-/
namespace Sys2Proof.Machine

/-- What a library program leaves: the record image and which of its bytes it wrote, the manifest and its written bytes, the
drop or exception that it asks for, its status, and whether it writes the record. -/
structure LibRes where
  img : BitVec 1024
  imgW : BitVec 128 := 0
  man : Man
  manW : BitVec 128 := 0
  drop : Option Nat := none
  exc : Option Nat := none
  status : Nat := stOK
  write : Bool := true
  noRoom : Bool := false
  deriving DecidableEq, Repr

abbrev rLEDGER_NOROOM : Nat := 0x09
abbrev rTCP_INVALID : Nat := 0x0A
abbrev rSEQ_DUPLICATE : Nat := 0x0B
abbrev rSEQ_ROGUE : Nat := 0x0C
abbrev rFLOW_METER_RED : Nat := 0x0D
abbrev rFLOW_PARITY : Nat := 0x0E
abbrev rNAT_NO_MAPPING : Nat := 0x0F

/-- Write `k` bytes of the manifest. -/
def LibRes.putM (r : LibRes) (i k x : Nat) : LibRes := { r with man := putBytesLe r.man i k x, manW := r.manW ||| byteMask i k }
/-- Write `k` bytes of the record. -/
def LibRes.putF (r : LibRes) (i k x : Nat) : LibRes := { r with img := putBytesLe r.img i k x, imgW := r.imgW ||| byteMask i k }

/-- The meter step that every library program ends with: `w` is the record's meter word at the start of the pass, `len` the
frame's length (R491). -/
def State.libMeter (s : State) (w len : Nat) (r : LibRes) : LibRes :=
  if r.drop.isNone && r.exc.isNone && wordEn w then
    let q := s.recMeter r.img w 0 len false
    let r := { r with img := q.2, imgW := r.imgW ||| byteMask 0x34 12 }.putM 0x6F 1 q.1
    if q.1 = 2 ∧ s.bit F.ledgerLibParam_redAct 0 = true then { r with drop := some rFLOW_METER_RED } else r
  else r.putM 0x6F 1 3

/-! ### 0xF0: NAT with port blocks (R168, R169) -/

/-- What a search for a translated port ends in: it must wait for a lock or a cache place; no port; a mapping made. -/
inductive NatTry
  | wait
  | full
  | made (s : State) (port : Nat)

/-- Create the reverse record of the first port that can be had, trying the ports given. -/
def State.natTry (s : State) (fwd : List Byte) : List Nat → NatTry
  | [] => .full
  | port :: r =>
    let rk := natReverseKey fwd port
    let sr := s.sliceOf 0xF0 rk
    if s.lockHeld sr (s.hsOf rk) then .wait
    else match (s.slice sr).findKey rk with
      | some _ => s.natTry fwd r
      | none =>
        match s.makePlace sr (s.hsOf rk) with
        | none => .wait
        | some s1 =>
          match s1.reserveRoom sr rk with
          | (s2, some (n, stash)) =>
            let img := blankRec false rk
            let img := putBytesLe img 0x40 4 (beNat ((fwd.drop 9).take 4))
            let img := putBytesLe img 0x44 2 (beNat ((fwd.drop 13).take 2))
            let img := putBytesLe img 0x46 2 (beNat ((fwd.drop 7).take 2))
            .made (s2.createRec sr n stash rk (s2.commitFields false (s2.createFields false 0xF0 rk img))) port
          | (_, none) => s.natTry fwd r

/-- The clear bits of a block's bitmap from bit `hs` [7:0] on, wrapping, as ports: at most four are tried. -/
def State.natPorts (s : State) (fwd : List Byte) (hs : Word) (block : Rec) : List Nat :=
  let n := 2 ^ natB s
  let first := hs.toNat % 256 % n
  let base := beNat ((fwd.drop 4).take 2) * n % 65536
  (((List.range n).map (fun j => (first + j) % n)).filter (fun i => !(block.img.getLsbD (8 * 0x40 + i)))).take 4
    |>.map (fun i => base + i)

/-- The flow result of a NAT pass. -/
def natResult (r : LibRes) (addr port dir : Nat) : LibRes := ((r.putM 0x58 4 addr).putM 0x5C 2 port).putM 0x5E 1 dir

/-- A NAT pass; none where it must wait for another lock (R168). -/
def State.libNat (s : State) (st : BerthSt) (f : BitVec 1024) (len : Nat) : Option (State × LibRes) :=
  let r0 : LibRes := { img := f, man := st.man }
  let dir := (st.key.getD 6 0).toNat
  let addr := beNat (st.key.take 4)
  if (st.key.length = 22 ∧ dir ≠ 0) ∨ (st.key.length = 16 ∧ dir ≠ 1) then some (s, { r0 with status := stBAD_PARAM, write := false })
  else if dir = 1 then
    if st.newRec then some (s, s.libMeter 0 len { r0 with drop := some rNAT_NO_MAPPING, status := stNOT_FOUND, write := false })
    else
      let r := r0.putF 0x48 8 (bytesLe f 0x48 8 + len)
      some (s, s.libMeter (recWord f) len (natResult r (bytesLe f 0x40 4) (bytesLe f 0x44 2) 1))
  else if !st.newRec then
    let r := r0.putF 0x48 8 (bytesLe f 0x48 8 + len)
    some (s, s.libMeter (recWord f) len (natResult r addr (bytesLe f 0x40 2) 0))
  else if st.noRoom then some (s, s.libMeter 0 len { r0 with status := stNO_ROOM, noRoom := true })
  else
    let bk := natBlockKey st.key
    let sb := s.sliceOf 0xF0 bk
    if s.lockHeld sb (s.hsOf bk) then none
    else match (s.slice sb).findKey bk with
      | none => some (s, { r0 with status := stBAD_PARAM, write := false })
      | some (bn, b) =>
        match s.natTry st.key (s.natPorts st.key st.hs b) with
        | .wait => none
        | .full => some (s, s.libMeter 0 len { r0 with status := stNO_ROOM, noRoom := true })
        | .made s2 port =>
          let s2 := s2.setSlice sb ((s2.slice sb).updRec bn (fun e =>
            { e with img := putBits e.img (8 * 0x40 + port % 2 ^ natB s) 1 1, dirty := true }))
          some (s2, s2.libMeter 0 len (natResult ((r0.putF 0x40 2 port).putF 0x48 8 len) addr port 0))

/-! ### 0xF1: sticky load balancing (R170) -/

/-- A sticky pass: `p` is the area base. -/
def libSticky (p : Nat) (m : Man) (f : BitVec 1024) : LibRes :=
  let r0 : LibRes := { img := f, man := m }
  if f.getLsbD (8 * (p + 6)) then
    (r0.putM 0x40 4 (bytesLe f p 4 % 2 ^ 31)).putM 0x58 2 (bytesLe f (p + 4) 2 % 2 ^ 14)
  else
    let grp := mget m mNh % 2 ^ 14
    (r0.putF (p + 4) 2 grp).putM 0x58 2 grp

/-! ### 0xF2: TCP connection tracking (R172, Table 5.11) -/

/-- The events, in their order of precedence. -/
inductive TcpEv | rst | syn | synack | fin | ack
  deriving DecidableEq, Repr

def tcpEv (fl : Nat) : TcpEv :=
  if fl.testBit 2 then .rst
  else if fl.testBit 1 && !fl.testBit 4 then .syn
  else if fl.testBit 1 then .synack
  else if fl.testBit 0 then .fin
  else .ack

/-- A transition: the new state, P+1 bits 0 (originator) and 1, 2 (FIN seen), and INVALID. `d` is the frame's direction. -/
def tcpNext (mid : Bool) (st bits d : Nat) (e : TcpEv) : Nat × Nat × Bool :=
  let orig := bits % 2
  let seen := bits ||| 2 ^ (d + 1)
  match e, st with
  | .rst, _ => (7, bits, false)
  | .syn, 0 => (1, d, false)
  | _, 0 => if mid then (3, bits, false) else (0, bits, true)
  | .syn, 1 => (1, bits, d != orig)
  | .synack, 1 => if d != orig then (2, bits, false) else (1, bits, true)
  | .ack, 2 => if d = orig then (3, bits, false) else (2, bits, true)
  | .fin, 3 => (4, seen, false)
  | .fin, 4 => if bits.testBit (d + 1) then (4, bits, false) else (5, seen, false)
  | .ack, 5 => (6, bits, false)
  | .syn, 6 => (1, d, false)
  | .syn, 7 => (1, d, false)
  | _, 1 => (1, bits, true)
  | _, 2 => (2, bits, true)
  | _, n => (n, bits, false)

/-- A TCP tracking pass. -/
def State.libTcp (s : State) (p : Nat) (m : Man) (f : BitVec 1024) : LibRes :=
  let d := bytesLe m 0x71 1 % 2
  let t := tcpNext (s.bit F.ledgerLibParam_midstream 0) (bytesLe f p 1) (bytesLe f (p + 1) 1) d (tcpEv (bytesLe m 0x70 1))
  let cls := s.get F.ledgerLibParam_tcpClass 0 / 2 ^ (4 * (t.1 % 8)) % 16
  let r : LibRes := { img := f, man := m }
  let r := ((r.putF p 1 t.1).putF (p + 1) 1 t.2.1).putF 0x03 1 (bytesLe f 3 1 / 16 * 16 + cls)
  let r := (r.putM 0x58 1 t.1).putM 0x59 1 t.2.2.toNat
  if t.2.2 then
    match s.get F.ledgerLibParam_invalidAct 0 with
    | 1 => { r with drop := some rTCP_INVALID }
    | 2 => { r with exc := some (s.get F.ledgerLibParam_tcpCause 0) }
    | _ => r
  else r

/-! ### 0xF3: sequence recovery (R173) -/

/-- The zero bits among the `n` most significant bits of a 256-bit history. -/
def zerosOut (h : BitVec 256) : Nat → Nat
  | 0 => 0
  | n + 1 => zerosOut h n + (if h.getLsbD (255 - n) then 0 else 1)

/-- A sequence recovery pass. -/
def State.libSeq (s : State) (m : Man) (f : BitVec 1024) (newRec : Bool) : LibRes :=
  let f := if newRec then putBytesLe f 0x42 1 1 else f
  let r0 : LibRes := { img := f, man := m, imgW := byteMask 0x42 1 }
  let now := s.tlNs / 1000 % 2 ^ 32
  let rsn := bytesLe f 0x40 2
  let out := fun (r : LibRes) (o : Nat) => (r.putM 0x58 2 (bytesLe r.img 0x40 2)).putM 0x5A 1 o
  let inc := fun (r : LibRes) (at_ n : Nat) => r.putF at_ 4 (bytesLe r.img at_ 4 + n)
  let accept := fun (r : LibRes) => inc (r.putF 0x44 4 now) 0x48 1
  let reject := fun (r : LibRes) (o reason : Nat) => { out (inc r 0x4C 1) o with drop := some reason }
  if bytesLe m 0x72 1 % 2 = 0 then out r0 0
  else
    let tmo := s.get F.ledgerLibSeq_recoveryTimeoutUs 0
    let timed := bytesLe f 0x42 1 % 2 == 0 && tmo != 0 && decide (tmo ≤ (now + 2 ^ 32 - bytesLe f 0x44 4) % 2 ^ 32)
    let r1 := if timed then inc (r0.putF 0x42 1 1) 0x58 1 else r0
    let seq := bytesLe m 0x70 2
    let d : Int := (BitVec.ofNat 16 (seq + 65536 - rsn)).toInt
    let hist : BitVec 256 := r1.img.extractLsb' (8 * 0x60) 256
    let setH := fun (r : LibRes) (h : BitVec 256) => { r with img := putBits r.img (8 * 0x60) 256 h.toNat, imgW := r.imgW ||| byteMask 0x60 32 }
    if bytesLe r1.img 0x42 1 % 2 = 1 then
      out (accept (setH ((r1.putF 0x40 2 seq).putF 0x42 1 0) 1)) (if timed then 3 else 0)
    else if 256 ≤ d ∨ d ≤ -256 then reject r1 2 rSEQ_ROGUE
    else if 0 < d then
      let k := d.toNat
      let r := inc (setH (r1.putF 0x40 2 seq) ((hist <<< k) ||| 1)) 0x54 (zerosOut hist k)
      out (accept (if 1 < k then inc r 0x50 1 else r)) 0
    else
      let i := (-d).toNat
      if hist.getLsbD i then reject r1 1 rSEQ_DUPLICATE
      else out (accept (inc (setH r1 (hist ||| (1 <<< i))) 0x50 1)) 0

/-! ### Any library program -/

/-- Run library program `st.prog` on the record window `f` for a frame of `len` bytes; none where it must wait (R168). -/
def State.library (s : State) (st : BerthSt) (f : BitVec 1024) (len : Nat) : Option (State × LibRes) :=
  let p := areaOff s.compact
  let base := if st.noRoom then stNO_ROOM else stOK
  let done := fun (r : LibRes) => some (s, s.libMeter (if st.newRec then 0 else recWord f) len { r with status := base, noRoom := st.noRoom })
  match st.prog with
  | 0xF0 => s.libNat st f len
  | 0xF1 => done (libSticky p st.man f)
  | 0xF2 => done (s.libTcp p st.man f)
  | 0xF3 => done (s.libSeq st.man f st.newRec)
  | _ => done { img := f, man := st.man }

end Sys2Proof.Machine
end

