-- ==== Sys2Proof/Machine/FlowRun.lean ====
section
/-!
DEFINITION. Machine/FlowRun.lean: the ledger's own steps: taking a request (R144, R153), the reads of a miss (R149, R150, R158,
R176), dispatch and return of a pass (R29, R48, R154), the index unit (R160), the ager (R164) and the rehash migrator (R175-R177).
-/
namespace Sys2Proof.Machine

/-! ### Taking a request (R18, R144, R153) -/

/-- Whether an earlier frame of the same list may still ask: its program has not ended without FLOW, or its own request waits. -/
def State.askBlocked (s : State) (fid : Nat) (f : Frame) : Bool :=
  s.eng.frames.any (fun e =>
    decide (e.1 < fid) && e.2.quay == f.quay && e.2.src == f.src && (f.src != .wire || e.2.port == f.port) &&
    (match e.2.flow with
     | .asked _ => !(e.2.stage == .parsed && f.stage == .parsed && mItcOf e.2.man != mItcOf f.man)
     | .none => (match e.2.stage with
       | .receiving | .queued => true
       | .pilot x => (match s.ctx? x with | some c => !c.flowDone | none => false)
       | _ => false)
     | _ => false))

/-- The requests of quay `q` that wait for slice `sl`. -/
def State.asksOf (s : State) (q sl : Nat) : List Nat := Tab.getD s.led.asks (q * 16 + sl) []

/-- FLOW_REQUEST_ACCEPT (R144): the slice takes the first request of the quay that no earlier frame of its list holds back. -/
def execFlowRequestAccept (sl : Slice) (q : Quay) (s : State) : Outc :=
  .next (
    let asks := s.asksOf q.val sl.val
    let b := firstFree (s.slice sl.val).berths 0
    match asks.find? (fun fid => match s.frame? fid with | some f => !(s.askBlocked fid f) | none => false) with
    | none => s
    | some fid =>
      match s.frame? fid with
      | none => s
      | some f =>
        if h : b < 1024 then
          let v := s.slice sl.val
          let hs := s.hsOf f.askKey
          let held := s.lockHeld sl.val hs
          let st : BerthSt := { fid := fid, quay := q, prog := f.askProg, gen := f.gen, key := f.askKey, hs := hs, man := f.askMan,
                                phase := .chained, order := v.order }
          let s := s.setSlice sl.val { v with order := v.order + 1, berths := Tab.put v.berths b st }
          let s := { s with led := { s.led with asks := Tab.put s.led.asks (q.val * 16 + sl.val) (asks.filter (· != fid)) } }
          let s := s.updFrame fid (fun f => { f with flow := .berth sl ⟨b, h⟩ })
          if held then s else s.lookupStart sl.val b
        else s)

/-! ### The reads of a miss (R149, R150, R158, R176) -/

/-- The tables a lookup probes, in order: whether it is the old one, and its shape. -/
def State.probes (s : State) (sl : Nat) (key : List Byte) : List (Bool × Rehash) :=
  match s.led.rehash with
  | none => [(false, s.shape)]
  | some r => if lineP r key < (s.slice sl).migrate then [(false, s.shape), (true, r)] else [(true, r), (false, s.shape)]

/-- The records that a line's slots name, with the numbers that berths use. -/
def SliceSt.lineRecs (v : SliceSt) (old : Bool) (r : Rehash) (line : Nat) : List (Nat × Rec) :=
  if old then (v.old.filter (fun e => e.2.inIndex && recLine r e.2 == line)).map (fun e => (e.1 + oldOff, e.2))
  else v.recs.filter (fun e => e.2.inIndex && recLine r e.2 == line)

/-- Whether a valid hint tag of line `p` equals the key's. -/
def SliceSt.hinted (v : SliceSt) (old : Bool) (r : Rehash) (key : List Byte) : Bool :=
  (if old then v.old else v.recs).any (fun e =>
    e.2.inIndex && e.2.alt && lineP r e.2.key == lineP r key && hintOf r e.2.key == hintOf r key)

/-- A line of table `old` is cleared (R158): its slots and its hint word. -/
def SliceSt.clearLine (v : SliceSt) (old : Bool) (r : Rehash) (line : Nat) : SliceSt :=
  let f := fun (e : Nat × Rec) => if e.2.inIndex && (recLine r e.2 == line || (e.2.alt && lineP r e.2.key == line))
    then (e.1, { e.2 with inIndex := false }) else e
  if old then { v with old := v.old.map f } else { v with recs := v.recs.map f }

/-- A pass whose read fails ends with status PARITY and its frame is dropped FLOW_PARITY (R158); the failing address is a free
value. -/
def State.passParity (s : State) (sl b : Nat) : State :=
  let s := (s.useFree.bump F.ledgerCntParity sl).mcheck 0 (s.freeVal.toNat % hbmSize) (0x40 + sl)
  (s.passStop sl b 0 stPARITY rFLOW_PARITY).passSettleN sl 3

/-- Go on after a line that held no candidate: the alternate line, the other table, or a blank record. -/
def State.nextProbe (s : State) (sl b : Nat) (st : BerthSt) (alt other : Bool) : State :=
  let ps := s.probes sl st.key
  match ps[other.toNat]? with
  | none => s.prepBlank sl b
  | some (old, r) =>
    if !alt && (s.slice sl).hinted old r st.key then
      (s.bump F.ledgerCntAltRead sl).setBerth sl b { st with phase := .indexRead true other, candidates := [] }
    else if !other && decide (1 < ps.length) then s.setBerth sl b { st with phase := .indexRead false true, candidates := [] }
    else s.prepBlank sl b

/-- INDEX_READ_DONE (R149): `ue` says that the line read has an uncorrectable error. -/
def execIndexReadDone (sl : Slice) (b : Berth) (ue : Bool) (s : State) : Outc :=
  .next (match s.berth? sl.val b.val with
  | none => s
  | some st =>
    match st.phase with
    | .indexRead alt other =>
      (match (s.probes sl.val st.key)[other.toNat]? with
       | none => s.prepBlank sl.val b.val
       | some (old, r) =>
         let line := if alt then lineA r st.key else lineP r st.key
         let s := s.ledHbm sl.val 64 false
         if ue then (s.setSlice sl.val ((s.slice sl.val).clearLine old r line)).passParity sl.val b.val
         else
           match ((s.slice sl.val).lineRecs old r line).filter (fun e => e.2.alt == alt && tagOf r e.2.key == tagOf r st.key) with
           | e :: rest => s.setBerth sl.val b.val { st with phase := .recordRead e.1, candidates := rest.map (·.1) }
           | [] => s.nextProbe sl.val b.val st alt other)
    | _ => s)

/-- The record read for a berth is its key's: install it in the flow cache and make the pass ready (R150). -/
def State.installRec (s : State) (sl b n : Nat) (e : Rec) (st : BerthSt) : State :=
  match s.makePlace sl st.hs with
  | none => s
  | some s =>
    let v := ((s.slice sl).updRec n (fun x => { x with cached := true })).touch n
    let s := (s.setSlice sl v).ledHbm sl (recLen s.compact) false
    let s := (s.bump F.ledgerCntMiss sl).pmc
      { code := 0x0802, master := 0x40 + sl, tc := some (mItcOf st.man), port := mget st.man mPort, who := mget st.man mFhash }
    s.setBerth sl b { st with phase := .ready, recNo := some n, img := e.img, status := stOK, flags := 0, candidates := [] }

/-- RECORD_READ_DONE (R149, R150, R158): `ue` says that the record read has an uncorrectable error. -/
def execRecordReadDone (sl : Slice) (b : Berth) (ue : Bool) (s : State) : Outc :=
  .next (match s.berth? sl.val b.val with
  | none => s
  | some st =>
    match st.phase with
    | .recordRead n =>
      (match (s.slice sl.val).recAt n with
       | none => s.lookupStart sl.val b.val
       | some e =>
         if ue then
           let s := s.dropRec sl.val n
           let s := if natIsForward e then s.natUnmap e else s
           ((s.exportRec sl.val 5 n e).ledHbm sl.val (recLen s.compact) false).passParity sl.val b.val
         else if e.key = st.key then s.installRec sl.val b.val n e st
         else
           let s := (s.bump F.ledgerCntAltRead sl.val).ledHbm sl.val (recLen s.compact) false
           match st.candidates with
           | c :: rest => s.setBerth sl.val b.val { st with phase := .recordRead c, candidates := rest }
           | [] =>
             let ps := s.probes sl.val st.key
             let other := match ps[1]? with | some p => p.1 == decide (oldOff ≤ n) | none => false
             s.nextProbe sl.val b.val st e.alt other)
    | _ => s)

/-! ### Dispatch (R29, R147, R154, R168) -/

/-- A free stevedore of a slice. -/
def State.freeStev (s : State) (sl : Slice) : Option (Fin 20) :=
  (List.finRange 20).find? (fun e => (s.ctx? (.stev sl e)).isNone)

/-- Whether a chained pass may take its record from the pass ahead of it (R154, R155, R157): the record stands, its frame is
good, and the pass ahead has ended with FEND WRITE or releases its bytes early. -/
def State.mayFollow (s : State) (sl : Slice) (st : BerthSt) : Bool :=
  match s.predOf sl.val st with
  | none => false
  | some (_, p) =>
    p.key == st.key && !p.newRec && s.fcsKnown p.fid &&
    (match p.phase with
     | .running _ => (s.pathFrom sl.val p.gen (s.flowStart p.gen p.prog)).early
     | .heldLen => p.write && !p.delete
     | _ => false)

/-- Take a pass to its dispatch: its berth as it then stands, or none where it must wait. -/
def State.passReady (s : State) (sl : Slice) (b : Nat) (st : BerthSt) : Option (State × BerthSt) :=
  match st.phase with
  | .ready =>
    let st := { st with img := s.recStart st.img }
    some (s.setBerth sl.val b st, st)
  | .chained =>
    if s.mayFollow sl st then
      let p := s.predOf sl.val st
      let st := { st with recNo := p.bind (fun x => x.2.recNo), cacheHit := true, img := s.fView sl.val st 1024,
                          flags := BitVec.ofNat 8 (2 ^ ffCACHE_HIT), status := stOK }
      some ((s.bump F.ledgerCntHit sl.val).setBerth sl.val b st, st)
    else none
  | _ => none

/-- Start a loaded flow program on stevedore `e`. -/
def State.stevStart (s : State) (sl : Slice) (b : Nat) (e : Fin 20) (st : BerthSt) : State :=
  let m := mset (mset st.man mFstat st.status) mFflags st.flags.toNat
  let c : Ctx := { fid := st.fid, gen := st.gen, pass := mPassOf st.man, pc := 4 * s.flowStart st.gen st.prog, man := m,
                   f := s.fView sl.val st 1024, berth := b, compact := s.compact }
  ((s.setBerth sl.val b { st with phase := .running e }).zeroG (.stev sl e)).setCtx (.stev sl e) c

/-- A library program has run: its pass ends and settles as a FEND does (R157). -/
def State.libEnd (s : State) (sl : Slice) (b : Nat) (st : BerthSt) (r : LibRes) : State :=
  let took := r.noRoom && !st.noRoom
  let s := if took then (s.unreserve sl.val st.recNo).bump F.ledgerCntNoroom sl.val else s
  let fl := (if r.drop.isSome then 2 ^ ffDROP else 0) + (if r.exc.isSome then 2 ^ ffEXC else 0)
  let st := { st with phase := .heldLen, out := r.img, wrote := r.imgW, write := r.write, delete := false, manOut := r.man,
                      manOutW := r.manW, flags := st.flags ||| BitVec.ofNat 8 fl, status := r.status, noRoom := r.noRoom,
                      recNo := if took then none else st.recNo,
                      cause := BitVec.ofNat 8 (match r.drop with | some d => d | none => r.exc.getD 0) }
  (s.setBerth sl.val b st).passSettleN sl.val 3

/-- A start word that fails its check when it is fetched (Table 2.16). -/
def State.spoilWord (s : State) (kind unit : Nat) (gen : Bool) (word : Nat) (bad : Bool) : State :=
  if bad then { s with eng := { s.eng with progs := Tab.upd s.eng.progs (progKey kind unit gen word) (fun w => { w with bad := true }) } }
  else s

/-- STEVEDORE_DISPATCH (R29): `fetchBad` says that the program's first word fails its check. -/
def execStevedoreDispatch (sl : Slice) (b : Berth) (fetchBad : Bool) (s : State) : Outc :=
  .next (match s.berth? sl.val b.val, s.freeStev sl with
  | some st, some e =>
    (match s.passReady sl b.val st with
     | none => s
     | some (s1, st) =>
       let s1 := s1.pmc { code := 0x0801, master := 0x40 + sl.val, tc := some (mItcOf st.man), port := mget st.man mPort,
                          who := mget st.man mFhash }
       if 0xF0 ≤ st.prog then
         if s.fcsKnown st.fid then
           let len := match s.frame? st.fid with | some f => f.bytes.length | none => 0
           match s1.library st (s1.fView sl.val st 1024) len with
           | some (s2, r) => s2.libEnd sl b.val st r
           | none => s
         else s
       else (s1.spoilWord 1 sl.val st.gen (s1.flowStart st.gen st.prog) fetchBad).stevStart sl b.val e st)
  | _, _ => s)

/-! ### Return (R32, R48, R161, R170) -/

/-- FLOW_PASS_RETURN (R48): the result reaches the quay, the register of FLOW and the frame; the berth is freed, but for a sticky
record that waits for its member. -/
def execFlowPassReturn (sl : Slice) (b : Berth) (s : State) : Outc :=
  .next (match s.berth? sl.val b.val with
  | none => s
  | some st =>
    match s.frame? st.fid with
    | none =>
      if st.phase = .sticky then
        let st2 := { st with phase := .done }
        (((s.setBerth sl.val b.val st2).chainOn sl.val st2).delBerth sl.val b.val).passSettleN sl.val 3
      else if st.phase = .done then s.delBerth sl.val b.val else s
    | some f =>
      if (st.phase = .done ∨ st.phase = .sticky) ∧ f.flow = .berth sl b then
        let out := mset (mset (mset st.manOut mFstat st.status) mFflags st.flags.toNat) mFcause st.cause.toNat
        let w := st.manOutW ||| byteMask 0x55 3
        let off := st.flags.getLsbD ffDROP || st.flags.getLsbD ffEXC
        let stay : Option (Slice × Nat) := if st.phase = .sticky then some (sl, b.val) else none
        let dropN : Option Nat := match st.drop with | some d => some d.toNat | none => none
        let f : Frame := { f with flow := .back, flowDrop := dropN, noRoom := st.noRoom && st.write && !off, sticky := stay }
        let s := if stay.isSome then s else s.delBerth sl.val b.val
        match f.stage with
        | .pilot x =>
          let s := (s.setG x f.flowReg (BitVec.ofNat 64 (st.status % 256 + st.flags.toNat * 256))).updCtx x
            (fun c => { c with pend := c.pend.filter (fun p => p.2.1 != PendKind.flow) })
          s.setFrame st.fid { f with flowOut := out, flowOutW := w }
        | _ => (s.setFrame st.fid { f with man := manMerge f.man out w 128, manW := f.manW ||| w }).resolveFrame st.fid
      else s)

/-! ### The index unit (R159, R160) -/

/-- INDEX_WRITE_DONE (R159): the oldest posted index write of the slice has completed; its record may be evicted. -/
def execIndexWriteDone (sl : Slice) (s : State) : Outc :=
  .next (
    let v := s.slice sl.val
    match v.writes with
    | [] => s
    | n :: r => (s.setSlice sl.val ({ v with writes := r }.updRec n (fun e => { e with writing := false }))).ledHbm sl.val 64 true)

/-- Whether record `n` can change its line: to its alternate it needs a free hint tag. -/
def State.canToggle (s : State) (v : SliceSt) (e : Rec) : Bool :=
  e.alt || decide (s.hintsUsed v (lineP s.shape e.key) < 4)

/-- A walk of at most `fuel` moves that frees a slot of `line`, taking victims in rotating order: the records to move, and the
rotation after it. -/
def State.slotWalk (s : State) (v : SliceSt) : Nat → Nat → List Nat → Nat → Option (List Nat × Nat)
  | 0, line, taken, rot => if s.lineUsed v line < 7 then some (taken, rot) else none
  | fuel + 1, line, taken, rot =>
    if s.lineUsed v line < 7 then some (taken, rot)
    else
      let here := (v.lineRecs false s.shape line).filter (fun e => s.canToggle v e.2 && !(taken.contains e.1))
      match here[rot % Nat.max 1 here.length]? with
      | none => none
      | some (n, e) =>
        let dest := if e.alt then lineP s.shape e.key else lineA s.shape e.key
        s.slotWalk v fuel dest (taken ++ [n]) (rot + 1)

/-- Try to place one stash entry: in its alternate line, else by a walk from its primary line. -/
def State.stashPlace (s : State) (v : SliceSt) (n : Nat) (e : Rec) : Option SliceSt :=
  let r := s.shape
  if s.lineUsed v (lineA r e.key) < 7 ∧ s.hintsUsed v (lineP r e.key) < 4 ∧ 7 ≤ s.lineUsed v (lineP r e.key) then
    some (v.setRec n { e with inIndex := true, alt := true, stashOrd := none })
  else
    match s.slotWalk v 8 (lineP r e.key) [] v.walk with
    | none => none
    | some (moves, rot) =>
      let v := moves.foldl (fun v m => v.updRec m (fun x => { x with alt := !x.alt })) v
      some ({ v with walk := rot % 7 }.setRec n { e with inIndex := true, alt := false, stashOrd := none })

/-- The stash entries of the active table, oldest first. -/
def SliceSt.stashList (l : Tab Rec) : List (Nat × Nat) :=
  (l.filterMap (fun e => e.2.stashOrd.map (fun o => (o, e.1)))).foldl
    (fun acc e => acc.takeWhile (fun x => decide (x.1 ≤ e.1)) ++ e :: acc.dropWhile (fun x => decide (x.1 ≤ e.1))) []

/-- INDEX_UNIT_MOVE (R160): the oldest stash entry that can be placed goes into the index. -/
def execIndexUnitMove (sl : Slice) (s : State) : Outc :=
  .next (
    let v := s.slice sl.val
    let try1 := fun (e : Nat × Nat) => match v.recAt e.2 with | some r => s.stashPlace v e.2 r | none => none
    match (SliceSt.stashList v.recs).findSome? try1 with
    | some v2 => (s.setSlice sl.val v2).ledHbm sl.val 64 true
    | none => s)

/-! ### The ager (R164, R165) -/

/-- Whether a record's last use is old enough for its idle class. -/
def State.recIdle (s : State) (e : Rec) : Bool :=
  let idle := s.get F.ledgerAgeProfile_idleS (bytesLe e.img 3 1 % 16)
  idle != 0 && decide (idle * 1000 ≤ (s.tlMs + 2 ^ 32 - bytesLe e.img 4 4) % 2 ^ 32)

/-- Whether the ager may remove a record: a NAT forward record with its reverse record only, a reverse record never alone (R169). -/
def State.ageIdle (s : State) (e : Rec) : Bool :=
  if bytesLe e.img 2 1 = 0xF0 ∧ e.key.length = 16 then false
  else if natIsForward e then
    s.recIdle e && (
      let rk := natReverseKey e.key (bytesLe e.img 0x40 2)
      match (s.slice (s.sliceOf 0xF0 rk)).findKey rk with
      | some (_, r) => s.recIdle r
      | none => true)
  else s.recIdle e

/-- Whether an ACTIVE export of a record is due at this visit. -/
def State.activeDue (s : State) (e : Rec) : Bool :=
  let a := s.get F.ledgerAgeProfile_activeS (bytesLe e.img 3 1 % 16) * 1000
  let sweep := 1000 * 2 ^ s.get F.ledgerCfg_log2rec 0 / 2097152
  let age := (s.tlMs + 2 ^ 32 - bytesLe e.img 0x0C 4) % 2 ^ 32
  !s.compact && recExport e && a != 0 && age / a != (if sweep ≤ age then (age - sweep) / a else 2 ^ 32)

/-- The record that the ager visits next: the first at or after its position, wrapping. -/
def SliceSt.nextVisit (v : SliceSt) : Option (Nat × Rec) :=
  match v.recs.find? (fun e => decide (v.agerPos ≤ e.1)) with
  | some e => some e
  | none => v.recs.head?

/-- LEDGER_AGER_VISIT (R164, R158): `ue` says that the record read has an uncorrectable error. -/
def execLedgerAgerVisit (sl : Slice) (ue : Bool) (s : State) : Outc :=
  .next (
    let v := s.slice sl.val
    if s.bit F.ledgerCfg_en 0 = false ∨ s.modeNo = mHARBOUR then s
    else
      match v.nextVisit with
      | none => s
      | some (n, e) =>
        let s := s.setSlice sl.val { v with agerPos := n + 1 }
        let s := if e.cached then s else s.ledHbm sl.val 64 false
        if ue then
          let s := s.dropRec sl.val n
          let s := if natIsForward e then s.natUnmap e else s
          ((s.useFree.exportRec sl.val 5 n e).bump F.ledgerCntParity sl.val).mcheck 0 (s.freeVal.toNat % hbmSize) (0x40 + sl.val)
        else if recStatic e ∨ s.lockHeld sl.val e.hs = true then s
        else if s.ageIdle e then (s.recDelete sl.val n 1).bump F.ledgerCntAged sl.val
        else if s.activeDue e then s.exportRec sl.val 2 n e
        else s)

/-! ### The migrator (R175-R177) -/

/-- Map a record image to another form (R177). -/
def mapForm (from_ to_ : Bool) (key : List Byte) (img : BitVec 1024) : BitVec 1024 :=
  if from_ = to_ then img
  else
    let b := putBytesLe (0 : BitVec 1024) 0 8 (bytesLe img 0 8)
    let b := putBytesLe b (keyOff to_) (keyMax to_) (leNat key)
    let b := putBytesLe b 0x30 16 (bytesLe img 0x30 16)
    putBytesLe b (areaOff to_) 16 (bytesLe img (areaOff from_) 16)

/-- The next record of the old table: by old line, then the old stash entries in order; and the pointer there. -/
def SliceSt.nextMigrant (v : SliceSt) (r : Rehash) : Option (Nat × Rec × Nat) :=
  match v.old.foldl (fun (best : Option (Nat × Rec × Nat)) e =>
      if e.2.inIndex then
        let l := recLine r e.2
        match best with
        | some b => if l < b.2.2 then some (e.1, e.2, l) else best
        | none => some (e.1, e.2, l)
      else best) none with
  | some b => some b
  | none =>
    match SliceSt.stashList v.old with
    | (_, n) :: _ => (Tab.get? v.old n).map (fun e => (n, e, 2 ^ (r.log2 - 2)))
    | [] => none

/-- A slice has migrated all it held and posts REHASH_DONE with the records it migrated; at the last slice the rehash ends (R175,
Table 11.8). -/
def State.migrateDone (s : State) (sl : Nat) (r : Rehash) : State :=
  if s.led.doneSlices.contains sl then s
  else
    let v := s.slice sl
    let s := (s.setSlice sl { v with old := [], migrate := 2 ^ (r.log2 - 2) }).cmdEvent 7 sl stOK v.migrated
    let l := s.led.doneSlices ++ [sl]
    if l.length < 16 then { s with led := { s.led with doneSlices := l } }
    else { s with led := { s.led with rehash := none, doneSlices := [] } }.set F.ledgerStatus_state 0 1

/-- Migrate one record whose lock is free. -/
def State.migrateRec (s : State) (sl n : Nat) (e : Rec) (r : Rehash) : State :=
  let gone := fun (s : State) (etype : Nat) => s.recDelete sl (n + oldOff) etype
  if !(recStatic e) && s.ageIdle e then gone s 1
  else if keyMax s.compact < e.key.length then
    (let s1 := s.dropRec sl (n + oldOff)
     let s1 := if natIsForward e then s1.natUnmap e else s1
     s1.exportRec sl 6 (n + oldOff) e)
  else
    match s.reserveRoom sl e.key with
    | (_, none) => s
    | (s2, some (m, stash)) =>
      let v := s2.slice sl
      let e2 : Rec := { e with img := mapForm r.form s.compact e.key e.img, inIndex := !stash, alt := false, writing := !stash,
                               stashOrd := if stash then some v.stashOrd else none, dirty := e.cached }
      let v := { v with old := Tab.del v.old n, recs := Tab.put v.recs m e2, stashOrd := v.stashOrd + 1,
                        writes := if stash then v.writes else v.writes ++ [m], migrated := v.migrated + 1 }
      (((s2.setSlice sl v).ledHbm sl (64 + recLen r.form) false).ledHbm sl (64 + recLen s.compact) true).bump F.ledgerCntMigrated sl

/-- REHASH_MIGRATE (R175): the migrator moves the next record of the slice; a record whose key is locked is retried. -/
def execRehashMigrate (sl : Slice) (s : State) : Outc :=
  .next (match s.led.rehash with
  | none => s
  | some r =>
    if s.modeNo = mHARBOUR then s
    else
      match (s.slice sl.val).nextMigrant r with
      | none => s.migrateDone sl.val r
      | some (n, e, line) =>
        let s := s.setSlice sl.val { s.slice sl.val with migrate := line }
        if s.lockHeld sl.val e.hs then s else s.migrateRec sl.val n e r)

end Sys2Proof.Machine
end

