-- ==== Sys2Proof/Machine/TugMem.lean ====
section
/-!
DEFINITION. Machine/TugMem.lean: the tug cores' D accesses (R53, R54, R350-R353), the window words of Table 12.2 that have rows of
their own, the waits and switches of tasks (R359-R365), timers and watchdogs (R370-R372).
-/
namespace Sys2Proof.Machine

/-! ### Loads and stores (R53) -/

/-- The D address of a load or store. -/
def State.dAddr (s : State) (t : Core) (ra : RegNo) (imm : BitVec 16) : Word := s.g (.tug t) ra + simm imm

/-- A load of `n` bytes. -/
def loadOp (n : Nat) (t : Core) (rd ra : RegNo) (imm : BitVec 16) (ue : Bool) (s : State) : Outc :=
  .next (s.tugRun t true (fun s =>
    let a := s.dAddr t ra imm
    s.tugFinish t (some rd) a n (s.tugLoad t a.toNat n ue)))
/-- A store of `n` bytes. -/
def storeOp (n : Nat) (t : Core) (rd ra : RegNo) (imm : BitVec 16) (s : State) : Outc :=
  .next (s.tugRun t true (fun s =>
    let a := s.dAddr t ra imm
    s.tugFinish t none a n (s.tugStore t a.toNat n (s.g (.tug t) rd))))

/-- LDB (R53). -/
def execLdb (t : Core) (rd ra : RegNo) (imm : BitVec 16) (ue : Bool) (s : State) : Outc := loadOp 1 t rd ra imm ue s
/-- LDH (R53). -/
def execLdh (t : Core) (rd ra : RegNo) (imm : BitVec 16) (ue : Bool) (s : State) : Outc := loadOp 2 t rd ra imm ue s
/-- LDW (R53). -/
def execLdw (t : Core) (rd ra : RegNo) (imm : BitVec 16) (ue : Bool) (s : State) : Outc := loadOp 4 t rd ra imm ue s
/-- LDD (R53). -/
def execLdd (t : Core) (rd ra : RegNo) (imm : BitVec 16) (ue : Bool) (s : State) : Outc := loadOp 8 t rd ra imm ue s
/-- STB (R53). -/
def execStb (t : Core) (rd ra : RegNo) (imm : BitVec 16) (s : State) : Outc := storeOp 1 t rd ra imm s
/-- STH (R53). -/
def execSth (t : Core) (rd ra : RegNo) (imm : BitVec 16) (s : State) : Outc := storeOp 2 t rd ra imm s
/-- STW (R53). -/
def execStw (t : Core) (rd ra : RegNo) (imm : BitVec 16) (s : State) : Outc := storeOp 4 t rd ra imm s
/-- STD (R53). -/
def execStd (t : Core) (rd ra : RegNo) (imm : BitVec 16) (s : State) : Outc := storeOp 8 t rd ra imm s

/-! ### AMO (R54) -/

/-- Whether an address lies in a window, which only LDD and STD reach (Table 12.2). -/
def isWindow (a n : Nat) : Bool :=
  match dReg a n with
  | .mbox _ _ | .exq _ | .core _ | .syswd _ => true
  | _ => false

/-- An AMO whose new value is `f old g[rb] g[rd]`, none where nothing is written. -/
def amoOp (f : Word → Word → Word → Option Word) (t : Core) (rd ra rb : RegNo) (ue : Bool) (s : State) : Outc :=
  .next (s.tugRun t true (fun s =>
    let aw := s.g (.tug t) ra
    let a := aw.toNat
    if a % 8 ≠ 0 then s.trapHere t tcMISALIGN aw
    else if isWindow a 8 then s.trapHere t tcD_FAULT aw
    else
      match s.tugLoad t a 8 ue with
      | .ok s2 old =>
        let s2 := s2.tugAccCount t a 8 false
        let s2 := match f old (s2.g (.tug t) rb) (s2.g (.tug t) rd) with
          | some v => ((s2.dWrite t.val a (leBytes 8 v.toNat)).wordMend t.val a 8).tugAccCount t a 8 true
          | none => s2
        (s2.setG (.tug t) rd old).tugDone t
      | .trap s2 cause => s2.trapHere t cause aw
      | .stall => s))

/-- AMO_ADD (R54). -/
def execAmoAdd (t : Core) (rd ra rb : RegNo) (ue : Bool) (s : State) : Outc := amoOp (fun o b _ => some (o + b)) t rd ra rb ue s
/-- AMO_SWAP (R54). -/
def execAmoSwap (t : Core) (rd ra rb : RegNo) (ue : Bool) (s : State) : Outc := amoOp (fun _ b _ => some b) t rd ra rb ue s
/-- AMO_OR (R54). -/
def execAmoOr (t : Core) (rd ra rb : RegNo) (ue : Bool) (s : State) : Outc := amoOp (fun o b _ => some (o ||| b)) t rd ra rb ue s
/-- AMO_AND (R54). -/
def execAmoAnd (t : Core) (rd ra rb : RegNo) (ue : Bool) (s : State) : Outc := amoOp (fun o b _ => some (o &&& b)) t rd ra rb ue s
/-- AMO_CAS (R54): written only where the old value equals g[rd]. -/
def execAmoCas (t : Core) (rd ra rb : RegNo) (ue : Bool) (s : State) : Outc :=
  amoOp (fun o b d => if o = d then some b else none) t rd ra rb ue s

/-! ### Window words (Table 12.2) -/

/-- A store to a window word. -/
def windowStore (t : Core) (a : Nat) (v : Word) (s : State) : Outc :=
  .next (s.tugRun t true (fun s => s.tugFinish t none (BitVec.ofNat 64 a) 8 (s.tugStore t a 8 v)))
/-- A load of a window word. -/
def windowLoad (t : Core) (rd : RegNo) (a : Nat) (s : State) : Outc :=
  .next (s.tugRun t true (fun s => s.tugFinish t (some rd) (BitVec.ofNat 64 a) 8 (s.tugLoad t a 8 false)))

/-- SEND0 (R367). -/
def execSend0 (t : Core) (m : Mbox) (v : Word) (s : State) : Outc := windowStore t (0x02000000 + m.val * 64) v s
/-- SEND1 (R367). -/
def execSend1 (t : Core) (m : Mbox) (v : Word) (s : State) : Outc := windowStore t (0x02000000 + m.val * 64 + 8) v s
/-- RECV0 (R366). -/
def execRecv0 (t : Core) (rd : RegNo) (m : Mbox) (s : State) : Outc := windowLoad t rd (0x02000000 + m.val * 64 + 0x10) s
/-- RECV1 (R366). -/
def execRecv1 (t : Core) (rd : RegNo) (m : Mbox) (s : State) : Outc := windowLoad t rd (0x02000000 + m.val * 64 + 0x18) s
/-- EXQ_HEAD_WRITE (R368). -/
def execExqHeadWrite (t : Core) (v : Word) (s : State) : Outc := windowStore t 0x02010000 v s
/-- WD_KICK (R371). -/
def execWdKick (t : Core) (s : State) : Outc := windowStore t 0x02020000 0 s
/-- TIMER_WRITE (R370). -/
def execTimerWrite (t : Core) (v : Word) (s : State) : Outc := windowStore t 0x02020008 v s
/-- IPI (R370). -/
def execIpi (t : Core) (v : Word) (s : State) : Outc := windowStore t 0x02020010 v s
/-- SYSWD_KICK (R372). -/
def execSyswdKick (t : Core) (v : Word) (s : State) : Outc := windowStore t 0x02030000 v s

/-! ### Waiting and switching (R359-R365) -/

/-- WAITF (R359). -/
def execWaitf (t : Core) (r : RegNo) (s : State) : Outc :=
  .next (s.tugRun t true (fun s =>
    match s.running? t.val with
    | none => s
    | some k =>
      let op := s.g (.tug t) r
      let m : BitVec 32 := op.setWidth 32
      let tmo := (op.extractLsb' 40 24).toNat
      let fl : BitVec 32 := BitVec.ofNat 32 (s.get F.tugTaskState_flags k)
      match waitHit op fl with
      | some hit =>
        let s := if op.getLsbD 33 then s else s.set F.tugTaskState_flags k (fl &&& ~~~hit).toNat
        (s.setG (.tug t) r (hit.setWidth 64)).tugDone t
      | none =>
        if m = 0 ∧ tmo = 0 then (s.setG (.tug t) r 0).tugDone t
        else
          let s := (s.tugDone t).saveTask t k
          let s := s.setTask k { s.task k with wait := some (r, op) }
          let s := s.set F.tugTaskState_state k tWAITING
          let s := if tmo = 0 then s else s.delayFor k (s.ticks + tmo)
          s.coreTake t))

/-- YIELD (R361): the task goes to the tail of its level where another task can take the core. -/
def execYield (t : Core) (s : State) : Outc :=
  .next (s.tugRun t true (fun s =>
    match s.running? t.val with
    | none => s
    | some k =>
      let s := s.tugDone t
      match s.firstFor t.val (s.level k + 1) with
      | none => s
      | some j => ((s.saveTask t k).makeReady k).startTask t j))

/-- The idle cores of a task's affinity, from the one after the core chosen last (R363). -/
def State.idleCore (s : State) (k : Nat) : Option Core :=
  (((List.finRange 16).map (fun (i : Fin 16) => (⟨(s.tug.lastCore + 1 + i.val) % 16, Nat.mod_lt _ (by decide)⟩ : Core))).find?
    (fun t => s.affine k t.val && (s.running? t.val).isNone))

/-- The core of a task's affinity whose task has the highest level number above the task's own; the lowest-numbered on a tie. -/
def State.victimCore (s : State) (k : Nat) : Option Core :=
  ((List.finRange 16).foldl (fun (best : Option (Core × Nat)) (t : Core) =>
    match s.running? t.val with
    | some j =>
      let l := s.level j
      if s.affine k t.val && decide (s.level k < l) then
        match best with
        | some b => if b.2 < l then some (t, l) else best
        | none => some (t, l)
      else best
    | none => best) none).map (·.1)

/-- TASK_PLACE (R363): a READY task that its core would take starts on an idle core, or is loaded into a NEXT slot. -/
def execTaskPlace (k : TaskIx) (s : State) : Outc :=
  .next (
    if s.taskState k.val = tREADY then
      match s.idleCore k.val with
      | some t =>
        if s.firstFor t.val 32 = some k.val then
          (let s2 := s.startTask t k.val
           { s2 with tug := { s2.tug with lastCore := t.val } })
        else s
      | none =>
        match s.victimCore k.val with
        | some t =>
          if s.firstFor t.val 32 = some k.val then
            (let s2 := s.setNext t.val (some k.val)
             { s2 with tug := { s2.tug with lastCore := t.val } })
          else s
        | none => s
    else s)

/-- CONTEXT_SWITCH (R364, R365): at a preemption point the core switches to its NEXT task, and the task that ran returns to the head
of its level; a task cancelled while it ran stops here (R356). -/
def execContextSwitch (t : Core) (s : State) : Outc :=
  .next (match s.running? t.val with
  | none => s
  | some k =>
    if s.preemptPoint t then
      if (s.task k).cancel then s.cancelHere t k
      else match (s.tcore t.val).next with
        | none => s
        | some j =>
          if s.taskState j = tREADY ∧ s.level j < s.level k then
            let s := s.saveTask t k
            let s := (s.set F.tugTaskState_state k tREADY).setReady (s.level k) (k :: s.readyOf (s.level k))
            s.startTask t j
          else s.setNext t.val none
    else s)

/-- DELAY_LIST_EXPIRY (R360): every task whose tick has come is READY, in the order of the list. -/
def execDelayListExpiry (s : State) : Outc :=
  .next ((s.tug.delay.takeWhile (fun e => decide (e.1 ≤ s.ticks))).foldl (fun s e => s.waitOver e.2) s)

/-! ### Timers and watchdogs (R370-R372) -/

/-- TIMER_EXPIRY (R370). -/
def execTimerExpiry (t : Core) (s : State) : Outc :=
  .next (match (s.tcore t.val).timer with
  | some d => if d ≤ s.ns then (s.setTcore t.val { s.tcore t.val with timer := none }).latchIrq t.val 1 else s
  | none => s)

/-- CORE_WD_EXPIRY (R371). -/
def execCoreWdExpiry (t : Core) (s : State) : Outc :=
  .next (
    let tc := s.tcore t.val
    if (s.running? t.val).isSome ∧ tc.wd + s.get F.tugCoreCfg_wdMs t.val * 1000000 ≤ s.ns then
      if tc.wdOnce then s.coreReset t.val 1
      else (s.setTcore t.val { tc with wd := s.ns, wdOnce := true }).latchIrq t.val 0
    else s)

/-- SYSWD_EXPIRY (R372): a harbour request; in SAFE HARBOUR the count restarts and the expiry is counted. -/
def execSyswdExpiry (s : State) : Outc :=
  .next (match s.tug.sysDue with
  | some d =>
    if d ≤ s.ns then
      let s := { s with tug := { s.tug with sysDue := some (s.ns + s.get F.tugSyswdCfg_timeout 0 * 1000000) } }
      if s.modeNo = mHARBOUR then s.bump F.tugCntSyswdBad 0 else s.setCause 2
    else s
  | none => s)

end Sys2Proof.Machine
end

