-- ==== Sys2Proof/Machine/Rx.lean ====
section
/-!
DEFINITION. Machine/Rx.lean: the front of an ingress quay: frames arriving (R13, R273, R296, R428, R486), their ends (R12, R74, R272,
R279), flow control received (R279, R280), the dispatch of heads (R71-R73), and the periodic work of the tables, meters and limiters
(R87, R91, R112, R116, R121, R135, R246, R263).
-/
namespace Sys2Proof.Machine

/-! ### Discarding a frame -/

/-- A sticky berth is given up: its lock goes on to the next member and SET stays 0 (R170). -/
def State.stickyFree (s : State) (sl b : Nat) : State :=
  match s.berth? sl b with
  | none => s
  | some st =>
    let st2 := { st with phase := .done }
    ((((s.setBerth sl b st2).chainOn sl st2).delBerth sl b).passSettleN sl 3)

/-- Take a frame out of its quay's lists. -/
def State.quayForget (s : State) (q fid : Nat) : State :=
  let v := s.quay q
  s.setQuay q { v with waiting := v.waiting.filter (· != fid), repl := v.repl.filter (· != fid) }

/-- A frame that has not been admitted ends: its flow pass, its context, its place and its flight (R12, R16). -/
def State.frameDrop (s : State) (fid : Nat) : State :=
  match s.frame? fid with
  | none => s
  | some f =>
    let s := s.flowKill fid
    let s := match f.sticky with | some (sl, b) => s.stickyFree sl.val b | none => s
    let s := match f.stage with | .pilot x => s.ctxFree x | _ => s
    ((s.quayForget f.quay.val fid).delFrame fid).flightDone f.flight f.man

/-! ### Arrival (R13, R273, R296, R428) -/

/-- Whether a frame still holds staging (R13). -/
def Frame.staging (f : Frame) : Bool :=
  match f.stage with
  | .written => false
  | .copying => false
  | _ => true

/-- Bytes of a quay's staging buffer in use (R13). -/
def State.staged (s : State) (q : Nat) : Nat :=
  s.eng.frames.foldl (fun n e => if e.2.quay.val = q && e.2.staging then n + e.2.bytes.length else n) 0

/-- The size of a staging buffer (R13). -/
abbrev stagingSize : Nat := 524288

/-- Whether a port has a lossless priority group (R429). -/
def State.hasLossless (s : State) (p : Nat) : Bool := (List.range 8).any (fun tc => s.bit F.bufPgCfg_lossless (pgKey p tc))

/-- Whether a frame's bytes are a MAC control frame (R279). -/
def isControl (l : List Byte) : Bool := beNat ((l.drop 12).take 2) == 0x8808

/-- The bases of STAMP_MASK, TL as 15. -/
def maskBases (mask : Nat) : List Nat := (List.range 9).filterMap (fun n => if mask.testBit n then some (if n = 8 then 15 else n) else none)

/-- The stamps of a received frame on every base of STAMP_MASK that runs (R292, R296); entry 8 is TL. -/
def State.rxStamps (s : State) (p lane : Nat) (bit phi : BitVec 16) (pre wake : Bool) : Tab Stamp :=
  (maskBases (s.get F.timePortCfg_stampMask p)).foldl (fun t b =>
    if s.baseRuns b then Tab.put t (if b = 15 then 8 else b) (s.rxStamp p lane b bit phi pre wake) else t) []

/-- The quay that port `p` enters. -/
def quayIx (p : Nat) : Quay := ⟨quayOf p % 16, Nat.mod_lt _ (by decide)⟩

/-- The frame that begins: its device-written manifest fields (R68, R74, R296). -/
def State.newFrame (s : State) (p : Nat) (stamps : Tab Stamp) (bytes : List Byte) : Frame :=
  let seq := (s.portSt p).seqId
  let prim := s.get F.timePortCfg_primary p
  let m : Man := mset (mset (mset (mset 0 mPort p) mSeq seq) mBases (s.get F.timePortCfg_stampMask p)) mStamp
    (Tab.getD stamps (if prim = 15 then 8 else prim) 0).toNat
  { port := p, src := .wire, quay := quayIx p, bytes := bytes, lenKnown := false, man := msetLenPending m true, manW := 0,
    seqId := seq, stamps := stamps, gen := false, stage := .receiving }

/-- Put a frame into the ingress side; its head waits once its first 256 bytes are there (R71). -/
def State.enterFrame (s : State) (f : Frame) (headIn : Bool) : State :=
  let fid := s.eng.nextFid
  let s := { s with eng := { s.eng with nextFid := fid + 1, frames := Tab.put s.eng.frames fid (if headIn then { f with stage := .queued } else f) } }
  if headIn then let v := s.quay f.quay.val; s.setQuay f.quay.val { v with waiting := v.waiting ++ [fid] } else s

/-- FRAME_RX_START (R296): the frame takes the next sequence ID and its stamps, and enters its quay unless the quay is paused (R428,
R429) or its staging is full (R13). Nothing is received while the link is not up (R486). -/
def execFrameRxStart (p : Port) (lane : Fin 4) (bit : BitVec 16) (phi : BitVec 16) (frag : Bool) (bytes : List Byte) (s : State) : Outc :=
  .next (
    if s.linkUp p.val = false then s
    else
      let st := s.portSt p.val
      let pre := frag && s.bit F.portStatus_preemptActive (portIx p.val)
      let f := s.newFrame p.val (s.rxStamps p.val lane.val bit phi pre st.lpiStamp) bytes
      let s := s.setPortSt p.val { st with seqId := (st.seqId + 1) % 65536, lpiStamp := false }
      let q := quayOf p.val
      let plain := !(isControl bytes)
      let kept := plain && !(s.modeNo == mMOORED && decide (p.val < 128))
      let pilots := kept && (s.modeNo != mHARBOUR || s.hbor.draining.isSome)
      if pilots && s.paused q && !(s.hasLossless p.val) then s.bump F.sysCntSlackDiscard q
      else if kept && decide (stagingSize < s.staged q + bytes.length) then s.bump F.portCntRxStaging (portIx p.val)
      else s.enterFrame f (pilots && decide (256 ≤ bytes.length)))

/-! ### Flow control received (R279, R280, R282) -/

/-- Pause or resume a port: 0 resumes in that clock (R280). -/
def State.pauseRx (s : State) (p quanta : Nat) : State :=
  let s := s.bump F.portCntRxPause (portIx p)
  let due : Option Nat := if quanta = 0 then none else some (s.ns + s.quantaNs p quanta)
  (s.setPortSt p { s.portSt p with pauseUntil := due }).setBit F.tmPortStatus_paused p (quanta != 0)

/-- Take one priority of a PFC frame (R279); while the priority storms it is ignored (R282). -/
def State.pfcOne (s : State) (p n quanta : Nat) : State :=
  let s := s.bump F.portCntRxPfc (portIx p * 8 + n)
  let st := s.portSt p
  let st := { st with pfcLast := Tab.put st.pfcLast n s.ns }
  if st.storm.getLsbD n then s.setPortSt p st
  else
    let old := s.get F.tmPortStatus_pfcPaused p
    if quanta = 0 then
      (s.setPortSt p { st with pfcUntil := Tab.del st.pfcUntil n, pfcSince := Tab.del st.pfcSince n }).set F.tmPortStatus_pfcPaused p
        (if old.testBit n then old - 2 ^ n else old)
    else
      (s.setPortSt p { st with pfcUntil := Tab.put st.pfcUntil n (s.ns + s.quantaNs p quanta),
                               pfcSince := if old.testBit n then st.pfcSince else Tab.put st.pfcSince n s.ns }).set F.tmPortStatus_pfcPaused p (old ||| 2 ^ n)

/-- A PFC frame pauses the class slots it names (R279). -/
def State.pfcRx (s : State) (p : Nat) (mask : BitVec 8) (quanta : List Nat) : State :=
  (List.range 8).foldl (fun s n => if mask.getLsbD n then s.pfcOne p n (quanta.getD n 0) else s) s

/-- A PAUSE frame: it takes effect on a port in MODE PAUSE, and is otherwise counted as a control frame discarded (R279). -/
def State.pauseFrame (s : State) (p quanta : Nat) : State :=
  if s.get F.portFlowctl_mode (portIx p) = 1 then s.pauseRx p quanta else s.bump F.portCntRxCtlDiscard (portIx p)
/-- A PFC frame: it takes effect on a port in MODE PFC (R279). -/
def State.pfcFrame (s : State) (p : Nat) (mask : BitVec 8) (quanta : List Nat) : State :=
  if s.get F.portFlowctl_mode (portIx p) = 2 then s.pfcRx p mask quanta else s.bump F.portCntRxCtlDiscard (portIx p)

/-- A MAC control frame that passed its checks is consumed (R279). -/
def State.controlRx (s : State) (p : Nat) (l : List Byte) : State :=
  let at16 := fun i => beNat ((l.drop i).take 2)
  match at16 14 with
  | 0x0001 => s.pauseFrame p (at16 16)
  | 0x0101 => s.pfcFrame p (BitVec.ofNat 8 (at16 16)) ((List.range 8).map (fun n => at16 (18 + 2 * n)))
  | _ => s.bump F.portCntRxCtlDiscard (portIx p)

/-- PAUSE_FRAME_RX (R279): a checked PAUSE frame reaches the MAC. -/
def execPauseFrameRx (p : Port) (quanta : BitVec 16) (s : State) : Outc :=
  .next (if s.linkUp p.val then s.pauseFrame p.val quanta.toNat else s)

/-- PFC_FRAME_RX (R279): a checked PFC frame reaches the MAC. -/
def execPfcFrameRx (p : Port) (mask : BitVec 8) (quanta : List (BitVec 16)) (s : State) : Outc :=
  .next (if s.linkUp p.val then s.pfcFrame p.val mask (quanta.map (fun q => q.toNat)) else s)

/-! ### The last byte (R12, R74, R76, R272, R273, R284, R486) -/

/-- K bytes 0 to 7 of a frame from a PRP port (R284). -/
def prpBytes (role : Nat) (l : List Byte) : List Byte :=
  let n := l.length
  if n < 70 then List.replicate 8 (0 : Byte)
  else
    let t := (l.drop (n - 10)).take 6
    let tag := fun i => let e := beNat ((l.drop i).take 2); e == 0x8100 || e == 0x88A8
    let tags := if tag 12 then (if tag 16 then 2 else 1) else 0
    let w := beNat ((t.drop 2).take 2)
    let suffix := beNat (t.drop 4) == 0x88FB
    let ok := suffix && w % 4096 + 18 + 4 * tags == n
    let lan := ok && w / 4096 != (if role = 1 then 0xA else 0xB)
    t ++ [BitVec.ofNat 8 (ok.toNat + 2 * (suffix && !ok).toNat + 4 * lan.toNat), 0]

/-- Whether the port of a frame presents PRP trailers (R284). -/
def State.prpRole (s : State) (f : Frame) : Nat :=
  let r := s.get F.portCfg_redRole (portIx f.port)
  if f.src = .wire ∧ (r = 1 ∨ r = 2) then r else 0

/-- Put the trailer into K (R284). -/
def keyPrp (k : BitVec 512) (role : Nat) (l : List Byte) : BitVec 512 := putBits k 448 64 (beNat (prpBytes role l))

/-- The frame's last byte is there: reads of its length and the checks that need it go on (R74, R76). -/
def State.frameLast (s : State) (fid : Nat) (f : Frame) : State :=
  let csum := s.csumOn f
  let f := { f with lenKnown := true }
  match f.stage with
  | .pilot x =>
    let s := s.setFrame fid f
    s.updCtx x (fun c =>
      let r := lastByte f.bytes csum c.parse c.man
      { c with parse := r.1, man := r.2, prp := false, key := if c.prp then keyPrp c.key (s.prpRole f) f.bytes else c.key })
  | _ =>
    let r := lastByte f.bytes csum f.parse f.man
    s.setFrame fid { f with parse := r.1, man := r.2 }

/-- Settle what waited for the frame's FCS (R157). -/
def State.flowSettle (s : State) (f : Frame) : State :=
  match f.flow with
  | .berth sl _ => s.passSettleN sl.val 3
  | _ => s

/-- FRAME_RX_END (R12): `fecBad` says that the frame spans an uncorrectable FEC codeword. -/
def execFrameRxEnd (fid : Nat) (fecBad : Bool) (s : State) : Outc :=
  .next (match s.frame? fid with
  | none => s
  | some f =>
    if f.lenKnown = true then s
    else
      let k := portIx f.port
      let n := f.bytes.length
      if fecBad then ((s.frameDrop fid).bump F.portCntFecUncorr k).bump F.portCntRxFcs k
      else if s.get F.portCfg_maxFrame k < n then (s.frameDrop fid).bump F.portCntRxOversize k
      else if n < 64 then (s.frameDrop fid).bump F.portCntRxRunt k
      else if f.bytes.drop (n - 4) ≠ fcsOf (f.bytes.take (n - 4)) then (s.frameDrop fid).bump F.portCntRxFcs k
      else if isControl f.bytes = false ∧ s.modeNo = mMOORED ∧ f.port < 128 then (s.frameDrop fid).bump F.portCntRxModeDiscard k
      else
        let s := (s.addTo F.portCntRxOctets k n).bump F.portCntRxFrames k
        let bc := f.bytes.take 6 == List.replicate 6 (0xFF : Byte)
        let s := (s.bumpIf bc F.portCntRxBcast k).bumpIf (!bc && (f.bytes.getD 0 0).getLsbD 0) F.portCntRxMcast k
        if isControl f.bytes then (s.frameDrop fid).controlRx f.port f.bytes
        else
          match f.stage with
          | .receiving =>
            let s := s.frameLast fid { f with stage := .queued }
            if s.modeNo = mHARBOUR ∧ s.hbor.draining.isNone = true then s
            else let v := s.quay f.quay.val; s.setQuay f.quay.val { v with waiting := v.waiting ++ [fid] }
          | _ => (s.frameLast fid f).flowSettle f)

/-! ### Dispatch (R30, R71-R73) -/

/-- Busy contexts of a pilot engine. -/
def State.pilotBusy (s : State) (q : Quay) (e : Fin 64) : Nat :=
  ((List.finRange 8).filter (fun c => (s.ctx? (.pilot q e c)).isSome)).length

/-- The free context that the next head takes: on the engine with the fewest busy contexts, ties to the lowest-numbered engine after
the one chosen last (R72). -/
def State.freePilot (s : State) (q : Quay) : Option (Fin 64 × Fin 8) :=
  let lim := s.get F.quayPilotCtrl_ctxMax q.val + 1
  let last := (s.quay q.val).lastEngine
  let order := (List.range 64).map (fun j => (⟨(last + 1 + j) % 64, Nat.mod_lt _ (by decide)⟩ : Fin 64))
  let best := order.foldl (fun (b : Option (Fin 64 × Nat)) e =>
    let n := s.pilotBusy q e
    if lim ≤ n then b
    else match b with
      | none => some (e, n)
      | some (_, k) => if n < k then some (e, n) else b) none
  match best with
  | none => none
  | some (e, _) => ((List.finRange 8).find? (fun c => decide (c.val < lim) && (s.ctx? (.pilot q e c)).isNone)).map (fun c => (e, c))

/-- Whether the pilots of a quay may take a frame now (Table 15.3, R428). -/
def State.pilotsRun (s : State) (q : Nat) (f : Frame) : Bool :=
  (s.forwarding && !(s.paused q) && s.bit F.quayPilotCtrl_dispatchEn q)
    || (s.modeNo == mMOORED && (f.port == 128 || f.port == 129) && s.bit F.quayPilotCtrl_dispatchEn q)

/-- The manifest a pass starts with: its pass and generation, the header stack and the parse flags cleared (R68, R73, R75). -/
def passMan (m : Man) (gen : Bool) (len : Option Nat) : Man :=
  let m := putBits (putBits m (8 * 0x20) 200 0) (8 * 0x0C) 32 0
  let m := msetBits m mKind 2 1 gen.toNat
  match len with
  | some n => mset m mLen n
  | none => msetLenPending m true

/-- HEAD_DISPATCH (R72, R73): `fetchBad` says that the program's first word fails its check. -/
def execHeadDispatch (q : Quay) (fetchBad : Bool) (s : State) : Outc :=
  .next (match (s.quay q.val).waiting with
  | [] => s
  | fid :: rest =>
    match s.frame? fid, s.freePilot q with
    | some f, some (e, c) =>
      if s.pilotsRun q.val f = false then s
      else
        let r := if f.flight = 0 then s.flightStart else (s, f.flight, f.gen)
        let s := r.1
        let gen := r.2.2
        let len : Option Nat := if f.lenKnown then some f.bytes.length else none
        let m := passMan f.man gen len
        let role := s.prpRole f
        let x : CtxId := .pilot q e c
        let v := s.quay q.val
        let s := s.setQuay q.val { v with waiting := rest, lastEngine := e.val }
        let s := s.setFrame fid { f with gen := gen, flight := r.2.1, man := m, stage := .pilot x, parse := {}, stopped := false,
                                         resolved := false, look := false, flow := .none }
        let s := s.spoilWord 0 q.val gen 0 fetchBad
        let s := s.pmc (frameEv 0x0401 (0x20 + q.val) m false 1)
        (s.zeroG x).setCtx x
          { fid := fid, gen := gen, pass := mPassOf m, pc := 0, man := m, manW := f.manW, h := ofWire 2048 (f.bytes.take 256),
            hlen := Nat.min 256 f.bytes.length,
            key := if role != 0 && f.lenKnown then keyPrp 0 role f.bytes else 0, prp := role != 0 && !f.lenKnown }
    | _, _ => s)

/-! ### The breakwater (R91) -/

/-- BREAKWATER_TICK (R91): each limiter adds RATE up to BURST; a full limiter is not listed. -/
def execBreakwaterTick (s : State) : Outc :=
  .next (
    if s.time.tl = false then s
    else (List.range 64).foldl (fun s c =>
      let full := s.get F.quayBwCfg_burst c * 65536
      let n := s.bwCount c + s.get F.quayBwCfg_rate c
      { s with tab := { s.tab with bw := if full ≤ n then Tab.del s.tab.bw c else Tab.put s.tab.bw c n } }) s)

/-! ### The learn filter (R116, R117) -/

/-- Whether a place of the filter has expired. -/
def State.learnOld (s : State) (k : LearnKey) : Bool := decide (k.postedNs + s.get F.tblLearnCfg_window 0 * 1000000 ≤ s.ns)

/-- LEARN_FILTER (R116): the filter takes the oldest notice of quay group `g`. -/
def execLearnFilter (g : Fin 4) (s : State) : Outc :=
  .next (match Tab.getD s.tab.learnWait g.val [] with
  | [] => s
  | n :: rest =>
    let s := { s with tab := { s.tab with learnWait := Tab.put s.tab.learnWait g.val rest } }
    let st := (kx64 (BitVec.ofNat 8 n.part :: n.key) (BitVec.ofNat 64 (s.get F.tblEmSeed_seed 0))).toNat % 1024
    let l := (Tab.getD s.tab.filter st []).filter (fun k => !(s.learnOld k))
    if l.any (fun k => k.part == n.part && k.key == n.key) then s.bump F.tblCntLearnSuppressed 0
    else
      let l := if l.length < 4 then l else l.drop 1
      let k : LearnKey := { part := n.part, key := n.key, postedNs := s.ns }
      ({ s with tab := { s.tab with filter := Tab.put s.tab.filter st (l ++ [k]) } }).noticeOut n)

/-! ### Ageing of exact-match entries (R112, R113) -/

def State.emAger (s : State) (p : Nat) : EmAger := Tab.getD s.tab.agers p {}
def State.setEmAger (s : State) (p : Nat) (a : EmAger) : State := { s with tab := { s.tab with agers := Tab.put s.tab.agers p a } }

/-- Insert a number into a rising list without repeats. -/
def insertNat (n : Nat) : List Nat → List Nat
  | [] => [n]
  | k :: l => if n < k then n :: k :: l else if n = k then k :: l else k :: insertNat n l

/-- EM_AGE_TICK (R112): a pass over the partition's lines and stash slots starts, in the position order of R114. -/
def execEmAgeTick (p : Fin 16) (s : State) : Outc :=
  .next (
    if s.bit F.tblEmPart_ageEn p.val = true ∧ s.time.tl = true then
      let lines := s.tab.em.foldl (fun l e => if e.2.part = p.val then insertNat (s.emPos p.val e.1 / 4) l else l) []
      s.setEmAger p.val { s.emAger p.val with todo := lines }
    else s)

/-- The ageing decision of one entry (R112). -/
def State.emAgeOne (s : State) (p : Nat) (ix : Nat) : State :=
  match Tab.get? s.tab.em ix with
  | none => s
  | some e =>
    let put := fun (e : EmEntry) => { s with tab := { s.tab with em := Tab.put s.tab.em ix e } }
    if e.static then s
    else if e.hit then put { e with hit := false, age := 0 }
    else if s.get F.tblEmPart_ageLimit p ≤ e.age + 1 then
      let s := (s.emRemove p ix).bump F.tblCntAged 0
      if s.bit F.tblEmPart_ageNotify p then s.noticeOut ⟨3, p, 0xFF, 0, e.key, e.data⟩ else s
    else put { e with age := e.age + 1 }

/-- EM_AGER_VISIT (R112): the ager visits the next line of the pass. -/
def execEmAgerVisit (p : Fin 16) (s : State) : Outc :=
  .next (match (s.emAger p.val).todo with
  | [] => s
  | pos :: rest =>
    let here := (s.tab.em.filter (fun e => e.2.part == p.val && s.emPos p.val e.1 / 4 == pos)).map (·.1)
    here.foldl (fun s ix => s.emAgeOne p.val ix) (s.setEmAger p.val { s.emAger p.val with todo := rest }))

/-! ### Fragments, LPM, repairs, meters and depths -/

/-- FRAG_AGE_TICK (R87, R88): an entry unused for 8 ticks goes at the next. -/
def execFragAgeTick (s : State) : Outc :=
  .next (
    if s.forwarding = true ∧ s.time.tl = true then
      s.tab.frag.foldl (fun s e => if 8 ≤ e.2.age then s.delFrag e.1
        else { s with tab := { s.tab with frag := Tab.put s.tab.frag e.1 { e.2 with age := e.2.age + 1 } } }) s
    else s)

/-- LPM_SPARE_RETURN (R121): the units of rebuilds whose 512 core clocks have passed return. -/
def execLpmSpareReturn (s : State) : Outc :=
  .next { s with tab := { s.tab with spare := s.tab.spare.filter (fun e => decide (s.coreClk < e.2)) } }

/-- TABLE_REPAIR (R135): the oldest bad copy is rewritten from the first good sibling, or stays bad. -/
def execTableRepair (s : State) : Outc :=
  .next (match s.tab.repairs with
  | [] => s
  | (kind, g, ix) :: rest =>
    let s := { s with tab := { s.tab with repairs := rest } }
    if (List.range 4).any (fun h => h != g && !(s.isBad kind h ix)) then
      let s := { s with tab := { s.tab with bad := s.tab.bad.filter (fun e => e != (kind, g, ix)) } }
      (s.bump F.tblCntRepaired 0).cmdEvent 4 kind stREPAIRED ix
    else (s.bump F.tblCntUnrepaired 0).cmdEvent 5 kind stPARITY ix)

/-- METER_SWEEP (R246): every table meter that has been written is refilled. -/
def execMeterSweep (s : State) : Outc :=
  .next (
    let ms := s.tab.objs.filterMap (fun e => if e.1 / 2 ^ 20 = oMETER then some (e.1 % 2 ^ 20) else none)
    (ms.foldl (fun s ix => (s.meterRun ix none).2) s).bump F.tmCntMeterSweep 0)

/-- DEPTH_SAMPLE_SWEEP (R263): DQ of every queue. -/
def execDepthSampleSweep (s : State) : Outc :=
  .next (
    let d := (s.regIxs .bufQUsed).foldl (fun t q =>
      let u := s.get F.bufQUsed_used q
      if u = 0 then t else Tab.put t q (Nat.min 255 ((u + 15) / 16))) ([] : Tab Nat)
    { s with tm := { s.tm with depth := d } })

end Sys2Proof.Machine
end

