-- ==== Sys2Proof/Machine/Release.lean ====
section
/-!
DEFINITION. Machine/Release.lean: the release stage: the order of release (R15-R17), what settles a frame at the head of its list (R69,
R79, R85, R161), exceptions and copies (R92-R94), next hops and ECMP (R127, R128, R133, R170, R171), replication lists (R193), mirror
requests (R197), captures (R398) and the held stamp (R297).
-/
namespace Sys2Proof.Machine

abbrev rNH_DROP : Nat := 0x08

/-! ### The order of release (R15-R17) -/

/-- The release list of a frame: its port, or the quay's host transmit or recirculation list (R17, R269). -/
def Frame.list (f : Frame) : Nat :=
  match f.src with
  | .wire => if f.port < 128 then f.port else 1000 + f.quay.val
  | .host => 1000 + f.quay.val
  | .recirc => 2000 + f.quay.val

/-- Whether a frame leaves its list at once (R16). -/
def Frame.leaves (f : Frame) : Bool := f.stopped || mVerdict f.man == vDROP || mVerdict f.man == vEXCEPTION

/-- Whether the earlier frame `g` holds back `f`: a frame whose program has not ended may still take the same class (R15). -/
def Frame.holds (g f : Frame) : Bool :=
  g.list == f.list &&
    (match g.stage with
     | .receiving => true
     | .queued => true
     | .pilot _ => true
     | .parsed => !g.leaves && (decide (1000 ≤ f.list) || mItcOf g.man == mItcOf f.man)
     | _ => false)

/-- Whether a frame is the first of its list. -/
def State.listHead (s : State) (fid : Nat) (f : Frame) : Bool := s.eng.frames.all (fun e => decide (fid ≤ e.1) || !(e.2.holds f))

/-! ### What settles the frame (R69, R79, R85, R161) -/

/-- PARSE_LEN, repeated at release (R79). -/
def State.relLen (s : State) (f : Frame) : Frame :=
  if f.stopped then f else match s.parseLenAct f.quay.val f.man with | some m => { f with man := m } | none => f

/-- A later fragment that finds no entry (R85). -/
def State.fragMiss (s : State) (f : Frame) : State × Frame :=
  let q := f.quay.val
  let m := mraise f.man pfFRAG_NOFIRST
  (s.bump F.quayCntFragNofirst q,
   { f with man := if s.bit F.quayParsePolicy_nofirstAct q then mExc m xFRAG_NOFIRST else mDrop m rFRAG_NOFIRST })

/-- The bytes of Table 3.3 that a fragment entry gives. -/
def fragBytes : BitVec 128 := byteMask 0x04 2 ||| byteMask 0x3C 20 ||| byteMask 0x58 24

/-- A later fragment looks up the decision of its first one (R85); `bad` says that the copy read fails its check. -/
def State.relFrag (s : State) (f : Frame) (bad : Bool) : State × Frame :=
  match f.look, f.parse.holder with
  | true, some id =>
    let f := { f with look := false }
    let g := f.quay.val / 4
    (match s.fragFind (fragKey id (mZoneOf f.man)) with
     | some (ix, e) =>
       if bad || s.isBad tkFRAG g ix then (s.parityEvent tkFRAG g ix).fragMiss f
       else
         let s := { s with tab := { s.tab with frag := Tab.put s.tab.frag ix { e with age := 0 } } }
         (s.bump F.quayCntFragHit f.quay.val,
          { f with man := fragApply e f.man, manW := (f.manW &&& ~~~fragBytes) ||| (e.written &&& fragBytes) })
     | none => s.fragMiss f)
  | _, _ => (s, f)

/-- The flow pass's own fate, and its flags DROP and EXC over FORWARD (R61, R69, R158). -/
def relFlow (f : Frame) : Frame :=
  if f.stopped then f
  else
    match f.flowDrop with
    | some r => if mVerdict f.man = vDROP then f else { f with man := mDrop f.man r }
    | none =>
      let fl := mget f.man mFflags
      if mVerdict f.man ≠ vFORWARD then f
      else if fl.testBit ffDROP then { f with man := mDrop f.man (mget f.man mFcause) }
      else if fl.testBit ffEXC then { f with man := mExc f.man (mget f.man mFcause) }
      else f

/-- NOROOM_ACT (R161). -/
def State.relNoRoom (s : State) (f : Frame) : Frame :=
  if f.noRoom = false ∨ f.leaves = true then f
  else
    match s.get F.ledgerPolicy_noroomAct 0 with
    | 1 => { f with man := mDrop f.man rLEDGER_NOROOM }
    | 2 => { f with man := mExc f.man xLEDGER_NOROOM }
    | _ => { f with xcopy := f.xcopy ++ [xLEDGER_NOROOM] }

/-! ### Next hops (R127, R128, R133, R170, R171) -/

/-- Write the chosen next hop into a sticky record, with SET (R170). -/
def State.stickyWrite (s : State) (sl : Nat) (key : List Byte) (nh : Nat) : State :=
  let o := areaOff s.compact
  match (s.slice sl).findKey key with
  | some (n, _) =>
    s.setSlice sl ((s.slice sl).updRec n (fun e =>
      { e with img := putBits (putBytesLe e.img o 4 nh) (8 * (o + 6)) 1 1, dirty := true }))
  | none => s

/-- Pick a member of a group; a least-loaded group takes two depth samples (R128, R263). -/
def State.groupPick (s : State) (g grp : Nat) (m : Man) : State × Nat × Bool :=
  let r := s.ecmpPick g grp m
  let s := if s.objF oECMP grp 27 1 = 1
    then { s with tab := { s.tab with ecmpSamples := Tab.put s.tab.ecmpSamples grp (Tab.getD s.tab.ecmpSamples grp 0 + 2) } } else s
  (s, r.1, r.2)

/-- Fill the forwarding fields that the programs left to the next hop (R127). -/
def State.nhFill (s : State) (m : Man) (w : BitVec 128) (nh : Nat) : Man :=
  let un := fun (i k : Nat) => (w &&& byteMask i k) == 0
  let m := if un 0x4E 1 || mget m mEport == 255 then mset m mEport (s.objF oNH nh 0 8) else m
  let m := if un 0x48 4 then mset m mRewrite (s.objF oNH nh 9 17) else m
  if un 0x44 4 then mset m mQueue ((s.objF oNH nh 26 17 + mEtcOf m) % 131072) else m

/-- R127 for a frame: the state and the frame with its fields resolved, or dropped. -/
def State.relResolve (s : State) (f : Frame) (bad : Bool) : State × Frame :=
  let g := f.quay.val / 4
  let v := mget f.man mNh
  if (f.manW &&& byteMask 0x40 4) = 0 then (s, f)
  else
    let grp := v % 16384
    let isGrp := decide (2 ^ 31 ≤ v)
    let r := if isGrp then s.groupPick g grp f.man else (s, v % 2 ^ 18, false)
    let s := r.1
    let nh := r.2.1
    if bad || r.2.2 || s.isBad tkNH g nh then
      (if isGrp && (bad || r.2.2) then s.parityEvent tkECMP g grp else s.parityEvent tkNH g nh, { f with man := mDrop f.man rPROGRAM_FAULT })
    else if s.objF oNH nh 43 1 = 1 then
      if mget f.man mFprog = 0xF1 ∧ f.flow = .back ∧ s.bit F.ledgerLibParam_repick 0 = true then
        let r2 := s.groupPick g (mget f.man (0x58, 2) % 16384) f.man
        let nh2 := r2.2.1
        let s := r2.1.stickyWrite (r2.1.sliceOf 0xF1 f.askKey) f.askKey nh2
        (s, { f with man := s.nhFill f.man f.manW nh2 })
      else (s, { f with man := mDrop f.man rNH_DROP })
    else
      let s := match f.sticky with | some (sl, _) => s.stickyWrite sl.val f.askKey nh | none => s
      (s, { f with man := s.nhFill f.man f.manW nh })

/-! ### Copies, mirrors and captures (R93, R193, R196, R197, R398) -/

/-- The members of a replication list that a frame goes to, pruned ones counted (R192, R193). -/
def State.listMembers (s : State) (f : Frame) (m : Man) : State × List (Nat × Nat × Nat) :=
  let l := mget m mRepl
  let base := s.objF oLIST l 0 18
  let n := s.objF oLIST l 18 10 + 1
  (List.range n).foldl (fun (a : State × List (Nat × Nat × Nat)) i =>
    let x := base + i
    let port := a.1.objF oRMEMBER x 0 8
    if a.1.objF oRMEMBER x 43 1 = 1 ∧ port = mget m mPort then (a.1.bump F.egrCntPruned f.quay.val, a.2)
    else
      let rw := if a.1.objF oRMEMBER x 42 1 = 1 then mget m mRewrite % 131072 else a.1.objF oRMEMBER x 25 17
      (a.1, a.2 ++ [(port, a.1.objF oRMEMBER x 8 17 + mEtcOf m, rw)])) (s, [])

/-- A request to mirror session `n` (R197): whether it is taken. -/
def State.mirrorReq (s : State) (n : Nat) : State × Bool :=
  let s := s.bump F.egrMirrorCntReq n
  let nn := s.get F.egrMirrorCfg_nM1 n + 1
  if s.get F.egrMirrorCfg_type n = 0 ∨ s.get F.egrMirrorCfg_type n = 3 then (s, false)
  else if s.bit F.egrMirrorCfg_mode n then
    let hit := decide (s.freeVal.toNat % 16777216 * nn < 16777216)
    (s.useFree.bumpIf hit F.egrMirrorCntTaken n, hit)
  else
    let c := Tab.getD s.tab.mirrorCnt n 0 + 1
    if nn ≤ c then ({ s with tab := { s.tab with mirrorCnt := Tab.put s.tab.mirrorCnt n 0 } }.bump F.egrMirrorCntTaken n, true)
    else ({ s with tab := { s.tab with mirrorCnt := Tab.put s.tab.mirrorCnt n c } }, false)

/-- The manifest of a mirror or sample copy (R198). -/
def mirrorMan (m : Man) : Man := msetBits (mset m mTreq 0) mKind 5 1 1

/-- The ingress mirror or sample copy that a frame's action word asks for: the session, where it is taken and, for SAMPLE, granted. -/
def State.relMirror (s : State) (f : Frame) : State × Option Nat :=
  if mMirror f.man then
    let n := mSession f.man
    match s.mirrorReq n with
    | (s, true) =>
      if s.get F.egrMirrorCfg_type n = 2 then
        match s.bwAsk xSAMPLE (0x20 + f.quay.val) f.man with
        | (s, true) => (s, some n)
        | (s, false) => (s, none)
      else (s, some n)
    | (s, false) => (s, none)
  else (s, none)

/-- The partition that a capture point of a zone selects, while it is open (R398). -/
def State.zoneCapture (s : State) (z bit : Nat) : State × Option Nat :=
  if (s.get F.logZoneCap_point z).testBit bit && s.capMode 1 && s.get F.logStatus_state 0 != 0 then
    let p := s.get F.logZoneCap_part z
    if s.get F.logPartStatus_state p == 1 then (s, some p) else (s.bump F.logCntNoPart 0, none)
  else (s, none)

/-- The stamp that CFUPD will need moves into the held-stamp store (R297). -/
def State.holdStamp (s : State) (f : Frame) : State :=
  let t := mget f.man mTreq
  let b := t / 16
  let prim := s.get F.timePortCfg_primary f.port
  let ix := if b = 15 then 8 else b
  if t.testBit 2 = true ∧ f.src = .wire ∧ b ≠ prim then
    match Tab.get? f.stamps ix with
    | some st =>
      if s.time.held.length < 65536 then
        { s with time := { s.time with held := Tab.put s.time.held (mget f.man mPort * 65536 + mget f.man mSeq) st } }
      else s.bump F.timeCntHeldFull 0
    | none => s
  else s

/-! ### RELEASE -/

/-- Count the parse marks of a frame (Table 3.6). -/
def State.relCount (s : State) (f : Frame) : State :=
  let q := f.quay.val
  ((s.bumpIf (mflag f.man pfDEPTH) F.quayCntParseDepth q).bumpIf (mflag f.man pfLEN) F.quayCntParseLen q).bumpIf (mflag f.man pfNO_DEST)
    F.quayCntNoDest q

/-- The copies that go to the exception path at release: the action word's, and those the device asks for. -/
def State.relCopies (s : State) (f : Frame) : State :=
  let own := if mCopy f.man then [mCause f.man] else []
  (own ++ f.xcopy).foldl (fun s c => s.copyAsk c (0x20 + f.quay.val) f.man f.stamps f.bytes f.flight) s

/-- A frame that leaves its list under R16: dropped, or delivered on the exception path where its limiter grants it (R92-R94). -/
def State.relLeave (s : State) (fid : Nat) (f : Frame) : State :=
  let s := (s.setFrame fid f).relCopies f
  if mVerdict f.man = vEXCEPTION then
    let c := causeOf (mCause f.man)
    match s.bwAsk c (0x20 + f.quay.val) f.man with
    | (s, true) =>
      let s := (if f.flight = 0 then s else s.flightAdd f.flight).deliver c f.man f.stamps f.bytes f.flight
      s.frameDrop fid
    | (s, false) => (s.setFrame fid { f with man := mDrop f.man rEXC_LIMITED }).frameDrop fid
  else s.frameDrop fid

/-- A frame goes on to the admission stage with the copies that it will make. -/
def State.relAdmit (s : State) (fid : Nat) (f : Frame) : State :=
  let q := f.quay.val
  let s := s.relCopies f
  let s := match f.sticky with | some (sl, b) => s.stickyFree sl.val b | none => s
  let r := if mVerdict f.man = vRECIRCULATE then (s, [(130 + q, 131072 + q * 8 + mEtcOf f.man, mget f.man mRewrite % 131072)])
    else if mget f.man mRepl ≠ 0 then s.listMembers f f.man
    else (s, [(mget f.man mEport, mget f.man mQueue % 131072, mget f.man mRewrite % 131072)])
  let mi := r.1.relMirror f
  let lg := mi.1.zoneCapture (mZoneOf f.man) 0
  let s := lg.1.holdStamp f
  let s := s.setFrame fid { f with stage := .admitted, members := r.2, mirror := mi.2, logIn := lg.2, sticky := none }
  let v := s.quay q
  s.setQuay q { v with repl := v.repl ++ [fid] }

/-- Whether the replication engine of a quay holds its 64 frames (R194). -/
def State.replFull (s : State) (q : Nat) : Bool :=
  decide (64 ≤ ((s.quay q).repl.filter (fun fid => match s.frame? fid with | some f => mget f.man mRepl != 0 | none => false)).length)

/-- What the release stage makes of a frame at the head of its list. -/
def State.relHead (s : State) (fid : Nat) (f : Frame) (bad : Bool) : State :=
  let wasLook := f.look
  let r := s.relFrag f bad
  let f := r.1.relNoRoom (relFlow r.2)
  let r2 := if mVerdict f.man = vFORWARD then r.1.relResolve f (bad && !wasLook) else (r.1, f)
  let f := r2.2
  let f := if mVerdict f.man = vRECIRCULATE ∧ mPassOf f.man = 3 then { f with man := mDrop f.man rRECIRC_LIMIT } else f
  if f.leaves then (r2.1.relCount f).relLeave fid f else (r2.1.relCount f).relAdmit fid f

/-- RELEASE (R15): `bad` says that the fragment, next-hop or ECMP copy the frame reads fails its check. -/
def execRelease (fid : Nat) (bad : Bool) (s : State) : Outc :=
  .next (match s.frame? fid with
  | none => s
  | some f =>
    if f.stage ≠ .parsed ∨ f.resolved = false ∨ f.lenKnown = false ∨ (f.flow ≠ .none ∧ f.flow ≠ .back) then s
    else
      let f := s.relLen f
      let f := if f.look && f.flowDrop.isNone then f else relFlow f
      if f.leaves then (s.relCount f).relLeave fid f
      else if s.listHead fid f = false ∨ (mget f.man mRepl ≠ 0 ∧ s.replFull f.quay.val = true) then s
      else s.relHead fid f bad)

end Sys2Proof.Machine
end

