-- ==== Sys2Proof/Machine/Admit.lean ====
section
/-!
DEFINITION. Machine/Admit.lean: admission: the queue a copy goes to and fast failover (R233, R259, R282, R286), allocation (R207,
R208, R211-R214, R219-R222, R388), writing (R208, R225), the making of copies (R193-R198, R399) and their enqueue (R216, R226, R234).
-/
namespace Sys2Proof.Machine

/-! ### Clocks -/

/-- The core clocks that fall in this nanosecond (Table 1.4). -/
def State.clocks (s : State) : List Nat :=
  ((List.range 2).map (fun j => s.coreClk + j)).filter (fun t => decide (t < (s.ns + 1) * 3 / 2))
/-- The last of them. -/
def State.lastClk (s : State) : Nat := (s.ns + 1) * 3 / 2 - 1

/-! ### The queue of a copy (R233, R259, R282, R286) -/

/-- The enabled failover group of a port, and its own queue base in it. -/
def State.failGroup (s : State) (p : Nat) : Option (Nat × Nat) :=
  (List.range 256).findSome? (fun g =>
    if s.bit F.portFfGroup_en g then
      ((List.range (s.get F.portFfGroup_countM1 g + 1)).find? (fun m => s.get F.portFfMember_port (g * 8 + m) == p)).map
        (fun m => (g, s.get F.portFfMember_qbase (g * 8 + m)))
    else none)

/-- The live member that takes the copies of a dead port, with its queue base (R286). -/
def State.failTarget (s : State) (g : Nat) : Option (Nat × Nat) :=
  ((List.range (s.get F.portFfGroup_countM1 g + 1)).find? (fun m =>
    let p := s.get F.portFfMember_port (g * 8 + m)
    decide (p < 130) && s.linkUp p && s.bit F.tmPortCfg_en p)).map
      (fun m => (s.get F.portFfMember_port (g * 8 + m), s.get F.portFfMember_qbase (g * 8 + m)))

/-- The queue and port that a copy for a dead port is redirected to (R286). -/
def State.redirect (s : State) (queue port : Nat) : Option (Nat × Nat × Nat) :=
  match s.failGroup port with
  | none => none
  | some (g, qb) =>
    if qb ≤ queue ∧ queue < qb + 8 then (s.failTarget g).map (fun t => (g, t.2 + (queue - qb), t.1)) else none

/-- Post FAILOVER on the first redirection after a link down (R287). -/
def State.failPost (s : State) (port g : Nat) : State :=
  let st := s.portSt port
  if st.failoverPosted then s else (s.setPortSt port { st with failoverPosted := true }).linkEvent 9 port (g % 256)

/-- Whether the class of a queue drops its frames in a storm (R282). -/
def State.stormDrops (s : State) (queue port : Nat) : Bool :=
  match s.queueSlot queue with
  | some (_, c) => decide (port < 130) && (s.portSt port).storm.getLsbD c && !(s.bit F.portPfcWd_wdAction (portIx port))
  | none => false

/-- The queue and port that a new copy goes to, or none where it is refused and counted (R233, R259, R282, R286). -/
def State.queueAsk (s : State) (queue port : Nat) : State × Option (Nat × Nat) :=
  if 131072 ≤ queue then (s, some (queue, port))
  else
    let settle := fun (s : State) (queue port : Nat) =>
      if s.elEn queue = false then (s.bump F.tmCntQDisabled 0, none)
      else if (s.queueSlot queue).map (·.1) ≠ some port then (s.bump F.tmCntQPortMismatch 0, none)
      else if s.linkUp port = false then (s.bump F.tmCntDropPortDown port, none)
      else if s.stormDrops queue port then (s.bump F.portCntStormDrop (portIx port), none)
      else (s, some (queue, port))
    if s.elEn queue = true ∧ (s.queueSlot queue).map (·.1) = some port ∧ s.linkUp port = false then
      match s.redirect queue port with
      | some (g, q2, p2) => settle (s.failPost port g) q2 p2
      | none => settle s queue port
    else settle s queue port

/-- Whether the egress thresholds let a copy of `n` cells into a queue (R220). -/
def State.thresholdOk (s : State) (queue n : Nat) : Bool :=
  (decide (queue < 131072) && s.bit F.bufQCfg_lossless queue) || s.qAdmit queue n

/-! ### Allocation (R207, R208, R211-R214, R220, R222) -/

/-- Copies that a frame will make, captures included (R195). -/
def Frame.copies (f : Frame) : Nat := f.members.length + f.mirror.toList.length + f.logIn.toList.length

/-- Whether a manifest is that of a mirror or sample copy (R198). -/
def isMirror (m : Man) : Bool := mbits m mKind 5 1 == 1

/-- Whether a frame goes to the members of a replication list (R193); a mirror copy makes no further copy (R198). -/
def Frame.listed (f : Frame) : Bool := mget f.man mRepl != 0 && mVerdict f.man != vRECIRCULATE && !(isMirror f.man)

/-- Whether a frame's buffer is held by reference count: it has a list, a mirror copy or a capture; another frame's one copy holds it
as plain owner (R195, R216, R218). -/
def Frame.counted (f : Frame) : Bool := f.listed || f.mirror.isSome || f.logIn.isSome

/-- The first frame of a quay in a stage. -/
def State.replFirst (s : State) (q : Nat) (ok : Stage → Bool) : Option (Nat × Frame) :=
  (s.quay q).repl.findSome? (fun fid =>
    match s.frame? fid with
    | some f => if ok f.stage then some (fid, f) else none
    | none => none)

/-- Whether a frame is admitted on the account of a lossless priority group (R222); recirculation takes no lossless class (R200). -/
def State.onPg (s : State) (f : Frame) : Bool :=
  f.src == .wire && s.bit F.bufPgCfg_lossless (pgKey f.port (mItcOf f.man)) && mVerdict f.man != vRECIRCULATE

/-- The buffer is granted: its descriptor, its account, and the frame goes on to its write (R208, R215, R216, R218). -/
def State.granted (s : State) (fid : Nat) (f : Frame) (acct b : Nat) : State :=
  let q := f.quay.val
  let k := pgKey f.port (mItcOf f.man)
  let v := s.quay q
  let n := f.copies
  let d : Desc := { refc := f.counted, mid := 0x20 + q, refcnt := if f.counted then n else 0, len := f.bytes.length,
                    start := subPool (bidPool b) (bidIx b), seq := BitVec.ofNat 32 (q * 2 ^ 28 + v.seq % 2 ^ 28), crc := 0,
                    pg := k, acct := acct, bytes := f.bytes, written := false, t0 := s.coreClk + 8 }
  let s := (s.setQuay q { v with seq := v.seq + 1 }).setDesc b d
  let s := if acct = 0 then s else s.pgCharge k acct (poolCells (bidPool b))
  s.setFrame fid { f with stage := .granted, bid := b, lossless := decide (acct ≠ 0) }

/-- The request itself; a frame that no pool takes is dropped (R214). -/
def State.askPool (s : State) (fid : Nat) (f : Frame) (p acct pick : Nat) : State :=
  let q := f.quay.val
  let sp := (q + s.coreClk + 8) % 16
  match s.allocFrom sp pick (acct == 2) 4 p with
  | (s, some (b, _)) => s.granted fid f acct b
  | (s, none) => ((s.bump F.bufCntPoolEmpty p).pmc (frameEv 0x0A02 (0x20 + q) f.man false 1)).frameDrop fid

/-- ALLOC_REQUEST (R211): the oldest frame at the admission stage of quay `q` asks for a buffer (log entries 13, 15). -/
def execAllocRequest (q : Quay) (pick : Nat) (s : State) : Outc :=
  .next (
    if s.forwarding = false then s
    else
      match s.replFirst q.val (fun x => x == .admitted) with
      | none => s
      | some (fid, f) =>
        let p := poolFor (cellsOf f.bytes.length)
        let n := poolCells p
        if f.copies = 0 then s.frameDrop fid
        else
          let r : State × Option Nat :=
            if f.counted = false then
              match f.members with
              | (port, queue, _) :: _ => let a := s.queueAsk queue port; (a.1, a.2.map (·.1))
              | [] => (s, some 131072)
            else (s, some 131072)
          match r with
          | (s, none) => s.frameDrop fid
          | (s, some queue) =>
            if s.onPg f then
              match s.losslessClass (pgKey f.port (mItcOf f.man)) n p with
              | 0 => (s.bump F.bufCntHdrmOverflow 0).frameDrop fid
              | acct => s.askPool fid f p acct pick
            else
              let ok := if f.counted = false then s.thresholdOk queue n else decide ((n : Int) ≤ s.sharedF)
              if ok then s.askPool fid f p 0 pick else (s.bump F.bufCntQThreshold 0).frameDrop fid)

/-! ### Writing (R208, R225) -/

/-- CELL_WRITE_START (R208, R225): the oldest granted frame of quay `q` is written from its slot on; the 16 bank groups come round
every 16 clocks. -/
def execCellWriteStart (q : Quay) (s : State) : Outc :=
  .next (
    match s.replFirst q.val (fun x => x == .granted) with
    | none => s
    | some (fid, f) =>
      match s.desc? f.bid with
      | none => s
      | some d =>
        let v := s.quay q.val
        let fixed := decide (bidPool f.bid < 2)
        match s.clocks.find? (fun t => decide (d.t0 ≤ t) && decide (v.writeEnd ≤ t) && (!fixed || (q.val + t) % 16 == d.start)) with
        | none => s
        | some t =>
          let n := cellsOf d.len
          let s := s.setDesc f.bid { d with written := true, t0 := t, start := if fixed then d.start else (q.val + t) % 16,
                                            crc := crc32c 0xFFFFFFFF#32 d.bytes }
          let s := s.setQuay q.val { v with writeEnd := t + n }
          (s.setFrame fid { f with stage := .written }).pmc (frameEv 0x0A01 (0x20 + q.val) f.man false n))

/-! ### Copies (R193-R198, R399) -/

/-- The copy of a frame for one destination. -/
def Frame.copyFor (f : Frame) (port queue rewrite : Nat) (m : Man) : Copy :=
  { flight := f.flight, bid := f.bid, port := port, queue := queue, rewrite := rewrite, man := m,
    manW := f.manW, ingress := f.port, seqId := f.seqId, gen := f.gen, treq := BitVec.ofNat 8 (mget m mTreq), enqNs := 0,
    lo := 0, mirror := isMirror m, rxStamp := BitVec.ofNat 128 (mget m mStamp) }

/-- One more copy waits to be enqueued. -/
def State.madeCopy (s : State) (q : Nat) (cp : Copy) : State :=
  let s := if cp.flight = 0 then s else s.flightAdd cp.flight
  let v := s.quay q
  s.setQuay q { v with made := v.made ++ [cp] }

/-- The manifest of a member's copy (R180, R192). -/
def memberMan (m : Man) (port queue rewrite : Nat) : Man := mset (mset (mset m mQueue queue) mRewrite rewrite) mEport port

/-- The 16 B that open a FRAME record's body (R399, Table 14.2). -/
def frameBody (len kept queue : Nat) (m : Man) (seqId : Nat) : List Byte :=
  leBytes 2 len ++ leBytes 2 kept ++ leBytes 4 queue ++ leBytes 4 (mget m mFhash) ++ leBytes 2 seqId ++ leBytes 2 0

/-- A FRAME record of kind 1 or 2 goes to the harbour log (R398, R399). -/
def State.frameRecord (s : State) (kind part : Nat) (m : Man) (inPort eport queue seqId : Nat) (t : Stamp) (bytes : List Byte)
    (bid : Option Nat) : State :=
  let z := mZoneOf m
  let tr := s.get F.logZoneCap_trunc z
  let kept := if tr = 0 then bytes else bytes.take (tr * 64)
  let cut := decide (kept.length < bytes.length)
  let w := inPort % 256 + eport % 256 * 2 ^ 8 + z % 2 ^ 12 * 2 ^ 16 + cut.toNat * 2 ^ 28
  { s with log := { s.log with queue := s.log.queue ++ [⟨kind, part, BitVec.ofNat 32 w, t,
      frameBody bytes.length kept.length queue m seqId ++ kept, bid⟩] } }

/-- The ingress mirror or sample copy (R196, R198). -/
def State.mirrorCopy (s : State) (q n : Nat) (f : Frame) : State :=
  let m := mirrorMan f.man
  let tr := s.get F.egrMirrorCfg_trunc n
  if s.get F.egrMirrorCfg_type n = 2 then
    let bytes := if tr = 0 then f.bytes else f.bytes.take (tr * 64)
    let s := if f.flight = 0 then s else s.flightAdd f.flight
    s.deliver xSAMPLE m f.stamps bytes f.flight (some f.bid) (decide (bytes.length < f.bytes.length))
  else
    let queue := s.get F.egrMirrorDest_queue n
    let port := ((s.queueSlot queue).map (·.1)).getD 255
    s.madeCopy q { f.copyFor port queue (s.get F.egrMirrorDest_rewrite n) m with trunc := tr * 64 }

/-- The frame has made every copy: its capture leaves for the harbour log, and its own hold of the flight ends. -/
def State.copiesDone (s : State) (fid : Nat) (f : Frame) : State :=
  let s := match f.mirror with | some n => s.mirrorCopy f.quay.val n f | none => s
  let s := match f.logIn with
    | some p => s.frameRecord 1 p f.man f.port (mget f.man mEport) (mget f.man mQueue % 131072) f.seqId
        (BitVec.ofNat 128 (mget f.man mStamp)) f.bytes (some f.bid)
    | none => s
  ((s.quayForget f.quay.val fid).delFrame fid).flightDone f.flight f.man

/-- REPLICATION_COPY (R194): the oldest written frame of quay `q` makes its next copy. -/
def execReplicationCopy (q : Quay) (s : State) : Outc :=
  .next (
    match s.replFirst q.val (fun x => x == .written || x == .copying) with
    | none => s
    | some (fid, f) =>
      match f.members with
      | [] => s.copiesDone fid f
      | (port, queue, rewrite) :: rest =>
        let m := if f.listed then memberMan f.man port queue rewrite else f.man
        let s := s.madeCopy q.val (f.copyFor port queue rewrite m)
        let s := s.bumpIf f.listed F.egrCntCopies q.val
        let f := { f with members := rest, stage := .copying }
        if rest = [] then s.copiesDone fid f else s.setFrame fid f)

/-! ### Enqueue (R216, R226, R234) -/

/-- The egress quay that serves a TM port. -/
def egressOf (p : Nat) : Nat := quayOf p % 16

/-- Byte `i` of template `t` (Table 6.3). -/
def State.tmplByte (s : State) (t i : Nat) : Nat := s.objF oTEMPLATE t (8 * i) 8
/-- The bytes that rewrite entry `r` pushes (R183). -/
def State.pushLen (s : State) (r : Nat) : Nat :=
  if s.objF oREWRITE r 14 1 = 1 then s.tmplByte (s.objF oREWRITE r 0 14) 96 else 0

/-- The outgoing length, FCS included (R234). -/
def State.outLen (s : State) (rewrite len : Nat) : Nat :=
  len - s.objF oREWRITE rewrite 15 8 + s.pushLen rewrite

/-- A copy that admission refuses ends before its enqueue: its reference and its flight (R195). -/
def State.copyRefuse (s : State) (q : Nat) (cp : Copy) : State := (s.letGo cp.bid (0x20 + q)).flightDone cp.flight cp.man

/-- ENQUEUE (R226): the oldest copy of quay `q` is checked for its queue and thresholds and enqueued with its cargo seal. -/
def execEnqueue (q : Quay) (s : State) : Outc :=
  .next (
    if s.forwarding = false then s
    else
      match (s.quay q.val).made with
      | [] => s
      | cp :: rest =>
        let s := s.setQuay q.val { s.quay q.val with made := rest }
        match s.desc? cp.bid with
        | none => s.copyRefuse q.val cp
        | some d =>
          match s.queueAsk cp.queue cp.port with
          | (s, none) => s.copyRefuse q.val cp
          | (s, some (queue, port)) =>
            let n := poolCells (bidPool cp.bid)
            if d.refc = true ∧ d.acct = 0 ∧ s.thresholdOk queue n = false then
              (s.bump F.bufCntQThreshold 0).copyRefuse q.val cp
            else
              let e := egressOf port
              let len := if cp.trunc = 0 then d.len else Nat.min (cp.trunc + 4) d.len
              let cid := s.tm.nextCid
              let s := if d.refc then s else s.setDesc cp.bid { d with mid := 0x30 + e }
              let s := s.addQUsed queue n
              let cp := { cp with queue := queue, port := port, enqNs := s.tlNs, lo := s.outLen cp.rewrite len,
                                  sealV := sealOf d.crc d.seq queue (if port < 130 then port else 0xFD) }
              let s := match s.queueSlot queue with | some (tp, c) => s.cbsTouch (tp * 8 + c) | none => s
              let s := s.setCopy cid cp
              { s with tm := { s.tm with nextCid := cid + 1 } }.setQueue queue (s.queue queue ++ [cid]))

end Sys2Proof.Machine
end

