-- ==== Sys2Proof/Machine/Alu.lean ====
section
/-!
DEFINITION. Machine/Alu.lean: arithmetic and constants (R38, R39).
-/
namespace Sys2Proof.Machine

/-- An ALU instruction: g[rd] becomes `f g[ra] g[rb]` (R38). -/
def aluOp (mn : String) (f : Word → Word → Word) (x : CtxId) (rd ra rb : RegNo) (s : State) : Outc :=
  issue x mn (inProfiles x [.p, .s, .e, .t]) false [rd, ra, rb] s (fun s => s.setG x rd (f (s.g x ra) (s.g x rb)))

/-- An immediate instruction: g[rd] becomes `f g[rd] g[ra]` (R39). -/
def immOp (mn : String) (ok : Bool) (uses : List RegNo) (f : Word → Word → Word) (x : CtxId) (rd ra : RegNo) (s : State) : Outc :=
  issue x mn ok true uses s (fun s => s.setG x rd (f (s.g x rd) (s.g x ra)))

/-- The number of 1 bits. -/
def popCount (v : Word) : Word := BitVec.ofNat 64 ((List.range 64).foldl (fun n i => n + (v.getLsbD i).toNat) 0)
/-- The number of leading zeros. -/
def leadZeros (v : Word) : Word := BitVec.ofNat 64 (if v = 0 then 64 else 63 - v.toNat.log2)
/-- The low `n` bytes in reverse order, the rest zero. -/
def bswapN (n : Nat) (v : Word) : Word := BitVec.ofNat 64 (beNat (leBytes n v.toNat))
/-- MOVI (R39): imm16 placed in quarter ra[1:0]; ra[2] = 1 keeps the other bits of g[rd]. -/
def moviVal (ra : RegNo) (imm : BitVec 16) (old : Word) : Word :=
  let q := 16 * (ra.val % 4)
  let v : Word := (imm.setWidth 64 : Word) <<< q
  if 4 ≤ ra.val then (old &&& ~~~((0xFFFF : Word) <<< q)) ||| v else v

/-- ADD (R38, Table 2.11): g[ra] + g[rb] modulo 2^64. -/
def execAdd (x : CtxId) (rd ra rb : RegNo) (s : State) : Outc := aluOp "ADD" (fun a b => a + b) x rd ra rb s
/-- SUB (R38, Table 2.11): g[ra] - g[rb] modulo 2^64. -/
def execSub (x : CtxId) (rd ra rb : RegNo) (s : State) : Outc := aluOp "SUB" (fun a b => a - b) x rd ra rb s
/-- AND (R38, Table 2.11): bitwise AND. -/
def execAndd (x : CtxId) (rd ra rb : RegNo) (s : State) : Outc := aluOp "AND" (fun a b => a &&& b) x rd ra rb s
/-- OR (R38, Table 2.11): bitwise OR. -/
def execOrr (x : CtxId) (rd ra rb : RegNo) (s : State) : Outc := aluOp "OR" (fun a b => a ||| b) x rd ra rb s
/-- XOR (R38, Table 2.11): bitwise XOR. -/
def execXor (x : CtxId) (rd ra rb : RegNo) (s : State) : Outc := aluOp "XOR" (fun a b => a ^^^ b) x rd ra rb s
/-- ANDN (R38, Table 2.11): a AND NOT b. -/
def execAndn (x : CtxId) (rd ra rb : RegNo) (s : State) : Outc := aluOp "ANDN" (fun a b => a &&& ~~~b) x rd ra rb s
/-- SHL (R38, Table 2.11): shift left by g[rb] bits [5:0]. -/
def execShl (x : CtxId) (rd ra rb : RegNo) (s : State) : Outc := aluOp "SHL" (fun a b => shiftKind 0 a (b.toNat % 64)) x rd ra rb s
/-- SHR (R38, Table 2.11): logical shift right. -/
def execShr (x : CtxId) (rd ra rb : RegNo) (s : State) : Outc := aluOp "SHR" (fun a b => shiftKind 1 a (b.toNat % 64)) x rd ra rb s
/-- SAR (R38, Table 2.11): arithmetic shift right. -/
def execSar (x : CtxId) (rd ra rb : RegNo) (s : State) : Outc := aluOp "SAR" (fun a b => shiftKind 2 a (b.toNat % 64)) x rd ra rb s
/-- ROL (R38, Table 2.11): rotate left. -/
def execRol (x : CtxId) (rd ra rb : RegNo) (s : State) : Outc := aluOp "ROL" (fun a b => shiftKind 3 a (b.toNat % 64)) x rd ra rb s
/-- MINU (R38, Table 2.11): unsigned minimum. -/
def execMinu (x : CtxId) (rd ra rb : RegNo) (s : State) : Outc := aluOp "MINU" (fun a b => if a.toNat ≤ b.toNat then a else b) x rd ra rb s
/-- MAXU (R38, Table 2.11): unsigned maximum. -/
def execMaxu (x : CtxId) (rd ra rb : RegNo) (s : State) : Outc := aluOp "MAXU" (fun a b => if a.toNat ≤ b.toNat then b else a) x rd ra rb s
/-- MIN (R38, Table 2.11): signed minimum. -/
def execMin (x : CtxId) (rd ra rb : RegNo) (s : State) : Outc := aluOp "MIN" (fun a b => if a.toInt ≤ b.toInt then a else b) x rd ra rb s
/-- MAX (R38, Table 2.11): signed maximum. -/
def execMax (x : CtxId) (rd ra rb : RegNo) (s : State) : Outc := aluOp "MAX" (fun a b => if a.toInt ≤ b.toInt then b else a) x rd ra rb s
/-- SLTU (R38, Table 2.11): 1 if a < b unsigned. -/
def execSltu (x : CtxId) (rd ra rb : RegNo) (s : State) : Outc := aluOp "SLTU" (fun a b => if a.toNat < b.toNat then 1 else 0) x rd ra rb s
/-- SLT (R38, Table 2.11): 1 if a < b signed. -/
def execSlt (x : CtxId) (rd ra rb : RegNo) (s : State) : Outc := aluOp "SLT" (fun a b => if a.toInt < b.toInt then 1 else 0) x rd ra rb s
/-- MUL (R38, Table 2.11): the low 64 bits of the product. -/
def execMul (x : CtxId) (rd ra rb : RegNo) (s : State) : Outc := aluOp "MUL" (fun a b => a * b) x rd ra rb s
/-- POPC (R38, Table 2.11): the number of 1 bits of a. -/
def execPopc (x : CtxId) (rd ra rb : RegNo) (s : State) : Outc := aluOp "POPC" (fun a _ => popCount a) x rd ra rb s
/-- CLZ (R38, Table 2.11): the number of leading zeros of a. -/
def execClz (x : CtxId) (rd ra rb : RegNo) (s : State) : Outc := aluOp "CLZ" (fun a _ => leadZeros a) x rd ra rb s
/-- BSWAP16 (R38, Table 2.11): the low 2 bytes swapped. -/
def execBswap16 (x : CtxId) (rd ra rb : RegNo) (s : State) : Outc := aluOp "BSWAP16" (fun a _ => bswapN 2 a) x rd ra rb s
/-- BSWAP32 (R38, Table 2.11): the low 4 bytes swapped. -/
def execBswap32 (x : CtxId) (rd ra rb : RegNo) (s : State) : Outc := aluOp "BSWAP32" (fun a _ => bswapN 4 a) x rd ra rb s
/-- BSWAP64 (R38, Table 2.11): all 8 bytes swapped. -/
def execBswap64 (x : CtxId) (rd ra rb : RegNo) (s : State) : Outc := aluOp "BSWAP64" (fun a _ => bswapN 8 a) x rd ra rb s
/-- CSADD (R38, Table 2.11): the 16-bit ones'-complement sum. -/
def execCsadd (x : CtxId) (rd ra rb : RegNo) (s : State) : Outc := aluOp "CSADD" (fun a b => BitVec.ofNat 64 (fold16 (a.toNat % 65536 + b.toNat % 65536))) x rd ra rb s

/-- ADDI (R39). -/
def execAddi (x : CtxId) (rd ra : RegNo) (imm : BitVec 16) (s : State) : Outc :=
  immOp "ADDI" (true) [rd, ra] (fun _ a => a + simm imm) x rd ra s
/-- ANDI (R39). -/
def execAndi (x : CtxId) (rd ra : RegNo) (imm : BitVec 16) (s : State) : Outc :=
  immOp "ANDI" (true) [rd, ra] (fun _ a => a &&& zimm imm) x rd ra s
/-- ORI (R39). -/
def execOri (x : CtxId) (rd ra : RegNo) (imm : BitVec 16) (s : State) : Outc :=
  immOp "ORI" (true) [rd, ra] (fun _ a => a ||| zimm imm) x rd ra s
/-- XORI (R39). -/
def execXori (x : CtxId) (rd ra : RegNo) (imm : BitVec 16) (s : State) : Outc :=
  immOp "XORI" (true) [rd, ra] (fun _ a => a ^^^ zimm imm) x rd ra s
/-- SHI (R39). -/
def execShi (x : CtxId) (rd ra : RegNo) (imm : BitVec 16) (s : State) : Outc :=
  immOp "SHI" (decide (imm.toNat < 256)) [rd, ra] (fun _ a => shiftKind (immBits imm 6 2) a (immBits imm 0 6)) x rd ra s
/-- MOVI (R39). -/
def execMovi (x : CtxId) (rd ra : RegNo) (imm : BitVec 16) (s : State) : Outc :=
  immOp "MOVI" (decide (ra.val < 8)) [rd] (fun old _ => moviVal ra imm old) x rd ra s

end Sys2Proof.Machine
end

