-- ==== Sys2Proof/Machine/TmRun.lean ====
section
/-!
DEFINITION. Machine/TmRun.lean: the selectors (R231, R235-R237, R254, R255, R262, R264, R277), and the gate lists (R249-R251).
-/
namespace Sys2Proof.Machine

/-! ### Readiness (R200, R235) -/

/-- The TM ports of egress quay `e` (R11, R269, Table 8.1). -/
def quayPorts (e : Nat) : List Nat :=
  (List.range 8).map (fun j => e * 8 + j) ++ (if e = 0 then [128] else if e = 15 then [129] else []) ++ [130 + e]

def State.tmPort (s : State) (p : Nat) : TmPortSt := Tab.getD s.tm.ports p {}
def State.setTmPort (s : State) (p : Nat) (v : TmPortSt) : State := { s with tm := { s.tm with ports := Tab.put s.tm.ports p v } }

/-- The time in ps that a port's pacing runs on: its gate base, or TIME_CLK. -/
def State.portPs (s : State) (p : Nat) : Nat := if s.gateEn p then s.basePs (s.gateBase p) else s.ns * 1000

/-- The window of egress quay `e`: the copies selected and not yet started (R210). -/
def State.window (s : State) (e : Nat) : List Nat := Tab.getD s.tm.windows e []
def State.setWindow (s : State) (e : Nat) (l : List Nat) : State :=
  { s with tm := { s.tm with windows := if l.isEmpty then Tab.del s.tm.windows e else Tab.put s.tm.windows e l } }

/-- Whether the selector may select for a port (R200, R235, R428). -/
def State.portReady (s : State) (p : Nat) : Bool :=
  s.bit F.tmPortCfg_en p && s.linkUp p && !(s.bit F.tmPortStatus_paused p)
    && decide (s.get F.tmPortStatus_outstanding p < 8)
    && decide ((s.tmPort p).wpPs ≤ s.portPs p + s.get F.tmPortCfg2_ahead p * 1000)
    && (decide (p < 130) || (decide (10260 ≤ stagingSize - s.staged (p - 130)) && !(s.paused (p - 130))))

/-! ### Drops at a queue's head (R254, R255, R262) -/

/-- Whether the age limit of a queue's profile has passed for a copy (R262). -/
def State.tooOld (s : State) (q : Nat) (cp : Copy) : Bool :=
  let a := if q < 131072 then s.get F.tmQMap_agep q else 0
  let l := s.get F.tmAgeProfile_limit a
  a != 0 && l != 0 && decide (cp.enqNs + l * 1000 < s.tlNs)

/-- Count a drop at a queue's head. -/
def State.headCount (s : State) (p reason : Nat) : State :=
  ((s.bumpIf (reason == rAGE_LIMIT) F.tmCntAge p).bumpIf (reason == rTOO_LONG) F.tmCntTooLong p).bumpIf (reason == rWINDOW_PASSED)
    F.tmCntWindowPassed p

/-- Drop the head of queue `q` at port `p` of egress quay `e`. -/
def State.headDrop (s : State) (e p q cid : Nat) (cp : Copy) (reason : Nat) : State :=
  let s := ((s.setQueue q ((s.queue q).drop 1)).delCopy cid).headCount p reason
  (s.pmc (frameEv 0x0B02 (0x30 + e) cp.man true 1)).copyDrop e cp reason

/-! ### The latency samplers (R264) -/

/-- The bin of a sojourn. -/
def latBin (x : Nat) : Nat := ((List.range 15).find? (fun k => decide (x < 2 ^ (k + 6)))).getD 15

/-- One sampler sees a selection with sojourn `x`. -/
def State.latOne (s : State) (n q slot p x : Nat) : State :=
  let t := s.get F.tmLatCfg_target n
  let hit := match s.get F.tmLatCfg_ttype n with | 1 => t == q | 2 => t == slot | 3 => t == p | _ => false
  if hit then
    let l := Tab.getD s.tm.lat n {}
    let l2 : LatSt :=
      if s.get F.tmLatCfg_nM1 n ≤ l.skip then
        { count := l.count + 1, skip := 0, least := if l.count = 0 then x else Nat.min l.least x, most := Nat.max l.most x,
          sum := l.sum + x, bins := Tab.put l.bins (latBin x) (Tab.getD l.bins (latBin x) 0 + 1) }
      else { l with skip := l.skip + 1 }
    { s with tm := { s.tm with lat := Tab.put s.tm.lat n l2 } }
  else s

def State.latAll (s : State) (q slot p x : Nat) : State := (List.range 64).foldl (fun s n => s.latOne n q slot p x) s

/-! ### Selection -/

/-- The wake of a port in LPI: the instant from which a frame may leave (R277). -/
def State.lpiWake (s : State) (p : Nat) : State :=
  if p < 130 ∧ s.bit F.portStatus_txLpi (portIx p) = true then
    let w := s.ns + s.get F.portLpi_twTx (portIx p) * 1000
    let s := (s.setBit F.portStatus_txLpi (portIx p) false).emit (.lpi p false)
    let s := s.setPortSt p { s.portSt p with wakeUntil := w }
    s.setTmPort p { s.tmPort p with wpPs := Nat.max (s.tmPort p).wpPs (w * 1000) }
  else s

/-- The credit that a selection of class slot `i` costs (R248): Lw x 8 less what the idle slope gives over the wire time. -/
def State.cbsSpend (s : State) (i lw tw : Nat) : State :=
  if s.bit F.tmClassCfg_cbsEn i then
    let cb := s.cbsOf i
    let cr := cb.cr - (lw * 8000 : Nat) + (s.get F.tmClassCbs_idleSlope i * tw / 1000000 : Nat)
    s.setCbs i { cb with cr := if (s.slotQueues i).isEmpty ∧ 0 < cr then 0 else cr, lastNs := s.ns }
  else s

/-- The head of queue `q` is selected for port `p` through class slot `i` (R235-R237, R242, R248). -/
def State.selectHead (s : State) (e p i q cid : Nat) (cp : Copy) : State :=
  let gated := s.gateEn p
  let launch := s.launchPs p
  let lw := copyLw cp
  let tw := s.wirePs p lw
  let s := s.lpiWake p
  let late : Nat := if gated then launch - s.basePs (s.gateBase p) else 0
  let tp := s.tmPort p
  let s := s.setTmPort p { tp with wpPs := if gated then launch + tw else Nat.max tp.wpPs (s.ns * 1000) + tw }
  let s := (s.pathUp 5 q).foldl (fun s x => s.shaperCharge cp.lo x) s
  let s := (s.cbsTouch i).setQueue q ((s.queue q).drop 1)
  let s := s.cbsSpend i lw tw
  let s := s.latAll q i p (s.tlNs - cp.enqNs + late / 1000)
  let s := s.setCopy cid { cp with launch := if gated then some launch else none }
  let s := s.setWindow e (s.window e ++ [cid])
  let s := s.set F.tmPortStatus_outstanding p (s.get F.tmPortStatus_outstanding p + 1)
  (s.bump F.tmCntSelected p).pmc (frameEv 0x0B01 (0x30 + e) cp.man true 1)

/-- What the selector does for the first port, in its rotation, that has an eligible class slot. -/
def State.selectPort (s : State) (e : Nat) : List Nat → State
  | [] => s
  | p :: rest =>
    if s.portReady p = false then s.selectPort e rest
    else
      match s.portPick p with
      | (_, none) => s.selectPort e rest
      | (s2, some (i, q)) =>
        match s.queue q with
        | [] => s
        | cid :: _ =>
          match s.copy? cid with
          | none => s
          | some cp =>
            match s.headTest i cp with
            | .drop r => s.headDrop e p q cid cp r
            | _ => if s.tooOld q cp then s.headDrop e p q cid cp rAGE_LIMIT else s2.selectHead e p i q cid cp

/-- TM_SELECT (R235): one selection of egress quay `e`; its ports take their turns from the one that the clock count names. -/
def execTmSelect (e : Quay) (s : State) : Outc :=
  .next (
    if s.forwarding = false ∨ 32 ≤ (s.window e.val).length then s
    else
      let ps := quayPorts e.val
      let k := s.coreClk % ps.length
      s.selectPort e.val (ps.drop k ++ ps.take k))

/-! ### Gate lists (R249-R251) -/

/-- The operation of the entry in force acts on the hold of preemptable traffic (R251). -/
def State.gateHold (s : State) (p : Nat) : State :=
  let g := s.gate p
  match (gateAt g (s.baseT16 (s.gateBase p))).2.2.1 with
  | 1 => s.setGate p { g with hold := true }
  | 2 => s.setGate p { g with hold := false }
  | _ => s

/-- GCL_ENTRY_ADVANCE (R249): the entry that now runs is in force; its states follow from the base's time, its operation acts on the
hold. -/
def execGclEntryAdvance (p : Port) (s : State) : Outc :=
  .next (if s.gateEn p.val = true ∧ (s.gate p.val).oper.isSome = true then s.gateHold p.val else s)

/-- GCL_CHANGE (R250): at the change time the ADMIN list becomes OPER, and the old list becomes ADMIN. -/
def execGclChange (p : Port) (s : State) : Outc :=
  .next (
    let g := s.gate p.val
    match g.change16, g.admin with
    | some c, some a =>
      if c ≤ s.baseT16 (s.gateBase p.val) then
        let s := (List.range 8).foldl (fun s n => s.cbsTouch (p.val * 8 + n)) s
        let s := s.setGate p.val { g with oper := some a, admin := g.oper, change16 := none }
        let s := (s.setBit F.tmPortStatus_gclOper p.val true).setBit F.tmPortStatus_gclPending p.val false
        let s := s.setBit F.tmPortStatus_gclList p.val (!(s.bit F.tmPortStatus_gclList p.val))
        (s.bump F.tmCntGclChange p.val).gateHold p.val
      else s
    | _, _ => s)

end Sys2Proof.Machine
end

