-- ==== Sys2Proof/Machine/Egress.lean ====
section
/-!
DEFINITION. Machine/Egress.lean: the egress quay: reading (R210, R227), the zone check (R131), the egress head (R182-R185), the
checksums (R187-R189), the commit point (R184, R190, R191, R236, R274, R279), egress mirrors and recirculation (R196-R199), and
transmission (R271, R285, R304, R452).
-/
namespace Sys2Proof.Machine

abbrev rZONE_DENIED : Nat := 0x07
abbrev rSTRIP_INVALID : Nat := 0x10
abbrev rEGRESS_TOO_LONG : Nat := 0x11
abbrev rPORT_DOWN : Nat := 0x15
abbrev rPORT_FLUSH : Nat := 0x16
abbrev rGATE_LATE : Nat := 0x1A

/-! ### The egress head (R182-R185) -/

/-- The frame's bytes that a copy carries, FCS left out (R183, R198). -/
def copyBody (cp : Copy) (d : Desc) : List Byte :=
  let l := d.bytes.take (d.len - 4)
  if cp.trunc = 0 then l else l.take cp.trunc

/-- Overwrite bytes of a list from offset `i`, inside it. -/
def overwrite (l : List Byte) (i : Nat) (b : List Byte) : List Byte := (l.take i ++ b ++ l.drop (i + b.length)).take l.length

/-- The bytes that rewrite entry `r` pushes, with VAR0 and VAR1 in their places; none where a VAR field ends beyond L (R183, R184). -/
def State.pushBytes (s : State) (r : Nat) : Option (List Byte) :=
  let t := s.objF oREWRITE r 0 14
  let n := s.pushLen r
  let base := (List.range n).map (fun i => BitVec.ofNat 8 (s.tmplByte t i))
  let var := fun (l : Option (List Byte)) (en off len lo : Nat) =>
    match l with
    | none => none
    | some l =>
      if s.objF oREWRITE r en 1 = 0 then some l
      else
        let o := s.objF oREWRITE r off 7
        let k := s.objF oREWRITE r len 3 + 1
        if n < o + k then none else some (overwrite l o (beBytes k (s.objF oREWRITE r lo 64)))
  var (var (some base) 52 32 39 128) 53 42 49 192

/-- The headers that a template pushes: type and offset (Table 6.3). -/
def State.pushHdrs (s : State) (r : Nat) : List (Nat × Nat) :=
  if s.objF oREWRITE r 14 1 = 1 then
    let t := s.objF oREWRITE r 0 14
    (List.range (s.tmplByte t 97)).map (fun i => (s.tmplByte t (98 + 2 * i), s.tmplByte t (99 + 2 * i)))
  else []

/-- Write the length patches of a template (R185); `lo` is the outgoing length, FCS included. -/
def State.patch (s : State) (r lo : Nat) (out : List Byte) : List Byte :=
  let t := s.objF oREWRITE r 0 14
  let hs := s.pushHdrs r
  (List.range 4).foldl (fun l i =>
    let off := s.tmplByte t (110 + 2 * i)
    let kind := s.tmplByte t (111 + 2 * i)
    match (hs.filter (fun h => decide (h.2 ≤ off))).getLast? with
    | some h =>
      if kind = 0 ∨ 4 ≤ kind then l
      else overwrite l off (beBytes 2 ((((lo : Int) - 4 - h.2 - (if kind = 2 then 40 else 0)).emod 65536).toNat))
    | none => l) out

/-- The header stack of a manifest: type and offset. -/
def stackOf (m : Man) : List (Nat × Nat) :=
  (List.range (Nat.min 12 (mget m mHcount))).map (fun i => (bytesLe m (0x20 + 2 * i) 1, bytesLe m (0x21 + 2 * i) 1))

/-- Write a header stack into a manifest. -/
def putStack (m : Man) (l : List (Nat × Nat)) : Man :=
  let m := putBits m (8 * 0x20) 192 (leNat (l.flatMap (fun e => [BitVec.ofNat 8 e.1, BitVec.ofNat 8 e.2])))
  mset m mHcount l.length

/-- The egress header stack and inner start (R185). -/
def egressStack (m : Man) (hs : List (Nat × Nat)) (strip l : Nat) : Man :=
  let named := bytesLe m 0x3A 1
  let rx := stackOf m
  let kept := ((List.range rx.length).zip rx).filter (fun e => decide (strip ≤ e.2.2) && decide (e.2.2 - strip + l < 256))
  let kept := kept.take (12 - hs.length)
  let ix := kept.findIdx (fun e => e.1 == named)
  let m := putStack m (hs ++ kept.map (fun e => (e.2.1, e.2.2 - strip + l)))
  putBytesLe m 0x3A 1 (if named = 0 ∨ kept.length ≤ ix then 0 else hs.length + ix)

/-! ### Reading (R131, R203, R209, R210, R227) -/

/-- Whether a copy reads only a leading part of its frame (R227). -/
def copyPart (cp : Copy) (d : Desc) : Bool := cp.trunc != 0 && decide (cellsOf cp.trunc < cellsOf d.len)

/-- The window copies that quay `e` may start in clock `t`: the oldest of each queue, readable, with cell 0 in the slot. -/
def State.readable (s : State) (e t : Nat) : List Nat :=
  let w := s.window e
  w.filter (fun cid =>
    match s.copy? cid with
    | some cp =>
      (w.find? (fun o => match s.copy? o with | some c => c.queue == cp.queue | none => false)) == some cid &&
        (match s.desc? cp.bid with
         | some d => d.written && decide (d.t0 + 24 ≤ t) && (e + t) % 16 == d.start
         | none => false)
    | none => false)

/-- A free rewrite context of quay `e`. -/
def State.freeRew (s : State) (e : Quay) : Option CtxId :=
  ((List.finRange 48).flatMap (fun g => (List.finRange 4).map (fun c => CtxId.rew e g c))).find? (fun x => (s.ctx? x).isNone)

/-- A selected copy ends before its program (R131, R184). -/
def State.preDrop (s : State) (e cid : Nat) (cp : Copy) (reason : Nat) : State :=
  ((s.delCopy cid).outDone cp.port).copyDrop e cp reason

/-- The head of a copy is formed and its program starts (R180, R183); its read ends at clock `stop`. -/
def State.readRun (s : State) (x : CtxId) (e cid : Nat) (cp : Copy) (d : Desc) (bad fetchBad : Bool) (stop : Nat) : State :=
  let body := copyBody cp d
  let strip := s.objF oREWRITE cp.rewrite 15 8
  match s.pushBytes cp.rewrite with
  | none => (s.bump F.egrCntStripInvalid e).preDrop e cid cp rSTRIP_INVALID
  | some head =>
    if body.length < strip + 14 then (s.bump F.egrCntStripInvalid e).preDrop e cid cp rSTRIP_INVALID
    else
      let raw := head ++ body.drop strip
      let out := if s.objF oREWRITE cp.rewrite 14 1 = 1 then s.patch cp.rewrite (raw.length + 4) raw else raw
      let hs := s.pushHdrs cp.rewrite
      let s := s.spoilWord 2 e cp.gen 0 fetchBad
      let load := match Tab.get? s.eng.progs (progKey 2 e cp.gen 0) with | some w => w.load | none => 0
      (s.zeroG x).setCtx x
        { fid := 0, cid := cid, gen := cp.gen, pass := mPassOf cp.man, pc := 0, man := egressStack cp.man hs strip head.length,
          manW := cp.manW, h := ofWire 2048 (out.take 256), hlen := Nat.min 256 out.length, prog := load, pushed := hs.length,
          strip := strip, tlen := head.length, noCsum := s.objF oREWRITE cp.rewrite 23 1 == 1,
          udpFull := s.objF oREWRITE cp.rewrite 24 1 == 1, tail := out.drop 256, sealBad := bad, readEnd := stop }

/-- The zone of a copy is checked before its program (R131). -/
def State.readZone (s : State) (x : CtxId) (e cid : Nat) (cp : Copy) (d : Desc) (bad zoneBad fetchBad : Bool) (stop : Nat) : State :=
  if cp.port < 130 ∧ cp.mirror = false ∧ (zoneBad = true ∨ s.isBad tkZONE (e / 4) (mZoneOf cp.man) = true) then
    (s.parityEvent tkZONE (e / 4) (mZoneOf cp.man)).preDrop e cid cp rPROGRAM_FAULT
  else if cp.port < 130 ∧ cp.mirror = false ∧ s.zonePermits (mZoneOf cp.man) cp.port = false then
    (s.bump F.tblCntZoneDenied 0).preDrop e cid cp rZONE_DENIED
  else s.readRun x e cid cp d bad fetchBad stop

/-- The clocks that the read of a copy takes (R210). -/
def copyClocks (cp : Copy) (d : Desc) : Nat := if copyPart cp d then cellsOf cp.trunc else cellsOf d.len

/-- The read of a copy starts at clock `t`. -/
def State.readStart (s : State) (x : CtxId) (e t cid : Nat) (cp : Copy) (d : Desc) (damaged zoneBad fetchBad : Bool) : State :=
  let s := s.addTo F.bufCntReadIdle e (t - Tab.getD s.tm.readEnd e 0)
  let s := { s with tm := { s.tm with readEnd := Tab.put s.tm.readEnd e (t + copyClocks cp d) } }
  let s := s.setWindow e ((s.window e).filter (· != cid))
  let s := s.bumpIf (copyPart cp d) F.bufCntSealUnchecked 0
  let bad := !copyPart cp d
    && (damaged || d.bad || sealOf d.crc d.seq cp.queue (if cp.port < 130 then cp.port else 0xFD) != cp.sealV)
  s.readZone x e cid cp d bad zoneBad fetchBad (t + copyClocks cp d)

/-- EGRESS_READ_START (R210): in the first clock of this nanosecond that has one, the oldest eligible copy is started. `damaged` says
that its cells read back wrong, `zoneBad` and `fetchBad` that the zone entry and the program's first word fail their checks. -/
def execEgressReadStart (e : Quay) (damaged zoneBad fetchBad : Bool) (s : State) : Outc :=
  .next (
    if s.forwarding = false then s
    else
      match s.freeRew e with
      | none => s
      | some x =>
        match s.clocks.find? (fun t => decide (Tab.getD s.tm.readEnd e.val 0 ≤ t) && !(s.readable e.val t).isEmpty) with
        | none => s
        | some t =>
          match s.readable e.val t with
          | [] => s
          | cid :: _ =>
            match s.copy? cid with
            | none => s
            | some cp =>
              match s.desc? cp.bid with
              | none => s
              | some d => s.readStart x e.val t cid cp d damaged zoneBad fetchBad)

/-! ### Checksums (R187-R189) -/

/-- The 16-bit word at byte `i` of a frame. -/
def at16 (l : List Byte) (i : Nat) : Nat := beNat ((l.drop i).take 2)

/-- The 16-bit words of a header, with the word at byte `skip` (its checksum) taken as zero. -/
def headWords (l : List Byte) (o n skip : Nat) : List Nat :=
  (List.range (n / 2)).map (fun i => if 2 * i = skip then 0 else at16 l (o + 2 * i))

/-- RFC 1624's update of checksum `hc` over two lists of words: only those that differ count (R188). -/
def csumUpdate (hc : Nat) : List Nat → List Nat → Nat
  | a :: r, b :: q => csumUpdate (if a = b then hc else 65535 - fold16 (fold16 (65535 - hc + (65535 - a)) + b)) r q
  | a :: r, [] => csumUpdate (if a = 0 then hc else 65535 - fold16 (65535 - hc + (65535 - a))) r []
  | [], b :: q => csumUpdate (if b = 0 then hc else 65535 - fold16 (65535 - hc + b)) [] q
  | [], [] => hc

/-- The nearest IP header before entry `i` of a stack: type and offset. -/
def ipBefore (st : List (Nat × Nat)) (i : Nat) : Option (Nat × Nat) := (st.take i).reverse.find? (fun e => e.1 == 4 || e.1 == 5)

/-- The words of a pseudo-header that can change: the addresses and the datagram's length from `o` (R189). -/
def pseudoWords (l : List Byte) (ip : Option (Nat × Nat)) (o : Nat) : List Nat :=
  match ip with
  | some (4, a) => (List.range 4).map (fun i => at16 l (a + 12 + 2 * i)) ++ [((a + at16 l (a + 2) : Int) - o).emod 65536 |>.toNat]
  | some (_, a) =>
    let n := ((a + 40 + at16 l (a + 4) : Int) - o).emod (2 ^ 32) |>.toNat
    (List.range 16).map (fun i => at16 l (a + 8 + 2 * i)) ++ [n / 65536, n % 65536]
  | none => []

/-- Zero as a UDP checksum is sent as all ones (log entry 29). -/
def udpZero (ty v : Nat) : Nat := if ty = 7 ∧ v = 0 then 65535 else v

/-- One transport header. `old` is its place in the received frame where it is carried (R189). -/
def State.sumL4 (s : State) (c : Ctx) (rx : List Byte) (rst st : List (Nat × Nat)) (out : List Byte) (i ty o n : Nat) (old : Option Nat) :
    State × List Byte :=
  let co := if ty = 7 then 6 else 16
  let ip := ipBefore st i
  match old with
  | none =>
    (match ip with
     | none => (s.useFree, overwrite out (o + co) (beBytes 2 (s.freeVal.toNat % 65536)))
     | some (t, _) =>
       if c.udpFull = false ∧ t = 4 then (s, overwrite out (o + co) [0, 0])
       else
         let sum := onesSum (overwrite (out.drop o) co [0, 0]) ((pseudoWords out ip o).foldl (fun a w => fold16 (a + w)) 17)
         (s, overwrite out (o + co) (beBytes 2 (udpZero 7 (65535 - sum)))))
  | some b =>
    let hc := at16 out (o + co)
    if mflag c.man pfFRAG_LATER = true ∨ (ty = 7 ∧ hc = 0 ∧ (match ip with | some (t, _) => t == 4 | none => true) = true) then (s, out)
    else
      let j := rst.findIdx (fun e => e.1 == ty && e.2 == b)
      let v := csumUpdate hc (headWords rx b n co ++ pseudoWords rx (ipBefore rst j) b) (headWords out o n co ++ pseudoWords out ip o)
      (s, overwrite out (o + co) (beBytes 2 (udpZero ty v)))

/-- One header of the egress stack (R187-R189). -/
def State.sumOne (s : State) (c : Ctx) (e : Nat) (rx : List Byte) (rst st : List (Nat × Nat)) (out : List Byte) (i : Nat) :
    State × List Byte :=
  match st[i]? with
  | none => (s, out)
  | some (ty, o) =>
    if ty ≠ 4 ∧ ty ≠ 7 ∧ ty ≠ 8 then (s, out)
    else
      let n := if ty = 4 then Nat.max 20 (4 * ((out.getD o 0).toNat % 16)) else if ty = 7 then 8
        else Nat.max 20 (4 * ((out.getD (o + 12) 0).toNat / 16))
      let old : Option Nat := if i < c.pushed then none else some (o - c.tlen + c.strip)
      if c.hlen < o + n then (s.bump F.egrCntCsumSkipped e, out)
      else if ty = 4 then
        match old with
        | none => (s, overwrite out (o + 10) (beBytes 2 (65535 - onesSum (overwrite ((out.drop o).take n) 10 [0, 0]) 0)))
        | some b => (s, overwrite out (o + 10) (beBytes 2 (csumUpdate (at16 out (o + 10)) (headWords rx b n 10) (headWords out o n 10))))
      else s.sumL4 c rx rst st out i ty o n old

/-- All checksums of a copy, from the outermost header inwards. -/
def State.sumAll (s : State) (c : Ctx) (e : Nat) (cp : Copy) (rx out : List Byte) : State × List Byte :=
  if c.noCsum then (s, out)
  else
    let st := stackOf c.man
    let rst := stackOf cp.man
    (List.range st.length).foldl (fun r i => r.1.sumOne c e rx rst st r.2 i) (s, out)

/-! ### Time fields (R190, R191, R303) -/

/-- The predicted transmit time of a copy on the base of its time request; the bases 8 to 14 do not exist: a free value. -/
def State.predictFor (s : State) (p b : Nat) (phic : BitVec 16) : State × Stamp :=
  if 8 ≤ b ∧ b < 15 then (s.useFree, BitVec.ofNat 128 s.freeVal.toNat) else (s, s.predicted p b phic)

/-- The incremental update of the UDP checksum that encloses a PTP header, after its fields changed from `old` to `new`. -/
def udpAfter (st : List (Nat × Nat)) (j hl : Nat) (old new : List Byte) : List Byte :=
  let ix := ((List.range j).reverse).find? (fun i => (st.getD i (0, 0)).1 == 7)
  match ix with
  | none => new
  | some i =>
    let o := (st.getD i (0, 0)).2
    let p := (st.getD j (0, 0)).2
    let v4 := match ipBefore st i with | some (t, _) => t == 4 | none => true
    let hc := at16 new (o + 6)
    if hl < o + 8 ∨ (hc = 0 ∧ v4 = true) then new
    else overwrite new (o + 6) (beBytes 2 (udpZero 7 (csumUpdate hc (headWords old p 44 44) (headWords new p 44 44))))

/-- The time fields of a copy at its commit point (R190, R191). -/
def State.timeFields (s : State) (c : Ctx) (cp : Copy) (e : Nat) (t : Stamp) (out : List Byte) : State × List Byte :=
  let req := cp.treq
  let b := req.toNat / 16
  let cf := req.getLsbD 2
  let one := req.getLsbD 1
  if cf = false ∧ one = false then (s, out)
  else
    let st := stackOf c.man
    let j := st.findIdx (fun e => e.1 == 11)
    match st[j]? with
    | none => (s.bump F.egrCntCfSkipped e, out)
    | some (_, p) =>
      if c.hlen < p + (if one then 44 else 16) then (s.bump F.egrCntCfSkipped e, out)
      else
        let rx := Tab.get? (s.copyStamps c.man) (if b = 15 then 8 else b)
        let corr : Option Int := match rx with
          | some r => if cf && ktsEpoch r == ktsEpoch t && decide (b < 8 ∨ b = 15) then some ((kts16 t : Int) - kts16 r) else none
          | none => none
        let s := s.bumpIf (cf && corr.isNone) F.egrCntCfSkipped e
        let add : Int := corr.getD 0 + (if one then (ktsFrac t : Int) else 0)
        let field := beNat ((out.drop (p + 8)).take 8)
        let out2 := if corr.isSome || one then overwrite out (p + 8) (beBytes 8 (((field : Int) + add).emod (2 ^ 64)).toNat) else out
        let out2 := if one then overwrite out2 (p + 34) (beBytes 6 (ktsNs t / 1000000000) ++ beBytes 4 (ktsNs t % 1000000000)) else out2
        (s, udpAfter st j c.hlen out out2)

/-! ### What leaves (R198, R273, R285) -/

/-- The MAC's PRP trailer rewrite (R285): LanId and LSDUsize of a frame of 70 B or more that carries the suffix. -/
def prpTx (role : Nat) (l : List Byte) : List Byte :=
  let n := l.length + 4
  if (role = 1 ∨ role = 2) ∧ 70 ≤ n ∧ at16 l (l.length - 2) = 0x88FB then
    let tag := fun i => let e := at16 l i; e == 0x8100 || e == 0x88A8
    let tags := if tag 12 then (if tag 16 then 2 else 1) else 0
    overwrite l (l.length - 4) (beBytes 2 ((if role = 1 then 0xA else 0xB) * 4096 + (n - 18 - 4 * tags) % 4096))
  else l

/-- A frame as the MAC sends it: padded, with its FCS, inverted where the seal check fails after the commit point (R452). -/
def macBytes (role : Nat) (kill : Bool) (l : List Byte) : List Byte :=
  let l := prpTx role l
  let l := l ++ List.replicate (60 - l.length) (0 : Byte)
  l ++ (if kill then (fcsOf l).map (fun b => ~~~b) else fcsOf l)

/-- The egress mirror or sample copy of a transmitted frame (R196-R198): a new frame at the admission stage of the quay's return path. -/
def State.egressMirror (s : State) (e : Nat) (c : Ctx) (cp : Copy) (out : List Byte) : State :=
  match c.mirror with
  | none => s
  | some n =>
    if cp.mirror then s
    else
      match s.mirrorReq n with
      | (s, false) => s
      | (s, true) =>
        let tr := s.get F.egrMirrorCfg_trunc n
        let body := if tr = 0 then out else out.take (tr * 64)
        let cut := decide (body.length < out.length)
        let m := mirrorMan c.man
        if s.get F.egrMirrorCfg_type n = 2 then
          match s.bwAsk xSAMPLE (0x30 + e) c.man with
          | (s, false) => s
          | (s, true) => (if cp.flight = 0 then s else s.flightAdd cp.flight).deliver xSAMPLE m (s.copyStamps c.man)
              (if cut then body else out ++ fcsOf out) cp.flight none cut
        else
          let queue := s.get F.egrMirrorDest_queue n
          let port := ((s.queueSlot queue).map (·.1)).getD 255
          let fid := s.eng.nextFid
          let f : Frame := { port := cp.ingress, src := .recirc, quay := quayIx (130 + e), bytes := body ++ fcsOf body, lenKnown := true,
                             man := m, manW := c.manW, seqId := cp.seqId, stamps := s.copyStamps c.man, gen := cp.gen,
                             stage := .admitted, flight := cp.flight, resolved := true,
                             members := [(port, queue, s.get F.egrMirrorDest_rewrite n)] }
          let s := if cp.flight = 0 then s else s.flightAdd cp.flight
          let s := { s with eng := { s.eng with nextFid := fid + 1, frames := Tab.put s.eng.frames fid f } }
          let v := s.quay e
          s.setQuay e { v with repl := v.repl ++ [fid] }

/-- A recirculated copy re-enters its quay after its egress program (R199). -/
def State.reenter (s : State) (x : CtxId) (e : Nat) (c : Ctx) (cp : Copy) (out : List Byte) : State :=
  let m := msetBits (msetBits c.man mKind 0 2 (mPassOf c.man + 1)) mKind 3 1 1
  let f : Frame := { port := cp.ingress, src := .recirc, quay := quayIx (130 + e), bytes := out ++ fcsOf out, lenKnown := true,
                     man := mset m mLen (out.length + 4), manW := c.manW, seqId := cp.seqId, stamps := s.copyStamps c.man, gen := cp.gen,
                     stage := .receiving, flight := cp.flight }
  let s := ((s.ctxFree x).delCopy c.cid).outDone cp.port
  let s := (s.letGo cp.bid (0x30 + e)).bump F.egrCntRecirc e
  s.enterFrame f true

/-! ### The commit point -/

/-- Whether a copy must wait at its commit point: its port or class is paused (R279), the port wakes (R277), or an earlier copy of its
queue is still on its way (R19). -/
def State.commitWaits (s : State) (x : CtxId) (c : Ctx) (cp : Copy) : Bool :=
  let paused := decide (cp.port < 130) && (s.bit F.tmPortStatus_paused cp.port ||
    (match s.queueSlot cp.queue with
     | some (_, k) => (s.get F.tmPortStatus_pfcPaused cp.port).testBit k &&
         !((s.portSt cp.port).storm.getLsbD k && s.bit F.portPfcWd_wdAction (portIx cp.port))
     | none => false))
  let older := s.eng.ctxs.any (fun o => decide (9000 ≤ o.1 ∧ o.1 < 13000) && decide (o.2.cid < c.cid) && o.1 != x.code &&
    (match s.copy? o.2.cid with | some k => k.queue == cp.queue | none => false))
  paused || older || (decide (cp.port < 130) && decide (s.ns < (s.portSt cp.port).wakeUntil))

/-- Where a gated copy stands against its launch time: 0 must wait, 1 is released, 2 is late (R236); its release clock is that of the
nanosecond in which its first bit would leave. -/
def State.launchTest (s : State) (cp : Copy) (phic : BitVec 16) : Nat :=
  match cp.launch with
  | none => 1
  | some l =>
    let t := kts16 (s.predicted cp.port (s.gateBase cp.port) phic) * 1000 / 65536
    if l + 667 < t then 2 else if t + 1000 ≤ l then 0 else 1

/-- The copy passes its commit point (R190, R196, R398). -/
def State.commitSend (s : State) (x : CtxId) (e : Nat) (c : Ctx) (cp : Copy) (d : Desc) (phic : BitVec 16) : State :=
  let p := cp.port
  let pr := s.predictFor p (cp.treq.toNat / 16) phic
  let r := pr.1.sumAll c e cp d.bytes (wireBytes c.h 0 c.hlen ++ c.tail)
  let r2 := r.1.timeFields c cp e pr.2 r.2
  let s := r2.1
  let out := r2.2
  let bytes := macBytes (s.get F.portCfg_redRole (portIx p)) c.sealBad out
  let s := if c.sealBad then s.sealReport e cp else s
  let s := s.egressMirror e c cp out
  let s := match s.zoneCapture (mZoneOf c.man) 1 with
    | (s, some part) => s.frameRecord 2 part c.man (mget c.man mPort) p (cp.queue % 2 ^ 17) cp.seqId
        (s.predicted p (s.get F.timePortCfg_primary p) phic) bytes none
    | (s, none) => s
  let s := (s.ctxFree x).outDone p
  let s := match s.queueSlot cp.queue with
    | some (tp, k) => let i := tp * 8 + k; let s := s.cbsTouch i; s.setCbs i { s.cbsOf i with wire := (s.cbsOf i).wire + 1 }
    | none => s
  let w : OnWire := { cid := c.cid, copy := { cp with man := c.man }, bytes := bytes, pred := kts16 pr.2, kill := c.sealBad, atNs := s.ns }
  { s with ports := { s.ports with wire := Tab.put s.ports.wire p (Tab.getD s.ports.wire p [] ++ [w]) } }

/-- EGRESS_COMMIT (R190): the copy of context `x` reaches its commit point; `phic` is the phase from the commit edge to the next word
edge, in 2^-8 ns. -/
def execEgressCommit (x : CtxId) (phic : BitVec 16) (s : State) : Outc :=
  .next (
    match x with
    | .rew e _ _ =>
      let s := match s.ctx? x with | some c => if c.ended = false ∧ s.pastEnd x c = true then s.rewEnd x else s | none => s
      match s.ctx? x with
      | none => s
      | some c =>
        if c.ended = false then s
        else
          match s.copy? c.cid with
          | none => s.ctxFree x
          | some cp =>
            match s.desc? cp.bid with
            | none => s.rewDrop x rPROGRAM_FAULT
            | some d =>
              let len := c.hlen + c.tail.length + 4
              if s.linkUp cp.port = false then (s.bump F.tmCntDropPortDown cp.port).rewDrop x rPORT_DOWN
              else if c.sealBad = true ∧ c.readEnd ≤ s.lastClk then s.rewDrop x rCARGO_SEAL
              else if cp.port < 130 ∧ s.get F.portCfg_maxFrame (portIx cp.port) < len then
                (s.bump F.egrCntTooLong e.val).rewDrop x rEGRESS_TOO_LONG
              else if s.launchTest cp phic = 2 then (s.bump F.tmCntGateLate cp.port).rewDrop x rGATE_LATE
              else if s.commitWaits x c cp = true ∨ s.launchTest cp phic = 0 then s
              else if 130 ≤ cp.port then
                let r := s.sumAll c e.val cp d.bytes (wireBytes c.h 0 c.hlen ++ c.tail)
                (r.1.egressMirror e.val c cp r.2).reenter x e.val c cp r.2
              else s.commitSend x e.val c cp d phic
    | _ => s)

/-! ### Transmission (R274, R304, R452) -/

/-- The transmit stamp of a frame with TSREQ (R303, R304); `pre` marks an express frame between fragments (R298). -/
def State.txStamped (s : State) (p : Nat) (w : OnWire) (bit phi : BitVec 16) (pre : Bool) : State :=
  let b := w.copy.treq.toNat / 16
  let put := fun (s : State) (t : Stamp) =>
    s.txtsPut p { kind := 1, port := mget w.copy.man mPort, seq := w.copy.seqId, lost := 0, reason := 0, stamp := t }
  if 64 ≤ (s.txts p).length then s.txtsLose p w.copy.seqId
  else if 8 ≤ b ∧ b < 15 then (put s (BitVec.ofNat 128 s.freeVal.toNat)).useFree
  else
    let t := s.txStamp p b bit phi pre
    let s := put s t
    let d : Int := (kts16 t : Int) - w.pred
    if 6553 < d.natAbs then (s.bump F.timeCntPredictErr 0).timeEvent 7 p none (some d) else s

/-- The MAC may have preempted the frame of entry `cp` on port `p`: its class is preemptable while preemption is active, and none of
TSREQ, ONESTEP and CFUPD is set (R256, R257). -/
def State.mayCut (s : State) (p : Nat) (cp : Copy) : Bool :=
  s.preemptOn p && cp.treq.toNat % 8 == 0
    && (match s.queueSlot cp.queue with
        | some (tp, c) => tp == p && (s.get F.tmPortCfg2_preempt p).testBit c
        | none => false)

/-- The first frame on the wire of a port has left. -/
def State.txDone (s : State) (p : Nat) (w : OnWire) (bit phi : BitVec 16) (expr : Bool) (cuts : Nat) : State :=
  let e := egressOf p
  let k := portIx p
  let s := s.emit (.frame p w.bytes w.kill)
  let s := if s.mayCut p w.copy then s.addTo F.portCntFragments k cuts else s
  let s := if w.kill then s.bump F.portCntTxAborted k
    else ((s.addTo F.portCntTxOctets k w.bytes.length).bump F.portCntTxFrames k).bump F.egrCntTx e
  let s := if w.copy.treq.getLsbD 0 = false then s
    else if w.kill then s.txtsFlushed w.copy rCARGO_SEAL
    else s.txStamped p w bit phi (expr && s.bit F.portStatus_preemptActive k)
  let s := match s.queueSlot w.copy.queue with
    | some (tp, c) => let i := tp * 8 + c; let s := s.cbsTouch i; s.setCbs i { s.cbsOf i with wire := (s.cbsOf i).wire - 1 }
    | none => s
  let s := s.setPortSt p { s.portSt p with idleSince := s.ns }
  (s.delCopy w.cid).copyEnd e w.copy

/-- TX_COMPLETE (R304): the frame at the head of port `p`'s wire has left; `bit` and `phi` are what its capture unit recorded, and
`expr` says that it started between fragments of another, and `cuts` how often the MAC preempted it. -/
def execTxComplete (p : TmPort) (bit : BitVec 16) (phi : BitVec 16) (expr : Bool) (cuts : Nat) (s : State) : Outc :=
  .next (
    match Tab.getD s.ports.wire p.val [] with
    | [] => s
    | w :: rest =>
      { s with ports := { s.ports with
          wire := if rest.isEmpty then Tab.del s.ports.wire p.val else Tab.put s.ports.wire p.val rest } }.txDone p.val w bit phi expr cuts)

end Sys2Proof.Machine
end

