-- ==== Sys2Proof/Machine/Dpll.lean ====
section
/-!
DEFINITION. Machine/Dpll.lean: the inputs of the DPLLs (R317, R318, Tables 10.5, 10.6).
-/
namespace Sys2Proof.Machine

/-- Whether input code `i` is qualified for DPLL `d`. -/
def State.dpllQualified (s : State) (d i : Nat) : Bool := (s.get F.timeDpllStatus_qualified d).testBit i

/-- The priority of input `i` of DPLL `d`: 4 bits, 0 not eligible; DPLL1 never uses its own output (R317). -/
def State.dpllPrio (s : State) (d i : Nat) : Nat :=
  if d = 1 ∧ i = 10 then 0 else s.get F.timeDpllPrio_prio d / 2 ^ (4 * i) % 16

/-- The highest-priority qualified input, ties to the lower code (DEDUCED). -/
def State.dpllBest (s : State) (d : Nat) : Option Nat :=
  (List.range 15).findSome? (fun pr =>
    (List.range 11).find? (fun i => s.dpllQualified d i && s.dpllPrio d i == pr + 1))

/-- A DPLL chooses its input (R317): by priority in automatic mode, FORCE in forced mode; in the other modes it follows none. -/
def State.dpllSelect (s : State) (d : Nat) : State :=
  if s.bit F.timeDpllCfg_en d then
    match s.get F.timeDpllCfg_mode d with
    | 0 => (match s.dpllBest d with | some i => s.set F.timeDpllStatus_input d i | none => s)
    | 1 => s.set F.timeDpllStatus_input d (s.get F.timeDpllCfg_force d)
    | _ => s
  else s

/-- Input `i` of DPLL `d` is qualified or disqualified. -/
def State.dpllMark (s : State) (d i : Nat) (on : Bool) : State :=
  let q := s.get F.timeDpllStatus_qualified d
  (s.set F.timeDpllStatus_qualified d (if on then q ||| 2 ^ i else if q.testBit i then q - 2 ^ i else q)).dpllSelect d

/-- The port whose lanes take in lane `l` (R267). -/
def State.frontOf (s : State) (l : Nat) : Option Nat :=
  let n := modeLanes (s.pbMode l)
  if n = 0 then none else some (l - l % 4 % n)

/-- Whether RCLKr may serve as an input: it is driven, and with SQUELCH its lane's port is up (R318). -/
def State.rclkLive (s : State) (r : Nat) : Bool :=
  s.bit F.timeRclkSel_en r
    && (!(s.bit F.timeRclkSel_squelch r) || (s.frontOf (s.get F.timeRclkSel_lane r)).any s.linkUp)

/-- A port's link has gone down: each RCLK squelched by it is disqualified (R318). -/
def State.rclkSquelch (s : State) (p : Nat) : State :=
  (List.range 4).foldl (fun s r =>
    if s.bit F.timeRclkSel_squelch r && s.frontOf (s.get F.timeRclkSel_lane r) == some p then
      (List.range 4).foldl (fun s d => if s.dpllQualified d (6 + r) then s.dpllMark d (6 + r) false else s) s
    else s) s

end Sys2Proof.Machine
end

