-- ==== Sys2Proof/Machine/Ports.lean ====
section
/-!
DEFINITION. Machine/Ports.lean: links (R259-R261, R272, R274, R275, R301), pauses and their refresh (R280, R281), the PFC watchdog
(R282), low-power idle (R277, R278) and the verification of preemption (R288).
-/
namespace Sys2Proof.Machine

abbrev rPFC_STORM : Nat := 0x1D

/-! ### Links (R274, R275, R301) -/

/-- The mode code of a port: its block's, or Table 9.1's code of a management port's rate (R269). -/
def State.portMode (s : State) (p : Nat) : Nat :=
  if p < 128 then s.pbMode p else if s.bit F.portCfg_mgmtRate (portIx p) then 8 else 9

/-- Whether a port trains now: it exists, is enabled, and the mode lets it run (Table 15.3). -/
def State.trains (s : State) (p : Nat) : Bool :=
  s.portExists p && s.bit F.portCfg_en (portIx p)
    && (s.forwarding || s.modeNo == mMOORED || s.modeNo == mHARBOUR)

/-- LINK_CONDITIONS_MET (R275, R301): the debounce and the calibration of link-up start, or a failure ends within LINK_DOWN_DEB. -/
def execLinkConditionsMet (p : Port) (s : State) : Outc :=
  .next (
    if s.trains p.val = false then s
    else
      let k := portIx p.val
      let s := (s.setBit F.portStatus_localFault k false).setBit F.portStatus_remoteFault k false
      if s.linkUp p.val then s.setPortSt p.val { s.portSt p.val with condDown := none }
      else (s.setPortSt p.val { s.portSt p.val with condUp := some s.ns, condDown := none }).set F.timePortCal_calState p.val 1)

/-- LINK_CONDITION_FAILED (R275): the down debounce starts, or a debounce towards link-up is broken; cause as Table 9.2 numbers it. -/
def execLinkConditionFailed (p : Port) (cause : BitVec 8) (s : State) : Outc :=
  .next (
    let k := portIx p.val
    let s := if cause.toNat = 3 then s.setBit F.portStatus_localFault k true
      else if cause.toNat = 4 then s.setBit F.portStatus_remoteFault k true else s
    let st := s.portSt p.val
    if s.linkUp p.val then
      (if st.condDown.isSome then s else s.setPortSt p.val { st with condDown := some (s.ns, cause.toNat) })
    else (s.setPortSt p.val { st with condUp := none }).set F.timePortCal_calState p.val 0)

/-- CAL_DONE (R301): the values measured in the debounce are applied. -/
def execCalDone (p : Port) (skew : BitVec 48) (dRx dTx : BitVec 16) (kTx : BitVec 32) (s : State) : Outc :=
  .next (
    if s.get F.timePortCal_calState p.val = 1 then
      let s := s.set F.portStatus_skew (portIx p.val) skew.toNat
      let s := (s.set F.timePortCal_dPmaRx p.val dRx.toNat).set F.timePortCal_dPmaTx p.val dTx.toNat
      (s.set F.timePortKtx_kTx p.val kTx.toNat).set F.timePortCal_calState p.val 2
    else s)

/-- The link of a port is up: the hold ends and preemption is verified anew (R260, R287, R288). -/
def State.linkUpNow (s : State) (p : Nat) : State :=
  let k := portIx p
  let s := (s.setBit F.portStatus_link k true).setBit F.tmPortStatus_link p true
  let s := (s.setTmPort p { s.tmPort p with holdUntil := none }).setBit F.tmPortStatus_hold p false
  let s := s.setPortSt p { s.portSt p with condUp := none, idleSince := s.ns, verifyTries := 0, verifySent := none }
  let s := if s.bit F.portPreempt_preemptEn k && s.bit F.portPreempt_verifyDis k then s.setBit F.portStatus_preemptActive k true else s
  s.linkEvent 1 p (s.portMode p)

/-- LINK_UP (R275): the conditions have held for LINK_UP_DEB. -/
def execLinkUp (p : Port) (s : State) : Outc :=
  .next (
    match (s.portSt p.val).condUp with
    | some t =>
      if s.trains p.val = true ∧ s.linkUp p.val = false ∧ t + s.get F.portCfg_linkUpDeb (portIx p.val) * 1000000 ≤ s.ns then s.linkUpNow p.val
      else s
    | none => s)

/-- The frames past their commit point on a port are lost (R274). -/
def State.txAbort (s : State) (p : Nat) : State :=
  let l := Tab.getD s.ports.wire p []
  let s := { s with ports := { s.ports with wire := Tab.del s.ports.wire p } }
  l.foldl (fun s w => ((s.bump F.portCntTxAborted (portIx p)).delCopy w.cid).copyDrop (egressOf p) w.copy rPORT_DOWN) s

/-- The frames that a port is receiving are discarded as R12 discards them (R274). -/
def State.rxAbort (s : State) (p : Nat) : State :=
  s.eng.frames.foldl (fun s e =>
    if e.2.src = .wire ∧ e.2.port = p ∧ e.2.lenKnown = false then (s.frameDrop e.1).bump F.portCntRxFcs (portIx p) else s) s

/-- The link of a port goes down with a cause of Table 9.2 (R259, R274, R275, R282, R301). -/
def State.linkDownNow (s : State) (p cause : Nat) : State :=
  let k := portIx p
  let s := (s.setBit F.portStatus_link k false).setBit F.tmPortStatus_link p false
  let s := (s.bump F.portCntLinkDown k).set F.timePortCal_calState p 0
  let s := (s.setBit F.tmPortStatus_paused p false).set F.tmPortStatus_pfcPaused p 0
  let s := ((s.setBit F.portStatus_txLpi k false).setBit F.portStatus_preemptActive k false).set F.portStatus_pfcStorm k 0
  let s := s.setPortSt p { s.portSt p with condUp := none, condDown := none, pauseUntil := none, pfcUntil := [], pfcSince := [], wdTicks := [],
                                           storm := 0, lpiStamp := false, verifyTries := 0, verifySent := none, failoverPosted := false }
  let s := ((s.rxAbort p).txAbort p).rclkSquelch p
  let s := (List.range 8).foldl (fun s c => s.setCbs (p * 8 + c) { cr := 0, lastNs := s.ns, wire := 0 }) s
  let s := s.setTmPort p { s.tmPort p with holdUntil := some (s.tlNs / 1000 + s.get F.tmPortCfg_linkHold p * 1000) }
  (s.setBit F.tmPortStatus_hold p true).linkEvent 2 p cause

/-- LINK_DOWN (R275): a condition has failed for LINK_DOWN_DEB. -/
def execLinkDown (p : Port) (s : State) : Outc :=
  .next (
    match (s.portSt p.val).condDown with
    | some (t, cause) =>
      if s.linkUp p.val = true ∧ t + s.get F.portCfg_linkDownDeb (portIx p.val) * 1000 ≤ s.ns then s.linkDownNow p.val cause else s
    | none => s)

/-- Drop every frame of the queues that `sel` names, with a reason; `cnt` counts each. -/
def State.flushQueues (s : State) (e reason : Nat) (sel : Nat → Bool) (cnt : State → State) : State :=
  (s.tm.queues.filter (fun q => sel q.1)).foldl (fun s q =>
    (q.2.foldl (fun s cid =>
      match s.copy? cid with
      | some cp => (cnt (s.delCopy cid)).copyDrop e cp reason
      | none => s) (s.setQueue q.1 []))) s

/-- LINK_HOLD_EXPIRY (R260, R261): every queue of the port is flushed. -/
def execLinkHoldExpiry (p : Port) (s : State) : Outc :=
  .next (
    match (s.tmPort p.val).holdUntil with
    | some t =>
      if s.linkUp p.val = false ∧ t ≤ s.tlNs / 1000 then
        let sel := fun q => (s.queueSlot q).map (·.1) == some p.val
        let s := s.flushQueues (egressOf p.val) rPORT_FLUSH sel (fun s => s.bump F.tmCntFlushed p.val)
        (s.setTmPort p.val { s.tmPort p.val with holdUntil := none }).setBit F.tmPortStatus_hold p.val false
      else s
    | none => s)

/-- FEC_DEGRADED_TICK (R272): `corrected` codewords in the millisecond that ends. -/
def execFecDegradedTick (p : Port) (corrected : Nat) (s : State) : Outc :=
  .next (
    if s.linkUp p.val = false then s
    else
      let k := portIx p.val
      let s := s.addTo F.portCntFecCorr k corrected
      let st := s.portSt p.val
      if s.get F.portCfg_fecDegThr k < corrected ∧ since st.lastFecEvt 1000000000 s.ns = true then
        (s.setPortSt p.val { st with lastFecEvt := some s.ns }).linkEvent 3 p.val 0
      else s)

/-! ### Pauses (R280, R281) -/

/-- PAUSE_EXPIRY (R280): the pause of a port, or of one priority, has run out. -/
def execPauseExpiry (p : Port) (prio : Option (Fin 8)) (s : State) : Outc :=
  .next (
    let st := s.portSt p.val
    match prio with
    | none =>
      (match st.pauseUntil with
       | some t => if t ≤ s.ns then (s.setPortSt p.val { st with pauseUntil := none }).setBit F.tmPortStatus_paused p.val false else s
       | none => s)
    | some n =>
      (match Tab.get? st.pfcUntil n.val with
       | some t =>
         let old := s.get F.tmPortStatus_pfcPaused p.val
         if t ≤ s.ns then
           (s.setPortSt p.val { st with pfcUntil := Tab.del st.pfcUntil n.val, pfcSince := Tab.del st.pfcSince n.val }).set
             F.tmPortStatus_pfcPaused p.val (if old.testBit n.val then old - 2 ^ n.val else old)
         else s
       | none => s))

/-- PFC_REFRESH (R281): the frame that signals XOFF is sent again. -/
def execPfcRefresh (p : Port) (s : State) : Outc :=
  .next (
    let st := s.portSt p.val
    match st.refreshNs with
    | some t =>
      if t ≤ s.ns ∧ st.xoff ≠ 0 then
        let k := portIx p.val
        let q := s.get F.portFlowctl_pfcQuanta k
        let s := s.setPortSt p.val { st with refreshNs := some (s.ns + s.quantaNs p.val (s.get F.portFlowctl_refresh k)) }
        if s.get F.portFlowctl_mode k = 1 then s.sendFlow p.val 0xFF [q]
        else s.sendFlow p.val st.xoff ((List.range 8).map (fun i => if st.xoff.getLsbD i then q else 0))
      else s
    | none => s)

/-! ### The PFC watchdog (R282) -/

/-- Ticks of 1 ms that have fallen since TIME_CLK instant `t` (R487). -/
def State.msSince (s : State) (t : Nat) : Nat := s.tlNs / 1000000 - (s.tlNs - (s.ns - t)) / 1000000

/-- A class slot storms. -/
def State.stormStart (s : State) (p n : Nat) : State :=
  let k := portIx p
  let st := s.portSt p
  let s := s.setPortSt p { st with storm := st.storm ||| BitVec.ofNat 8 (2 ^ n), pfcLast := Tab.put st.pfcLast n (Tab.getD st.pfcLast n s.ns),
                                   wdTicks := Tab.del st.wdTicks n }
  let s := s.set F.portStatus_pfcStorm k (s.get F.portStatus_pfcStorm k ||| 2 ^ n)
  let s := (s.bump F.portCntPfcStorm k).linkEvent 4 p n
  if s.bit F.portPfcWd_wdAction k then s
  else s.flushQueues (egressOf p) rPFC_STORM (fun q => s.queueSlot q == some (p, n)) (fun s => s.bump F.portCntStormDrop k)

/-- PFC_WD_TICK (R282): the watchdog of one priority at a 1 ms tick. -/
def execPfcWdTick (p : Port) (prio : Fin 8) (s : State) : Outc :=
  .next (
    let k := portIx p.val
    let n := prio.val
    let st := s.portSt p.val
    if s.linkUp p.val = false ∨ s.get F.portFlowctl_mode k ≠ 2 ∨ (s.get F.portPfcWd_wdEn k).testBit n = false then s
    else if st.storm.getLsbD n then
      if s.get F.portPfcWd_wdRestore k ≤ s.msSince (Tab.getD st.pfcLast n 0) then
        let s := s.setPortSt p.val { st with storm := st.storm &&& ~~~(BitVec.ofNat 8 (2 ^ n)) }
        let old := s.get F.portStatus_pfcStorm k
        (s.set F.portStatus_pfcStorm k (if old.testBit n then old - 2 ^ n else old)).linkEvent 5 p.val n
      else s
    else if (s.get F.tmPortStatus_pfcPaused p.val).testBit n = true ∧ (s.slotQueues (p.val * 8 + n)) ≠ [] then
      let c := Nat.min (Tab.getD st.wdTicks n 0 + 1) (s.msSince (Tab.getD st.pfcSince n s.ns))
      let s := s.setPortSt p.val { st with wdTicks := Tab.put st.wdTicks n c }
      if s.get F.portPfcWd_wdDetect k ≤ c then s.stormStart p.val n else s
    else s.setPortSt p.val { st with wdTicks := Tab.del st.wdTicks n })

/-! ### Low-power idle (R277, R278) -/

/-- Whether a port may enter LPI: PORT_STATUS.EEE_ABLE (R277, R278). -/
def State.lpiAble (s : State) (p : Nat) : Bool :=
  let k := portIx p
  (decide (128 ≤ p) || [5, 7, 8, 9].contains (s.pbMode p)) && s.portExists p && s.bit F.portLpi_lpiEn k
    && !(s.bit F.portCfg_timingPort k) && !(s.bit F.tmPortCfg_gateEn p)

/-- LPI_ENTER (R277): nothing selected and nothing on the wire for LPI_IDLE. -/
def execLpiEnter (p : Port) (s : State) : Outc :=
  .next (
    let k := portIx p.val
    if s.linkUp p.val = true ∧ s.lpiAble p.val = true ∧ s.bit F.portStatus_txLpi k = false
        ∧ s.get F.tmPortStatus_outstanding p.val = 0 ∧ Tab.getD s.ports.wire p.val [] = []
        ∧ (s.portSt p.val).idleSince + s.get F.portLpi_lpiIdle k * 1000 ≤ s.ns then
      ((s.setBit F.portStatus_txLpi k true).bump F.portCntTxLpi k).emit (.lpi p.val true)
    else s)

/-- RX_LPI (R278): the partner has sent LPI. -/
def execRxLpi (p : Port) (s : State) : Outc :=
  .next (
    if s.linkUp p.val = false then s
    else
      let k := portIx p.val
      let s := s.bump F.portCntRxLpi k
      if s.bit F.portCfg_timingPort k then
        let st := s.portSt p.val
        let quiet := match st.lastLpiEvt with | some t => decide (t + 1000000000 ≤ s.ns) | none => true
        let s := s.setPortSt p.val { st with lpiStamp := true, lastLpiEvt := if quiet then some s.ns else st.lastLpiEvt }
        if quiet then s.linkEvent 8 p.val 0 else s
      else s)

/-! ### Verification of preemption (R288) -/

/-- PREEMPT_VERIFY_SEND (R288): up to three verify frames, VERIFY_TIME apart; after the third has gone unanswered, PREEMPT_FAILED. -/
def execPreemptVerifySend (p : Port) (s : State) : Outc :=
  .next (
    let k := portIx p.val
    let st := s.portSt p.val
    if s.linkUp p.val = true ∧ s.bit F.portPreempt_preemptEn k = true ∧ s.bit F.portPreempt_verifyDis k = false
        ∧ s.bit F.portStatus_preemptActive k = false
        ∧ since st.verifySent (s.get F.portPreempt_verifyTime k * 1000000) s.ns = true ∧ st.verifyTries ≤ 3 then
      let s := s.setPortSt p.val { st with verifyTries := st.verifyTries + 1, verifySent := some s.ns }
      if st.verifyTries < 3 then s.emit (.verify p.val) else s.linkEvent 7 p.val 0
    else s)

/-- PREEMPT_VERIFY_RESPONSE (R288): preemption becomes active. -/
def execPreemptVerifyResponse (p : Port) (s : State) : Outc :=
  .next (
    let k := portIx p.val
    let n := (s.portSt p.val).verifyTries
    if s.linkUp p.val = true ∧ s.bit F.portPreempt_preemptEn k = true ∧ s.bit F.portStatus_preemptActive k = false ∧ 1 ≤ n ∧ n ≤ 3 then
      (s.setBit F.portStatus_preemptActive k true).linkEvent 6 p.val 0
    else s)

end Sys2Proof.Machine
end

