-- ==== Sys2Proof/Machine/Servo.lean ====
section
/-!
DEFINITION. Machine/Servo.lean: the time bases: their start (R292), steps (R293), servo (R309, R310), jumps and policies (R311),
cross-check groups (R312, R313) and path steps (R314). Offsets and delays are in 2^-16 ns, rates in ppb, times in s.
-/
namespace Sys2Proof.Machine

abbrev hTIMEOUT : Nat := 1
abbrev hMASTER : Nat := 2
abbrev hJUMP : Nat := 3
abbrev hISOLATED : Nat := 4
abbrev hHARBOUR : Nat := 5

/-! ### Rates and time (R291, R293, R309) -/

/-- A rational as a whole number, rounded to nearest. -/
def roundRat (x : Rat) : Int := (x + 1 / 2).floor

/-- Put a base on a rate in ppb, within the limits of R291. -/
def State.setRate (s : State) (b : Nat) (rate : Rat) : State :=
  let f := max (-549755814) (min 549755814 (roundRat (rate * (2 ^ 40 : Nat) / (1000000000 : Nat))))
  (s.setBase b { s.base b with frate := f }).set F.timeTbRate_value b (f.emod (2 ^ 64)).toNat

/-- The state i is clamped to ±500,000 ppb. -/
def clampI (x : Rat) : Rat := max (-500000) (min 500000 x)

/-- The size of a rational. -/
def absRat (x : Rat) : Rat := if x < 0 then -x else x

/-- 2^-16 ns as ns. -/
def ns16 (x : Int) : Rat := (x : Rat) / 65536

def State.servo (s : State) (b : Nat) : Nat := s.get F.timeTbStatus_state b
/-- STEP_THR, LOCK_THR in 2^-16 ns; PATH_STEP_THR (ps) likewise. -/
def State.stepThr (s : State) (b : Nat) : Int := s.get F.timeTbCfg_stepThr b * 65536
def State.lockThr (s : State) (b : Nat) : Int := s.get F.timeTbCfg_lockThr b * 65536
def State.pathThr (s : State) (b : Nat) : Rat := (s.get F.timeTbCfg_pathStepThr b * 65536 : Nat) / 1000

/-- A 64-bit register as a signed number. -/
def State.getS (s : State) (f : Fld) (i : Nat) : Int := (BitVec.ofNat 64 (s.get f i)).toInt

/-- The last θ' of a base. -/
def State.theta (s : State) (b : Nat) : Int := s.getS F.timeTbOffset_value b

/-- The filtered path delay dm, published rounded down. -/
def State.setDm (s : State) (b : Nat) (dm : Rat) : State :=
  (s.setBase b { s.base b with dm := dm }).set F.timeTbPdelay_value b (dm.floor.emod (2 ^ 64)).toNat

/-- Lists retaken after a step of a gated port's base under its policy (R252). -/
def State.gclStepped (s : State) (b : Nat) : State :=
  (List.range 130).foldl (fun s p =>
    if s.gateEn p && s.gateBase p == b && (s.gate p).oper.isSome then s.bump F.tmCntGclStep p else s) s

/-- Step a base by −θ'; `bump` says whether the epoch counts. What the servo remembers of the base's time moves with it. -/
def State.stepBase (s : State) (b : Nat) (theta : Int) (bump : Bool) : State :=
  let v := s.base b
  let t := ((v.t40 : Int) - theta * 2 ^ 24).emod (2 ^ 104 * 1000000000)
  let s := s.setBase b { v with t40 := t.toNat, t0 := v.t0 - theta, tPrev := v.tPrev - theta }
  if bump then s.set F.timeTbStatus_epoch b (s.get F.timeTbStatus_epoch b + 1) else s

/-! ### States (Table 10.4, R310) -/

/-- A base enters a state: BASE_STATE is posted on a change (R324) and LOCKED_S counts from each entry into LOCKED. -/
def State.servoTo (s : State) (b st : Nat) (theta : Int) : State :=
  let old := s.servo b
  if old = st then s
  else
    let s := s.setBase b { s.base b with lockedSinceNs := if st = sLOCKED then some s.ns else none }
    (s.set F.timeTbStatus_state b st).timeEvent 1 b none (some theta)

/-- A base goes LOCKED, from whatever held it. -/
def State.lock (s : State) (b : Nat) (theta : Int) : State :=
  let s := s.setBase b { s.base b with accept := none, iso := 0, degraded := false }
  ((s.set F.timeTbStatus_hcause b 0).setBit F.timeTbStatus_jumpPending b false).servoTo b sLOCKED theta

/-- A base goes into HOLDOVER, or its holdover takes another cause: it runs at −i (R310, R316). -/
def State.holdover (s : State) (b cause : Nat) (pend : Bool) : State :=
  let s := s.setRate b (-(s.base b).i)
  let was := s.servo b == sHOLDOVER
  let s := s.setBase b { s.base b with holdSinceNs := if was then (s.base b).holdSinceNs else s.ns,
                                       degraded := was && (s.base b).degraded, accept := none, iso := 0 }
  let s := ((s.set F.timeTbStatus_hcause b cause).setBit F.timeTbStatus_jumpPending b pend).setBit F.timeTbStatus_slewing b false
  s.servoTo b sHOLDOVER (s.theta b)

/-- A base starts at epoch 0, second 0, in FREE (R292), at −i after a restart (Table 10.4). -/
def State.startBase (s : State) (b : Nat) : State :=
  let i := (s.base b).i
  let s := s.setBase b { running := true, i := i, lastMeasNs := s.ns }
  (s.setReg .timeTbStatus b 0).setRate b (-i)

/-- A base with EN = 0 reads zero and stands (R292). -/
def State.stopBase (s : State) (b : Nat) : State :=
  let i := (s.base b).i
  ((s.setBase b { i := i }).setReg .timeTbStatus b 0).setReg .timeTbRate b 0

/-! ### Policies and groups (R311-R313) -/

/-- Apply a base's POLICY to a jump of θ'. -/
def State.jumpPolicy (s : State) (b policy : Nat) (theta : Int) : State :=
  match policy with
  | 0 => (s.lock b theta).setBit F.timeTbStatus_slewing b true
  | 1 => (((s.stepBase b theta true).bump F.timeCntStep b).gclStepped b).lock b theta
  | 2 => s.holdover b hJUMP false
  | _ => s

/-- The open group of a base. -/
def State.groupOf (s : State) (b : Nat) : Option Nat :=
  (List.range 4).find? (fun g => s.bit F.timeXgCfg_en g && (s.get F.timeXgCfg_members g).testBit b)
def State.xg (s : State) (g : Nat) : Xg := Tab.getD s.time.xgs g {}
def State.setXg (s : State) (g : Nat) (x : Xg) : State := { s with time := { s.time with xgs := Tab.put s.time.xgs g x } }

/-- The members of group `g` other than `b` that are LOCKED; `still` leaves out those SLEWING. -/
def State.lockedPeers (s : State) (g b : Nat) (still : Bool) : List Nat :=
  (List.range 8).filter (fun c => c != b && (s.get F.timeXgCfg_members g).testBit c && s.servo c == sLOCKED
    && !(still && s.bit F.timeTbStatus_slewing c))

/-- The bits of a set of bases. -/
def baseBits (l : List Nat) : BitVec 8 := l.foldl (fun a b => a ||| BitVec.ofNat 8 (2 ^ b)) 0
def inSet (m : BitVec 8) (b : Nat) : Bool := m.getLsbD b

/-- Whether the jump being judged is common (R313): at least half, rounded up, of the others LOCKED at the first jump agree. -/
def Xg.common (x : Xg) : Bool :=
  let n := ((List.range 8).filter (inSet x.locked)).length
  decide ((n + 1) / 2 ≤ ((List.range 8).filter (fun b => inSet x.locked b && inSet x.jumped b)).length)

/-- The window of a jump ends: a pending member whose jump was not common is ISOLATED (R313). -/
def State.windowEnd (s : State) (g : Nat) : State :=
  let x := s.xg g
  let s := s.setXg g { x with jumpNs := none, waiting := 0, jumped := 0, locked := 0 }
  (List.range 8).foldl (fun s b =>
    if inSet x.waiting b && s.bit F.timeTbStatus_jumpPending b then
      ((s.holdover b hISOLATED false).bump F.timeCntIsolated b).timeEvent 3 b none (some (s.theta b))
    else s) s

/-- A common jump: every member whose jump agrees takes its POLICY (R313). -/
def State.commonJump (s : State) (g : Nat) : State :=
  let x := s.xg g
  let s := s.setXg g { x with waiting := x.waiting &&& ~~~x.jumped }
  (List.range 8).foldl (fun s b =>
    if inSet x.jumped b && s.bit F.timeTbStatus_jumpPending b then s.jumpPolicy b (s.get F.timeTbCfg_policy b) (s.theta b) else s) s

/-- A jump of base `b` in group `g` joins the one being judged, or starts the window (R313). -/
def State.joinJump (s : State) (g b : Nat) (theta : Int) : State :=
  let window := s.get F.timeXgCfg_jumpWindow g * 1000000
  let s := match (s.xg g).jumpNs with
    | some t => if t + window < s.ns then s.windowEnd g else s
    | none => s
  let x := s.xg g
  let me := BitVec.ofNat 8 (2 ^ b)
  match x.jumpNs with
  | some _ =>
    let agrees := decide ((theta < 0) = (x.theta < 0)) && decide (((theta - x.theta).natAbs : Int) ≤ s.stepThr b)
    s.setXg g { x with waiting := x.waiting ||| me, jumped := if agrees then x.jumped ||| me else x.jumped }
  | none =>
    s.setXg g { x with jumpNs := some s.ns, theta := theta, locked := baseBits (s.lockedPeers g b false), jumped := me, waiting := me }

/-- A base has met a jump (R311, R313). -/
def State.meetJump (s : State) (b : Nat) (theta : Int) : State :=
  let s := s.bump F.timeCntJump b
  let policy := s.get F.timeTbCfg_policy b
  let now := fun (s : State) => (s.timeEvent 2 b (some policy) (some theta)).jumpPolicy b policy theta
  match s.groupOf b with
  | none => now s
  | some g =>
    let alone := (s.lockedPeers g b false).isEmpty
    if alone && (s.xg g).jumpNs.isNone then now s
    else
      let s := s.joinJump g b theta
      if (s.xg g).common then
        ((s.timeEvent 2 b (some policy) (some theta)).setBit F.timeTbStatus_jumpPending b true).commonJump g
      else if alone then now s
      else (s.timeEvent 2 b (some 3) (some theta)).holdover b hJUMP true

/-- Insert into a sorted list. -/
def insRat (x : Rat) : List Rat → List Rat
  | [] => [x]
  | y :: l => if x ≤ y then x :: y :: l else y :: insRat x l

/-- The peer-derived offset θ̂ of a base (R312): the median, the lower of the two middle values where their count is even. -/
def State.peerOffset (s : State) (b : Nat) : Option Rat :=
  match s.groupOf b with
  | none => none
  | some g =>
    let v := (s.lockedPeers g b true).map (fun c =>
      (((s.base b).t40 : Int) - (s.base c).t40 : Rat) / (2 ^ 24 : Nat)
        - ((s.getS F.timeXgNominal_nom b - s.getS F.timeXgNominal_nom c) * 65536 : Int))
    let l := v.foldl (fun l x => insRat x l) []
    l[(l.length - 1) / 2]?

/-! ### Path steps (R314) -/

/-- A base leaves SUSPECT by acceptance. -/
def State.acceptPath (s : State) (b : Nat) : State := (s.setDm b (s.base b).lastD).lock b (s.theta b)

/-- A measurement in SUSPECT: revert, or learn the asymmetry. -/
def State.suspectMeas (s : State) (b : Nat) (theta : Int) (d : Rat) : State :=
  let v := s.base b
  let thr := s.pathThr b
  let good := if absRat (d - v.dm) ≤ thr then v.good + 1 else 0
  let learn := match s.peerOffset b with
    | some o => if absRat (d - v.firstD) ≤ thr then v.learn ++ [((theta : Rat) - o, d)] else []
    | none => []
  let s := s.setBase b { v with good := good, learn := learn }
  if 4 ≤ good then s.lock b theta
  else if s.bit F.timeTbCfg_asymLearn b = true ∧ learn.length = 16 then
    let asym := s.getS F.timeTbAsym_value b + ((learn.map (·.1)).sum / 16).floor
    let s := s.set F.timeTbAsym_value b (asym.emod (2 ^ 64)).toNat
    ((s.setDm b ((learn.map (·.2)).sum / 16)).timeEvent 5 b none (some asym)).lock b theta
  else if 16 ≤ learn.length then s.setBase b { s.base b with learn := learn.drop 1 }
  else s

/-! ### A measurement (R309) -/

/-- One PI or slewing step of a base that is ACQUIRE or LOCKED. `tau` is in s; at 0 the slewing quotient is a free value. -/
def State.pi (s : State) (b : Nat) (theta : Int) (d tau : Rat) : State :=
  let v := s.base b
  let th := ns16 theta
  let s :=
    if s.bit F.timeTbStatus_slewing b then
      let bound : Rat := (s.get F.timeTbHold_slewMax b * 1000 : Nat)
      let half := if tau = 0 then ((s.freeVal.toInt : Int) : Rat) else absRat th / (2 * tau)
      let s := if tau = 0 then s.useFree else s
      let m := min bound half
      let s := s.setRate b (-v.i - (if theta < 0 then -m else if theta = 0 then 0 else m))
      if (theta.natAbs : Int) < s.stepThr b then s.setBit F.timeTbStatus_slewing b false else s
    else
      let kp : Rat := (s.get F.timeTbServo_kp b : Nat) / 4096
      let ki : Rat := (s.get F.timeTbServo_ki b : Nat) / 4096
      let i := clampI (v.i + ki * th * tau)
      (s.setBase b { v with i := i }).setRate b (-(kp * th + i))
  let s := s.setDm b (v.dm + (d - v.dm) / 16)
  if s.servo b = sACQUIRE then
    let n := if (theta.natAbs : Int) < s.lockThr b then (s.base b).count + 1 else 0
    let s := s.setBase b { s.base b with count := n }
    if n = 16 then s.lock b theta else s
  else s

/-- A measurement of a base in HOLDOVER (R309, R311, R313). -/
def State.holdMeas (s : State) (b : Nat) (theta : Int) (d : Rat) : State :=
  let v := s.base b
  let small := decide ((theta.natAbs : Int) < s.stepThr b)
  match v.accept with
  | some step =>
    let s := s.setDm b d
    if step then s.jumpPolicy b 1 theta
    else if small then s.lock b theta else s.jumpPolicy b 0 theta
  | none =>
    if s.bit F.timeTbStatus_jumpPending b || s.get F.timeTbStatus_hcause b == hJUMP then s
    else if s.get F.timeTbStatus_hcause b = hISOLATED then
      let s := s.setDm b d
      let n := if (theta.natAbs : Int) < s.lockThr b then v.iso + 1 else 0
      let s := s.setBase b { s.base b with iso := n }
      if n = 16 then s.lock b theta else s
    else
      let s := s.setDm b d
      if small then s.lock b theta else s.meetJump b theta

/-- One measurement of base `b`: `t` is t_local in 2^-16 ns of epoch `ep`; `tau` fixes τ where the source does (R321). -/
def State.measure (s : State) (b ep : Nat) (t : Int) (theta0 d0 : Int) (tau : Option Rat) : State :=
  if (s.base b).running = false then s
  else if ep ≠ s.get F.timeTbStatus_epoch b then s.bump F.timeCntMeasStale b
  else
    let theta := theta0 - s.getS F.timeTbAsym_value b
    let d : Rat := d0
    let v := s.base b
    let dt := tau.getD (ns16 (t - v.tPrev) / 1000000000)
    let s := s.bump F.timeCntMeas b
    let s := s.setBase b { v with tPrev := t, lastMeasNs := s.ns, lastD := d }
    let s := s.set F.timeTbOffset_value b (theta.emod (2 ^ 64)).toNat
    match s.servo b with
    | 0 =>
      let s := s.setBase b { s.base b with i := 0, n := 0, count := 0, t0 := t }
      ((s.stepBase b theta (decide (0 < theta))).setDm b d).servoTo b sACQUIRE theta
    | 3 => s.holdMeas b theta d
    | 4 => s.suspectMeas b theta d
    | 1 =>
      let v := s.base b
      if v.n < 8 then
        let s := s.setBase b { v with n := v.n + 1 }
        if v.n + 1 = 8 then
          let span := ns16 (t - v.t0) / 1000000000
          let (q, s) := if span = 0 then (((s.freeVal.toInt : Int) : Rat), s.useFree) else (ns16 theta / span, s)
          let i := clampI (v.i + q)
          (s.setBase b { s.base b with i := i }).setRate b (-i)
        else s
      else if s.stepThr b ≤ (theta.natAbs : Int) then
        let s := s.stepBase b theta (decide (0 < theta))
        s.setBase b { s.base b with count := 0 }
      else s.pi b theta d dt
    | _ =>
      let slewing := s.bit F.timeTbStatus_slewing b
      if slewing = false ∧ s.pathThr b < absRat (d - (s.base b).dm) then
        let s := (s.bump F.timeCntPathStep b).timeEvent 4 b none (some (d - (s.base b).dm).floor)
        let s := s.setRate b (-(s.base b).i)
        let s := s.setBase b { s.base b with suspectSinceNs := s.ns, good := 0, learn := [], firstD := d }
        s.servoTo b sSUSPECT theta
      else if slewing = false ∧ s.stepThr b ≤ (theta.natAbs : Int) then s.meetJump b theta
      else s.pi b theta d dt

end Sys2Proof.Machine
end

