-- ==== Sys2Proof/Machine/Time.lean ====
section
/-!
DEFINITION. Machine/Time.lean: the steps of the time unit: time-outs and windows (R310, R313-R315), the replica loop (R302), PPS and
ToD pins (R320-R322), DPLLs (R317, R318) and the drain of the transmit stamp FIFOs (R306).
-/
namespace Sys2Proof.Machine

/-! ### Time-outs of a base -/

/-- MEAS_TIMEOUT (R310): a base without a measurement for MEAS_TIMEOUT ms. -/
def execMeasTimeout (b : TBase) (s : State) : Outc :=
  .next (
    let v := s.base b.val
    if v.running = true ∧ s.servo b.val ≠ sHOLDOVER ∧ v.lastMeasNs + s.get F.timeTbServo_measTimeout b.val * 1000000 ≤ s.ns then
      s.holdover b.val hTIMEOUT false
    else s)

/-- JUMP_WINDOW_END (R313). -/
def execJumpWindowEnd (g : Fin 4) (s : State) : Outc :=
  .next (
    match (s.xg g.val).jumpNs with
    | some t => if t + s.get F.timeXgCfg_jumpWindow g.val * 1000000 ≤ s.ns then s.windowEnd g.val else s
    | none => s)

/-- ACCEPT_AFTER_EXPIRY (R314): ACCEPT_AFTER s in SUSPECT. -/
def execAcceptAfterExpiry (b : TBase) (s : State) : Outc :=
  .next (
    let n := s.get F.timeTbServo_acceptAfter b.val
    if s.servo b.val = sSUSPECT ∧ n ≠ 0 ∧ (s.base b.val).suspectSinceNs + n * 1000000000 ≤ s.ns then s.acceptPath b.val else s)

/-- QUALITY_TRAINED (R310): LOCKED_S first reaches 60. -/
def execQualityTrained (b : TBase) (s : State) : Outc :=
  .next (
    match (s.base b.val).lockedSinceNs with
    | some t => if t + 60000000000 ≤ s.ns then s.setBit F.timeTbStatus_quality b.val true else s
    | none => s)

/-- DEGRADE_AFTER_EXPIRY (R315): more than DEGRADE_AFTER s in HOLDOVER. -/
def execDegradeAfterExpiry (b : TBase) (s : State) : Outc :=
  .next (
    let v := s.base b.val
    if s.servo b.val = sHOLDOVER ∧ v.holdSinceNs + s.get F.timeTbHold_degradeAfter b.val * 1000000000 < s.ns then
      s.setBase b.val { v with degraded := true }
    else s)

/-! ### The replica loop (R302) -/

/-- An applied delay moves towards the measured one by at most 2 ps. -/
def nudge (applied measured : Nat) : Nat :=
  if applied ≤ measured then applied + Nat.min 2 (measured - applied) else applied - Nat.min 2 (applied - measured)

/-- REPLICA_LOOP_UPDATE (R302): the loops of a calibrated port measured `mRx` and `mTx` ps. -/
def execReplicaLoopUpdate (p : Port) (mRx mTx : BitVec 16) (s : State) : Outc :=
  .next (
    let cal := s.get F.timePortCal_calState p.val
    if cal = 2 ∨ cal = 3 then
      let rx := s.get F.timePortCal_dPmaRx p.val
      let tx := s.get F.timePortCal_dPmaTx p.val
      let dRx : Int := (mRx.toNat : Int) - rx
      let dTx : Int := (mTx.toNat : Int) - tx
      let d := if dTx.natAbs ≤ dRx.natAbs then dRx else dTx
      let s := (s.set F.timePortCal_dPmaRx p.val (nudge rx mRx.toNat)).set F.timePortCal_dPmaTx p.val (nudge tx mTx.toNat)
      let st := s.portSt p.val
      let n := if 50 < d.natAbs then st.drift + 1 else 0
      let s := s.setPortSt p.val { st with drift := n }
      if 3 ≤ n ∧ cal = 2 then (s.set F.timePortCal_calState p.val 3).timeEvent 6 p.val none (some d)
      else if d.natAbs ≤ 10 then s.set F.timePortCal_calState p.val 2
      else s
    else s)

/-! ### PPS and ToD inputs (R321, R322) -/

/-- One second in 2^-16 ns. -/
abbrev sec16 : Nat := 65536000000000

/-- The modes in which a base takes a measurement (R308, R316). -/
def State.measMode (s : State) : Bool := s.forwarding || s.modeNo == mMOORED || s.modeNo == mDRYDOCK

/-- The running bases whose SRC is PPS_IN[n]. -/
def State.ppsBases (s : State) (n : Nat) : List Nat :=
  (List.range 8).filter (fun b => (s.base b).running && s.get F.timeTbCfg_src b == n + 1)

/-- A base measures a PPS edge against a labelled second, with τ = 1 s and d = 0. -/
def State.ppsMeasure (s : State) (b : Nat) (t : Stamp) (label : Nat) : State :=
  s.measure b (ktsEpoch t) (kts16 t) ((kts16 t : Int) - label * sec16) 0 (some 1)

def State.setPpsIn (s : State) (n : Nat) (v : PpsIn) : State := { s with time := { s.time with ppsIn := Tab.put s.time.ppsIn n v } }

/-- PPS_IN_EDGE (R321): `phi` is the phase from the edge to the next TIME_CLK edge, in 2^-8 ns. -/
def execPpsInEdge (n : Fin 4) (phi : BitVec 16) (s : State) : Outc :=
  .next (
    if s.bit F.timePpsIn_en n.val && s.time.tl then
      let num : Int := -(phi.toNat * 1000 : Nat) - signed16 (s.get F.timePpsIn_delay n.val) * 256
      let at_ := fun b => s.stampOn b false false num 256000
      let bases := s.ppsBases n.val
      let tod := decide (n.val < 2) && s.bit F.timePpsIn_todEn n.val
      let marks := bases.map (fun b => (b, at_ b))
      let s := s.set F.timePpsInLast_last n.val (at_ 15).toNat
      let s := s.setPpsIn n.val { lastNs := some s.ns, edge := if tod then marks else [] }
      if tod || !s.measMode then s
      else marks.foldl (fun s m =>
        let sec := (kts16 m.2 + sec16 / 2) / sec16
        if (((kts16 m.2 : Int) - sec * sec16).natAbs * 2 < sec16) then s.ppsMeasure m.1 m.2 sec else s) s
    else s)

/-- PPS_IN_LOSS (R321): no edge within 1.1 s of the previous one. -/
def execPpsInLoss (n : Fin 4) (s : State) : Outc :=
  .next (
    match (Tab.getD s.time.ppsIn n.val {}).lastNs with
    | some t =>
      if s.bit F.timePpsIn_en n.val = true ∧ t + 1100000000 < s.ns then (s.setPpsIn n.val {}).timeEvent 9 n.val none (some 0) else s
    | none => s)

/-- TOD_RX_MESSAGE (R322, Table 10.7): the label of the PPS_IN[n] edge before it. -/
def execTodRxMessage (n : Fin 2) (msg : List Byte) (s : State) : Outc :=
  .next (
    if s.bit F.timePpsIn_en n.val && s.bit F.timePpsIn_todEn n.val && msg.length == 16 && msg.take 3 == [0x4B, 0x54, 1] then
      let v := Tab.getD s.time.ppsIn n.val {}
      let inTime := match v.lastNs with
        | some t => decide (t + 1000000 ≤ s.ns) && decide (s.ns ≤ t + 900000000)
        | none => false
      if inTime && beNat (msg.drop 14) == crc16 (msg.take 14) then
        let s := s.setPpsIn n.val { v with edge := [] }
        if s.measMode then v.edge.foldl (fun s m => s.ppsMeasure m.1 m.2 (beNat ((msg.drop 5).take 6))) s else s
      else s.timeEvent 10 n.val none (some 0)
    else s)

/-! ### PPS and ToD outputs (R316, R320, R322) -/

/-- The time of a base (15: TL) in 2^-40 ns, and what it adds per cycle. -/
def State.baseT40 (s : State) (b : Nat) : Nat × Nat :=
  if b < 8 then ((s.base b).t40, (2 ^ 40 + (s.base b).frate).toNat) else (s.tlNs * 2 ^ 40, 2 ^ 40)

/-- The ToD message of an edge of base `b` (Table 10.7). TL has no servo state and no quality: those bits are a free value. -/
def State.todMessage (s : State) (b : Nat) : List Byte :=
  let sec := (s.baseT40 b).1 / (2 ^ 40 * 1000000000)
  let own := decide (b < 8)
  let st := if own then s.servo b else s.freeVal.toNat % 256
  let tr := if own then s.get F.timeTbStatus_quality b else s.freeVal.toNat / 256 % 2
  let body : List Byte := [0x4B, 0x54, 1] ++ leBytes 1 (b + 16 * (if own then s.baseFlags b else 0))
    ++ leBytes 1 (if own then s.get F.timeTbStatus_epoch b else 0) ++ beBytes 6 sec ++ leBytes 1 st ++ leBytes 1 tr ++ [0]
  body ++ beBytes 2 (crc16 body)

/-- Whether the output pulses now: by MODE, its base running, and the pins not held low (R316, R320). -/
def State.ppsOutOn (s : State) (n b : Nat) : Bool :=
  (decide (b < 8) || b == 15) && s.baseRuns b && !(s.modeNo == mRESET || s.modeNo == mHALT)
    && (match s.get F.timePpsOut_mode n with
        | 1 => true
        | 2 => decide (b < 8) && (s.servo b == sLOCKED || (s.servo b == sHOLDOVER && s.bit F.timeTbStatus_quality b))
        | _ => false)

/-- The ToD message that follows an edge of output `n` on base `b` (R322). -/
def State.todAfter (s : State) (n : Fin 4) (b : Nat) : State :=
  if n.val < 2 ∧ s.bit F.timePpsOut_todEn n.val = true then
    { s with time := { s.time with todDue := Tab.put s.time.todDue n.val (s.ns, s.todMessage b) } }.useFree
  else s

/-- PPS_OUT_EDGE (R320): the base reached a whole second in this cycle; an edge within WIDTH of the last is omitted. -/
def execPpsOutEdge (n : Fin 4) (s : State) : Outc :=
  .next (
    let b := s.get F.timePpsOut_base n.val
    let t := s.baseT40 b
    if s.ppsOutOn n.val b && decide (t.1 % (2 ^ 40 * 1000000000) < t.2)
        && since (Tab.get? s.time.ppsOutNs n.val) (s.get F.timePpsOut_width n.val * 1000) s.ns then
      let s := s.emit (.pps n.val)
      { s with time := { s.time with ppsOutNs := Tab.put s.time.ppsOutNs n.val s.ns } }.todAfter n b
    else s)

/-- TOD_TX_SEND (R322): the message of the last edge starts 1 ms after it. -/
def execTodTxSend (n : Fin 2) (s : State) : Outc :=
  .next (
    match Tab.get? s.time.todDue n.val with
    | some (t, msg) =>
      if t + 1000000 ≤ s.ns ∧ s.modeNo ≠ mRESET ∧ s.modeNo ≠ mHALT then
        { s with time := { s.time with todDue := Tab.del s.time.todDue n.val } }.emit (.tod n.val msg)
      else s
    | none => s)

/-! ### DPLLs (R317, R318) -/

/-- DPLL_QUALIFY (R317): an input has held for 10 s; RCLKr only while it may serve (R318). -/
def execDpllQualify (d : Fin 4) (inp : Fin 11) (s : State) : Outc :=
  .next (
    let i := inp.val
    if (d.val = 1 ∧ i = 10) ∨ (6 ≤ i ∧ i ≤ 9 ∧ s.rclkLive (i - 6) = false) then s else s.dpllMark d.val i true)

/-- DPLL_DISQUALIFY (R317). -/
def execDpllDisqualify (d : Fin 4) (inp : Fin 11) (s : State) : Outc := .next (s.dpllMark d.val inp.val false)

/-- DPLL_STATE (R318): a DPLL changes its state. -/
def execDpllState (d : Fin 4) (st : BitVec 2) (s : State) : Outc :=
  .next (
    if s.get F.timeDpllStatus_state d.val = st.toNat then s
    else
      let s := s.set F.timeDpllStatus_state d.val st.toNat
      let s := if st.toNat = 2 then { s with time := { s.time with dpllLocked := Tab.put s.time.dpllLocked d.val s.ns } } else s
      let s := if st.toNat < 2 then s.setBit F.timeDpllStatus_holdReady d.val false else s
      s.timeEvent 8 d.val (some st.toNat) none)

/-- HOLD_READY (R318): 60 s in LOCKED. -/
def execHoldReady (d : Fin 4) (s : State) : Outc :=
  .next (
    match Tab.get? s.time.dpllLocked d.val with
    | some t =>
      if s.get F.timeDpllStatus_state d.val = 2 ∧ t + 60000000000 ≤ s.ns then s.setBit F.timeDpllStatus_holdReady d.val true else s
    | none => s)

/-! ### The transmit stamp FIFOs (R305, R306) -/

/-- The head entry of a FIFO is removed. -/
def State.txtsPop (s : State) (p : Nat) : State := (s.setTxts p ((s.txts p).drop 1)).txtsGap p

/-- TXTS_DRAIN (R306): the head entry goes to the channel of TIME_TXTS_CHAN, and stays where its ring has no room. -/
def execTxtsDrain (p : Port) (s : State) : Outc :=
  .next (
    let h := s.get F.timeTxtsChan_handle 0
    match s.txts p.val with
    | [] => s
    | e :: _ =>
      if s.chanLive h 4 && s.evtRoom (hIx h) && (s.chan (hIx h)).hold.isEmpty then (s.evtWrite (hIx h) 7 (txtsBytes e)).txtsPop p.val
      else s)

end Sys2Proof.Machine
end

