-- ==== Sys2Proof/Machine/Log.lean ====
section
/-!
DEFINITION. Machine/Log.lean: the harbour log (R398-R415): capture into partitions and chunks, loss, segments with their header and
seal, the signing queue, placement on drives, completion, failure and retirement.
-/
namespace Sys2Proof.Machine

/-! ### Parts, segments and drives -/

def State.part (s : State) (p : Nat) : Part := Tab.getD s.log.parts p {}
def State.setPart (s : State) (p : Nat) (v : Part) : State := { s with log := { s.log with parts := Tab.put s.log.parts p v } }
def State.setSeg (s : State) (i : Nat) (g : Seg) : State := { s with log := { s.log with segs := Tab.put s.log.segs i g } }
def State.delSeg (s : State) (i : Nat) : State := { s with log := { s.log with segs := Tab.del s.log.segs i } }

/-- Segment `n` of partition `p`, with its number in the state. -/
def State.segOf (s : State) (p n : Nat) : Option (Nat × Seg) := s.log.segs.find? (fun e => e.2.part == p && e.2.num == n)
/-- The open segment of a partition. -/
def State.openSeg (s : State) (p : Nat) : Option (Nat × Seg) := s.log.segs.find? (fun e => e.2.part == p && e.2.isOpen)
/-- The segments that a partition holds. -/
def State.segsOf (s : State) (p : Nat) : List (Nat × Seg) := s.log.segs.filter (fun e => e.2.part == p)
/-- LOG_PART_STATUS.SEGMENTS follows. -/
def State.segCount (s : State) (p : Nat) : State := s.set F.logPartStatus_segments p (s.segsOf p).length

/-- Fields of the descriptor (Table 14.5). -/
def Part.drives (v : Part) : Nat := v.w0.toNat % 16
def Part.log2 (v : Part) : Nat := v.w0.toNat / 16 % 16
def Part.keep (v : Part) : Bool := v.w0.getLsbD 8
def Part.quota (v : Part) : Nat := v.w0.toNat / 2 ^ 32
def Part.retainS (v : Part) : Nat := v.w1.toNat % 2 ^ 32
def Part.sealMs (v : Part) : Nat := v.w1.toNat / 2 ^ 32 % 2 ^ 16
def Part.rate (v : Part) : Nat := v.w2.toNat % 2 ^ 32
def Part.burst (v : Part) : Nat := v.w2.toNat / 2 ^ 32 % 2 ^ 16

/-- Whether the log records (LOG_STATUS.STATE RUN). -/
def State.logRuns (s : State) : Bool := s.get F.logStatus_state 0 == 2 && !s.hbmFailed

/-- The bytes of a chunk (R401), and what is left of the first one. -/
abbrev chunkSize : Nat := 1048576
def chunkRoom (k : Nat) : Nat := if k = 0 then chunkSize - 4096 else chunkSize

/-! ### The byte buckets (R401, R402) -/

/-- The device-wide bucket, 25 B per ns, at most 1 MiB. -/
def State.devBucket (s : State) : Nat := Nat.min chunkSize (s.log.dev + 25 * (s.ns - s.log.devNs))

/-- A partition's bucket in 1/8000 B: RATE Mb/s is RATE of them per ns; at most BURST MiB. -/
def State.partBucket (s : State) (p : Nat) : Nat :=
  let v := s.part p
  Nat.min (v.burst * 1048576 * 8000) (v.bucket + v.rate * (s.ns - v.bucketNs))

/-! ### Header and seal (Tables 14.3, 14.4) -/

def State.keyId (s : State) : BitVec 256 := Config.sha3 (Config.idPublic s.mode.keyOwner)

/-- The segment header of Table 14.3. -/
def State.segHeader (s : State) (g : Seg) : List Byte :=
  leBytes 4 0x4C48584B ++ leBytes 2 1 ++ leBytes 2 g.part ++ leBytes 8 (s.part g.part).tag.toNat ++ leBytes 8 g.num ++ leBytes 8 g.first
    ++ leBytes 32 (g.prev.getD 0).toNat ++ leBytes 32 s.keyId.toNat ++ leBytes 16 g.openT.toNat ++ List.replicate 3984 (0 : Byte)

/-- Bytes rounded up to 4,096 with zeros (R405). -/
def pad4k (l : List Byte) : List Byte := l ++ List.replicate ((4096 - l.length % 4096) % 4096) (0 : Byte)

/-- A chunk as it goes to the drive: the first one starts with the header. -/
def State.chunkBytes (s : State) (g : Seg) (k : Nat) : List Byte :=
  match g.chunks[k]? with
  | some c => pad4k ((if k = 0 then s.segHeader g else []) ++ c.2)
  | none => []

/-- The 4-KiB blocks of a chunk. -/
def chunkBlocks (g : Seg) (k : Nat) : Nat :=
  match g.chunks[k]? with
  | some c => ((if k = 0 then 4096 else 0) + c.2.length + 4095) / 4096
  | none => 0

/-- The content hash C(n). -/
def State.contentHash (s : State) (g : Seg) : BitVec 256 :=
  Config.sha3 ((List.range g.chunks.length).flatMap (fun k => s.chunkBytes g k))

/-- The seal body of Table 14.4. -/
def State.sealBody (s : State) (g : Seg) : List Byte :=
  let map := (List.range g.chunks.length).flatMap (fun k => leBytes 4 (g.lba.getD k 0) ++ leBytes 2 (chunkBlocks g k) ++ leBytes 2 0)
  leBytes 4 0x4C414553 ++ leBytes 4 g.flags ++ leBytes 8 (s.part g.part).tag.toNat ++ leBytes 8 g.num ++ leBytes 8 g.first
    ++ leBytes 8 g.records ++ leBytes 32 (g.prev.getD 0).toNat ++ leBytes 32 (s.contentHash g).toNat ++ leBytes 32 s.keyId.toNat
    ++ leBytes 16 g.openT.toNat ++ leBytes 16 g.closeT.toNat ++ leBytes 2 g.chunks.length ++ leBytes 1 g.drive ++ leBytes 5 0
    ++ (map ++ List.replicate (8192 - map.length) (0 : Byte))

/-- The seal of 16,384 B. -/
def State.sealBytes (s : State) (g : Seg) : List Byte :=
  let sg := g.sig.take 2420
  s.sealBody g ++ sg ++ List.replicate (2420 - sg.length) (0 : Byte) ++ List.replicate 5596 (0 : Byte)

abbrev sgGENESIS : Nat := 1
abbrev sgTIMED : Nat := 2
abbrev sgCOMMANDED : Nat := 4
abbrev sgHALT : Nat := 8
abbrev sgUNSIGNED : Nat := 16
abbrev sgRELOCATED : Nat := 32

/-! ### Placement (R408, R411) -/

/-- The slots of drive `r` in use. -/
def State.slotsUsed (s : State) (r : Nat) : List Nat :=
  (s.log.segs.filter (fun e => e.2.drive == r)).map (fun e => e.2.slot)
    ++ (s.log.dir.filter (fun d => d.drive.val == r)).map (fun d => d.slot)

/-- Whether a drive takes new segments: READY and ALLOC_EN. -/
def State.driveTakes (s : State) (r : Nat) : Bool :=
  s.bit F.logDriveCfg_ready r && s.bit F.logDriveCfg_allocEn r && s.get F.logDriveStatus_state r == 2 && s.get F.logDriveStatus_free r != 0

/-- The drive of a mask with the most free slots, ties to the lower root port. -/
def State.pickDrive (s : State) (mask : Nat) : Option Nat :=
  (List.range 4).foldl (fun b r =>
    if mask.testBit r && s.driveTakes r then
      match b with
      | none => some r
      | some q => if s.get F.logDriveStatus_free q < s.get F.logDriveStatus_free r then some r else b
    else b) none

/-- The lowest free slot from `i` on, of `n`. -/
def slotFrom (used : List Nat) (n : Nat) : Nat → Nat → Option Nat
  | 0, _ => none
  | fuel + 1, i => if used.contains (i % n) then slotFrom used n fuel (i + 1) else some (i % n)

/-- Take the next free slot of a drive after the one taken last, wrapping. -/
def State.takeSlot (s : State) (r : Nat) : State × Option Nat :=
  let n := match Tab.get? s.log.ids r with | some i => i.slots | none => 0
  if n = 0 then (s, none)
  else
    let start := match Tab.get? s.log.lastSlot r with | some x => x + 1 | none => 0
    match slotFrom (s.slotsUsed r) n n start with
    | none => (s, none)
    | some x => (({ s with log := { s.log with lastSlot := Tab.put s.log.lastSlot r x } }).set F.logDriveStatus_free r
        (s.get F.logDriveStatus_free r - 1), some x)

/-- A slot is free again. -/
def State.slotBack (s : State) (r : Nat) : State := s.set F.logDriveStatus_free r (s.get F.logDriveStatus_free r + 1)

/-- Whether a read-back is in flight on a segment (R408). -/
def State.readingSeg (s : State) (i : Nat) : Bool := s.cmd.chans.any (fun e => e.2.reading == some i)

/-- Let a segment's staging go. -/
def State.chunksBack (s : State) (g : Seg) : State := g.chunks.foldl (fun s c => s.hbLet 1 c.1) s

/-- Retire a segment (R408). -/
def State.retireSeg (s : State) (i : Nat) (g : Seg) : State :=
  (((s.delSeg i).slotBack g.drive).bump F.logCntRetired g.part).segCount g.part

/-- Whether a segment may be retired now. -/
def State.mayRetire (s : State) (i : Nat) (g : Seg) : Bool :=
  let v := s.part g.part
  g.written && !v.keep && decide (g.sealNs + v.retainS * 1000000000 ≤ s.ns) && !(s.readingSeg i)

/-- The oldest segment of a partition. -/
def State.oldestSeg (s : State) (p : Nat) : Option (Nat × Seg) :=
  (s.segsOf p).foldl (fun b e => match b with
    | none => some e
    | some c => if e.2.num < c.2.num then some e else b) none

/-- Make room under QUOTA for one more segment: false where the partition must wait (R408). -/
def State.quotaRoom (s : State) (p : Nat) : State × Bool :=
  if (s.segsOf p).length < (s.part p).quota then (s, true)
  else
    match s.oldestSeg p with
    | some (i, g) => if s.mayRetire i g then (s.retireSeg i g, true) else (s, false)
    | none => (s, true)

/-- A chunk for a partition: a buffer of the LOG pool held by reference count (R402). -/
def State.newChunk (s : State) : State × Option Nat := s.hbAlloc 1 0x60 true

/-- Open the next segment of a partition (R408, R411). -/
def State.newSeg (s : State) (p : Nat) : State × Option Nat :=
  match s.quotaRoom p with
  | (s, false) => (s.setBit F.logPartStatus_stalled p true, none)
  | (s, true) =>
    let s := s.setBit F.logPartStatus_stalled p false
    let v := s.part p
    match s.pickDrive v.drives with
    | none => (s, none)
    | some r =>
      match s.newChunk with
      | (_, none) => (s, none)
      | (s1, some b) =>
        match s1.takeSlot r with
        | (_, none) => (s, none)
        | (s, some x) =>
          let i := s.log.nextSegId
          let known := !(s.log.segs.any (fun e => e.2.part == p && !e.2.sealed && !e.2.alien))
          let g : Seg := { part := p, num := v.nextSeg, drive := r, slot := x, chunks := [(b, [])], first := v.nextSeq,
                           prev := if known then some v.lastLink else none, flags := if v.genesis then sgGENESIS else 0,
                           openT := s.ktsTl, firstNs := s.ns }
          let s := (s.setSeg i g).setPart p { v with nextSeg := v.nextSeg + 1, genesis := false }
          (({ s with log := { s.log with nextSegId := i + 1 } }).segCount p, some i)

/-! ### Writing records (Table 14.2, R400, R403) -/

/-- The record of kind `kind` with its sequence number, padded to 8 B. -/
def recordBytes (kind p seq : Nat) (word : BitVec 32) (t : Stamp) (body : List Byte) : List Byte :=
  let n := (32 + body.length + 7) / 8 * 8
  leBytes 1 kind ++ leBytes 1 p ++ leBytes 2 n ++ leBytes 4 word.toNat ++ leBytes 8 seq ++ leBytes 16 t.toNat
    ++ (body ++ List.replicate (n - 32 - body.length) (0 : Byte))

/-- The length of a record with `n` bytes of body. -/
def recordLen (n : Nat) : Nat := (32 + n + 7) / 8 * 8

/-- Put bytes into the last chunk of a segment, and into its LOG buffer. -/
def State.fillChunk (s : State) (i : Nat) (g : Seg) (l : List Byte) : State :=
  match g.chunks.getLast? with
  | none => s
  | some (b, old) =>
    let k := g.chunks.length - 1
    let a := s.hbAddr 1 b + (if k = 0 then 4096 else 0) + old.length
    let s := ({ s with hbm := s.hbm.setBytes a l }).pmc { code := 0x0002, master := 0x60, n := l.length, addr := some a }
    s.setSeg i { g with chunks := g.chunks.dropLast ++ [(b, old ++ l)], records := g.records + 1 }

/-- Whether a record of `n` bytes fits the last chunk of a segment. -/
def Seg.fits (g : Seg) (n : Nat) : Bool :=
  match g.chunks.getLast? with
  | some (_, old) => decide (old.length + n ≤ chunkRoom (g.chunks.length - 1))
  | none => false

/-- Whether the signing queue has a place (R406). -/
def State.signRoom (s : State) : Bool := decide (s.log.signQ.length < 64)

/-- Close a segment with flags: it joins the signing queue (R404, R406). -/
def State.closeSeg (s : State) (i : Nat) (g : Seg) (flag : Nat) : State :=
  let s := s.setSeg i { g with isOpen := false, flags := g.flags ||| flag, closeT := s.ktsTl }
  let s := { s with log := { s.log with signQ := s.log.signQ ++ [i] } }
  s.set F.logStatus_sigq 0 s.log.signQ.length

/-- A place in a chunk for `n` bytes of partition `p`: in its open segment, in a new chunk of it, or in a new segment. -/
def State.placeFor (s : State) (p n : Nat) : State × Option (Nat × Seg) :=
  let fresh := fun (s : State) => match s.newSeg p with
    | (s, some i) => (s, (Tab.get? s.log.segs i).map (fun g => (i, g)))
    | (s, none) => (s, none)
  match s.openSeg p with
  | none => fresh s
  | some (i, g) =>
    if g.fits n then (s, some (i, g))
    else if g.chunks.length < 2 ^ (s.part p).log2 then
      match s.newChunk with
      | (s, some b) => let g := { g with chunks := g.chunks ++ [(b, [])] }; (s.setSeg i g, some (i, g))
      | (s, none) => (s, none)
    else if s.signRoom then fresh (s.closeSeg i g 0)
    else (s, none)

/-- Write one record of partition `p` where a place can be had. -/
def State.putRecord (s : State) (p kind : Nat) (word : BitVec 32) (t : Stamp) (body : List Byte) : State × Bool :=
  match s.placeFor p (recordLen body.length) with
  | (s, none) => (s, false)
  | (s, some (i, g)) =>
    let v := s.part p
    let s := s.fillChunk i g (recordBytes kind p v.nextSeq word t body)
    ((s.setPart p { s.part p with nextSeq := v.nextSeq + 1 }).bump F.logCntRecords p, true)

/-- A record is lost (R402, R403). -/
def State.loseRecord (s : State) (p n : Nat) (t : Stamp) : State :=
  let v := s.part p
  (s.setPart p { v with lostN := v.lostN + 1, lostB := v.lostB + n, lostAt := if v.lostN = 0 then t else v.lostAt }).bump F.logCntLost p

/-- The RESTART record that a resumed partition owes (R414): the torn segments' numbers, up to 64, and their count. -/
def restartBody (l : List Nat) : List Byte := (l.take 64).flatMap (fun n => leBytes 8 n) ++ leBytes 8 l.length

/-- The records that stand before the next captured one: RESTART, then LOSS (R403, R414). -/
def State.owedRecords (s : State) (p : Nat) : State :=
  let v := s.part p
  let s := match v.restart with
    | some l =>
      (match s.putRecord p 8 0 s.ktsTl (restartBody l) with
       | (s, true) => s.setPart p { s.part p with restart := none }
       | (s, false) => s)
    | none => s
  let v := s.part p
  if v.lostN = 0 then s
  else
    match s.putRecord p 7 (BitVec.ofNat 32 v.lostN) s.ktsTl (leBytes 8 v.lostB ++ leBytes 16 v.lostAt.toNat) with
    | (s, true) => s.setPart p { s.part p with lostN := 0, lostB := 0, lostAt := 0 }
    | (s, false) => s

/-- Capture one record (R398, R402). -/
def State.capture (s : State) (c : Capture) : State :=
  let p := c.part
  let n := recordLen c.body.length
  if s.logRuns = false then s
  else if s.get F.logPartStatus_state p ≠ 1 then s.bump F.logCntNoPart 0
  else
    let dev := s.devBucket
    let own := s.partBucket p
    let s := { s with log := { s.log with dev := dev, devNs := s.ns } }
    let s := s.setPart p { s.part p with bucket := own, bucketNs := s.ns }
    if own < n * 8000 ∨ dev < n then s.loseRecord p n s.ktsTl
    else
      let s := s.owedRecords p
      match s.putRecord p c.kind c.word c.stamp c.body with
      | (s, true) =>
        let s := { s with log := { s.log with dev := dev - n } }
        s.setPart p { s.part p with bucket := own - n * 8000 }
      | (s, false) => s.loseRecord p n s.ktsTl

/-- LOG_CAPTURE (R398): the oldest record offered reaches its partition; a FRAME_IN's buffer reference goes (R399). -/
def execLogCapture (s : State) : Outc :=
  .next (
    match s.log.queue with
    | [] => s
    | c :: rest =>
      let s := ({ s with log := { s.log with queue := rest } }).capture c
      match c.bid with
      | some b => s.letGo b 0x60
      | none => s)

/-! ### Closing, signing and writing (R404-R406, R412) -/

/-- SEAL_MS_EXPIRY (R404): SEAL_MS ms have passed since the open segment's first record. -/
def execSealMsExpiry (p : Fin 16) (s : State) : Outc :=
  .next (
    match s.openSeg p.val with
    | some (i, g) =>
      if g.records ≠ 0 ∧ s.signRoom = true ∧ g.firstNs + (s.part p.val).sealMs * 1000000 ≤ s.ns then s.closeSeg i g sgTIMED else s
    | none => s)

/-- Close a partition's open segment on command (R404, LOG.SEAL). -/
def State.sealPart (s : State) (p flag : Nat) : State :=
  match s.openSeg p with
  | some (i, g) => if g.records ≠ 0 ∧ s.signRoom = true then s.closeSeg i g flag else s
  | none => s

/-- The segment whose header waits for the link of the one before: the lowest of its partition. -/
def State.linkNext (s : State) (p : Nat) : State :=
  let w := (s.segsOf p).filter (fun e => e.2.prev.isNone)
  match w.foldl (fun (b : Option (Nat × Seg)) e => match b with
      | none => some e
      | some c => if e.2.num < c.2.num then some e else b) none with
  | some (i, g) => s.setSeg i { g with prev := some (s.part p).lastLink }
  | none => s

/-- Whether every chunk of a closed segment is on its drive. -/
def Seg.chunksDone (g : Seg) : Bool := decide (g.lba.length = g.chunks.length)

/-- SEAL_SIGN (R405, R406): the crypto unit signs the oldest closed segment whose chunk map is complete, 2,000 a second at most;
without keys the seal is UNSIGNED (R464). -/
def execSealSign (s : State) : Outc :=
  .next (
    match s.log.signQ with
    | [] => s
    | i :: rest =>
      let quiet := match s.log.signNs with | some t => decide (t + 500000 ≤ s.ns) | none => true
      match Tab.get? s.log.segs i with
      | none => { s with log := { s.log with signQ := rest } }.set F.logStatus_sigq 0 rest.length
      | some g =>
        if g.chunksDone && g.prev.isSome && quiet then
          let g := if s.mode.keys then g else { g with flags := g.flags ||| sgUNSIGNED }
          let body := s.sealBody g
          let link := Config.sha3 body
          let s := s.setSeg i { g with sealed := true, sealNs := s.ns, link := link, sig := if s.mode.keys then Config.sign s.mode.keyOwner body else [] }
          let s := { s with log := { s.log with signQ := rest, signNs := some s.ns } }.set F.logStatus_sigq 0 rest.length
          (s.setPart g.part { s.part g.part with lastLink := link, lastSealed := some g.num }).linkNext g.part
        else s)

/-- Whether chunk `k` is closed: a later one is open, or its segment is closed (R405). -/
def Seg.chunkClosed (g : Seg) (k : Nat) : Bool := !g.isOpen || decide (k + 1 < g.chunks.length)

/-- Where chunk `k` lies on a conventional namespace: after the one before it (R412). -/
def nextBlock (g : Seg) : Nat := (List.range g.lba.length).foldl (fun n k => n + chunkBlocks g k) 0

/-- Whether writes still go out: after HALT only until HALT_FLUSH_MS (R415). -/
def State.logWrites (s : State) : Bool :=
  !s.hbmFailed && (match s.log.flushNs with | some t => decide (s.ns ≤ t) | none => true)

/-- CHUNK_WRITE_DONE (R412): the oldest chunk of a segment still on its way completes; a Zone Append returns its block. -/
def execChunkWriteDone (p : Fin 16) (seg : Nat) (lba : Nat) (s : State) : Outc :=
  .next (
    match s.segOf p.val seg with
    | some (i, g) =>
      if s.logWrites && !g.chunksDone && g.chunkClosed g.lba.length && g.prev.isSome && !g.alien
          && s.get F.logDriveStatus_state g.drive == 2 then
        let at_ := if s.bit F.logDriveStatus_zoned g.drive then lba else nextBlock g
        let n := chunkBlocks g g.lba.length * 4096
        let s := s.pmc { code := 0x0001, master := 0x60, n := n }
        s.setSeg i { g with lba := g.lba ++ [at_], fails := 0 }
      else s
    | none => s)

/-- SEGMENT_FLUSH_DONE (R412): the seal is on the drive and flushed; the segment counts as written and its staging goes. -/
def execSegmentFlushDone (p : Fin 16) (seg : Nat) (s : State) : Outc :=
  .next (
    match s.segOf p.val seg with
    | some (i, g) =>
      if s.logWrites && g.sealed && g.chunksDone && !g.written && s.get F.logDriveStatus_state g.drive == 2 then
        ((s.chunksBack g).setSeg i { g with written := true }).bump F.logCntSealed p.val
      else s
    | none => s)

/-! ### Failure and retirement (R408, R409, R413) -/

/-- A segment is discarded: its records are lost (R413). -/
def State.discardSeg (s : State) (i : Nat) (g : Seg) : State :=
  let s := (s.chunksBack g).delSeg i
  let bytes := g.chunks.foldl (fun n c => n + c.2.length) 0
  let v := s.part g.part
  let s := s.setPart g.part { v with lostN := v.lostN + g.records, lostB := v.lostB + bytes,
                                     lostAt := if v.lostN = 0 then g.openT else v.lostAt }
  let s := s.addTo F.logCntLost g.part g.records
  let s := { s with log := { s.log with signQ := s.log.signQ.filter (· != i) } }
  ((s.set F.logStatus_sigq 0 s.log.signQ.length).slotBack g.drive).linkNext g.part |>.segCount g.part

/-- The whole segment goes again, to another drive of its partition (R413). -/
def State.relocateSeg (s : State) (i : Nat) (g : Seg) : State :=
  match s.pickDrive (s.part g.part).drives with
  | none => s.discardSeg i g
  | some r =>
    match s.takeSlot r with
    | (_, none) => s.discardSeg i g
    | (s, some x) =>
      let s := s.setSeg i { g with drive := r, slot := x, lba := [], flags := g.flags ||| sgRELOCATED, sealed := false, sig := [], fails := 0 }
      let s := if g.sealed then { s with log := { s.log with signQ := s.log.signQ ++ [i] } } else s
      (s.set F.logStatus_sigq 0 s.log.signQ.length).bump F.logCntRelocated g.part

/-- The RAS event of a failed drive: the spec gives its type no code (log entry 25). -/
def State.driveEvent (s : State) (r : Nat) : State := s.useFree.rasEvent (s.freeVal.toNat % 256) r 0x60 0 0

/-- DRIVE_WRITE_FAIL (R413): a write of a segment failed; the second time, or on a drive already out, the drive is FAILED and the
segment is written again elsewhere. -/
def execDriveWriteFail (p : Fin 16) (seg : Nat) (s : State) : Outc :=
  .next (
    match s.segOf p.val seg with
    | some (i, g) =>
      if g.written ∨ g.alien then s
      else if g.fails = 0 ∧ s.get F.logDriveStatus_state g.drive = 2 then s.setSeg i { g with fails := 1 }
      else
        let s := if s.get F.logDriveStatus_state g.drive = 2 then
            ((s.set F.logDriveStatus_state g.drive 3).driveEvent g.drive).hostErr 16
          else s
        s.relocateSeg i g
    | none => s)

/-- RETENTION_EXPIRY (R409): a segment of a closing partition has reached its retention; after the last the index is free. -/
def execRetentionExpiry (p : Fin 16) (seg : Nat) (s : State) : Outc :=
  .next (
    match s.segOf p.val seg with
    | some (i, g) =>
      if s.get F.logPartStatus_state p.val = 2 ∧ s.mayRetire i g = true then
        let s := s.retireSeg i g
        if (s.segsOf p.val).isEmpty then s.set F.logPartStatus_state p.val 0 else s
      else s
    | none => s)

/-! ### Drives and the scan (R410, R413, R414) -/

/-- DRIVE_LINKED (R410): a drive's link is up. -/
def execDriveLinked (r : Fin 4) (s : State) : Outc :=
  .next (if s.get F.logDriveStatus_state r.val = 0 then s.set F.logDriveStatus_state r.val 1 else s)

/-- DRIVE_REMOVED (R413): a drive is gone; its segments read back as NOT_FOUND. -/
def execDriveRemoved (r : Fin 4) (s : State) : Outc :=
  .next ({ (s.set F.logDriveStatus_state r.val 0).set F.logDriveStatus_free r.val 0 with
           log := { s.log with ids := Tab.del s.log.ids r.val, lastSlot := Tab.del s.log.lastSlot r.val } })

/-- Whether a drive's namespace meets R410. -/
def State.driveFit (s : State) (r : Nat) (d : DriveId) (slotMib : Nat) : Bool :=
  let named := ((List.range 16).filter (fun p => s.get F.logPartStatus_state p == 1 && (s.part p).drives.testBit r)).length
  d.lba == 4096 && decide (1048576 ≤ d.mdts)
    && (if d.zoned then decide (1048576 ≤ d.zasl) && decide (1040 ≤ d.zoneCapMib) && decide (2 * named ≤ d.openZones)
        else decide (1040 ≤ slotMib))

/-- A drive becomes READY. -/
def State.driveUp (s : State) (r : Nat) (d : DriveId) : State :=
  let s := { s with log := { s.log with ids := Tab.put s.log.ids r d } }
  ((s.set F.logDriveStatus_state r 2).setBit F.logDriveStatus_zoned r d.zoned).set F.logDriveStatus_free r
    (d.slots - (s.slotsUsed r).length)

/-- LOG_SCAN_DONE (R414): the directory is built and the log runs. -/
def execLogScanDone (found : List SegScan) (s : State) : Outc :=
  .next (
    if s.get F.logStatus_state 0 = 1 then
      let s := { s with log := { s.log with dir := found, dev := chunkSize, devNs := s.ns } }
      let s := (List.range 4).foldl (fun s r =>
        match Tab.get? s.log.ids r with
        | some d => if s.get F.logDriveStatus_state r = 2 then s.set F.logDriveStatus_free r (d.slots - (s.slotsUsed r).length) else s
        | none => s) s
      s.set F.logStatus_state 0 2
    else s)

/-- Every open segment closes on the way into HALT, and what is staged may go out for HALT_FLUSH_MS (R404, R415). -/
def State.logHalt (s : State) : State :=
  if s.get F.logStatus_state 0 = 0 then s
  else
    let s := { s with log := { s.log with queue := [], flushNs := some (s.ns + s.get F.logCfg_haltFlushMs 0 * 1000000) } }
    if s.hbmFailed then s
    else s.log.segs.foldl (fun s e => if e.2.isOpen && e.2.records != 0 then s.closeSeg e.1 e.2 sgHALT else s) s

/-- The log stops where the HBM has failed (R415). -/
def State.logStop (s : State) : State := if s.get F.logStatus_state 0 = 0 then s else s.set F.logStatus_state 0 3

/-! ### Read-back (R391) -/

/-- One 4-KiB block of a written segment as it stands on its drive: a chunk, or the seal; a block that holds neither, or a segment
found by the scan, gives free values. -/
def State.segBlock (s : State) (g : Seg) (b : Nat) : Option (List Byte) :=
  if g.alien then none
  else
    let endB := (List.range g.lba.length).foldl (fun n k => Nat.max n (g.lba.getD k 0 + chunkBlocks g k)) 0
    let sealAt := if s.bit F.logDriveStatus_zoned g.drive then endB else s.get F.logDriveCfg_slotMib g.drive * 256 - 4
    if sealAt ≤ b ∧ b < sealAt + 4 then some (((s.sealBytes g).drop ((b - sealAt) * 4096)).take 4096)
    else
      match (List.range g.lba.length).find? (fun k => decide (g.lba.getD k 0 ≤ b) && decide (b < g.lba.getD k 0 + chunkBlocks g k)) with
      | some k => some (((s.chunkBytes g k).drop ((b - g.lba.getD k 0) * 4096)).take 4096)
      | none => none

/-- `n` free bytes. -/
def State.freeBytes (s : State) (n : Nat) : State × List Byte :=
  ({ s with freeCtr := s.freeCtr + n }, (List.range n).map (fun i => (Config.free (s.freeCtr + i)).setWidth 8))

/-- `n` blocks of a segment from block `b`. -/
def State.segRead (s : State) (g : Seg) (b : Nat) : Nat → State × List Byte
  | 0 => (s, [])
  | n + 1 =>
    let r := match s.segBlock g b with
      | some l => (s, l)
      | none => s.freeBytes 4096
    let t := r.1.segRead g (b + 1) n
    (t.1, r.2 ++ t.2)

end Sys2Proof.Machine
end

