-- ==== Sys2Proof/Machine/Host.lean ====
section
/-!
DEFINITION. Machine/Host.lean: the host interface (R379-R394): closing channels (R329), deliveries to RXP rings (R386), frames from
TXP rings (R387-R389), held EVT records (R390), read-back (R391), messages (R392, R393), failed reads (R384), resets of functions
(R382) and BAR4 (R380).
-/
namespace Sys2Proof.Machine

/-! ### Closing a channel (R329) -/

def State.chanState (s : State) (c : Nat) : Nat := s.get F.cmdChState_state c
/-- Whether channel `c` is OPEN with a type of Table 11.1. -/
def State.chanIs (s : State) (c ty : Nat) : Bool := s.chanState c == 1 && s.get F.cmdChState_type c == ty
/-- Whether a CTL of this issuer is in hand: executing or parked. -/
def State.inHand (s : State) (k : Nat) : Bool := Tab.has s.cmd.current k || Tab.has s.cmd.parked k
/-- The head of a ring: the next entry that the device will fetch. -/
def State.setHead (s : State) (c n : Nat) : State :=
  (s.setChan c { s.chan c with devHead := n }).set F.cmdChState_head c n

/-- The channel is FREE: nothing of it is left but its generation (R327). -/
def State.chanFree (s : State) (c : Nat) : State :=
  let s := (s.set F.cmdChState_state c 0).setBit F.cmdChState_parked c false
  { s with cmd := { s.cmd with chans := Tab.del s.cmd.chans c,
                               ready := s.cmd.ready.filter (fun i => match i with | .chan d => d.val != c | .tug _ => true) } }

/-- A CMD channel that is CLOSING becomes FREE once its last CTL has completed (R329). -/
def State.closeStep (s : State) (c : Nat) : State :=
  if s.chanState c = 2 ∧ s.inHand c = false then s.chanFree c else s

/-- Close an OPEN channel; `mute` says that completions still due are discarded (R382). -/
def State.closeChan (s : State) (c : Nat) (mute : Bool) : State :=
  if s.chanState c ≠ 1 then s
  else
    let ch := s.chan c
    if s.get F.cmdChState_type c = 1 then
      ((s.set F.cmdChState_state c 2).setChan c { ch with mute := mute, batches := [] }).closeStep c
    else
      let s := s.addTo F.cmdCntCloseDrop 0 (ch.rx.length + ch.hold.length)
      (ch.rx.foldl (fun s w => s.deliveryEnd w) s).chanFree c

/-! ### RXP (R385, R386) -/

/-- The write-back of one entry: bytes 0x08, 0x0C, 0x18, then the flags word with DONE (Table 13.4). -/
def State.rxWriteBack (s : State) (c ix n : Nat) (w : RxWait) (first last : Bool) (count : Nat) : State :=
  let a := (s.chan c).ring + ix * 32
  let flags := 1 + 2 * first.toNat + 4 * last.toNat + 8 * w.trunc.toNat + 16 * ((s.chan c).prefixN != 0).toNat
    + 32 * mbits w.man mKind 5 1 + 64 * (mflag w.man pfL3_BAD).toNat + 128 * (mflag w.man pfL4_BAD).toNat
    + 256 * (if first then count % 256 else 0)
  let s := s.chPut c (a + 8) (leBytes 4 n ++ leBytes 4 w.bytes.length)
  let s := s.chPut c (a + 0x18) (leBytes 1 (w.cause % 64) ++ leBytes 1 (mget w.man mPort) ++ leBytes 2 (mget w.man mSeq))
  (s.chPut c (a + 0x1C) (leBytes 4 flags)).entryWritten c

/-- Fill the buffers of a run in turn. -/
def State.rxFill (s : State) (c : Nat) : List (Nat × Nat) → List Byte → State
  | [], _ => s
  | (ix, len) :: r, l =>
    State.rxFill (s.chPut c (leNat (s.chRead c ((s.chan c).ring + ix * 32) 8)) (l.take len)) c r (l.drop len)

/-- Write the entries of a run in ring order, the EOP entry last of all; `n` is what is left of the data. -/
def State.rxDone (s : State) (c : Nat) (w : RxWait) (count : Nat) (first : Bool) : List (Nat × Nat) → Nat → State
  | [], _ => s
  | (ix, len) :: r, n =>
    State.rxDone (s.rxWriteBack c ix (Nat.min len n) w first r.isEmpty count) c w count false r (n - len)

/-- RXP_DELIVERY (R386): the oldest waiting frame is written once the entries posted suffice. -/
def execRxpDelivery (c : Chan) (s : State) : Outc :=
  .next (match (s.chan c.val).rx with
  | [] => s
  | w :: rest =>
    if s.chanIs c.val 2 && s.chanRuns c.val && s.modeNo != mHARBOUR then
      match s.rxEntries c.val (s.chan c.val).devHead w with
      | none => s
      | some run =>
        let data := s.rxPrefix c.val w ++ w.bytes
        let s := (s.rxFill c.val run data).rxDone c.val w run.length true run data.length
        let ch := s.chan c.val
        let s := (s.setChan c.val { ch with rx := rest }).setHead c.val ((ch.devHead + run.length) % 2 ^ ch.log2ring)
        s.deliveryEnd w
    else s)

/-- RXP_STALL_EXPIRY (R386): the oldest waiting frame has waited STALL_US. -/
def execRxpStallExpiry (c : Chan) (s : State) : Outc :=
  .next (match (s.chan c.val).rx with
  | [] => s
  | w :: rest =>
    let ch := s.chan c.val
    if ch.flag = false ∧ w.atNs + ch.stallUs * 1000 ≤ s.ns then (s.setChan c.val { ch with rx := rest }).rxDrop c.val w else s)

/-! ### TXP (R387-R389) -/

/-- A TXP entry as posted (Table 13.5). -/
structure TxEnt where
  ix : Nat
  addr : Nat
  len : Nat
  sop : Bool
  eop : Bool
  raw : List Byte

def State.txEnt (s : State) (c ix : Nat) : TxEnt :=
  let r := s.chRead c ((s.chan c).ring + ix * 32) 32
  let f := leNat (r.drop 0x1C)
  { ix := ix, addr := leNat (r.take 8), len := leNat ((r.drop 8).take 2), sop := f.testBit 1, eop := f.testBit 2, raw := r }

/-- The entries of the frame that begins at `ix`: none where its EOP entry does not lie before TAIL (R387). -/
def State.txRun (s : State) (c : Nat) : Nat → Nat → Option (List TxEnt)
  | 0, _ => none
  | fuel + 1, ix =>
    if ix = s.get F.cmdChState_tail c then none
    else
      let e := s.txEnt c ix
      if e.eop then some [e] else (s.txRun c fuel ((ix + 1) % 2 ^ (s.chan c).log2ring)).map (fun r => e :: r)

def State.txFrame (s : State) (c : Nat) : Option (List TxEnt) := s.txRun c (2 ^ (s.chan c).log2ring) (s.chan c).devHead

/-- A field of the SOP entry. -/
def txField (r : List Byte) (o n : Nat) : Nat := leNat ((r.drop o).take n)

/-- Replace two bytes of a frame. -/
def put2 (l : List Byte) (o v : Nat) : List Byte := l.take o ++ beBytes 2 v ++ l.drop (o + 2)

/-- The IPv4 header checksum at offset `o` (R388); none where its header does not lie wholly inside the frame. -/
def txIpv4 (l : List Byte) (o : Nat) : Option (List Byte) :=
  let n := (l.getD o 0).toNat % 16 * 4
  if l.length < o + Nat.max n 20 then none
  else let z := put2 l (o + 10) 0
       some (put2 z (o + 10) (65535 - onesSum ((z.drop o).take n) 0))

/-- The TCP or UDP checksum (R388): `o3` and `o4` are the offsets of the two headers. -/
def txL4 (l : List Byte) (o3 o4 : Nat) (udp : Bool) : Option (List Byte) :=
  let b := (l.getD o3 0).toNat
  let n := l.length - o4
  let proto := if udp then 17 else 6
  let at4 := if udp then o4 + 6 else o4 + 16
  let fits := decide (o4 + (if udp then 8 else 20) ≤ l.length)
  let pseudo : Option (List Byte) :=
    if b / 16 = 4 then
      (if o3 + Nat.max (b % 16 * 4) 20 ≤ l.length then some ((l.drop (o3 + 12)).take 8 ++ beBytes 2 proto ++ beBytes 2 n) else none)
    else if b / 16 = 6 then
      (if o3 + 40 ≤ l.length then some ((l.drop (o3 + 8)).take 32 ++ beBytes 4 n ++ beBytes 4 proto) else none)
    else none
  match pseudo with
  | none => none
  | some p =>
    if fits then
      let z := put2 l at4 0
      let v := 65535 - onesSum (p ++ z.drop o4) 0
      some (put2 z at4 (if udp = true ∧ b / 16 = 4 ∧ v = 0 then 0xFFFF else v))
    else none

/-- The bytes of a frame that its buffers hold. -/
def State.txBytes (s : State) (c : Nat) (run : List TxEnt) : List Byte := run.flatMap (fun e => s.chRead c e.addr e.len)

/-- The frame without its FCS, with the checksums asked for; none where R389 answers BAD_PARAM. -/
def State.txCheck (s : State) (c : Nat) (run : List TxEnt) : Option (List Byte) :=
  match run with
  | [] => none
  | e :: rest =>
    let n := txField e.raw 0x0A 2
    let port := txField e.raw 0x12 1
    let fl := txField e.raw 0x0F 1
    if e.sop = false ∨ rest.any (fun x => x.sop) = true ∨ run.foldl (fun k x => k + x.len) 0 ≠ n ∨ n < 60 ∨ 10236 < n
        ∨ (130 ≤ port ∧ port ≠ 255) then none
    else
      let l := s.txBytes c run
      let o3 := txField e.raw 0x10 1
      let o4 := txField e.raw 0x11 1
      let l1 := if fl.testBit 0 then txIpv4 l o3 else some l
      match l1 with
      | none => none
      | some l => if fl.testBit 1 then txL4 l o3 o4 (fl.testBit 2) else some l

/-- The manifest of a host frame, and which of its bytes count as written (R387, R82). -/
def txMan (e : List Byte) : Man × BitVec 128 :=
  let m := mset (msetBits (mset 0 mPort 255) mKind 4 1 1) mSeq (txField e 0x0C 2)
  let m := mset m mTreq (txField e 0x0E 1)
  let port := txField e 0x12 1
  let q := txField e 0x14 4
  let w := byteMask 0x02 2 ||| byteMask 0x08 2 ||| byteMask 0x4F 1
  let r := if port = 255 then (m, w) else (mset m mEport port, w ||| byteMask 0x4E 1)
  if q.testBit 31 then (mset r.1 mQueue (q % 2 ^ 17), r.2 ||| byteMask 0x44 4) else r

/-- Write the entries of a TXP frame back, the status in the EOP entry (R389). -/
def State.txBack (s : State) (c status : Nat) (run : List TxEnt) : State :=
  let s := run.foldl (fun s e =>
    let old := txField e.raw 0x1C 4
    let new := old / 2 ^ 16 * 2 ^ 16 + (if e.eop then status * 256 else old / 256 % 256 * 256) + old % 256 / 2 * 2 + 1
    (s.chPut c ((s.chan c).ring + e.ix * 32 + 0x1C) (leBytes 4 new)).entryWritten c) s
  let ch := s.chan c
  s.setHead c ((ch.devHead + run.length) % 2 ^ ch.log2ring)

/-- Whether TXP rings are fetched in this mode (Table 15.3). -/
def State.txModes (s : State) : Bool := s.modeNo == mMOORED || s.forwarding || s.modeNo == mDRYDOCK

/-- The ingress quay of a TXP channel. -/
def State.txQuay (s : State) (c : Nat) : Quay := ⟨(s.chan c).iq % 16, Nat.mod_lt _ (by decide)⟩

/-- The reads of a frame's data are events of the device counters. -/
def State.txGot (s : State) (c : Nat) (run : List TxEnt) : State := run.foldl (fun s e => s.chGot c e.addr e.len) s

/-- TXP_FETCH (R387): a whole frame is staged, checked and written back. -/
def execTxpFetch (c : Chan) (s : State) : Outc :=
  .next (
    if (s.chanIs c.val 3 && s.chanRuns c.val && s.txModes && !(s.paused (s.txQuay c.val).val)) = false then s
    else match s.txFrame c.val with
    | none => s
    | some run =>
      match s.txCheck c.val run with
      | none => ((s.txGot c.val run).txBack c.val stBAD_PARAM run).bump F.hostChCntBadDesc c.val
      | some l =>
        let q := s.txQuay c.val
        if stagingSize < s.staged q.val + l.length + 4 then s
        else
          let e := (run.head?.map (fun e => e.raw)).getD []
          let m := txMan e
          let f : Frame := { port := 255, src := .host, quay := q, bytes := l ++ fcsOf l, lenKnown := true, man := m.1, manW := m.2,
                             seqId := txField e 0x0C 2, stamps := [], gen := false, stage := .queued }
          ((s.txGot c.val run).enterFrame f true).txBack c.val stOK run)

/-! ### EVT (R390) -/

/-- EVT_HOLD_RELEASE (R390): the oldest held record is written. -/
def execEvtHoldRelease (c : Chan) (s : State) : Outc :=
  .next (match (s.chan c.val).hold with
  | [] => s
  | r :: rest => if s.chanIs c.val 4 && s.evtRoom c.val then (s.setChan c.val { s.chan c.val with hold := rest }).evtWrite c.val r.kind r.bytes else s)

/-- EVT_HOLD_EXPIRY (R390): the oldest held record has waited STALL_US. -/
def execEvtHoldExpiry (c : Chan) (s : State) : Outc :=
  .next (match (s.chan c.val).hold with
  | [] => s
  | r :: rest =>
    let ch := s.chan c.val
    if r.atNs + ch.stallUs * 1000 ≤ s.ns then (s.setChan c.val { ch with hold := rest }).evtDrop c.val else s)

/-! ### REC (R391) -/

/-- The entry at the head of a REC ring: buffer address, length, partition handle, segment, offset. -/
def State.recEnt (s : State) (c : Nat) : Nat × Nat × Nat × Nat × Nat :=
  let r := s.chRead c ((s.chan c).ring + (s.chan c).devHead * 32) 32
  (txField r 0 8, txField r 8 4, txField r 0x0C 4, txField r 0x10 8, txField r 0x18 4)

/-- Write a REC entry back. -/
def State.recDone (s : State) (c bytes status : Nat) : State :=
  let ch := s.chan c
  let a := ch.ring + ch.devHead * 32
  let s := (s.chPut c (a + 8) (leBytes 4 bytes)).chPut c (a + 0x1C) (leBytes 4 (1 + 256 * status))
  ((s.setChan c { s.chan c with reading := none }).setHead c ((ch.devHead + 1) % 2 ^ ch.log2ring)).entryWritten c

/-- Whether a handle names a partition of the log. -/
def State.partLive (s : State) (h : Nat) : Bool :=
  hType h == 5 && decide (hIx h < 16) && s.get F.logPartStatus_state (hIx h) != 0 && (s.part (hIx h)).gen % 256 == hGen h

/-- Whether a REC entry is there to be served. -/
def State.recReady (s : State) (c : Nat) : Bool :=
  s.chanIs c 5 && s.chanRuns c && (s.chan c).devHead != s.get F.cmdChState_tail c

/-- REC_ENTRY_SERVE (R391): the entry at the head is refused, or its drive read starts. -/
def execRecEntryServe (c : Chan) (s : State) : Outc :=
  .next (
    if s.recReady c.val && (s.chan c.val).reading.isNone then
      let e := s.recEnt c.val
      let h := e.2.2.1
      if s.partLive h then
        match s.segOf (hIx h) e.2.2.2.1 with
        | some (i, g) =>
          if g.written && s.get F.logDriveStatus_state g.drive == 2 then s.setChan c.val { s.chan c.val with reading := some i }
          else s.recDone c.val 0 stNOT_FOUND
        | none => s.recDone c.val 0 stNOT_FOUND
      else s.recDone c.val 0 stBAD_HANDLE
    else s)

/-- REC_READ_COMPLETE (R391): the drive has answered; `ok` says that the read is sound. -/
def execRecReadComplete (c : Chan) (ok : Bool) (s : State) : Outc :=
  .next (
    if s.recReady c.val then
      match (s.chan c.val).reading with
      | none => s
      | some i =>
        match Tab.get? s.log.segs i with
        | none => s.recDone c.val 0 stNOT_FOUND
        | some g =>
          if ok then
            let e := s.recEnt c.val
            let n := Nat.min (e.2.1 / 4096) 256
            let r := s.segRead g e.2.2.2.2 n
            (r.1.chPut c.val e.1 r.2).recDone c.val (n * 4096) stOK
          else s.recDone c.val 0 stPARITY
    else s)

/-! ### Messages (R392, R393) -/

/-- Send the vector of channel `c` and start counting again (R393). -/
def State.chanVector (s : State) (c : Nat) : State :=
  let ch := s.chan c
  (s.setChan c { ch with unsignalled := 0 }).sendVector ch.vector

/-- MSIX_SEND (R393): IRQ_COUNT entries have been written since the last message, or IRQ_US µs have passed since the first of them. -/
def execMsixSend (c : Chan) (s : State) : Outc :=
  .next (
    let ch := s.chan c.val
    let due := decide (ch.irqCount ≤ ch.unsignalled) || decide (ch.firstNs + ch.irqUs * 1000 ≤ s.ns)
    if ch.irqCount ≠ 0 ∧ ch.unsignalled ≠ 0 ∧ due = true ∧ s.host.bmOff.contains (s.chanFn c.val) = false then s.chanVector c.val else s)

/-- MSIX_UNMASK (R392): a pending message is sent. -/
def execMsixUnmask (v : Vec) (s : State) : Outc :=
  .next (
    let was := s.host.pendingVec.contains v.val
    let un := if s.host.unmasked.contains v.val then s.host.unmasked else s.host.unmasked ++ [v.val]
    let s := { s with host := { s.host with unmasked := un, pendingVec := s.host.pendingVec.filter (· != v.val) } }
    if was then s.emit (.vector v.val) else s)

/-! ### Failed reads (R384) -/

/-- Report a failed read: HOST_CH_ERR, the vector at once, and the HOST bit of the error tree. -/
def State.dmaReport (s : State) (c cause addr : Nat) : State :=
  let s := ((s.setBit F.hostChErr_valid c true).set F.hostChErr_cause c cause).set F.hostChErr_addr c addr
  (s.chanVector c).hostErr 12

/-- Whether an address lies in the data of the frame that a TXP channel fetches next. -/
def State.inTxData (s : State) (c addr : Nat) : Option (List TxEnt) :=
  match s.txFrame c with
  | some run => if run.any (fun e => decide (e.addr ≤ addr) && decide (addr < e.addr + e.len)) then some run else none
  | none => none

/-- DMA_READ_ERROR (R384): a poisoned read of frame data discards that frame; any other failed read stops the channel. -/
def execDmaReadError (c : Chan) (cause : BitVec 2) (addr : Word) (s : State) : Outc :=
  .next (
    if s.chanState c.val = 1 ∧ s.chanRuns c.val = true then
      match if cause = 2 ∧ s.chanIs c.val 3 = true then s.inTxData c.val addr.toNat else none with
      | some run => (s.useFree.dmaReport c.val cause.toNat addr.toNat).txBack c.val (s.freeVal.toNat % 256) run
      | none =>
        let s := s.setChan c.val { s.chan c.val with stopped := true }
        let s := s.dmaReport c.val cause.toNat addr.toNat
        let ch := s.chan c.val
        if ch.flag then ch.rx.foldl (fun s w => s.rxDrop c.val w) (s.setChan c.val { ch with rx := [] }) else s
    else s)

/-! ### Functions (R382) -/

/-- The channels of which a test on the function holds. -/
def State.fnChans (s : State) (f : Nat → Bool) : List Nat :=
  (s.regIxs .cmdChState).filter (fun c => s.chanState c == 1 && f (s.chanFn c))

/-- Close every VF channel (R382). -/
def State.closeVfs (s : State) : State := (s.fnChans (fun n => n != 0)).foldl (fun s c => s.closeChan c true) s

/-- Channel 0 after a reset of the PF (R382): its CTL in hand runs on and its completion is discarded. -/
def State.resetCh0 (s : State) : State :=
  let ch := s.chan 0
  (((s.setChan 0 { ch with cqTail := 0, cqHead := 0, phase := true, batches := [], bell := none, unsignalled := 0,
                           mute := s.inHand 0 }).setHead 0 0).set F.cmdChState_tail 0 0)

/-- FUNCTION_LEVEL_RESET (R382). -/
def execFunctionLevelReset (fn : Fn) (s : State) : Outc :=
  .next (
    if fn.val = 0 then
      let s := s.closeVfs
      let s := ((s.fnChans (fun n => n == 0)).filter (· != 0)).foldl (fun s c => s.closeChan c true) s
      s.resetCh0
    else (s.fnChans (fun n => n == fn.val)).foldl (fun s c => s.closeChan c true) s)

/-- VF_ENABLE_CLEAR (R382). -/
def execVfEnableClear (s : State) : Outc :=
  .next { s.closeVfs with host := { s.closeVfs.host with vfEnable := false } }

/-- BUS_MASTER_DISABLE (R382). -/
def execBusMasterDisable (fn : Fn) (s : State) : Outc :=
  .next (if s.host.bmOff.contains fn.val then s else { s with host := { s.host with bmOff := s.host.bmOff ++ [fn.val] } })

/-! ### BAR4 (R380, R425) -/

/-- BAR4_ACCESS (R380): 8 bytes at an offset of the HOST region; a read of a word that cannot be corrected is poisoned (Table 16.1),
a free value; with a stack lost the region is unusable (R425): a read returns a
free value and a write is discarded. -/
def execBar4Access (write : Bool) (off : BitVec 32) (data : Word) (s : State) : Outc :=
  .next (
    if s.modeNo = mRESET ∨ s.modeNo = mBOOT then s
    else
      let r := s.hbmRegion 0
      let a := r.1 + off.toNat
      if r.2 < off.toNat + 8 then (if write then s else s.emit (.rdata 0)).bump F.hostCntBar4Outside 0
      else if s.hbmFailed then (if write then s else (s.emit (.rdata (s.freeVal.setWidth 320))).useFree)
      else
        let s := s.pmc { code := if write then 0x0002 else 0x0001, master := 0x50, n := 8, addr := some a }
        let bad := s.hbmBad.contains (a / 8) || s.hbmBad.contains ((a + 7) / 8)
        if write then
          { s with hbm := s.hbm.setBytes a (leBytes 8 data.toNat),
                   hbmBad := if a % 8 = 0 then s.hbmBad.filter (· != a / 8) else s.hbmBad }
        else if bad then (s.useFree.mcheck 0 a 0x50).emit (.rdata (s.freeVal.setWidth 320))
        else s.emit (.rdata (BitVec.ofNat 320 (s.hbm.le a 8))))

end Sys2Proof.Machine
end

