-- ==== Sys2Proof/Machine/Bell.lean ====
section
/-!
DEFINITION. Machine/Bell.lean: command rings as the engines read them (R57, R330), the device-wide ready list (R335), and doorbells
(R330, R332, R338, R383, R396).
-/
namespace Sys2Proof.Machine

/-! ### Slots (R57, R330) -/

/-- Slot `ix` of a command ring. -/
def State.kSlot (s : State) (c ix : Nat) : Nat := leNat (s.chRead c ((s.chan c).ring + ix * 8) 8)
def State.kMask (s : State) (c n : Nat) : Nat := n % 2 ^ (s.chan c).log2ring
/-- Slots from the head up to the tail. -/
def State.kVisible (s : State) (c : Nat) : Nat :=
  s.kMask c (s.get F.cmdChState_tail c + 2 ^ (s.chan c).log2ring - s.get F.cmdChState_head c)

/-- The opcode of an instruction word. -/
def opOf (w : Nat) : Nat := w / 2 ^ 26 % 64
/-- Whether a slot holds a CTL word. -/
def isCtl (w : Nat) : Bool := decide (w < 2 ^ 32) && opOf w == 0x3E
/-- Inline operands of a CTL word. -/
def ctlInline (w : Nat) : Nat := let d := ctlDesc (w % 2 ^ 16); if d.inl then d.n else 0

/-- Whether a channel has an executable word: a CTL waits until its inline operands lie before the tail (R330). -/
def State.kExecutable (s : State) (c : Nat) : Bool :=
  let v := s.kVisible c
  let w := s.kSlot c (s.get F.cmdChState_head c)
  v != 0 && (!(isCtl w) || decide (1 + ctlInline w ≤ v))

/-! ### The ready list (R335) -/

/-- Whether an issuer has work for an engine: a CTL in hand that is not parked, or an executable word. -/
def State.hasWork (s : State) (iss : Issuer) : Bool :=
  let k := issKey iss
  !(Tab.has s.cmd.parked k) && (Tab.has s.cmd.current k || (match iss with
    | .chan c => s.chanIs c.val 1 && s.chanRuns c.val && s.kExecutable c.val
    | .tug t => !(s.tport t.val).queue.isEmpty))

/-- An issuer that has work and is not on the list nor with an engine joins its tail. -/
def State.joinReady (s : State) (iss : Issuer) : State :=
  if s.hasWork iss && !(s.cmd.ready.contains iss) && !(s.cmd.engines.any (fun e => e.2 == iss)) then
    { s with cmd := { s.cmd with ready := s.cmd.ready ++ [iss] } }
  else s

/-! ### Doorbells (R330, R332, R338, R383, R396) -/

/-- What the CMD_CH0 registers give channel 0 (R349, R393). -/
def State.ch0Sync (s : State) : State :=
  s.setChan 0 { s.chan 0 with ring := s.get F.cmdCh0RingBase_base 0, cq := s.get F.cmdCh0CqBase_base 0,
                              log2ring := s.get F.cmdCh0Cfg_log2Ring 0, log2cq := s.get F.cmdCh0Cfg_log2Cq 0,
                              vector := s.get F.cmdCh0Cfg_vector 0, irqCount := 1, irqUs := 0 }

/-- Whether channel 0 can be fetched: neither base is 0 (R396). -/
def State.ch0Up (s : State) : Bool := s.get F.cmdCh0RingBase_base 0 != 0 && s.get F.cmdCh0CqBase_base 0 != 0

/-- A tail that has been accepted: its batch becomes visible, and a CMD channel joins the ready list. -/
def State.takeTail (s : State) (c index : Nat) : State :=
  let new := index != s.get F.cmdChState_tail c
  let s := s.set F.cmdChState_tail c index
  if s.get F.cmdChState_type c = 1 then
    let s := if new then s.setChan c { s.chan c with batches := (s.chan c).batches ++ [index] } else s
    s.joinReady (.chan ⟨c % 1024, Nat.mod_lt _ (by decide)⟩)
  else s

/-- Whether a doorbell page write names the current OPEN channel of its function (R330, R381). -/
def State.bellLive (s : State) (fn c gen : Nat) : Bool :=
  s.chanFn c == fn && s.chanState c == 1 && s.get F.cmdChState_gen c == gen

/-- A TAIL write acts (R330). -/
def State.bellTail (s : State) (fn c index gen : Nat) : State :=
  if s.bellLive fn c gen = false then s.bump F.cmdCntStaleDb 0
  else if s.get F.cmdChState_type c = 4 then s
  else if 2 ^ (s.chan c).log2ring ≤ index then s.bump F.cmdCntBadDb 0
  else if c = 0 ∧ s.ch0Up = false then s.setChan 0 { s.chan 0 with bell := some index }
  else s.takeTail c index

/-- A HEAD write acts: it frees completion entries of a CMD channel or entries of an EVT ring (R332, R383). -/
def State.bellHead (s : State) (fn c index gen : Nat) : State :=
  if s.bellLive fn c gen = false then s.bump F.cmdCntStaleDb 0
  else
    let ch := s.chan c
    let ty := s.get F.cmdChState_type c
    let log2 := if ty = 1 then ch.log2cq else ch.log2ring
    if ty ≠ 1 ∧ ty ≠ 4 then s
    else if 2 ^ log2 ≤ index then s.bump F.cmdCntBadDb 0
    else s.setChan c { ch with cqHead := index }

/-- A doorbell written in BOOT, as it is held. -/
def bellCode (head : Bool) (fn index gen : Nat) : Nat := head.toNat * 2 ^ 40 + fn * 2 ^ 32 + gen * 2 ^ 16 + index

/-- A doorbell write in the present mode: held in BOOT, discarded in HALT, without effect in RESET (R338). -/
def State.bell (s : State) (head : Bool) (fn c index gen : Nat) : State :=
  if s.modeNo = mBOOT then { s with mode := { s.mode with bells := s.mode.bells ++ [(c, bellCode head fn index gen)] } }
  else if s.modeNo = mHALT ∨ s.modeNo = mRESET then s
  else if head then s.bellHead fn c index gen else s.bellTail fn c index gen

/-- The doorbells held in BOOT take effect (R338, R423). -/
def State.bellsGo (s : State) : State :=
  let l := s.mode.bells
  l.foldl (fun s e => s.bell (e.2.testBit 40) (e.2 / 2 ^ 32 % 256) e.1 (e.2 % 2 ^ 16) (e.2 / 2 ^ 16 % 256))
    { s with mode := { s.mode with bells := [] } }

/-- The CMD_CH0 registers have been written: a doorbell held for channel 0 takes effect once neither base is 0 (R396). -/
def State.ch0Written (s : State) : State :=
  let s := s.ch0Sync
  match (s.chan 0).bell with
  | some i => if s.ch0Up && decide (i < 2 ^ (s.chan 0).log2ring) then (s.setChan 0 { s.chan 0 with bell := none }).takeTail 0 i else s
  | none => s

/-- What a driver writes to its memory before the doorbell. -/
def State.driverWrites (s : State) (fn c : Nat) (l : List (Nat × Word)) : State :=
  l.foldl (fun s e => if (s.chan c).loc then s.dWrite 0 e.1 (leBytes 8 e.2.toNat) else s.hostWrite fn e.1 (leBytes 8 e.2.toNat)) s

/-- DOORBELL_TAIL (R330): `mem` is what the driver has written to its memory since its last doorbell. -/
def execDoorbellTail (fn : Fn) (c : Chan) (index : BitVec 16) (gen : BitVec 8) (mem : List (Nat × Word)) (s : State) : Outc :=
  .next ((s.driverWrites fn.val c.val mem).bell false fn.val c.val index.toNat gen.toNat)

/-- DOORBELL_HEAD (R332, R383). -/
def execDoorbellHead (fn : Fn) (c : Chan) (index : BitVec 16) (gen : BitVec 8) (s : State) : Outc :=
  .next (s.bell true fn.val c.val index.toNat gen.toNat)

end Sys2Proof.Machine
end

