-- ==== Sys2Proof/Machine/Hbor.lean ====
section
/-!
DEFINITION. Machine/Hbor.lean: the harbour plane (R431-R438): banks and their check, matching, redundancy, copies, launch and
correction, and the drain at exit (R444).
-/
namespace Sys2Proof.Machine

/-! ### Banks (R432, R433) -/

def State.hbBank (s : State) : Nat := s.get F.hborCfg_bank 0
/-- The port's line of bank `b`. -/
def hbPort (b p : Nat) : Nat := b * 130 + p
/-- Whether the active bank has passed its check. -/
def State.hbPassed (s : State) : Bool := s.hbor.passed.contains s.hbBank
/-- Whether the plane forwards in SAFE HARBOUR (R433). -/
def State.hbArmed (s : State) : Bool := s.bit F.hborCfg_armed 0 && s.hbPassed
/-- SAFE_OK (R422). -/
def State.safeOk (s : State) : Bool :=
  s.hbArmed && !s.hbor.sramBad && (s.modeNo == mMOORED || s.forwarding || s.modeNo == mHARBOUR)

/-- The gate list of port `p` in bank `b`. -/
def State.hbList (s : State) (b p : Nat) : GateList :=
  let i := hbPort b p
  { baseS := s.get F.hborGclHdr_baseS i, baseNs := s.get F.hborGclHdr_baseNs i, cycNs := s.get F.hborGclHdr_cycleNs i,
    cycFrac := s.get F.hborGclHdr_cycleFrac i, extNs := 0,
    entries := (List.range (s.get F.hborGclHdr_count i)).map (fun k => BitVec.ofNat 64 (s.get F.hborGcl_entry (i * 64 + k))) }

/-- Whether a list meets the limits of Tables 8.3 and 8.4 as R437 narrows them. -/
def hbListOk (l : GateList) : Bool :=
  decide (1 ≤ l.entries.length) && decide (l.entries.length ≤ 64) && decide (1000 ≤ l.cycNs) && decide (l.baseNs < 1000000000)
    && l.entries.all (fun e => gcOp e == 0 && decide (10 ≤ gcIntv e) && e.toNat / 2 ^ 42 == 0)

/-- Whether a harbour table entry meets the limits of Table 15.6. -/
def State.hbEntryOk (s : State) (i : Nat) : Bool :=
  let port := s.get F.hborEntry_inport i
  let cf := s.get F.hborEntry_cfBase i
  let mx := s.get F.hborEntry_maxf i
  (decide (port < 130) || port == 255) && (decide (cf < 8) || cf == 15) && decide (64 ≤ mx) && decide (mx ≤ 2048)
    && decide (s.get F.hborEntry_seqsrc i < 3)

/-- The valid entries of a bank, lowest index first. -/
def State.hbEntries (s : State) (b : Nat) : List Nat :=
  (s.regIxs .hborEntry).filter (fun i => i / 4096 == b && s.bit F.hborEntry_valid i)

/-- The first fault that a check of bank `b` finds: an entry, or 4,096 plus a port (R433). -/
def State.hbFault (s : State) (b : Nat) : Option Nat :=
  match (s.hbEntries b).find? (fun i => !(s.hbEntryOk i)) with
  | some i => some (i % 4096)
  | none =>
    ((List.range 130).find? (fun p =>
      let i := hbPort b p
      (s.get F.hborGclHdr_count i != 0 || (s.bit F.hborPortCfg_en i && s.bit F.hborPortCfg_gateEn i)) && !(hbListOk (s.hbList b p)))).map
      (fun p => 4096 + p)

/-- A check of bank `b` starts. -/
def State.hbCheckStart (s : State) (b : Nat) : State :=
  { s.setBit F.hborStatus_checking 0 true with hbor := { s.hbor with check := some b } }

/-- The check of the named bank ends: the bank becomes active, or the switch is refused. -/
def State.hbCheckEnd (s : State) (b : Nat) : State :=
  let s := s.setBit F.hborStatus_checking 0 false
  match s.hbFault b with
  | none =>
    { (s.set F.hborCfg_bank 0 b).setBit F.hborStatus_bad 0 false with
        hbor := { s.hbor with check := none, passed := b :: s.hbor.passed.filter (· != b), sramBad := false, badEntries := [] } }
  | some n =>
    { (s.setBit F.hborStatus_bad 0 true).set F.hborStatus_badIndex 0 n with hbor := { s.hbor with check := none } }

/-- HBOR_BANK_CHECK_DONE (R433). -/
def execHborBankCheckDone (s : State) : Outc :=
  .next (match s.hbor.check with
  | some b => s.hbCheckEnd b
  | none => s)

/-! ### What a frame shows (R434, R436, R438) -/

def tagAt (l : List Byte) (i : Nat) : Bool := let e := beNat ((l.drop i).take 2); e == 0x8100 || e == 0x88A8
/-- Where the EtherType after at most two tags stands. -/
def afterTags (l : List Byte) : Nat := if tagAt l 12 then (if tagAt l 16 then 20 else 16) else 12
/-- The VID of the first tag, or the PVID. -/
def hbVid (l : List Byte) (pvid : Nat) : Nat := if tagAt l 12 then beNat ((l.drop 14).take 2) % 4096 else pvid

/-- The sequence number that SEQSRC names; none where the frame does not carry the field. -/
def hbSeq (src : Nat) (l : List Byte) : Option Nat :=
  let o := afterTags l
  let ty := beNat ((l.drop o).take 2)
  if src = 2 ∨ src = 0 then
    (if ty = (if src = 0 then 0xF1C1 else 0x892F) ∧ o + 6 ≤ l.length then some (beNat ((l.drop (o + 4)).take 2)) else none)
  else
    let k := prpBytes 1 l
    if (k.getD 6 0).getLsbD 0 then some (beNat (k.take 2)) else none

/-- Recovery of R173 on stream `st` with a history of 32: whether the frame passes. -/
def State.hbRecover (s : State) (st seq : Nat) : State × Bool :=
  let now := s.tlNs / 1000
  let tmo := s.get F.hborCfg_redTimeoutUs 0
  let timed := !(s.bit F.hborRed_takeany st) && tmo != 0 && decide (tmo ≤ now - Tab.getD s.hbor.redLast st 0)
  let hist : BitVec 32 := BitVec.ofNat 32 (s.get F.hborRed_history st)
  let d : Int := (BitVec.ofNat 16 (seq + 65536 - s.get F.hborRed_seq st)).toInt
  let pass := fun (s : State) (seq : Nat) (h : BitVec 32) =>
    let s := (((s.set F.hborRed_seq st seq).setBit F.hborRed_takeany st false).set F.hborRed_history st h.toNat).addTo F.hborRed_passed st 1
    ({ s with hbor := { s.hbor with redLast := Tab.put s.hbor.redLast st now } }, true)
  if s.bit F.hborRed_takeany st || timed then pass s seq 1
  else if 32 ≤ d ∨ d ≤ -32 then (s.addTo F.hborRed_discarded st 1, false)
  else if 0 < d then pass s seq ((hist <<< d.toNat) ||| 1)
  else if hist.getLsbD (-d).toNat then (s.addTo F.hborRed_discarded st 1, false)
  else pass s (s.get F.hborRed_seq st) (hist ||| (1 <<< (-d).toNat))

/-! ### Taking a frame (R434-R436) -/

/-- Free harbour buffers (R435). -/
def State.hbRoom (s : State) : Nat := 4096 - s.hbor.frames.length
def State.hbQueue (s : State) (k : Nat) : List Nat := Tab.getD s.hbor.queues k []
def State.setHbQueue (s : State) (k : Nat) (l : List Nat) : State :=
  { s with hbor := { s.hbor with queues := if l.isEmpty then Tab.del s.hbor.queues k else Tab.put s.hbor.queues k l } }

/-- The ports that entry `i` sends to. -/
def State.hbEgress (s : State) (i : Nat) : List Nat :=
  (List.range 130).filter (fun p =>
    if p < 128 then (s.get F.hborEntry_egress i).testBit p
    else if p = 128 then s.bit F.hborEntry_mgmt0 i else s.bit F.hborEntry_mgmt1 i)

/-- The entry that a frame matches: the lowest index wins; an entry whose SRAM word is bad is invalid (R442). -/
def State.hbMatch (s : State) (port : Nat) (l : List Byte) (vid : Nat) : Option Nat :=
  (s.hbEntries s.hbBank).find? (fun i =>
    s.get F.hborEntry_dmac i == beNat (l.take 6) && s.get F.hborEntry_vid i == vid
      && (s.get F.hborEntry_inport i == port || s.get F.hborEntry_inport i == 255) && !(s.hbor.badEntries.contains i))

/-- Queue the copies of a frame (R435); the answer counts those queued. -/
def State.hbCopies (s : State) (fid tc : Nat) : List Nat → State × Nat
  | [] => (s, 0)
  | p :: r =>
    let k := p * 8 + tc
    let q := s.hbQueue k
    if s.get F.hborPortCfg_qlimit (hbPort s.hbBank p) ≤ q.length then (s.bump F.hborCntQfull p).hbCopies fid tc r
    else let t := (s.setHbQueue k (q ++ [fid])).hbCopies fid tc r; (t.1, t.2 + 1)

/-- A frame that its entry admits is buffered and its copies queued. -/
def State.hbAdmit (s : State) (fid : Nat) (f : Frame) (i : Nat) : State :=
  let ports := (s.hbEgress i).filter (fun p => p != f.port && s.bit F.hborPortCfg_en (hbPort s.hbBank p) && s.linkUp p)
  if s.hbRoom = 0 ∨ ports = [] then s.bump F.hborCntNobuf f.port
  else
    let r := s.hbCopies fid (s.get F.hborEntry_tc i) ports
    if r.2 = 0 then r.1
    else
      let cf := s.get F.hborEntry_cfBase i
      let h : HFrame := { entry := i, bytes := f.bytes, port := f.port, seqId := f.seqId,
                          stamp := if cf = 15 then none else Tab.get? f.stamps cf, readyNs := s.ns + 16, copies := r.2 }
      { r.1 with hbor := { r.1.hbor with frames := Tab.put r.1.hbor.frames fid h } }

/-- The harbour plane takes a frame of an enabled port. -/
def State.hbAccept (s : State) (fid : Nat) (f : Frame) : State :=
  let pc := hbPort s.hbBank f.port
  let s := s.bump F.hborCntRx f.port
  match s.hbMatch f.port f.bytes (hbVid f.bytes (s.get F.hborPortCfg_pvid pc)) with
  | none => s.bump F.hborCntMiss f.port
  | some i =>
    if s.get F.hborEntry_maxf i < f.bytes.length then s.bump F.hborCntOversize f.port
    else if s.bit F.hborEntry_redEn i then
      match hbSeq (s.get F.hborEntry_seqsrc i) f.bytes with
      | none => s.hbAdmit fid f i
      | some n =>
        (match s.hbRecover (s.get F.hborEntry_stream i) n with
         | (s, true) => s.hbAdmit fid f i
         | (s, false) => s.bump F.hborCntDiscard f.port)
    else s.hbAdmit fid f i

/-- HBOR_FRAME_RX (R434): frame `fid` has arrived whole in SAFE HARBOUR. During the exit the plane takes no further frame (R444); with
ARMED = 0 it forwards nothing (R433). -/
def execHborFrameRx (fid : Nat) (s : State) : Outc :=
  .next (match s.frame? fid with
  | none => s
  | some f =>
    if s.modeNo = mHARBOUR ∧ f.lenKnown = true ∧ (s.quay f.quay.val).waiting.contains fid = false then
      let s := s.delFrame fid
      if s.hbor.draining.isNone && s.hbArmed && s.bit F.hborPortCfg_en (hbPort s.hbBank f.port) then s.hbAccept fid f else s
    else s)

/-! ### Launch (R437, R438) -/

/-- The gates of port `p`, where its gates act. -/
def State.hbGate (s : State) (p : Nat) : Option Gate :=
  let pc := hbPort s.hbBank p
  let b := s.get F.hborPortCfg_gateBase pc
  if s.bit F.hborPortCfg_gateEn pc && (decide (8 ≤ b) || s.bit F.timeTbCfg_en b) then some { oper := some (s.hbList s.hbBank p) } else none

/-- Whether a class of a port is paused (R279). -/
def State.hbPaused (s : State) (p c : Nat) : Bool :=
  s.bit F.tmPortStatus_paused p || (s.get F.tmPortStatus_pfcPaused p).testBit c

/-- The wire time of a frame with the allowance of R253, in 2^-16 ns. -/
def State.hbDur (s : State) (p n : Nat) : Nat := 65536 + s.wirePs p (Nat.max 64 n + 20) * 65536 / 1000

/-- Take the head of a harbour queue away; the buffer goes with its last copy (R435). -/
def State.hbPop (s : State) (k fid : Nat) : State :=
  let s := s.setHbQueue k ((s.hbQueue k).drop 1)
  match Tab.get? s.hbor.frames fid with
  | none => s
  | some h =>
    { s with hbor := { s.hbor with frames := if h.copies ≤ 1 then Tab.del s.hbor.frames fid
                                              else Tab.put s.hbor.frames fid { h with copies := h.copies - 1 } } }

/-- The correction of a PTP event message (R438): its bytes with the FCS made new, and whether the correction was skipped. -/
def State.hbCorrect (s : State) (h : HFrame) : State × List Byte :=
  let cf := s.get F.hborEntry_cfBase h.entry
  let l := h.bytes.take (h.bytes.length - 4)
  let o := afterTags l
  let p := o + 2
  if cf = 15 ∨ beNat ((l.drop o).take 2) ≠ 0x88F7 ∨ 4 ≤ (l.getD p 0).toNat % 16 then (s, h.bytes)
  else
    let t := s.stampOn cf false false 0 1
    match h.stamp with
    | none => (s.bump F.hborCntCfSkipped 0, h.bytes)
    | some r =>
      if ktsEpoch r ≠ ktsEpoch t ∨ l.length < p + 16 then (s.bump F.hborCntCfSkipped 0, h.bytes)
      else
        let v := ((beNat ((l.drop (p + 8)).take 8) : Int) + ((kts16 t : Int) - kts16 r)).emod (2 ^ 64)
        let l := l.take (p + 8) ++ beBytes 8 v.toNat ++ l.drop (p + 16)
        (s, l ++ fcsOf l)

/-- A harbour frame leaves on port `p`. -/
def State.hbSend (s : State) (p k fid : Nat) (h : HFrame) : State :=
  let r := s.hbCorrect h
  let n := r.2.length
  let s := ((r.1.emit (.frame p r.2 false)).bump F.hborCntTx p).hbPop k fid
  let s := (s.addTo F.portCntTxOctets (portIx p) n).bump F.portCntTxFrames (portIx p)
  { s with hbor := { s.hbor with launchNs := Tab.put s.hbor.launchNs p (s.ns + (s.wirePs p (n + 20) + 999) / 1000) } }

/-- The classes of port `p`, highest first: what its scheduler does next. -/
def State.hbServe (s : State) (p : Nat) : List Nat → State
  | [] => s
  | c :: r =>
    let k := p * 8 + c
    match s.hbQueue k with
    | [] => s.hbServe p r
    | fid :: _ =>
      match Tab.get? s.hbor.frames fid with
      | none => s.setHbQueue k ((s.hbQueue k).drop 1)
      | some h =>
        if s.ns < h.readyNs + 400 ∨ s.hbPaused p c = true then s.hbServe p r
        else
          match s.hbGate p with
          | none => s.hbSend p k fid h
          | some g =>
            let l := s.hbList s.hbBank p
            let dur := s.hbDur p h.bytes.length
            let t := s.baseT16 (s.get F.hborPortCfg_gateBase (hbPort s.hbBank p))
            if (match glWc l c with | some w => decide (w < dur) | none => false) then (s.bump F.hborCntTooLong p).hbPop k fid
            else if gateOpen g c (t + dur) (dur / 655360 + 200) t then s.hbSend p k fid h
            else s.hbServe p r

/-- HBOR_LAUNCH (R437): port `p` serves its class queues once its previous frame has ended. -/
def execHborLaunch (p : Port) (s : State) : Outc :=
  .next (
    if s.modeNo = mHARBOUR ∧ Tab.getD s.hbor.launchNs p.val 0 ≤ s.ns ∧ Tab.getD s.ports.wire p.val [] = [] ∧ s.linkUp p.val = true then
      s.hbServe p.val [7, 6, 5, 4, 3, 2, 1, 0]
    else s)

/-! ### The drain (R444) -/

/-- HBOR_DRAIN_EXPIRY (R444): frames still held at DRAIN_US are dropped. -/
def execHborDrainExpiry (s : State) : Outc :=
  .next (match s.hbor.draining with
  | none => s
  | some d =>
    if s.ns < d then s
    else { s.addTo F.hborCntDrainDrop 0 s.hbor.frames.length with hbor := { s.hbor with frames := [], queues := [] } })

end Sys2Proof.Machine
end

