-- ==== Sys2Proof/Machine/Modes.lean ====
section
/-!
DEFINITION. Machine/Modes.lean: the modes and their transitions (R417-R430, R439-R447): SYS.MODE requests, pausing, SAFE HARBOUR
entry and exit, HALT, resets and the end of BOOT.
-/
namespace Sys2Proof.Machine

/-! ### Pausing (R428, R429) -/

/-- SYS_MODE.PAUSED changes: lossless groups of paused quays go to XOFF, those of resumed ones follow their accounts (R429). -/
def State.setPaused (s : State) (mask : Nat) : State :=
  (List.range 130).foldl (fun s p => s.xoffUpdate p) (s.set F.sysMode_paused 0 (mask % 65536))

/-- Whether a frame stands between dispatch and the end of its admission. -/
def Frame.inside (f : Frame) : Bool :=
  match f.stage with
  | .receiving | .queued => false
  | _ => true
/-- Whether no frame of quay `q` remains in its pilots, berths, release or admission stage (R428). -/
def State.quiesced (s : State) (q : Nat) : Bool :=
  !(s.eng.frames.any (fun e => e.2.quay.val == q && e.2.inside)) && (s.quay q).made.isEmpty
def State.quiescedMask (s : State) (mask : Nat) : Bool := (List.range 16).all (fun q => !(mask.testBit q) || s.quiesced q)

/-! ### Requests of SYS.MODE (R418, R427, R428, R430, R443) -/

/-- What a request to change the mode gives: a refusal, the mode reached, or a transition under way. -/
inductive Ask
  | no (status : Nat)
  | done (s : State)
  | wait (s : State)

/-- The default timeout from now, in ns; none for 0 (CMD_CFG.BARRIER_TO). -/
def State.barrierDue (s : State) (us : Nat) : Option Nat :=
  let t := if us = 0 then s.get F.cmdCfg_barrierTo 0 else us
  if t = 0 then none else some (s.ns + t * 1000)

def State.pend (s : State) (target mask : Nat) (iss : Issuer) : State :=
  { s with mode := { s.mode with trans := some ⟨target, BitVec.ofNat 16 mask, iss, s.barrierDue 0⟩ } }

def State.setMode (s : State) (m : Nat) : State := s.set F.sysMode_mode 0 m

/-- The device enters DRYDOCK: every link goes down in that clock (R275), and no port trains there (Table 15.3). -/
def State.drydockIn (s : State) : State :=
  let s := (s.regIxs .timePortCal).foldl (fun (s : State) p =>
    if s.linkUp p then s.linkDownNow p 5
    else if (s.portSt p).condUp = none then s
    else (s.setPortSt p { s.portSt p with condUp := none, condDown := none }).set F.timePortCal_calState p 0) s
  s.setMode mDRYDOCK

/-- The fragment table and both in-flight counts are emptied (R427, R444). -/
def State.emptyCounts (s : State) : State :=
  let s := { s with tab := { s.tab with frag := [] }, eng := { s.eng with flights := [] } }
  ((s.setInflight false 0).setInflight true 0 |>.retireCheck false).retireCheck true

/-- The exit from SAFE HARBOUR begins (R443, R444). -/
def State.exitStart (s : State) (target : Nat) (iss : Issuer) : State :=
  let s := s.pend target 0xFFFF iss
  let s := { s with hbor := { s.hbor with draining := some (s.ns + s.get F.hborCfg_drainUs 0 * 1000), exitTo := target } }
  s.setPaused 0xFFFF

/-- SYS.MODE with target `t` and quay mask `mask` (Table 15.2). -/
def State.modeAsk (s : State) (t mask : Nat) (iss : Issuer) : Ask :=
  let m := s.modeNo
  let cause := s.get F.sysHborCause_cause 0
  if t = mRESET ∨ t = mBOOT ∨ t = mHARBOUR then .no stBAD_PARAM
  else if t = mHALT then .wait { s with mode := { s.mode with haltOwed := true } }
  else if t = mSERVICE then
    if m = mMOORED then (if s.hbmFailed = true ∨ cause ≠ 0 then .no stBAD_MODE else .done (s.emptyCounts.setMode mSERVICE))
    else if m = mSLACK then .done ((s.setMode mSERVICE).setPaused 0)
    else .no stBAD_MODE
  else if t = mDRYDOCK then
    if m = mMOORED ∧ cause = 0 then .done s.drydockIn else .no stBAD_MODE
  else if t = mSLACK then
    let named := if mask = 0 then 0xFFFF else mask
    if m = mSERVICE ∨ m = mSLACK then .wait ((s.setPaused named).pend mSLACK named iss)
    else if m = mHARBOUR ∧ cause = 0 then .wait (s.exitStart mSLACK iss)
    else .no stBAD_MODE
  else
    if m = mDRYDOCK then (if s.bit F.sysDrydockStatus_busy 0 then .no stBAD_MODE else .done (s.setMode mMOORED))
    else if m = mSERVICE ∨ m = mSLACK then
      .wait ((s.setPaused 0xFFFF).pend mMOORED (0xFFFF &&& (Nat.xor 0xFFFF (s.get F.sysMode_paused 0))) iss)
    else if m = mHARBOUR ∧ cause = 0 then .wait (s.exitStart mMOORED iss)
    else .no stBAD_MODE

/-- SLACK_QUIESCED (R428): every named quay is quiesced; a request for MOORED waits for every queue to be empty too (Table 15.2). -/
def execSlackQuiesced (s : State) : Outc :=
  .next (match s.mode.trans with
  | none => s
  | some t =>
    if s.forwarding = false then s
    else if t.target = mSLACK then
      if s.quiescedMask t.mask.toNat then (s.setMode mSLACK).settleTrans stOK else s
    else if s.quiescedMask 0xFFFF && s.tm.copies.isEmpty then (((s.setMode mMOORED).setPaused 0).settleTrans stOK)
    else s)

/-- SLACK_TIMEOUT (R428, R339): the transition has not completed by BARRIER_TO: the named quays resume and the mode is unchanged. -/
def execSlackTimeout (s : State) : Outc :=
  .next (match s.mode.trans with
  | none => s
  | some t =>
    match t.deadlineNs with
    | none => s
    | some d =>
      if s.ns < d then s
      else
        let s := { s with hbor := { s.hbor with draining := none } }
        (s.setPaused (s.get F.sysMode_paused 0 &&& Nat.xor 0xFFFF t.mask.toNat)).settleTrans stTIMEOUT)

/-! ### Entering SAFE HARBOUR (R439-R442) -/

/-- The copies past their commit points. -/
def State.wireCids (s : State) : List Nat := s.ports.wire.flatMap (fun e => e.2.map (fun w => w.cid))

/-- A copy is abandoned: counted, and where it asked for a stamp the stamp is lost (R441). -/
def State.abandonCopy (s : State) (cp : Copy) : State :=
  let s := s.bump F.hborCntAbandoned 0
  if cp.treq.getLsbD 0 = true ∧ cp.port < 130 then s.txtsLose cp.port cp.seqId else s

/-- The flow pass of an abandoned frame: one that has started commits, one that has not is discarded (R441). -/
def State.abandonFlow (s : State) (fid : Nat) (f : Frame) : State :=
  let s := match f.sticky with | some (sl, b) => s.stickyFree sl.val b | none => s
  match f.flow with
  | .berth sl b =>
    (match s.berth? sl.val b.val with
     | none => s.delFrame fid
     | some st =>
       match st.phase with
       | .running _ | .heldLen => (s.delFrame fid).passSettleN sl.val 3
       | _ => (s.berthKill sl.val b.val).delFrame fid)
  | _ => (s.flowKill fid).delFrame fid

/-- A context of a stevedore. -/
def stevCode (n : Nat) : Bool := decide (8192 ≤ n) && decide (n < 9000)

/-- Drop everything that has not passed its egress commit point (Table 15.8, R441). -/
def State.abandon (s : State) : State :=
  let live := s.wireCids
  let onWire := s.tm.copies.filter (fun e => live.contains e.1)
  let s := s.eng.frames.foldl (fun (s : State) (e : Nat × _) => s.abandonFlow e.1 e.2) s
  let s := s.tm.copies.foldl (fun (s : State) (e : Nat × _) => if live.contains e.1 then s else s.abandonCopy e.2) s
  let s := s.eng.quays.foldl (fun (s : State) (e : Nat × _) => e.2.made.foldl (fun (s : State) cp => s.abandonCopy cp) s) s
  let flights := s.eng.flights.filterMap (fun e =>
    let n := (onWire.filter (fun c => c.2.flight == e.1)).length
    if n = 0 then none else some (e.1, (e.2.1, n)))
  let held := s.time.held.filter (fun e => onWire.any (fun c => mget c.2.man mPort * 65536 + mget c.2.man mSeq == e.1))
  let quays : Tab QuaySt := s.eng.quays.map (fun (e : Nat × QuaySt) => (e.1, { e.2 with waiting := [], repl := [], made := [] }))
  let chans := s.cmd.chans.map (fun (e : Nat × ChanSt) => (e.1, { e.2 with rx := [] }))
  let queue := s.log.queue.map (fun (c : Capture) => { c with bid := none })
  let s := { s with
    eng := { s.eng with frames := [], ctxs := s.eng.ctxs.filter (fun e => stevCode e.1), flights := flights,
                        gregs := s.eng.gregs.filter (fun e => stevCode (e.1 / 32) || decide (13000 ≤ e.1 / 32)),
                        lkps := [], mtrs := s.eng.mtrs.filter (fun e => stevCode e.2.x.code),
                        quays := quays }
    tm := { s.tm with copies := onWire, queues := [], windows := [], rounds := [] }
    time := { s.time with held := held }
    cmd := { s.cmd with chans := chans }
    log := { s.log with queue := queue } }
  (s.regIxs .tmPortStatus).foldl (fun s p => s.set F.tmPortStatus_outstanding p 0) s

/-- The loopback of port index `i` stops: the PRBS errors that the register's last read did not take are unknown (SYS_DRYDOCK_PORT). -/
def State.loopStop (s : State) (i : Nat) : State :=
  let s := if s.get F.sysDrydockPort_loop i = 3 then (s.set F.sysDrydockPort_errors i s.freeVal.toNat).useFree else s
  s.set F.sysDrydockPort_loop i 0

/-- The device enters SAFE HARBOUR (Table 15.8). -/
def State.harbourIn (s : State) : State :=
  let was := s.modeNo
  let s := (s.settleTrans stABORTED).abandon
  let s := (s.setMode mHARBOUR).set F.sysMode_paused 0 0
  let s := (List.range 8).foldl (fun s b => if (s.base b).running then s.holdover b hHARBOUR false else s) s
  let s := if was = mDRYDOCK then
      (s.regIxs .sysDrydockPort).foldl (fun s p => s.loopStop p) (s.setBit F.sysDrydockStatus_busy 0 false)
    else s
  let s := (s.regIxs .hborRed).foldl (fun s n => s.setBit F.hborRed_takeany n true) s
  let s := s.setBit F.hborStatus_active 0 s.hbArmed
  { s with hbor := { s.hbor with frames := [], queues := [], redLast := [], draining := none, launchNs := [] },
           mode := { s.mode with causeSeen := false } }

/-- HARBOUR_ENTRY (R440): a cause has been set; a HALT that is owed goes first (R419). -/
def execHarbourEntry (s : State) : Outc :=
  .next (
    let m := s.modeNo
    if s.mode.causeSeen = true ∧ s.mode.haltOwed = false ∧ (m = mMOORED ∨ m = mSERVICE ∨ m = mSLACK ∨ m = mDRYDOCK) then s.harbourIn else s)

/-! ### Leaving SAFE HARBOUR (R444) -/

/-- Every shaper as by TOKENS = FULL, every deficit 0 (R444). -/
def State.shapersFull (s : State) : State :=
  let l := (s.regIxs .tmShaperProfile).foldl (fun (t : Tab Shaper) i =>
    Tab.put t (profKey i) ⟨s.get F.tmShaperProfile_cbs i * 256, s.get F.tmShaperProfile_pbs i * 256, s.ns, none⟩) []
  { s with tm := { s.tm with shapers := l, deficits := [] } }

/-- The pools' free lists and accounts are rebuilt from empty (R444). -/
def State.poolsEmpty (s : State) : State :=
  let s := { s with buf := { s.buf with descs := [], pgs := [] } }
  (s.regIxs .bufQUsed).foldl (fun s q => s.set F.bufQUsed_used q 0) s

/-- A RETIRING generation becomes SHADOW (R444). -/
def State.retireNow (s : State) (g : Bool) : State := if s.genState g = gRETIRING then s.becomeShadow g else s

/-- The exit completes. -/
def State.harbourOut (s : State) : State :=
  let goal := s.hbor.exitTo
  let s := (s.poolsEmpty.emptyCounts.shapersFull.retireNow false).retireNow true
  let s := { s with hbor := { s.hbor with draining := none, queues := [] } }
  let s := ((s.setBit F.hborStatus_active 0 false).setMode goal).setPaused (if goal = mSLACK then 0xFFFF else 0)
  s.settleTrans stOK

/-- HARBOUR_EXIT_COMPLETE (R444): the harbour queues have drained. -/
def execHarbourExitComplete (s : State) : Outc :=
  .next (if s.modeNo = mHARBOUR ∧ s.hbor.draining.isSome = true ∧ s.hbor.frames = [] then s.harbourOut else s)

/-! ### The pin and the causes (R421, R439) -/

/-- HARBOUR_N_ASSERT (R421). -/
def execHarbourNAssert (s : State) : Outc :=
  .next ((({ s with mode := { s.mode with pinLow := true } }).setBit F.sysStatus_harbourN 0 true).setCause 0)

/-- HARBOUR_N_DEASSERT (R421). -/
def execHarbourNDeassert (s : State) : Outc :=
  .next (({ s with mode := { s.mode with pinLow := false } }).setBit F.sysStatus_harbourN 0 false)

/-- The causes that a W1C write of `v` clears now (Table 15.7). -/
def State.causeW1c (s : State) (v : Nat) : State :=
  let old := s.get F.sysHborCause_cause 0
  let can := 0b1100110 + (if s.mode.pinLow then 0 else 1)
  s.set F.sysHborCause_cause 0 (old &&& Nat.xor 127 (v &&& can))

/-! ### HALT (R445) -/

/-- The device enters HALT. -/
def State.haltIn (s : State) : State :=
  let s := s.logHalt
  let s := s.emit .aer
  let s := s.setMode mHALT
  let s := (s.regIxs .tmPortStatus).foldl (fun s p => (s.setBit F.tmPortStatus_link p false).setBit F.portStatus_link (portIx p) false) s
  let s := (List.range 16).foldl (fun s t => s.setIdle t) s
  let s := (s.setBit F.hborStatus_active 0 false).setBit F.hborStatus_checking 0 false
  { s with
    ports := { s.ports with wire := [] }
    eng := { s.eng with frames := [], ctxs := [], lkps := [], mtrs := [], quays := [] }
    tm := { s.tm with copies := [], queues := [], windows := [] }
    hbor := { s.hbor with frames := [], queues := [], check := none, draining := none }
    time := { s.time with todDue := [] }
    cmd := { s.cmd with ready := [], engines := [], parked := [], current := [] }
    tug := { s.tug with ready := [], delay := [] }
    mode := { s.mode with haltOwed := false, causeSeen := false, trans := none } }

/-- HALT_ENTRY (R445): a HALT is owed (R418, R455); a HALT policy acts in every mode except RESET (R456). -/
def execHaltEntry (s : State) : Outc :=
  .next (if s.mode.haltOwed = true ∧ s.modeNo ≠ mRESET ∧ s.modeNo ≠ mHALT then s.haltIn else s)

/-! ### Resets (R417, R446, R475, R479) -/

/-- The lines that a reset leaves: the fuses, and the state of the straps and sensed pins. -/
def State.fuseRegs (s : State) : Tab RegVal :=
  let fuse := (s.reg .secStatus 0) &&& BitVec.ofNat 320 0xFFFF
  let pin := if s.mode.pinLow then BitVec.ofNat 320 (2 ^ 20) else 0
  let t := if fuse = BitVec.ofNat 320 (Reg.resetAt .secStatus 0) then ([] : Tab RegVal) else Tab.put [] (regKey .secStatus 0) fuse
  if pin = 0 then t else Tab.put t (regKey .sysStatus 0) pin

/-- Everything but the queue, what has left, the fuses, the pins and the host's own memory returns to reset (R292, R418). -/
def State.resetCore (s : State) : State :=
  { State.reset with
    pending := s.pending, freeCtr := s.freeCtr, out := s.out, hostMem := s.hostMem, regs := s.fuseRegs,
    mode := { pinLow := s.mode.pinLow, thermtrip := s.mode.thermtrip, fuseOwner0 := s.mode.fuseOwner0, fuseOwner1 := s.mode.fuseOwner1,
              revoked0 := s.mode.revoked0 } }

/-- RESET_ASSERT (R417): the reset pin is asserted in any mode. -/
def execResetAssert (s : State) : Outc := .next s.resetCore

/-- RESET_RELEASE (R423): the release is honoured unless THERMTRIP_N is asserted (R479). -/
def execResetRelease (s : State) : Outc :=
  .next (
    if s.mode.resetHeld = true ∧ s.mode.thermtrip = false then
      ({ s with mode := { s.mode with resetHeld := false } }).setMode mBOOT
    else s)

/-- A warm reset (R446): as a reset, but the PCIe side and the applied core voltage keep their state (R473). -/
def State.warmReset (s : State) : State :=
  let avs := s.get F.sysAvs_applied 0
  let s2 := { s.resetCore with host := s.host }
  let s2 := if avs = 10 then s2 else s2.set F.sysAvs_applied 0 avs
  ({ s2 with mode := { s2.mode with resetHeld := false } }).setMode mBOOT

/-- SYS_RESET (R446): the key performs a warm reset in every mode; while the reset pin holds the device there is nothing to reset. -/
def execSysReset (v : BitVec 32) (s : State) : Outc :=
  .next (if v = 0x4B580001 ∧ s.mode.resetHeld = false then s.warmReset else s)

/-- PWR_OK_LOSS (R475): as if RESET_N had gone low; HBM contents are lost, and no flush is attempted. -/
def execPwrOkLoss (s : State) : Outc := .next (if s.mode.resetHeld then s else s.resetCore)

/-- THERMTRIP (R479): THERMTRIP_N is asserted, and the device enters HALT unless it is in RESET. -/
def execThermtrip (s : State) : Outc :=
  .next (
    let s := { s with mode := { s.mode with thermtrip := true } }
    if s.modeNo = mRESET ∨ s.modeNo = mHALT then s else s.haltIn)

/-- THERMTRIP_CLEAR (R479): RESET_N is low and every die sensor reads below 115 °C. -/
def execThermtripClear (s : State) : Outc :=
  .next (if s.mode.resetHeld then { s with mode := { s.mode with thermtrip := false } } else s)

/-! ### Start-up (R292, R423-R426) -/

/-- DPLL0_STABLE (R292): TL and every base with EN = 1 start. -/
def execDpll0Stable (s : State) : Outc :=
  .next (
    if s.modeNo = mBOOT ∧ s.time.tl = false then
      let s := { s with time := { s.time with tl := true, tlNs := 0 } }
      (List.range 8).foldl (fun s b => if s.bit F.timeTbCfg_en b then s.startBase b else s) s
    else s)

/-- The harbour section's writes into bank 0 (Table 15.4 step 4): each names a 64-bit word of the HBOR block. -/
def State.harbourWord (s : State) (off : Nat) (v : Word) : State :=
  let put := fun (r : Reg) (i lo : Nat) => s.setReg r i (putBits (s.reg r i) lo 64 v.toNat)
  if 0x1401000 ≤ off ∧ off < 0x1401000 + 130 * 0x10 ∧ off % 16 = 0 then put .hborPortCfg ((off - 0x1401000) / 16) 0
  else if 0x1410000 ≤ off ∧ off < 0x1410000 + 130 * 0x20 then put .hborGclHdr ((off - 0x1410000) / 32) (off % 32 / 8 * 64)
  else if 0x1420000 ≤ off ∧ off < 0x1420000 + 130 * 0x200 then put .hborGcl ((off - 0x1420000) / 8) 0
  else if 0x1480000 ≤ off ∧ off < 0x1480000 + 0x40000 ∧ off % 64 < 40 then put .hborEntry ((off - 0x1480000) / 64) (off % 64 / 8 * 64)
  else s

/-- Four free values as one 256-bit value. -/
def State.free256 (s : State) : State × BitVec 256 :=
  ({ s with freeCtr := s.freeCtr + 4 },
   (Config.free s.freeCtr ++ Config.free (s.freeCtr + 1)) ++ (Config.free (s.freeCtr + 2) ++ Config.free (s.freeCtr + 3)))

/-- The hash of the active owner slot: the highest-numbered that is programmed and not revoked; zeros where none is (Table 16.6, R462). -/
def State.ownerHash (s : State) : BitVec 256 :=
  match s.mode.fuseOwner1 with
  | some h => h
  | none => if s.mode.revoked0 then 0 else s.mode.fuseOwner0.getD 0

/-- T0 runs from the firmware's entry at supervisor level, in the context of task 0. -/
def State.bootTask (s : State) (entry : Word) : State :=
  let s := s.setTask 0 { aff := 1 }
  let s := s.setTcore 0 { s.tcore 0 with ctx := { pc := entry, sup := true }, wd := s.ns }
  let s := (s.set F.tugTaskState_state 0 tRUNNING).set F.tugTaskState_core 0 0
  (s.set F.tugCoreStatus_task 0 0).setBit F.tugCoreStatus_idle 0 false

/-- BOOT_COMPLETE (R423, R426): step 7 of Table 15.4. -/
def execBootComplete (b : BootReport) (s : State) : Outc :=
  .next (
    if s.modeNo = mBOOT ∧ s.time.tl = true then
      let s := ((s.setBit F.sysStatus_slot 0 b.slot).set F.sysStatus_hbmFail 0 b.hbmFail.toNat).set F.sysStatus_bootMs 0 (Nat.min b.bootMs 2047)
      let s := { s with dmem := b.firmware.foldl (fun (m : Memory) (e : Nat × Byte) => m.set e.1 e.2) s.dmem }
      let s := match b.harbour with
        | some l =>
          let s := l.foldl (fun (s : State) (e : BitVec 26 × Word) => s.harbourWord e.1.toNat e.2) s
          if (s.hbFault 0).isNone then { s with hbor := { s.hbor with passed := [0] } } else s
        | none => s
      let r := s.free256
      let fw := s.get F.secStatus_arbFw 0
      let s := { r.1 with mode := { r.1.mode with keys := !s.mode.debugOpen, keyOwner := s.ownerHash, imageHash := r.2, bootSlot := b.slot,
                                                  arbRun := fw + r.1.freeVal.toNat % (65 - fw) } }.useFree
      let s := (s.setBit F.secStatus_keysReady 0 true).bootTask b.entry
      let s := s.ch0Sync
      let s := if b.harbour.isSome && s.hbor.passed.contains 0 && (s.mode.pinLow || b.harbourAtBoot) then
          (((s.setMode mMOORED).setBit F.hborCfg_armed 0 true).set F.sysHborCause_cause 0 64).harbourIn
        else s.setMode mMOORED
      s.bellsGo
    else s)

/-- BOOT_ERROR (R424): BOOT fails with a code, and the device enters HALT. -/
def execBootError (code : BitVec 3) (s : State) : Outc :=
  .next (if s.modeNo = mBOOT then (s.set F.sysStatus_bootErr 0 code.toNat).haltIn else s)

end Sys2Proof.Machine
end

