-- ==== Sys2Proof/Machine/Seal.lean ====
section
/-!
DEFINITION. Machine/Seal.lean: the sixteen seal units (R458, R459, Table 16.5). A unit's state before the final XOR stands in
SEAL_RUNNING.
-/
namespace Sys2Proof.Machine

abbrev suIDLE : Nat := 0
abbrev suBUSY : Nat := 1
abbrev suDONE : Nat := 2

/-- The initial value of unit `u`'s check (Table 16.5). -/
def State.sealInit (s : State) (u : Nat) : Nat :=
  match s.get F.sealCfg_poly u with
  | 2 => 0xFFFF
  | 3 => s.get F.sealPoly_init u
  | _ => 0xFFFFFFFF

/-- The final XOR (Table 16.5). -/
def State.sealXor (s : State) (u : Nat) : Nat :=
  match s.get F.sealCfg_poly u with
  | 2 => 0
  | 3 => s.get F.sealPoly_xorout u
  | _ => 0xFFFFFFFF

/-- The state of unit `u` after more bytes. -/
def State.sealStep (s : State) (u : Nat) (c : BitVec 32) (l : List Byte) : BitVec 32 :=
  match s.get F.sealCfg_poly u with
  | 0 => crc32c c l
  | 1 => crcR 0xEDB88320#32 c l
  | 2 => crcF 16 0x1021#32 c l
  | _ =>
    let p : BitVec 32 := BitVec.ofNat 32 (s.get F.sealPoly_poly u)
    if s.bit F.sealPoly_refl u then crcR p.reverse c l else crcF 32 p c l

/-- Feed bytes to unit `u`. -/
def State.sealFeed (s : State) (u : Nat) (l : List Byte) : State :=
  s.set F.sealRunning_value u (s.sealStep u (BitVec.ofNat 32 (s.get F.sealRunning_value u)) l).toNat

/-- The range that unit `u` reads: its first HBM byte and its length. -/
def State.sealRange (s : State) (u : Nat) : Nat × Nat := (s.get F.sealSrc_srcBase u * 64, s.get F.sealSrc_srcLen u * 64)

/-- Whether START is accepted: not while BUSY, and the range lies inside the HOST or the LOG region (R458). -/
def State.sealStartOk (s : State) (u : Nat) : Bool :=
  let r := s.sealRange u
  s.get F.sealCtl_state u != suBUSY && (r.2 == 0 || s.inRegion 0 r.1 r.2 || s.inRegion 1 r.1 r.2)

/-- START (R458): with SRC_LEN = 0 the unit reads no range, and words come through SEAL_DATA. -/
def State.sealStart (s : State) (u : Nat) : State :=
  if s.sealStartOk u && (s.sealRange u).2 != 0 then s.set F.sealCtl_state u suBUSY else s

/-- The bytes of unit `u`'s range. -/
def State.sealBytesOf (s : State) (u : Nat) : List Byte := let r := s.sealRange u; s.hbm.bytes r.1 r.2

/-- The range has been read. -/
def State.sealEnd (s : State) (u : Nat) : State :=
  if s.get F.sealCtl_state u = suBUSY then (s.sealFeed u (s.sealBytesOf u)).set F.sealCtl_state u suIDLE else s

/-- A write of SEAL_DATA (R458). -/
def State.sealWord (s : State) (u : Nat) (v : Word) : State :=
  if (s.sealRange u).2 = 0 ∧ s.get F.sealCtl_state u ≠ suBUSY then s.sealFeed u (leBytes 8 v.toNat) else s

/-- RESET (R458): the initial value, IDLE, MISMATCH cleared. -/
def State.sealReset (s : State) (u : Nat) : State :=
  ((s.set F.sealRunning_value u (s.sealInit u)).set F.sealCtl_state u suIDLE).setBit F.sealCtl_mismatch u false

/-- What a unit has taken of its range when it is stopped or read while BUSY: a number of bytes that the spec does not give. -/
def State.sealPartial (s : State) (u : Nat) : State :=
  if s.get F.sealCtl_state u = suBUSY then
    (s.sealFeed u ((s.sealBytesOf u).take (s.freeVal.toNat % ((s.sealRange u).2 + 1)))).useFree
  else s

/-- FINAL (R458, R459): fold, final XOR, result, comparison. -/
def State.sealFinal (s : State) (u : Nat) : State :=
  let s := s.sealPartial u
  let s := if s.bit F.sealCfg_foldEn u then s.sealFeed u (leBytes 8 (s.get F.sealFold_value u)) else s
  let r := Nat.xor (s.get F.sealRunning_value u) (s.sealXor u)
  let s := (s.set F.sealResult_value u r).set F.sealCtl_state u suDONE
  if s.bit F.sealCfg_cmpEn u && decide (r ≠ s.get F.sealExpect_value u) then
    (s.setBit F.sealCtl_mismatch u true).rasEvent 3 u (0x80 + u) 0 r
  else s

/-- Whether a write of SEAL_RUNNING is accepted: while IDLE (R459). -/
def State.sealRestoreOk (s : State) (u : Nat) : Bool := s.get F.sealCtl_state u == suIDLE
/-- A write of SEAL_RUNNING (R459). -/
def State.sealRestore (s : State) (u : Nat) (v : Word) : State :=
  if s.sealRestoreOk u then s.set F.sealRunning_value u v.toNat else s

/-- The modes in which the registers of the SEAL, SEC and RAS blocks can be changed, directly or through SET (R466). -/
def State.cfgMode (s : State) : Bool :=
  let m := s.modeNo
  m == mMOORED || m == mSERVICE || m == mSLACK || m == mDRYDOCK

/-- SEAL_START (R458). -/
def execSealStart (u : SealUnit) (s : State) : Outc := .next (if s.cfgMode then s.sealStart u.val else s)
/-- SEAL_RANGE_DONE (R458): BUSY is over, and the unit waits for FINAL. -/
def execSealRangeDone (u : SealUnit) (s : State) : Outc := .next (s.sealEnd u.val)
/-- SEAL_DATA (R458). -/
def execSealData (u : SealUnit) (v : Word) (s : State) : Outc := .next (if s.cfgMode then s.sealWord u.val v else s)
/-- SEAL_FINAL (R458, R459). -/
def execSealFinal (u : SealUnit) (s : State) : Outc := .next (if s.cfgMode then s.sealFinal u.val else s)
/-- SEAL_RESET (R458, R459). -/
def execSealReset (u : SealUnit) (s : State) : Outc := .next (if s.cfgMode then s.sealReset u.val else s)
/-- SEAL_RUNNING_WRITE (R459). -/
def execSealRunningWrite (u : SealUnit) (v : Word) (s : State) : Outc := .next (if s.cfgMode then s.sealRestore u.val v else s)

end Sys2Proof.Machine
end

