-- ==== Sys2Proof/Machine/Sec.lean ====
section
/-!
DEFINITION. Machine/Sec.lean: fuses, attestation and the debug port (R461-R464), temperatures and the core voltage (R473, R478), lost
stacks and the self-tests (R425, R455, R456), the ticks of R453 and R457, and the DRYDOCK self-tests (SYS_DRYDOCK_CTL).
-/
namespace Sys2Proof.Machine

/-- The master IDs of Table 0.9. -/
def masters : List Nat :=
  List.range 24 ++ (List.range 64).map (· + 0x20) ++ [0x60, 0x61, 0x62, 0x63, 0x64, 0x70, 0x7F] ++ (List.range 16).map (· + 0x80)
/-- A listed master ID that the spec does not name. -/
def State.freeMaster (s : State) : Nat := masters.getD (s.freeVal.toNat % masters.length) 0

/-- A machine check whose address and master the spec does not give. -/
def State.mcheckFree (s : State) (k : Nat) : State :=
  let a := s.freeVal.toNat
  let s := s.useFree
  let m := s.freeMaster
  s.useFree.mcheck k a m

/-! ### Fuses (R461, R464, Table 16.6) -/

/-- The active owner slot: 0 none, 1 slot 0, 2 slot 1 (Table 16.6). -/
def State.ownerActive (s : State) : Nat :=
  if s.mode.fuseOwner1.isSome then 2 else if s.mode.fuseOwner0.isSome && !s.mode.revoked0 then 1 else 0
/-- SEC_STATUS.OWNER follows the fuses. -/
def State.ownerSync (s : State) : State := s.set F.secStatus_owner 0 s.ownerActive

/-- A fuse request: from the PF, directly, in MOORED, and one that R461 allows; any other is refused and counted. -/
def State.fuse (s : State) (fn : Nat) (ok : Bool) (act : State → State) : State :=
  if s.modeNo = mRESET then s
  else if fn = 0 ∧ s.modeNo = mMOORED ∧ ok = true then act s
  else s.bump F.secCntRefused 0

/-- A write of SEC_ARB_ADVANCE (R461): a count given above the present one raises it, up to the running image's value. -/
def State.arbAsk (s : State) (fn : Nat) (v : BitVec 32) : State :=
  let fw := (v.extractLsb' 0 7).toNat
  let pt := (v.extractLsb' 7 6).toNat
  let f0 := s.get F.secStatus_arbFw 0
  let p0 := s.get F.secStatus_arbPatch 0
  let ok := (decide (f0 < fw) || decide (p0 < pt)) && (decide (fw ≤ f0) || decide (fw ≤ s.mode.arbRun))
    && (decide (pt ≤ p0) || decide (pt ≤ s.mode.patchArb))
  s.fuse fn ok (fun s => (s.set F.secStatus_arbFw 0 (Nat.max f0 fw)).set F.secStatus_arbPatch 0 (Nat.max p0 pt))

/-- SEC_ARB_ADVANCE (R461). -/
def execSecArbAdvance (fn : Fn) (v : BitVec 32) (s : State) : Outc := .next (s.arbAsk fn.val v)

/-- Program an owner slot. -/
def State.ownerProgram (s : State) (hash : BitVec 256) (slot : Bool) : State :=
  (if slot then { s with mode := { s.mode with fuseOwner1 := some hash } }
   else { s with mode := { s.mode with fuseOwner0 := some hash } }).ownerSync
/-- Whether an owner slot is blank. -/
def State.ownerBlank (s : State) (slot : Bool) : Bool := if slot then s.mode.fuseOwner1.isNone else s.mode.fuseOwner0.isNone

/-- Ask for an owner slot to be programmed: a blank one (R461). -/
def State.ownerAsk (s : State) (fn : Nat) (hash : BitVec 256) (slot : Bool) : State :=
  s.fuse fn (s.ownerBlank slot) (fun s => s.ownerProgram hash slot)
/-- Ask for slot 0 to be revoked: once slot 1 is programmed (R461). -/
def State.revokeAsk (s : State) (fn : Nat) : State :=
  s.fuse fn s.mode.fuseOwner1.isSome (fun s => ({ s with mode := { s.mode with revoked0 := true } }).ownerSync)
/-- Ask for DEBUG_LOCK (R464). -/
def State.lockAsk (s : State) (fn : Nat) : State := s.fuse fn true (fun s => s.setBit F.secStatus_debugLock 0 true)

/-- OWNER_SLOT_PROGRAM (R461). -/
def execOwnerSlotProgram (fn : Fn) (hash : BitVec 256) (slot : Bool) (s : State) : Outc := .next (s.ownerAsk fn.val hash slot)
/-- OWNER_REVOKE (R461). -/
def execOwnerRevoke (fn : Fn) (s : State) : Outc := .next (s.revokeAsk fn.val)
/-- DEBUG_LOCK (R464). -/
def execDebugLock (fn : Fn) (s : State) : Outc := .next (s.lockAsk fn.val)

/-- DEBUG_OPEN (R464): only while DEBUG_LOCK is 0; both private keys are erased until the next reset. -/
def execDebugOpen (s : State) : Outc :=
  .next (
    if s.modeNo = mRESET ∨ s.bit F.secStatus_debugLock 0 = true then s
    else ({ s with mode := { s.mode with keys := false, debugOpen := true } }).setBit F.secStatus_debugOpened 0 true)

/-! ### Attestation (R463, Table 16.8) -/

/-- A byte string of a fixed size. -/
def fitTo (n : Nat) (l : List Byte) : List Byte := l.take n ++ List.replicate (n - l.length) (0 : Byte)

/-- Bytes 0x0000-0x0F63 of the message, built from the crypto unit's own state. -/
def State.attestBody (s : State) : List Byte :=
  let patched := s.get F.cmdUcInfo_patchVer 0 != 0
  let flags := s.get F.secStatus_debugOpened 0 + 2 * (decide (s.ownerActive ≠ 0)).toNat + 4 * patched.toNat
  leBytes 4 0x5441584B ++ leBytes 2 1 ++ leBytes 2 flags ++ leBytes 8 Config.dieId.toNat ++ leBytes 32 (s.get F.secAttNonce_nonce 0)
    ++ leBytes 32 Config.vrootHash.toNat ++ leBytes 32 s.ownerHash.toNat ++ leBytes 32 s.mode.imageHash.toNat
    ++ leBytes 32 (if patched then s.mode.patchHash.toNat else 0) ++ leBytes 4 (s.get F.secStatus_arbFw 0)
    ++ leBytes 4 (s.get F.secStatus_arbPatch 0) ++ leBytes 1 s.modeNo ++ leBytes 7 0 ++ leBytes 16 s.ktsTl.toNat
    ++ fitTo 1312 (Config.idPublic s.mode.keyOwner) ++ fitTo 2420 (Config.endorsement s.mode.keyOwner)

/-- START: the message is built; a START while BUSY is refused (R463). -/
def State.attestStart (s : State) : State :=
  if s.bit F.secAttCtl_busy 0 then s
  else ({ s with mode := { s.mode with attest := s.attestBody } }).setBit F.secAttCtl_busy 0 true

/-- ATTESTATION_START (R463). -/
def execAttestationStart (s : State) : Outc := .next (if s.cfgMode then s.attestStart else s)

/-- ATTESTATION_DONE (R463, R464): the message is signed and written at DEST in the HOST region; without keys it completes DENIED. -/
def execAttestationDone (s : State) : Outc :=
  .next (
    if s.bit F.secAttCtl_busy 0 = false ∨ s.modeNo = mHALT then s
    else
      let a := s.get F.secAttCtl_dest 0 * 4096
      let body := s.mode.attest
      let s := ({ s with mode := { s.mode with attest := [] } }).setBit F.secAttCtl_busy 0 false |>.setBit F.secAttCtl_done 0 true
      if s.mode.keys = false then s.set F.secAttCtl_status 0 stDENIED
      else if s.inRegion 0 a 6360 && !s.hbmFailed then
        ({ s with hbm := s.hbm.setBytes a (body ++ fitTo 2420 (Config.sign s.mode.keyOwner body)) }).set F.secAttCtl_status 0 stOK
      else (s.set F.secAttCtl_status 0 (s.freeVal.toNat % 256)).useFree)

/-! ### Temperatures and the core voltage (R473, R478) -/

/-- TEMP_ALARM (R478): the sensors report the hottest of each kind. -/
def execTempAlarm (die hbm : BitVec 8) (s : State) : Outc :=
  .next (
    let s := (s.set F.sysTemp_dieMax 0 die.toNat).set F.sysTemp_hbmMax 0 hbm.toNat
    let s := if 95 ≤ hbm.toInt then (s.set F.sysTemp_hbmHot 0 (1 + s.freeVal.toNat % 15)).useFree else s.set F.sysTemp_hbmHot 0 0
    let thr : BitVec 8 := BitVec.ofNat 8 (s.get F.sysTemp_alarmThr 0)
    let s := if thr.toInt ≤ die.toInt ∧ s.bit F.sysTemp_alarm 0 = false then (s.setBit F.sysTemp_alarm 0 true).emit .alert else s
    if s.modeNo = mRESET then s
    else if die.toInt < 0 then s.setBit F.sysAvs_cold 0 true
    else if 5 ≤ die.toInt then s.setBit F.sysAvs_cold 0 false
    else s)

/-- The next value the device commands: one step of 5 mV towards the fused target and its cold addition (R473). -/
def State.avsNext (s : State) : Nat :=
  let want := s.get F.sysAvs_target 0 + 4 * s.get F.sysAvs_cold 0
  let now := s.get F.sysAvs_applied 0
  if now < want then now + 1 else now - (decide (want < now)).toNat

/-- The regulator's answer to an AVS command (R473). -/
def State.avsAnswer (s : State) (next : Nat) (acked : Bool) : State :=
  match acked with
  | true => ({ s with mode := { s.mode with avsNaks := 0 } }).set F.sysAvs_applied 0 next
  | false =>
    if 2 ≤ s.mode.avsNaks then (({ s with mode := { s.mode with avsNaks := 0 } }).setBit F.sysAvs_fault 0 true).emit .alert
    else { s with mode := { s.mode with avsNaks := s.mode.avsNaks + 1 } }

/-- AVS_COMMAND (R473): at most one command per 10 µs; three in a row without acknowledgement set FAULT. -/
def execAvsCommand (target : BitVec 5) (acked : Bool) (s : State) : Outc :=
  .next (
    let next := s.avsNext
    let due := match s.mode.avsNs with | some t => decide (t + 10000 ≤ s.ns) | none => true
    if s.modeNo = mRESET ∨ s.bit F.sysAvs_fault 0 = true ∨ next = s.get F.sysAvs_applied 0 ∨ target.toNat ≠ next ∨ due = false then s
    else
      (({ s with mode := { s.mode with avsNs := some s.ns } }).emit (.avs next)).avsAnswer next acked)

/-! ### Machine-check sources outside the sweeps (R425, R455, R456) -/

/-- HBM_STACK_LOST (R425, R478, Table 16.3): HBM_FATAL and harbour cause HBM; the harbour log stops (R415). -/
def execHbmStackLost (st : Fin 4) (_hot : Bool) (s : State) : Outc :=
  .next (
    if s.modeNo = mRESET ∨ s.modeNo = mBOOT then s
    else
      let s := s.set F.sysStatus_hbmFail 0 (s.get F.sysStatus_hbmFail 0 ||| 2 ^ st.val)
      ((s.logStop).mcheckFree 1).setCause 3)

/-- CRYPTO_SELF_TEST_FAIL (R456): seals are then written UNSIGNED. -/
def execCryptoSelfTestFail (s : State) : Outc :=
  .next (
    if s.modeNo = mRESET then s
    else
      let a := s.freeVal.toNat
      let s := { s with mode := { s.mode with keys := false } }
      s.useFree.mcheck 9 a 0x63)

/-- SEAL_STORM_TICK (R453): the failures of one tick reach STORM_THR; 0 means never. -/
def execSealStormTick (s : State) : Outc :=
  .next (
    let thr := s.get F.rasSealCfg_stormThr 0
    let n := s.mode.sealFails
    let s := { s with mode := { s.mode with sealFails := 0 } }
    if s.modeNo ≠ mRESET ∧ thr ≠ 0 ∧ thr ≤ n then s.mcheckFree 7 else s)

/-- CORR_RATE_TICK (R457): one event for each memory whose count grew by more than CORR_THR. -/
def execCorrRateTick (s : State) : Outc :=
  .next (
    let l := s.mode.corr
    let s := { s with mode := { s.mode with corr := [] } }
    l.foldl (fun (s : State) (e : Nat × Nat) =>
      if s.get F.rasSealCfg_corrThr 0 < e.2 then
        let m := s.freeMaster
        let s := s.useFree
        s.useFree.rasEvent 4 e.1 m e.2 s.freeVal.toNat
      else s) s)

/-! ### Self-tests in DRYDOCK -/

/-- The self-tests that a write of SYS_DRYDOCK_CTL selects are refused: bit 4 while the plane is armed. -/
def State.bistRefused (s : State) (v : Nat) : Bool := v.testBit 4 && s.hbArmed
/-- A write of SYS_DRYDOCK_CTL: START runs the selected tests. -/
def State.bistWrite (s : State) (v : Nat) : State :=
  if s.modeNo ≠ mDRYDOCK ∨ s.bit F.sysDrydockStatus_busy 0 = true ∨ s.bistRefused v = true then s
  else
    let s := s.set F.sysDrydockCtl_bist 0 v
    if v.testBit 6 then s.setBit F.sysDrydockStatus_busy 0 true else s

/-- Lines of a register go back to zero bits where that is their reset value. -/
def State.dropReg (s : State) (r : Reg) : State := { s with regs := s.regs.filter (fun e => e.1 % 1024 != r.ctorIdx) }

/-- A tested memory holds zeros with valid check bits. -/
def State.bistZero (s : State) (k : Nat) : State :=
  match k with
  | 0 => { s with buf := { s.buf with descs := s.buf.descs.map (fun e => (e.1, { e.2 with bytes := e.2.bytes.map (fun _ => 0), bad := false })) } }
  | 1 =>
    let clean := fun (t : Tab Rec) => (t.filter (fun e => !e.2.dirty)).map (fun e => (e.1, { e.2 with cached := false }))
    { s with led := { s.led with slices := s.led.slices.map (fun e => (e.1, { e.2 with recs := clean e.2.recs, old := clean e.2.old })) } }
  | 2 => { s with tab := { s.tab with em := [], lpm := [], tcam := [], frag := [], objs := [], bad := [], repairs := [], spare := [] } }
  | 3 => { s with dmem := [], tug := { s.tug with bad := [] } }
  | 4 =>
    let s := ((s.dropReg .hborEntry).dropReg .hborGcl).dropReg .hborGclHdr
    { s with hbor := { s.hbor with passed := [], badEntries := [], sramBad := false } }
  | _ => { s with cmd := { s.cmd with patch := [] } }

/-- DRYDOCK_BIST_START. -/
def execDrydockBistStart (v : BitVec 32) (s : State) : Outc := .next (s.bistWrite v.toNat)

/-- DRYDOCK_BIST_DONE: the tests end, the failures of the selected ones stand in FAIL. -/
def execDrydockBistDone (fail : BitVec 6) (s : State) : Outc :=
  .next (
    if s.modeNo ≠ mDRYDOCK ∨ s.bit F.sysDrydockStatus_busy 0 = false then s
    else
      let sel := s.get F.sysDrydockCtl_bist 0
      let s := (s.setBit F.sysDrydockStatus_busy 0 false).set F.sysDrydockStatus_fail 0 (fail.toNat &&& sel)
      (List.range 6).foldl (fun s k => if sel.testBit k then s.bistZero k else s) s)

end Sys2Proof.Machine
end

