-- ==== Sys2Proof/Machine/RegRead.lean ====
section
/-!
DEFINITION. Machine/RegRead.lean: BAR0 offsets, the registers that show the state of a block, and reads (R6, R55, R294, R306, R340).
-/
namespace Sys2Proof.Machine

/-! ### Offsets -/

/-- The index and the byte that an offset `d` past a register's element 0 names, the outer index first. -/
def dimsAt : List (Nat × Nat) → Nat → Nat → Option (Nat × Nat)
  | [], d, ix => some (ix, d)
  | (st, n) :: r, d, ix => if d / st < n then dimsAt r (d % st) (ix * n + d / st) else none

/-- The index and the byte of register `r` that BAR0 offset `off` names. -/
def Reg.locate (r : Reg) (off : Nat) : Option (Nat × Nat) :=
  let w := r.row
  if off < w.base then none
  else
    let d := off - w.base
    match dimsAt w.dims d 0 with
    | some (ix, b) =>
      if b < w.width / 8 ∧ ¬(w.portIx = true ∧ 32 ≤ d / 0x2000 ∧ d % 0x2000 / 0x400 ≠ 0) then some (ix, b) else none
    | none => none

/-- The BAR0 block of an offset. -/
def blockOf (off : Nat) : Nat := off / 2 ^ 20

/-- The register at a BAR0 offset: a register of the offset's own block goes first (log entry 42). -/
def findReg (off : Nat) : Option (Reg × Nat × Nat) :=
  let pick := fun (own : Bool) => allRegs.findSome? (fun r =>
    if (blockOf r.row.base == blockOf off) == own then (r.locate off).map (fun p => (r, p)) else none)
  match pick true with
  | some x => some x
  | none => pick false

/-- The port of a port-block index (R290). -/
def portOf (i : Nat) : Nat := if i < 128 then i else 128 + (i - 128) / 4

/-! ### What registers show -/

/-- The value of a time base (0-7, 15 TL) now, with its flags (R291, R294). -/
def State.nowOf (s : State) (b : Nat) : Stamp := if s.baseRuns b then s.stampOn b false false 0 1 else kts b 0 0 0 0

/-- TM_GCL_STATUS of a port (R249): gates are all open while no list is in force. -/
def State.gclStatus (s : State) (p : Nat) : Nat :=
  let g := s.gate p
  match g.oper with
  | none => 0xFF * 2 ^ 49
  | some l =>
    let e := gateAt g (s.baseT16 (s.gateBase p))
    l.cycNs + l.entries.length * 2 ^ 32 + e.1 % 256 * 2 ^ 41 + e.2.1 % 256 * 2 ^ 49

/-- CMD_ENGINE_STATUS: what the engine executes and whether its last machine check is less than 1 s old. -/
def State.engineStatus (s : State) (e : Nat) : Nat :=
  let recent := match Tab.get? s.cmd.lastMc e with | some t => decide (s.ns < t + 1000000000) | none => false
  (s.get F.cmdEngineStatus_fenced e) * 2 + recent.toNat * 4
    + (match Tab.get? s.cmd.engines e with
       | some (.chan c) => 1 + c.val * 8
       | some (.tug t) => 1 + t.val * 8 + 2 ^ 13
       | none => 0)

/-- LEDGER_SLICE_STATUS and LEDGER_SLICE_RECORDS. -/
def State.sliceStatus (s : State) (n : Nat) : Nat :=
  let v := s.slice n
  let all := v.recs ++ v.old
  v.berths.length + (all.filter (fun e => e.2.cached)).length * 2 ^ 11
    + (all.filter (fun e => recPinned e.2)).length * 2 ^ 28 + v.stashUsed * 2 ^ 43
def State.sliceRecords (s : State) (n : Nat) : Nat :=
  let v := s.slice n
  v.recs.length + v.old.length + v.reserved.length + v.migrate * 2 ^ 32

/-- LOCKED_S of a base, saturating. -/
def State.lockedS (s : State) (b : Nat) : Nat :=
  match (s.base b).lockedSinceNs with
  | some t => Nat.min ((s.ns - t) / 1000000000) (2 ^ 32 - 1)
  | none => 0

/-- Whether a seal unit's state is read while it reads its range. -/
def State.sealView (s : State) (u : Nat) : Nat := (s.sealPartial u).get F.sealRunning_value u

/-- A register as it reads now: the stored value, or what it shows of its block. -/
def State.view (s : State) (r : Reg) (i : Nat) : RegVal :=
  let v := s.reg r i
  let n := fun (x : Nat) => BitVec.ofNat 320 x
  match r with
  | .quayPilotStatus =>
    n ((s.eng.ctxs.filter (fun e => decide (e.1 < 8192) && e.1 / 512 == i)).length + Nat.min (s.quay i).waiting.length 1024 * 2 ^ 16)
  | .quayFragStatus => n s.tab.frag.length
  | .tblEmStatus => n (s.emUnits + s.emStashUsed * 2 ^ 20)
  | .tblLpmStatus => n (s.lpmUnits + s.lpmSpareFree * 2 ^ 32)
  | .ledgerSliceStatus => n (s.sliceStatus i)
  | .ledgerSliceRecords => n (s.sliceRecords i)
  | .bufPoolStatus => n (s.poolFree i + s.poolSubMin i * 2 ^ 21)
  | .bufSharedStatus => n (s.sharedS.toNat % 2 ^ 21 + s.sharedF.toNat % 2 ^ 21 * 2 ^ 21)
  | .bufCntReadIdle => n ((v.setWidth 64).toNat + (s.coreClk - Tab.getD s.tm.readEnd i 0))
  | .tmGclStatus => n (s.gclStatus i)
  | .portStatus => putBits v 3 1 (s.lpiAble (portOf i)).toNat
  | .timeTbStatus => putBits v 32 32 (s.lockedS i)
  | .timeTbNow => (s.nowOf i).setWidth 320
  | .timeTlNow => (s.nowOf 15).setWidth 320
  | .timeTxtsData => match s.txts i with | e :: _ => n (leNat (txtsBytes e)) | [] => 0
  | .timeTxtsStatus => putBits v 0 7 (s.txts i).length
  | .cmdUcInfo => putBits v 32 7 ((List.range 64).filter (fun m => s.bit F.cmdUcMatch_en m)).length
  | .cmdEngineStatus => n (s.engineStatus i)
  | .hborStatus => putBits v 16 13 s.hbRoom
  | .sysStatus => putBits v 19 1 s.safeOk.toNat
  | .sealRunning => n (s.sealView i)
  | _ => v

/-- The bits of a register whose fields have an access code that `p` picks. -/
def RegRow.bits (w : RegRow) (p : Acc → Bool) : RegVal :=
  BitVec.ofNat 320 (w.fields.foldl (fun a f => if p f.acc then a ||| ((2 ^ f.len - 1) * 2 ^ f.lo) else a) 0)

/-! ### Reads -/

/-- Clear the RC fields of a register that has been read (R6). -/
def State.clearRc (s : State) (r : Reg) (i : Nat) : State :=
  let m := r.row.bits (· == .rc)
  let s := if r = .bufCntReadIdle then
      { s with tm := { s.tm with readEnd := Tab.put s.tm.readEnd i (Nat.max s.coreClk (Tab.getD s.tm.readEnd i 0)) } } else s
  if s.reg r i &&& m = 0 then s else s.setReg r i (s.reg r i &&& ~~~m)

/-- The snapshot that a read of TM_LAT_COUNT takes (R264). -/
def State.latSnap (s : State) (k : Nat) : State :=
  let l := Tab.getD s.tm.lat k {}
  let s := s.setReg .tmLatCount k (BitVec.ofNat 320 (l.count % 2 ^ 48 + (decide (l.count < 64)).toNat * 2 ^ 63))
  let s := ((s.set F.tmLatMin_value k l.least).set F.tmLatMax_value k l.most).set F.tmLatSum_value k l.sum
  (List.range 16).foldl (fun s b => s.set F.tmLatBin_value (k * 16 + b) (Tab.getD l.bins b 0)) s

/-- Which base a NOW register shows. -/
def nowBase (r : Reg) (i : Nat) : Option Nat :=
  match r with
  | .timeTbNow => some i
  | .timeTlNow => some 15
  | _ => none

/-- The whole value that a read of `n` bytes from byte `b` of a register draws on, with the latches it sets (R264, R294, R306). -/
def State.drawReg (s : State) (r : Reg) (i b n master : Nat) : State × RegVal :=
  match nowBase r i with
  | some base =>
    let k := master * 16 + base
    if b = 0 then
      let v := s.nowOf base
      ({ s with time := { s.time with latches := Tab.put s.time.latches k v } }, v.setWidth 320)
    else (s, (Tab.getD s.time.latches k 0).setWidth 320)
  | none =>
    if r = .timeTxtsData then
      let head := (s.view r i).setWidth 256
      let s := if b < 8 then { s with time := { s.time with txLatch := Tab.put s.time.txLatch i head } } else s
      let v := Tab.getD s.time.txLatch i 0
      let s := if 24 < b + n ∧ v = head ∧ v ≠ 0 then s.txtsPop i else s
      (s, v.setWidth 320)
    else if r = .tmLatCount then let s := s.latSnap i; (s, s.reg r i)
    else if r = .sealRunning ∧ s.get F.sealCtl_state i = suBUSY then (s.useFree, s.view r i)
    else if r = .sysDrydockPort ∧ s.get F.sysDrydockPort_loop i = 3 then (s.useFree, putBits (s.view r i) 32 32 s.freeVal.toNat)
    else (s, s.view r i)

/-- A read of `n` bytes at BAR0 offset `off` by master `master`: an unimplemented address reads 0, write-only fields read 0. -/
def State.regRead (s : State) (off n master : Nat) : State × RegVal :=
  match findReg off with
  | none => (s, 0)
  | some (r, i, b) =>
    let d := s.drawReg r i b n master
    let v := (d.2 &&& ~~~(r.row.bits (· == .wo))) >>> (8 * b)
    (d.1.clearRc r i, v &&& BitVec.ofNat 320 (2 ^ (8 * n) - 1))

/-- A read by the host: its value leaves the device. -/
def State.hostRegRead (s : State) (off n : Nat) : State :=
  let r := s.regRead off n 0x50
  r.1.emit (.rdata r.2)

/-- Whether registers can be read: not while the device is held in RESET. -/
def State.readable? (s : State) : Bool := s.modeNo != mRESET

/-- COUNTER_READ_CLEAR (R6): a 64-bit read by the host. -/
def execCounterReadClear (off : BitVec 26) (s : State) : Outc := .next (if s.readable? then s.hostRegRead off.toNat 8 else s)

/-- TM_LAT_COUNT_READ (R264). -/
def execTmLatCountRead (n : Fin 64) (s : State) : Outc :=
  .next (if s.readable? then s.hostRegRead (0xBF0008 + n.val * 0x200) 8 else s)

/-- TIME_NOW_READ (R294): a master reads the low word of a NOW register; the host's value leaves the device. -/
def execTimeNowRead (master : BitVec 8) (b : Option TBase) (s : State) : Outc :=
  .next (
    if s.readable? then
      let off := match b with | some x => 0x100040 + x.val * 0x100 | none => 0x100800
      let r := s.regRead off 8 master.toNat
      if master = 0x50 then r.1.emit (.rdata r.2) else r.1
    else s)

/-- TXTS_DATA_READ (R306): the host reads one word of a port's FIFO. -/
def execTxtsDataRead (p : Port) (word : Fin 4) (s : State) : Outc :=
  .next (if s.readable? then s.hostRegRead (0x104000 + p.val * 0x40 + word.val * 8) 8 else s)

end Sys2Proof.Machine
end

