-- ==== Sys2Proof/Machine/RegWrite.lean ====
section
/-!
DEFINITION. Machine/RegWrite.lean: writes of registers, directly or through SET (R6, R55, R340): the modes that accept them, locked
fields, values that a register refuses or stores otherwise, and what a write sets off.
-/
namespace Sys2Proof.Machine

/-- How a write reaches a register: directly, from the PF or not, or through SET. -/
inductive Via
  | direct (pf : Bool)
  | set (iss : Issuer)
  deriving DecidableEq, Repr

def Via.isSet : Via → Bool
  | .set _ => true
  | .direct _ => false

/-- What a write gives: a new state, or a refusal; a direct write that is refused is ignored. -/
inductive Wrote
  | ok (s : State)
  | no (status : Nat)

/-- A field of a register value. -/
def fv (v : RegVal) (f : Fld) : Nat := (v.extractLsb' f.lo f.len).toNat
/-- The bits of a field. -/
def fmask (f : Fld) : RegVal := BitVec.ofNat 320 ((2 ^ f.len - 1) * 2 ^ f.lo)
/-- The bits of some fields. -/
def fmasks (l : List Fld) : RegVal := l.foldl (fun a f => a ||| fmask f) 0
/-- A field raised to a least value. -/
def fmin (f : Fld) (lo : Nat) (v : RegVal) : RegVal := if fv v f < lo then putBits v f.lo f.len lo else v

/-! ### Modes -/

/-- The modes that accept direct writes (Table 15.3). -/
def State.directMode (s : State) : Bool := s.modeNo == mMOORED || s.modeNo == mSLACK || s.modeNo == mDRYDOCK
/-- MOORED and DRYDOCK, in which most locked fields open. -/
def State.dockMode (s : State) : Bool := s.modeNo == mMOORED || s.modeNo == mDRYDOCK

/-- Whether channel 0 may be set up: it has no CTL executing or parked (R349). -/
def State.ch0Idle (s : State) : Bool := !(s.inHand 0)

/-- Why the mode or the writer refuses a write of register `r`; none where it is accepted. -/
def State.wModeNo (s : State) (via : Via) (r : Reg) : Option Nat :=
  let m := s.modeNo
  let no := fun (b : Bool) => if b then none else some stBAD_MODE
  match r.row.wmode, via with
  | .never, _ => some stBAD_PARAM
  | .cfg, .direct _ => no s.directMode
  | .cfg, .set _ => none
  | .every, .direct pf => no (m != mRESET && (pf || (r != .sysHborCause && r != .sysReset)))
  | .every, .set (.chan c) => no (r != .sysReset || !((s.chan c.val).loc))
  | .every, .set (.tug _) => no (r != .sysReset)
  | .drydock, _ => no (m == mDRYDOCK)
  | .moored, .direct _ => none
  | .moored, .set _ => some stBAD_MODE
  | .unfence, .direct pf => no (pf && m != mRESET && m != mBOOT && m != mHALT)
  | .unfence, .set _ => none
  | .ch0, .direct pf => no (pf && s.ch0Idle && (m == mMOORED || m == mHARBOUR || m == mDRYDOCK))
  | .ch0, .set iss => no (s.ch0Idle && s.dockMode && iss != .chan 0)

/-! ### Locked fields -/

/-- Whether the ledger holds no record. -/
def State.noRecords (s : State) : Bool := s.led.slices.all (fun e => e.2.recs.isEmpty && e.2.old.isEmpty)
/-- Whether ledger region `g` (0 A, 1 B) is in use. -/
def State.regionUsed (s : State) (g : Nat) : Bool :=
  s.bit F.ledgerCfg_en 0 && (s.get F.ledgerStatus_region 0 == g || s.led.rehash.isSome)
/-- The bank whose register `r` with index `i` is. -/
def bankOf (r : Reg) (i : Nat) : Option Nat :=
  match r with
  | .hborPortCfg | .hborGclHdr => some (i / 130)
  | .hborGcl => some (i / 8320)
  | .hborEntry => some (i / 4096)
  | _ => none

/-- The fields of a register that cannot change now, and the status that SET completes with where it would change them. -/
def State.wHeld (s : State) (r : Reg) (i : Nat) : RegVal × Nat :=
  let all : RegVal := BitVec.ofNat 320 (2 ^ 320 - 1)
  let hold := fun (b : Bool) (m : RegVal) (st : Nat) => if b then (m, st) else ((0 : RegVal), 0)
  match r with
  | .tblEmSeed => hold (!(s.dockMode && s.tab.em.isEmpty)) all stDENIED
  | .tblEmPart =>
    hold (!(s.emEmpty i)) (fmasks [F.tblEmPart_en, F.tblEmPart_wide, F.tblEmPart_keyw, F.tblEmPart_base, F.tblEmPart_log2size]) stBAD_MODE
  | .tblDesc => hold (!(s.dockMode || s.genState (i / 64 == 1) == gSHADOW)) all stGEN_BUSY
  | .ledgerProg => hold (!(s.dockMode || s.genState (i / 256 == 1) == gSHADOW)) all stGEN_BUSY
  | .ledgerCfg => hold (!(s.dockMode && s.noRecords)) all stDENIED
  | .ledgerSeedSlice | .ledgerProgSlice => hold (!(s.dockMode && s.noRecords)) all stBAD_MODE
  | .ledgerRegionA => hold (s.regionUsed 0) all stDENIED
  | .ledgerRegionB => hold (s.regionUsed 1) all stDENIED
  | .bufPoolCfg => hold (!(s.dockMode && s.buf.descs.isEmpty)) (fmask F.bufPoolCfg_rows) stDENIED
  | .bufHbmPool => hold (!(s.dockMode && (s.buf.hbmBufs.all (fun e => e.1 / 2 ^ 22 != i)))) all stDENIED
  | .logCfg => hold (!s.dockMode) (fmasks [F.logCfg_en, F.logCfg_dirBase]) stDENIED
  | .tugSyswdCfg => hold (s.bit F.tugSyswdCfg_en 0) (fmask F.tugSyswdCfg_en) stDENIED
  | .tmAgeProfile => hold (i == 0) all stBAD_PARAM
  | .tmShaperProfile => hold (s.modeNo == mSERVICE) all stBAD_MODE
  | .hborPortCfg | .hborGclHdr | .hborGcl | .hborEntry => hold (bankOf r i == some s.hbBank) all stBAD_MODE
  | _ => (0, 0)

/-! ### Values that are stored otherwise -/

/-- The value that a register stores for one written to it. -/
def wClamp (r : Reg) (i : Nat) (v : RegVal) : RegVal :=
  match r with
  | .quayBwCfg => fmin F.quayBwCfg_burst 1 v
  | .tblEmPart => fmin F.tblEmPart_ageTick 1 (fmin F.tblEmPart_ageLimit 1 v)
  | .tblLearnCfg => fmin F.tblLearnCfg_window 1 v
  | .ledgerRehashRate => fmin F.ledgerRehashRate_rate 1 v
  | .tmQMap => fmin F.tmQMap_weight 1 v
  | .tmSubNode => fmin F.tmSubNode_weight 1 v
  | .tmSvcNode => fmin F.tmSvcNode_weight 1 v
  | .tmClassCfg => fmin F.tmClassCfg_weight 1 v
  | .portPfcWd => fmin F.portPfcWd_wdDetect 1 (fmin F.portPfcWd_wdRestore 1 v)
  | .portPreempt =>
    let v := fmin F.portPreempt_verifyTime 1 v
    if 128 < fv v F.portPreempt_verifyTime then putBits v F.portPreempt_verifyTime.lo F.portPreempt_verifyTime.len 128 else v
  | .timeTbCfg => fmin F.timeTbCfg_stepThr 1 v
  | .timeTbHold => fmin F.timeTbHold_slewMax 1 v
  | .timeDpllCfg => if i = 0 then v ||| 1 else v
  | .timePpsOut => if 2 ≤ i then v &&& ~~~(fmask F.timePpsOut_todEn) else v
  | .timePpsIn => if 2 ≤ i then v &&& ~~~(fmask F.timePpsIn_todEn) else v
  | .tugCoreCfg => fmin F.tugCoreCfg_wdMs 1 v
  | .tugTbaseDefault => v &&& ~~~(255 : RegVal)
  | .hostDmaCfg => fmin F.hostDmaCfg_cplTimeout 1 v
  | .cmdCfg => fmin F.cmdCfg_slice 256 v
  | _ => v

/-! ### Values that a register refuses -/

/-- Two ranges [a, a + m) and [b, b + n) overlap. -/
def meets (a m b n : Nat) : Bool := decide (a < b + n) && decide (b < a + m) && m != 0 && n != 0

/-- The GiB ranges of HBM that registers give: ledger regions A and B, pools HOST and LOG. -/
def State.hbmAreas (s : State) : List (Nat × Nat) :=
  [(s.get F.ledgerRegionA_base 0, s.get F.ledgerRegionA_size 0), (s.get F.ledgerRegionB_base 0, s.get F.ledgerRegionB_size 0),
   (s.get F.bufHbmPool_base 0, s.get F.bufHbmPool_size 0), (s.get F.bufHbmPool_base 1, s.get F.bufHbmPool_size 1)]
/-- Area `k` lies inside HBM and apart from the others (R228). -/
def State.areaOk (s : State) (k : Nat) : Bool :=
  let l := s.hbmAreas
  let a := l.getD k (0, 0)
  decide (a.1 + a.2 ≤ 96) && (List.range 4).all (fun j => j == k || let b := l.getD j (0, 0); !(meets a.1 a.2 b.1 b.2))

/-- The bytes that a table of a form and size takes in its region, for sixteen slices (LEDGER_REGION_A). -/
def tableBytes (form : Bool) (log2 : Nat) : Nat := 16 * (2 ^ log2 * recLen form + 2 ^ (log2 - 2) * 64 + 2 ^ log2 / 8)
/-- Whether a size is one that a form allows. -/
def log2Ok (form : Bool) (log2 : Nat) : Bool := decide (16 ≤ log2) && decide (log2 ≤ (if form then 25 else 24))
/-- The bytes of ledger region `g`. -/
def State.regionBytes (s : State) (g : Nat) : Nat := (if g = 0 then s.get F.ledgerRegionA_size 0 else s.get F.ledgerRegionB_size 0) * 2 ^ 30

/-- Whether an exact-match partition meets R104 and its key width rule. -/
def State.emPartOk (s : State) (p : Nat) : Bool :=
  !(s.bit F.tblEmPart_en p) ||
  (let wide := s.bit F.tblEmPart_wide p
   let kw := s.get F.tblEmPart_keyw p
   let l := s.emL p
   let b := s.get F.tblEmPart_base p
   (if wide then decide (10 ≤ kw) && decide (kw < 20) else decide (kw ≤ 9)) && decide (8 ≤ l) && decide (b + 2 ^ l ≤ 32768)
     && (List.range 16).all (fun q => q == p || !(s.bit F.tblEmPart_en q) || !(meets b (2 ^ l) (s.get F.tblEmPart_base q) (2 ^ s.emL q))))

/-- The parent of an enabled element is one that R232 allows. -/
def State.parentOk (s : State) (e : Nat) : Bool :=
  match s.parentOf e with
  | none => false
  | some p => s.elEn p && !(isSlot p && decide (251040 ≤ p)) && !(decide (e < 131072) && s.bit F.bufQCfg_lossless e && !(isSlot p))

/-- BURST is at least 11 KiB and, with DWRR, at least the largest quantum among the children (R240). -/
def State.burstOk (s : State) (e : Nat) : Bool :=
  decide (11264 ≤ s.elBurst e)
    && (s.elDisc e || (s.childrenOf e).all (fun c => decide (s.elWeight c * 64 * 2 ^ s.elQunit e ≤ s.elBurst e)))

/-- A node is accepted (R232, R240). -/
def State.nodeOk (s : State) (e : Nat) : Bool :=
  (if s.elEn e then s.parentOk e else (s.childrenOf e).isEmpty) && s.burstOk e

/-- The class slots of port `p` as children of the port for R240; queues and nodes below them. -/
def State.portTreeOk (s : State) (p : Nat) : Bool :=
  let slots := (List.range 8).map (elSlot p)
  (s.bit F.tmPortCfg_en p || slots.all (fun e => ((s.childrenOf e).filter (fun c => !(isQueue c) || decide (c < 131072))).isEmpty))
    && decide (11264 ≤ s.elBurst (elPort p))
    && (s.elDisc (elPort p) || slots.all (fun c => decide (s.elWeight c * 64 * 2 ^ s.elQunit (elPort p) ≤ s.elBurst (elPort p))))

/-- The ports that failover group `g` lists. -/
def State.ffPorts (s : State) (g : Nat) : List Nat :=
  if s.bit F.portFfGroup_en g then (List.range (s.get F.portFfGroup_countM1 g + 1)).map (fun m => s.get F.portFfMember_port (g * 8 + m)) else []
/-- No port of group `g` belongs to it twice or to another enabled group (R286). -/
def State.ffOk (s : State) (g : Nat) : Bool :=
  let mine := s.ffPorts g
  mine.all (fun p => decide (p < 130) && mine.count p == 1)
    && (s.regIxs .portFfGroup).all (fun h => h == g || (s.ffPorts h).all (fun p => !(mine.contains p)))

/-- The pool rows of R206, and a shared area that is left (R219). -/
def State.rowsOk (s : State) : Bool :=
  (List.range 4).all (fun p => s.get F.bufPoolCfg_rows p % (if p = 3 then 80 else 16) == 0)
    && decide (s.poolCellsAll ≤ 94208 * 16) && decide (0 < s.sharedS)

/-- The directory's GiB lies outside every pool and ledger region, and the LOG buffers are 1 MiB (R401). -/
def State.logEnOk (s : State) : Bool :=
  let d := s.get F.logCfg_dirBase 0
  s.get F.bufHbmPool_bufsz 1 == 10 && decide (d < 96) && s.hbmAreas.all (fun a => !(meets a.1 a.2 d 1))

/-- Whether DPLL `d` may use the inputs that its registers name: DPLL1's output only while DPLL1 does not run free (R317). -/
def State.dpllOk (s : State) (d : Nat) : Bool :=
  d == 1 || s.get F.timeDpllStatus_state 1 != 0
    || (s.dpllPrio d 10 == 0 && !(s.get F.timeDpllCfg_mode d == 1 && s.get F.timeDpllCfg_force d == 10))

/-- The policies that Table 16.3 allows. -/
def policyOk (v k : Nat) : Bool :=
  let p := v / 2 ^ (2 * k) % 4
  if k = 1 ∨ k = 2 then p == 1 || p == 2 else if k = 8 then p == 2 else p != 3

/-- Whether the value that register `r` would hold (in `t`) is one its map refuses; `s` is the state before. -/
def State.wRefused (s t : State) (r : Reg) (i : Nat) : Bool :=
  match r with
  | .quayParsePolicy => t.get F.quayParsePolicy_lenAct i == 3
  | .tblDesc => !(t.descOk ((t.reg .tblDesc i).setWidth 64))
  | .tblEmPart => !(t.emPartOk i)
  | .tblRange => decide (30 < t.get F.tblRange_off i)
  | .ledgerCfg =>
    !(log2Ok (t.bit F.ledgerCfg_form 0) (t.get F.ledgerCfg_log2rec 0))
      || (t.bit F.ledgerCfg_en 0 && decide (t.regionBytes (t.get F.ledgerStatus_region 0) < tableBytes (t.bit F.ledgerCfg_form 0) (t.get F.ledgerCfg_log2rec 0)))
  | .ledgerRegionA => !(t.areaOk 0)
  | .ledgerRegionB => !(t.areaOk 1)
  | .ledgerRehashRate => decide (8000 < t.get F.ledgerRehashRate_rate 0)
  | .bufPoolCfg => !t.rowsOk
  | .bufHbmPool => !(decide (t.get F.bufHbmPool_bufsz i ≤ 10) && (i != 0 || decide (t.get F.bufHbmPool_size 0 ≤ 4)) && t.areaOk (i + 2))
  | .bufPgCfg => decide (t.sharedS ≤ 0)
  | .bufQCfg => decide (t.sharedS ≤ 0) || (t.bit F.tmQMap_en i && !(t.parentOk i))
  | .tmQMap => t.elEn i && !(t.parentOk i)
  | .tmSubNode => !(t.nodeOk (elSub i))
  | .tmSvcNode => !(t.nodeOk (elSvc i))
  | .tmClassCfg => !(t.burstOk (250000 + i))
  | .tmPortCfg => decide (1000 < t.get F.tmPortCfg_linkHold i) || !(t.portTreeOk i)
  | .tmClassCbs => decide (t.portRate (i / 8) * 1000 < t.get F.tmClassCbs_idleSlope i)
  | .portPbMode =>
    decide (9 < t.get F.portPbMode_mode i)
      || (t.get F.portPbMode_mode i != s.get F.portPbMode_mode i && (List.range 136).any (fun k => (if k < 128 then k / 4 else 32 + (k - 128) / 4) == i && s.bit F.portCfg_en k))
  | .portCfg =>
    let mx := t.get F.portCfg_maxFrame i
    decide (mx < 64) || decide (10240 < mx) || decide (1000 < t.get F.portCfg_linkUpDeb i) || decide (1000 < t.get F.portCfg_linkDownDeb i)
      || (t.get F.portCfg_redRole i == 3 && !(decide (128 ≤ i) || t.pbMode i == 8 || t.pbMode i == 9))
  | .portLpi => t.get F.portLpi_lpiIdle i == 0
  | .portFfGroup => !(t.ffOk i)
  | .portFfMember => decide (129 < t.get F.portFfMember_port i) || !(t.ffOk (i / 8))
  | .timePortCfg =>
    let pr := t.get F.timePortCfg_primary i
    !((t.get F.timePortCfg_stampMask i).testBit (if pr = 15 then 8 else pr)) || (decide (8 ≤ pr) && pr != 15)
  | .timePpsOut => t.get F.timePpsOut_width i == 0 || decide (500000 < t.get F.timePpsOut_width i)
  | .timeDpllCfg | .timeDpllPrio => !(t.dpllOk i)
  | .timeTbHold => decide (100 < t.get F.timeTbHold_slewMax i)
  | .cmdCh0Cfg =>
    let a := t.get F.cmdCh0Cfg_log2Ring 0
    let b := t.get F.cmdCh0Cfg_log2Cq 0
    !(decide (6 ≤ a) && decide (a ≤ 16) && decide (4 ≤ b) && decide (b ≤ 14) && decide (t.get F.cmdCh0Cfg_vector 0 ≤ 1039))
  | .cmdCh0RingBase => t.get F.cmdCh0RingBase_base 0 % 4096 != 0
  | .cmdCh0CqBase => t.get F.cmdCh0CqBase_base 0 % 4096 != 0
  | .cmdTugCq =>
    let n := t.get F.cmdTugCq_log2 i
    !(decide (4 ≤ n) && decide (n ≤ 10) && t.get F.cmdTugCq_base i % 64 == 0)
  | .tugCoreCfg => decide (1000 < t.get F.tugCoreCfg_wdMs i)
  | .tugMboxCfg => decide (29 < t.get F.tugMboxCfg_flag i)
  | .tugExqCfg =>
    let b := t.get F.tugExqCfg_base 0
    let n := t.get F.tugExqCfg_log2 0
    !(b % 256 == 0 && decide (0x100000 ≤ b) && decide (b ≤ 0x8FFF00) && decide (6 ≤ n) && decide (n ≤ 12))
  | .tugSyswdCfg => decide (t.get F.tugSyswdCfg_timeout 0 < 10)
  | .pmcSampleCfg =>
    let n := t.get F.pmcSampleCfg_log2 0
    !(decide (6 ≤ n) && decide (n ≤ 20))
      || (t.bit F.pmcSampleCfg_en 0 && !(t.inRegion 0 (t.get F.pmcSampleCfg_base 0 * 4096) (2 ^ n * 64)))
  | .hostErrVec => decide (1039 < t.get F.hostErrVec_vector 0)
  | .logCfg => t.bit F.logCfg_en 0 && !t.logEnOk
  | .logDriveCfg =>
    t.bit F.logDriveCfg_ready i && !(s.bit F.logDriveCfg_ready i)
      && !(match Tab.get? t.log.ids i with | some d => t.driveFit i d (t.get F.logDriveCfg_slotMib i) | none => false)
  | .hborCfg => t.bit F.hborCfg_armed 0 && !(s.bit F.hborCfg_armed 0) && !s.hbPassed
  | .hborPortCfg => t.get F.hborPortCfg_qlimit i == 0
  | .rasMcPolicy => !((List.range 10).all (policyOk (t.get F.rasMcPolicy_policy 0)))
  | .secAttCtl =>
    t.get F.secAttCtl_dest 0 != s.get F.secAttCtl_dest 0 && !(t.inRegion 0 (t.get F.secAttCtl_dest 0 * 4096) 6360)
  | _ => false

/-! ### What a write sets off -/

/-- The groups' states follow a change of the shared area. -/
def State.pgAll (s : State) : State := s.buf.pgs.foldl (fun (s : State) (e : Nat × PgAcct) => s.pgCheck e.1) s

/-- Copy the device counters to their shadows (R376). -/
def State.pmcShadow (s : State) : State :=
  (List.range 32).foldl (fun s n => s.setReg .pmcCntShadow n (s.reg .pmcCntValue n)) s

/-- An engine returns to service, and its error history is cleared (R347). -/
def State.unfence (s : State) (e : Nat) : State :=
  let s := { s with cmd := { s.cmd with lastMc := Tab.del s.cmd.lastMc e } }
  let c := s.get F.sysHborCause_cause 0
  (s.setBit F.cmdEngineStatus_fenced e false).set F.sysHborCause_cause 0 (c &&& 0b1101111)

/-- Error tree bits whose source still stands read 1 again (R394). -/
def State.errStanding (s : State) : Nat :=
  let fired := decide (s.get F.rasMcStatus_fired 0 ≠ 0)
  let chan := (s.regIxs .hostChErr).any (fun c => s.bit F.hostChErr_valid c)
  let drive := (List.range 4).any (fun r => s.get F.logDriveStatus_state r == 3)
  fired.toNat * 2 ^ 19 + chan.toNat * 2 ^ 12 + drive.toNat * 2 ^ 16

/-- LEDGER_CFG has been written: the table is empty in its new shape, under a seed that the spec does not give. -/
def State.ledgerNew (s : State) : State :=
  let sl := s.led.slices.map (fun (e : Nat × SliceSt) => (e.1, { e.2 with freed := [], fresh := 0, agerPos := 0 }))
  let s := { s with led := { s.led with slices := sl } }
  ((s.set F.ledgerStatus_state 0 (s.get F.ledgerCfg_en 0)).set F.ledgerSeedTable_seed 0 s.freeVal.toNat).useFree

/-- What a stored write of register `r` sets off; `s` is the state before it, `t` the state with the value stored, `raw` the bits
written to write-only fields. -/
def State.wAct (s t : State) (r : Reg) (i : Nat) (raw : RegVal) : State :=
  match r with
  | .quayFragFlush =>
    if raw.getLsbD 0 then { t with tab := { t.tab with frag := [], bad := t.tab.bad.filter (fun b => b.1 != tkFRAG) } } else t
  | .quayBwCfg => { t with tab := { t.tab with bw := Tab.del t.tab.bw i } }
  | .egrMirrorCfg => { t with tab := { t.tab with mirrorCnt := Tab.del t.tab.mirrorCnt i } }
  | .tblEmPart =>
    if s.bit F.tblEmPart_ageEn i = t.bit F.tblEmPart_ageEn i ∧ s.get F.tblEmPart_ageTick i = t.get F.tblEmPart_ageTick i then t
    else { t with tab := { t.tab with agers := Tab.put t.tab.agers i { originNs := t.ns } } }
  | .ledgerCfg => t.ledgerNew
  | .bufPoolCfg | .bufQCfg => t.pgAll
  | .bufPgCfg | .bufPgHdrm => ((t.pgCheck i).xoffUpdate (i / 8)).pgAll
  | .tmShaperProfile => t.shaperChange i true
  | .tmPortCfg =>
    if s.bit F.tmPortCfg_gateEn i = t.bit F.tmPortCfg_gateEn i ∧ s.get F.tmPortCfg_gateBase i = t.get F.tmPortCfg_gateBase i then t
    else { t with tm := { t.tm with ports := Tab.put t.tm.ports i { Tab.getD t.tm.ports i {} with wpPs := 0 } } }
  | .tmLatCfg => ({ t with tm := { t.tm with lat := Tab.del t.tm.lat i } }).latSnap i
  | .portCfg =>
    let p := portOf i
    if s.bit F.portCfg_en i = true ∧ t.bit F.portCfg_en i = false then
      (if t.linkUp p then t.linkDownNow p 5
       else (t.setPortSt p { t.portSt p with condUp := none, condDown := none }).set F.timePortCal_calState p 0)
    else t
  | .portPreempt =>
    let p := portOf i
    if t.bit F.portPreempt_preemptEn i = false then t.setBit F.portStatus_preemptActive i false
    else if s.bit F.portPreempt_preemptEn i = false ∧ t.linkUp p = true then
      let t := t.setPortSt p { t.portSt p with verifyTries := 0, verifySent := none }
      if t.bit F.portPreempt_verifyDis i then t.setBit F.portStatus_preemptActive i true else t
    else t
  | .timeTbCfg =>
    if t.time.tl = false ∨ s.bit F.timeTbCfg_en i = t.bit F.timeTbCfg_en i then t
    else if t.bit F.timeTbCfg_en i then t.startBase i else t.stopBase i
  | .timeDpllCfg | .timeDpllPrio => t.dpllSelect i
  | .cmdCh0Cfg | .cmdCh0RingBase | .cmdCh0CqBase => t.ch0Written
  | .cmdEngineCtl => if raw.getLsbD 0 then t.unfence i else t
  | .cmdTugCq => t.setTport i { t.tport i with cqTail := 0, phase := true }
  | .tugMboxCfg =>
    if s.bit F.tugMboxCfg_en i = false ∧ t.bit F.tugMboxCfg_en i = true then
      { t with tug := { t.tug with mailGen := Tab.put t.tug.mailGen i ((Tab.getD t.tug.mailGen i 0 + 1) % 256) } }
    else t
  | .tugExqCfg =>
    if s.get F.tugExqCfg_base 0 = t.get F.tugExqCfg_base 0 ∧ s.get F.tugExqCfg_log2 0 = t.get F.tugExqCfg_log2 0 then t
    else { t with tug := { t.tug with exqHead := 0, exqTail := 0, exqCount := 0 } }
  | .tugSyswdCfg =>
    if s.bit F.tugSyswdCfg_en 0 = false ∧ t.bit F.tugSyswdCfg_en 0 = true then
      { t with tug := { t.tug with sysDue := some (t.ns + t.get F.tugSyswdCfg_timeout 0 * 1000000) } }
    else t
  | .pmcSnapshot => if raw.getLsbD 0 then t.pmcShadow else t
  | .pmcSampleCfg =>
    if s.get F.pmcSampleCfg_base 0 = t.get F.pmcSampleCfg_base 0 ∧ s.get F.pmcSampleCfg_log2 0 = t.get F.pmcSampleCfg_log2 0 then t
    else (t.set F.pmcSampleTail_index 0 0).set F.pmcSampleHead_index 0 0
  | .hostErrStatus => t.set F.hostErrStatus_block 0 (t.get F.hostErrStatus_block 0 ||| (s.get F.hostErrStatus_block 0 &&& t.errStanding))
  | .logCfg =>
    if s.bit F.logCfg_en 0 = t.bit F.logCfg_en 0 then t
    else if t.bit F.logCfg_en 0 then t.set F.logStatus_state 0 1 else t.set F.logStatus_state 0 0
  | .logDriveCfg =>
    if s.bit F.logDriveCfg_ready i = t.bit F.logDriveCfg_ready i then t
    else if t.bit F.logDriveCfg_ready i then (match Tab.get? t.log.ids i with | some d => t.driveUp i d | none => t)
    else if t.get F.logDriveStatus_state i = 2 then t.set F.logDriveStatus_state i 1 else t
  | .hborCfg =>
    if s.hbBank = t.hbBank then t else (t.set F.hborCfg_bank 0 s.hbBank).hbCheckStart t.hbBank
  | .hborPortCfg | .hborGclHdr | .hborGcl | .hborEntry =>
    { t with hbor := { t.hbor with passed := t.hbor.passed.filter (fun b => some b != bankOf r i) } }
  | .secAttCtl => if raw.getLsbD 0 then t.attestStart else t
  | .sysDrydockPort =>
    if s.get F.sysDrydockPort_loop i = 3 ∧ t.get F.sysDrydockPort_loop i ≠ 3 then
      (t.set F.sysDrydockPort_errors i t.freeVal.toNat).useFree
    else t
  | _ => t

/-! ### The write -/

/-- Write-only fields that are kept as written: PMC_SAMPLE_HEAD, and SEC_OWNER_PROG until its last word comes. -/
def keepsWo (r : Reg) : Bool := r == .pmcSampleHead || r == .secOwnerProg

/-- A fuse register is written (R461): SEC_ARB_ADVANCE acts at once, SEC_OWNER_PROG with the word that holds SLOT, REVOKE0 and LOCK. -/
def State.wFuse (s : State) (fn : Nat) (r : Reg) (m v : RegVal) : State :=
  if r = .secArbAdvance then s.arbAsk fn (v.setWidth 32)
  else
    let s := if fn = 0 ∧ s.modeNo = mMOORED then s.setReg r 0 ((s.reg r 0 &&& ~~~m) ||| (v &&& m)) else s
    if m.getLsbD 256 then
      if v.getLsbD 258 then s.lockAsk fn
      else if v.getLsbD 257 then s.revokeAsk fn
      else s.ownerAsk fn (BitVec.ofNat 256 (s.get F.secOwnerProg_hash 0)) (v.getLsbD 256)
    else s

/-- SEAL_CTL is written (R458): RESET, then START, then FINAL. -/
def State.wSealCtl (s : State) (u : Nat) (v : RegVal) : Wrote :=
  let s := if v.getLsbD 2 then s.sealReset u else s
  if v.getLsbD 0 = true ∧ s.sealStartOk u = false then .no stBAD_PARAM
  else
    let s := if v.getLsbD 0 then s.sealStart u else s
    .ok (if v.getLsbD 1 then s.sealFinal u else s)

/-- Merge a write into a register whose mode accepts it: bits `m` of value `v`. -/
def State.wMerge (s : State) (via : Via) (r : Reg) (i : Nat) (m v : RegVal) : Wrote :=
  let w := r.row
  let old := s.reg r i
  let rw := w.bits (fun a => a == .rw || a == .rwl || (a == .wo && keepsWo r)) &&& m
  let new := wClamp r i ((old &&& ~~~rw) ||| (v &&& rw)) &&& ~~~(v &&& m &&& w.bits (· == .w1c))
  let h := s.wHeld r i
  if via.isSet = true ∧ (new ^^^ old) &&& h.1 ≠ 0 then .no h.2
  else
    let new := (new &&& ~~~h.1) ||| (old &&& h.1)
    let t := s.setReg r i new
    if s.wRefused t r i then .no stBAD_PARAM
    else if h.1 ≠ 0 ∧ new = old ∧ (v &&& m &&& w.bits (· == .wo)) = 0 then .ok s
    else .ok (s.wAct t r i (v &&& m &&& w.bits (· == .wo)))

/-- Write bits `m` of value `v` to register `r` with index `i`; `fn` is the function of a direct write. -/
def State.wReg (s : State) (via : Via) (fn : Nat) (r : Reg) (i : Nat) (m v : RegVal) : Wrote :=
  match s.wModeNo via r with
  | some st => .no st
  | none =>
    match r with
    | .secArbAdvance | .secOwnerProg => .ok (s.wFuse fn r m v)
    | .sysReset => .ok (if (v &&& m) = 0x4B580001 ∧ s.mode.resetHeld = false then s.warmReset else s)
    | .sysHborCause => .ok (s.causeW1c ((v &&& m).toNat % 128))
    | .sealData => if (s.sealRange i).2 ≠ 0 ∨ s.get F.sealCtl_state i = suBUSY then .no stBAD_MODE else .ok (s.sealWord i (v.setWidth 64))
    | .sealCtl => s.wSealCtl i (v &&& m)
    | .sealRunning => if s.sealRestoreOk i then .ok (s.sealRestore i (((s.reg r i &&& ~~~m) ||| (v &&& m)).setWidth 64)) else .no stBAD_MODE
    | .secAttCtl => if v.getLsbD 0 = true ∧ m.getLsbD 0 = true ∧ s.bit F.secAttCtl_busy 0 = true then .no stBAD_MODE else s.wMerge via r i m v
    | .sysDrydockCtl =>
      let x := ((s.reg r i &&& ~~~m) ||| (v &&& m)).toNat % 128
      if s.bit F.sysDrydockStatus_busy 0 then .no stBAD_MODE
      else if s.bistRefused x then .no stBAD_PARAM
      else .ok (s.bistWrite x)
    | _ => s.wMerge via r i m v

/-- Whether an access of `n` bytes from byte `b` meets a field of a register that can be written. -/
def RegRow.writable (w : RegRow) (b n : Nat) : Bool :=
  (w.bits (fun a => a != .ro && a != .rc)) &&& BitVec.ofNat 320 ((2 ^ (8 * n) - 1) * 2 ^ (8 * b)) != 0

/-- A write of `n` bytes at BAR0 offset `off`, bits `m` of value `v`. -/
def State.regPut (s : State) (via : Via) (fn off n : Nat) (m v : RegVal) : Wrote :=
  match findReg off with
  | none => .no stBAD_PARAM
  | some (r, i, b) =>
    if r.row.writable b n then
      let span : RegVal := BitVec.ofNat 320 (2 ^ (8 * n) - 1)
      s.wReg via fn r i ((m &&& span) <<< (8 * b)) ((v &&& span) <<< (8 * b))
    else .no stBAD_PARAM

/-- A direct write: one that is refused is ignored. -/
def State.regWrite (s : State) (fn off n : Nat) (v : RegVal) : State :=
  match s.regPut (.direct (fn == 0)) fn off n (BitVec.ofNat 320 (2 ^ 320 - 1)) v with
  | .ok s => s
  | .no _ => s

end Sys2Proof.Machine
end

