-- ==== Sys2Proof/Machine/RegIo.lean ====
section
/-!
DEFINITION. Machine/RegIo.lean: the commands that write one register, and the C accesses of the tug cores (R55).
-/
namespace Sys2Proof.Machine

/-- Bytes of an access. -/
def accBytes : RegAccess → Nat
  | .w32 => 4
  | .w64 => 8
  | .w128 => 16
  | .w256 => 32
  | .w320 => 40

/-- A direct write by the PF of a whole register. -/
def State.pfWrite (s : State) (r : Reg) (i : Nat) (v : RegVal) : State :=
  match s.wReg (.direct true) 0 r i (BitVec.ofNat 320 (2 ^ r.row.width - 1)) v with
  | .ok s => s
  | .no _ => s

/-- REGISTER_WRITE (R6). -/
def execRegisterWrite (fn : Fn) (off : BitVec 26) (n : RegAccess) (v : RegVal) (s : State) : Outc :=
  .next (s.regWrite fn.val off.toNat (accBytes n) v)

/-- QUAY_FRAG_FLUSH (R88). -/
def execQuayFragFlush (v : BitVec 32) (s : State) : Outc := .next (s.pfWrite .quayFragFlush 0 (v.setWidth 320))
/-- QUAY_BW_CFG_WRITE (R91). -/
def execQuayBwCfgWrite (c : Fin 64) (v : Word) (s : State) : Outc := .next (s.pfWrite .quayBwCfg c.val (v.setWidth 320))
/-- EGR_MIRROR_CFG_WRITE (R202). -/
def execEgrMirrorCfgWrite (n : Fin 16) (v : Word) (s : State) : Outc := .next (s.pfWrite .egrMirrorCfg n.val (v.setWidth 320))
/-- TM_LAT_CFG_WRITE (R264). -/
def execTmLatCfgWrite (n : Fin 64) (v : Word) (s : State) : Outc := .next (s.pfWrite .tmLatCfg n.val (v.setWidth 320))
/-- PMC_SNAPSHOT (R376). -/
def execPmcSnapshot (v : BitVec 32) (s : State) : Outc := .next (s.pfWrite .pmcSnapshot 0 (v.setWidth 320))
/-- PMC_SAMPLE_HEAD (R377). -/
def execPmcSampleHead (v : BitVec 32) (s : State) : Outc := .next (s.pfWrite .pmcSampleHead 0 (v.setWidth 320))
/-- HOST_ERR_STATUS_CLEAR (R394). -/
def execHostErrStatusClear (v : BitVec 32) (s : State) : Outc := .next (s.pfWrite .hostErrStatus 0 (v.setWidth 320))
/-- SYS_HBOR_CAUSE_CLEAR (R439). -/
def execSysHborCauseClear (v : BitVec 32) (s : State) : Outc := .next (s.pfWrite .sysHborCause 0 (v.setWidth 320))
/-- HBOR_BANK_SWITCH (R433). -/
def execHborBankSwitch (v : Word) (s : State) : Outc := .next (s.pfWrite .hborCfg 0 (v.setWidth 320))
/-- LOG_ENABLE (R414). -/
def execLogEnable (v : Word) (s : State) : Outc := .next (s.pfWrite .logCfg 0 (v.setWidth 320))
/-- DRIVE_READY (R410): what the drive's namespace reports decides whether READY is accepted. -/
def execDriveReady (r : Fin 4) (id : DriveId) (v : Word) (s : State) : Outc :=
  .next (({ s with log := { s.log with ids := Tab.put s.log.ids r.val id } }).pfWrite .logDriveCfg r.val (v.setWidth 320))
/-- CMD_ENGINE_UNFENCE (R347). -/
def execCmdEngineUnfence (e : Engine) (s : State) : Outc := .next (s.pfWrite .cmdEngineCtl e.val 1)
/-- MBOX_ENABLE (R366). -/
def execMboxEnable (m : Mbox) (v : BitVec 32) (s : State) : Outc := .next (s.pfWrite .tugMboxCfg m.val (v.setWidth 320))

/-! ### C accesses (R55) -/

/-- Whether a register is one whose supervisor stores are accepted in every mode: the interrupt controls and PMC_SAMPLE_HEAD. -/
def anyModeReg (off : Nat) : Bool :=
  match findReg off with
  | some (.hostErrStatus, _, _) | some (.hostErrMask, _, _) | some (.rasMcStatus, _, _) | some (.pmcSampleHead, _, _) => true
  | _ => false

/-- An accepted C store of `n` bytes at offset `a`. A device counter written in the clock that counts the storing instruction keeps the
written value: the increment is lost and counted, and OVF is still set where it would have carried (R376). -/
def State.cStore (s : State) (t : Core) (a n : Nat) (v : Word) : State :=
  let put := fun (s : State) =>
    match s.regPut (.direct false) 64 a n (BitVec.ofNat 320 (2 ^ 320 - 1)) (v.setWidth 320) with
    | .ok s => s
    | .no _ => s
  match findReg a with
  | some (.pmcCntValue, i, _) =>
    let s2 := s.tugCount t
    let lost := s2.reg .pmcCntValue i != s.reg .pmcCntValue i
    let u := put s2
    let u := if s2.bit F.pmcCntValue_ovf i && !s.bit F.pmcCntValue_ovf i then u.setBit F.pmcCntValue_ovf i true else u
    (u.bumpIf lost F.pmcCntCollision 0).setTpc t (u.tpc t + 4)
  | _ => (put s).tugDone t

/-- A C access of `n` bytes; `st` is the value stored, none for a load into g[rd]. -/
def cAccess (n : Nat) (t : Core) (rd ra : RegNo) (imm : BitVec 16) (st : Option Word) (s : State) : Outc :=
  .next (s.tugRun t true (fun s =>
    let aw := s.g (.tug t) ra + simm imm
    let a := aw.toNat
    if s.tsup t = false then s.trapHere t tcPRIV aw
    else if a % n ≠ 0 then s.trapHere t tcMISALIGN aw
    else if 64 * 2 ^ 20 ≤ a then s.trapHere t tcD_FAULT aw
    else
      match st with
      | none => let r := s.regRead a n t.val; (r.1.setG (.tug t) rd (r.2.setWidth 64)).tugDone t
      | some v =>
        let m := s.modeNo
        if (m = mSERVICE ∨ m = mHARBOUR ∨ m = mBOOT) ∧ anyModeReg a = false then s.trapHere t tcC_DENIED aw
        else s.cStore t a n v))

/-- LDC (R55). -/
def execLdc (t : Core) (rd ra : RegNo) (imm : BitVec 16) (s : State) : Outc := cAccess 4 t rd ra imm none s
/-- STC (R55). -/
def execStc (t : Core) (rd ra : RegNo) (imm : BitVec 16) (s : State) : Outc := cAccess 4 t rd ra imm (some (s.g (.tug t) rd)) s
/-- LDCD (R55). -/
def execLdcd (t : Core) (rd ra : RegNo) (imm : BitVec 16) (s : State) : Outc := cAccess 8 t rd ra imm none s
/-- STCD (R55). -/
def execStcd (t : Core) (rd ra : RegNo) (imm : BitVec 16) (s : State) : Outc := cAccess 8 t rd ra imm (some (s.g (.tug t) rd)) s

end Sys2Proof.Machine
end

