-- ==== Sys2Proof/Machine/Ctl.lean ====
section
/-!
DEFINITION. Machine/Ctl.lean: what the control instructions share (R57, R328, R338): what one turn of an engine makes of a CTL, its
issuer's function, memory and rights, and its operands.
-/
namespace Sys2Proof.Machine

/-- What one turn makes of a CTL: it completes with a status, a progress and result words; it parks until a condition holds (R341);
it stays with its engine (R336); or it ends without a completion. -/
inductive CtlOut
  | done (s : State) (status progress : Nat) (res : List Word)
  | wait (s : State) (c : Ctl)
  | more (s : State) (c : Ctl)
  | gone (s : State)

/-- What one control instruction does in a turn. -/
abbrev CtlFn := Issuer → Ctl → State → CtlOut

/-- BAD_PARAM, with the index of the failing operand word as progress (Table 11.3). -/
def ctlBad (s : State) (i : Nat) : CtlOut := .done s stBAD_PARAM i []
/-- A completion without results. -/
def ctlEnd (s : State) (status : Nat) : CtlOut := .done s status 0 []
/-- OK with result words. -/
def ctlOk (s : State) (res : List Nat) : CtlOut := .done s stOK 0 (res.map (BitVec.ofNat 64))
/-- A status with result words. -/
def ctlRes (s : State) (status : Nat) (res : List Nat) : CtlOut := .done s status 0 (res.map (BitVec.ofNat 64))
/-- The CTL parks; it has started. -/
def ctlWait (s : State) (c : Ctl) : CtlOut := .wait s { c with started := true }

/-! ### The issuer -/

/-- The function whose channel or port this is: tug ports act for the PF. -/
def State.issFn (s : State) : Issuer → Nat
  | .chan c => s.chanFn c.val
  | .tug _ => 0
/-- Whether addresses are D addresses: those of a tug port and of a LOCAL channel. -/
def State.issLocal (s : State) : Issuer → Bool
  | .chan c => (s.chan c.val).loc
  | .tug _ => true
/-- Whether the issuer is RESTRICTED (R328, R334). -/
def State.issRestricted (s : State) (iss : Issuer) (c : Ctl) : Bool :=
  match iss with
  | .chan d => s.bit F.cmdChState_restricted d.val
  | .tug _ => !c.sup
/-- The requester's master ID: 0x50 for a host channel, the core's for a tug port, core 0's for a LOCAL channel (R339). -/
def State.issMaster (s : State) : Issuer → Nat
  | .chan c => if (s.chan c.val).loc then 0 else 0x50
  | .tug t => t.val

/-! ### Memory named by an operand (Table 11.5) -/

/-- Whether `n` bytes at an operand's address exist: any host address, or memory of the D map. -/
def State.ctlMemOk (s : State) (iss : Issuer) (a n : Nat) : Bool :=
  !(s.issLocal iss) || n == 0 || (match dReg a n with
    | .loc | .shared | .remote => true
    | .hbm => !s.hbmFailed
    | _ => false)

/-- Read bytes that an operand names. -/
def State.ctlRead (s : State) (iss : Issuer) (a n : Nat) : State × List Byte :=
  match iss with
  | .chan c => (s.chGot c.val a n, s.chRead c.val a n)
  | .tug t => (s, s.dRead t.val a n)

/-- Write bytes where an operand says. -/
def State.ctlWrite (s : State) (iss : Issuer) (a : Nat) (l : List Byte) : State :=
  match iss with
  | .chan c => s.chPut c.val a l
  | .tug t => s.dWrite t.val a l

/-! ### Completing a CTL (R331-R333, R343, R345) -/

/-- A failed status (R333). -/
def ctlFailed (status : Nat) : Bool := !(status == stOK || status == stEXISTS || status == stNOT_FOUND)

/-- A K word that may not stand in a stream is kept in hand as an instruction of op 0 with this note (R59, R331). -/
abbrev kRefused : Nat := 1

/-- A CTL in hand completes: its completion is written, its engine and wait slot are free, a failure under FAIL_STOP has the rest of
its batch skipped, and its issuer goes back to the list. -/
def State.finish (s : State) (iss : Issuer) (c : Ctl) (status progress : Nat) (res : List Word) : State :=
  let s := s.complete iss c.op c.tag c.slot status progress res c.task (match iss with | .tug _ => some c.sup | .chan _ => none)
  let k := issKey iss
  let s := { s with cmd := { s.cmd with current := Tab.del s.cmd.current k, parked := Tab.del s.cmd.parked k,
                                        engines := s.cmd.engines.filter (fun e => e.2 != iss) } }
  let s := match iss with
    | .chan d =>
      let ch := s.chan d.val
      let fail := ctlFailed status && ch.flag && !(c.op == 0 && c.note == kRefused)
      let s := s.setChan d.val { ch with failing := ch.failing || fail, mute := false }
      ((s.setBit F.cmdChState_parked d.val false).setBit F.cmdChProgress_valid d.val false).closeStep d.val
    | .tug _ => s
  s.joinReady iss

/-- Whether a completion can be written for an issuer now (R332). -/
def State.cqRoom (s : State) (iss : Issuer) : Bool :=
  match iss with
  | .chan d => (s.chan d.val).mute || !(s.cqFull d.val)
  | .tug _ => true

/-- A transition that an issuer's SYS.MODE requested is given up: the named quays resume, and the mode is unchanged. -/
def State.dropTrans (s : State) (iss : Issuer) : State :=
  match s.mode.trans with
  | some t =>
    if t.iss = iss then
      let s := { s with mode := { s.mode with trans := none }, hbor := { s.hbor with draining := none } }
      s.setPaused (s.get F.sysMode_paused 0 &&& Nat.xor 0xFFFF t.mask.toNat)
    else s
  | none => s

/-- The CTL in hand of an issuer. -/
def State.handOf (s : State) (iss : Issuer) : Option Ctl :=
  match Tab.get? s.cmd.parked (issKey iss) with
  | some c => some c
  | none => Tab.get? s.cmd.current (issKey iss)

/-- The result words of a CTL that completes with a status settled from outside: the count of a flush, the mode of a SYS.MODE. -/
def State.settledRes (s : State) (c : Ctl) : List Word :=
  if c.op = 0x045 ∧ c.changed = true then [BitVec.ofNat 64 c.note] else if c.op = 0x00C then [BitVec.ofNat 64 s.modeNo] else []

/-- Stop the CTL in hand of an issuer (R345): it completes with PARTIAL where it has made a visible change, and with ABORTED where
not; while its completion ring is full it waits for room with that status settled. -/
def State.stopCtl (s : State) (iss : Issuer) : State :=
  match s.handOf iss with
  | none => s
  | some c =>
    let st := if c.changed then stPARTIAL else stABORTED
    let s := match iss with | .chan d => s.setChan d.val { s.chan d.val with failing := true } | .tug _ => s
    let s := s.dropTrans iss
    let c := { c with started := true, settled := some st }
    if s.cqRoom iss then s.finish iss c st c.progress (s.settledRes c)
    else { s with cmd := { s.cmd with parked := Tab.upd s.cmd.parked (issKey iss) (fun _ => c),
                                      current := Tab.upd s.cmd.current (issKey iss) (fun _ => c) } }

/-! ### Units -/

/-- The units of work that a resumable routine does before its slice ends: at least one of those left, at most all (R336; how many
the spec does not give: a free value). -/
def State.sliceUnits (s : State) (left : Nat) : Nat := 1 + s.freeVal.toNat % Nat.max left 1

end Sys2Proof.Machine
end

