-- ==== Sys2Proof/Machine/CtlSys.lean ====
section
/-!
DEFINITION. Machine/CtlSys.lean: control instructions of the device itself (Table 11.5, 0x001 to 0x00D, 0x180, 0x181): channels,
abort, waits, registers, modes and the micro-store patch.
-/
namespace Sys2Proof.Machine

/-! ### Channels (R327-R329, Tables 11.2 and 13.7) -/

/-- Whether a vector belongs to a function (R392). -/
def vecOk (fn v : Nat) : Bool :=
  if fn = 0 then decide (v ≤ 1039) else decide (1040 + 16 * (fn - 1) ≤ v) && decide (v ≤ 1055 + 16 * (fn - 1))
/-- Bytes of a ring entry of a channel type. -/
def entBytes (ty : Nat) : Nat := if ty = 1 then 8 else if ty = 4 then 256 else 32
/-- The bits of word 3 that a type does not name (Table 13.7). -/
def w3Reserved (ty w3 : Nat) : Bool :=
  let low := w3 % 2 ^ 40
  match ty with
  | 3 => 2 ^ 4 ≤ low
  | 2 => low / 4 % 64 != 0 || 2 ^ 32 ≤ low || low % 4 == 3
  | 4 => low % 256 != 0 || 2 ^ 32 ≤ low
  | _ => low != 0
/-- Whether rings given for a LOCAL channel lie in tug memory or HBM. -/
def ringOk (loc : Bool) (a n : Nat) : Bool :=
  decide (a % 4096 = 0) && (!loc || (match dReg a n with | .loc | .shared | .remote | .hbm => true | _ => false))

/-- CHAN.OPEN. -/
def opChanOpen : CtlFn := fun iss c s =>
  let w := c.w
  let ty := wf w 0 0 3
  let rs := wb w 0 3
  let k := wf w 0 5 5
  let j := wf w 0 10 5
  let fn := wf w 0 26 6
  let loc := wb w 0 32
  if s.issRestricted iss c = true ∧ (rs = false ∨ fn ≠ s.issFn iss) then ctlEnd s stDENIED
  else if 2 ^ 33 ≤ wd w 0 ∨ ty = 0 ∨ 5 < ty ∨ k < 6 ∨ 16 < k ∨ (ty = 1 ∧ (j < 4 ∨ 14 < j)) ∨ (fn ≠ 0 ∧ rs = false)
      ∨ vecOk fn (wf w 0 15 11) = false then ctlBad s 0
  else if ringOk loc (wd w 1) (2 ^ k * entBytes ty) = false then ctlBad s 1
  else if ty = 1 ∧ ringOk loc (wd w 2) (2 ^ j * 64) = false then ctlBad s 2
  else if w3Reserved ty (wd w 3) then ctlBad s 3
  else
    match (List.range 1024).find? (fun i => i != 0 && s.chanState i == 0) with
    | none => ctlEnd s stNO_ROOM
    | some i =>
      let gen := (s.get F.cmdChState_gen i + 1) % 256
      let s := s.setChan i { ring := wd w 1, cq := wd w 2, log2ring := k, log2cq := j, vector := wf w 0 15 11, loc := loc,
                             flag := wb w 0 4, prefixN := if ty = 2 then wf w 3 0 2 else 0, stallUs := Nat.max 1 (wf w 3 8 24),
                             iq := if ty = 3 then wf w 3 0 4 else 0, irqCount := wf w 3 40 8, irqUs := wf w 3 48 16 }
      let st := 1 + ty * 2 ^ 3 + gen * 2 ^ 7 + rs.toNat * 2 ^ 15 + fn * 2 ^ 16
      let s := ((s.setReg .cmdChState i (BitVec.ofNat 320 st)).setReg .cmdChProgress i 0).setReg .hostChErr i 0
      ctlOk (s.zeroG (.chan ⟨i % 1024, Nat.mod_lt _ (by decide)⟩)) [handle 1 gen i]

/-- The OPEN channel that a handle operand names. -/
def State.chanOf (s : State) (h : Nat) : Option Nat :=
  if h < 2 ^ 32 ∧ hType h = 1 ∧ hIx h < 1024 ∧ s.chanState (hIx h) = 1 ∧ s.get F.cmdChState_gen (hIx h) = hGen h then some (hIx h) else none

/-- CHAN.CLOSE (R329): it completes after the last completion of the channel it closes. -/
def opChanClose : CtlFn := fun iss c s =>
  if c.started then (if s.chanState c.note = 2 then .wait s c else ctlEnd s stOK)
  else
    match s.chanOf (wd c.w 0) with
    | none => ctlEnd s stBAD_HANDLE
    | some i =>
      if i = 0 ∨ (s.issRestricted iss c = true ∧ s.chanFn i ≠ s.issFn iss) then ctlEnd s stDENIED
      else
        let s := s.closeChan i false
        if s.chanState i = 2 ∧ issKey iss ≠ i then ctlWait s { c with note := i, changed := true } else ctlEnd s stOK

/-- CHAN.INFO. -/
def opChanInfo : CtlFn := fun iss c s =>
  match s.chanOf (wd c.w 0) with
  | none => ctlEnd s stBAD_HANDLE
  | some i =>
    if s.issRestricted iss c = true ∧ s.chanFn i ≠ s.issFn iss then ctlEnd s stDENIED
    else ctlOk s [(s.reg .cmdChState i).toNat, (s.reg .cmdChProgress i).toNat]

/-- The issuer of a key. -/
def keyIss (k : Nat) : Issuer :=
  if k < 1024 then .chan ⟨k % 1024, Nat.mod_lt _ (by decide)⟩ else .tug ⟨k % 16, Nat.mod_lt _ (by decide)⟩

/-- CMD.ABORT (R345): the target stops at once; the abort completes when the target has completed. -/
def opCmdAbort : CtlFn := fun iss c s =>
  if c.started then
    let t := keyIss (c.note / 1024)
    if (match s.handOf t with | some x => x.settled.isSome | none => false) then .wait s c else ctlOk s [c.note % 1024]
  else
    let target : Option Issuer :=
      if wb c.w 1 5 then some (.tug ⟨wf c.w 1 0 4 % 16, Nat.mod_lt _ (by decide)⟩) else (s.chanOf (wd c.w 0)).map keyIss
    match target with
    | none => ctlEnd s stBAD_HANDLE
    | some t =>
      if t = iss then ctlEnd s stNOT_FOUND
      else
        match s.handOf t with
        | none => ctlEnd s stNOT_FOUND
        | some x =>
          let s := s.stopCtl t
          if (s.handOf t).isSome then ctlWait s { c with note := issKey t * 1024 + x.op % 1024, changed := true } else ctlOk s [x.op]

/-! ### Waits (R341) -/

/-- CMD.WAIT: the register is read without being cleared. -/
def opCmdWait : CtlFn := fun iss c s =>
  let n := if wb c.w 0 26 then 8 else 4
  let v := (s.regRead (wf c.w 0 0 26) n (s.issMaster iss)).2.toNat
  match c.settled with
  | some st => ctlRes s st [v]
  | none =>
    if v &&& wd c.w 1 = wd c.w 2 then ctlOk s [v]
    else if c.started then .wait s c
    else ctlWait s { c with untilNs := some (s.ns + wd c.w 3 * 1000) }

/-- BARRIER: every frame dispatched before it started has ended. -/
def opBarrier : CtlFn := fun _ c s =>
  let c := if c.started then c else { c with started := true, note := s.eng.nextFlight, untilNs := s.barrierDue (wd c.w 0) }
  if s.eng.flights.all (fun e => decide (c.note ≤ e.1)) then ctlEnd s stOK else .wait s c

/-! ### Registers (R340) -/

/-- The bytes that a width code gives; none for the reserved code. -/
def widthBytes (code : Nat) : Option Nat := if code = 0 then some 4 else if code = 1 then some 8 else if code = 2 then some 16 else none

/-- The blocks that a RESTRICTED issuer may not read: PMC, SEC, RAS. -/
def deniedBlock (b : Nat) : Bool := b == 0xF || b == 0x12 || b == 0x13

/-- GET. -/
def opGet : CtlFn := fun iss c s =>
  let off := wf c.w 0 0 26
  match widthBytes (wf c.w 0 26 2) with
  | none => ctlBad s 0
  | some n =>
    if s.issRestricted iss c = true ∧ deniedBlock (blockOf off) = true then ctlEnd s stDENIED
    else
      let r := s.regRead off n (s.issMaster iss)
      let v := r.2.toNat
      ctlOk r.1 (if n = 16 then [v % 2 ^ 64, v / 2 ^ 64] else [v])

/-- The operand word that a refused write blames: the address, or the value. -/
def blame (off n : Nat) : Nat :=
  match findReg off with
  | some (r, _, b) => if r.row.writable b n then 1 else 0
  | none => 0

/-- What a SET or SETM that has been written answers: a warm reset leaves nothing to complete; a bank switch waits for its check. -/
def setDone (c : Ctl) (old s : State) : CtlOut :=
  if s.modeNo = mBOOT then .gone s
  else
    match s.hbor.check with
    | some b => if old.hbor.check = some b then ctlEnd s stOK else ctlWait s { c with note := b }
    | none => ctlEnd s stOK

/-- A SET or SETM whose bank switch has been checked: refused where the check failed (R433), ABORTED where a harbour cause ended it. -/
def setResume (c : Ctl) (s : State) : CtlOut :=
  if s.hbor.check.isSome then .wait s c
  else if s.hbBank = c.note then ctlEnd s stOK
  else if s.bit F.hborStatus_bad 0 then ctlBad s 1
  else ctlEnd s stABORTED

/-- SET. -/
def opSet : CtlFn := fun iss c s =>
  if c.started then setResume c s
  else
    let off := wf c.w 0 0 26
    let masked := wb c.w 0 28
    match widthBytes (wf c.w 0 26 2) with
    | none => ctlBad s 0
    | some n =>
      if masked = true ∧ n = 16 then ctlBad s 0
      else if (masked = true ∨ n = 16) ∧ c.w.length < 3 then ctlBad s c.w.length
      else
        let mask := if masked then wd c.w 2 else 2 ^ (8 * n) - 1
        let v := if n = 16 then wd c.w 1 + wd c.w 2 * 2 ^ 64 else wd c.w 1
        match s.regPut (.set iss) (s.issFn iss) off n (BitVec.ofNat 320 mask) (BitVec.ofNat 320 v) with
        | .ok t => setDone c s t
        | .no st => if st = stBAD_PARAM then ctlBad s (blame off n) else ctlEnd s st

/-- The pairs of a SETM from operand word `i`, applied to a trial state; or the status and the word that refuse. -/
def State.setPairs (s : State) (iss : Issuer) (w : List Word) (block : Nat) : Nat → Nat → Except (Nat × Nat) State
  | 0, _ => .ok s
  | k + 1, i =>
    let off := wf w i 0 26
    match widthBytes (wf w i 26 2) with
    | none => .error (stBAD_PARAM, i)
    | some n =>
      if n = 16 ∨ blockOf off ≠ block then .error (stBAD_PARAM, i)
      else
        match s.regPut (.set iss) (s.issFn iss) off n (BitVec.ofNat 320 (2 ^ (8 * n) - 1)) (BitVec.ofNat 320 (wd w (i + 1))) with
        | .ok t => State.setPairs t iss w block k (i + 2)
        | .no st => .error (st, i + blame off n)

/-- SETM: none of its pairs is applied if one fails. -/
def opSetm : CtlFn := fun iss c s =>
  if c.started then setResume c s
  else
    let k := wf c.w 0 0 3
    if k = 0 then ctlBad s 0
    else if c.w.length < 1 + 2 * k then ctlBad s c.w.length
    else
      match s.setPairs iss c.w (blockOf (wf c.w 1 0 26)) k 1 with
      | .ok t => setDone c s t
      | .error (st, i) => if st = stBAD_PARAM then ctlBad s i else ctlEnd s st

/-! ### Modes -/

/-- SYS.MODE: one transition at a time; a second request waits for the first to settle. -/
def opSysMode : CtlFn := fun iss c s =>
  if c.started then .wait s c
  else if s.mode.trans.isSome then .wait s c
  else
    match s.modeAsk (wf c.w 0 0 3) (wf c.w 0 16 16) iss with
    | .no st => if st = stBAD_PARAM then ctlBad s 0 else ctlEnd s st
    | .done t => ctlOk t [t.modeNo]
    | .wait t => if wf c.w 0 0 3 = mHALT then .gone t else ctlWait t c

/-- HARBOUR: the cause COMMAND, with its reason (Table 15.7). -/
def opHarbour : CtlFn := fun _ c s =>
  ctlEnd ((s.set F.sysHborCause_reason 0 (wf c.w 0 0 8)).setCause 5) stOK

/-! ### The micro-store (R342) -/

/-- A field of an image. -/
def imgField (img : List Byte) (o n : Nat) : List Byte := (img.drop o).take n

/-- Whether an image with the given magic and anti-rollback count is accepted (R460, Table 16.7). -/
def State.imageGood (s : State) (magic fuse : Nat) (img : List Byte) : Bool :=
  let vk := imgField img 0x70 1312
  let ok := imgField img 0x590 1312
  let head := img.take 0x1000
  decide (0x3000 ≤ img.length) && leNat (imgField img 0 4) == magic
    && Config.sha3 vk == Config.vrootHash && Config.verify vk head (imgField img 0x1000 2420)
    && leNat (imgField img 0x10 32) == (Config.sha3 (img.drop 0x3000)).toNat
    && (s.ownerActive == 0 || (Config.sha3 ok == s.ownerHash && Config.verify ok head (imgField img 0x1974 2420)))
    && decide (fuse ≤ leNat (imgField img 8 4))

/-- Free values of `n` bits kept at keys 0 upwards. -/
def State.freeTab (s : State) (n : Nat) : Tab (BitVec 136) :=
  (List.range n).map (fun i => (i, (Config.free (s.freeCtr + 3 * i) ++ Config.free (s.freeCtr + 3 * i + 1)
    ++ (Config.free (s.freeCtr + 3 * i + 2)).setWidth 8)))

/-- Steps 3 and 4 of R342: the patch RAM and the match registers are written, and every EN is set. How an image's sections give
their contents is not said: free values. -/
def State.patchLoad (s : State) (ver arb : Nat) (hash : BitVec 256) : State :=
  let ram := s.freeTab 1024
  let s := { s with freeCtr := s.freeCtr + 3072, cmd := { s.cmd with patch := ram },
                    mode := { s.mode with patchArb := arb, patchHash := hash } }
  let s := (List.range 64).foldl (fun (s : State) m =>
    (s.setReg .cmdUcMatch m (BitVec.ofNat 320 (s.freeVal.toNat % 2 ^ 25 + 2 ^ 25))).useFree) s
  s.set F.cmdUcInfo_patchVer 0 ver

/-- Whether every other engine is idle and no wait slot is in use (R342 step 2). -/
def State.patchReady (s : State) (iss : Issuer) : Bool :=
  s.cmd.engines.all (fun e => e.2 == iss) && s.cmd.parked.isEmpty

/-- UCODE.PATCH: `note` keeps the image's version, ARB value and hash while it waits on its engine. -/
def opUcodePatch : CtlFn := fun iss c s =>
  let a := wd c.w 0
  let n := wd c.w 1
  if c.started = false ∧ s.ctlMemOk iss a n = false then ctlBad s 0
  else
    let go : State × Option Ctl :=
      if c.started then (s, some c)
      else
        let r := s.ctlRead iss a n
        if r.1.imageGood 0x5450584B (s.get F.secStatus_arbPatch 0) r.2 then
          (r.1, some { c with started := true, untilNs := s.barrierDue 0,
                              note := leNat (imgField r.2 4 4) + leNat (imgField r.2 8 4) * 2 ^ 32 + leNat (imgField r.2 0x10 32) * 2 ^ 64 })
        else (r.1, none)
    match go with
    | (s, none) => ctlEnd s stDENIED
    | (s, some c) =>
      if s.patchReady iss then
        let s := s.patchLoad (c.note % 2 ^ 16) (c.note / 2 ^ 32 % 2 ^ 32) (BitVec.ofNat 256 (c.note / 2 ^ 64))
        ctlOk s [c.note % 2 ^ 32]
      else .more s c

/-- UCODE.INFO. -/
def opUcodeInfo : CtlFn := fun _ _ s => ctlOk s [(s.view .cmdUcInfo 0).toNat]

end Sys2Proof.Machine
end

