-- ==== Sys2Proof/Machine/CtlTab.lean ====
section
/-!
DEFINITION. Machine/CtlTab.lean: control instructions on the tables (Table 11.5, 0x040 to 0x05D): exact-match, LPM, ternary,
objects (Table 11.6), program stores and generations.
-/
namespace Sys2Proof.Machine

/-! ### Entries that no replica holds well (R133, R135) -/

/-- An entry whose copies all fail their check is absent. -/
def State.deadEntry (s : State) (kind ix : Nat) : Bool := (List.range 4).all (fun g => s.isBad kind g ix)

/-! ### Exact match (R104-R114, R339) -/

/-- A partition that is in use, or BAD_PARAM (R104); with the operand words its key takes from word 1. -/
def State.emOp (s : State) (c : Ctl) (key : Bool) (f : Nat → CtlOut) : CtlOut :=
  let p := wf c.w 0 0 4
  if s.bit F.tblEmPart_en p = false then ctlBad s 0
  else if key = true ∧ c.w.length < 1 + keyWords (s.emKeyLen p) then ctlBad s c.w.length
  else f p

/-- The key of an EM operand. -/
def State.emOpKey (s : State) (c : Ctl) (p : Nat) : List Byte := wkey c.w 1 (s.emKeyLen p)

/-- The present entry of a key. -/
def State.emSeen (s : State) (p : Nat) (key : List Byte) : Option (Nat × EmEntry) :=
  match s.emFind p key with
  | some (ix, e) => if s.deadEntry tkEM ix then none else some (ix, e)
  | none => none

/-- What EM.SEARCH and EM.NEXT say of an entry. -/
def emWords (ix : Nat) (e : EmEntry) : List Nat :=
  [(lkHit ix e.data).toNat, e.age % 8 + e.hit.toNat * 8 + e.static.toNat * 16 + (decide (emStash ≤ ix)).toNat * 32]

/-- EM.INSERT. -/
def opEmInsert : CtlFn := fun _ c s => s.emOp c true (fun p =>
  let key := s.emOpKey c p
  match s.emSeen p key with
  | some (ix, _) => ctlRes s stEXISTS [ix]
  | none =>
    let s := match s.emFind p key with | some (ix, _) => s.delEm ix | none => s
    match s.emPut p key (BitVec.ofNat 40 (wf c.w 0 24 40)) (wb c.w 0 4) with
    | (s, some ix) => ctlOk s [ix]
    | (s, none) => ctlEnd s stTABLE_FULL)

/-- EM.DELETE. -/
def opEmDelete : CtlFn := fun _ c s => s.emOp c true (fun p =>
  match s.emSeen p (s.emOpKey c p) with
  | some (ix, _) => ctlEnd (s.emRemove p ix) stOK
  | none => ctlEnd s stNOT_FOUND)

/-- EM.UPDATE: the data alone change. -/
def opEmUpdate : CtlFn := fun _ c s => s.emOp c true (fun p =>
  match s.emSeen p (s.emOpKey c p) with
  | some (ix, e) => ctlOk (s.setEm ix { e with data := BitVec.ofNat 40 (wf c.w 0 24 40) }) [ix]
  | none => ctlEnd s stNOT_FOUND)

/-- EM.SEARCH. -/
def opEmSearch : CtlFn := fun _ c s => s.emOp c true (fun p =>
  match s.emSeen p (s.emOpKey c p) with
  | some (ix, e) => ctlOk s (emWords ix e)
  | none => ctlEnd s stNOT_FOUND)

/-- EM.NEXT: the first entry of the partition at or after the cursor index. -/
def opEmNext : CtlFn := fun _ c s => s.emOp c false (fun p =>
  match s.tab.em.find? (fun e => e.2.part == p && decide (wf c.w 0 32 32 ≤ e.1) && !(s.deadEntry tkEM e.1)) with
  | some (ix, e) =>
    let k := leNat e.key
    ctlOk s (emWords ix e ++ [k % 2 ^ 64, k / 2 ^ 64 % 2 ^ 64, k / 2 ^ 128])
  | none => ctlEnd s stNOT_FOUND)

/-- The places of a position of R114: the four units of a bucket line, or one stash slot. -/
def State.flushPlaces (s : State) (p x : Nat) : List Nat :=
  let n := 2 ^ s.emL p
  if x < 4 * n then (List.range 4).map (fun u => x / n * 131072 + (s.get F.tblEmPart_base p + x % n) * 4 + u)
  else [emStash + (x - 4 * n)]

/-- Flush `units` positions from `x`: entries of the partition with the port in data [7:0] that are not STATIC go (R114). -/
def State.flushFrom (s : State) (p port : Nat) : Nat → Nat → Nat → State × Nat
  | 0, _, n => (s, n)
  | units + 1, x, n =>
    let r := (s.flushPlaces p x).foldl (fun (a : State × Nat) ix =>
      match Tab.get? a.1.tab.em ix with
      | some e => if e.part = p ∧ e.static = false ∧ e.data.toNat % 256 = port then (a.1.emRemove p ix, a.2 + 1) else a
      | none => a) (s, n)
    State.flushFrom r.1 p port units (x + 1) r.2

/-- Publish the progress of a resumable CTL (R344). -/
def State.publish (s : State) (iss : Issuer) (op x : Nat) : State :=
  match iss with
  | .chan d => ((s.set F.cmdChProgress_progress d.val x).set F.cmdChProgress_op d.val op).setBit F.cmdChProgress_valid d.val true
  | .tug _ => s

/-- EM.FLUSH_PORT: `note` counts the entries deleted. -/
def opEmFlushPort : CtlFn := fun iss c s => s.emOp c false (fun p =>
  let x := if c.started then c.progress else wf c.w 0 32 32
  let total := 4 * 2 ^ s.emL p + 512
  let left := total - x
  let n := Nat.min left (s.sliceUnits left)
  let r := s.useFree.flushFrom p (wf c.w 0 4 8) n x (if c.started then c.note else 0)
  if total ≤ x + n then .done (r.1.publish iss c.op (Nat.max x total)) stOK (Nat.max x total) [BitVec.ofNat 64 r.2]
  else .more (r.1.publish iss c.op (x + n)) { c with started := true, progress := x + n, note := r.2, changed := decide (0 < r.2) })

/-! ### LPM (R119-R122, R339) -/

/-- Address operand: one word for IPv4, high then low for IPv6. -/
def lpmAddr (w : List Word) : BitVec 128 :=
  if wb w 0 12 then BitVec.ofNat 128 (wd w 1 * 2 ^ 64 + wd w 2) else BitVec.ofNat 128 (wd w 1 % 2 ^ 32)

/-- An LPM operation: its operand words and its length are checked. -/
def State.lpmOp (s : State) (c : Ctl) (len : Bool) (f : CtlOut) : CtlOut :=
  let v6 := wb c.w 0 12
  let need := if v6 then 3 else 2
  if c.w.length < need then ctlBad s c.w.length
  else if len = true ∧ (if v6 then 128 else 32) < wf c.w 0 13 8 then ctlBad s 0
  else f

def State.lpmSeen (s : State) (w : List Word) : Option (Nat × LpmEntry) :=
  match s.lpmFind (wf w 0 0 12) (wb w 0 12) (wf w 0 13 8) (lpmAddr w) with
  | some (n, e) => if s.deadEntry tkLPM n then none else some (n, e)
  | none => none

/-- The spare units that a rebuild takes are held for 512 core clocks; how many the spec does not give: a free value (R121). -/
def State.rebuildUnits (s : State) : Nat := 1 + s.freeVal.toNat % 4096
def State.rebuilt (s : State) (n : Nat) : State :=
  { s with tab := { s.tab with spare := s.tab.spare ++ [(n, s.coreClk + 512)] } }
def State.putLpm (s : State) (n : Nat) (e : LpmEntry) : State :=
  ({ s with tab := { s.tab with lpm := Tab.put s.tab.lpm n e } }).unbad tkLPM n
def State.delLpm (s : State) (n : Nat) : State :=
  ({ s with tab := { s.tab with lpm := Tab.del s.tab.lpm n } }).unbad tkLPM n

/-- LPM.INSERT. -/
def opLpmInsert : CtlFn := fun _ c s => s.lpmOp c true (
  let v6 := wb c.w 0 12
  let len := wf c.w 0 13 8
  match s.lpmSeen c.w with
  | some (n, _) => ctlRes s stEXISTS [n]
  | none =>
    let t := match s.lpmFind (wf c.w 0 0 12) v6 len (lpmAddr c.w) with | some (n, _) => s.delLpm n | none => s
    let n := firstFree t.tab.lpm 0
    let units := t.rebuildUnits
    if 3145728 < t.lpmUnits + (if v6 then 8 else 3) ∨ 1048576 ≤ n ∨ t.lpmSpareFree < units then
      ctlEnd (s.useFree.bump F.tblCntLpmFull 0) stTABLE_FULL
    else
      let e : LpmEntry := ⟨wf c.w 0 0 12, v6, len, maskAddr v6 len (lpmAddr c.w), BitVec.ofNat 40 (wf c.w 0 24 40)⟩
      ctlOk ((t.useFree.putLpm n e).rebuilt units) [n])

/-- LPM.DELETE. -/
def opLpmDelete : CtlFn := fun _ c s => s.lpmOp c true (
  match s.lpmSeen c.w with
  | none => ctlEnd s stNOT_FOUND
  | some (n, _) => ctlEnd ((s.useFree.delLpm n).rebuilt (Nat.min s.rebuildUnits s.lpmSpareFree)) stOK)

/-- LPM.SEARCH: the exact prefix, or with LONGEST the longest that covers the whole address. -/
def opLpmSearch : CtlFn := fun _ c s => s.lpmOp c (!(wb c.w 0 21)) (
  let hit := if wb c.w 0 21 then s.lpmBest (wf c.w 0 0 12) (wb c.w 0 12) (lpmAddr c.w) else s.lpmSeen c.w
  match hit with
  | some (n, e) => ctlOk s [(lkHit n e.data).toNat, e.len]
  | none => ctlEnd s stNOT_FOUND)

/-- LPM.NEXT. -/
def opLpmNext : CtlFn := fun _ c s =>
  match s.tab.lpm.find? (fun e => e.2.rt == wf c.w 0 0 12 && e.2.v6 == wb c.w 0 12 && decide (wf c.w 0 32 32 ≤ e.1)
      && !(s.deadEntry tkLPM e.1)) with
  | some (n, e) =>
    let a := e.addr.toNat
    ctlOk s ([(lkHit n e.data).toNat, e.len] ++ (if e.v6 then [a / 2 ^ 64, a % 2 ^ 64] else [a, 0]))
  | none => ctlEnd s stNOT_FOUND

/-! ### Ternary rules (R123-R126) -/

/-- 40 bytes from operand word `i`. -/
def wide320 (w : List Word) (i : Nat) : BitVec 320 := BitVec.ofNat 320 (leNat (wkey w i 40))

/-- TCAM.WRITE. -/
def opTcamWrite : CtlFn := fun _ c s =>
  let ix := wf c.w 0 0 16
  let e : TcamEntry := ⟨wide320 c.w 1, wide320 c.w 6, BitVec.ofNat 40 (wf c.w 0 16 40), true, false⟩
  ctlEnd (({ s with tab := { s.tab with tcam := Tab.put s.tab.tcam ix e } }).unbad tkTCAM ix) stOK

/-- TCAM.READ: value then mask at the address; BAD where a copy is marked so. -/
def opTcamRead : CtlFn := fun iss c s =>
  let ix := wf c.w 0 0 16
  if s.ctlMemOk iss (wd c.w 1) 80 = false then ctlBad s 1
  else
    let e := Tab.getD s.tab.tcam ix ⟨0, 0, 0, false, false⟩
    let bad := (List.range 4).any (fun g => s.isBad tkTCAM g ix)
    let s := s.ctlWrite iss (wd c.w 1) (leBytes 40 e.value.toNat ++ leBytes 40 e.mask.toNat)
    ctlOk s [e.data.toNat + e.valid.toNat * 2 ^ 40 + e.hit.toNat * 2 ^ 41 + bad.toNat * 2 ^ 42]

/-- Clear `n` entries from `ix`. -/
def State.tcamClearFrom (s : State) : Nat → Nat → State
  | 0, _ => s
  | n + 1, ix => State.tcamClearFrom (({ s with tab := { s.tab with tcam := Tab.del s.tab.tcam ix } }).unbad tkTCAM ix) n (ix + 1)

/-- TCAM.CLEAR. -/
def opTcamClear : CtlFn := fun iss c s =>
  let first := wf c.w 0 0 16
  let count := wf c.w 0 16 17
  if count = 0 ∨ 65536 < first + count then ctlBad s 0
  else
    let x := if c.started then c.progress else first
    let left := first + count - x
    let n := Nat.min left (s.sliceUnits left)
    let s := (s.useFree.tcamClearFrom n x).publish iss c.op (x + n)
    if left ≤ n then .done s stOK (x + n) [] else .more s { c with started := true, progress := x + n, changed := true }

/-! ### Objects (Table 11.6) -/

/-- A field of a value's words. -/
def ov (v lo len : Nat) : Nat := v / 2 ^ lo % 2 ^ len

/-- Whether a header type of Table 2.12 may be pushed: TCP and the reserved codes may not (R189). -/
def headTypeOk (t : Nat) : Bool := t != 0 && t != 8 && (decide (t < 16) || (decide (24 ≤ t) && decide (t < 32)))

/-- Whether a template's bytes meet Table 6.3, R185 and R189. -/
def templateOk (b : List Byte) : Bool :=
  let at_ := fun (i : Nat) => (b.getD i 0).toNat
  let heads := (List.range (at_ 97)).map (fun i => (at_ (98 + 2 * i), at_ (99 + 2 * i)))
  let patches := (List.range 4).map (fun i => (at_ (110 + 2 * i), at_ (111 + 2 * i)))
  decide (at_ 96 ≤ 96) && decide (at_ 97 ≤ 6) && heads.all (fun h => headTypeOk h.1)
    && patches.all (fun p => decide (p.2 < 4) && (p.2 == 0 || heads.any (fun h => decide (h.2 ≤ p.1))))
    && (b.drop 118).all (fun x => x == 0)

/-- Whether a value may be written to an object (R339, Tables 4.8, 4.9, 6.2, 6.4, 8.2, R129, R131, R192). -/
def objOk (code v : Nat) : Bool :=
  match code with
  | 1 => decide (v < 2 ^ 44) && ov v 8 1 == 0 && decide (ov v 0 8 ≤ 129) && decide (ov v 26 17 ≤ 131064)
  | 2 => decide (v < 2 ^ 29) && decide (ov v 0 18 + ov v 18 9 ≤ 262143)
  | 3 => decide (v < 2 ^ 18)
  | 4 => decide (v < 2 ^ 131)
  | 5 => decide (v < 2 ^ 28) && decide (ov v 0 18 + ov v 18 10 ≤ 262143)
  | 6 => decide (v < 2 ^ 44) && decide (ov v 0 8 ≤ 129) && decide (ov v 8 17 ≤ 131064)
  | 7 => ov v 25 7 == 0 && ov v 54 74 == 0 && decide (ov v 15 8 ≤ 192)
  | 9 => decide (v < 2 ^ 116)
  | _ => true

/-- Whether an index names an object that can be written. -/
def objIxOk (code ix : Nat) : Bool := decide (ix < objCount code) && !((code == oLIST || code == oREWRITE) && ix == 0)

/-- The parity kind and index of an object's entry. -/
def objParity (code ix : Nat) : Option (Nat × Nat) :=
  match code with
  | 1 => some (tkNH, ix)
  | 2 => some (tkECMP, ix)
  | 3 => some (tkECMP, 16384 + ix)
  | 4 => some (tkZONE, ix)
  | _ => none

/-- Write an object. -/
def State.putObj (s : State) (code ix : Nat) (w : List Word) : State :=
  let k := objKey code ix
  let s := { s with tab := { s.tab with objs := if w = objReset code then Tab.del s.tab.objs k else Tab.put s.tab.objs k w } }
  match objParity code ix with
  | some (kind, n) => s.unbad kind n
  | none => s

/-- A table meter is written: its profile, and its buckets as the profile's INIT says (R246). -/
def State.putMeter (s : State) (ix prof : Nat) : State :=
  let t := (s.tmProf prof).start
  s.putObj oMETER ix (meterWords prof (s.tl64 % 2 ^ 40) t.1 t.2)

/-- OBJ.WRITE. -/
def opObjWrite : CtlFn := fun iss c s =>
  let code := wf c.w 0 0 5
  let ix := wf c.w 0 8 24
  let need := if code = oTEMPLATE then 1 else objWords code
  if objIxOk code ix = false then ctlBad s 0
  else if c.w.length < 1 + need then ctlBad s c.w.length
  else if code = oTEMPLATE then
    if s.ctlMemOk iss (wd c.w 1) 128 = false then ctlBad s 1
    else
      let r := s.ctlRead iss (wd c.w 1) 128
      if templateOk r.2 then ctlEnd (r.1.putObj code ix (keyToWords r.2)) stOK else ctlBad r.1 1
  else
    let w := (c.w.drop 1).take need
    if objOk code (objNat w) = false then ctlBad s 1
    else if code = oMETER then ctlEnd (s.putMeter ix (ov (objNat w) 0 12)) stOK
    else
      let s := s.putObj code ix w
      ctlEnd (if code = oECMP then { s with tab := { s.tab with ecmpSamples := Tab.del s.tab.ecmpSamples ix } } else s) stOK

/-- OBJ.READ. -/
def opObjRead : CtlFn := fun iss c s =>
  let code := wf c.w 0 0 5
  let ix := wf c.w 0 8 24
  if objCount code ≤ ix ∨ (code = oLIST ∧ ix = 0) then ctlBad s 0
  else if code = oTEMPLATE then
    if c.w.length < 2 then ctlBad s c.w.length
    else if s.ctlMemOk iss (wd c.w 1) 128 = false then ctlBad s 1
    else ctlEnd (s.ctlWrite iss (wd c.w 1) ((s.obj code ix).flatMap (fun w => leBytes 8 w.toNat))) stOK
  else .done s stOK 0 (s.obj code ix)

/-! ### Program stores and generations (R63, R136-R139) -/

/-- The first word of a program that the checks of R63 refuse. -/
def State.badWord (s : State) (kind : Nat) (gen compact : Bool) (n i : Nat) : List (BitVec 32) → Option Nat
  | [] => none
  | w :: r =>
    if (match wordInstr (storeCtx kind) w with
        | some ins => ins.wf && s.instrLoads gen compact n i ins && (!r.isEmpty || endsProgram kind ins)
        | none => false) then s.badWord kind gen compact n (i + 1) r
    else some i

/-- The instruction words that bytes spell. -/
def wordsOf : List Byte → Nat → List (BitVec 32)
  | _, 0 => []
  | l, n + 1 => BitVec.ofNat 32 (leNat (l.take 4)) :: wordsOf (l.drop 4) n

/-- Why a load into a generation is refused (R138, R139): a status and the operand word at fault. -/
def State.loadRefused (s : State) (gen : Bool) (h : Nat) : Option Nat :=
  if h = 0 then (if s.dockMode || s.genState gen == gSHADOW then none else some stGEN_BUSY)
  else if hType h ≠ 4 ∨ 1 < hIx h ∨ hGen h ≠ Tab.getD s.tab.genSets (hIx h) 0 then some stBAD_HANDLE
  else if hIx h ≠ gen.toNat then some stBAD_PARAM
  else if s.genState gen = gSHADOW then none
  else some stGEN_BUSY

/-- PROG.LOAD. -/
def opProgLoad : CtlFn := fun iss c s =>
  let kind := wf c.w 0 0 2
  let gen := wb c.w 0 2
  let first := wf c.w 0 4 14
  let n := wf c.w 0 18 14
  let units := wf c.w 2 0 16
  match s.loadRefused gen (wf c.w 2 32 32) with
  | some st => if st = stBAD_PARAM then ctlBad s 2 else ctlEnd s st
  | none =>
    if kind = 3 ∨ storeSize kind < first + n then ctlBad s 0
    else if s.ctlMemOk iss (wd c.w 1) (4 * n) = false then ctlBad s 1
    else
      let r := s.ctlRead iss (wd c.w 1) (4 * n)
      let words := wordsOf r.2 n
      let s := r.1
      match s.badWord kind gen (wb c.w 0 3) n 0 words with
      | some i => ctlBad s i
      | none =>
        let load := s.eng.loads + 1
        let s := { s with eng := { s.eng with loads := load } }
        ctlEnd ((List.range 16).foldl (fun s u =>
          if units = 0 ∨ units.testBit u = true then s.storeWords kind u gen load first words else s) s) stOK

/-- GEN.SWAP: with WAIT it completes when the former set has become SHADOW. -/
def opGenSwap : CtlFn := fun _ c s =>
  if c.started then
    let old := c.note / 256 % 2
    if Tab.getD s.tab.genSets old 0 = c.note % 256 ∧ s.genState (old == 1) = gRETIRING then .wait s c
    else ctlOk s [handle 4 (c.note / 512) (1 - old)]
  else
    let old := s.activeGen
    let new := !old
    if s.genState new ≠ gSHADOW then ctlEnd s stGEN_BUSY
    else
      let h := s.genHandle new
      let cnt := Tab.getD s.tab.genSets old.toNat 0
      let s := ((s.setBit F.tblGenStatus_active 0 new).setGenState new gACTIVE).setGenState old gRETIRING
      let s := s.retireCheck old
      if wb c.w 0 0 = true ∧ s.genState old = gRETIRING then
        ctlWait s { c with note := cnt + old.toNat * 256 + hGen h * 512, changed := true }
      else ctlOk s [h]

end Sys2Proof.Machine
end

