-- ==== Sys2Proof/Machine/CtlFlow.lean ====
section
/-!
DEFINITION. Machine/CtlFlow.lean: control instructions on the ledger and the traffic manager (Table 11.5, 0x080 to 0x0A1).
-/
namespace Sys2Proof.Machine

/-! ### Flow records (R151, R163, R339) -/

/-- The bytes of a record number's form. -/
def State.recForm (s : State) (n : Nat) : Bool :=
  if n < oldOff then s.compact else match s.led.rehash with | some r => r.form | none => s.compact

/-- What FLOW.* answer of a record. -/
def flowWord (sl n : Nat) (e : Rec) : Nat :=
  sl + n % oldOff % 2 ^ 24 * 2 ^ 8 + (recStatic e).toNat * 2 ^ 32 + (recPinned e).toNat * 2 ^ 33

/-- A FLOW operation on a key: the key is checked, and the CTL waits while the key's berth-lock is held (R163). -/
def State.flowOp (s : State) (c : Ctl) (f : Nat → Nat → List Byte → CtlOut) : CtlOut :=
  let len := wf c.w 0 0 5 + 1
  let prog := wf c.w 0 5 8
  if s.bit F.ledgerCfg_en 0 = false ∨ keyMax s.compact < len then ctlBad s 0
  else if c.w.length < 2 + keyWords len then ctlBad s c.w.length
  else
    let key := wkey c.w 2 len
    let sl := s.sliceOf prog key
    if s.lockHeld sl (s.hsOf key) then ctlWait s c else f prog sl key

/-- An HBM access of a record that is not in the flow cache. -/
def State.recHbm (s : State) (sl n : Nat) (e : Rec) (write : Bool) : State :=
  if e.cached then s else s.ledHbm sl (recLen (s.recForm n)) write

/-- FLOW.READ. -/
def opFlowRead : CtlFn := fun iss c s => s.flowOp c (fun _ sl key =>
  match (s.slice sl).findKey key with
  | none => ctlEnd s stNOT_FOUND
  | some (n, e) =>
    let len := recLen (s.recForm n)
    if s.ctlMemOk iss (wd c.w 1) len = false then ctlBad s 1
    else ctlOk ((s.recHbm sl n e false).ctlWrite iss (wd c.w 1) (leBytes len e.img.toNat)) [flowWord sl n e])

/-- The bits of a record that FLOW.WRITE takes from its image: byte 0x03, and bytes 0x10 on but for the key field. -/
def takenMask (compact : Bool) : BitVec 1024 :=
  BitVec.ofNat 1024 (255 * 2 ^ 24 + (if compact then (2 ^ 256 - 1) * 2 ^ 256 else (2 ^ 640 - 1) * 2 ^ 384))
/-- A record with the bytes that FLOW.WRITE takes. -/
def takeImage (compact : Bool) (old img : BitVec 1024) : BitVec 1024 :=
  (old &&& ~~~(takenMask compact)) ||| (img &&& takenMask compact)

/-- FLOW.WRITE: a present record is rewritten; with CREATE an absent one is created, STATIC where asked. -/
def opFlowWrite : CtlFn := fun iss c s => s.flowOp c (fun prog sl key =>
  let place := (s.slice sl).findKey key
  let form := match place with | some (n, _) => s.recForm n | none => s.compact
  let len := recLen form
  if s.ctlMemOk iss (wd c.w 1) len = false then ctlBad s 1
  else
    match place with
    | some (n, e) =>
      let r := s.ctlRead iss (wd c.w 1) len
      let img := r.1.recCommitMeter (takeImage form e.img (BitVec.ofNat 1024 (leNat r.2))) (recWord e.img)
      let img := r.1.commitFields form img
      let s := (r.1.recHbm sl n e false).recHbm sl n e true
      ctlOk (s.setSlice sl ((s.slice sl).updRec n (fun e => { e with img := img, dirty := e.cached }))) [flowWord sl n e]
    | none =>
      if wb c.w 0 13 = false then ctlEnd s stNOT_FOUND
      else
        match s.makePlace sl (s.hsOf key) with
        | none => ctlWait s c
        | some t =>
          match t.reserveRoom sl key with
          | (_, none) => ctlEnd s stNO_ROOM
          | (t, some (n, stash)) =>
            let r := t.ctlRead iss (wd c.w 1) len
            let img := r.1.recCommitMeter (takeImage form (blankRec form key) (BitVec.ofNat 1024 (leNat r.2))) 0
            let img := putBits img 1 1 (wb c.w 0 14).toNat
            let t := r.1.createRec sl n stash key (r.1.commitFields form (r.1.createFields form prog key img))
            ctlOk t [sl + n % 2 ^ 24 * 2 ^ 8 + (wb c.w 0 14).toNat * 2 ^ 32])

/-- FLOW.DELETE. -/
def opFlowDelete : CtlFn := fun _ c s => s.flowOp c (fun _ sl key =>
  match (s.slice sl).findKey key with
  | none => ctlEnd s stNOT_FOUND
  | some (n, _) => ctlEnd (s.recDelete sl n 4) stOK)

/-- The records pinned in a set. -/
def SliceSt.pinnedIn (v : SliceSt) (st : Nat) : Nat :=
  ((v.recs ++ v.old).filter (fun e => recPinned e.2 && setOf e.2.hs == st)).length

/-- FLOW.PIN: a pinned record is brought into the flow cache and stays there; at most two ways, or four compact places, of a set
(R151). -/
def opFlowPin : CtlFn := fun _ c s => s.flowOp c (fun _ sl key =>
  match (s.slice sl).findKey key with
  | none => ctlEnd s stNOT_FOUND
  | some (n, e) =>
    let put := fun (s : State) (b : Bool) =>
      s.setSlice sl ((s.slice sl).updRec n (fun e => { e with img := putBits e.img 2 1 b.toNat, cached := e.cached || b }))
    let ans := fun (s : State) => ctlEnd s stOK
    if wb c.w 0 13 then ans (put s false)
    else if recPinned e then ans s
    else if (if s.compact then 4 else 2) ≤ (s.slice sl).pinnedIn (setOf e.hs) then ctlEnd s stNO_ROOM
    else if e.cached then ans (put s true)
    else
      match s.makePlace sl e.hs with
      | none => ctlWait s c
      | some t => ans (put (t.recHbm sl n e false) true))

/-- FLOW.NEXT: the first record of the slice at or after the cursor; with [31] of the old table of a running rehash. -/
def opFlowNext : CtlFn := fun iss c s =>
  let sl := wf c.w 0 0 4
  let cur := wf c.w 0 32 32
  let v := s.slice sl
  let tab := if wb c.w 0 31 then (if s.led.rehash.isSome then v.old else []) else v.recs
  match tab.find? (fun e => decide (cur ≤ e.1) && recReach e.2) with
  | none => ctlEnd s stNOT_FOUND
  | some (m, e) =>
    let n := if wb c.w 0 31 then m + oldOff else m
    let len := recLen (s.recForm n)
    if s.lockHeld sl e.hs then ctlWait s c
    else if s.ctlMemOk iss (wd c.w 1) len = false then ctlBad s 1
    else ctlOk ((s.recHbm sl n e false).ctlWrite iss (wd c.w 1) (leBytes len e.img.toNat)) [flowWord sl n e]

/-! ### Rehash (R174-R176) -/

/-- A berth's record numbers when its table becomes the old one. -/
def BerthSt.toOld (b : BerthSt) : BerthSt :=
  { b with recNo := if b.newRec then none else b.recNo.map (· + oldOff), candidates := b.candidates.map (· + oldOff),
           phase := match b.phase with | .recordRead n => .recordRead (n + oldOff) | p => p }

/-- A slice turns to the new table: its records become the old table's, and the reservations of its berths are taken anew. -/
def State.sliceTurn (s : State) (sl : Nat) : State :=
  let v := s.slice sl
  let held : Tab Rec := v.recs.map (fun (e : Nat × Rec) => (e.1, { e.2 with writing := false }))
  let berths : Tab BerthSt := v.berths.map (fun (e : Nat × BerthSt) => (e.1, e.2.toOld))
  let s := s.setSlice sl { v with old := held, recs := [], freed := [], fresh := 0, writes := [], agerPos := 0, migrate := 0,
                                  migrated := 0, berths := berths }
  (v.berths.filter (fun e => e.2.newRec && e.2.recNo.isSome)).foldl (fun (s : State) (e : Nat × BerthSt) =>
    match s.reserveRoom sl e.2.key, s.berth? sl e.1 with
    | (s, some (n, stash)), some b => s.setBerth sl e.1 { b with recNo := some n, viaStash := stash }
    | (s, none), some b => s.setBerth sl e.1 { b with noRoom := true, status := stNO_ROOM }
    | (s, _), none => s) s

/-- LEDGER.REHASH: it completes once the rehash has started. -/
def opLedgerRehash : CtlFn := fun _ c s =>
  let log2 := wf c.w 0 0 5
  let form := wb c.w 0 5
  let dest := 1 - s.get F.ledgerStatus_region 0
  if s.bit F.ledgerCfg_en 0 = false ∨ s.led.rehash.isSome = true ∨ log2Ok form log2 = false ∨ s.regionBytes dest < tableBytes form log2 then
    ctlBad s 0
  else if form ≠ s.compact ∧ ¬(s.modeNo = mMOORED ∨ (s.modeNo = mSLACK ∧ s.get F.sysMode_paused 0 = 0xFFFF)) then ctlEnd s stBAD_MODE
  else
    let old := s.shape
    let s := ((s.set F.ledgerCfg_form 0 form.toNat).set F.ledgerCfg_log2rec 0 log2).set F.ledgerSeedTable_seed 0 (wd c.w 1)
    let s := (s.set F.ledgerStatus_region 0 dest).set F.ledgerStatus_state 0 2
    let s := { s with led := { s.led with rehash := some old, doneSlices := [] } }
    ctlEnd ((List.range 16).foldl State.sliceTurn s) stOK

/-! ### Shapers and gate lists (R244, R249, R250) -/

/-- TM.SHAPER: the profile's VERSION is the result. -/
def opTmShaper : CtlFn := fun _ c s =>
  let p := wf c.w 0 0 11
  let old := s.get F.tmShaperProfile_version p
  let v := wd c.w 1 + wf c.w 2 0 56 * 2 ^ 64 + old * 2 ^ 120
  let s := (s.setReg .tmShaperProfile p (BitVec.ofNat 320 v)).shaperChange p (wb c.w 0 11)
  ctlOk s [s.get F.tmShaperProfile_version p]

/-- The change time of a requested list, in 2^-16 ns (R250). -/
def changeTime (l : GateList) (now : Nat) : Nat :=
  let soon := now + 1000 * 65536
  let b := glBase l
  if soon ≤ b then b else b + (soon - b + glCycle l - 1) / glCycle l * glCycle l

/-- A gate control entry meets Table 8.3. -/
def gclEntryOk (e : BitVec 64) : Bool := decide (10 ≤ gcIntv e) && gcOp e != 3 && e.extractLsb' 42 22 == 0

/-- The 64-bit words that bytes spell. -/
def words64 : List Byte → Nat → List (BitVec 64)
  | _, 0 => []
  | l, n + 1 => BitVec.ofNat 64 (leNat (l.take 8)) :: words64 (l.drop 8) n

/-- TM.GCL: the ADMIN list is written and its change requested; with WAIT the CTL completes at the change time. -/
def opTmGcl : CtlFn := fun iss c s =>
  let p := wf c.w 0 0 8
  let ans := fun (t : Nat) => [t / 65536 / 1000000000, t / 65536 % 1000000000]
  if c.started then
    if s.baseT16 (s.gateBase p) < c.note then .wait s c else ctlOk s (ans c.note)
  else
    let n := wf c.w 4 32 9
    if 130 ≤ p then ctlBad s 0
    else if 1000000000 ≤ wf c.w 2 0 32 then ctlBad s 2
    else if wf c.w 3 0 32 < 1000 then ctlBad s 3
    else if n = 0 ∨ 256 < n then ctlBad s 4
    else if s.ctlMemOk iss (wd c.w 5) (8 * n) = false then ctlBad s 5
    else
      let r := s.ctlRead iss (wd c.w 5) (8 * n)
      let es := words64 r.2 n
      if es.all gclEntryOk = false then ctlBad r.1 5
      else
        let l : GateList := ⟨wd c.w 1, wf c.w 2 0 32, wf c.w 3 0 32, wf c.w 3 32 16, wf c.w 4 0 32, es⟩
        let s := r.1
        let t := changeTime l (s.baseT16 (s.gateBase p))
        let s := (s.setGate p { s.gate p with admin := some l, change16 := some t }).setBit F.tmPortStatus_gclPending p true
        if wb c.w 0 8 then ctlWait s { c with note := t, changed := true } else ctlOk s (ans t)

end Sys2Proof.Machine
end

