-- ==== Sys2Proof/Machine/CtlMisc.lean ====
section
/-!
DEFINITION. Machine/CtlMisc.lean: control instructions of time, the harbour log, tasks, mailboxes and HBM buffers (Table 11.5, 0x0C0 to
0x142).
-/
namespace Sys2Proof.Machine

/-! ### Time bases (R308-R314) -/

/-- The base of a TIME operand, or BAD_PARAM for a code above 7. -/
def baseOp (c : Ctl) (s : State) (f : Nat → CtlOut) : CtlOut :=
  let b := wf c.w 0 0 4
  if 8 ≤ b then ctlBad s 0 else f b

/-- TIME.MEAS: a base fed by a PPS input refuses it (R308). -/
def opTimeMeas : CtlFn := fun _ c s => baseOp c s (fun b =>
  if s.get F.timeTbCfg_src b ≠ 0 then ctlBad s 0
  else
    let t : Stamp := BitVec.ofNat 128 (wd c.w 1 + wd c.w 2 * 2 ^ 64)
    ctlEnd (s.measure b (ktsEpoch t) (kts16 t) (c.w.getD 3 0).toInt (c.w.getD 4 0).toInt none) stOK)

/-- TIME.MASTER: the base goes into HOLDOVER with HCAUSE MASTER (R310). -/
def opTimeMaster : CtlFn := fun _ c s => baseOp c s (fun b =>
  ctlEnd (if (s.base b).running then s.holdover b hMASTER false else s) stOK)

/-- Whether a base is held for a jump, or isolated. -/
def State.heldJump (s : State) (b : Nat) : Bool :=
  s.servo b == sHOLDOVER
    && (s.bit F.timeTbStatus_jumpPending b || s.get F.timeTbStatus_hcause b == hJUMP || s.get F.timeTbStatus_hcause b == hISOLATED)

/-- TIME.ACCEPT: SUSPECT takes the path as it is now (R314); a held jump is stepped or slewed at the next measurement, or kept (R311,
R313, R339). -/
def opTimeAccept : CtlFn := fun _ c s => baseOp c s (fun b =>
  let a := wf c.w 0 4 2
  if a = 3 then ctlBad s 0
  else if s.servo b = sSUSPECT then ctlEnd (s.acceptPath b) stOK
  else if s.heldJump b then
    ctlEnd (if a = 2 then s.lock b (s.theta b) else s.setBase b { s.base b with accept := some (decide (a = 0)) }) stOK
  else ctlBad s 0)

/-- TIME.XG_OPEN: two to eight bases that are in no group (R312). -/
def opTimeXgOpen : CtlFn := fun _ c s =>
  let m := wf c.w 0 0 8
  let l := (List.range 8).filter (fun b => m.testBit b)
  if l.length < 2 ∨ l.any (fun b => (s.groupOf b).isSome) = true then ctlBad s 0
  else
    match (List.range 4).find? (fun g => !(s.bit F.timeXgCfg_en g)) with
    | none => ctlEnd s stNO_ROOM
    | some g =>
      let gen := ((s.xg g).gen + 1) % 256
      let s := s.setXg g { gen := gen }
      ctlOk ((s.set F.timeXgCfg_members g m).setBit F.timeXgCfg_en g true) [handle 6 gen g]

/-- TIME.XG_CLOSE. -/
def opTimeXgClose : CtlFn := fun _ c s =>
  let h := wd c.w 0
  let g := hIx h
  if h < 2 ^ 32 ∧ hType h = 6 ∧ g < 4 ∧ s.bit F.timeXgCfg_en g = true ∧ hGen h = (s.xg g).gen then
    ctlEnd ((s.setXg g { gen := (s.xg g).gen }).setBit F.timeXgCfg_en g false) stOK
  else ctlEnd s stBAD_HANDLE

/-! ### The harbour log (R404, R407, R409, R414) -/

/-- The partition that a handle of type 5 names, OPEN or CLOSING. -/
def State.partOf (s : State) (h : Nat) : Option Nat :=
  if h < 2 ^ 32 ∧ hType h = 5 ∧ hIx h < 16 ∧ s.get F.logPartStatus_state (hIx h) ≠ 0 ∧ (s.part (hIx h)).gen = hGen h then some (hIx h) else none

/-- LOG.SEAL: the answer is the last segment of the partition that a seal has been asked for. -/
def opLogSeal : CtlFn := fun _ c s =>
  let last := fun (s : State) (p : Nat) =>
    (s.segsOf p).foldl (fun m e => if e.2.isOpen then m else Nat.max m e.2.num) ((s.part p).lastSealed.getD 0)
  if wd c.w 0 = 0 then
    let s := (List.range 16).foldl (fun s p => s.sealPart p sgCOMMANDED) s
    ctlOk s [(List.range 16).foldl (fun m p => if s.get F.logPartStatus_state p = 0 then m else last s p) 0]
  else
    match s.partOf (wd c.w 0) with
    | none => ctlEnd s stBAD_HANDLE
    | some p => let s := s.sealPart p sgCOMMANDED; ctlOk s [last s p]

/-- The MiB that open partitions may have in LOG buffers (R407). -/
def segMib (log2 : Nat) : Nat := 2 * 2 ^ log2
def State.segMibAll (s : State) : Nat :=
  (List.range 16).foldl (fun n p => if s.get F.logPartStatus_state p = 0 then n else n + segMib (s.part p).log2) 0

/-- The operand word of a partition descriptor that is out of range (Table 14.5). -/
def State.partBad (s : State) (w : List Word) : Option Nat :=
  let drives := wf w 0 0 4
  let ready := (List.range 4).any (fun r => drives.testBit r && s.get F.logDriveStatus_state r == 2)
  if ready = false ∨ wf w 0 4 4 < 4 ∨ 10 < wf w 0 4 4 ∨ wf w 0 32 32 = 0 then some 0
  else if wf w 1 32 16 < 10 then some 1
  else if wf w 2 32 16 = 0 then some 2
  else if wd w 3 = 0 then some 3
  else none

/-- The segments that the scan's directory lists under a tag, by number. -/
def State.dirOf (s : State) (tag : Word) : List SegScan := s.log.dir.filter (fun d => d.tag = tag.setWidth 128)

/-- A sealed segment that the scan found, held again by its partition. -/
def State.foundSeg (s : State) (p : Nat) (d : SegScan) : Seg :=
  { part := p, num := d.seg, drive := d.drive.val, slot := d.slot, isOpen := false, first := d.first, records := d.records,
    prev := some 0, link := d.bodyHash, sealNs := s.ns, sealed := true, written := true, alien := true }

/-- A partition resumes from what the directory lists of its tag: its sealed segments are held again, numbering and the chain go on
from the last of them, and a RESTART record that lists the torn ones is owed (R414). -/
def State.partResume (s : State) (p : Nat) (l : List SegScan) : State :=
  if l.isEmpty then s
  else
    let good := l.filter (fun d => d.sealedOk)
    let torn := (l.filter (fun d => !d.sealedOk)).map (fun d => d.seg)
    let s := good.foldl (fun (s : State) d =>
      let i := s.log.nextSegId
      { s with log := { s.log with segs := Tab.put s.log.segs i (s.foundSeg p d), nextSegId := i + 1,
                                   dir := s.log.dir.filter (fun x => x != d) } }) s
    let top := good.foldl (fun (b : Option SegScan) d => match b with
      | none => some d
      | some c => if c.seg < d.seg then some d else b) none
    let v := s.part p
    let v := match top with
      | some d => { v with nextSeg := d.seg + 1, nextSeq := d.first + d.records, lastLink := d.bodyHash, genesis := false, lastSealed := some d.seg }
      | none => v
    (s.setPart p { v with restart := some torn }).segCount p

/-- LOG.PART_OPEN: it parks while the scan runs. -/
def opLogPartOpen : CtlFn := fun _ c s =>
  if s.get F.logStatus_state 0 = 1 then ctlWait s c
  else
    match s.partBad c.w with
    | some i => ctlBad s i
    | none =>
      match (List.range 16).find? (fun p => s.get F.logPartStatus_state p == 0) with
      | none => ctlEnd s stNO_ROOM
      | some p =>
        if s.get F.bufHbmPool_size 1 * 1024 < s.segMibAll + segMib (wf c.w 0 4 4) + 1024 then ctlEnd s stNO_ROOM
        else
          let gen := ((s.part p).gen + 1) % 256
          let v : Part := { gen := gen, w0 := c.w.getD 0 0, w1 := c.w.getD 1 0, w2 := c.w.getD 2 0, tag := c.w.getD 3 0,
                            bucket := wf c.w 2 32 16 * 2 ^ 20 * 8000, bucketNs := s.ns }
          let s := ((s.setPart p v).set F.logPartStatus_state p 1).setBit F.logPartStatus_stalled p false
          ctlOk (s.partResume p (s.dirOf v.tag)) [handle 5 gen p]

/-- LOG.PART_CLOSE. -/
def opLogPartClose : CtlFn := fun _ c s =>
  match s.partOf (wd c.w 0) with
  | none => ctlEnd s stBAD_HANDLE
  | some p =>
    if (s.part p).keep = true ∧ (s.segsOf p).isEmpty = false then ctlEnd s stDENIED
    else
      let s := (s.sealPart p sgCOMMANDED).set F.logPartStatus_state p 2
      ctlEnd (if (s.segsOf p).isEmpty then s.set F.logPartStatus_state p 0 else s) stOK

/-! ### Tasks and mailboxes (R354-R358, R366, R367) -/

/-- The task that a handle names. -/
def State.taskOf (s : State) (h : Nat) : Option Nat :=
  if h < 2 ^ 32 ∧ hType h = 2 ∧ hIx h < 512 ∧ s.taskState (hIx h) ≠ tFREE ∧ s.get F.tugTaskState_gen (hIx h) = hGen h then some (hIx h) else none

/-- The operand word of a task descriptor that Table 12.4 or R354 refuses. -/
def taskBad (w : List Word) : Option Nat :=
  let entry := wd w 1
  let x := match dReg entry 4 with | .loc | .shared => true | _ => false
  if 2 ^ 34 ≤ wd w 0 ∨ wf w 0 18 16 = 0 then some 0
  else if entry % 4 ≠ 0 ∨ x = false then some 1
  else if 2 ^ 38 ≤ wd w 3 ∨ 64 < wf w 3 0 6 + wf w 3 6 7 ∨ 2048 < wf w 3 13 11 + wf w 3 24 12 then some 3
  else none

/-- Load a task's context from its descriptor (R354) and make it READY. -/
def State.taskLoad (s : State) (k : Nat) (w : List Word) : State :=
  let g2 := (wf w 3 0 6 + wf w 3 6 7) * 4096
  let regs : List Word := (List.range 32).map (fun i => if i = 1 then w.getD 2 0 else if i = 2 then BitVec.ofNat 64 g2 else 0)
  let ctx : TaskCtx := { pc := w.getD 1 0, sup := wb w 0 15, inten := wb w 0 16, cnten := wb w 0 17,
                         tbase := BitVec.ofNat 64 (s.get F.tugTbaseDefault_tbase 0) }
  let s := s.setTask k { ctx := ctx, regs := regs, aff := BitVec.ofNat 16 (wf w 0 18 16), w3 := w.getD 3 0 }
  ((s.set F.tugTaskState_level k (wf w 0 10 5)).set F.tugTaskState_cause k 0).makeReady k

/-- TASK.CREATE: with REARM a CANCELLED task is loaded anew under its handle (R355). -/
def opTaskCreate : CtlFn := fun _ c s =>
  match taskBad c.w with
  | some i => ctlBad s i
  | none =>
    if wb c.w 0 9 then
      let k := wf c.w 0 0 9
      if s.taskState k ≠ tCANCELLED then ctlBad s 0 else ctlOk (s.taskLoad k c.w) [s.taskHandle k]
    else
      match (List.range 512).find? (fun k => s.taskState k == tFREE) with
      | none => ctlEnd s stNO_ROOM
      | some k =>
        let s := (s.set F.tugTaskState_gen k (s.get F.tugTaskState_gen k + 1)).set F.tugTaskState_flags k 0
        ctlOk (s.taskLoad k c.w) [s.taskHandle k]

/-- The core that runs a task. -/
def State.coreOf (s : State) (k : Nat) : Option Core := (List.finRange 16).find? (fun t => s.running? t.val == some k)

/-- TASK.CANCEL (R356): a RUNNING task stops at its next preemption point, at once where it stands at one. -/
def opTaskCancel : CtlFn := fun _ c s =>
  match s.taskOf (wd c.w 0) with
  | none => ctlEnd s stBAD_HANDLE
  | some k =>
    ctlEnd (
      if s.taskState k = tCANCELLED then
        let s := s.set F.tugTaskState_state k tFREE
        { s with tug := { s.tug with tasks := Tab.del s.tug.tasks k } }
      else if s.taskState k = tRUNNING then
        (match s.coreOf k with
         | some t => if s.preemptPoint t then s.cancelHere t k else s.setTask k { s.task k with cancel := true }
         | none => s.setTask k { s.task k with cancel := true })
      else s.cancelTask k 0) stOK

/-- TASK.SIGNAL (R358). -/
def opTaskSignal : CtlFn := fun _ c s =>
  match s.taskOf (wd c.w 0) with
  | none => ctlEnd s stBAD_HANDLE
  | some k => ctlEnd (s.signal k (BitVec.ofNat 32 (wf c.w 1 0 32))) stOK

/-- MBOX.POST (R367): it parks while the mailbox is full. -/
def opMboxPost : CtlFn := fun _ c s =>
  let h := wd c.w 0
  let m := hIx h
  if h < 2 ^ 32 ∧ hType h = 3 ∧ m < 64 ∧ s.bit F.tugMboxCfg_en m = true ∧ hGen h = Tab.getD s.tug.mailGen m 0 then
    if s.mboxTakes m = false then ctlEnd s stDENIED
    else if 256 ≤ (s.mailOf m).length then ctlWait s c
    else ctlEnd (s.mboxPut m (c.w.getD 1 0) (c.w.getD 2 0)) stOK
  else ctlEnd s stBAD_HANDLE

/-! ### HBM buffers (R228, R339) -/

/-- BUF.ALLOC. -/
def opBufAlloc : CtlFn := fun iss c s =>
  let h := wf c.w 0 0 1
  match s.hbAlloc h (s.issMaster iss) false with
  | (s, some x) => ctlOk s [hbId h x, s.hbAddr h x]
  | (s, none) => ctlEnd s stPOOL_EMPTY

/-- The pool and index of a buffer ID that exists. -/
def State.hbOf (s : State) (bid : Nat) : Option (Nat × Nat) :=
  let h := bid / 2 ^ 21 % 4
  let x := bid % 2 ^ 21
  if bid / 2 ^ 23 = 1 ∧ h < 2 ∧ x < s.hbCount h then some (h, x) else none

/-- BUF.FREE. -/
def opBufFree : CtlFn := fun iss c s =>
  match s.hbOf (wd c.w 0) with
  | none => ctlBad s 0
  | some (h, x) => let r := s.hbFree h x (s.issMaster iss); ctlEnd r.2 r.1

/-- A buffer goes to another owner: only its present owner gives it (R216, R217). -/
def State.hbGive (s : State) (h x req dest : Nat) : Nat × State :=
  match Tab.get? s.buf.hbmBufs (hbKey h x) with
  | none => (stALREADY_FREE, s.useFree.ownerRefuse stALREADY_FREE req (s.freeVal.toNat % 4096) (hbId h x))
  | some b =>
    if b.refc then (stNOT_OWNER, s.ownerRefuse stNOT_OWNER req (0x800 + b.mid) (hbId h x))
    else if b.mid ≠ req then (stNOT_OWNER, s.ownerRefuse stNOT_OWNER req b.mid (hbId h x))
    else (stOK, { s with buf := { s.buf with hbmBufs := Tab.put s.buf.hbmBufs (hbKey h x) { b with mid := dest } } })

/-- BUF.GIVE. -/
def opBufGive : CtlFn := fun iss c s =>
  match s.hbOf (wd c.w 0) with
  | none => ctlBad s 0
  | some (h, x) => let r := s.hbGive h x (s.issMaster iss) (wf c.w 1 0 8); ctlEnd r.2 r.1

end Sys2Proof.Machine
end

