-- ==== Sys2Proof/Machine/Cmd.lean ====
section
/-!
DEFINITION. Machine/Cmd.lean: the command engines (R330, R331, R335-R338, R341, R346, R347): the catalogue of control instructions
(Table 11.5), what one turn of an engine does with a CTL, dispatch from the ready list, slices, wait slots, machine checks and the
CTL instruction of the tug cores (R57, R334); and each control instruction issued by itself.
-/
namespace Sys2Proof.Machine

/-! ### The catalogue (Table 11.5) -/

/-- Modes of an instruction: 0 all five, 1 every one but SAFE HARBOUR, 2 MOORED, SLACK and DRYDOCK. -/
def opModeOk (k m : Nat) : Bool :=
  match k with
  | 0 => true
  | 1 => m != mHARBOUR
  | _ => m != mHARBOUR && m != mSERVICE

/-- A row of Table 11.5: the operand words it needs, its modes, whether it is marked P, and what it does. -/
def ctlOp (op : Nat) : Option (Nat × Nat × Bool × CtlFn) :=
  match op with
  | 0x001 => some (4, 0, false, opChanOpen)
  | 0x002 => some (1, 0, false, opChanClose)
  | 0x003 => some (1, 0, false, opChanInfo)
  | 0x004 => some (2, 0, true, opCmdAbort)
  | 0x005 => some (4, 0, false, opCmdWait)
  | 0x006 => some (1, 0, false, opBarrier)
  | 0x008 => some (1, 0, false, opGet)
  | 0x009 => some (2, 1, true, opSet)
  | 0x00A => some (1, 1, true, opSetm)
  | 0x00C => some (1, 0, true, opSysMode)
  | 0x00D => some (1, 1, true, opHarbour)
  | 0x040 => some (1, 1, false, opEmInsert)
  | 0x041 => some (1, 1, false, opEmDelete)
  | 0x042 => some (1, 1, false, opEmUpdate)
  | 0x043 => some (1, 1, false, opEmSearch)
  | 0x044 => some (1, 1, false, opEmNext)
  | 0x045 => some (1, 1, false, opEmFlushPort)
  | 0x048 => some (1, 1, false, opLpmInsert)
  | 0x049 => some (1, 1, false, opLpmDelete)
  | 0x04A => some (1, 1, false, opLpmSearch)
  | 0x04B => some (1, 1, false, opLpmNext)
  | 0x050 => some (11, 1, false, opTcamWrite)
  | 0x051 => some (2, 1, false, opTcamRead)
  | 0x052 => some (1, 1, false, opTcamClear)
  | 0x058 => some (1, 1, false, opObjWrite)
  | 0x059 => some (1, 1, false, opObjRead)
  | 0x05C => some (3, 1, true, opProgLoad)
  | 0x05D => some (1, 1, true, opGenSwap)
  | 0x080 => some (1, 1, false, opFlowRead)
  | 0x081 => some (1, 1, false, opFlowWrite)
  | 0x082 => some (1, 1, false, opFlowDelete)
  | 0x083 => some (1, 1, false, opFlowPin)
  | 0x084 => some (2, 1, false, opFlowNext)
  | 0x085 => some (2, 1, true, opLedgerRehash)
  | 0x0A0 => some (3, 1, false, opTmShaper)
  | 0x0A1 => some (6, 1, false, opTmGcl)
  | 0x0C0 => some (5, 1, false, opTimeMeas)
  | 0x0C1 => some (1, 1, false, opTimeMaster)
  | 0x0C2 => some (1, 1, false, opTimeAccept)
  | 0x0C3 => some (1, 1, true, opTimeXgOpen)
  | 0x0C4 => some (1, 1, true, opTimeXgClose)
  | 0x0E0 => some (1, 0, false, opLogSeal)
  | 0x0E1 => some (4, 1, true, opLogPartOpen)
  | 0x0E2 => some (1, 1, true, opLogPartClose)
  | 0x100 => some (4, 0, true, opTaskCreate)
  | 0x101 => some (1, 0, true, opTaskCancel)
  | 0x102 => some (2, 0, false, opTaskSignal)
  | 0x103 => some (3, 0, false, opMboxPost)
  | 0x140 => some (1, 0, false, opBufAlloc)
  | 0x141 => some (1, 0, false, opBufFree)
  | 0x142 => some (2, 0, false, opBufGive)
  | 0x180 => some (2, 2, true, opUcodePatch)
  | 0x181 => some (0, 0, false, opUcodeInfo)
  | _ => none

/-- Whether an instruction is resumable (Table 11.5, column Res.). -/
def opResumable (op : Nat) : Bool := op == 0x045 || op == 0x052

/-- What one turn makes of a CTL (R338): a status settled from outside is its completion; an op not listed, the mode, the issuer's
rights and the number of operand words are judged before it starts. -/
def runCtl : CtlFn := fun iss c s =>
  match c.settled with
  | some st => if c.op = 0x005 ∧ st = stTIMEOUT then opCmdWait iss c s else .done s st c.progress (s.settledRes c)
  | none =>
    match ctlOp c.op with
    | none => ctlBad s 0
    | some (need, modes, p, f) =>
      if c.started then f iss c s
      else if opModeOk modes s.modeNo = false then ctlEnd s stBAD_MODE
      else if p = true ∧ s.issRestricted iss c = true then ctlEnd s stDENIED
      else if c.w.length < need then ctlBad s c.w.length
      else f iss c s

/-! ### A turn of an engine (R335, R336, R341) -/

/-- The CTL parks: it takes a wait slot and frees its engine; with all 64 in use it stays and the engine tests in place (R341). -/
def State.park (s : State) (iss : Issuer) (c : Ctl) : State :=
  let k := issKey iss
  if s.cmd.parked.length < 64 then
    let s := { s with cmd := { s.cmd with parked := Tab.put s.cmd.parked k c, current := Tab.del s.cmd.current k,
                                          engines := s.cmd.engines.filter (fun e => e.2 != iss) } }
    match iss with
    | .chan d => s.setBit F.cmdChState_parked d.val true
    | .tug _ => s
  else { s.bump F.cmdCntParkFull 0 with cmd := { (s.bump F.cmdCntParkFull 0).cmd with current := Tab.put s.cmd.current k c } }

/-- Engine `e` runs the CTL of an issuer until it completes, parks or stays with it. -/
def State.turn (s : State) (e : Nat) (iss : Issuer) (c : Ctl) : State :=
  let k := issKey iss
  let s := { s with cmd := { s.cmd with engines := Tab.put s.cmd.engines e iss, current := Tab.put s.cmd.current k c,
                                        ready := s.cmd.ready.filter (fun i => i != iss) } }
  if s.cqRoom iss = false then s.park iss c
  else
    match runCtl iss c s with
    | .done t st p res => t.finish iss c st p res
    | .wait t c => t.park iss c
    | .more t c => { t with cmd := { t.cmd with current := Tab.put t.cmd.current k c } }
    | .gone t => { t with cmd := { t.cmd with engines := Tab.del t.cmd.engines e, current := Tab.del t.cmd.current k } }

/-! ### Words of a command ring (R330, R331, R333) -/

/-- A batch whose last slot has been taken is over, and a failure in it skips nothing more. -/
def State.batchStep (s : State) (c : Nat) : State :=
  let ch := s.chan c
  match ch.batches with
  | b :: rest => if b = s.get F.cmdChState_head c then s.setChan c { ch with batches := rest, failing := false } else s
  | [] => if ch.failing then s.setChan c { ch with failing := false } else s

/-- Take `n` slots: the head passes them, and batches that end among them are over. -/
def State.kTake (s : State) (c n : Nat) : State :=
  let h := s.get F.cmdChState_head c
  let size := 2 ^ (s.chan c).log2ring
  let s := (s.chGot c ((s.chan c).ring + h * 8) (8 * n)).setHead c ((h + n) % size)
  let ch := s.chan c
  let past := fun (b : Nat) => let d := (b + size - h) % size; decide (0 < d) && decide (d < n)
  s.setChan c { ch with batches := ch.batches.dropWhile past }

/-- The F-I instruction that a slot holds, where it is one that K allows (R59). -/
def kInstr (c : Chan) (w : Nat) : Option Instr :=
  if w < 2 ^ 32 ∧ 2 ≤ opOf w ∧ opOf w ≤ 7 then
    match wordInstr (.chan c) (BitVec.ofNat 32 w) with
    | some i => if i.wf then some i else none
    | none => none
  else none

/-- Run an F-I word on the channel's registers (R331). -/
def State.kRun (s : State) (i : Instr) : State :=
  let r : Outc :=
    match i with
    | .addi x rd ra imm => execAddi x rd ra imm s
    | .andi x rd ra imm => execAndi x rd ra imm s
    | .ori x rd ra imm => execOri x rd ra imm s
    | .xori x rd ra imm => execXori x rd ra imm s
    | .shi x rd ra imm => execShi x rd ra imm s
    | .movi x rd ra imm => execMovi x rd ra imm s
    | _ => .next s
  match r with
  | .next t => t
  | _ => s

/-- The operands of a CTL word: inline slots or the channel's registers (R57). -/
def State.kOps (s : State) (c : Chan) (h : Nat) (d : CtlDesc) : List Word :=
  if d.inl then (List.range d.n).map (fun i => BitVec.ofNat 64 (s.kSlot c.val ((h + 1 + i) % 2 ^ (s.chan c.val).log2ring)))
  else (List.range d.n).map (fun i => s.g (.chan c) ⟨(d.rs + i) % 32, Nat.mod_lt _ (by decide)⟩)

/-- The CTL that a word gives; in a batch that a failure skips it completes with ABORTED (R333). -/
def State.kCtl (s : State) (c : Chan) (h w : Nat) (failing : Bool) : Ctl :=
  let d := ctlDesc (w % 2 ^ 16)
  let settled := if failing then some stABORTED else none
  if wfCtl (BitVec.ofNat 16 w) then { op := w / 2 ^ 16 % 1024, tag := d.tag, slot := h, w := s.kOps c h d, settled := settled }
  else { op := 0, tag := 0, slot := h, w := [], note := kRefused }

/-- Take words of a ring: F-I words run, up to the first CTL or refused word. -/
def State.kFetch (c : Chan) : Nat → State → State × Option Ctl
  | 0, s => (s, none)
  | fuel + 1, s =>
    let s := s.batchStep c.val
    if s.kExecutable c.val = false then (s, none)
    else
      let h := s.get F.cmdChState_head c.val
      let w := s.kSlot c.val h
      let failing := (s.chan c.val).failing
      if isCtl w && (wfCtl (BitVec.ofNat 16 w) || !failing) then (s.kTake c.val (1 + ctlInline w), some (s.kCtl c h w failing))
      else
        let t := s.kTake c.val 1
        if failing then State.kFetch c fuel t
        else
          match kInstr c w with
          | some i => State.kFetch c fuel (t.kRun i)
          | none => (t, some { op := 0, tag := 0, slot := h, w := [], note := kRefused })

/-- The next CTL of an issuer: the one in hand, or the next of its ring or port. -/
def State.nextCtl (s : State) (iss : Issuer) : State × Option Ctl :=
  match Tab.get? s.cmd.current (issKey iss) with
  | some c => (s, some c)
  | none =>
    match iss with
    | .chan c => if s.chanIs c.val 1 && s.chanRuns c.val then s.kFetch c (s.kVisible c.val + 1) else (s, none)
    | .tug t =>
      match (s.tport t.val).queue with
      | [] => (s, none)
      | c :: rest => (s.setTport t.val { s.tport t.val with queue := rest }, some c)

/-! ### Machine checks and fencing (R346, R347) -/

/-- Engine `e` meets a machine check while it runs a CTL: log, counter, event; a second one within 1 s fences it. -/
def State.engineCheck (s : State) (e : Nat) (iss : Issuer) (c : Ctl) (upc : Nat) : State :=
  let h := match iss with
    | .chan d => handle 1 (s.get F.cmdChState_gen d.val) d.val
    | .tug t => 0xF0000000 + t.val
  let s := (((s.set F.cmdMcLog_upc e upc).setBit F.cmdMcLog_patch e (decide (0x4000 ≤ upc))).set F.cmdMcLog_op e (c.op % 1024))
  let s := ((s.set F.cmdMcLog_handle e h).set F.cmdMcLog_time e (s.tlNs % 2 ^ 64)).bump F.cmdCntMc e
  let s := s.cmdEvent 1 (0x10 + e) stMC_UCODE upc
  let again := match Tab.get? s.cmd.lastMc e with | some t => decide (s.ns < t + 1000000000) | none => false
  let s := { s with cmd := { s.cmd with lastMc := Tab.put s.cmd.lastMc e s.ns } }
  if again then
    let s := (s.setBit F.cmdEngineStatus_fenced e true).cmdEvent 2 (0x10 + e) stMC_UCODE 0
    if (List.range 8).all (fun i => s.bit F.cmdEngineStatus_fenced i) then (s.cmdEvent 3 0 stMC_UCODE 0).setCause 4 else s
  else s

/-! ### Dispatch (R335) -/

/-- Whether commands are executed: not in RESET, BOOT or HALT (R338), nor while a patch has stopped dispatch (R342). -/
def State.commandsRun (s : State) : Bool :=
  let m := s.modeNo
  !(m == mRESET || m == mBOOT || m == mHALT) && !s.mode.haltOwed
    && !(s.cmd.current.any (fun (e : Nat × Ctl) => e.2.op == 0x180 && e.2.started))

/-- Whether engine `e` can take work. -/
def State.engineFree (s : State) (e : Nat) : Bool := !(Tab.has s.cmd.engines e) && !(s.bit F.cmdEngineStatus_fenced e)

/-- CMD_DISPATCH (R335): a free engine takes the head of the ready list; `ucErr` says that a microword's fetch fails while its CTL
runs, with the micro-address; a CTL whose save area is bad has MC_UCODE settled, and the address is a free value (R346). -/
def execCmdDispatch (e : Engine) (ucErr : Option (BitVec 15)) (s : State) : Outc :=
  .next (
    if (s.commandsRun && s.engineFree e.val) = false then s
    else
      match s.cmd.ready with
      | [] => s
      | iss :: rest =>
        let s := { s with cmd := { s.cmd with ready := rest } }
        if Tab.has s.cmd.parked (issKey iss) then s
        else
          match s.nextCtl iss with
          | (s, none) => s
          | (s, some c) =>
            match ucErr, c.settled with
            | some upc, _ => (s.engineCheck e.val iss c upc.toNat).turn e.val iss { c with settled := some stMC_UCODE }
            | none, some 0x0C => (s.useFree.engineCheck e.val iss c (s.freeVal.toNat % 2 ^ 15)).turn e.val iss c
            | none, _ => s.turn e.val iss c)

/-! ### Slices and wait slots (R336, R341) -/

/-- SLICE_END (R336): a resumable CTL micro-traps and its issuer rejoins the list; a CTL that waits in place is tested first. -/
def execSliceEnd (e : Engine) (s : State) : Outc :=
  .next (match Tab.get? s.cmd.engines e.val with
  | none => s
  | some iss =>
    match Tab.get? s.cmd.current (issKey iss) with
    | none => s
    | some c =>
      let trap (s : State) : State :=
        let s := s.bump F.cmdCntSliceTrap 0
        { s with cmd := { s.cmd with engines := Tab.del s.cmd.engines e.val } }.joinReady iss
      if opResumable c.op = true ∧ c.settled = none then trap s
      else if c.op = 0x180 then s.turn e.val iss c
      else
        match if s.cqRoom iss then runCtl iss c s else .wait s c with
        | .wait _ _ => trap s
        | _ => s.turn e.val iss c)

/-- Whether what a parked CTL waits for has come. -/
def State.parkOver (s : State) (iss : Issuer) (c : Ctl) : Bool :=
  s.cqRoom iss && (c.settled.isSome || (match runCtl iss c s with | .wait _ _ => false | _ => true))

/-- A parked CTL gives its wait slot back and its issuer rejoins the list; one that waits in place goes on with its engine. -/
def State.unpark (s : State) (iss : Issuer) (c : Ctl) : State :=
  let k := issKey iss
  if Tab.has s.cmd.parked k then
    let s := { s with cmd := { s.cmd with parked := Tab.del s.cmd.parked k, current := Tab.put s.cmd.current k c } }
    let s := match iss with | .chan d => s.setBit F.cmdChState_parked d.val false | .tug _ => s
    s.joinReady iss
  else
    match s.cmd.engines.find? (fun e => e.2 == iss) with
    | some e => s.turn e.1 iss c
    | none => { s with cmd := { s.cmd with current := Tab.put s.cmd.current k c } }

/-- PARK_WAKE (R341): the condition of a CTL that waits holds. -/
def execParkWake (iss : Issuer) (s : State) : Outc :=
  .next (match s.handOf iss with
  | some c => if s.parkOver iss c then s.unpark iss c else s
  | none => s)

/-- PARK_TIMEOUT (R341): the timeout of a CTL that waits has passed. -/
def execParkTimeout (iss : Issuer) (s : State) : Outc :=
  .next (match s.handOf iss with
  | some c =>
    match c.untilNs with
    | some t => if c.settled = none ∧ t ≤ s.ns then s.unpark iss { c with settled := some stTIMEOUT } else s
    | none => s
  | none => s)

/-! ### CTL of the tug cores (R57, R334) -/

/-- CTL in profile T: the instruction goes to the core's command port with its operands; a full port stalls the core. -/
def execCtl (t : Core) (op : BitVec 10) (desc : BitVec 16) (s : State) : Outc :=
  .next (s.tugRun t (wfCtl desc) (fun s =>
    let d := ctlDesc desc.toNat
    let pc := (s.tpc t).toNat
    let a := if d.inl = true ∧ d.n ≠ 0 then (pc + 4 + 7) / 8 * 8 else pc + 4
    let p := s.tport t.val
    if 16 ≤ p.queue.length then s
    else if d.inl = true ∧ (List.range (2 * d.n)).all (fun i => s.fetchAllowed t (a + 4 * i)) = false then
      s.trapHere t tcD_FAULT (BitVec.ofNat 64 a)
    else
      let w := if d.inl then (List.range d.n).map (fun i => BitVec.ofNat 64 (leNat (s.dRead t.val (a + 8 * i) 8)))
        else (List.range d.n).map (fun i => s.g (.tug t) ⟨(d.rs + i) % 32, Nat.mod_lt _ (by decide)⟩)
      let c : Ctl := { op := op.toNat, tag := d.tag, slot := 0, w := w, task := s.running? t.val, sup := s.tsup t }
      let s := s.setTport t.val { p with queue := p.queue ++ [c] }
      (s.tugJump t (BitVec.ofNat 64 (if d.inl then a + 8 * d.n else pc + 4))).joinReady (.tug t)))

/-! ### One control instruction issued by itself (R338) -/

/-- Whether an issuer can start a CTL now: an OPEN CMD channel that runs, or a port with nothing queued; with none in hand. -/
def State.mayIssue (s : State) (iss : Issuer) : Bool :=
  !(s.inHand (issKey iss)) && (match iss with
    | .chan c => s.cmdOpen c.val && s.chanRuns c.val
    | .tug t => (s.tport t.val).queue.isEmpty)

/-- The CTL that an issuer starts. -/
def State.directCtl (s : State) (iss : Issuer) (op tag : Nat) (w : List Word) : Ctl :=
  match iss with
  | .chan c => { op := op, tag := tag, slot := s.get F.cmdChState_head c.val, w := w }
  | .tug t => { op := op, tag := tag, slot := 0, w := w, task := s.running? t.val, sup := s.tsup t }

/-- The lowest free engine takes a control instruction that an issuer starts with its operands. -/
def State.direct (s : State) (iss : Issuer) (op : Nat) (tag : BitVec 6) (w : List Word) : State :=
  if (s.commandsRun && s.mayIssue iss) = false then s
  else
    match (List.range 8).find? (fun e => s.engineFree e) with
    | none => s
    | some e => s.turn e iss (s.directCtl iss op tag.toNat w)

/-- Operand word 0 with a field of it fixed by the command's row. -/
def w0With (lo len v : Nat) (w : List Word) : List Word :=
  match w with
  | [] => []
  | a :: r => BitVec.ofNat 64 (a.toNat - a.toNat / 2 ^ lo % 2 ^ len * 2 ^ lo + v % 2 ^ len * 2 ^ lo) :: r

/-- CHAN.OPEN (R327). -/
def execChanOpen (iss : Issuer) (tag : BitVec 6) (w : List Word) (s : State) : Outc := .next (s.direct iss 0x001 tag w)
/-- CHAN.CLOSE (R329). -/
def execChanClose (iss : Issuer) (tag : BitVec 6) (w : List Word) (s : State) : Outc := .next (s.direct iss 0x002 tag w)
/-- CHAN.INFO (R338). -/
def execChanInfo (iss : Issuer) (tag : BitVec 6) (w : List Word) (s : State) : Outc := .next (s.direct iss 0x003 tag w)
/-- CMD.ABORT (R345). -/
def execCmdAbort (iss : Issuer) (tag : BitVec 6) (w : List Word) (s : State) : Outc := .next (s.direct iss 0x004 tag w)
/-- CMD.WAIT (R341). -/
def execCmdWait (iss : Issuer) (tag : BitVec 6) (w : List Word) (s : State) : Outc := .next (s.direct iss 0x005 tag w)
/-- BARRIER (R341). -/
def execBarrier (iss : Issuer) (tag : BitVec 6) (w : List Word) (s : State) : Outc := .next (s.direct iss 0x006 tag w)
/-- GET (R340). -/
def execGetReg (iss : Issuer) (tag : BitVec 6) (w : List Word) (s : State) : Outc := .next (s.direct iss 0x008 tag w)
/-- SET (R340). -/
def execSetReg (iss : Issuer) (tag : BitVec 6) (w : List Word) (s : State) : Outc := .next (s.direct iss 0x009 tag w)
/-- SET with MASKED = 1 (R340). -/
def execSetMasked (iss : Issuer) (tag : BitVec 6) (w : List Word) (s : State) : Outc := .next (s.direct iss 0x009 tag (w0With 28 1 1 w))
/-- SETM (R340). -/
def execSetm (iss : Issuer) (tag : BitVec 6) (w : List Word) (s : State) : Outc := .next (s.direct iss 0x00A tag w)
/-- SYS.MODE, target MOORED (R418). -/
def execSysModeMoored (iss : Issuer) (tag : BitVec 6) (w : List Word) (s : State) : Outc := .next (s.direct iss 0x00C tag (w0With 0 3 2 w))
/-- SYS.MODE, target SERVICE (R427). -/
def execSysModeService (iss : Issuer) (tag : BitVec 6) (w : List Word) (s : State) : Outc := .next (s.direct iss 0x00C tag (w0With 0 3 3 w))
/-- SYS.MODE, target SLACK (R428). -/
def execSysModeSlack (iss : Issuer) (tag : BitVec 6) (w : List Word) (s : State) : Outc := .next (s.direct iss 0x00C tag (w0With 0 3 4 w))
/-- SYS.MODE, target DRYDOCK (R418). -/
def execSysModeDrydock (iss : Issuer) (tag : BitVec 6) (w : List Word) (s : State) : Outc := .next (s.direct iss 0x00C tag (w0With 0 3 6 w))
/-- SYS.MODE, target HALT (R445). -/
def execSysModeHalt (iss : Issuer) (tag : BitVec 6) (w : List Word) (s : State) : Outc := .next (s.direct iss 0x00C tag (w0With 0 3 7 w))
/-- HARBOUR (R439). -/
def execHarbour (iss : Issuer) (tag : BitVec 6) (w : List Word) (s : State) : Outc := .next (s.direct iss 0x00D tag w)
/-- EM.INSERT (R109). -/
def execEmInsert (iss : Issuer) (tag : BitVec 6) (w : List Word) (s : State) : Outc := .next (s.direct iss 0x040 tag w)
/-- EM.DELETE (R111). -/
def execEmDelete (iss : Issuer) (tag : BitVec 6) (w : List Word) (s : State) : Outc := .next (s.direct iss 0x041 tag w)
/-- EM.UPDATE (R339). -/
def execEmUpdate (iss : Issuer) (tag : BitVec 6) (w : List Word) (s : State) : Outc := .next (s.direct iss 0x042 tag w)
/-- EM.SEARCH (R339). -/
def execEmSearch (iss : Issuer) (tag : BitVec 6) (w : List Word) (s : State) : Outc := .next (s.direct iss 0x043 tag w)
/-- EM.NEXT (R339). -/
def execEmNext (iss : Issuer) (tag : BitVec 6) (w : List Word) (s : State) : Outc := .next (s.direct iss 0x044 tag w)
/-- EM.FLUSH_PORT (R114). -/
def execEmFlushPort (iss : Issuer) (tag : BitVec 6) (w : List Word) (s : State) : Outc := .next (s.direct iss 0x045 tag w)
/-- LPM.INSERT (R121). -/
def execLpmInsert (iss : Issuer) (tag : BitVec 6) (w : List Word) (s : State) : Outc := .next (s.direct iss 0x048 tag w)
/-- LPM.DELETE (R122). -/
def execLpmDelete (iss : Issuer) (tag : BitVec 6) (w : List Word) (s : State) : Outc := .next (s.direct iss 0x049 tag w)
/-- LPM.SEARCH (R339). -/
def execLpmSearch (iss : Issuer) (tag : BitVec 6) (w : List Word) (s : State) : Outc := .next (s.direct iss 0x04A tag w)
/-- LPM.NEXT (R339). -/
def execLpmNext (iss : Issuer) (tag : BitVec 6) (w : List Word) (s : State) : Outc := .next (s.direct iss 0x04B tag w)
/-- TCAM.WRITE (R126). -/
def execTcamWrite (iss : Issuer) (tag : BitVec 6) (w : List Word) (s : State) : Outc := .next (s.direct iss 0x050 tag w)
/-- TCAM.READ (R339). -/
def execTcamRead (iss : Issuer) (tag : BitVec 6) (w : List Word) (s : State) : Outc := .next (s.direct iss 0x051 tag w)
/-- TCAM.CLEAR (R344). -/
def execTcamClear (iss : Issuer) (tag : BitVec 6) (w : List Word) (s : State) : Outc := .next (s.direct iss 0x052 tag w)
/-- OBJ.WRITE (R339). -/
def execObjWrite (iss : Issuer) (tag : BitVec 6) (w : List Word) (s : State) : Outc := .next (s.direct iss 0x058 tag w)
/-- OBJ.READ (R339). -/
def execObjRead (iss : Issuer) (tag : BitVec 6) (w : List Word) (s : State) : Outc := .next (s.direct iss 0x059 tag w)
/-- PROG.LOAD (R63). -/
def execProgLoad (iss : Issuer) (tag : BitVec 6) (w : List Word) (s : State) : Outc := .next (s.direct iss 0x05C tag w)
/-- GEN.SWAP (R136). -/
def execGenSwap (iss : Issuer) (tag : BitVec 6) (w : List Word) (s : State) : Outc := .next (s.direct iss 0x05D tag w)
/-- FLOW.READ (R163). -/
def execFlowRead (iss : Issuer) (tag : BitVec 6) (w : List Word) (s : State) : Outc := .next (s.direct iss 0x080 tag w)
/-- FLOW.WRITE (R339). -/
def execFlowWrite (iss : Issuer) (tag : BitVec 6) (w : List Word) (s : State) : Outc := .next (s.direct iss 0x081 tag w)
/-- FLOW.DELETE (R162). -/
def execFlowDelete (iss : Issuer) (tag : BitVec 6) (w : List Word) (s : State) : Outc := .next (s.direct iss 0x082 tag w)
/-- FLOW.PIN (R151). -/
def execFlowPin (iss : Issuer) (tag : BitVec 6) (w : List Word) (s : State) : Outc := .next (s.direct iss 0x083 tag (w0With 13 1 0 w))
/-- FLOW.PIN with UNPIN = 1 (R151). -/
def execFlowUnpin (iss : Issuer) (tag : BitVec 6) (w : List Word) (s : State) : Outc := .next (s.direct iss 0x083 tag (w0With 13 1 1 w))
/-- FLOW.NEXT (R339). -/
def execFlowNext (iss : Issuer) (tag : BitVec 6) (w : List Word) (s : State) : Outc := .next (s.direct iss 0x084 tag w)
/-- LEDGER.REHASH (R174). -/
def execLedgerRehash (iss : Issuer) (tag : BitVec 6) (w : List Word) (s : State) : Outc := .next (s.direct iss 0x085 tag w)
/-- TM.SHAPER (R244). -/
def execTmShaper (iss : Issuer) (tag : BitVec 6) (w : List Word) (s : State) : Outc := .next (s.direct iss 0x0A0 tag w)
/-- TM.GCL (R250). -/
def execTmGcl (iss : Issuer) (tag : BitVec 6) (w : List Word) (s : State) : Outc := .next (s.direct iss 0x0A1 tag w)
/-- TIME.MEAS (R309). -/
def execTimeMeas (iss : Issuer) (tag : BitVec 6) (w : List Word) (s : State) : Outc := .next (s.direct iss 0x0C0 tag w)
/-- TIME.MASTER (R310). -/
def execTimeMaster (iss : Issuer) (tag : BitVec 6) (w : List Word) (s : State) : Outc := .next (s.direct iss 0x0C1 tag w)
/-- TIME.ACCEPT, action STEP (R311). -/
def execTimeAcceptStep (iss : Issuer) (tag : BitVec 6) (w : List Word) (s : State) : Outc := .next (s.direct iss 0x0C2 tag (w0With 4 2 0 w))
/-- TIME.ACCEPT, action SLEW (R311). -/
def execTimeAcceptSlew (iss : Issuer) (tag : BitVec 6) (w : List Word) (s : State) : Outc := .next (s.direct iss 0x0C2 tag (w0With 4 2 1 w))
/-- TIME.ACCEPT, action KEEP (R314). -/
def execTimeAcceptKeep (iss : Issuer) (tag : BitVec 6) (w : List Word) (s : State) : Outc := .next (s.direct iss 0x0C2 tag (w0With 4 2 2 w))
/-- TIME.XG_OPEN (R312). -/
def execTimeXgOpen (iss : Issuer) (tag : BitVec 6) (w : List Word) (s : State) : Outc := .next (s.direct iss 0x0C3 tag w)
/-- TIME.XG_CLOSE (R312). -/
def execTimeXgClose (iss : Issuer) (tag : BitVec 6) (w : List Word) (s : State) : Outc := .next (s.direct iss 0x0C4 tag w)
/-- LOG.SEAL (R404). -/
def execLogSeal (iss : Issuer) (tag : BitVec 6) (w : List Word) (s : State) : Outc := .next (s.direct iss 0x0E0 tag w)
/-- LOG.PART_OPEN (R407). -/
def execLogPartOpen (iss : Issuer) (tag : BitVec 6) (w : List Word) (s : State) : Outc := .next (s.direct iss 0x0E1 tag w)
/-- LOG.PART_CLOSE (R409). -/
def execLogPartClose (iss : Issuer) (tag : BitVec 6) (w : List Word) (s : State) : Outc := .next (s.direct iss 0x0E2 tag w)
/-- TASK.CREATE (R354). -/
def execTaskCreate (iss : Issuer) (tag : BitVec 6) (w : List Word) (s : State) : Outc := .next (s.direct iss 0x100 tag w)
/-- TASK.CREATE with word 0 bit 9 set (R355). -/
def execTaskRearm (iss : Issuer) (tag : BitVec 6) (w : List Word) (s : State) : Outc := .next (s.direct iss 0x100 tag (w0With 9 1 1 w))
/-- TASK.CANCEL (R356). -/
def execTaskCancel (iss : Issuer) (tag : BitVec 6) (w : List Word) (s : State) : Outc := .next (s.direct iss 0x101 tag w)
/-- TASK.SIGNAL (R358). -/
def execTaskSignal (iss : Issuer) (tag : BitVec 6) (w : List Word) (s : State) : Outc := .next (s.direct iss 0x102 tag w)
/-- MBOX.POST (R367). -/
def execMboxPost (iss : Issuer) (tag : BitVec 6) (w : List Word) (s : State) : Outc := .next (s.direct iss 0x103 tag w)
/-- BUF.ALLOC (R228). -/
def execBufAlloc (iss : Issuer) (tag : BitVec 6) (w : List Word) (s : State) : Outc := .next (s.direct iss 0x140 tag w)
/-- BUF.FREE (R217). -/
def execBufFree (iss : Issuer) (tag : BitVec 6) (w : List Word) (s : State) : Outc := .next (s.direct iss 0x141 tag w)
/-- BUF.GIVE (R339). -/
def execBufGive (iss : Issuer) (tag : BitVec 6) (w : List Word) (s : State) : Outc := .next (s.direct iss 0x142 tag w)
/-- UCODE.PATCH (R342). -/
def execUcodePatch (iss : Issuer) (tag : BitVec 6) (w : List Word) (s : State) : Outc := .next (s.direct iss 0x180 tag w)
/-- UCODE.INFO (R338). -/
def execUcodeInfo (iss : Issuer) (tag : BitVec 6) (w : List Word) (s : State) : Outc := .next (s.direct iss 0x181 tag w)

end Sys2Proof.Machine
end

