-- ==== Sys2Proof/Machine/Lookup.lean ====
section
/-!
DEFINITION. Machine/Lookup.lean: lookups, hashing, meters and flow requests of the engines (R44-R47, R107, R115, R134, R485, R489).
-/
namespace Sys2Proof.Machine

/-- The quay group of a context's quay (Table 1.1: four quays to a group). -/
def ctxGroup (x : CtxId) : Nat := ctxUnit x / 4
/-- Master ID of an engine's quay or slice (Table 0.9). -/
def ctxMaster : CtxId → Nat
  | .pilot q _ _ => 0x20 + q.val
  | .rew q _ _ => 0x30 + q.val
  | .stev sl _ => 0x40 + sl.val
  | .tug t => t.val
  | .chan _ => 0x10
/-- Lookup and meter results outstanding (R32). -/
def outstanding (c : Ctx) : Nat := (c.pend.filter (fun p => p.2.1 != .flow)).length
/-- Key bytes from K. -/
def keyBytes (c : Ctx) (off n : Nat) : List Byte := wireBytes c.key off n

/-- Issue an instruction that reads bytes `a .. b - 1` of K, which wait for a PRP trailer. -/
def keyIssue (x : CtxId) (mn : String) (ok : Bool) (cost : Nat) (a b : Nat) (uses : List RegNo) (s : State) (body : Ctx → State → State) : Outc :=
  match s.ctx? x with
  | some c => if ok && !c.ended && prpWaits c a b then .next s else engineOnly x mn ok cost uses s body
  | none => engineOnly x mn ok cost uses s body

/-- A fifth LKP or MTR waits until a result has returned (R32). -/
def State.fullWait (s : State) (x : CtxId) : Bool := match s.ctx? x with | some c => decide (4 ≤ outstanding c) | none => false

/-- LKP (R44): the key is copied at issue; a descriptor that no longer fits gives a miss with ERR at once. -/
def execLkp (x : CtxId) (tbl : BitVec 6) (klen : BitVec 6) (rd : RegNo) (koff : BitVec 6) (nohit : Bool) (s : State) : Outc :=
  let ok := wfLkp x klen koff
  if ok && s.fullWait x then .next s
  else keyIssue x "LKP" ok 1 koff.toNat (koff.toNat + klen.toNat + 1) [rd] s (fun c s =>
    let d := s.desc c.gen tbl.toNat
    if dKind d = 0 ∨ dKlen d ≠ klen.toNat + 1 ∨ (if x.profile = .p then dPok d else dEok d) = false then
      (s.setG x rd lkErr).faultCount x
    else
      let n := s.eng.serial
      let l : Lookup := ⟨x, rd, c.gen, d, keyBytes c koff.toNat (klen.toNat + 1), nohit, ctxGroup x, mget c.man mPort, mZoneOf c.man, true⟩
      let s := s.setCtx x { c with pend := c.pend ++ [(rd, .lkp, n)] }
      let s := s.pmc { code := 0x0601, master := ctxMaster x }
      { s with eng := { s.eng with serial := n + 1, lkps := Tab.put s.eng.lkps n l } })

/-- A result comes back to its register, if its program still waits for it. -/
def State.resultTo (s : State) (x : CtxId) (live : Bool) (rd : RegNo) (n : Nat) (v : Word) : State :=
  if live then (s.setG x rd v).updCtx x (fun c => { c with pend := c.pend.filter (fun p => p.2.1 == .flow || p.2.2 != n) }) else s

/-- The table kind of a descriptor's kind (Table 11.9). -/
def kindOf (d : BitVec 64) : Nat := if dKind d = 1 then tkEM else if dKind d = 2 then tkLPM else tkTCAM
/-- Index of a lookup result (Table 2.14). -/
def lkIndex (v : Word) : Nat := (v.extractLsb' 40 20).toNat

/-- LOOKUP_REPLY (R44, R115, R134): lookup `n` is answered; `bad` says that the entry found fails its parity check. -/
def execLookupReply (n : Nat) (bad : Bool) (s : State) : Outc :=
  match Tab.get? s.eng.lkps n with
  | none => .next s
  | some l =>
    let s := { s with eng := { s.eng with lkps := Tab.del s.eng.lkps n } }
    let r := s.lookup l.group l.desc l.key
    let hit := r.1.getLsbD 63
    let v := if bad && hit then lkErr else r.1
    let s := if bad && hit then s.parityEvent (kindOf l.desc) l.group (lkIndex r.1)
      else match r.2.2 with
      | some (k, ix) => s.parityEvent k l.group ix
      | none => s
    let s := if l.noHit || !(v.getLsbD 63) then s else s.markHit r.2.1
    let s := if v.getLsbD 63 then s else s.pmc { code := 0x0602, master := ctxMaster l.x }
    let em := dKind l.desc == 1 && l.x.profile == .p
    let s :=
      if em && dLearn l.desc && v == 0 then s.learnPost l.group ⟨1, dPart l.desc, l.port, l.zone, l.key, 0⟩
      else if em && dMove l.desc && v.getLsbD 63 && (v.extractLsb' 0 8).toNat != l.port then
        s.learnPost l.group ⟨2, dPart l.desc, l.port, l.zone, l.key, v.extractLsb' 0 40⟩
      else s
    .next (s.resultTo l.x l.live l.rd n v)

/-- Input colour of a meter request (R46). -/
def colourIn (m : Man) (aware : Bool) : Nat := if aware then mbits m mItc 3 2 else 0

/-- MTR of a stevedore: the meter held in the record (R46, R147). -/
def mtrRecord (x : CtxId) (rd rb : RegNo) (func : BitVec 11) (c : Ctx) (s : State) : State :=
  let u := s.passOf x
  match s.berth? u.1 u.2 with
  | none => s.setG x rd 0
  | some st =>
    let w := recWord st.img
    let r := s.recMeter (s.fWindow x c) w (colourIn c.man (func.getLsbD 0)) (s.g x rb).toNat (func.getLsbD 1)
    let s := s.fMark x
    let s := if wordEn w then s.setCtx x { c with f := r.2, fW := c.fW ||| byteMask 0x34 12 } else s
    s.setG x rd (BitVec.ofNat 64 r.1)

/-- MTR (R46). -/
def execMtr (x : CtxId) (rd ra rb : RegNo) (func : BitVec 11) (s : State) : Outc :=
  let ok := wfMtr x ra func
  match x with
  | .stev _ _ =>
    if ok && !(s.fReady x 0x30 0x40) then .next s else engineOnly x "MTR" ok 2 [rd, rb] s (mtrRecord x rd rb func)
  | _ =>
    if ok && s.fullWait x then .next s
    else engineOnly x "MTR" ok 2 [rd, ra, rb] s (fun c s =>
      let ix := (s.g x ra).toNat
      if 262144 ≤ ix then (s.setG x rd 2).faultCount x
      else
        let n := s.eng.serial
        let q : MeterReq := ⟨x, rd, ix, (s.g x rb).toNat, func.getLsbD 0, func.getLsbD 1, colourIn c.man (func.getLsbD 0), true⟩
        let s := s.setCtx x { c with pend := c.pend ++ [(rd, .mtr, n)] }
        { s with eng := { s.eng with serial := n + 1, mtrs := Tab.put s.eng.mtrs n q } })

/-- METER_REPLY (R245-R247, R485): request `n` is applied; `bad` is an uncorrectable error of the meter's entry, which is then
rewritten at its profile's INIT level (Table 16.1). -/
def execMeterReply (n : Nat) (bad : Bool) (s : State) : Outc :=
  match Tab.get? s.eng.mtrs n with
  | none => .next s
  | some q =>
    let s := { s with eng := { s.eng with mtrs := Tab.del s.eng.mtrs n } }
    let s := if bad then
        { s with tab := { s.tab with objs := Tab.put s.tab.objs (objKey oMETER q.ix) (s.meterFresh (s.objF oMETER q.ix 0 12)) } }.mcheck
          5 q.ix (ctxMaster q.x)
      else s
    let r := s.meterRun q.ix (some (q.inCol, q.len, q.test))
    .next (r.2.resultTo q.x q.live q.rd n (BitVec.ofNat 64 r.1))

/-- Hash unit `u` over key bytes (R107). -/
def State.hashUnit (s : State) (u : Nat) (key : List Byte) : Word :=
  let seed := s.get F.tblHashSeed_seed u
  if s.bit F.tblHashFunc_func u then (~~~(crc32c (BitVec.ofNat 32 seed) key)).setWidth 64 else kx64 key (BitVec.ofNat 64 seed)

/-- HSH (R45, R60): one cycle for each started 16 B of key. -/
def execHsh (x : CtxId) (rd ra : RegNo) (imm : BitVec 16) (s : State) : Outc :=
  let off := immBits imm 0 6
  let n := immBits imm 6 6 + 1
  keyIssue x "HSH" (wfHsh x ra imm) ((n + 15) / 16) off (off + n) [rd] s (fun c s =>
    s.setG x rd (s.hashUnit (immBits imm 12 4) (keyBytes c off n)))

/-- Whether a quay refuses a FLOW itself (R489). -/
def State.flowRefused (s : State) (gen : Bool) (prog n : Nat) : Bool :=
  !(s.bit F.ledgerCfg_en 0) || decide (keyMax s.compact < n) || !(s.bit F.ledgerProg_en (gen.toNat * 256 + prog)) ||
  (prog == 0xF0 && (s.compact || (n != 22 && n != 16))) || (prog == 0xF3 && s.compact) || decide (0xF5 ≤ prog)

/-- FLOW (R47, R489): the request waits in the quay for its slice; a refused one returns BAD_PARAM and takes no berth. -/
def execFlow (x : CtxId) (rd ra : RegNo) (imm : BitVec 16) (s : State) : Outc :=
  let n := immBits imm 0 6 + 1
  let prog := immBits imm 6 8
  keyIssue x "FLOW" (wfFlow x ra imm) 2 0 n [rd] s (fun c s =>
    if c.flowDone then (s.faultCount x).pilotStop x rPROGRAM_FAULT none
    else
      let key := keyBytes c 0 n
      let m := mset (mset c.man mFhash (s.hsOf key).toNat) mFprog prog
      if s.flowRefused c.gen prog n then
        (s.setCtx x { c with man := mset (mset m mFstat stBAD_PARAM) mFflags 0, flowDone := true }).setG x rd (BitVec.ofNat 64 stBAD_PARAM)
      else
        let sl := s.sliceOf prog key
        let s := s.setCtx x { c with man := m, flowDone := true, pend := c.pend ++ [(rd, .flow, 0)] }
        let s := s.updFrame c.fid (fun f => { f with flow := .asked ⟨sl % 16, Nat.mod_lt _ (by decide)⟩, flowReg := rd, askMan := m,
                                                     askKey := key, askProg := prog })
        let k := ctxUnit x * 16 + sl % 16
        { s with led := { s.led with asks := Tab.put s.led.asks k (Tab.getD s.led.asks k [] ++ [c.fid]) } })

end Sys2Proof.Machine
end

