-- ==== Sys2Proof/Machine/Scrub.lean ====
section
/-!
DEFINITION. Machine/Scrub.lean: the background sweeps (R449-R451): what a visit to one word of each memory of Table 16.1 does.
-/
namespace Sys2Proof.Machine

/-- The row of Table 16.1 that a memory has. -/
def memRow (m : MemKind) : Nat := m.ctorIdx

/-- A correction is counted in RAS_CNT_CORR of its memory (R449). -/
def State.corrected (s : State) (row : Nat) : State :=
  { s.bump F.rasCntCorr row with mode := { (s.bump F.rasCntCorr row).mode with
      corr := Tab.put s.mode.corr row (Tab.getD s.mode.corr row 0 + 1) } }

/-- The scrubber's master ID. -/
abbrev scrubMaster : Nat := 0x64

/-- The segment that holds the LOG buffer of an HBM address. -/
def State.segAt (s : State) (a : Nat) : Option (Nat × Seg) :=
  s.log.segs.find? (fun e => e.2.chunks.any (fun c => decide (s.hbAddr 1 c.1 ≤ a) && decide (a < s.hbAddr 1 c.1 + s.hbBytes 1)))

/-- An uncorrectable word of HBM: the word is bad, and a LOG chunk loses its segment (R403). -/
def State.hbmUe (s : State) (a : Nat) : State :=
  let s := s.mcheck 0 a scrubMaster
  let s := if s.hbmBad.contains (a / 8) then s else { s with hbmBad := s.hbmBad ++ [a / 8] }
  match s.segAt a with
  | some (i, g) => s.discardSeg i g
  | none => s

/-- An uncorrectable line of the flow cache: its record goes as R158 says, by slice and record number. -/
def State.cacheUe (s : State) (sl n : Nat) : State :=
  match (s.slice sl).recAt n with
  | none => s
  | some e =>
    if e.cached then
      let s := s.dropRec sl n
      let s := if natIsForward e then s.natUnmap e else s
      ((s.useFree.exportRec sl 5 n e).bump F.ledgerCntParity sl).mcheck 0 (s.freeVal.toNat % hbmSize) (0x40 + sl)
    else s

/-- A bad word of a program store (R450): rewritten from the first sibling that passes its check and was loaded by the same
PROG.LOAD, else it stays bad. The table kind that the event names is not said: a free value. -/
def State.progUe (s : State) (kind unit : Nat) (gen : Bool) (word : Nat) : State :=
  let key := fun (u : Nat) => progKey kind u gen word
  match Tab.get? s.eng.progs (key unit) with
  | none => s
  | some w =>
    let sib := fun (u : Nat) => u != unit && (match Tab.get? s.eng.progs (key u) with
      | some x => x.load == w.load && !x.bad
      | none => false)
    let k := s.freeVal.toNat % 256
    let s := s.useFree
    match (List.range 16).find? sib with
    | some u =>
      match Tab.get? s.eng.progs (key u) with
      | some x => { s with eng := { s.eng with progs := Tab.put s.eng.progs (key unit) x } }.cmdEvent 4 k stREPAIRED word
      | none => s
    | none =>
      { s with eng := { s.eng with progs := Tab.put s.eng.progs (key unit) { w with bad := true } } }.cmdEvent 5 k stPARITY word

/-- A bad save area: the CTL saved there meets a machine check when an engine restores it (R343, R346). -/
def State.saveUe (s : State) (k : Nat) : State :=
  let bad := fun (c : Ctl) => { c with settled := some stMC_UCODE }
  let busy := s.cmd.engines.any (fun e => issKey e.2 == k)
  if busy then s
  else { s with cmd := { s.cmd with parked := Tab.upd s.cmd.parked k bad, current := Tab.upd s.cmd.current k bad } }

/-- A bad task context: a task whose context is in the store is CANCELLED, by a cause the spec does not give. -/
def State.taskUe (s : State) (k : Nat) : State :=
  let s := s.mcheck 4 k scrubMaster
  if s.taskState k = tREADY ∨ s.taskState k = tWAITING then s.useFree.cancelTask k (s.freeVal.toNat % 4) else s

/-- An uncorrectable error in the last column of Table 16.1. `unit` and `addr` name the word: HBM and tug memory by byte address,
cells and descriptors by buffer, staging by frame, the flow cache by slice and record, tables by kind and quay group and entry,
meters and harbour entries by index, program stores by kind and unit and word, save areas by issuer or task, stamps by their key,
fuses by bit. -/
def State.scrubUe (s : State) (mem : MemKind) (unit addr : Nat) : State :=
  match mem with
  | .hbm => s.hbmUe addr
  | .cell => (match s.desc? addr with | some d => s.setDesc addr { d with bad := true } | none => s)
  | .bufState => s.mcheck 2 addr scrubMaster
  | .staging => s.frameDrop addr
  | .flowCache => s.cacheUe (unit % 16) addr
  | .table => s.parityEvent (unit % 16) (unit / 16 % 4) addr
  | .meter =>
    let prof := s.objF oMETER addr 0 12
    { s with tab := { s.tab with objs := Tab.put s.tab.objs (objKey oMETER addr) (s.meterFresh prof) } }.mcheck 5 addr scrubMaster
  | .progStore => s.progUe (unit / 16 % 4) (unit % 16) (addr.testBit 13) (addr % 8192)
  | .micro => s.corrected (memRow .micro)
  | .saveArea => if unit = 0 then s.saveUe addr else s.taskUe (addr % 1024)
  | .tugMem =>
    let s := s.mcheck 3 addr scrubMaster
    if s.tug.bad.contains (addr / 8) then s else { s with tug := { s.tug with bad := s.tug.bad ++ [addr / 8] } }
  | .capture => { s with time := { s.time with held := Tab.del s.time.held addr } }
  | .harbour =>
    let l := s.hbor.badEntries
    { s with hbor := { s.hbor with badEntries := if l.contains addr then l else l ++ [addr], sramBad := true } }.mcheck 6 addr scrubMaster
  | .fuse => s.mcheck 8 addr scrubMaster

/-- SCRUB_VISIT (R451): one word is read and checked; the HBM patrol stands still while a stack is lost (Table 16.2). No word of
HBM lies at or above 96 GiB. -/
def execScrubVisit (mem : MemKind) (unit : BitVec 8) (addr : Nat) (out : ScrubOut) (s : State) : Outc :=
  if mem = .hbm ∧ hbmSize ≤ addr then .fault .noHbm
  else .next (
    if s.modeNo = mRESET ∨ s.modeNo = mBOOT ∨ (mem = .hbm ∧ s.hbmFailed = true) then s
    else
      match out with
      | .clean => s
      | .corrected =>
        let s := s.corrected (memRow mem)
        if mem = .tugMem then s.bump F.tugCntEccCorr 0 else s
      | .uncorrectable => s.scrubUe mem unit.toNat addr)

end Sys2Proof.Machine
end

