-- ==== Sys2Proof/Machine/Dispatch.lean ====
section
/-!
DEFINITION. Machine/Dispatch.lean: one arm per command.
-/
namespace Sys2Proof.Machine

/-- The effect of a command on everything but the queue. -/
def exec (i : Instr) (s : State) : Host.Outcome State Fault Refusal :=
  match i with
  | .frameRxStart p lane bit phi frag bytes => Sys2Proof.Machine.execFrameRxStart p lane bit phi frag bytes s
  | .frameRxEnd fid fecBad => Sys2Proof.Machine.execFrameRxEnd fid fecBad s
  | .headDispatch q fetchBad => Sys2Proof.Machine.execHeadDispatch q fetchBad s
  | .add x rd ra rb => Sys2Proof.Machine.execAdd x rd ra rb s
  | .sub x rd ra rb => Sys2Proof.Machine.execSub x rd ra rb s
  | .andd x rd ra rb => Sys2Proof.Machine.execAndd x rd ra rb s
  | .orr x rd ra rb => Sys2Proof.Machine.execOrr x rd ra rb s
  | .xor x rd ra rb => Sys2Proof.Machine.execXor x rd ra rb s
  | .andn x rd ra rb => Sys2Proof.Machine.execAndn x rd ra rb s
  | .shl x rd ra rb => Sys2Proof.Machine.execShl x rd ra rb s
  | .shr x rd ra rb => Sys2Proof.Machine.execShr x rd ra rb s
  | .sar x rd ra rb => Sys2Proof.Machine.execSar x rd ra rb s
  | .rol x rd ra rb => Sys2Proof.Machine.execRol x rd ra rb s
  | .minu x rd ra rb => Sys2Proof.Machine.execMinu x rd ra rb s
  | .maxu x rd ra rb => Sys2Proof.Machine.execMaxu x rd ra rb s
  | .min x rd ra rb => Sys2Proof.Machine.execMin x rd ra rb s
  | .max x rd ra rb => Sys2Proof.Machine.execMax x rd ra rb s
  | .sltu x rd ra rb => Sys2Proof.Machine.execSltu x rd ra rb s
  | .slt x rd ra rb => Sys2Proof.Machine.execSlt x rd ra rb s
  | .mul x rd ra rb => Sys2Proof.Machine.execMul x rd ra rb s
  | .popc x rd ra rb => Sys2Proof.Machine.execPopc x rd ra rb s
  | .clz x rd ra rb => Sys2Proof.Machine.execClz x rd ra rb s
  | .bswap16 x rd ra rb => Sys2Proof.Machine.execBswap16 x rd ra rb s
  | .bswap32 x rd ra rb => Sys2Proof.Machine.execBswap32 x rd ra rb s
  | .bswap64 x rd ra rb => Sys2Proof.Machine.execBswap64 x rd ra rb s
  | .csadd x rd ra rb => Sys2Proof.Machine.execCsadd x rd ra rb s
  | .addi x rd ra imm => Sys2Proof.Machine.execAddi x rd ra imm s
  | .andi x rd ra imm => Sys2Proof.Machine.execAndi x rd ra imm s
  | .ori x rd ra imm => Sys2Proof.Machine.execOri x rd ra imm s
  | .xori x rd ra imm => Sys2Proof.Machine.execXori x rd ra imm s
  | .shi x rd ra imm => Sys2Proof.Machine.execShi x rd ra imm s
  | .movi x rd ra imm => Sys2Proof.Machine.execMovi x rd ra imm s
  | .ext x rd f => Sys2Proof.Machine.execExt x rd f s
  | .extc x rd f => Sys2Proof.Machine.execExtc x rd f s
  | .ins x rd f => Sys2Proof.Machine.execIns x rd f s
  | .insc x rd f => Sys2Proof.Machine.execInsc x rd f s
  | .hdr x rd ra imm => Sys2Proof.Machine.execHdr x rd ra imm s
  | .advc x rd ra imm => Sys2Proof.Machine.execAdvc x rd ra imm s
  | .lkp x tbl klen rd koff nohit => Sys2Proof.Machine.execLkp x tbl klen rd koff nohit s
  | .lookupReply n bad => Sys2Proof.Machine.execLookupReply n bad s
  | .mtr x rd ra rb func => Sys2Proof.Machine.execMtr x rd ra rb func s
  | .meterReply n bad => Sys2Proof.Machine.execMeterReply n bad s
  | .hsh x rd ra imm => Sys2Proof.Machine.execHsh x rd ra imm s
  | .flow x rd ra imm => Sys2Proof.Machine.execFlow x rd ra imm s
  | .ldb t rd ra imm ue => Sys2Proof.Machine.execLdb t rd ra imm ue s
  | .ldh t rd ra imm ue => Sys2Proof.Machine.execLdh t rd ra imm ue s
  | .ldw t rd ra imm ue => Sys2Proof.Machine.execLdw t rd ra imm ue s
  | .ldd t rd ra imm ue => Sys2Proof.Machine.execLdd t rd ra imm ue s
  | .stb t rd ra imm => Sys2Proof.Machine.execStb t rd ra imm s
  | .sth t rd ra imm => Sys2Proof.Machine.execSth t rd ra imm s
  | .stw t rd ra imm => Sys2Proof.Machine.execStw t rd ra imm s
  | .std t rd ra imm => Sys2Proof.Machine.execStd t rd ra imm s
  | .ldc t rd ra imm => Sys2Proof.Machine.execLdc t rd ra imm s
  | .stc t rd ra imm => Sys2Proof.Machine.execStc t rd ra imm s
  | .ldcd t rd ra imm => Sys2Proof.Machine.execLdcd t rd ra imm s
  | .stcd t rd ra imm => Sys2Proof.Machine.execStcd t rd ra imm s
  | .amoAdd t rd ra rb ue => Sys2Proof.Machine.execAmoAdd t rd ra rb ue s
  | .amoSwap t rd ra rb ue => Sys2Proof.Machine.execAmoSwap t rd ra rb ue s
  | .amoOr t rd ra rb ue => Sys2Proof.Machine.execAmoOr t rd ra rb ue s
  | .amoAnd t rd ra rb ue => Sys2Proof.Machine.execAmoAnd t rd ra rb ue s
  | .amoCas t rd ra rb ue => Sys2Proof.Machine.execAmoCas t rd ra rb ue s
  | .br x cond im ra rb disp => Sys2Proof.Machine.execBr x cond im ra rb disp s
  | .jal t rd ra imm => Sys2Proof.Machine.execJal t rd ra imm s
  | .jr t rd ra rb func => Sys2Proof.Machine.execJr t rd ra rb func s
  | .mfs x rd ra imm => Sys2Proof.Machine.execMfs x rd ra imm s
  | .mts x rd ra imm => Sys2Proof.Machine.execMts x rd ra imm s
  | .ctl t op desc => Sys2Proof.Machine.execCtl t op desc s
  | .nop x => Sys2Proof.Machine.execNop x s
  | .endProg x => Sys2Proof.Machine.execEndProg x s
  | .drop x reason => Sys2Proof.Machine.execDrop x reason s
  | .excp x cause copy => Sys2Proof.Machine.execExcp x cause copy s
  | .recirc x => Sys2Proof.Machine.execRecirc x s
  | .mirror x session => Sys2Proof.Machine.execMirror x session s
  | .fend x write delete => Sys2Proof.Machine.execFend x write delete s
  | .waitPend x => Sys2Proof.Machine.execWaitPend x s
  | .trap t code => Sys2Proof.Machine.execTrap t code s
  | .tret t => Sys2Proof.Machine.execTret t s
  | .fence t => Sys2Proof.Machine.execFence t s
  | .waitf t r => Sys2Proof.Machine.execWaitf t r s
  | .yield t => Sys2Proof.Machine.execYield t s
  | .interruptTaken t => Sys2Proof.Machine.execInterruptTaken t s
  | .flowRequestAccept sl q => Sys2Proof.Machine.execFlowRequestAccept sl q s
  | .indexReadDone sl b ue => Sys2Proof.Machine.execIndexReadDone sl b ue s
  | .recordReadDone sl b ue => Sys2Proof.Machine.execRecordReadDone sl b ue s
  | .stevedoreDispatch sl b fetchBad => Sys2Proof.Machine.execStevedoreDispatch sl b fetchBad s
  | .flowPassReturn sl b => Sys2Proof.Machine.execFlowPassReturn sl b s
  | .indexWriteDone sl => Sys2Proof.Machine.execIndexWriteDone sl s
  | .indexUnitMove sl => Sys2Proof.Machine.execIndexUnitMove sl s
  | .ledgerAgerVisit sl ue => Sys2Proof.Machine.execLedgerAgerVisit sl ue s
  | .rehashMigrate sl => Sys2Proof.Machine.execRehashMigrate sl s
  | .release fid bad => Sys2Proof.Machine.execRelease fid bad s
  | .replicationCopy q => Sys2Proof.Machine.execReplicationCopy q s
  | .allocRequest q pick => Sys2Proof.Machine.execAllocRequest q pick s
  | .cellWriteStart q => Sys2Proof.Machine.execCellWriteStart q s
  | .enqueue q => Sys2Proof.Machine.execEnqueue q s
  | .tmSelect e => Sys2Proof.Machine.execTmSelect e s
  | .egressReadStart e damaged zoneBad fetchBad => Sys2Proof.Machine.execEgressReadStart e damaged zoneBad fetchBad s
  | .egressCommit x phic => Sys2Proof.Machine.execEgressCommit x phic s
  | .txComplete p bit phi expr cuts => Sys2Proof.Machine.execTxComplete p bit phi expr cuts s
  | .breakwaterTick => Sys2Proof.Machine.execBreakwaterTick s
  | .learnFilter g => Sys2Proof.Machine.execLearnFilter g s
  | .emAgeTick p => Sys2Proof.Machine.execEmAgeTick p s
  | .emAgerVisit p => Sys2Proof.Machine.execEmAgerVisit p s
  | .fragAgeTick => Sys2Proof.Machine.execFragAgeTick s
  | .lpmSpareReturn => Sys2Proof.Machine.execLpmSpareReturn s
  | .tableRepair => Sys2Proof.Machine.execTableRepair s
  | .meterSweep => Sys2Proof.Machine.execMeterSweep s
  | .depthSampleSweep => Sys2Proof.Machine.execDepthSampleSweep s
  | .gclEntryAdvance p => Sys2Proof.Machine.execGclEntryAdvance p s
  | .gclChange p => Sys2Proof.Machine.execGclChange p s
  | .linkUp p => Sys2Proof.Machine.execLinkUp p s
  | .linkDown p => Sys2Proof.Machine.execLinkDown p s
  | .calDone p skew dRx dTx kTx => Sys2Proof.Machine.execCalDone p skew dRx dTx kTx s
  | .linkHoldExpiry p => Sys2Proof.Machine.execLinkHoldExpiry p s
  | .fecDegradedTick p corrected => Sys2Proof.Machine.execFecDegradedTick p corrected s
  | .pauseFrameRx p quanta => Sys2Proof.Machine.execPauseFrameRx p quanta s
  | .pfcFrameRx p mask quanta => Sys2Proof.Machine.execPfcFrameRx p mask quanta s
  | .pauseExpiry p prio => Sys2Proof.Machine.execPauseExpiry p prio s
  | .pfcRefresh p => Sys2Proof.Machine.execPfcRefresh p s
  | .pfcWdTick p prio => Sys2Proof.Machine.execPfcWdTick p prio s
  | .lpiEnter p => Sys2Proof.Machine.execLpiEnter p s
  | .rxLpi p => Sys2Proof.Machine.execRxLpi p s
  | .preemptVerifySend p => Sys2Proof.Machine.execPreemptVerifySend p s
  | .preemptVerifyResponse p => Sys2Proof.Machine.execPreemptVerifyResponse p s
  | .measTimeout b => Sys2Proof.Machine.execMeasTimeout b s
  | .jumpWindowEnd g => Sys2Proof.Machine.execJumpWindowEnd g s
  | .acceptAfterExpiry b => Sys2Proof.Machine.execAcceptAfterExpiry b s
  | .replicaLoopUpdate p mRx mTx => Sys2Proof.Machine.execReplicaLoopUpdate p mRx mTx s
  | .ppsInEdge n phi => Sys2Proof.Machine.execPpsInEdge n phi s
  | .ppsInLoss n => Sys2Proof.Machine.execPpsInLoss n s
  | .ppsOutEdge n => Sys2Proof.Machine.execPpsOutEdge n s
  | .todTxSend n => Sys2Proof.Machine.execTodTxSend n s
  | .todRxMessage n msg => Sys2Proof.Machine.execTodRxMessage n msg s
  | .dpllQualify d inp => Sys2Proof.Machine.execDpllQualify d inp s
  | .dpllDisqualify d inp => Sys2Proof.Machine.execDpllDisqualify d inp s
  | .dpllState d st => Sys2Proof.Machine.execDpllState d st s
  | .txtsDrain p => Sys2Proof.Machine.execTxtsDrain p s
  | .doorbellTail fn c index gen mem => Sys2Proof.Machine.execDoorbellTail fn c index gen mem s
  | .doorbellHead fn c index gen => Sys2Proof.Machine.execDoorbellHead fn c index gen s
  | .cmdDispatch e ucErr => Sys2Proof.Machine.execCmdDispatch e ucErr s
  | .sliceEnd e => Sys2Proof.Machine.execSliceEnd e s
  | .parkWake iss => Sys2Proof.Machine.execParkWake iss s
  | .parkTimeout iss => Sys2Proof.Machine.execParkTimeout iss s
  | .chanOpen iss tag w => Sys2Proof.Machine.execChanOpen iss tag w s
  | .chanClose iss tag w => Sys2Proof.Machine.execChanClose iss tag w s
  | .chanInfo iss tag w => Sys2Proof.Machine.execChanInfo iss tag w s
  | .cmdAbort iss tag w => Sys2Proof.Machine.execCmdAbort iss tag w s
  | .cmdWait iss tag w => Sys2Proof.Machine.execCmdWait iss tag w s
  | .barrier iss tag w => Sys2Proof.Machine.execBarrier iss tag w s
  | .getReg iss tag w => Sys2Proof.Machine.execGetReg iss tag w s
  | .setReg iss tag w => Sys2Proof.Machine.execSetReg iss tag w s
  | .setMasked iss tag w => Sys2Proof.Machine.execSetMasked iss tag w s
  | .setm iss tag w => Sys2Proof.Machine.execSetm iss tag w s
  | .sysModeMoored iss tag w => Sys2Proof.Machine.execSysModeMoored iss tag w s
  | .sysModeService iss tag w => Sys2Proof.Machine.execSysModeService iss tag w s
  | .sysModeSlack iss tag w => Sys2Proof.Machine.execSysModeSlack iss tag w s
  | .sysModeDrydock iss tag w => Sys2Proof.Machine.execSysModeDrydock iss tag w s
  | .sysModeHalt iss tag w => Sys2Proof.Machine.execSysModeHalt iss tag w s
  | .harbour iss tag w => Sys2Proof.Machine.execHarbour iss tag w s
  | .emInsert iss tag w => Sys2Proof.Machine.execEmInsert iss tag w s
  | .emDelete iss tag w => Sys2Proof.Machine.execEmDelete iss tag w s
  | .emUpdate iss tag w => Sys2Proof.Machine.execEmUpdate iss tag w s
  | .emSearch iss tag w => Sys2Proof.Machine.execEmSearch iss tag w s
  | .emNext iss tag w => Sys2Proof.Machine.execEmNext iss tag w s
  | .emFlushPort iss tag w => Sys2Proof.Machine.execEmFlushPort iss tag w s
  | .lpmInsert iss tag w => Sys2Proof.Machine.execLpmInsert iss tag w s
  | .lpmDelete iss tag w => Sys2Proof.Machine.execLpmDelete iss tag w s
  | .lpmSearch iss tag w => Sys2Proof.Machine.execLpmSearch iss tag w s
  | .lpmNext iss tag w => Sys2Proof.Machine.execLpmNext iss tag w s
  | .tcamWrite iss tag w => Sys2Proof.Machine.execTcamWrite iss tag w s
  | .tcamRead iss tag w => Sys2Proof.Machine.execTcamRead iss tag w s
  | .tcamClear iss tag w => Sys2Proof.Machine.execTcamClear iss tag w s
  | .objWrite iss tag w => Sys2Proof.Machine.execObjWrite iss tag w s
  | .objRead iss tag w => Sys2Proof.Machine.execObjRead iss tag w s
  | .progLoad iss tag w => Sys2Proof.Machine.execProgLoad iss tag w s
  | .genSwap iss tag w => Sys2Proof.Machine.execGenSwap iss tag w s
  | .flowRead iss tag w => Sys2Proof.Machine.execFlowRead iss tag w s
  | .flowWrite iss tag w => Sys2Proof.Machine.execFlowWrite iss tag w s
  | .flowDelete iss tag w => Sys2Proof.Machine.execFlowDelete iss tag w s
  | .flowPin iss tag w => Sys2Proof.Machine.execFlowPin iss tag w s
  | .flowUnpin iss tag w => Sys2Proof.Machine.execFlowUnpin iss tag w s
  | .flowNext iss tag w => Sys2Proof.Machine.execFlowNext iss tag w s
  | .ledgerRehash iss tag w => Sys2Proof.Machine.execLedgerRehash iss tag w s
  | .tmShaper iss tag w => Sys2Proof.Machine.execTmShaper iss tag w s
  | .tmGcl iss tag w => Sys2Proof.Machine.execTmGcl iss tag w s
  | .timeMeas iss tag w => Sys2Proof.Machine.execTimeMeas iss tag w s
  | .timeMaster iss tag w => Sys2Proof.Machine.execTimeMaster iss tag w s
  | .timeAcceptStep iss tag w => Sys2Proof.Machine.execTimeAcceptStep iss tag w s
  | .timeAcceptSlew iss tag w => Sys2Proof.Machine.execTimeAcceptSlew iss tag w s
  | .timeAcceptKeep iss tag w => Sys2Proof.Machine.execTimeAcceptKeep iss tag w s
  | .timeXgOpen iss tag w => Sys2Proof.Machine.execTimeXgOpen iss tag w s
  | .timeXgClose iss tag w => Sys2Proof.Machine.execTimeXgClose iss tag w s
  | .logSeal iss tag w => Sys2Proof.Machine.execLogSeal iss tag w s
  | .logPartOpen iss tag w => Sys2Proof.Machine.execLogPartOpen iss tag w s
  | .logPartClose iss tag w => Sys2Proof.Machine.execLogPartClose iss tag w s
  | .taskCreate iss tag w => Sys2Proof.Machine.execTaskCreate iss tag w s
  | .taskRearm iss tag w => Sys2Proof.Machine.execTaskRearm iss tag w s
  | .taskCancel iss tag w => Sys2Proof.Machine.execTaskCancel iss tag w s
  | .taskSignal iss tag w => Sys2Proof.Machine.execTaskSignal iss tag w s
  | .mboxPost iss tag w => Sys2Proof.Machine.execMboxPost iss tag w s
  | .bufAlloc iss tag w => Sys2Proof.Machine.execBufAlloc iss tag w s
  | .bufFree iss tag w => Sys2Proof.Machine.execBufFree iss tag w s
  | .bufGive iss tag w => Sys2Proof.Machine.execBufGive iss tag w s
  | .ucodePatch iss tag w => Sys2Proof.Machine.execUcodePatch iss tag w s
  | .ucodeInfo iss tag w => Sys2Proof.Machine.execUcodeInfo iss tag w s
  | .taskPlace k => Sys2Proof.Machine.execTaskPlace k s
  | .contextSwitch t => Sys2Proof.Machine.execContextSwitch t s
  | .delayListExpiry => Sys2Proof.Machine.execDelayListExpiry s
  | .send0 t m v => Sys2Proof.Machine.execSend0 t m v s
  | .send1 t m v => Sys2Proof.Machine.execSend1 t m v s
  | .recv0 t rd m => Sys2Proof.Machine.execRecv0 t rd m s
  | .recv1 t rd m => Sys2Proof.Machine.execRecv1 t rd m s
  | .exqHeadWrite t v => Sys2Proof.Machine.execExqHeadWrite t v s
  | .wdKick t => Sys2Proof.Machine.execWdKick t s
  | .timerWrite t v => Sys2Proof.Machine.execTimerWrite t v s
  | .timerExpiry t => Sys2Proof.Machine.execTimerExpiry t s
  | .ipi t v => Sys2Proof.Machine.execIpi t v s
  | .coreWdExpiry t => Sys2Proof.Machine.execCoreWdExpiry t s
  | .syswdKick t v => Sys2Proof.Machine.execSyswdKick t v s
  | .syswdExpiry => Sys2Proof.Machine.execSyswdExpiry s
  | .pmcSnapshot v => Sys2Proof.Machine.execPmcSnapshot v s
  | .pmcSampleHead v => Sys2Proof.Machine.execPmcSampleHead v s
  | .rxpDelivery c => Sys2Proof.Machine.execRxpDelivery c s
  | .rxpStallExpiry c => Sys2Proof.Machine.execRxpStallExpiry c s
  | .txpFetch c => Sys2Proof.Machine.execTxpFetch c s
  | .evtHoldRelease c => Sys2Proof.Machine.execEvtHoldRelease c s
  | .evtHoldExpiry c => Sys2Proof.Machine.execEvtHoldExpiry c s
  | .recEntryServe c => Sys2Proof.Machine.execRecEntryServe c s
  | .msixSend c => Sys2Proof.Machine.execMsixSend c s
  | .msixUnmask v => Sys2Proof.Machine.execMsixUnmask v s
  | .dmaReadError c cause addr => Sys2Proof.Machine.execDmaReadError c cause addr s
  | .functionLevelReset fn => Sys2Proof.Machine.execFunctionLevelReset fn s
  | .vfEnableClear => Sys2Proof.Machine.execVfEnableClear s
  | .busMasterDisable fn => Sys2Proof.Machine.execBusMasterDisable fn s
  | .bar4Access write off data => Sys2Proof.Machine.execBar4Access write off data s
  | .hostErrStatusClear v => Sys2Proof.Machine.execHostErrStatusClear v s
  | .logCapture => Sys2Proof.Machine.execLogCapture s
  | .sealMsExpiry p => Sys2Proof.Machine.execSealMsExpiry p s
  | .sealSign => Sys2Proof.Machine.execSealSign s
  | .chunkWriteDone p seg lba => Sys2Proof.Machine.execChunkWriteDone p seg lba s
  | .segmentFlushDone p seg => Sys2Proof.Machine.execSegmentFlushDone p seg s
  | .driveWriteFail p seg => Sys2Proof.Machine.execDriveWriteFail p seg s
  | .logScanDone found => Sys2Proof.Machine.execLogScanDone found s
  | .resetAssert => Sys2Proof.Machine.execResetAssert s
  | .resetRelease => Sys2Proof.Machine.execResetRelease s
  | .dpll0Stable => Sys2Proof.Machine.execDpll0Stable s
  | .bootComplete b => Sys2Proof.Machine.execBootComplete b s
  | .bootError code => Sys2Proof.Machine.execBootError code s
  | .sysReset v => Sys2Proof.Machine.execSysReset v s
  | .harbourNAssert => Sys2Proof.Machine.execHarbourNAssert s
  | .harbourNDeassert => Sys2Proof.Machine.execHarbourNDeassert s
  | .harbourEntry => Sys2Proof.Machine.execHarbourEntry s
  | .hborFrameRx fid => Sys2Proof.Machine.execHborFrameRx fid s
  | .hborLaunch p => Sys2Proof.Machine.execHborLaunch p s
  | .hborDrainExpiry => Sys2Proof.Machine.execHborDrainExpiry s
  | .harbourExitComplete => Sys2Proof.Machine.execHarbourExitComplete s
  | .slackQuiesced => Sys2Proof.Machine.execSlackQuiesced s
  | .slackTimeout => Sys2Proof.Machine.execSlackTimeout s
  | .haltEntry => Sys2Proof.Machine.execHaltEntry s
  | .hborBankSwitch v => Sys2Proof.Machine.execHborBankSwitch v s
  | .hborBankCheckDone => Sys2Proof.Machine.execHborBankCheckDone s
  | .sysHborCauseClear v => Sys2Proof.Machine.execSysHborCauseClear v s
  | .drydockBistStart v => Sys2Proof.Machine.execDrydockBistStart v s
  | .drydockBistDone fail => Sys2Proof.Machine.execDrydockBistDone fail s
  | .pwrOkLoss => Sys2Proof.Machine.execPwrOkLoss s
  | .thermtrip => Sys2Proof.Machine.execThermtrip s
  | .tempAlarm die hbm => Sys2Proof.Machine.execTempAlarm die hbm s
  | .avsCommand target acked => Sys2Proof.Machine.execAvsCommand target acked s
  | .scrubVisit mem unit addr out => Sys2Proof.Machine.execScrubVisit mem unit addr out s
  | .sealStormTick => Sys2Proof.Machine.execSealStormTick s
  | .corrRateTick => Sys2Proof.Machine.execCorrRateTick s
  | .sealStart u => Sys2Proof.Machine.execSealStart u s
  | .sealRangeDone u => Sys2Proof.Machine.execSealRangeDone u s
  | .sealData u v => Sys2Proof.Machine.execSealData u v s
  | .sealFinal u => Sys2Proof.Machine.execSealFinal u s
  | .sealReset u => Sys2Proof.Machine.execSealReset u s
  | .sealRunningWrite u v => Sys2Proof.Machine.execSealRunningWrite u v s
  | .secArbAdvance fn v => Sys2Proof.Machine.execSecArbAdvance fn v s
  | .ownerSlotProgram fn hash slot => Sys2Proof.Machine.execOwnerSlotProgram fn hash slot s
  | .ownerRevoke fn => Sys2Proof.Machine.execOwnerRevoke fn s
  | .debugLock fn => Sys2Proof.Machine.execDebugLock fn s
  | .attestationStart => Sys2Proof.Machine.execAttestationStart s
  | .attestationDone => Sys2Proof.Machine.execAttestationDone s
  | .debugOpen => Sys2Proof.Machine.execDebugOpen s
  | .quayFragFlush v => Sys2Proof.Machine.execQuayFragFlush v s
  | .quayBwCfgWrite c v => Sys2Proof.Machine.execQuayBwCfgWrite c v s
  | .egrMirrorCfgWrite n v => Sys2Proof.Machine.execEgrMirrorCfgWrite n v s
  | .tmLatCfgWrite n v => Sys2Proof.Machine.execTmLatCfgWrite n v s
  | .tmLatCountRead n => Sys2Proof.Machine.execTmLatCountRead n s
  | .timeNowRead master b => Sys2Proof.Machine.execTimeNowRead master b s
  | .txtsDataRead p word => Sys2Proof.Machine.execTxtsDataRead p word s
  | .logEnable v => Sys2Proof.Machine.execLogEnable v s
  | .driveReady r id v => Sys2Proof.Machine.execDriveReady r id v s
  | .cmdEngineUnfence e => Sys2Proof.Machine.execCmdEngineUnfence e s
  | .mboxEnable m v => Sys2Proof.Machine.execMboxEnable m v s
  | .counterReadClear off => Sys2Proof.Machine.execCounterReadClear off s
  | .registerWrite fn off n v => Sys2Proof.Machine.execRegisterWrite fn off n v s
  | .illegalInstruction t word => Sys2Proof.Machine.execIllegalInstruction t word s
  | .linkConditionsMet p => Sys2Proof.Machine.execLinkConditionsMet p s
  | .linkConditionFailed p cause => Sys2Proof.Machine.execLinkConditionFailed p cause s
  | .thermtripClear => Sys2Proof.Machine.execThermtripClear s
  | .hbmStackLost st hot => Sys2Proof.Machine.execHbmStackLost st hot s
  | .cryptoSelfTestFail => Sys2Proof.Machine.execCryptoSelfTestFail s
  | .qualityTrained b => Sys2Proof.Machine.execQualityTrained b s
  | .degradeAfterExpiry b => Sys2Proof.Machine.execDegradeAfterExpiry b s
  | .holdReady d => Sys2Proof.Machine.execHoldReady d s
  | .recReadComplete c ok => Sys2Proof.Machine.execRecReadComplete c ok s
  | .retentionExpiry p seg => Sys2Proof.Machine.execRetentionExpiry p seg s
  | .driveLinked r => Sys2Proof.Machine.execDriveLinked r s
  | .driveRemoved r => Sys2Proof.Machine.execDriveRemoved r s

end Sys2Proof.Machine
end

