-- ==== Sys2Proof/Safety.lean ====
section
/-!
DEFINITION. Safety.lean: what a safe run is, and the words that the claims use: the block goes on through every step; the canonical
form that every step keeps; when an engine, a tug core or a command engine takes the command it is given, and where it stands after.
-/
namespace Sys2Proof

/-- A step that the block completes. -/
def Completes (s : Machine.State) : Prop := ∃ t, Machine.step s = .next t

/-- `n` steps that the block completes. -/
def SafeFor : Nat → Machine.State → Prop
  | 0, _ => True
  | n + 1, s => ∃ t, Machine.step s = .next t ∧ SafeFor n t

namespace Machine

/-- The canonical form: the register table rises strictly by number, and the three memories rise strictly by address and list no
byte that equals what an unlisted address reads as. Equal contents are then equal data. -/
structure State.Canonical (s : State) : Prop where
  regs : Tab.wf s.regs = true
  dmem : s.dmem.wf = true
  hbm : s.hbm.wf = true
  hostMem : s.hostMem.wf = true

/-! ### Engines of profiles P, S and E -/

/-- Context `x` runs program `c`, and its next word issues (R32, R59-R61): the program goes on, no register that the word uses is
pending, the word is inside the program and its fetch is good, and its cycles fit the budget. -/
structure Issues (x : CtxId) (cost : Nat) (uses : List RegNo) (s : State) (c : Ctx) : Prop where
  profile : x.profile = .p ∨ x.profile = .s ∨ x.profile = .e
  running : s.ctx? x = some c
  going : c.ended = false
  ready : isPending c uses = false
  inside : s.pastEnd x c = false
  fetched : s.fetch x c.gen c.pc = .good
  budget : c.cyc + cost ≤ budgetOf x.profile

/-- The program after one word: the cycles charged, the pc past the word. -/
def Ctx.after (c : Ctx) (cost : Nat) : Ctx := { c with cyc := c.cyc + cost, pc := c.pc + 4 }

/-! ### Tug cores -/

/-- Core `t` runs a task that is not to stop here, and the word at its pc may be fetched and is sound: the word issues. -/
structure TugIssues (t : Core) (s : State) : Prop where
  running : s.running? t.val ≠ none
  kept : s.cancelDue t = none
  fetched : s.fetchAllowed t (s.tpc t).toNat = true
  sound : s.wordBad t.val (s.tpc t).toNat = false

/-! ### Command engines -/

/-- Engine `e` has taken CTL `c` of an issuer (R335): the issuer is off the ready list, the CTL in hand. -/
def State.taken (s : State) (e : Nat) (iss : Issuer) (c : Ctl) : State :=
  { s with cmd := { s.cmd with engines := Tab.put s.cmd.engines e iss, current := Tab.put s.cmd.current (issKey iss) c,
                               ready := s.cmd.ready.filter (fun i => i != iss) } }

/-- A control instruction is taken: commands are executed, its issuer may start it, `e` is the lowest free engine, and a completion can
be written (R332, R335, R338). `c` is the CTL, `s1` the state in which it starts. -/
structure CtlTaken (op : Nat) (iss : Issuer) (tag : BitVec 6) (w : List Word) (s : State) (c : Ctl) (s1 : State) : Prop where
  runs : s.commandsRun = true
  may : s.mayIssue iss = true
  ctl : c = s.directCtl iss op tag.toNat w
  engine : ∃ e, (List.range 8).find? (fun e => s.engineFree e) = some e ∧ s1 = s.taken e iss c
  room : s1.cqRoom iss = true

/-- A control instruction starts (R338): it is taken, the mode is one of its modes, its issuer has the right to it, and it has as many
operand words as it needs. -/
structure CtlIssues (op : Nat) (iss : Issuer) (tag : BitVec 6) (w : List Word) (s : State) (c : Ctl) (s1 : State) : Prop
    extends CtlTaken op iss tag w s c s1 where
  mode : ∀ r, ctlOp op = some r → opModeOk r.2.1 s1.modeNo = true
  right : ∀ r, ctlOp op = some r → r.2.2.1 = true → s1.issRestricted iss c = false
  words : ∀ r, ctlOp op = some r → r.1 ≤ w.length

/-! ### Tables of the claims -/

/-- Table 2.11: an instruction, and the function of a = g[ra] and b = g[rb] that it writes to g[rd]. -/
def aluTable : List ((CtxId → RegNo → RegNo → RegNo → Instr) × (Word → Word → Word)) :=
  [(.add, fun a b => a + b), (.sub, fun a b => a - b), (.andd, fun a b => a &&& b), (.orr, fun a b => a ||| b),
   (.xor, fun a b => a ^^^ b), (.andn, fun a b => a &&& ~~~b), (.shl, fun a b => a <<< (b.toNat % 64)),
   (.shr, fun a b => a >>> (b.toNat % 64)), (.sar, fun a b => a.sshiftRight (b.toNat % 64)),
   (.rol, fun a b => a.rotateLeft (b.toNat % 64)), (.minu, fun a b => if a ≤ b then a else b),
   (.maxu, fun a b => if a ≤ b then b else a), (.min, fun a b => if a.sle b then a else b), (.max, fun a b => if a.sle b then b else a),
   (.sltu, fun a b => if a < b then 1 else 0), (.slt, fun a b => if a.slt b then 1 else 0), (.mul, fun a b => a * b),
   (.popc, fun a _ => BitVec.ofNat 64 ((List.range 64).countP (fun i => a.getLsbD i))),
   (.clz, fun a _ => BitVec.ofNat 64 ((List.range 64).countP (fun i => decide (a.toNat < 2 ^ i)))),
   (.bswap16, fun a _ => (a.extractLsb' 0 8 ++ a.extractLsb' 8 8).setWidth 64),
   (.bswap32, fun a _ => (a.extractLsb' 0 8 ++ a.extractLsb' 8 8 ++ a.extractLsb' 16 8 ++ a.extractLsb' 24 8).setWidth 64),
   (.bswap64, fun a _ => a.extractLsb' 0 8 ++ a.extractLsb' 8 8 ++ a.extractLsb' 16 8 ++ a.extractLsb' 24 8 ++
     a.extractLsb' 32 8 ++ a.extractLsb' 40 8 ++ a.extractLsb' 48 8 ++ a.extractLsb' 56 8),
   (.csadd, fun a b => let t := a.toNat % 65536 + b.toNat % 65536; BitVec.ofNat 64 (if 65536 ≤ t then t - 65535 else t))]

/-- The F-I group of R39: an instruction, the immediates it takes, and the value of g[rd] from its old value and g[ra]. -/
def immTable : List ((CtxId → RegNo → RegNo → BitVec 16 → Instr) × (RegNo → BitVec 16 → Prop) × (RegNo → BitVec 16 → Word → Word → Word)) :=
  [(.addi, fun _ _ => True, fun _ imm _ a => a + imm.signExtend 64), (.andi, fun _ _ => True, fun _ imm _ a => a &&& imm.setWidth 64),
   (.ori, fun _ _ => True, fun _ imm _ a => a ||| imm.setWidth 64), (.xori, fun _ _ => True, fun _ imm _ a => a ^^^ imm.setWidth 64),
   (.shi, fun _ imm => imm.toNat < 256, fun _ imm _ a =>
     let n := imm.toNat % 64
     if imm.toNat < 64 then a <<< n else if imm.toNat < 128 then a >>> n else if imm.toNat < 192 then a.sshiftRight n else a.rotateLeft n),
   (.movi, fun ra _ => ra.val < 8, fun ra imm old _ =>
     let v : Word := imm.setWidth 64 <<< (16 * (ra.val % 4))
     if 4 ≤ ra.val then (old &&& ~~~((0xFFFF : Word) <<< (16 * (ra.val % 4)))) ||| v else v)]

/-- Where a field lies in the spaces of an engine's context (R40): its low bit, counted from bit 0 of the space's value, in wire
order from the end (`H`, `K`) and little-endian from the start (`M`, `F`). -/
def wireField {n : Nat} (v : BitVec n) (first w k : Nat) : Bool := decide (k < w) && decide (first + w - 1 - k < n) && v.getLsbD (n - 1 - (first + w - 1 - k))

/-- The loads and their widths. -/
def loadTable : List ((Core → RegNo → RegNo → BitVec 16 → Bool → Instr) × Nat) := [(.ldb, 1), (.ldh, 2), (.ldw, 4), (.ldd, 8)]

/-- The stores and their widths. -/
def storeTable : List ((Core → RegNo → RegNo → BitVec 16 → Instr) × Nat) := [(.stb, 1), (.sth, 2), (.stw, 4), (.std, 8)]

/-- The atomic operations (R54): what each writes from the old value, g[rb] and g[rd]; none where nothing is written. -/
def amoTable : List ((Core → RegNo → RegNo → RegNo → Bool → Instr) × (Word → Word → Word → Option Word)) :=
  [(.amoAdd, fun o b _ => some (o + b)), (.amoSwap, fun _ b _ => some b), (.amoOr, fun o b _ => some (o ||| b)),
   (.amoAnd, fun o b _ => some (o &&& b)), (.amoCas, fun o b d => if o = d then some b else none)]

/-- The conditions of Table 2.13a on a, b and the manifest's parse flags. -/
def branchTable : List (Nat × (Word → Word → Nat → Prop)) :=
  [(0, fun a b _ => a = b), (1, fun a b _ => a ≠ b), (2, fun a b _ => a.toInt < b.toInt), (3, fun a b _ => b.toInt ≤ a.toInt),
   (4, fun a b _ => a < b), (5, fun a b _ => b ≤ a), (6, fun a b _ => a.getLsbD (b.toNat % 64) = true),
   (7, fun a b _ => a.getLsbD (b.toNat % 64) = false), (8, fun a _ _ => a = 0), (9, fun a _ _ => a ≠ 0),
   (10, fun _ b f => f.testBit (b.toNat % 32) = true), (12, fun _ _ _ => True)]

/-- The rows of Table 11.5 as commands: each with its op, and what a row of its own fixes in operand word 0. -/
def ctlRows : List ((Issuer → BitVec 6 → List Word → Instr) × Nat × (List Word → List Word)) :=
  [(.chanOpen, 0x001, id), (.chanClose, 0x002, id), (.chanInfo, 0x003, id), (.cmdAbort, 0x004, id), (.cmdWait, 0x005, id),
   (.barrier, 0x006, id), (.getReg, 0x008, id), (.setReg, 0x009, id), (.setMasked, 0x009, w0With 28 1 1), (.setm, 0x00A, id),
   (.sysModeMoored, 0x00C, w0With 0 3 2), (.sysModeService, 0x00C, w0With 0 3 3), (.sysModeSlack, 0x00C, w0With 0 3 4),
   (.sysModeDrydock, 0x00C, w0With 0 3 6), (.sysModeHalt, 0x00C, w0With 0 3 7), (.harbour, 0x00D, id)] ++
  [(.emInsert, 0x040, id), (.emDelete, 0x041, id), (.emUpdate, 0x042, id), (.emSearch, 0x043, id), (.emNext, 0x044, id),
   (.emFlushPort, 0x045, id), (.lpmInsert, 0x048, id), (.lpmDelete, 0x049, id), (.lpmSearch, 0x04A, id), (.lpmNext, 0x04B, id),
   (.tcamWrite, 0x050, id), (.tcamRead, 0x051, id), (.tcamClear, 0x052, id), (.objWrite, 0x058, id), (.objRead, 0x059, id),
   (.progLoad, 0x05C, id), (.genSwap, 0x05D, id)] ++
  [(.flowRead, 0x080, id), (.flowWrite, 0x081, id), (.flowDelete, 0x082, id), (.flowPin, 0x083, w0With 13 1 0),
   (.flowUnpin, 0x083, w0With 13 1 1), (.flowNext, 0x084, id), (.ledgerRehash, 0x085, id), (.tmShaper, 0x0A0, id), (.tmGcl, 0x0A1, id),
   (.timeMeas, 0x0C0, id), (.timeMaster, 0x0C1, id), (.timeAcceptStep, 0x0C2, w0With 4 2 0), (.timeAcceptSlew, 0x0C2, w0With 4 2 1),
   (.timeAcceptKeep, 0x0C2, w0With 4 2 2), (.timeXgOpen, 0x0C3, id), (.timeXgClose, 0x0C4, id)] ++
  [(.logSeal, 0x0E0, id), (.logPartOpen, 0x0E1, id), (.logPartClose, 0x0E2, id), (.taskCreate, 0x100, id),
   (.taskRearm, 0x100, w0With 9 1 1), (.taskCancel, 0x101, id), (.taskSignal, 0x102, id), (.mboxPost, 0x103, id), (.bufAlloc, 0x140, id),
   (.bufFree, 0x141, id), (.bufGive, 0x142, id), (.ucodePatch, 0x180, id), (.ucodeInfo, 0x181, id)]

end Machine
end Sys2Proof
end

