-- ==== Sys2Proof/Certificates/Slice0/Obligations.lean ====
section
/-!
DEFINITION. Certificates/Slice0/Obligations.lean: the statements about this block. Each is written from the rules it names.
-/
open Sys2Proof Sys2Proof.Machine

/-! ### The queue, the reset, and what holds of every command -/

/-- A step takes the command at the front of the queue and runs it with the queue's rest. -/
def Obligations.StepRunsTheFrontCommand : Prop :=
  ∀ (c : Instr) (rest : List Instr) (s : State), s.pending = c :: rest → step s = exec c { s with pending := rest }

/-- On an empty queue one cycle of TIME_CLK passes (the model's choice, log entry 23): beside the clocks only the counters of clocks change,
with the samples they write; where no counter counts tug clocks or waits on berth chains (Tables 12.9, 12.10), the clocks alone do. -/
def Obligations.EmptyQueueIsOneTimeClock : Prop :=
  ∀ s : State, s.pending = [] → step s = .next s.tick ∧ (s.mode.resetHeld = false → s.tick.ns = s.ns + 1) ∧
    s.tick = { s with ns := s.tick.ns, time := s.tick.time, regs := s.tick.regs, hbm := s.tick.hbm,
                      tug := { s.tug with lostSample := s.tick.tug.lostSample, cores := s.tick.tug.cores } } ∧
    (∀ k, (s.tick.tcore k).ctx = (s.tcore k).ctx) ∧
    ((∀ i, s.get F.tugCcntCfg_event i ≠ 1) → (∀ n, s.get F.pmcCntCfg_event n ≠ 0x0803) →
      s.tick = { s with ns := s.tick.ns, time := s.tick.time })

/-- After reset the device is in RESET (Table 15.1), nothing waits, no context runs, no register has been written, every memory reads as
zero (log entry 3), and the canonical form holds. -/
def Obligations.ResetState : Prop :=
  State.reset.modeNo = mRESET ∧ State.reset.pending = [] ∧ State.reset.out = [] ∧ State.reset.tlNs = 0 ∧
  (∀ x : CtxId, State.reset.ctx? x = none) ∧ (∀ (x : CtxId) (r : RegNo), State.reset.g x r = 0) ∧
  (∀ (r : Reg) (i : Nat), State.reset.reg r i = BitVec.ofNat 320 (r.resetAt i)) ∧
  (∀ a : Nat, State.reset.dmem.get a = 0 ∧ State.reset.hbm.get a = 0 ∧ State.reset.hostMem.get a = 0) ∧ State.reset.Canonical

/-- Every step keeps the canonical form of the registers and of the three memories, from every state that has it. -/
def Obligations.EveryStepKeepsTheCanonicalForm : Prop :=
  ∀ s t : State, s.Canonical → step s = .next t → t.Canonical

/-- A command changes everything but the queue: the commands that wait are the same after it; what has left the device stays sent; a free
value that has been used is never given again. -/
def Obligations.CommandsKeepTheQueueAndTheTrace : Prop :=
  ∀ (i : Instr) (s t : State), exec i s = .next t → t.pending = s.pending ∧ s.out <+: t.out ∧ s.freeCtr ≤ t.freeCtr

/-! ### Engines and tug cores: registers, arithmetic, fields -/

/-- General register g0 of every context reads as zero in every state (R31). What writing a general register leaves: every other register
of every context, the program's place, and all but the registers. An instruction of a tug core that retires (R38, R374): the pc moves past
its word; no general register and no word of tug memory changes; only the core's context and counters, the device counters and their
samples in the HBM do. -/
def Obligations.RegistersAndTheirFrame : Prop :=
  (∀ (s : State) (x : CtxId) (v : Word), s.g x 0 = 0 ∧ s.setG x 0 v = s) ∧
  (∀ (s : State) (x y : CtxId) (r q : RegNo) (v : Word),
     (s.setG x r v).g y q = (if q = 0 then 0 else if y = x ∧ q = r then v else s.g y q) ∧ (s.setG x r v).ctx? y = s.ctx? y ∧
     s.setG x r v = { s with eng := { s.eng with gregs := (s.setG x r v).eng.gregs } }) ∧
  (∀ (s : State) (t : Core) (pc : Word),
     (s.tugDone t).tpc t = s.tpc t + 4 ∧ (s.tugJump t pc).tpc t = pc ∧
     (∀ u : State, u = s.tugDone t ∨ u = s.tugJump t pc →
       u = { s with regs := u.regs, tug := u.tug, hbm := u.hbm } ∧ (u.tcore t.val).ctx = { (s.tcore t.val).ctx with pc := u.tpc t } ∧
       (∀ k, k ≠ t.val → (u.tcore k).ctx = (s.tcore k).ctx)))

/-- ALU (R38): in an engine of profile P, S or E each function of Table 2.11 writes g[rd] from g[ra] and g[rb] in one cycle and changes
nothing else but the program's pc and cycle count; on a tug core it writes the same and the instruction retires. Shift and rotate amounts
are bits [5:0] of g[rb]; a word of opcode 0x01 whose func [10:6] is not 0 spells no instruction. -/
def Obligations.AluWritesItsFunction : Prop :=
  ∀ p ∈ aluTable, ∀ (rd ra rb : RegNo) (s : State),
    (∀ (x : CtxId) (c : Ctx), Issues x 1 [rd, ra, rb] s c →
      exec (p.1 x rd ra rb) s = .next ((s.setCtx x (c.after 1)).setG x rd (p.2 (s.g x ra) (s.g x rb)))) ∧
    (∀ t : Core, TugIssues t s →
      exec (p.1 (.tug t) rd ra rb) s = .next ((s.setG (.tug t) rd (p.2 (s.g (.tug t) ra) (s.g (.tug t) rb))).tugDone t)) ∧
    (∀ (x : CtxId) (w : BitVec 32), wbits w 26 6 = 0x01 → wbits w 6 5 ≠ 0 → wordInstr x w = none)

/-- The F-I group (R39) in its four places: an engine of profile P, S or E, a tug core, and the K stream of an open CMD channel. -/
def Obligations.ImmediatesWriteTheirFunction : Prop :=
  ∀ p ∈ immTable, ∀ (rd ra : RegNo) (imm : BitVec 16) (s : State), p.2.1 ra imm →
    (∀ (x : CtxId) (c : Ctx), Issues x 1 [rd, ra] s c →
      exec (p.1 x rd ra imm) s = .next ((s.setCtx x (c.after 1)).setG x rd (p.2.2 ra imm (s.g x rd) (s.g x ra)))) ∧
    (∀ t : Core, TugIssues t s →
      exec (p.1 (.tug t) rd ra imm) s = .next ((s.setG (.tug t) rd (p.2.2 ra imm (s.g (.tug t) rd) (s.g (.tug t) ra))).tugDone t)) ∧
    (∀ c : Chan, s.cmdOpen c.val = true →
      exec (p.1 (.chan c) rd ra imm) s = .next (s.setG (.chan c) rd (p.2.2 ra imm (s.g (.chan c) rd) (s.g (.chan c) ra))))

/-- EXT and EXTC (R40): what a field reads as. `first` is bit 8 × byte offset + bit offset, with s.cur added to the byte offset by EXTC.
Bit k of the result below the width is bit k of the field, which is in wire order in H and K and little-endian in M and F; above the width
the result is the field's top bit where X is 1, else 0; a byte past the end of H or K reads as zeros. In profile E an EXTC of H reads
zeros past the end of the frame (R186). What an insert writes (R40): the field's bits take the low bits of the value, every other bit of
the space is unchanged. HDR and ADVC (R42, R43): the length is g[ra] + imm16. HDR with room in the header stack and the window records the
type and the cursor in the manifest and advances the cursor; otherwise it raises PARSE_DEPTH and leaves stack and cursor. ADVC advances
the cursor, in profile P only inside the window, in profile E up to 256. -/
def Obligations.FieldsHeadersAndCursor : Prop :=
  (∀ (s : State) (x : CtxId) (c : Ctx) (f : FieldOp) (dyn : Bool) (k : Nat), k < 64 →
     let cur := if dyn then c.cur else 0
     let first := 8 * (f.off.toNat + cur) + f.bit.toNat
     let w := f.wm1.toNat + 1
     let bitOf := fun (j : Nat) =>
       if f.space = 0 then wireField (if dyn = true ∧ x.profile = .e then hCut c.h c.hlen else c.h) first w j
       else if f.space = 1 then c.man.getLsbD (first + j)
       else if f.space = 3 then wireField c.key first w j
       else if f.space = 2 then (s.fWindow x c).getLsbD (first + j)
       else false
     (s.fieldRead x c f cur dyn).getLsbD k = if k < w then bitOf k else f.sx && bitOf (w - 1)) ∧
  (∀ (n : Nat) (v : BitVec n) (first w : Nat) (x : Word) (k : Nat), k < n → w ≤ 64 →
     (putLe v first w x).getLsbD k = (if first ≤ k ∧ k < first + w then x.getLsbD (k - first) else v.getLsbD k) ∧
     (first + w ≤ n → (putBe v first w x).getLsbD k =
       if n - first - w ≤ k ∧ k < n - first then x.getLsbD (k - (n - first - w)) else v.getLsbD k)) ∧
  (∀ (x : CtxId) (c : Ctx) (rd ra : RegNo) (imm : BitVec 16) (s : State), Issues x 1 [ra] s c →
     let n := (s.g x ra).toNat + imm.toNat
     let d := c.after 1
     let s1 := s.setCtx x d
     (wfHdr x rd imm = true → (mget c.man mHcount = 12 ∨ 255 < c.cur ∨ 256 < c.cur + n) →
       exec (.hdr x rd ra imm) s = .next (s1.setCtx x { d with man := mraise d.man pfDEPTH })) ∧
     (wfHdr x rd imm = true → ∀ k, mget c.man mHcount = k → k < 12 → c.cur ≤ 255 → c.cur + n ≤ 256 →
       ∃ m r, exec (.hdr x rd ra imm) s = .next (s1.setCtx x { d with man := m, parse := r, cur := c.cur + n }) ∧
         byteLe m (0x20 + 2 * k) = rd.val ∧ byteLe m (0x21 + 2 * k) = c.cur ∧ mget m mHcount = k + 1 ∧
         (∀ b, b < 1024 → ¬(96 ≤ b ∧ b < 128) → ¬(8 * (0x20 + 2 * k) ≤ b ∧ b < 8 * (0x22 + 2 * k)) → ¬(0x1C0 ≤ b ∧ b < 0x1C8) →
           m.getLsbD b = c.man.getLsbD b)) ∧
     (wfAdvc x rd imm = true → exec (.advc x rd ra imm) s = .next (
       if x.profile = .e then s1.setCtx x { d with cur := Nat.min (c.cur + n) 256 }
       else if 256 < c.cur + n then s1.setCtx x { d with man := mraise d.man pfDEPTH }
       else s1.setCtx x { d with cur := c.cur + n })))

/-- EXT and EXTC complete (R40, R41): once the field is ready, g[rd] takes the field; a pass that reads its record window is marked as
having read it, and a read of H in profile P raises the parse flags of R41; nothing else changes. INS and INSC complete (R40, R68, R483):
the low bits of g[rd] go into the field of H, M or K, in the manifest with the reserved bits kept zero and the bytes marked as written; a
cursor-relative insert that covers a byte past the space, or one that the profile may not write, is discarded whole and counted. EXT and
INS on a tug core (R40, R53): the field lies in D memory from s.dbase; where the core may reach all its bytes and no word of them is bad,
EXT loads it and INS stores it. -/
def Obligations.FieldInstructionsComplete : Prop :=
  (∀ (x : CtxId) (c : Ctx) (rd : RegNo) (f : FieldOp) (dyn : Bool) (s : State), Issues x 1 [rd] s c → wfExt x f dyn = true →
     s.fieldWaits x c f (if dyn then c.cur else 0) = false →
     let i : Instr := if dyn then .extc x rd f else .ext x rd f
     let cur := if dyn then c.cur else 0
     let s1 := s.setCtx x (c.after 1)
     ∃ t, exec i s = .next (t.setG x rd (s1.fieldRead x (c.after 1) f cur dyn)) ∧
       (f.space ≠ 2 → ¬(x.profile = .p ∧ f.space = 0) → t = s1) ∧
       (f.space = 2 → t = s1.fMark x) ∧
       (x.profile = .p → f.space = 0 → t = s1.setCtx x { c.after 1 with man := hReadFlags (c.after 1) f cur })) ∧
  (∀ (x : CtxId) (c : Ctx) (rd : RegNo) (f : FieldOp) (dyn : Bool) (s : State), Issues x 1 [rd] s c → wfIns x f dyn = true →
     s.fieldWaits x c f (if dyn then c.cur else 0) = false →
     let i : Instr := if dyn then .insc x rd f else .ins x rd f
     let cur := if dyn then c.cur else 0
     let first := 8 * (f.off.toNat + cur) + f.bit.toNat
     let w := f.wm1.toNat + 1
     let v := s.g x rd
     let d := c.after 1
     let s1 := s.setCtx x d
     if dyn = true ∧ insDynOk x d f = false then exec i s = .next (s1.faultCount x)
     else
       (f.space = 0 → exec i s = .next (s1.setCtx x { d with h := putBe d.h first w v })) ∧
       (f.space = 1 → exec i s = .next (s1.setCtx x { d with
         man := putLe d.man first w v &&& ~~~manReserved, manW := d.manW ||| byteMask (fopStart f cur) (fopEnd f cur - fopStart f cur) })) ∧
       (f.space = 2 → exec i s = .next (s1.recWrite x first w (fopStart f cur) (fopEnd f cur) v)) ∧
       (f.space = 3 → exec i s = .next (s1.setCtx x { d with key := putBe d.key first w v }))) ∧
  (∀ (t : Core) (rd : RegNo) (f : FieldOp) (s : State), TugIssues t s →
     let p := dSpan s t f
     s.memAllowed t p.1 p.2 = true → s.spanBad t p.1 p.2 = false →
     let d := leNat (s.dRead t.val p.1 p.2)
     (wfExt (.tug t) f false = true → exec (.ext (.tug t) rd f) s =
       .next (((s.tugAccCount t p.1 p.2 false).setG (.tug t) rd
         (fopExtend f (BitVec.ofNat 64 (d / 2 ^ f.bit.toNat % 2 ^ (f.wm1.toNat + 1))))).tugDone t)) ∧
     (wfIns (.tug t) f false = true → exec (.ins (.tug t) rd f) s =
       .next (((s.tugAccCount t p.1 p.2 true).dWrite t.val p.1
         (leBytes p.2 (putLe (BitVec.ofNat 72 d) f.bit.toNat (f.wm1.toNat + 1) (s.g (.tug t) rd)).toNat)).tugDone t)))

/-- MFS and MTS of an engine (R33, R56): MFS gives the word's own address, the cycles before it, the cursor, the generation, the pass, the
unit, the engine and context, or s.now; MTS of s.cur stores the smaller of g[ra] and 256 (R43). MFS and MTS of a tug core (R33, R34, R56,
R65): a register that the level may read goes to g[rd], any other read traps PRIV. s.dbase is written at every level; s.mode, s.tbase and
s.tra only at supervisor level, with s.tbase [7:0] held at 0, and at task level the write traps PRIV; a counter is written at supervisor
level. What a tug core reads of its special registers (Table 2.2, R34): at either level s.pc, s.core, s.now, s.dbase and the cause, detail
and depth of its trap slots; s.mode, s.tbase and s.tra at supervisor level only, and the counters at task level only under CNTEN. -/
def Obligations.SpecialRegisterMoves : Prop :=
  (∀ (x : CtxId) (c : Ctx) (r ra : RegNo) (imm : BitVec 16) (s : State), Issues x 1 [r] s c →
     let s1 := s.setCtx x (c.after 1)
     let v : Word := BitVec.ofNat 64 (match imm.toNat with
       | 0 => c.pc | 2 => c.cyc | 3 => c.cur | 4 => c.gen.toNat | 5 => c.pass | 6 => ctxUnit x | 7 => ctxNo x | _ => s.tlNs)
     (wfMfs x ra imm = true → exec (.mfs x r ra imm) s = .next (s1.setG x r v)) ∧
     (wfMts x ra imm = true → exec (.mts x ra r imm) s = .next (s1.setCtx x { c.after 1 with cur := Nat.min (s.g x r).toNat 256 }))) ∧
  (∀ (t : Core) (r ra : RegNo) (imm : BitVec 16) (s : State), TugIssues t s →
     let tc := s.tcore t.val
     let k := tc.ctx
     let v := s.g (.tug t) r
     let priv := exec (.mts (.tug t) ra r imm) s = .next (s.trapHere t tcPRIV (BitVec.ofNat 64 (leNat (s.dRead t.val (s.tpc t).toNat 4))))
     let put := fun (k2 : TaskCtx) => exec (.mts (.tug t) ra r imm) s = .next ((s.setTcore t.val { tc with ctx := k2 }).tugDone t)
     (wfMfs (.tug t) ra imm = true →
       exec (.mfs (.tug t) r ra imm) s = .next (match s.tugSpecial t imm.toNat with
         | some w => (s.setG (.tug t) r w).tugDone t
         | none => s.trapHere t tcPRIV (BitVec.ofNat 64 (leNat (s.dRead t.val (s.tpc t).toNat 4))))) ∧
     (wfMts (.tug t) ra imm = true →
       (imm.toNat = 0x14 → put { k with dbase := v }) ∧
       (imm.toNat = 0x20 → if k.sup then put { k with sup := v.getLsbD 0, inten := v.getLsbD 1, cnten := v.getLsbD 2 } else priv) ∧
       (imm.toNat = 0x21 → if k.sup then put { k with tbase := v &&& ~~~(0xFF : Word) } else priv) ∧
       (imm.toNat = 0x22 → if k.sup then put { k with slots := match k.slots with | q :: l => { q with ra := v } :: l | [] => [] } else priv) ∧
       (0x18 ≤ imm.toNat → imm.toNat ≤ 0x1B → k.sup = true →
         exec (.mts (.tug t) ra r imm) s = .next (s.ccntWrite t (imm.toNat - 0x18) v) ∧
         ((s.ccntWrite t (imm.toNat - 0x18) v).tcore t.val).ctx.pc = s.tpc t + 4))) ∧
  (∀ (t : Core) (s : State),
     let k := (s.tcore t.val).ctx
     s.tugSpecial t 0 = some (s.tpc t) ∧ s.tugSpecial t 6 = some (BitVec.ofNat 64 t.val) ∧ s.tugSpecial t 8 = some s.now ∧
     s.tugSpecial t 0x14 = some k.dbase ∧ s.tugSpecial t 0x25 = some (BitVec.ofNat 64 k.slots.length) ∧
     (s.tugSpecial t 0x20 = none ↔ k.sup = false) ∧ (s.tugSpecial t 0x21 = none ↔ k.sup = false) ∧
     (s.tugSpecial t 0x22 = none ↔ k.sup = false) ∧ (k.sup = true → s.tugSpecial t 0x21 = some k.tbase) ∧
     (∀ i < 4, s.tugSpecial t (0x18 + i) = none ↔ k.sup = false ∧ k.cnten = false))

/-! ### Tug cores: memory, jumps, traps, waiting -/

/-- LDB, LDH, LDW and LDD (R53): from an aligned address g[ra] + sext(imm16) in memory that the core may reach and that holds no error,
g[rd] takes the little-endian value, zero-extended; the access is counted and the instruction retires. A misaligned address traps
MISALIGN, and memory that the core may not reach traps D_FAULT, each with the address as detail. STB, STH, STW and STD (R53): to an
aligned address in memory that the core may reach, the low bytes of g[rd] are stored, least significant first; the access is counted and
the instruction retires. A misaligned address traps MISALIGN, and memory that the core may not reach traps D_FAULT. -/
def Obligations.LoadsAndStores : Prop :=
  (∀ p ∈ loadTable, ∀ (t : Core) (rd ra : RegNo) (imm : BitVec 16) (ue : Bool) (s : State), TugIssues t s →
     let aw := s.g (.tug t) ra + imm.signExtend 64
     let a := aw.toNat
     (a % p.2 ≠ 0 → exec (p.1 t rd ra imm ue) s = .next (s.trapHere t tcMISALIGN aw)) ∧
     (a % p.2 = 0 → isWindow a p.2 = false → s.memAllowed t a p.2 = false →
       exec (p.1 t rd ra imm ue) s = .next (s.trapHere t tcD_FAULT aw)) ∧
     (a % p.2 = 0 → isWindow a p.2 = true → p.2 ≠ 8 → exec (p.1 t rd ra imm ue) s = .next (s.trapHere t tcD_FAULT aw)) ∧
     (a % p.2 = 0 → s.memAllowed t a p.2 = true → (ue = true ∨ s.wordBad t.val a = true) → ∃ k m,
       exec (p.1 t rd ra imm ue) s = .next ((s.mcheck k m t.val).trapHere t tcMEM_ECC aw)) ∧
     (a % p.2 = 0 → s.memAllowed t a p.2 = true → ue = false → s.wordBad t.val a = false →
       exec (p.1 t rd ra imm ue) s = .next
         (((s.tugAccCount t a p.2 false).setG (.tug t) rd (BitVec.ofNat 64 (leNat (s.dRead t.val a p.2)))).tugDone t))) ∧
  (∀ p ∈ storeTable, ∀ (t : Core) (rd ra : RegNo) (imm : BitVec 16) (s : State), TugIssues t s →
     let aw := s.g (.tug t) ra + imm.signExtend 64
     let a := aw.toNat
     (a % p.2 ≠ 0 → exec (p.1 t rd ra imm) s = .next (s.trapHere t tcMISALIGN aw)) ∧
     (a % p.2 = 0 → isWindow a p.2 = false → s.memAllowed t a p.2 = false →
       exec (p.1 t rd ra imm) s = .next (s.trapHere t tcD_FAULT aw)) ∧
     (a % p.2 = 0 → isWindow a p.2 = true → p.2 ≠ 8 → exec (p.1 t rd ra imm) s = .next (s.trapHere t tcD_FAULT aw)) ∧
     (a % p.2 = 0 → s.memAllowed t a p.2 = true →
       exec (p.1 t rd ra imm) s = .next
         ((((s.dWrite t.val a (leBytes p.2 (s.g (.tug t) rd).toNat)).wordMend t.val a p.2).tugAccCount t a p.2 true).tugDone t)))

/-- What a store writes (R5, R53, Table 12.1): the stored bytes read back from the address, every other byte of tug memory and of the HBM
reads as before, and nothing else changes. Below 0x4_0000 the address is the core's own local memory. AMO (R54): on an aligned 64-bit word
that the core may reach and that holds no error, g[rd] takes the old value and the word the new one, with no other access between them; a
misaligned address traps MISALIGN. -/
def Obligations.StoredBytesAndAtomics : Prop :=
  (∀ (s : State) (t : Core) (a n v : Nat),
     let u := s.dWrite t.val a (leBytes n v)
     u.dRead t.val a n = leBytes n v ∧ u = { s with dmem := u.dmem, hbm := u.hbm } ∧
     (a < hbmWin → u.hbm = s.hbm ∧ ∀ b, (b < dCell t.val a ∨ dCell t.val a + n ≤ b) → u.dmem.get b = s.dmem.get b) ∧
     (hbmWin ≤ a → u.dmem = s.dmem ∧ ∀ b, (b < a - hbmWin ∨ a - hbmWin + n ≤ b) → u.hbm.get b = s.hbm.get b)) ∧
  (∀ p ∈ amoTable, ∀ (t : Core) (rd ra rb : RegNo) (ue : Bool) (s : State), TugIssues t s →
     let aw := s.g (.tug t) ra
     let a := aw.toNat
     (a % 8 ≠ 0 → exec (p.1 t rd ra rb ue) s = .next (s.trapHere t tcMISALIGN aw)) ∧
     (a % 8 = 0 → s.memAllowed t a 8 = true → ue = false → s.wordBad t.val a = false →
       let old : Word := BitVec.ofNat 64 (leNat (s.dRead t.val a 8))
       let s1 := s.tugAccCount t a 8 false
       exec (p.1 t rd ra rb ue) s = .next (((match p.2 old (s.g (.tug t) rb) (s.g (.tug t) rd) with
         | some v => ((s1.dWrite t.val a (leBytes 8 v.toNat)).wordMend t.val a 8).tugAccCount t a 8 true
         | none => s1).setG (.tug t) rd old).tugDone t)))

/-- LDC, STC, LDCD and STCD (R55): at supervisor level, on an aligned offset inside the 64 MiB of the register space, a load reads the
register into g[rd], zero-extended, and a store in a mode that accepts it writes g[rd]. A device counter that counts the storing
instruction keeps the written value, and the lost increment is counted (R376). At task level they trap PRIV, on a misaligned offset
MISALIGN, past the space D_FAULT, and a store in SERVICE, SAFE HARBOUR or BOOT to a register that is not accepted there C_DENIED. -/
def Obligations.RegisterSpaceAccesses : Prop :=
  ∀ (wide : Bool) (t : Core) (rd ra : RegNo) (imm : BitVec 16) (s : State), TugIssues t s →
    let n := if wide then 8 else 4
    let ld : Instr := if wide then .ldcd t rd ra imm else .ldc t rd ra imm
    let st : Instr := if wide then .stcd t rd ra imm else .stc t rd ra imm
    let aw := s.g (.tug t) ra + imm.signExtend 64
    let a := aw.toNat
    let denied := (s.modeNo = mSERVICE ∨ s.modeNo = mHARBOUR ∨ s.modeNo = mBOOT) ∧ anyModeReg a = false
    (∀ i, i = ld ∨ i = st →
      (s.tsup t = false → exec i s = .next (s.trapHere t tcPRIV aw)) ∧
      (s.tsup t = true → a % n ≠ 0 → exec i s = .next (s.trapHere t tcMISALIGN aw)) ∧
      (s.tsup t = true → a % n = 0 → 0x4000000 ≤ a → exec i s = .next (s.trapHere t tcD_FAULT aw))) ∧
    (s.tsup t = true → a % n = 0 → a < 0x4000000 →
      exec ld s = .next (((s.regRead a n t.val).1.setG (.tug t) rd ((s.regRead a n t.val).2.setWidth 64)).tugDone t) ∧
      (denied → exec st s = .next (s.trapHere t tcC_DENIED aw)) ∧
      (¬denied → (∀ i b, findReg a ≠ some (.pmcCntValue, i, b)) →
        ∀ u, s.regPut (.direct false) 64 a n (BitVec.ofNat 320 (2 ^ 320 - 1)) ((s.g (.tug t) rd).setWidth 320) = .ok u →
        exec st s = .next (u.tugDone t)) ∧
      (¬denied → ∀ i b, findReg a = some (.pmcCntValue, i, b) →
        ∀ u, (s.tugCount t).regPut (.direct false) 64 a n (BitVec.ofNat 320 (2 ^ 320 - 1)) ((s.g (.tug t) rd).setWidth 320) = .ok u →
        ∃ v, exec st s = .next v ∧ v.get F.pmcCntValue_count i = u.get F.pmcCntValue_count i ∧ v.tpc t = u.tpc t + 4 ∧
          ((s.tugCount t).reg .pmcCntValue i ≠ s.reg .pmcCntValue i →
            v.get F.pmcCntCollision 0 = (u.get F.pmcCntCollision 0 + 1) % 2 ^ 64)))

/-- BR (R50, R51): where the condition of Table 2.13a holds of a = g[ra] and b = g[rb], or the 5-bit rb field where I is 1, the pc becomes
the branch's own address + 4 × displacement (forward only in an engine, signed on a tug core); otherwise it moves to the next word.
Nothing else changes but the cycle count, or the counters of the core. -/
def Obligations.BranchesComplete : Prop :=
  ∀ p ∈ branchTable, ∀ (cond : BitVec 4) (i : Bool) (ra rb : RegNo) (disp : BitVec 11) (s : State), cond.toNat = p.1 →
    (∀ (x : CtxId) (c : Ctx), Issues x 1 (brUses p.1 i ra rb) s c → wfBr x cond i ra rb disp = true →
      let b := if i then BitVec.ofNat 64 rb.val else s.g x rb
      let flags := mget c.man mPflags
      (p.2 (s.g x ra) b flags → exec (.br x cond i ra rb disp) s = .next (s.setCtx x { c.after 1 with pc := c.pc + 4 * disp.toNat })) ∧
      (¬p.2 (s.g x ra) b flags → exec (.br x cond i ra rb disp) s = .next (s.setCtx x (c.after 1)))) ∧
    (∀ t : Core, TugIssues t s → wfBr (.tug t) cond i ra rb disp = true →
      let b := if i then BitVec.ofNat 64 rb.val else s.g (.tug t) rb
      (p.2 (s.g (.tug t) ra) b 0 →
        ∃ u, exec (.br (.tug t) cond i ra rb disp) s = .next (u.tugJump t (s.tpc t + 4 * disp.signExtend 64)) ∧ u = s.ccnt t.val 7 1) ∧
      (¬p.2 (s.g (.tug t) ra) b 0 → exec (.br (.tug t) cond i ra rb disp) s = .next (s.tugDone t)))

/-- JAL and JR (R52), in profile T: with the fields that must be 0 at 0, JAL puts the next word's address in g[rd] and jumps by 4 ×
sext(imm16); JR jumps to g[ra], and traps MISALIGN with it as detail where it is not a multiple of 4. With another value in such a field
the word is illegal and traps ILLEGAL. -/
def Obligations.JumpsComplete : Prop :=
  ∀ (t : Core) (rd ra rb : RegNo) (imm : BitVec 16) (func : BitVec 11) (s : State), TugIssues t s →
    (ra.val = 0 → exec (.jal t rd ra imm) s = .next ((s.setG (.tug t) rd (s.tpc t + 4)).tugJump t (s.tpc t + 4 * imm.signExtend 64))) ∧
    (rd.val = 0 → rb.val = 0 → func.toNat = 0 →
      ((s.g (.tug t) ra).toNat % 4 = 0 → exec (.jr t rd ra rb func) s = .next (s.tugJump t (s.g (.tug t) ra))) ∧
      ((s.g (.tug t) ra).toNat % 4 ≠ 0 → exec (.jr t rd ra rb func) s = .next (s.trapHere t tcMISALIGN (s.g (.tug t) ra)))) ∧
    (let bad := s.trapHere t tcILLEGAL (BitVec.ofNat 64 (leNat (s.dRead t.val (s.tpc t).toNat 4)))
     (ra.val ≠ 0 → exec (.jal t rd ra imm) s = .next bad) ∧
     ((rd.val ≠ 0 ∨ rb.val ≠ 0 ∨ func.toNat ≠ 0) → exec (.jr t rd ra rb func) s = .next bad))

/-- Entering a trap or an interrupt (R66): with fewer than four trap slots in use, a slot is pushed with the return address, the cause,
the detail and the level and interrupt enable that held; the core is at supervisor level with interrupts off, at s.tbase + 64 times the
class of the cause (0 faults, 1 SYSCALL, 2 interrupts, 3 memory errors); no general register and no memory changes. With four in use the
core is reset: its task is CANCELLED and the core idle, and the reset is reported (log entry 25). TRAP, TRET, FENCE and WAIT on a core, an
illegal word, and an interrupt (R37, R58, R65, R66, R370): TRAP enters SYSCALL with its code and returns to the next word; TRET at
supervisor level restores level, interrupt enable and pc from the innermost slot and frees it, traps PRIV at task level and ILLEGAL with
no slot; FENCE and WAIT retire; an illegal word traps ILLEGAL with the word as detail; with interrupts on, the lowest pending source i is
taken as cause 0x80 + i and is no longer pending. -/
def Obligations.TrapsInterruptsAndReturns : Prop :=
  (∀ (s : State) (t : Core) (cause : Nat) (detail ra : Word),
     let k := (s.tcore t.val).ctx
     let u := s.trapEnter t cause detail ra
     let slot : TrapSlot := ⟨ra, BitVec.ofNat 8 cause, detail, k.sup, k.inten⟩
     let cls := if cause = 0x07 then 3 else if 0x80 ≤ cause then 2 else if cause = 0x06 then 1 else 0
     (k.slots.length < 4 →
       (u.tcore t.val).ctx = { k with slots := slot :: k.slots, sup := true, inten := false, pc := k.tbase + BitVec.ofNat 64 (64 * cls) } ∧
       u = { s with regs := u.regs, tug := u.tug, hbm := u.hbm }) ∧
     (4 ≤ k.slots.length → u = s.coreReset t.val 2 ∧
       ∀ j, s.running? t.val = some j → j < 512 → ∃ v : State, u = v.rasOther 0 t.val j ∧ v.running? t.val = none ∧
         v.taskState j = tCANCELLED ∧ v = { s with regs := v.regs, tug := v.tug })) ∧
  (∀ (t : Core) (code : BitVec 8) (word : BitVec 32) (s : State), TugIssues t s →
     let k := (s.tcore t.val).ctx
     let here := BitVec.ofNat 64 (leNat (s.dRead t.val (s.tpc t).toNat 4))
     exec (.trap t code) s = .next (s.trapEnter t tcSYSCALL (code.setWidth 64) (s.tpc t + 4)) ∧
     exec (.fence t) s = .next (s.tugDone t) ∧ exec (.waitPend (.tug t)) s = .next (s.tugDone t) ∧
     exec (.nop (.tug t)) s = .next (s.tugDone t) ∧
     exec (.illegalInstruction t word) s = .next (s.trapHere t tcILLEGAL (word.setWidth 64)) ∧
     (k.sup = false → exec (.tret t) s = .next (s.trapHere t tcPRIV here)) ∧
     (k.sup = true → k.slots = [] → exec (.tret t) s = .next (s.trapHere t tcILLEGAL here)) ∧
     (∀ q r, k.sup = true → k.slots = q :: r → ∃ u, exec (.tret t) s = .next u ∧
       (u.tcore t.val).ctx = { k with slots := r, sup := q.sup, inten := q.inten, pc := q.ra } ∧
       u = { s with regs := u.regs, tug := u.tug, hbm := u.hbm }) ∧
     (∀ i, i < 5 → k.inten = true → (s.get F.tugCoreStatus_pending t.val).testBit i = true →
       (∀ j, j < i → (s.get F.tugCoreStatus_pending t.val).testBit j = false) →
       exec (.interruptTaken t) s = .next ((s.set F.tugCoreStatus_pending t.val (s.get F.tugCoreStatus_pending t.val - 2 ^ i)).trapEnter t
         (0x80 + i) 0 (s.tpc t))))

/-- CTL on a tug core (R57, R334): with room in the core's command port, the instruction and its operands (the words that follow in line,
or registers from g[rs]) join the port's queue, the pc passes the words, and the core's port is on the ready list. With 16 queued the core
stalls. WAITF and YIELD (R359, R361): WAITF with its mask satisfied gives the matched flags to its register and clears them unless told to
keep them; with no mask and no timeout it gives 0 at once; otherwise the task is WAITING, its context saved past the word, and the core
takes its next task. YIELD goes on where no other task of its level or a more urgent one can take the core; else that task starts and the
yielding task is READY at the tail of its level. -/
def Obligations.CtlIssueAndWaits : Prop :=
  (∀ (t : Core) (op : BitVec 10) (desc : BitVec 16) (s : State), TugIssues t s → wfCtl desc = true →
     let d := ctlDesc desc.toNat
     let pc := (s.tpc t).toNat
     let a := if d.inl = true ∧ d.n ≠ 0 then (pc + 4 + 7) / 8 * 8 else pc + 4
     let w : List Word := if d.inl then (List.range d.n).map (fun i => BitVec.ofNat 64 (leNat (s.dRead t.val (a + 8 * i) 8)))
       else (List.range d.n).map (fun i => s.g (.tug t) ⟨(d.rs + i) % 32, Nat.mod_lt _ (by decide)⟩)
     (16 ≤ (s.tport t.val).queue.length → exec (.ctl t op desc) s = .next s) ∧
     ((s.tport t.val).queue.length < 16 → (d.inl = true → ∀ i < 2 * d.n, s.fetchAllowed t (a + 4 * i) = true) →
       ∃ u, exec (.ctl t op desc) s = .next u ∧
         (u.tport t.val).queue = (s.tport t.val).queue ++
           [{ op := op.toNat, tag := d.tag, slot := 0, w := w, task := s.running? t.val, sup := s.tsup t }] ∧
         u.tpc t = BitVec.ofNat 64 (if d.inl then a + 8 * d.n else pc + 4) ∧ Issuer.tug t ∈ u.cmd.ready ∧
         u = { s with regs := u.regs, tug := u.tug, hbm := u.hbm, cmd := u.cmd })) ∧
  (∀ (t : Core) (r : RegNo) (k : Nat) (s : State), TugIssues t s → s.running? t.val = some k →
     let op := s.g (.tug t) r
     let fl : BitVec 32 := BitVec.ofNat 32 (s.get F.tugTaskState_flags k)
     let tmo := (op.extractLsb' 40 24).toNat
     (∀ hit, waitHit op fl = some hit → exec (.waitf t r) s = .next
       (((if op.getLsbD 33 then s else s.set F.tugTaskState_flags k (fl &&& ~~~hit).toNat).setG (.tug t) r (hit.setWidth 64)).tugDone t)) ∧
     (waitHit op fl = none → (op.setWidth 32 : BitVec 32) = 0 → tmo = 0 → exec (.waitf t r) s = .next ((s.setG (.tug t) r 0).tugDone t)) ∧
     (waitHit op fl = none → ((op.setWidth 32 : BitVec 32) ≠ 0 ∨ tmo ≠ 0) → ∃ u : State, exec (.waitf t r) s = .next (u.coreTake t) ∧
       u.taskState k = tWAITING ∧ (u.task k).wait = some (r, op) ∧
       (u.task k).ctx.pc = s.tpc t + 4) ∧
     ((s.tugDone t).firstFor t.val ((s.tugDone t).level k + 1) = none →
       exec (.yield t) s = .next (s.tugDone t)) ∧
     (∀ j, (s.tugDone t).firstFor t.val ((s.tugDone t).level k + 1) = some j →
       exec (.yield t) s = .next ((((s.tugDone t).saveTask t k).makeReady k).startTask t j)))

/-! ### Engines: lookups, meters, flows, the end of programs -/

/-- LKP (R44): with fewer than four results outstanding and its key ready, the key is copied, g[rd] becomes pending and the request goes
to the quay group's tables; a descriptor that no longer fits gives a miss with ERR at once and counts the fault. LOOKUP_REPLY (R44, R115,
R134): the reply to an outstanding lookup gives its register the result of the tables of the quay's group, or a miss with ERR where the
entry found fails its check, and the register is no longer pending; a lookup whose program has ended gives no register anything. -/
def Obligations.LookupsAreAnswered : Prop :=
  (∀ (x : CtxId) (c : Ctx) (tbl klen koff : BitVec 6) (rd : RegNo) (nohit : Bool) (s : State), Issues x 1 [rd] s c →
     wfLkp x klen koff = true → outstanding c < 4 → prpWaits c koff.toNat (koff.toNat + klen.toNat + 1) = false →
     let d := s.desc c.gen tbl.toNat
     let fits := dKind d ≠ 0 ∧ dKlen d = klen.toNat + 1 ∧ (if x.profile = .p then dPok d else dEok d) = true
     let s1 := s.setCtx x (c.after 1)
     (¬fits → exec (.lkp x tbl klen rd koff nohit) s = .next ((s1.setG x rd (BitVec.ofNat 64 (2 ^ 62))).faultCount x)) ∧
     (fits → ∃ u, exec (.lkp x tbl klen rd koff nohit) s = .next u ∧
       u.ctx? x = some { c.after 1 with pend := c.pend ++ [(rd, .lkp, s.eng.serial)] } ∧
       Tab.get? u.eng.lkps s.eng.serial = some ⟨x, rd, c.gen, d, wireBytes c.key koff.toNat (klen.toNat + 1), nohit, ctxUnit x / 4,
         mget c.man mPort, mZoneOf c.man, true⟩ ∧
       u = { s with regs := u.regs, tug := u.tug, hbm := u.hbm, eng := u.eng })) ∧
  (∀ (n : Nat) (bad : Bool) (l : Lookup) (c : Ctx) (s : State), Tab.get? s.eng.lkps n = some l → s.ctx? l.x = some c →
     ∃ u, exec (.lookupReply n bad) s = .next u ∧ Tab.get? u.eng.lkps n = none ∧ u.dmem = s.dmem ∧ u.led = s.led ∧ u.buf = s.buf ∧
       let r := (State.lookup { s with eng := { s.eng with lkps := Tab.del s.eng.lkps n } } l.group l.desc l.key).1
       let v := if bad = true ∧ r.getLsbD 63 = true then BitVec.ofNat 64 (2 ^ 62) else r
       (l.live = true → u.g l.x l.rd = (if l.rd = 0 then 0 else v) ∧ ∀ c2, u.ctx? l.x = some c2 → ∀ p ∈ c2.pend, p.2.1 = .flow ∨ p.2.2 ≠ n) ∧
       (l.live = false → ∀ r, u.g l.x r = s.g l.x r) ∧
       (∀ (y : CtxId) (r : RegNo), y ≠ l.x ∨ r ≠ l.rd → u.g y r = s.g y r))

/-- HSH (R45, R60, R107): g[rd] takes the hash of the key bytes by the unit named, one cycle for each started 16 bytes. MTR (R46): in
profile P an index below 262,144 makes the result pending and sends the request, any other gives red at once and counts the fault; in
profile S the meter of the record that the pass holds gives its colour in the same pass. METER_REPLY gives the register the colour of the
meter run and the register is no longer pending. FLOW (R47, R489): a second FLOW of a program stops it with PROGRAM_FAULT; a refused one
gives BAD_PARAM at once and takes no berth; the first makes its register pending and waits in the quay for the slice of its key, with the
manifest as it stands. -/
def Obligations.HashesMetersAndFlows : Prop :=
  (∀ (x : CtxId) (c : Ctx) (rd ra : RegNo) (imm : BitVec 16) (s : State), wfHsh x ra imm = true →
     let off := imm.toNat % 64
     let n := imm.toNat / 64 % 64 + 1
     let u := imm.toNat / 4096
     Issues x ((n + 15) / 16) [rd] s c → prpWaits c off (off + n) = false →
     let key := wireBytes c.key off n
     let seed := s.get F.tblHashSeed_seed u
     exec (.hsh x rd ra imm) s = .next ((s.setCtx x (c.after ((n + 15) / 16))).setG x rd
       (if s.bit F.tblHashFunc_func u then (~~~(crc32c (BitVec.ofNat 32 seed) key)).setWidth 64 else kx64 key (BitVec.ofNat 64 seed)))) ∧
  (∀ (x : CtxId) (c : Ctx) (rd ra rb : RegNo) (func : BitVec 11) (s : State), Issues x 2 (if x.profile = .s then [rd, rb] else [rd, ra, rb]) s c →
     wfMtr x ra func = true → outstanding c < 4 →
     let d := c.after 2
     let s1 := s.setCtx x d
     (x.profile = .p → 262144 ≤ (s.g x ra).toNat → exec (.mtr x rd ra rb func) s = .next ((s1.setG x rd 2).faultCount x)) ∧
     (x.profile = .p → (s.g x ra).toNat < 262144 → ∃ u, exec (.mtr x rd ra rb func) s = .next u ∧
       u.ctx? x = some { d with pend := c.pend ++ [(rd, .mtr, s.eng.serial)] } ∧ u = { s with eng := u.eng } ∧
       ∃ q, Tab.get? u.eng.mtrs s.eng.serial = some q ∧ q.x = x ∧ q.rd = rd ∧ q.ix = (s.g x ra).toNat ∧ q.len = (s.g x rb).toNat) ∧
     (x.profile = .s → s.fReady x 0x30 0x40 = true → exec (.mtr x rd ra rb func) s = .next (mtrRecord x rd rb func d s1)) ∧
     (∀ (n : Nat) (q : MeterReq) (r : State), Tab.get? r.eng.mtrs n = some q →
       let r1 := { r with eng := { r.eng with mtrs := Tab.del r.eng.mtrs n } }
       let m := r1.meterRun q.ix (some (q.inCol, q.len, q.test))
       exec (.meterReply n false) r = .next (m.2.resultTo q.x q.live q.rd n (BitVec.ofNat 64 m.1)))) ∧
  (∀ (x : CtxId) (c : Ctx) (rd ra : RegNo) (imm : BitVec 16) (s : State), Issues x 2 [rd] s c → wfFlow x ra imm = true →
     let n := imm.toNat % 64 + 1
     let prog := imm.toNat / 64 % 256
     let d := c.after 2
     let s1 := s.setCtx x d
     let key := wireBytes c.key 0 n
     let man := mset (mset c.man mFhash (s.hsOf key).toNat) mFprog prog
     prpWaits c 0 n = false →
     (c.flowDone = true → exec (.flow x rd ra imm) s = .next ((s1.faultCount x).pilotStop x rPROGRAM_FAULT none)) ∧
     (c.flowDone = false → s.flowRefused c.gen prog n = true → exec (.flow x rd ra imm) s = .next
       ((s1.setCtx x { d with man := mset (mset man mFstat stBAD_PARAM) mFflags 0, flowDone := true }).setG x rd (BitVec.ofNat 64 stBAD_PARAM))) ∧
     (c.flowDone = false → s.flowRefused c.gen prog n = false → ∀ f, s.frame? c.fid = some f → ∃ u, exec (.flow x rd ra imm) s = .next u ∧
       u.ctx? x = some { d with man := man, flowDone := true, pend := c.pend ++ [(rd, .flow, 0)] } ∧
       (∃ g, u.frame? c.fid = some g ∧ g.askKey = key ∧ g.askProg = prog ∧ g.askMan = man ∧ g.flowReg = rd) ∧
       u = { s with eng := u.eng, led := u.led }))

/-- NOP, EXC, MIRROR, DROP, RECIRC, END, FEND and WAIT in an engine (R58): what each makes of the program. In profile P the action word of
the manifest takes the verdict, and DROP, RECIRC, END and EXC without copy end the program; in profile S DROP and EXC are flow flags and
FEND ends the pass; in profile E MIRROR and a copy are remembered, DROP and EXC without copy end the copy, END lets it wait for its commit
point. RECIRC on pass 3 is a drop with RECIRC_LIMIT. WAIT in an engine (R58): with no result pending the program goes on and no cycle is
charged; while one is, nothing happens. The end of a parse program (R31, R48): its context is free and its registers read zero; its frame
has the program's manifest, with the bytes that a returned flow pass wrote standing, and is resolved. -/
def Obligations.ProgramOperations : Prop :=
  (∀ (x : CtxId) (c : Ctx) (reason : BitVec 8) (cause : BitVec 6) (ses : BitVec 4) (w dl : Bool) (s : State), Issues x 1 [] s c →
     let d := c.after 1
     let s1 := s.setCtx x d
     exec (.nop x) s = .next s1 ∧
     (x.profile = .p →
       exec (.endProg x) s = .next (s1.pilotEnd x false) ∧
       exec (.drop x reason) s = .next ((s1.setCtx x { d with man := mDrop d.man reason.toNat }).pilotEnd x false) ∧
       exec (.excp x cause true) s = .next (s1.setCtx x { d with man := mCopyReq d.man cause.toNat }) ∧
       exec (.excp x cause false) s = .next ((s1.setCtx x { d with man := mExc d.man cause.toNat }).pilotEnd x false) ∧
       (let m := if c.pass = 3 then mDrop d.man rRECIRC_LIMIT else msetBits d.man mAct 0 2 vRECIRCULATE
        exec (.recirc x) s = .next ((s1.setCtx x { d with man := m }).pilotEnd x false)) ∧
       exec (.mirror x ses) s = .next (s1.setCtx x { d with man := msetBits (msetBits d.man mAct 9 4 ses.toNat) mAct 13 1 1 })) ∧
     (x.profile = .s →
       exec (.drop x reason) s = .next (s1.setCtx x { d with man := flowFlag d.man ffDROP reason.toNat }) ∧
       (∀ b, exec (.excp x cause b) s = .next (s1.setCtx x { d with man := flowFlag d.man ffEXC cause.toNat })) ∧
       ∃ u : State, exec (.fend x w dl) s = .next (u.passSettleN (ctxUnit x) 3) ∧ u.ctx? x = none ∧
         (∀ st, s.berth? (ctxUnit x) c.berth = some st → ∃ b : BerthSt, u.berth? (ctxUnit x) c.berth = some b ∧ b.phase = .heldLen ∧ b.out = c.f ∧
           b.wrote = c.fW ∧ b.write = w ∧ b.delete = dl ∧ b.manOut = c.man)) ∧
     (x.profile = .e →
       exec (.endProg x) s = .next (s1.rewEnd x) ∧
       exec (.drop x reason) s = .next (((s1.rewAsked x).rewDrop x reason.toNat).bump F.egrCntProgDrop (ctxUnit x)) ∧
       exec (.excp x cause true) s = .next (s1.setCtx x { d with excCopy := some cause }) ∧
       exec (.excp x cause false) s = .next (((s1.rewAsked x).rewCopyAsk x cause.toNat).rewDrop x 0) ∧
       exec (.mirror x ses) s = .next (s1.setCtx x { d with mirror := some ses.toNat }))) ∧
  (∀ (x : CtxId) (c : Ctx) (s : State), Issues x 0 [] s c →
     (c.pend = [] → exec (.waitPend x) s = .next (s.setCtx x (c.after 0))) ∧ (c.pend ≠ [] → exec (.waitPend x) s = .next s)) ∧
  (∀ (x : CtxId) (c : Ctx) (stopped : Bool) (f : Frame) (s : State), s.ctx? x = some c → s.frame? c.fid = some f →
     ∃ u : State, s.pilotEnd x stopped = u.resolveFrame c.fid ∧ u.ctx? x = none ∧ (∀ r, u.g x r = 0) ∧
       (∀ y, y ≠ x → u.ctx? y = s.ctx? y ∧ ∀ r, u.g y r = s.g y r) ∧
       (∃ g, u.frame? c.fid = some g ∧ g.stage = .parsed ∧ g.stopped = stopped ∧ g.parse = c.parse ∧
         g.man = manMerge c.man f.flowOut f.flowOutW 128 ∧ g.manW = c.manW ||| f.flowOutW))

/-- The budget (R61): a word whose cycles would pass the program's budget does not run; the program is stopped instead. A register that
waits for a result (R32): while a result is outstanding to a register that an arithmetic instruction uses, or while the program has ended,
the instruction does nothing. Words that no engine ever runs (R37, R63): PROG.LOAD never stores a word that is illegal for its profile, so
the command that would run one is refused by that name; a tug core traps ILLEGAL on it. -/
def Obligations.WhatDoesNotRun : Prop :=
  (∀ (x : CtxId) (c : Ctx) (cost : Nat) (mn : String) (uses : List RegNo) (s : State) (body : Ctx → State → State),
     s.ctx? x = some c → c.ended = false → isPending c uses = false → s.pastEnd x c = false → s.fetch x c.gen c.pc = .good →
     (budgetOf x.profile < c.cyc + cost → engine x mn true cost uses s body = .next (s.stopBudget x)) ∧
     (c.cyc + cost ≤ budgetOf x.profile → engine x mn true cost uses s body = .next (body (c.after cost) (s.setCtx x (c.after cost))))) ∧
  (∀ p ∈ aluTable, ∀ (x : CtxId) (rd ra rb : RegNo) (c : Ctx) (s : State), (x.profile = .p ∨ x.profile = .s ∨ x.profile = .e) →
     s.ctx? x = some c → (∃ q ∈ c.pend, q.1 = rd ∨ q.1 = ra ∨ q.1 = rb) → exec (p.1 x rd ra rb) s = .next s) ∧
  ((∀ (x : CtxId) (rd ra : RegNo) (f : FieldOp) (imm : BitVec 16) (s : State), (x.profile = .p ∨ x.profile = .s ∨ x.profile = .e) →
     (wfHdr x rd imm = false → exec (.hdr x rd ra imm) s = .refused (.rejectedByLoad "HDR")) ∧
     (wfMfs x ra imm = false → exec (.mfs x rd ra imm) s = .refused (.rejectedByLoad "MFS")) ∧
     (wfExt x f false = false → exec (.ext x rd f) s = .refused (.rejectedByLoad "EXT"))) ∧
   (∀ (t : Core) (rd ra : RegNo) (imm : BitVec 16) (s : State), TugIssues t s →
     let here := s.trapHere t tcILLEGAL (BitVec.ofNat 64 (leNat (s.dRead t.val (s.tpc t).toNat 4)))
     exec (.hdr (.tug t) rd ra imm) s = .next here ∧ (wfMfs (.tug t) ra imm = false → exec (.mfs (.tug t) rd ra imm) s = .next here) ∧
     (∀ f, exec (.extc (.tug t) rd f) s = .next here)))

/-- Instruction words (R36, R37, Tables 2.4 to 2.11): the two words that R40's example spells, the word of the worked CTL example, an ADD
and an ADDI by their fields; a word of all zeros spells nothing. -/
def Obligations.WordsSpellTheirInstructions : Prop :=
  (∀ x : CtxId, wordInstr x 0x4420301E = some (.extc x 1 ⟨0, 12, 0, 15, false⟩) ∧ wordInstr x 0x8020D400 = some (.lkp x 2 3 10 0 false) ∧
    wordInstr x 0 = none) ∧
  (∀ t : Core, wordInstr (.tug t) 0xF8408085 = some (.ctl t 0x040 0x8085) ∧
    wordInstr (.tug t) 0x04443000 = some (.add (.tug t) 2 4 6) ∧ wordInstr (.tug t) 0x0864FFFF = some (.addi (.tug t) 3 4 0xFFFF))

/-! ### Frames: arrival, release, buffer, egress -/

/-- FRAME_RX_START and FRAME_RX_END (R12, R13, R74, R272, R296): on a port that is up in SERVICE, a frame whose quay is not paused and
whose bytes the staging buffer holds takes the next number and the next sequence ID, and its head waits once its 256 bytes are there; with
no room in the staging buffer it is discarded and counted. At its last byte a frame of legal length with a good FCS has its length known,
is counted and its head waits; one that spans an uncorrectable codeword, is too long, too short, or has a bad FCS is discarded and
counted. HEAD_DISPATCH (R31, R72, R73): where the pilots of a quay may run and a context is free, the oldest waiting head leaves the list
and its program starts on that context: at word 0, no cycle charged, registers zero, H holding the frame's first 256 bytes, K zero but for
a PRP trailer, and the flow pass of an earlier pass forgotten. With no free context it stays where it is. -/
def Obligations.FramesArriveAndStart : Prop :=
  ((∀ (p : Port) (lane : Fin 4) (bit phi : BitVec 16) (bytes : List Byte) (s : State), s.linkUp p.val = true → s.modeNo = mSERVICE →
     isControl bytes = false → s.paused (quayOf p.val) = false →
     let fid := s.eng.nextFid
     let big : Prop := stagingSize < s.staged (quayOf p.val) + bytes.length
     (¬big → ∃ (u : State) (f : Frame), exec (.frameRxStart p lane bit phi false bytes) s = .next u ∧ u.frame? fid = some f ∧
       f.port = p.val ∧ f.bytes = bytes ∧ f.seqId = (s.portSt p.val).seqId ∧ f.lenKnown = false ∧
       (u.portSt p.val).seqId = ((s.portSt p.val).seqId + 1) % 65536 ∧ u.eng.nextFid = fid + 1 ∧
       (256 ≤ bytes.length → f.stage = .queued ∧ fid ∈ (u.quay f.quay.val).waiting) ∧ (bytes.length < 256 → f.stage = .receiving) ∧
       u = { s with ports := u.ports, eng := u.eng }) ∧
     (big → ∃ u : State, exec (.frameRxStart p lane bit phi false bytes) s = .next u ∧ u.eng = s.eng ∧ ∃ v : State,
       u = v.bump F.portCntRxStaging (portIx p.val) ∧ v.regs = s.regs)) ∧
   (∀ (fid : Nat) (f : Frame) (s : State), s.frame? fid = some f → f.lenKnown = false →
     let k := portIx f.port
     let n := f.bytes.length
     let fcsOk : Prop := f.bytes.drop (n - 4) = fcsOf (f.bytes.take (n - 4))
     exec (.frameRxEnd fid true) s = .next (((s.frameDrop fid).bump F.portCntFecUncorr k).bump F.portCntRxFcs k) ∧
     (s.get F.portCfg_maxFrame k < n → exec (.frameRxEnd fid false) s = .next ((s.frameDrop fid).bump F.portCntRxOversize k)) ∧
     (n ≤ s.get F.portCfg_maxFrame k → n < 64 → exec (.frameRxEnd fid false) s = .next ((s.frameDrop fid).bump F.portCntRxRunt k)) ∧
     (n ≤ s.get F.portCfg_maxFrame k → 64 ≤ n → ¬fcsOk → exec (.frameRxEnd fid false) s = .next ((s.frameDrop fid).bump F.portCntRxFcs k)) ∧
     (n ≤ s.get F.portCfg_maxFrame k → 64 ≤ n → fcsOk → isControl f.bytes = false → s.modeNo = mSERVICE → f.stage = .receiving →
       ∃ (u : State) (g : Frame), exec (.frameRxEnd fid false) s = .next u ∧ u.frame? fid = some g ∧ g.lenKnown = true ∧
         g.stage = .queued ∧ g.bytes = f.bytes ∧ (u.quay f.quay.val).waiting = (s.quay f.quay.val).waiting ++ [fid] ∧
         u.get F.portCntRxFrames k = (s.get F.portCntRxFrames k + 1) % 2 ^ 64 ∧
         u.get F.portCntRxOctets k = (s.get F.portCntRxOctets k + n) % 2 ^ 64 ∧ u = { s with regs := u.regs, eng := u.eng }))) ∧
  (∀ (q : Quay) (bad : Bool) (fid : Nat) (rest : List Nat) (f : Frame) (s : State), (s.quay q.val).waiting = fid :: rest →
     s.frame? fid = some f →
     (s.freePilot q = none → exec (.headDispatch q bad) s = .next s) ∧
     (∀ e k, s.freePilot q = some (e, k) → s.pilotsRun q.val f = true →
       let x : CtxId := .pilot q e k
       ∃ (u : State) (c : Ctx) (g : Frame), exec (.headDispatch q bad) s = .next u ∧ u.ctx? x = some c ∧ c.fid = fid ∧ c.pc = 0 ∧ c.cyc = 0 ∧
         c.pend = [] ∧ c.ended = false ∧ c.h = ofWire 2048 (f.bytes.take 256) ∧ (s.prpRole f = 0 → c.key = 0) ∧ (∀ r, u.g x r = 0) ∧
         (u.quay q.val).waiting = rest ∧ u.frame? fid = some g ∧ g.stage = .pilot x ∧ g.flow = .none ∧
         (∀ y, y ≠ x → u.ctx? y = s.ctx? y ∧ ∀ r, u.g y r = s.g y r) ∧
         (f.flight ≠ 0 → c.gen = f.gen)))

/-- RELEASE (R15, R16, R194): a frame that is resolved, whose length is known and whose flow pass is back leaves its list out of order
where its verdict is a drop or the exception path; any other is released only at the head of its list, and a list frame only where the
replication engine has room. What is released is either gone or at the end of its quay's admission list. ALLOC_REQUEST, CELL_WRITE_START,
REPLICATION_COPY and ENQUEUE (R194, R195, R208, R211, R214, R216, R220, R225, R226): the oldest admitted frame takes a buffer of the
smallest pool that holds it, where its threshold lets it, and is dropped and counted where not; a granted frame is written from the clock
of its slot on; a written one makes its copies in the order of its members; the oldest copy is enqueued at the tail of its queue, its
cells charged, its buffer owned by the egress quay where it is the only copy. -/
def Obligations.FramesAreReleasedAndBuffered : Prop :=
  (∀ (fid : Nat) (bad : Bool) (f : Frame) (s : State), s.frame? fid = some f → f.stage = .parsed → f.resolved = true → f.lenKnown = true →
     (f.flow = .none ∨ f.flow = .back) →
     let f1 := s.relLen f
     let f2 := if f1.look && f1.flowDrop.isNone then f1 else relFlow f1
     (f2.leaves = true → exec (.release fid bad) s = .next ((s.relCount f2).relLeave fid f2)) ∧
     (f2.leaves = true → mVerdict f2.man = vDROP → ∃ u : State, exec (.release fid bad) s = .next u ∧ u.frame? fid = none) ∧
     (f2.leaves = false → (s.listHead fid f2 = false ∨ (mget f2.man mRepl ≠ 0 ∧ s.replFull f2.quay.val = true)) →
       exec (.release fid bad) s = .next s) ∧
     (f2.leaves = false → s.listHead fid f2 = true → (mget f2.man mRepl = 0 ∨ s.replFull f2.quay.val = false) →
       exec (.release fid bad) s = .next (s.relHead fid f2 bad) ∧
       ((s.relHead fid f2 bad).frame? fid = none ∨ ∃ g, (s.relHead fid f2 bad).frame? fid = some g ∧ g.stage = .admitted))) ∧
  (∀ (q : Quay) (s : State),
     (∀ (fid : Nat) (f : Frame) (pick queue port rw : Nat), s.forwarding = true → s.replFirst q.val (fun x => x == .admitted) = some (fid, f) →
       f.members = [(port, queue, rw)] → f.mirror = none → f.logIn = none → f.listed = false → 
       ∀ q2 p2, (s.queueAsk queue port).2 = some (q2, p2) → (s.queueAsk queue port).1.onPg f = false →
       let s1 := (s.queueAsk queue port).1
       let p := poolFor (cellsOf f.bytes.length)
       (s1.thresholdOk q2 (poolCells p) = false → exec (.allocRequest q pick) s = .next ((s1.bump F.bufCntQThreshold 0).frameDrop fid)) ∧
       (s1.thresholdOk q2 (poolCells p) = true →
         let a := s1.allocFrom ((f.quay.val + s1.coreClk + 8) % 16) pick false 4 p
         (∀ b ok, a.2 = some (b, ok) → ∃ (u : State) (g : Frame) (d : Desc), exec (.allocRequest q pick) s = .next u ∧
           u.frame? fid = some g ∧ g.stage = .granted ∧ g.bid = b ∧ u.desc? b = some d ∧ d.bytes = f.bytes ∧ d.len = f.bytes.length ∧
           d.refc = false ∧ d.mid = 0x20 + f.quay.val ∧ d.acct = 0 ∧ d.written = false ∧
           (u.quay f.quay.val).seq = (a.1.quay f.quay.val).seq + 1 ∧ u = { a.1 with eng := u.eng, buf := u.buf }) ∧
         (a.2 = none → exec (.allocRequest q pick) s = .next
           (((a.1.bump F.bufCntPoolEmpty p).pmc (frameEv 0x0A02 (0x20 + f.quay.val) f.man false 1)).frameDrop fid)))) ∧
     (∀ (fid : Nat) (f : Frame) (d : Desc) (t : Nat), s.replFirst q.val (fun x => x == .granted) = some (fid, f) → s.desc? f.bid = some d →
       s.clocks.find? (fun t => decide (d.t0 ≤ t) && decide ((s.quay q.val).writeEnd ≤ t) &&
         (!(decide (bidPool f.bid < 2)) || (q.val + t) % 16 == d.start)) = some t →
       ∃ (u : State) (e : Desc), exec (.cellWriteStart q) s = .next u ∧ u.desc? f.bid = some e ∧ e.written = true ∧ e.t0 = t ∧
         e.start = (q.val + t) % 16 ∧ e.crc = crc32c 0xFFFFFFFF#32 d.bytes ∧ e.bytes = d.bytes ∧
         (u.quay q.val).writeEnd = t + cellsOf d.len ∧ u.frame? fid = some { f with stage := .written }) ∧
     (∀ (fid : Nat) (f : Frame) (port queue rw : Nat) (rest : List (Nat × Nat × Nat)),
       s.replFirst q.val (fun x => x == .written || x == .copying) = some (fid, f) → f.members = (port, queue, rw) :: rest →
       f.quay = q →
       let cp := f.copyFor port queue rw (if f.listed then memberMan f.man port queue rw else f.man)
       ∃ (u : State) (more : List Copy), exec (.replicationCopy q) s = .next u ∧ (u.quay q.val).made = (s.quay q.val).made ++ cp :: more ∧
         (rest ≠ [] → more = [] ∧ u.frame? fid = some { f with members := rest, stage := .copying }) ∧
         (rest = [] → u.frame? fid = none)) ∧
     (∀ (cp : Copy) (rest : List Copy) (d : Desc) (queue port : Nat), s.forwarding = true → (s.quay q.val).made = cp :: rest →
       let s1 := s.setQuay q.val { s.quay q.val with made := rest }
       s.desc? cp.bid = some d → (s1.queueAsk cp.queue cp.port).2 = some (queue, port) →
       let s2 := (s1.queueAsk cp.queue cp.port).1
       let n := poolCells (bidPool cp.bid)
       (d.refc = true ∧ d.acct = 0 ∧ s2.thresholdOk queue n = false →
         exec (.enqueue q) s = .next ((s2.bump F.bufCntQThreshold 0).copyRefuse q.val cp)) ∧
       (¬(d.refc = true ∧ d.acct = 0 ∧ s2.thresholdOk queue n = false) → ∃ (u : State) (c : Copy), exec (.enqueue q) s = .next u ∧
         u.queue queue = s.queue queue ++ [s.tm.nextCid] ∧ u.copy? s.tm.nextCid = some c ∧ c.bid = cp.bid ∧ c.queue = queue ∧
         c.port = port ∧ c.enqNs = s.tlNs ∧ u.tm.nextCid = s.tm.nextCid + 1 ∧ (u.quay q.val).made = rest ∧
         c.sealV = sealOf d.crc d.seq queue (if port < 130 then port else 0xFD) ∧
         (∀ e, u.desc? cp.bid = some e → d.refc = false → e.mid = 0x30 + egressOf port))))

/-- TM_SELECT, EGRESS_READ_START, EGRESS_COMMIT and TX_COMPLETE (R183, R190, R196, R210, R235, R236, R272, R274): a copy whose queue's
head is selected joins the window of its egress quay and leaves its queue; the read of a window copy starts its program on a free context
at word 0 with registers zero; an ended program's copy is put on the wire of its port at its commit point, or dropped and counted where
its port is down, its frame is too long or its launch time is past; the first frame on a wire leaves the device and its copy ends. -/
def Obligations.CopiesLeave : Prop :=
  ∀ (e : Quay) (s : State),
    (∀ (p i q cid : Nat) (ps : List Nat) (l : List Nat) (cp : Copy) (s2 : State), s.forwarding = true → (s.window e.val).length < 32 →
      (let r := quayPorts e.val; let k := s.coreClk % r.length; r.drop k ++ r.take k) = p :: ps → s.portReady p = true →
      s.portPick p = (s2, some (i, q)) → s.queue q = cid :: l → s.copy? cid = some cp → (∀ r, s.headTest i cp ≠ .drop r) →
      s.tooOld q cp = false → ∃ u : State, exec (.tmSelect e) s = .next u ∧ u = s2.selectHead e.val p i q cid cp ∧
        u.queue q = (s2.queue q).drop 1 ∧ cid ∈ u.window e.val) ∧
    (∀ (x : CtxId) (t cid : Nat) (l : List Nat) (cp : Copy) (d : Desc) (damaged bad : Bool) (head : List Byte), s.forwarding = true →
      s.freeRew e = some x → s.clocks.find? (fun t => decide (Tab.getD s.tm.readEnd e.val 0 ≤ t) && !(s.readable e.val t).isEmpty) = some t →
      s.readable e.val t = cid :: l → s.copy? cid = some cp → s.desc? cp.bid = some d → cp.port < 130 →
      s.isBad tkZONE (e.val / 4) (mZoneOf cp.man) = false → s.zonePermits (mZoneOf cp.man) cp.port = true →
      s.pushBytes cp.rewrite = some head → s.objF oREWRITE cp.rewrite 15 8 + 14 ≤ (copyBody cp d).length →
      ∃ (u : State) (c : Ctx), exec (.egressReadStart e damaged false bad) s = .next u ∧ u.ctx? x = some c ∧ c.cid = cid ∧ c.pc = 0 ∧ c.cyc = 0 ∧
        c.pend = [] ∧ c.ended = false ∧ c.gen = cp.gen ∧ (∀ r, u.g x r = 0) ∧ cid ∉ u.window e.val) ∧
    (∀ (g : Fin 48) (k : Fin 4) (phic : BitVec 16) (c : Ctx) (cp : Copy) (d : Desc), s.ctx? (.rew e g k) = some c → c.ended = true →
      s.copy? c.cid = some cp → s.desc? cp.bid = some d →
      let x : CtxId := .rew e g k
      let now : Prop := s.linkUp cp.port = true ∧ ¬(c.sealBad = true ∧ c.readEnd ≤ s.lastClk) ∧
        ¬(cp.port < 130 ∧ s.get F.portCfg_maxFrame (portIx cp.port) < c.hlen + c.tail.length + 4)
      (s.linkUp cp.port = false → exec (.egressCommit x phic) s = .next ((s.bump F.tmCntDropPortDown cp.port).rewDrop x rPORT_DOWN)) ∧
      (s.linkUp cp.port = true → c.sealBad = true → c.readEnd ≤ s.lastClk → exec (.egressCommit x phic) s = .next (s.rewDrop x rCARGO_SEAL)) ∧
      (s.linkUp cp.port = true → ¬(c.sealBad = true ∧ c.readEnd ≤ s.lastClk) →
        (cp.port < 130 ∧ s.get F.portCfg_maxFrame (portIx cp.port) < c.hlen + c.tail.length + 4) →
        exec (.egressCommit x phic) s = .next ((s.bump F.egrCntTooLong e.val).rewDrop x rEGRESS_TOO_LONG)) ∧
      (now → s.launchTest cp phic = 2 → exec (.egressCommit x phic) s = .next ((s.bump F.tmCntGateLate cp.port).rewDrop x rGATE_LATE)) ∧
      (now → s.launchTest cp phic = 1 → s.commitWaits x c cp = true → exec (.egressCommit x phic) s = .next s) ∧
      (now → s.launchTest cp phic = 1 → s.commitWaits x c cp = false → cp.port < 130 →
        ∃ (u : State) (w : OnWire), exec (.egressCommit x phic) s = .next u ∧ u.ctx? x = none ∧
          Tab.getD u.ports.wire cp.port [] = Tab.getD s.ports.wire cp.port [] ++ [w] ∧ w.cid = c.cid ∧ w.kill = c.sealBad)) ∧
    (∀ (p : TmPort) (bit phi : BitVec 16) (ex : Bool) (cuts : Nat) (w : OnWire) (rest : List OnWire), Tab.getD s.ports.wire p.val [] = w :: rest →
      ∃ u : State, exec (.txComplete p bit phi ex cuts) s = .next u ∧ Tab.getD u.ports.wire p.val [] = rest ∧
        OutEv.frame p.val w.bytes w.kill ∈ u.out ∧ u.copy? w.cid = none)

/-- FLOW_REQUEST_ACCEPT, INDEX_READ_DONE, RECORD_READ_DONE (R144, R149, R150, R153, R158): the slice takes the first request of the quay
that no earlier frame holds back into its lowest free berth; it is chained behind the berth that holds its lock, or its lookup starts. A
line read gives its candidates, whose first record is read next; a record read that is the key's is installed and the pass is ready, any
other goes on to the next candidate; a line that fails its check is cleared and the pass ends with PARITY. STEVEDORE_DISPATCH and
FLOW_PASS_RETURN (R29, R31, R32, R48, R154, R157, R168): a ready pass of a program of the store starts on a free stevedore at its start
word, with its registers zero, the status and flags in its manifest and the record in its window; a library program runs whole once the
frame's FCS is known and its pass is held for its commit. A pass that is done returns to its frame: the status and flags go to the
manifest and to the register of FLOW, which is no longer pending, and the berth is free. -/
def Obligations.FlowLookupsAndPasses : Prop :=
  (∀ (sl : Slice) (s : State),
     (∀ (q : Quay) (fid b : Nat) (f : Frame) (h : b < 1024),
       (s.asksOf q.val sl.val).find? (fun fid => match s.frame? fid with | some f => !(s.askBlocked fid f) | none => false) = some fid →
       s.frame? fid = some f → firstFree (s.slice sl.val).berths 0 = b →
       ∃ (v : State) (g : Frame) (st : BerthSt), exec (.flowRequestAccept sl q) s =
           .next (if s.lockHeld sl.val (s.hsOf f.askKey) then v else v.lookupStart sl.val b) ∧
         v.frame? fid = some g ∧ g.flow = .berth sl ⟨b, h⟩ ∧ v.berth? sl.val b = some st ∧ st.fid = fid ∧ st.key = f.askKey ∧
         st.prog = f.askProg ∧ st.man = f.askMan ∧ st.phase = .chained ∧ fid ∉ v.asksOf q.val sl.val ∧
         v = { s with eng := v.eng, led := v.led }) ∧
     (∀ (b : Berth) (st : BerthSt) (alt other old : Bool) (r : Rehash), s.berth? sl.val b.val = some st → st.phase = .indexRead alt other →
       (s.probes sl.val st.key)[other.toNat]? = some (old, r) →
       let s1 := s.ledHbm sl.val 64 false
       let line := if alt then lineA r st.key else lineP r st.key
       let hits := ((s.slice sl.val).lineRecs old r line).filter (fun e => e.2.alt == alt && tagOf r e.2.key == tagOf r st.key)
       exec (.indexReadDone sl b true) s =
         .next ((s1.setSlice sl.val ((s.slice sl.val).clearLine old r line)).passParity sl.val b.val) ∧
       (∀ e l, hits = e :: l → exec (.indexReadDone sl b false) s =
         .next (s1.setBerth sl.val b.val { st with phase := .recordRead e.1, candidates := l.map (·.1) })) ∧
       (hits = [] → exec (.indexReadDone sl b false) s = .next (s1.nextProbe sl.val b.val st alt other))) ∧
     (∀ (b : Berth) (st : BerthSt) (n : Nat) (e : Rec), s.berth? sl.val b.val = some st → st.phase = .recordRead n →
       (s.slice sl.val).recAt n = some e →
       (e.key = st.key → (s.makePlace sl.val st.hs).isSome = true → ∃ (u : State) (g : BerthSt), exec (.recordReadDone sl b false) s = .next u ∧
         u.berth? sl.val b.val = some g ∧ g.phase = .ready ∧ g.recNo = some n ∧ g.img = e.img ∧ g.status = stOK ∧ g.key = st.key) ∧
       (∀ c l, e.key ≠ st.key → st.candidates = c :: l → ∃ u : State, exec (.recordReadDone sl b false) s = .next u ∧
         u.berth? sl.val b.val = some { st with phase := .recordRead c, candidates := l }))) ∧
  (∀ (sl : Slice) (b : Berth) (st : BerthSt) (s : State), s.berth? sl.val b.val = some st →
     (∀ (e : Fin 20) (bad : Bool) (s1 : State) (st1 : BerthSt), s.freeStev sl = some e → s.passReady sl b.val st = some (s1, st1) →
       let x : CtxId := .stev sl e
       (st1.prog < 0xF0 → ∃ (u : State) (c : Ctx) (g : BerthSt), exec (.stevedoreDispatch sl b bad) s = .next u ∧ u.ctx? x = some c ∧
         c.fid = st1.fid ∧ c.gen = st1.gen ∧ c.pc = 4 * s.flowStart st1.gen st1.prog ∧ c.cyc = 0 ∧ c.pend = [] ∧ c.ended = false ∧
         c.berth = b.val ∧ mget c.man mFstat = st1.status % 256 ∧ (∀ r, u.g x r = 0) ∧
         u.berth? sl.val b.val = some g ∧ g.phase = .running e ∧ ∀ y, y ≠ x → u.ctx? y = s.ctx? y) ∧
       (0xF0 ≤ st1.prog → s.fcsKnown st1.fid = false → exec (.stevedoreDispatch sl b bad) s = .next s) ∧
       (0xF0 ≤ st1.prog → s.fcsKnown st1.fid = true → ∃ v : State,
         v = s1.pmc { code := 0x0801, master := 0x40 + sl.val, tc := some (mItcOf st1.man), port := mget st1.man mPort, who := mget st1.man mFhash } ∧
         ∀ s2 r, v.library st1 (v.fView sl.val st1 1024) (match s.frame? st1.fid with | some f => f.bytes.length | none => 0) = some (s2, r) →
           exec (.stevedoreDispatch sl b bad) s = .next (s2.libEnd sl b.val st1 r))) ∧
     (∀ (f : Frame) (x : CtxId), s.frame? st.fid = some f → st.phase = .done → f.flow = .berth sl b →
       (f.stage = .pilot x → ∃ (u : State) (g : Frame), exec (.flowPassReturn sl b) s = .next u ∧
         u.g x f.flowReg = (if f.flowReg = 0 then 0 else BitVec.ofNat 64 (st.status % 256 + st.flags.toNat * 256)) ∧
         (∀ c, s.ctx? x = some c → u.ctx? x = some { c with pend := c.pend.filter (fun p => p.2.1 != PendKind.flow) }) ∧
         u.frame? st.fid = some g ∧ g.flow = .back ∧ g.flowOutW = st.manOutW ||| byteMask 0x55 3 ∧
         mget g.flowOut mFflags = st.flags.toNat ∧ u.berth? sl.val b.val = none ∧ u = { s with eng := u.eng, led := u.led }) ∧
       (f.stage = .parsed → ∃ (v : State) (g : Frame), exec (.flowPassReturn sl b) s = .next (v.resolveFrame st.fid) ∧
         v.frame? st.fid = some g ∧ g.flow = .back ∧ v.berth? sl.val b.val = none)))

/-- INDEX_WRITE_DONE, INDEX_UNIT_MOVE, LEDGER_AGER_VISIT, REHASH_MIGRATE (R159, R160, R164, R175): the oldest posted index write completes
and its record may be evicted; the oldest stash entry that finds a place leaves the stash for the index; the ager visits the next record,
deletes and counts an idle one that is neither static nor locked; the migrator moves the next record of the old table that is not locked
into the new one with its key, or ends the slice's part. -/
def Obligations.LedgerUpkeep : Prop :=
  ∀ (sl : Slice) (s : State),
    (∀ n l, (s.slice sl.val).writes = n :: l → ∃ u : State, exec (.indexWriteDone sl) s = .next u ∧ (u.slice sl.val).writes = l ∧
      (∀ e, (u.slice sl.val).recAt n = some e → e.writing = false) ∧
      (∀ k, k ≠ n → (u.slice sl.val).recAt k = (s.slice sl.val).recAt k) ∧ (∀ k, k ≠ sl.val → u.slice k = s.slice k)) ∧
    (∀ v2, (SliceSt.stashList (s.slice sl.val).recs).findSome? (fun e => match (s.slice sl.val).recAt e.2 with
        | some r => s.stashPlace (s.slice sl.val) e.2 r | none => none) = some v2 →
      exec (.indexUnitMove sl) s = .next ((s.setSlice sl.val v2).ledHbm sl.val 64 true) ∧
      ∃ n e, n ∈ (SliceSt.stashList (s.slice sl.val).recs).map (·.2) ∧ v2.recAt n = some e ∧ e.inIndex = true ∧ e.stashOrd = none) ∧
    (∀ n e, s.bit F.ledgerCfg_en 0 = true → s.modeNo ≠ mHARBOUR → (s.slice sl.val).nextVisit = some (n, e) →
      let s1 := s.setSlice sl.val { s.slice sl.val with agerPos := n + 1 }
      let s2 := if e.cached then s1 else s1.ledHbm sl.val 64 false
      (recStatic e = true ∨ s2.lockHeld sl.val e.hs = true → exec (.ledgerAgerVisit sl false) s = .next s2) ∧
      (recStatic e = false → s2.lockHeld sl.val e.hs = false → s2.ageIdle e = true →
        exec (.ledgerAgerVisit sl false) s = .next ((s2.recDelete sl.val n 1).bump F.ledgerCntAged sl.val)) ∧
      (recStatic e = false → s2.lockHeld sl.val e.hs = false → s2.ageIdle e = false →
        exec (.ledgerAgerVisit sl false) s = .next (if s2.activeDue e then s2.exportRec sl.val 2 n e else s2))) ∧
    (∀ r, s.led.rehash = some r → s.modeNo ≠ mHARBOUR →
      ((s.slice sl.val).nextMigrant r = none → exec (.rehashMigrate sl) s = .next (s.migrateDone sl.val r)) ∧
      (∀ n e line, (s.slice sl.val).nextMigrant r = some (n, e, line) →
        let s1 := s.setSlice sl.val { s.slice sl.val with migrate := line }
        (s1.lockHeld sl.val e.hs = true → exec (.rehashMigrate sl) s = .next s1) ∧
        (∀ s2 m stash, s1.lockHeld sl.val e.hs = false → (recStatic e = true ∨ s1.ageIdle e = false) → e.key.length ≤ keyMax s1.compact →
          s1.reserveRoom sl.val e.key = (s2, some (m, stash)) → ∃ (u : State) (g : Rec), exec (.rehashMigrate sl) s = .next u ∧
          Tab.get? (u.slice sl.val).old n = none ∧ Tab.get? (u.slice sl.val).recs m = some g ∧ g.key = e.key ∧ g.hs = e.hs ∧
          g.img = mapForm r.form s1.compact e.key e.img ∧ (u.slice sl.val).migrated = (s2.slice sl.val).migrated + 1)))

/-- BREAKWATER_TICK, METER_SWEEP, DEPTH_SAMPLE_SWEEP (R91, R246, R263): with TIME_CLK running each of the 64 limiters gains RATE up to
65,536 x BURST and nothing else changes; a sweep runs every table meter that has been written and is counted; a depth sample takes each
queue's cells in sixteens, rounded up, at most 255. LEARN_FILTER, EM_AGE_TICK, EM_AGER_VISIT, FRAG_AGE_TICK, LPM_SPARE_RETURN,
TABLE_REPAIR (R87, R112, R116, R121, R135): a notice whose key stands in the filter within the window is suppressed and counted, any other
is posted and remembered; an ageing tick lists every line of the partition that holds an entry; a visit ages the entries of its line:
static ones stand, a hit is cleared with the age, another grows older or goes; a fragment entry goes at its ninth tick; spare units return
when their clocks have passed; the oldest bad copy is mended from a good sibling, or counted as beyond repair. -/
def Obligations.TablesAndLimiters : Prop :=
  (∀ s : State,
     (s.time.tl = true → ∃ u : State, exec .breakwaterTick s = .next u ∧ u = { s with tab := u.tab } ∧
       ∀ c, c < 64 → u.bwCount c = Nat.min (s.get F.quayBwCfg_burst c * 65536) (s.bwCount c + s.get F.quayBwCfg_rate c)) ∧
     (∃ v : State, exec .meterSweep s = .next (v.bump F.tmCntMeterSweep 0) ∧
       v = (s.tab.objs.filterMap (fun e => if e.1 / 2 ^ 20 = oMETER then some (e.1 % 2 ^ 20) else none)).foldl (fun r ix => (r.meterRun ix none).2) s) ∧
     (∃ u : State, exec .depthSampleSweep s = .next u ∧ u = { s with tm := { s.tm with depth := u.tm.depth } } ∧
       ∀ q ∈ s.regIxs .bufQUsed, Tab.getD u.tm.depth q 0 = Nat.min 255 ((s.get F.bufQUsed_used q + 15) / 16))) ∧
  (∀ s : State,
     (∀ (g : Fin 4) (n : Notice) (rest : List Notice), Tab.getD s.tab.learnWait g.val [] = n :: rest →
       let s1 : State := { s with tab := { s.tab with learnWait := Tab.put s.tab.learnWait g.val rest } }
       let st := (kx64 (BitVec.ofNat 8 n.part :: n.key) (BitVec.ofNat 64 (s.get F.tblEmSeed_seed 0))).toNat % 1024
       let seen := (Tab.getD s.tab.filter st []).any (fun k => decide (s.ns < k.postedNs + s.get F.tblLearnCfg_window 0 * 1000000) &&
         k.part == n.part && k.key == n.key)
       (seen = true → exec (.learnFilter g) s = .next (s1.bump F.tblCntLearnSuppressed 0)) ∧
       (seen = false → ∃ v : State, exec (.learnFilter g) s = .next (v.noticeOut n) ∧ v = { s with tab := v.tab } ∧
         Tab.getD v.tab.learnWait g.val [] = rest ∧ (⟨n.part, n.key, s.ns⟩ : LearnKey) ∈ Tab.getD v.tab.filter st [])) ∧
     (∀ p : Fin 16, s.bit F.tblEmPart_ageEn p.val = true → s.time.tl = true → ∃ u : State, exec (.emAgeTick p) s = .next u ∧
       u = { s with tab := { s.tab with agers := u.tab.agers } } ∧
       ∀ e ∈ s.tab.em, e.2.part = p.val → s.emPos p.val e.1 / 4 ∈ (u.emAger p.val).todo) ∧
     (∀ (p : Fin 16) (pos : Nat) (rest : List Nat), (s.emAger p.val).todo = pos :: rest →
       exec (.emAgerVisit p) s = .next (((s.tab.em.filter (fun e => e.2.part == p.val && s.emPos p.val e.1 / 4 == pos)).map (·.1)).foldl
         (fun r ix => r.emAgeOne p.val ix) (s.setEmAger p.val { s.emAger p.val with todo := rest }))) ∧
     (∀ (p ix : Nat) (e : EmEntry), Tab.get? s.tab.em ix = some e →
       (e.static = true → s.emAgeOne p ix = s) ∧
       (e.static = false → e.hit = true → Tab.get? (s.emAgeOne p ix).tab.em ix = some { e with hit := false, age := 0 }) ∧
       (e.static = false → e.hit = false → e.age + 1 < s.get F.tblEmPart_ageLimit p →
         Tab.get? (s.emAgeOne p ix).tab.em ix = some { e with age := e.age + 1 })) ∧
     (s.forwarding = true → s.time.tl = true → Tab.wf s.tab.frag = true → ∃ u : State, exec .fragAgeTick s = .next u ∧ u = { s with tab := u.tab } ∧
       ∀ k e, Tab.get? s.tab.frag k = some e → Tab.get? u.tab.frag k = if 8 ≤ e.age then none else some { e with age := e.age + 1 }) ∧
     (∃ u : State, exec .lpmSpareReturn s = .next u ∧ u = { s with tab := { s.tab with spare := u.tab.spare } } ∧
       ∀ e, e ∈ u.tab.spare ↔ e ∈ s.tab.spare ∧ s.coreClk < e.2) ∧
     (∀ (kind g ix : Nat) (rest : List (Nat × Nat × Nat)), s.tab.repairs = (kind, g, ix) :: rest →
       ((∃ h, h < 4 ∧ h ≠ g ∧ s.isBad kind h ix = false) → ∃ v : State, exec .tableRepair s = .next (v.cmdEvent 4 kind stREPAIRED ix) ∧
         v.isBad kind g ix = false ∧ v.tab.repairs = rest ∧ v.get F.tblCntRepaired 0 = (s.get F.tblCntRepaired 0 + 1) % 2 ^ 64) ∧
       ((∀ h, h < 4 → h ≠ g → s.isBad kind h ix = true) → ∃ v : State, exec .tableRepair s = .next (v.cmdEvent 5 kind stPARITY ix) ∧
         v.tab.repairs = rest ∧ v.tab.bad = s.tab.bad ∧ v.get F.tblCntUnrepaired 0 = (s.get F.tblCntUnrepaired 0 + 1) % 2 ^ 64)))

/-! ### Ports and time -/

/-- GCL_ENTRY_ADVANCE and GCL_CHANGE (R249, R250, R251): the operation of the entry in force sets or clears the hold; at the change time
the ADMIN list is OPER, the old one ADMIN, and the change is counted. LPI_ENTER, RX_LPI, PREEMPT_VERIFY_SEND, PREEMPT_VERIFY_RESPONSE
(R277, R278, R288): an able port with nothing on its way signals LPI after LPI_IDLE and counts it; LPI from the partner is counted, and
noted for the next stamp of a timing port; up to three verify frames are sent, then the failure is posted; a response makes preemption
active. -/
def Obligations.GatesIdleAndPreemption : Prop :=
  (∀ (p : Port) (s : State),
     let g := s.gate p.val
     let hold := fun (r : State) => match (gateAt (r.gate p.val) (r.baseT16 (r.gateBase p.val))).2.2.1 with
       | 1 => true | 2 => false | _ => (r.gate p.val).hold
     (s.gateEn p.val = true → g.oper.isSome = true → ∃ u : State, exec (.gclEntryAdvance p) s = .next u ∧ (u.gate p.val).hold = hold s ∧
       (u.gate p.val).oper = g.oper ∧ (∀ k, k ≠ p.val → u.gate k = s.gate k) ∧ u = { s with tm := { s.tm with gates := u.tm.gates } }) ∧
     (∀ c a, g.change16 = some c → g.admin = some a → c ≤ s.baseT16 (s.gateBase p.val) → ∃ u : State, exec (.gclChange p) s = .next u ∧
       (u.gate p.val).oper = some a ∧ (u.gate p.val).admin = g.oper ∧ (u.gate p.val).change16 = none ∧
       u.bit F.tmPortStatus_gclOper p.val = true ∧ u.bit F.tmPortStatus_gclPending p.val = false ∧
       u.get F.tmCntGclChange p.val = (s.get F.tmCntGclChange p.val + 1) % 2 ^ 64 ∧ u = { s with regs := u.regs, tm := u.tm }) ∧
     (∀ c, g.change16 = some c → s.baseT16 (s.gateBase p.val) < c → exec (.gclChange p) s = .next s)) ∧
  (∀ (p : Port) (s : State), s.linkUp p.val = true →
     let k := portIx p.val
     let st := s.portSt p.val
     (s.lpiAble p.val = true → s.bit F.portStatus_txLpi k = false → s.get F.tmPortStatus_outstanding p.val = 0 →
       Tab.getD s.ports.wire p.val [] = [] → st.idleSince + s.get F.portLpi_lpiIdle k * 1000 ≤ s.ns →
       ∃ u : State, exec (.lpiEnter p) s = .next u ∧ u.bit F.portStatus_txLpi k = true ∧ u.out = s.out ++ [OutEv.lpi p.val true] ∧
         u.get F.portCntTxLpi k = (s.get F.portCntTxLpi k + 1) % 2 ^ 64 ∧ u = { s with regs := u.regs, out := u.out }) ∧
     (s.bit F.portCfg_timingPort k = false → exec (.rxLpi p) s = .next (s.bump F.portCntRxLpi k)) ∧
     (s.bit F.portCfg_timingPort k = true → ∃ v : State, v.get F.portCntRxLpi k = (s.get F.portCntRxLpi k + 1) % 2 ^ 64 ∧
       (v.portSt p.val).lpiStamp = true ∧ v = { s with regs := v.regs, ports := v.ports } ∧
       exec (.rxLpi p) s = .next (if (∀ t, st.lastLpiEvt = some t → t + 1000000000 ≤ s.ns) then v.linkEvent 8 p.val 0 else v)) ∧
     (s.bit F.portPreempt_preemptEn k = true → s.bit F.portPreempt_verifyDis k = false → s.bit F.portStatus_preemptActive k = false →
       (∀ t, st.verifySent = some t → t + s.get F.portPreempt_verifyTime k * 1000000 ≤ s.ns) → st.verifyTries ≤ 3 →
       let s1 := s.setPortSt p.val { st with verifyTries := st.verifyTries + 1, verifySent := some s.ns }
       exec (.preemptVerifySend p) s = .next (if st.verifyTries < 3 then s1.emit (.verify p.val) else s1.linkEvent 7 p.val 0)) ∧
     (s.bit F.portPreempt_preemptEn k = true → s.bit F.portStatus_preemptActive k = false → 1 ≤ st.verifyTries → st.verifyTries ≤ 3 →
       ∃ v : State, exec (.preemptVerifyResponse p) s = .next (v.linkEvent 6 p.val 0) ∧ v.bit F.portStatus_preemptActive k = true ∧
         v = { s with regs := v.regs }))

/-- LINK_CONDITIONS_MET, LINK_CONDITION_FAILED, CAL_DONE, LINK_UP, LINK_DOWN, LINK_HOLD_EXPIRY (R260, R261, R275, R301): conditions that
begin start the debounce and the calibration of a port that trains; one that fails breaks it, or starts the down debounce of an up port;
the calibration's values are applied; after LINK_UP_DEB the link is up with its event, after LINK_DOWN_DEB down, its queues held; at the
end of the hold they are flushed. -/
def Obligations.LinksComeAndGo : Prop :=
  ∀ (p : Port) (s : State),
    let k := portIx p.val
    let st := s.portSt p.val
    (s.trains p.val = true → ∃ u : State, exec (.linkConditionsMet p) s = .next u ∧ (u.portSt p.val).condDown = none ∧
      u.bit F.portStatus_localFault k = false ∧ u.bit F.portStatus_remoteFault k = false ∧
      (s.linkUp p.val = false → (u.portSt p.val).condUp = some s.ns ∧ u.get F.timePortCal_calState p.val = 1) ∧
      u = { s with regs := u.regs, ports := u.ports }) ∧
    (∀ cause : BitVec 8, ∃ u : State, exec (.linkConditionFailed p cause) s = .next u ∧
      (s.linkUp p.val = true → st.condDown = none → (u.portSt p.val).condDown = some (s.ns, cause.toNat)) ∧
      (s.linkUp p.val = false → (u.portSt p.val).condUp = none ∧ u.get F.timePortCal_calState p.val = 0) ∧
      (cause.toNat = 3 → u.bit F.portStatus_localFault k = true) ∧ (cause.toNat = 4 → u.bit F.portStatus_remoteFault k = true) ∧
      u = { s with regs := u.regs, ports := u.ports }) ∧
    (∀ (skew : BitVec 48) (dRx dTx : BitVec 16) (kTx : BitVec 32), s.get F.timePortCal_calState p.val = 1 →
      ∃ u : State, exec (.calDone p skew dRx dTx kTx) s = .next u ∧ u.get F.portStatus_skew k = skew.toNat ∧
        u.get F.timePortCal_dPmaRx p.val = dRx.toNat ∧ u.get F.timePortCal_dPmaTx p.val = dTx.toNat ∧
        u.get F.timePortKtx_kTx p.val = kTx.toNat ∧ u.get F.timePortCal_calState p.val = 2 ∧ u = { s with regs := u.regs }) ∧
    (∀ t, st.condUp = some t → s.trains p.val = true → s.linkUp p.val = false → t + s.get F.portCfg_linkUpDeb k * 1000000 ≤ s.ns →
      ∃ v : State, exec (.linkUp p) s = .next (v.linkEvent 1 p.val (v.portMode p.val)) ∧ v.linkUp p.val = true ∧
        v.bit F.portStatus_link k = true ∧ v.bit F.tmPortStatus_hold p.val = false ∧ (v.portSt p.val).condUp = none ∧
        (v.tmPort p.val).holdUntil = none ∧ v = { s with regs := v.regs, tm := v.tm, ports := v.ports }) ∧
    (∀ t cause, st.condDown = some (t, cause) → s.linkUp p.val = true → t + s.get F.portCfg_linkDownDeb k * 1000 ≤ s.ns →
      ∃ v : State, exec (.linkDown p) s = .next (v.linkEvent 2 p.val cause) ∧ v.bit F.tmPortStatus_hold p.val = true ∧
        (v.tmPort p.val).holdUntil = some (v.tlNs / 1000 + v.get F.tmPortCfg_linkHold p.val * 1000)) ∧
    (∀ t, (s.tmPort p.val).holdUntil = some t → s.linkUp p.val = false → t ≤ s.tlNs / 1000 →
      ∃ u : State, exec (.linkHoldExpiry p) s = .next u ∧ (u.tmPort p.val).holdUntil = none ∧ u.bit F.tmPortStatus_hold p.val = false)

/-- FEC_DEGRADED_TICK, PAUSE_FRAME_RX, PFC_FRAME_RX, PAUSE_EXPIRY, PFC_REFRESH, PFC_WD_TICK (R272, R279-R282): corrected codewords are
counted, and degradation is posted at most once a second; a PAUSE frame pauses or resumes a port in MODE PAUSE and a PFC frame the
priorities it names in MODE PFC, else it is counted as discarded; a pause ends when its quanta have run out; the frame that signals XOFF
is sent again; a priority that stays paused with queued frames storms at WD_DETECT ticks, and stops storming after WD_RESTORE. -/
def Obligations.PausesAndStorms : Prop :=
  ∀ (p : Port) (s : State),
    let k := portIx p.val
    let st := s.portSt p.val
    (∀ corrected : Nat, s.linkUp p.val = true → ∃ v : State,
      v.get F.portCntFecCorr k = (s.get F.portCntFecCorr k + corrected) % 2 ^ 64 ∧ v = { s with regs := v.regs, ports := v.ports } ∧
      exec (.fecDegradedTick p corrected) s = .next (if s.get F.portCfg_fecDegThr k < corrected ∧
        (∀ t, st.lastFecEvt = some t → t + 1000000000 ≤ s.ns) then v.linkEvent 3 p.val 0 else v)) ∧
    (∀ q : BitVec 16, s.linkUp p.val = true →
      (s.get F.portFlowctl_mode k = 1 → ∃ u : State, exec (.pauseFrameRx p q) s = .next u ∧ u.bit F.tmPortStatus_paused p.val = (q.toNat != 0) ∧
        (u.portSt p.val).pauseUntil = (if q.toNat = 0 then none else some (s.ns + s.quantaNs p.val q.toNat)) ∧
        u = { s with regs := u.regs, ports := u.ports }) ∧
      (s.get F.portFlowctl_mode k ≠ 1 → exec (.pauseFrameRx p q) s = .next (s.bump F.portCntRxCtlDiscard k))) ∧
    (∀ (m : BitVec 8) (q : List (BitVec 16)), s.linkUp p.val = true →
      (s.get F.portFlowctl_mode k = 2 → ∃ u : State, exec (.pfcFrameRx p m q) s = .next u ∧ u = { s with regs := u.regs, ports := u.ports } ∧
        ∀ n, n < 8 → (u.get F.tmPortStatus_pfcPaused p.val).testBit n =
          (if m.getLsbD n = true ∧ st.storm.getLsbD n = false then (q.getD n 0).toNat != 0
           else (s.get F.tmPortStatus_pfcPaused p.val).testBit n)) ∧
      (s.get F.portFlowctl_mode k ≠ 2 → exec (.pfcFrameRx p m q) s = .next (s.bump F.portCntRxCtlDiscard k))) ∧
    (∀ t, st.pauseUntil = some t → t ≤ s.ns → ∃ u : State, exec (.pauseExpiry p none) s = .next u ∧ (u.portSt p.val).pauseUntil = none ∧
      u.bit F.tmPortStatus_paused p.val = false ∧ u = { s with regs := u.regs, ports := u.ports }) ∧
    (∀ (n : Fin 8) (t : Nat), Tab.get? st.pfcUntil n.val = some t → t ≤ s.ns → ∃ u : State, exec (.pauseExpiry p (some n)) s = .next u ∧
      Tab.get? (u.portSt p.val).pfcUntil n.val = none ∧ (u.get F.tmPortStatus_pfcPaused p.val).testBit n.val = false ∧
      u = { s with regs := u.regs, ports := u.ports }) ∧
    (∀ t, st.refreshNs = some t → t ≤ s.ns → st.xoff ≠ 0 →
      let q := s.get F.portFlowctl_pfcQuanta k
      let s1 := s.setPortSt p.val { st with refreshNs := some (s.ns + s.quantaNs p.val (s.get F.portFlowctl_refresh k)) }
      exec (.pfcRefresh p) s = .next (if s.get F.portFlowctl_mode k = 1 then s1.sendFlow p.val 0xFF [q]
        else s1.sendFlow p.val st.xoff ((List.range 8).map (fun i => if st.xoff.getLsbD i then q else 0)))) ∧
    (∀ n : Fin 8, s.linkUp p.val = true → s.get F.portFlowctl_mode k = 2 → (s.get F.portPfcWd_wdEn k).testBit n.val = true →
      (st.storm.getLsbD n.val = true → s.msSince (Tab.getD st.pfcLast n.val 0) < s.get F.portPfcWd_wdRestore k →
        exec (.pfcWdTick p n) s = .next s) ∧
      (st.storm.getLsbD n.val = true → s.get F.portPfcWd_wdRestore k ≤ s.msSince (Tab.getD st.pfcLast n.val 0) → ∃ v : State,
        exec (.pfcWdTick p n) s = .next (v.linkEvent 5 p.val n.val) ∧ (v.portSt p.val).storm.getLsbD n.val = false ∧
        (v.get F.portStatus_pfcStorm k).testBit n.val = false ∧ v = { s with regs := v.regs, ports := v.ports }) ∧
      (st.storm.getLsbD n.val = false → (s.get F.tmPortStatus_pfcPaused p.val).testBit n.val = true → s.slotQueues (p.val * 8 + n.val) ≠ [] →
        let c := Nat.min (Tab.getD st.wdTicks n.val 0 + 1) (s.msSince (Tab.getD st.pfcSince n.val s.ns))
        let s1 := s.setPortSt p.val { st with wdTicks := Tab.put st.wdTicks n.val c }
        exec (.pfcWdTick p n) s = .next (if s.get F.portPfcWd_wdDetect k ≤ c then s1.stormStart p.val n.val else s1)) ∧
      (st.storm.getLsbD n.val = false → ((s.get F.tmPortStatus_pfcPaused p.val).testBit n.val = false ∨ s.slotQueues (p.val * 8 + n.val) = []) →
        exec (.pfcWdTick p n) s = .next (s.setPortSt p.val { st with wdTicks := Tab.del st.wdTicks n.val })))

/-- MEAS_TIMEOUT, JUMP_WINDOW_END, ACCEPT_AFTER_EXPIRY, QUALITY_TRAINED, DEGRADE_AFTER_EXPIRY (R310, R313, R314, R315): a running base
with no measurement for MEAS_TIMEOUT goes into HOLDOVER with cause TIMEOUT and posts its change; the window of a jump ends; a base that
has been SUSPECT for ACCEPT_AFTER takes its last path delay and is LOCKED; 60 s in LOCKED train its quality; DEGRADE_AFTER in HOLDOVER
marks it. REPLICA_LOOP_UPDATE and TXTS_DRAIN (R302, R306): each applied delay of a calibrated port moves towards the measured one by at
most 2 ps; the third update in a row more than 50 ps off makes the port DRIFTED and posts it, one within 10 ps makes it CALIBRATED; the
head of a port's stamp FIFO goes to its channel where that has room, and stays where it has none. -/
def Obligations.BasesAndReplicas : Prop :=
  (∀ (b : TBase) (s : State),
     let v := s.base b.val
     (v.running = true → s.servo b.val ≠ sHOLDOVER → v.lastMeasNs + s.get F.timeTbServo_measTimeout b.val * 1000000 ≤ s.ns →
       ∃ r : State, exec (.measTimeout b) s = .next (r.timeEvent 1 b.val none (some (r.theta b.val))) ∧ r.servo b.val = sHOLDOVER ∧
         r.get F.timeTbStatus_hcause b.val = hTIMEOUT ∧ r.bit F.timeTbStatus_jumpPending b.val = false ∧ (r.base b.val).holdSinceNs = s.ns ∧
         (r.base b.val).t40 = v.t40 ∧ r = { s with regs := r.regs, time := r.time }) ∧
     (∀ (g : Fin 4) (t : Nat), (s.xg g.val).jumpNs = some t →
       (t + s.get F.timeXgCfg_jumpWindow g.val * 1000000 ≤ s.ns → exec (.jumpWindowEnd g) s = .next (s.windowEnd g.val)) ∧
       (t + s.get F.timeXgCfg_jumpWindow g.val * 1000000 ≤ s.ns → (∀ n, n < 8 → s.bit F.timeTbStatus_jumpPending n = false) →
         exec (.jumpWindowEnd g) s = .next (s.setXg g.val { s.xg g.val with jumpNs := none, waiting := 0, jumped := 0, locked := 0 })) ∧
       (s.ns < t + s.get F.timeXgCfg_jumpWindow g.val * 1000000 → exec (.jumpWindowEnd g) s = .next s)) ∧
     (s.servo b.val = sSUSPECT → s.get F.timeTbServo_acceptAfter b.val ≠ 0 →
       v.suspectSinceNs + s.get F.timeTbServo_acceptAfter b.val * 1000000000 ≤ s.ns →
       ∃ r : State, exec (.acceptAfterExpiry b) s = .next (r.timeEvent 1 b.val none (some (s.theta b.val))) ∧ r.servo b.val = sLOCKED ∧
         (r.base b.val).dm = v.lastD ∧ r = { s with regs := r.regs, time := r.time }) ∧
     (∀ t, v.lockedSinceNs = some t → t + 60000000000 ≤ s.ns → exec (.qualityTrained b) s = .next (s.setBit F.timeTbStatus_quality b.val true)) ∧
     (s.servo b.val = sHOLDOVER → v.holdSinceNs + s.get F.timeTbHold_degradeAfter b.val * 1000000000 < s.ns →
       exec (.degradeAfterExpiry b) s = .next (s.setBase b.val { v with degraded := true }))) ∧
  (∀ (p : Port) (s : State),
     (∀ mRx mTx : BitVec 16, s.get F.timePortCal_calState p.val = 2 ∨ s.get F.timePortCal_calState p.val = 3 →
       let rx := s.get F.timePortCal_dPmaRx p.val
       let tx := s.get F.timePortCal_dPmaTx p.val
       let dRx : Int := (mRx.toNat : Int) - rx
       let dTx : Int := (mTx.toNat : Int) - tx
       let d := if dTx.natAbs ≤ dRx.natAbs then dRx else dTx
       let n := if 50 < d.natAbs then (s.portSt p.val).drift + 1 else 0
       ∃ v : State, v.get F.timePortCal_dPmaRx p.val = nudge rx mRx.toNat ∧ v.get F.timePortCal_dPmaTx p.val = nudge tx mTx.toNat ∧
         (v.portSt p.val).drift = n ∧ v = { s with regs := v.regs, ports := v.ports } ∧
         (3 ≤ n → s.get F.timePortCal_calState p.val = 2 → v.get F.timePortCal_calState p.val = 3 ∧
           exec (.replicaLoopUpdate p mRx mTx) s = .next (v.timeEvent 6 p.val none (some d))) ∧
         (¬(3 ≤ n ∧ s.get F.timePortCal_calState p.val = 2) → exec (.replicaLoopUpdate p mRx mTx) s = .next v ∧
           v.get F.timePortCal_calState p.val = if d.natAbs ≤ 10 then 2 else s.get F.timePortCal_calState p.val)) ∧
     (∀ e l, s.txts p.val = e :: l →
       let h := s.get F.timeTxtsChan_handle 0
       let room := s.chanLive h 4 && s.evtRoom (hIx h) && (s.chan (hIx h)).hold.isEmpty
       (room = true → exec (.txtsDrain p) s = .next ((s.evtWrite (hIx h) 7 (txtsBytes e)).txtsPop p.val)) ∧
       (room = false → exec (.txtsDrain p) s = .next s)))

/-- PPS_IN_EDGE, PPS_IN_LOSS, TOD_RX_MESSAGE, PPS_OUT_EDGE, TOD_TX_SEND (R316, R320-R322): an edge on an enabled input is stamped on TL
and noted, and is measured at once where no ToD message labels it; its loss is posted and forgotten; a good message in its time labels the
edge, another is posted; an output pulses when its base passes a whole second, no sooner than WIDTH after the last, and its message, with
the identification and version of Table 10.7, leaves 1 ms later. DPLL_QUALIFY, DPLL_DISQUALIFY, DPLL_STATE, HOLD_READY (R317, R318): an
input that may serve is marked qualified, another taken off the marks, and the DPLL chooses again; a change of state is stored and posted,
leaving LOCKED and HOLDOVER clears HOLD_READY, which 60 s in LOCKED set. -/
def Obligations.SecondsAndDplls : Prop :=
  (∀ (n : Fin 4) (s : State),
     (∀ phi : BitVec 16, s.bit F.timePpsIn_en n.val = true → s.time.tl = true →
       let num : Int := -(phi.toNat * 1000 : Nat) - signed16 (s.get F.timePpsIn_delay n.val) * 256
       let marks := (s.ppsBases n.val).map (fun b => (b, s.stampOn b false false num 256000))
       let tod := decide (n.val < 2) && s.bit F.timePpsIn_todEn n.val
       ∃ v : State, v.get F.timePpsInLast_last n.val = (s.stampOn 15 false false num 256000).toNat ∧
         Tab.get? v.time.ppsIn n.val = some { lastNs := some s.ns, edge := if tod then marks else [] } ∧
         v = { s with regs := v.regs, time := v.time } ∧
         (tod = true ∨ s.measMode = false → exec (.ppsInEdge n phi) s = .next v) ∧
         (tod = false → s.measMode = true → exec (.ppsInEdge n phi) s = .next (marks.foldl (fun r m =>
           let sec := (kts16 m.2 + sec16 / 2) / sec16
           if (((kts16 m.2 : Int) - sec * sec16).natAbs * 2 < sec16) then r.ppsMeasure m.1 m.2 sec else r) v))) ∧
     (∀ t, (Tab.getD s.time.ppsIn n.val {}).lastNs = some t → s.bit F.timePpsIn_en n.val = true → t + 1100000000 < s.ns →
       exec (.ppsInLoss n) s = .next ((s.setPpsIn n.val {}).timeEvent 9 n.val none (some 0))) ∧
     (∀ (m : Fin 2) (msg : List Byte) (t : Nat), s.bit F.timePpsIn_en m.val = true → s.bit F.timePpsIn_todEn m.val = true → msg.length = 16 →
       msg.take 3 = [0x4B, 0x54, 1] → (Tab.getD s.time.ppsIn m.val {}).lastNs = some t →
       let v := Tab.getD s.time.ppsIn m.val {}
       let good : Prop := t + 1000000 ≤ s.ns ∧ s.ns ≤ t + 900000000 ∧ beNat (msg.drop 14) = crc16 (msg.take 14)
       (good → exec (.todRxMessage m msg) s = .next (if s.measMode then
         v.edge.foldl (fun r e => r.ppsMeasure e.1 e.2 (beNat ((msg.drop 5).take 6))) (s.setPpsIn m.val { v with edge := [] })
         else s.setPpsIn m.val { v with edge := [] })) ∧
       (¬good → exec (.todRxMessage m msg) s = .next (s.timeEvent 10 m.val none (some 0)))) ∧
     (let b := s.get F.timePpsOut_base n.val
      s.ppsOutOn n.val b = true → (s.baseT40 b).1 % (2 ^ 40 * 1000000000) < (s.baseT40 b).2 →
      (∀ l, Tab.get? s.time.ppsOutNs n.val = some l → l + s.get F.timePpsOut_width n.val * 1000 ≤ s.ns) →
      ∃ u : State, exec (.ppsOutEdge n) s = .next u ∧ u.out = s.out ++ [OutEv.pps n.val] ∧ Tab.get? u.time.ppsOutNs n.val = some s.ns ∧
        (n.val < 2 → s.bit F.timePpsOut_todEn n.val = true → ∃ msg, Tab.get? u.time.todDue n.val = some (s.ns, msg) ∧ msg.length = 16 ∧
          msg.take 3 = [0x4B, 0x54, 1] ∧ beNat (msg.drop 14) = crc16 (msg.take 14)) ∧
        (n.val < 2 → s.bit F.timePpsOut_todEn n.val = false → u.time.todDue = s.time.todDue)) ∧
     (∀ (m : Fin 2) (t : Nat) (msg : List Byte), Tab.get? s.time.todDue m.val = some (t, msg) → t + 1000000 ≤ s.ns → s.modeNo ≠ mRESET →
       s.modeNo ≠ mHALT → ∃ u : State, exec (.todTxSend m) s = .next u ∧ u.out = s.out ++ [OutEv.tod m.val msg] ∧
         Tab.get? u.time.todDue m.val = none ∧ u = { s with out := u.out, time := u.time })) ∧
  (∀ (d : Fin 4) (s : State),
     (∀ i : Fin 11, ¬(d.val = 1 ∧ i.val = 10) → (6 ≤ i.val → i.val ≤ 9 → s.rclkLive (i.val - 6) = true) →
       ∃ u : State, exec (.dpllQualify d i) s = .next u ∧ u.dpllQualified d.val i.val = true ∧
         (∀ j, j < 11 → j ≠ i.val → u.dpllQualified d.val j = s.dpllQualified d.val j) ∧ u = { s with regs := u.regs }) ∧
     (∀ i : Fin 11, ∃ u : State, exec (.dpllDisqualify d i) s = .next u ∧ u.dpllQualified d.val i.val = false ∧
       (∀ j, j < 11 → j ≠ i.val → u.dpllQualified d.val j = s.dpllQualified d.val j) ∧ u = { s with regs := u.regs }) ∧
     (∀ st : BitVec 2, (s.get F.timeDpllStatus_state d.val = st.toNat → exec (.dpllState d st) s = .next s) ∧
       (s.get F.timeDpllStatus_state d.val ≠ st.toNat → ∃ v : State,
         exec (.dpllState d st) s = .next (v.timeEvent 8 d.val (some st.toNat) none) ∧ v.get F.timeDpllStatus_state d.val = st.toNat ∧
         (st.toNat < 2 → v.bit F.timeDpllStatus_holdReady d.val = false) ∧
         (st.toNat = 2 → Tab.get? v.time.dpllLocked d.val = some s.ns) ∧ v = { s with regs := v.regs, time := v.time })) ∧
     (∀ t, Tab.get? s.time.dpllLocked d.val = some t → s.get F.timeDpllStatus_state d.val = 2 → t + 60000000000 ≤ s.ns →
       exec (.holdReady d) s = .next (s.setBit F.timeDpllStatus_holdReady d.val true)))

/-! ### Registers -/

/-- Reads with an effect (R6, R264, R294, R306): out of RESET a 64-bit read of a counter that clears sends its value and clears it; a read
of TM_LAT_COUNT takes the snapshot of its monitor; a read of the low word of a NOW register latches its whole value for the master; the
first word of a TXTS FIFO latches its head, and the last word of a latched head removes it. The errors of a port that runs PRBS are a free
value, as is the running value of a seal unit that is BUSY. -/
def Obligations.ReadsWithEffects : Prop :=
  ∀ s : State, s.modeNo ≠ mRESET →
    (∀ (off : BitVec 26) (r : Reg) (i : Nat), findReg off.toNat = some (r, i, 0) → nowBase r i = none → r ≠ .timeTxtsData → r ≠ .tmLatCount →
      let lost : Prop := r = .sysDrydockPort ∧ s.get F.sysDrydockPort_loop i = 3
      let open' : Prop := lost ∨ (r = .sealRunning ∧ s.get F.sealCtl_state i = suBUSY)
      ∃ (u : State) (v : RegVal), exec (.counterReadClear off) s = .next u ∧ (¬lost → v = s.view r i) ∧
        (lost → v = putBits (s.view r i) 32 32 s.freeVal.toNat) ∧
        u.out = s.out ++ [OutEv.rdata ((v &&& ~~~(r.row.bits (· == .wo))) &&& BitVec.ofNat 320 (2 ^ 64 - 1))] ∧
        (u.reg r i &&& r.row.bits (· == .rc) = 0) ∧ (¬open' → u.freeCtr = s.freeCtr) ∧ (r ≠ .bufCntReadIdle → u.tm = s.tm) ∧
        u = { s with regs := u.regs, out := u.out, tm := u.tm, freeCtr := u.freeCtr }) ∧
    (∀ n : Fin 64, ∃ u : State, exec (.tmLatCountRead n) s = .next u ∧
      let l := Tab.getD s.tm.lat n.val {}
      u.get F.tmLatCount_count n.val = l.count % 2 ^ 48 ∧ u.get F.tmLatMin_value n.val = l.least % 2 ^ 64 ∧
      u.get F.tmLatMax_value n.val = l.most % 2 ^ 64 ∧ u.get F.tmLatSum_value n.val = l.sum % 2 ^ 64 ∧
      u.out = s.out ++ [OutEv.rdata (u.reg .tmLatCount n.val &&& BitVec.ofNat 320 (2 ^ 64 - 1))] ∧ u = { s with regs := u.regs, out := u.out }) ∧
    (∀ (m : BitVec 8) (b : Option TBase),
      let k := match b with | some x => x.val | none => 15
      ∃ u : State, exec (.timeNowRead m b) s = .next u ∧ Tab.get? u.time.latches (m.toNat * 16 + k) = some (s.nowOf k) ∧
        u.out = (if m = 0x50 then s.out ++ [OutEv.rdata ((s.nowOf k).setWidth 320 &&& BitVec.ofNat 320 (2 ^ 64 - 1))] else s.out) ∧
        u = { s with time := u.time, out := u.out }) ∧
    (∀ p : Port,
      let head : BitVec 256 := match s.txts p.val with | e :: _ => BitVec.ofNat 256 (leNat (txtsBytes e)) | [] => 0
      (∃ u : State, exec (.txtsDataRead p 0) s = .next u ∧ Tab.get? u.time.txLatch p.val = some head ∧ u.txts p.val = s.txts p.val ∧
        u.out = s.out ++ [OutEv.rdata (head.setWidth 320 &&& BitVec.ofNat 320 (2 ^ 64 - 1))]) ∧
      (∀ w : Fin 4, 0 < w.val →
        let out := OutEv.rdata (((Tab.getD s.time.txLatch p.val 0).setWidth 320 >>> (64 * w.val)) &&& BitVec.ofNat 320 (2 ^ 64 - 1))
        exec (.txtsDataRead p w) s = .next ((if w.val = 3 ∧ Tab.getD s.time.txLatch p.val 0 = head ∧ head ≠ 0 then s.txtsPop p.val else s).emit out)))

/-- Register writes (R6, Table 15.3): a write that its register, the mode and the function accept has the effect of the register; one that
is refused, or that meets no register that can be written, changes nothing, as does a write by another function than the PF or one of a
configuration register in SERVICE. Writes with an effect (R88, R91, R202, R264, R376, R377, R394, R439): in MOORED, SLACK and DRYDOCK a
FLUSH forgets every fragment, a write of a limiter fills it, of a mirror session restarts its count, of a latency monitor restarts its
statistics, and a snapshot copies the 32 counters; PMC_SAMPLE_HEAD takes its index in every mode but RESET; HOST_ERR_STATUS and
SYS_HBOR_CAUSE are cleared by ones, but for what still stands. -/
def Obligations.RegisterWrites : Prop :=
  (∀ (fn : Fn) (off : BitVec 26) (n : RegAccess) (v : RegVal) (s : State),
     (∀ t, s.regPut (.direct (fn.val == 0)) fn.val off.toNat (accBytes n) (BitVec.ofNat 320 (2 ^ 320 - 1)) v = .ok t →
       exec (.registerWrite fn off n v) s = .next t) ∧
     (findReg off.toNat = none → exec (.registerWrite fn off n v) s = .next s) ∧
     (∀ r i b, findReg off.toNat = some (r, i, b) → r.row.writable b (accBytes n) = false → exec (.registerWrite fn off n v) s = .next s) ∧
     (∀ r i b, findReg off.toNat = some (r, i, b) → r.row.wmode = .cfg → (s.modeNo = mSERVICE ∨ s.modeNo = mHARBOUR ∨ s.modeNo = mHALT) →
       exec (.registerWrite fn off n v) s = .next s)) ∧
  (∀ s : State,
     (s.directMode = true →
       (∀ v : BitVec 32, v.getLsbD 0 = true → ∃ u : State, exec (.quayFragFlush v) s = .next u ∧ u.tab.frag = []) ∧
       (∀ (c : Fin 64) (v : Word), ∃ u : State, exec (.quayBwCfgWrite c v) s = .next u ∧ u.bwCount c.val = u.get F.quayBwCfg_burst c.val * 65536 ∧
         u.get F.quayBwCfg_rate c.val = v.toNat % 2 ^ 24 ∧
         u.get F.quayBwCfg_burst c.val = Nat.max 1 (v.toNat / 2 ^ 24 % 2 ^ 16)) ∧
       (∀ (n : Fin 16) (v : Word), ∃ u : State, exec (.egrMirrorCfgWrite n v) s = .next u ∧ Tab.get? u.tab.mirrorCnt n.val = none ∧
         u.get F.egrMirrorCfg_type n.val = v.toNat % 4) ∧
       (∀ (n : Fin 64) (v : Word), ∃ u : State, exec (.tmLatCfgWrite n v) s = .next u ∧ Tab.get? u.tm.lat n.val = none ∧
         u.get F.tmLatCfg_ttype n.val = v.toNat % 4) ∧
       (∀ v : BitVec 32, v.getLsbD 0 = true → ∃ u : State, exec (.pmcSnapshot v) s = .next u ∧
         ∀ n, n < 32 → u.reg .pmcCntShadow n = s.reg .pmcCntValue n)) ∧
     (s.modeNo ≠ mRESET →
       (∀ v : BitVec 32, ∃ u : State, exec (.pmcSampleHead v) s = .next u ∧ u.get F.pmcSampleHead_index 0 = v.toNat % 2 ^ 20) ∧
       (∀ v : BitVec 32, ∃ u : State, exec (.hostErrStatusClear v) s = .next u ∧ u = { s with regs := u.regs } ∧
         ∀ i, i < 21 → i ≠ 12 → i ≠ 16 → i ≠ 19 → (u.get F.hostErrStatus_block 0).testBit i =
           ((s.get F.hostErrStatus_block 0).testBit i && !(v.getLsbD i))) ∧
       (∀ v : BitVec 32, exec (.sysHborCauseClear v) s = .next (s.causeW1c (v.toNat % 128)))))

/-! ### The host -/

/-- DOORBELL_TAIL and DOORBELL_HEAD (R330, R332, R338, R383): in a mode that takes doorbells, one that does not name the current OPEN
channel of its function is counted as stale, one whose index lies outside the ring as bad; a good TAIL becomes the channel's tail and its
CMD channel, once it has work, stands on the ready list; a good HEAD frees the entries before it. In BOOT doorbells are held, in HALT they
are discarded. RXP_DELIVERY, RXP_STALL_EXPIRY, TXP_FETCH, EVT_HOLD_RELEASE, EVT_HOLD_EXPIRY, REC_ENTRY_SERVE, REC_READ_COMPLETE (R386,
R387, R389, R390, R391): the oldest waiting frame is delivered once the entries posted suffice and the ring moves past them, or dropped
after STALL_US; a whole frame that passes its checks joins its quay with the next frame number and a good FCS, another is answered
BAD_PARAM; a held record is written where its ring has room, or dropped after STALL_US; an entry of a REC ring is refused, or its drive
read starts and its answer is written back. -/
def Obligations.DoorbellsAndRings : Prop :=
  (∀ (fn : Fn) (c : Chan) (index : BitVec 16) (gen : BitVec 8) (mem : List (Nat × Word)) (s : State),
     let s1 := s.driverWrites fn.val c.val mem
     let tail := exec (.doorbellTail fn c index gen mem) s
     let head := exec (.doorbellHead fn c index gen) s
     (s1.modeNo = mHALT → tail = .next s1) ∧ (s.modeNo = mHALT → head = .next s) ∧
     (s1.modeNo = mBOOT → tail = .next { s1 with mode := { s1.mode with bells := s1.mode.bells ++ [(c.val, bellCode false fn.val index.toNat gen.toNat)] } }) ∧
     (s.modeNo = mBOOT → head = .next { s with mode := { s.mode with bells := s.mode.bells ++ [(c.val, bellCode true fn.val index.toNat gen.toNat)] } }) ∧
     (mMOORED ≤ s1.modeNo → s1.modeNo ≠ mHALT →
       (s1.bellLive fn.val c.val gen.toNat = false → tail = .next (s1.bump F.cmdCntStaleDb 0)) ∧
       (s1.bellLive fn.val c.val gen.toNat = true → s1.get F.cmdChState_type c.val ≠ 4 →
         (2 ^ (s1.chan c.val).log2ring ≤ index.toNat → tail = .next (s1.bump F.cmdCntBadDb 0)) ∧
         (index.toNat < 2 ^ (s1.chan c.val).log2ring → (c.val = 0 → s1.ch0Up = true) → ∃ u : State, tail = .next u ∧
           u.get F.cmdChState_tail c.val = index.toNat ∧
           (s1.get F.cmdChState_type c.val = 1 → (index.toNat ≠ s1.get F.cmdChState_tail c.val →
               (u.chan c.val).batches = (s1.chan c.val).batches ++ [index.toNat]) ∧
             (u.hasWork (.chan c) = true → Issuer.chan c ∈ u.cmd.ready ∨ ∃ e ∈ u.cmd.engines, e.2 = Issuer.chan c)) ∧
           u = { s1 with regs := u.regs, cmd := u.cmd }))) ∧
     (mMOORED ≤ s.modeNo → s.modeNo ≠ mHALT →
       (s.bellLive fn.val c.val gen.toNat = false → head = .next (s.bump F.cmdCntStaleDb 0)) ∧
       (s.bellLive fn.val c.val gen.toNat = true → ∀ log2,
         (s.get F.cmdChState_type c.val = 1 ∧ log2 = (s.chan c.val).log2cq) ∨ (s.get F.cmdChState_type c.val = 4 ∧ log2 = (s.chan c.val).log2ring) →
         (2 ^ log2 ≤ index.toNat → head = .next (s.bump F.cmdCntBadDb 0)) ∧
         (index.toNat < 2 ^ log2 → head = .next (s.setChan c.val { s.chan c.val with cqHead := index.toNat }))))) ∧
  (∀ (c : Chan) (s : State),
     let ch := s.chan c.val
     (∀ w rest, ch.rx = w :: rest → s.chanIs c.val 2 = true → s.chanRuns c.val = true → s.modeNo ≠ mHARBOUR →
       (s.rxEntries c.val ch.devHead w = none → exec (.rxpDelivery c) s = .next s) ∧
       (∀ run, s.rxEntries c.val ch.devHead w = some run → ∃ v : State, exec (.rxpDelivery c) s = .next (v.deliveryEnd w) ∧
         (v.chan c.val).rx = rest ∧ (v.chan c.val).devHead = (ch.devHead + run.length) % 2 ^ ch.log2ring ∧
         v.get F.cmdChState_head c.val = (ch.devHead + run.length) % 2 ^ ch.log2ring % 2 ^ 16)) ∧
     (∀ w rest, ch.rx = w :: rest → ch.flag = false → w.atNs + ch.stallUs * 1000 ≤ s.ns →
       exec (.rxpStallExpiry c) s = .next ((s.setChan c.val { ch with rx := rest }).rxDrop c.val w)) ∧
     (∀ run, s.chanIs c.val 3 = true → s.chanRuns c.val = true → s.txModes = true → s.paused (s.txQuay c.val).val = false →
       s.txFrame c.val = some run →
       (s.txCheck c.val run = none → exec (.txpFetch c) s =
         .next (((s.txGot c.val run).txBack c.val stBAD_PARAM run).bump F.hostChCntBadDesc c.val)) ∧
       (∀ l, s.txCheck c.val run = some l → stagingSize < s.staged (s.txQuay c.val).val + l.length + 4 → exec (.txpFetch c) s = .next s) ∧
       (∀ l, s.txCheck c.val run = some l → s.staged (s.txQuay c.val).val + l.length + 4 ≤ stagingSize → ∃ (u : State) (f : Frame),
         exec (.txpFetch c) s = .next u ∧ u.frame? s.eng.nextFid = some f ∧ f.src = .host ∧ f.port = 255 ∧ f.bytes = l ++ fcsOf l ∧
         f.lenKnown = true ∧ f.stage = .queued ∧ f.quay = s.txQuay c.val ∧
         (u.quay (s.txQuay c.val).val).waiting = (s.quay (s.txQuay c.val).val).waiting ++ [s.eng.nextFid])) ∧
     (∀ r rest, ch.hold = r :: rest → s.chanIs c.val 4 = true → s.evtRoom c.val = true →
       exec (.evtHoldRelease c) s = .next ((s.setChan c.val { ch with hold := rest }).evtWrite c.val r.kind r.bytes)) ∧
     (∀ r rest, ch.hold = r :: rest → r.atNs + ch.stallUs * 1000 ≤ s.ns →
       exec (.evtHoldExpiry c) s = .next ((s.setChan c.val { ch with hold := rest }).evtDrop c.val)) ∧
     (s.recReady c.val = true →
       let e := s.recEnt c.val
       let h := e.2.2.1
       (ch.reading = none → s.partLive h = false → exec (.recEntryServe c) s = .next (s.recDone c.val 0 stBAD_HANDLE)) ∧
       (ch.reading = none → s.partLive h = true → s.segOf (hIx h) e.2.2.2.1 = none →
         exec (.recEntryServe c) s = .next (s.recDone c.val 0 stNOT_FOUND)) ∧
       (∀ i g, ch.reading = none → s.partLive h = true → s.segOf (hIx h) e.2.2.2.1 = some (i, g) → g.written = true →
         s.get F.logDriveStatus_state g.drive = 2 → exec (.recEntryServe c) s = .next (s.setChan c.val { ch with reading := some i })) ∧
       (∀ i g, ch.reading = some i → Tab.get? s.log.segs i = some g →
         exec (.recReadComplete c false) s = .next (s.recDone c.val 0 stPARITY) ∧
         let n := Nat.min (e.2.1 / 4096) 256
         let r := s.segRead g e.2.2.2.2 n
         exec (.recReadComplete c true) s = .next ((r.1.chPut c.val e.1 r.2).recDone c.val (n * 4096) stOK))))

/-- MSIX_SEND, MSIX_UNMASK, DMA_READ_ERROR (R384, R386, R392, R393): a channel with IRQ_COUNT entries unsignalled, or whose first has
waited IRQ_US, sends its vector and counts anew, unless its function's bus master is off; a vector that is unmasked sends the message it
held back; a failed read stops its channel and is reported, but a poisoned read of frame data only discards that frame.
FUNCTION_LEVEL_RESET, VF_ENABLE_CLEAR, BUS_MASTER_DISABLE (R329, R349, R382): a reset of a VF closes its channels, one of the PF every
channel but channel 0, whose ring starts anew; clearing VF Enable closes every VF channel; a closed channel is FREE, a CMD channel with a
CTL in hand first CLOSING; a function whose bus master is off sends nothing. BAR4_ACCESS (R5, R380, R425): out of RESET and BOOT, 8 bytes
inside the HOST region are stored to the HBM or read from it; outside the region a read gives zero, a write nothing, and it is counted;
with a stack lost a read gives a free value and a write nothing. -/
def Obligations.HostMessagesAndWindow : Prop :=
  (∀ (c : Chan) (s : State),
     let ch := s.chan c.val
     (ch.irqCount ≠ 0 → ch.unsignalled ≠ 0 → (ch.irqCount ≤ ch.unsignalled ∨ ch.firstNs + ch.irqUs * 1000 ≤ s.ns) →
       s.host.bmOff.contains (s.chanFn c.val) = false → ∃ u : State, exec (.msixSend c) s = .next u ∧ (u.chan c.val).unsignalled = 0 ∧
         u = (s.setChan c.val { ch with unsignalled := 0 }).sendVector ch.vector) ∧
     (ch.unsignalled < ch.irqCount → s.ns < ch.firstNs + ch.irqUs * 1000 → exec (.msixSend c) s = .next s) ∧
     (∀ v : Vec, ∃ u : State, exec (.msixUnmask v) s = .next u ∧ v.val ∈ u.host.unmasked ∧ v.val ∉ u.host.pendingVec ∧
       (v.val ∈ s.host.pendingVec → u.out = s.out ++ [OutEv.vector v.val]) ∧ (v.val ∉ s.host.pendingVec → u.out = s.out) ∧
       u = { s with host := u.host, out := u.out }) ∧
     (∀ (cause : BitVec 2) (addr : Word), s.chanState c.val = 1 → s.chanRuns c.val = true →
       let s1 := (s.setChan c.val { ch with stopped := true }).dmaReport c.val cause.toNat addr.toNat
       (¬(cause = 2 ∧ s.chanIs c.val 3 = true) → (s1.chan c.val).flag = false → exec (.dmaReadError c cause addr) s = .next s1) ∧
       (¬(cause = 2 ∧ s.chanIs c.val 3 = true) → (s1.chan c.val).flag = true → exec (.dmaReadError c cause addr) s =
         .next ((s1.chan c.val).rx.foldl (fun r w => r.rxDrop c.val w) (s1.setChan c.val { s1.chan c.val with rx := [] }))) ∧
       (∀ run, cause = 2 → s.chanIs c.val 3 = true → s.inTxData c.val addr.toNat = some run → exec (.dmaReadError c cause addr) s =
         .next ((s.useFree.dmaReport c.val cause.toNat addr.toNat).txBack c.val (s.freeVal.toNat % 256) run)))) ∧
  (∀ s : State,
     (∀ fn : Fn, fn.val ≠ 0 → exec (.functionLevelReset fn) s =
       .next ((s.fnChans (fun n => n == fn.val)).foldl (fun r c => r.closeChan c true) s)) ∧
     (∃ u : State, exec (.functionLevelReset 0) s = .next u ∧ u.get F.cmdChState_tail 0 = 0 ∧ u.get F.cmdChState_head 0 = 0 ∧
       (u.chan 0).batches = [] ∧ (u.chan 0).devHead = 0 ∧ (u.chan 0).cqTail = 0) ∧
     (∃ u : State, exec .vfEnableClear s = .next u ∧ u.host.vfEnable = false ∧ u = { s.closeVfs with host := u.host }) ∧
     (∀ fn : Fn, ∃ u : State, exec (.busMasterDisable fn) s = .next u ∧ fn.val ∈ u.host.bmOff ∧ u = { s with host := u.host }) ∧
     (∀ c mute, s.chanState c = 1 → (s.get F.cmdChState_type c ≠ 1 → (s.closeChan c mute).chanState c = 0) ∧
       (s.get F.cmdChState_type c = 1 → (s.closeChan c mute).chanState c = if s.inHand c then 2 else 0))) ∧
  (∀ (off : BitVec 32) (data : Word) (s : State), s.modeNo ≠ mRESET → s.modeNo ≠ mBOOT →
     let a := (s.hbmRegion 0).1 + off.toNat
     ((s.hbmRegion 0).2 < off.toNat + 8 → exec (.bar4Access true off data) s = .next (s.bump F.hostCntBar4Outside 0) ∧
       exec (.bar4Access false off data) s = .next ((s.emit (.rdata 0)).bump F.hostCntBar4Outside 0)) ∧
     (off.toNat + 8 ≤ (s.hbmRegion 0).2 → s.hbmFailed = true → exec (.bar4Access true off data) s = .next s ∧
       exec (.bar4Access false off data) s = .next ((s.emit (.rdata (s.freeVal.setWidth 320))).useFree)) ∧
     (off.toNat + 8 ≤ (s.hbmRegion 0).2 → s.hbmFailed = false →
       (∃ u : State, exec (.bar4Access true off data) s = .next u ∧ u.hbm.bytes a 8 = leBytes 8 data.toNat ∧
         u = { s with regs := u.regs, tug := u.tug, hbm := u.hbm, hbmBad := u.hbmBad }) ∧
       (s.hbmBad.contains (a / 8) = false → s.hbmBad.contains ((a + 7) / 8) = false → ∃ u : State,
         exec (.bar4Access false off data) s = .next u ∧ u.out = s.out ++ [OutEv.rdata (BitVec.ofNat 320 (u.hbm.le a 8))] ∧
         u = { s with regs := u.regs, tug := u.tug, hbm := u.hbm, out := u.out })))

/-! ### Command engines -/

/-- What a completion leaves (R331-R333, Table 11.3): the CTL is no longer in hand nor on an engine; on a host channel whose completions
are not discarded and whose reads and writes run, the 64 bytes of the entry stand at the tail of its completion ring and the tail moves
on, the phase turning over at its end. How every control instruction is judged (R332, R335, R338, R341): where commands are not executed,
its issuer is not free or no engine is, nothing happens; with no room for its completion it parks; in a mode that is not its own it
completes with BAD_MODE, marked P on a RESTRICTED issuer with DENIED, with too few operand words with BAD_PARAM and their number; else it
does its work and completes as that says. -/
def Obligations.ControlInstructions : Prop :=
  (∀ (s : State) (iss : Issuer) (c : Ctl) (st pr : Nat) (res : List Word),
     let u := s.finish iss c st pr res
     Tab.get? u.cmd.current (issKey iss) = none ∧ Tab.get? u.cmd.parked (issKey iss) = none ∧ (∀ e ∈ u.cmd.engines, e.2 ≠ iss) ∧
     (∀ d : Chan, iss = .chan d → (s.chan d.val).mute = false → s.chanRuns d.val = true → (s.chan d.val).loc = false → s.chanState d.val = 1 →
       let ch := s.chan d.val
       (u.hostRead (s.chanFn d.val) (ch.cq + ch.cqTail * 64) 64 =
         complBytes st c.tag c.op pr c.slot (0x10 + s.engineOf iss) res ch.phase) ∧
       (u.chan d.val).cqTail = (ch.cqTail + 1) % 2 ^ ch.log2cq ∧
       (u.chan d.val).phase = (if (ch.cqTail + 1) % 2 ^ ch.log2cq = 0 then !ch.phase else ch.phase))) ∧
  (∀ r ∈ ctlRows, ∀ (iss : Issuer) (tag : BitVec 6) (ops : List Word) (s : State),
     let go := exec (r.1 iss tag ops) s
     let w := r.2.2 ops
     ((s.commandsRun = false ∨ s.mayIssue iss = false) → go = .next s) ∧
     ((∀ e, e < 8 → s.engineFree e = false) → go = .next s) ∧
     (∀ e, s.commandsRun = true → s.mayIssue iss = true → (List.range 8).find? (fun e => s.engineFree e) = some e →
       let c := s.directCtl iss r.2.1 tag.toNat w
       (s.taken e iss c).cqRoom iss = false → go = .next ((s.taken e iss c).park iss c)) ∧
     (∀ c s1 need m p f, CtlTaken r.2.1 iss tag w s c s1 → ctlOp r.2.1 = some (need, m, p, f) →
       (opModeOk m s1.modeNo = false → go = .next (s1.finish iss c stBAD_MODE 0 [])) ∧
       (opModeOk m s1.modeNo = true → p = true → s1.issRestricted iss c = true → go = .next (s1.finish iss c stDENIED 0 [])) ∧
       (opModeOk m s1.modeNo = true → ¬(p = true ∧ s1.issRestricted iss c = true) → w.length < need →
         go = .next (s1.finish iss c stBAD_PARAM w.length [])) ∧
       (CtlIssues r.2.1 iss tag w s c s1 →
         (∀ t st pr res, f iss c s1 = .done t st pr res → go = .next (t.finish iss c st pr res)) ∧
         (∀ t d, f iss c s1 = .wait t d → go = .next (t.park iss d)))))

/-- CMD_DISPATCH, SLICE_END, PARK_WAKE, PARK_TIMEOUT, CMD_ENGINE_UNFENCE (R335, R336, R341, R346, R347): a free engine takes the head of
the ready list and runs its CTL; a slice that ends on a resumable CTL sends its issuer to the list's tail and is counted; a CTL whose wait
is over gives its slot back, one whose time is over does so with TIMEOUT; an engine that the PF returns to service is no longer fenced. -/
def Obligations.EnginesTakeTurns : Prop :=
  ∀ (e : Engine) (s : State),
    (∀ iss rest c s1, s.commandsRun = true → s.engineFree e.val = true → s.cmd.ready = iss :: rest →
      Tab.has s.cmd.parked (issKey iss) = false → State.nextCtl { s with cmd := { s.cmd with ready := rest } } iss = (s1, some c) →
      (c.settled ≠ some 0x0C → exec (.cmdDispatch e none) s = .next (s1.turn e.val iss c)) ∧
      (∀ upc, exec (.cmdDispatch e (some upc)) s =
        .next ((s1.engineCheck e.val iss c upc.toNat).turn e.val iss { c with settled := some stMC_UCODE }))) ∧
    ((s.cmd.ready = [] ∨ s.engineFree e.val = false) → exec (.cmdDispatch e none) s = .next s) ∧
    (∀ iss c, Tab.get? s.cmd.engines e.val = some iss → Tab.get? s.cmd.current (issKey iss) = some c → opResumable c.op = true →
      c.settled = none → ∃ u : State, exec (.sliceEnd e) s = .next u ∧ Tab.get? u.cmd.engines e.val = none ∧
        u.get F.cmdCntSliceTrap 0 = (s.get F.cmdCntSliceTrap 0 + 1) % 2 ^ 64 ∧ Tab.get? u.cmd.current (issKey iss) = some c ∧
        u = { s with regs := u.regs, cmd := u.cmd }) ∧
    (∀ iss c, s.handOf iss = some c →
      (s.parkOver iss c = true → exec (.parkWake iss) s = .next (s.unpark iss c)) ∧
      (s.parkOver iss c = false → exec (.parkWake iss) s = .next s) ∧
      (∀ t, c.untilNs = some t → c.settled = none → t ≤ s.ns →
        exec (.parkTimeout iss) s = .next (s.unpark iss { c with settled := some stTIMEOUT })) ∧
      (∀ t, c.untilNs = some t → s.ns < t → exec (.parkTimeout iss) s = .next s)) ∧
    (∀ iss c, Tab.get? s.cmd.parked (issKey iss) = some c → Tab.get? (s.unpark iss c).cmd.parked (issKey iss) = none ∧
      Tab.get? (s.unpark iss c).cmd.current (issKey iss) = some c) ∧
    (mMOORED ≤ s.modeNo → s.modeNo ≠ mHALT → ∃ u : State, exec (.cmdEngineUnfence e) s = .next u ∧
      u.bit F.cmdEngineStatus_fenced e.val = false ∧ Tab.get? u.cmd.lastMc e.val = none)

/-- CHAN.OPEN, CHAN.CLOSE, CHAN.INFO, CMD.ABORT, CMD.WAIT, BARRIER (R327-R329, R341, R345): a channel is opened on the lowest FREE number
with a new generation; one is closed; one's state and progress are answered; another issuer's CTL is stopped; a register that already
shows the value asked for, or the absence of older flights, completes a wait at once. -/
def Obligations.ChannelsAndWaits : Prop :=
  ∀ (iss : Issuer) (tag : BitVec 6) (w : List Word) (s : State) (c : Ctl) (s1 : State),
    (CtlIssues 0x001 iss tag w s c s1 → ∀ i,
      let ty := wf w 0 0 3
      let rs := wb w 0 3
      let k := wf w 0 5 5
      let j := wf w 0 10 5
      let fn := wf w 0 26 6
      let loc := wb w 0 32
      (s1.issRestricted iss c = true → rs = true ∧ fn = s1.issFn iss) → wd w 0 < 2 ^ 33 → 1 ≤ ty → ty ≤ 5 → 6 ≤ k → k ≤ 16 →
      (ty = 1 → 4 ≤ j ∧ j ≤ 14) → (fn ≠ 0 → rs = true) → vecOk fn (wf w 0 15 11) = true → ringOk loc (wd w 1) (2 ^ k * entBytes ty) = true →
      (ty = 1 → ringOk loc (wd w 2) (2 ^ j * 64) = true) → w3Reserved ty (wd w 3) = false →
      (List.range 1024).find? (fun i => i != 0 && s1.chanState i == 0) = some i →
      let gen := (s1.get F.cmdChState_gen i + 1) % 256
      ∃ u : State, exec (.chanOpen iss tag w) s = .next (u.finish iss c stOK 0 [BitVec.ofNat 64 (handle 1 gen i)]) ∧
        u.chanState i = 1 ∧ u.get F.cmdChState_type i = ty ∧ u.get F.cmdChState_gen i = gen ∧ u.chanFn i = fn ∧
        u.bit F.cmdChState_restricted i = rs ∧ u.get F.cmdChState_head i = 0 ∧ u.get F.cmdChState_tail i = 0 ∧ (u.chan i).ring = wd w 1 ∧
        (u.chan i).cq = wd w 2 ∧ (u.chan i).log2ring = k ∧ (u.chan i).loc = loc) ∧
    (CtlIssues 0x002 iss tag w s c s1 → ∀ i, s1.chanOf (wd w 0) = some i → i ≠ 0 →
      (s1.issRestricted iss c = true → s1.chanFn i = s1.issFn iss) →
      let u := s1.closeChan i false
      ((u.chanState i ≠ 2 ∨ issKey iss = i) → exec (.chanClose iss tag w) s = .next (u.finish iss c stOK 0 [])) ∧
      (u.chanState i = 2 → issKey iss ≠ i → exec (.chanClose iss tag w) s = .next (u.park iss { c with note := i, changed := true, started := true }))) ∧
    (CtlIssues 0x003 iss tag w s c s1 → ∀ i, s1.chanOf (wd w 0) = some i → (s1.issRestricted iss c = true → s1.chanFn i = s1.issFn iss) →
      exec (.chanInfo iss tag w) s = .next (s1.finish iss c stOK 0
        [BitVec.ofNat 64 (s1.reg .cmdChState i).toNat, BitVec.ofNat 64 (s1.reg .cmdChProgress i).toNat])) ∧
    (CtlIssues 0x004 iss tag w s c s1 → ∀ i x, wb w 1 5 = false → s1.chanOf (wd w 0) = some i → keyIss i ≠ iss → s1.handOf (keyIss i) = some x →
      let u := s1.stopCtl (keyIss i)
      (u.handOf (keyIss i) = none → exec (.cmdAbort iss tag w) s = .next (u.finish iss c stOK 0 [BitVec.ofNat 64 x.op])) ∧
      (u.handOf (keyIss i) ≠ none → exec (.cmdAbort iss tag w) s =
        .next (u.park iss { c with note := issKey (keyIss i) * 1024 + x.op % 1024, changed := true, started := true }))) ∧
    (CtlIssues 0x005 iss tag w s c s1 →
      let v := (s1.regRead (wf w 0 0 26) (if wb w 0 26 then 8 else 4) (s1.issMaster iss)).2.toNat
      (v &&& wd w 1 = wd w 2 → exec (.cmdWait iss tag w) s = .next (s1.finish iss c stOK 0 [BitVec.ofNat 64 v])) ∧
      (v &&& wd w 1 ≠ wd w 2 → exec (.cmdWait iss tag w) s =
        .next (s1.park iss { c with untilNs := some (s1.ns + wd w 3 * 1000), started := true }))) ∧
    (CtlIssues 0x006 iss tag w s c s1 →
      ((∀ e ∈ s1.eng.flights, s1.eng.nextFlight ≤ e.1) → exec (.barrier iss tag w) s = .next (s1.finish iss c stOK 0 [])) ∧
      ((∃ e ∈ s1.eng.flights, e.1 < s1.eng.nextFlight) → exec (.barrier iss tag w) s =
        .next (s1.park iss { c with started := true, note := s1.eng.nextFlight, untilNs := s1.barrierDue (wd w 0) })))

/-- GET, SET, SET MASKED, SETM, SYS.MODE, HARBOUR, UCODE.PATCH, UCODE.INFO (R340, R342, R418, R427, R428, R439): a register is read as its
width asks; a write that the register accepts takes effect, under MASKED only in the bits of the mask, and SETM does all of its pairs or
none; the mode goes where Table 15.2 lets it, at once or when the quays have quiesced; HARBOUR sets the cause COMMAND with its reason; a
good image patches the micro-store once no other engine works. -/
def Obligations.RegistersAndModes : Prop :=
  ∀ (iss : Issuer) (tag : BitVec 6) (w : List Word) (s : State) (c : Ctl) (s1 : State),
    (CtlIssues 0x008 iss tag w s c s1 → ∀ n, widthBytes (wf w 0 26 2) = some n →
      ¬(s1.issRestricted iss c = true ∧ deniedBlock (blockOf (wf w 0 0 26)) = true) →
      let r := s1.regRead (wf w 0 0 26) n (s1.issMaster iss)
      exec (.getReg iss tag w) s = .next (r.1.finish iss c stOK 0 (if n = 16 then
        [BitVec.ofNat 64 (r.2.toNat % 2 ^ 64), BitVec.ofNat 64 (r.2.toNat / 2 ^ 64)] else [BitVec.ofNat 64 r.2.toNat]))) ∧
    (CtlIssues 0x009 iss tag w s c s1 → ∀ n t, wb w 0 28 = false → widthBytes (wf w 0 26 2) = some n → n ≠ 16 →
      s1.regPut (.set iss) (s1.issFn iss) (wf w 0 0 26) n (BitVec.ofNat 320 (2 ^ (8 * n) - 1)) (BitVec.ofNat 320 (wd w 1)) = .ok t →
      t.modeNo ≠ mBOOT → t.hbor.check = none → exec (.setReg iss tag w) s = .next (t.finish iss c stOK 0 [])) ∧
    (CtlIssues 0x009 iss tag (w0With 28 1 1 w) s c s1 → 3 ≤ w.length → ∀ n t, widthBytes (wf w 0 26 2) = some n → n ≠ 16 →
      s1.regPut (.set iss) (s1.issFn iss) (wf w 0 0 26) n (BitVec.ofNat 320 (wd w 2)) (BitVec.ofNat 320 (wd w 1)) = .ok t →
      t.modeNo ≠ mBOOT → t.hbor.check = none → exec (.setMasked iss tag w) s = .next (t.finish iss c stOK 0 [])) ∧
    (CtlIssues 0x00A iss tag w s c s1 → 1 ≤ wf w 0 0 3 → 1 + 2 * wf w 0 0 3 ≤ w.length →
      (∀ t, s1.setPairs iss w (blockOf (wf w 1 0 26)) (wf w 0 0 3) 1 = .ok t → t.modeNo ≠ mBOOT → t.hbor.check = none →
        exec (.setm iss tag w) s = .next (t.finish iss c stOK 0 [])) ∧
      (∀ st i, s1.setPairs iss w (blockOf (wf w 1 0 26)) (wf w 0 0 3) 1 = .error (st, i) →
        exec (.setm iss tag w) s = .next (s1.finish iss c st (if st = stBAD_PARAM then i else 0) []))) ∧
    (CtlIssues 0x00C iss tag (w0With 0 3 3 w) s c s1 → s1.mode.trans = none →
      (s1.modeNo = mMOORED → s1.hbmFailed = false → s1.get F.sysHborCause_cause 0 = 0 → exec (.sysModeService iss tag w) s =
        .next ((s1.emptyCounts.setMode mSERVICE).finish iss c stOK 0 [BitVec.ofNat 64 mSERVICE])) ∧
      (s1.modeNo = mSLACK → ∃ t : State, t = (s1.setMode mSERVICE).setPaused 0 ∧
        exec (.sysModeService iss tag w) s = .next (t.finish iss c stOK 0 [BitVec.ofNat 64 t.modeNo]))) ∧
    (CtlIssues 0x00C iss tag (w0With 0 3 6 w) s c s1 → s1.mode.trans = none → s1.modeNo = mMOORED → s1.get F.sysHborCause_cause 0 = 0 →
      exec (.sysModeDrydock iss tag w) s = .next (s1.drydockIn.finish iss c stOK 0 [BitVec.ofNat 64 mDRYDOCK])) ∧
    (CtlIssues 0x00C iss tag (w0With 0 3 2 w) s c s1 → s1.mode.trans = none →
      (s1.modeNo = mDRYDOCK → s1.bit F.sysDrydockStatus_busy 0 = false → exec (.sysModeMoored iss tag w) s =
        .next ((s1.setMode mMOORED).finish iss c stOK 0 [BitVec.ofNat 64 mMOORED])) ∧
      (s1.modeNo = mSERVICE ∨ s1.modeNo = mSLACK → exec (.sysModeMoored iss tag w) s = .next (((s1.setPaused 0xFFFF).pend mMOORED
        (0xFFFF &&& (Nat.xor 0xFFFF (s1.get F.sysMode_paused 0))) iss).park iss { c with started := true }))) ∧
    (CtlIssues 0x00C iss tag (w0With 0 3 4 w) s c s1 → s1.mode.trans = none → s1.modeNo = mSERVICE ∨ s1.modeNo = mSLACK →
      let named := if wf w 0 16 16 = 0 then 0xFFFF else wf w 0 16 16
      exec (.sysModeSlack iss tag w) s = .next (((s1.setPaused named).pend mSLACK named iss).park iss { c with started := true })) ∧
    (CtlIssues 0x00C iss tag (w0With 0 3 7 w) s c s1 → s1.mode.trans = none → ∃ u : State, exec (.sysModeHalt iss tag w) s = .next u ∧
      u = { s1 with mode := { s1.mode with haltOwed := true }, cmd := u.cmd }) ∧
    (CtlIssues 0x00D iss tag w s c s1 →
      exec (.harbour iss tag w) s = .next (((s1.set F.sysHborCause_reason 0 (wf w 0 0 8)).setCause 5).finish iss c stOK 0 [])) ∧
    (CtlIssues 0x180 iss tag w s c s1 → s1.ctlMemOk iss (wd w 0) (wd w 1) = true →
      let r := s1.ctlRead iss (wd w 0) (wd w 1)
      let ver := leNat (imgField r.2 4 4)
      let arb := leNat (imgField r.2 8 4)
      let good := r.1.imageGood 0x5450584B (s1.get F.secStatus_arbPatch 0) r.2
      (good = false → exec (.ucodePatch iss tag w) s = .next (r.1.finish iss c stDENIED 0 [])) ∧
      (good = true → r.1.patchReady iss = true → exec (.ucodePatch iss tag w) s = .next
        ((r.1.patchLoad (ver % 2 ^ 16) arb (BitVec.ofNat 256 (leNat (imgField r.2 0x10 32)))).finish iss c stOK 0 [BitVec.ofNat 64 ver]))) ∧
    (CtlIssues 0x181 iss tag w s c s1 →
      exec (.ucodeInfo iss tag w) s = .next (s1.finish iss c stOK 0 [BitVec.ofNat 64 (s1.view .cmdUcInfo 0).toNat]))

/-- SYS.MODE 3 from MOORED, and SYS.MODE 4 and 2 from SAFE HARBOUR (R427, R443): the first completes with BAD_MODE while an HBM_FAIL bit
or a cause is set; otherwise the fragment table is emptied, both generations' in-flight counts are zero, and the device is in SERVICE. The
others complete with BAD_MODE while a cause is set; otherwise the exit is under way, and with every quay paused, whatever the mask. -/
def Obligations.RequestsOfMode : Prop :=
  ∀ (iss : Issuer) (tag : BitVec 6) (w : List Word) (s : State) (c : Ctl) (s1 : State), s1.mode.trans = none →
    let cause := s1.get F.sysHborCause_cause 0
    (CtlIssues 0x00C iss tag (w0With 0 3 3 w) s c s1 → s1.modeNo = mMOORED →
      (s1.get F.sysStatus_hbmFail 0 ≠ 0 ∨ cause ≠ 0 → exec (.sysModeService iss tag w) s = .next (s1.finish iss c stBAD_MODE 0 [])) ∧
      (s1.get F.sysStatus_hbmFail 0 = 0 → cause = 0 → ∃ v : State, v.tab.frag = [] ∧ v.inflight false = 0 ∧ v.inflight true = 0 ∧
        let u := ((v.retireCheck false).retireCheck true).setMode mSERVICE
        u.modeNo = mSERVICE ∧ exec (.sysModeService iss tag w) s = .next (u.finish iss c stOK 0 [BitVec.ofNat 64 mSERVICE]))) ∧
    (∀ r ∈ [(Instr.sysModeSlack, mSLACK), (.sysModeMoored, mMOORED)], CtlIssues 0x00C iss tag (w0With 0 3 r.2 w) s c s1 → s1.modeNo = mHARBOUR →
      (cause ≠ 0 → exec (r.1 iss tag w) s = .next (s1.finish iss c stBAD_MODE 0 [])) ∧
      (cause = 0 → ∃ u : State, exec (r.1 iss tag w) s = .next (u.park iss { c with started := true }) ∧
        u.get F.sysMode_paused 0 = 0xFFFF ∧ u.hbor.exitTo = r.2 ∧ u.hbor.draining.isSome = true))

/-- EM.INSERT, EM.DELETE, EM.UPDATE, EM.SEARCH, EM.NEXT, EM.FLUSH_PORT (R109, R111, R114, R339, R344): in a partition in use, with the
words its key takes, an entry is put where there is a place and its index answered, or found there already; the entry of a key is removed,
its data changed, or the entry answered, or NOT_FOUND; the first entry from a cursor is answered; a flush walks on from its position, and
completes past the partition's last one. LPM.INSERT, LPM.DELETE, LPM.SEARCH, LPM.NEXT, TCAM.WRITE, TCAM.READ, TCAM.CLEAR (R119-R126, R339,
R344): a prefix that is absent takes the lowest number where there is room, and its rebuild takes spare units; one is removed; the exact
or the longest match, and the first from a cursor, are answered; a rule is stored whole, read back with its state, and a range of rules is
cleared. -/
def Obligations.TableCommands : Prop :=
  (∀ (iss : Issuer) (tag : BitVec 6) (w : List Word) (s : State) (c : Ctl) (s1 : State),
     let p := wf w 0 0 4
     let key := s1.emOpKey c p
     let ready : Prop := s1.bit F.tblEmPart_en p = true ∧ 1 + keyWords (s1.emKeyLen p) ≤ w.length
     let data : BitVec 40 := BitVec.ofNat 40 (wf w 0 24 40)
     (CtlIssues 0x040 iss tag w s c s1 → ready →
       (∀ ix e, s1.emSeen p key = some (ix, e) → exec (.emInsert iss tag w) s = .next (s1.finish iss c stEXISTS 0 [BitVec.ofNat 64 ix])) ∧
       (∀ t ix, s1.emFind p key = none → s1.emPut p key data (wb w 0 4) = (t, some ix) →
         exec (.emInsert iss tag w) s = .next (t.finish iss c stOK 0 [BitVec.ofNat 64 ix])) ∧
       (∀ t, s1.emFind p key = none → s1.emPut p key data (wb w 0 4) = (t, none) →
         exec (.emInsert iss tag w) s = .next (t.finish iss c stTABLE_FULL 0 []))) ∧
     (CtlIssues 0x041 iss tag w s c s1 → ready →
       (∀ ix e, s1.emSeen p key = some (ix, e) → exec (.emDelete iss tag w) s = .next ((s1.emRemove p ix).finish iss c stOK 0 [])) ∧
       (s1.emSeen p key = none → exec (.emDelete iss tag w) s = .next (s1.finish iss c stNOT_FOUND 0 []))) ∧
     (CtlIssues 0x042 iss tag w s c s1 → ready →
       (∀ ix e, s1.emSeen p key = some (ix, e) → exec (.emUpdate iss tag w) s =
         .next ((s1.setEm ix { e with data := data }).finish iss c stOK 0 [BitVec.ofNat 64 ix])) ∧
       (s1.emSeen p key = none → exec (.emUpdate iss tag w) s = .next (s1.finish iss c stNOT_FOUND 0 []))) ∧
     (CtlIssues 0x043 iss tag w s c s1 → ready →
       (∀ ix e, s1.emSeen p key = some (ix, e) → exec (.emSearch iss tag w) s =
         .next (s1.finish iss c stOK 0 [lkHit ix e.data,
           BitVec.ofNat 64 (e.age % 8 + e.hit.toNat * 8 + e.static.toNat * 16 + (decide (emStash ≤ ix)).toNat * 32)])) ∧
       (s1.emSeen p key = none → exec (.emSearch iss tag w) s = .next (s1.finish iss c stNOT_FOUND 0 []))) ∧
     (CtlIssues 0x044 iss tag w s c s1 → s1.bit F.tblEmPart_en p = true →
       let hit := s1.tab.em.find? (fun e => e.2.part == p && decide (wf w 0 32 32 ≤ e.1) && !(s1.deadEntry tkEM e.1))
       (∀ ix e, hit = some (ix, e) → ∃ res, exec (.emNext iss tag w) s = .next (s1.finish iss c stOK 0 res) ∧ res.length = 5 ∧
         res[0]? = some (lkHit ix e.data) ∧ res[2]? = some (BitVec.ofNat 64 (leNat e.key))) ∧
       (hit = none → exec (.emNext iss tag w) s = .next (s1.finish iss c stNOT_FOUND 0 []))) ∧
     (CtlIssues 0x045 iss tag w s c s1 → s1.bit F.tblEmPart_en p = true →
       let x := wf w 0 32 32
       let total := 4 * 2 ^ s1.emL p + 512
       let n := Nat.min (total - x) (s1.sliceUnits (total - x))
       let r := s1.useFree.flushFrom p (wf w 0 4 8) n x 0
       (total ≤ x + n → exec (.emFlushPort iss tag w) s =
         .next ((r.1.publish iss c.op (Nat.max x total)).finish iss c stOK (Nat.max x total) [BitVec.ofNat 64 r.2])) ∧
       (x + n < total → 0 < n ∧ ∃ u : State, exec (.emFlushPort iss tag w) s = .next u ∧
         Tab.get? u.cmd.current (issKey iss) = some { c with started := true, progress := x + n, note := r.2, changed := decide (0 < r.2) }))) ∧
  (∀ (iss : Issuer) (tag : BitVec 6) (w : List Word) (s : State) (c : Ctl) (s1 : State),
     let v6 := wb w 0 12
     let len := wf w 0 13 8
     let rt := wf w 0 0 12
     let ready : Prop := (if v6 then 3 else 2) ≤ w.length ∧ len ≤ (if v6 then 128 else 32)
     (CtlIssues 0x048 iss tag w s c s1 → ready →
       (∀ n e, s1.lpmSeen w = some (n, e) → exec (.lpmInsert iss tag w) s = .next (s1.finish iss c stEXISTS 0 [BitVec.ofNat 64 n])) ∧
       (s1.lpmFind rt v6 len (lpmAddr w) = none →
         let n := firstFree s1.tab.lpm 0
         let full : Prop := 3145728 < s1.lpmUnits + (if v6 then 8 else 3) ∨ 2 ^ 20 ≤ n ∨ s1.lpmSpareFree < s1.rebuildUnits
         (full → exec (.lpmInsert iss tag w) s = .next ((s1.useFree.bump F.tblCntLpmFull 0).finish iss c stTABLE_FULL 0 [])) ∧
         (¬full → exec (.lpmInsert iss tag w) s =
           .next (((s1.useFree.putLpm n ⟨rt, v6, len, maskAddr v6 len (lpmAddr w), BitVec.ofNat 40 (wf w 0 24 40)⟩).rebuilt s1.rebuildUnits).finish
             iss c stOK 0 [BitVec.ofNat 64 n])))) ∧
     (CtlIssues 0x049 iss tag w s c s1 → ready →
       (∀ n e, s1.lpmSeen w = some (n, e) → exec (.lpmDelete iss tag w) s =
         .next (((s1.useFree.delLpm n).rebuilt (Nat.min s1.rebuildUnits s1.lpmSpareFree)).finish iss c stOK 0 [])) ∧
       (s1.lpmSeen w = none → exec (.lpmDelete iss tag w) s = .next (s1.finish iss c stNOT_FOUND 0 []))) ∧
     (CtlIssues 0x04A iss tag w s c s1 → (if v6 then 3 else 2) ≤ w.length →
       (wb w 0 21 = true ∨ len ≤ (if v6 then 128 else 32)) →
       let hit := if wb w 0 21 then s1.lpmBest rt v6 (lpmAddr w) else s1.lpmSeen w
       (∀ n e, hit = some (n, e) → exec (.lpmSearch iss tag w) s =
         .next (s1.finish iss c stOK 0 [lkHit n e.data, BitVec.ofNat 64 e.len])) ∧
       (hit = none → exec (.lpmSearch iss tag w) s = .next (s1.finish iss c stNOT_FOUND 0 []))) ∧
     (CtlIssues 0x04B iss tag w s c s1 →
       let hit := s1.tab.lpm.find? (fun e => e.2.rt == rt && e.2.v6 == v6 && decide (wf w 0 32 32 ≤ e.1) && !(s1.deadEntry tkLPM e.1))
       (∀ n e, hit = some (n, e) → ∃ res, exec (.lpmNext iss tag w) s = .next (s1.finish iss c stOK 0 res) ∧ res.length = 4 ∧
         res[0]? = some (lkHit n e.data) ∧ res[1]? = some (BitVec.ofNat 64 e.len)) ∧
       (hit = none → exec (.lpmNext iss tag w) s = .next (s1.finish iss c stNOT_FOUND 0 []))) ∧
     (CtlIssues 0x050 iss tag w s c s1 → ∃ u : State, exec (.tcamWrite iss tag w) s = .next (u.finish iss c stOK 0 []) ∧
       Tab.get? u.tab.tcam (wf w 0 0 16) = some ⟨wide320 w 1, wide320 w 6, BitVec.ofNat 40 (wf w 0 16 40), true, false⟩ ∧
       u = { s1 with tab := u.tab } ∧ ∀ g, u.isBad tkTCAM g (wf w 0 0 16) = false) ∧
     (CtlIssues 0x051 iss tag w s c s1 → s1.ctlMemOk iss (wd w 1) 80 = true →
       let ix := wf w 0 0 16
       let e := Tab.getD s1.tab.tcam ix ⟨0, 0, 0, false, false⟩
       exec (.tcamRead iss tag w) s = .next ((s1.ctlWrite iss (wd w 1) (leBytes 40 e.value.toNat ++ leBytes 40 e.mask.toNat)).finish iss c stOK 0
         [BitVec.ofNat 64 (e.data.toNat + e.valid.toNat * 2 ^ 40 + e.hit.toNat * 2 ^ 41 +
           ((List.range 4).any (fun g => s1.isBad tkTCAM g ix)).toNat * 2 ^ 42)])) ∧
     (CtlIssues 0x052 iss tag w s c s1 → 0 < wf w 0 16 17 → wf w 0 0 16 + wf w 0 16 17 ≤ 65536 →
       let x := wf w 0 0 16
       let left := wf w 0 16 17
       let n := Nat.min left (s1.sliceUnits left)
       let u := (s1.useFree.tcamClearFrom n x).publish iss c.op (x + n)
       (∀ ix, x ≤ ix → ix < x + n → Tab.get? u.tab.tcam ix = none) ∧
       (left ≤ n → exec (.tcamClear iss tag w) s = .next (u.finish iss c stOK (x + n) [])) ∧
       (n < left → 0 < n ∧ ∃ t : State, exec (.tcamClear iss tag w) s = .next t ∧
         Tab.get? t.cmd.current (issKey iss) = some { c with started := true, progress := x + n, changed := true })))

/-- OBJ.WRITE, OBJ.READ, PROG.LOAD, GEN.SWAP (R63, R136-R139, R246, R339): an object takes words that its table allows and reads back as
written; a program whose words all pass the checks is stored in the units named, and none is where a word fails; the SHADOW generation
becomes ACTIVE and the former RETIRING, SHADOW at once where nothing of it is in flight. -/
def Obligations.ObjectsAndGenerations : Prop :=
  ∀ (iss : Issuer) (tag : BitVec 6) (w : List Word) (s : State) (c : Ctl) (s1 : State),
    (CtlIssues 0x058 iss tag w s c s1 →
      let code := wf w 0 0 5
      let ix := wf w 0 8 24
      objIxOk code ix = true → code ≠ oTEMPLATE → 1 + objWords code ≤ w.length →
      let v := (w.drop 1).take (objWords code)
      (objOk code (objNat v) = false → exec (.objWrite iss tag w) s = .next (s1.finish iss c stBAD_PARAM 1 [])) ∧
      (objOk code (objNat v) = true → code ≠ oMETER → ∃ u : State, exec (.objWrite iss tag w) s = .next (u.finish iss c stOK 0 []) ∧
        u.obj code ix = v ∧ u = { s1 with tab := u.tab }) ∧
      (objOk code (objNat v) = true → code = oMETER → exec (.objWrite iss tag w) s =
        .next ((s1.putMeter ix (ov (objNat v) 0 12)).finish iss c stOK 0 []))) ∧
    (CtlIssues 0x059 iss tag w s c s1 → wf w 0 8 24 < objCount (wf w 0 0 5) → ¬(wf w 0 0 5 = oLIST ∧ wf w 0 8 24 = 0) →
      wf w 0 0 5 ≠ oTEMPLATE → exec (.objRead iss tag w) s = .next (s1.finish iss c stOK 0 (s1.obj (wf w 0 0 5) (wf w 0 8 24)))) ∧
    (CtlIssues 0x05C iss tag w s c s1 →
      let kind := wf w 0 0 2
      let gen := wb w 0 2
      let first := wf w 0 4 14
      let n := wf w 0 18 14
      let units := wf w 2 0 16
      s1.loadRefused gen (wf w 2 32 32) = none → kind ≠ 3 → first + n ≤ storeSize kind → s1.ctlMemOk iss (wd w 1) (4 * n) = true →
      let r := s1.ctlRead iss (wd w 1) (4 * n)
      let words := wordsOf r.2 n
      (∀ i, r.1.badWord kind gen (wb w 0 3) n 0 words = some i → exec (.progLoad iss tag w) s = .next (r.1.finish iss c stBAD_PARAM i [])) ∧
      (r.1.badWord kind gen (wb w 0 3) n 0 words = none →
        let load := r.1.eng.loads + 1
        exec (.progLoad iss tag w) s = .next (((List.range 16).foldl (fun (t : State) u =>
          if units = 0 ∨ units.testBit u = true then t.storeWords kind u gen load first words else t)
          { r.1 with eng := { r.1.eng with loads := load } }).finish iss c stOK 0 []))) ∧
    (CtlIssues 0x05D iss tag w s c s1 →
      let old := s1.activeGen
      (s1.genState (!old) ≠ gSHADOW → exec (.genSwap iss tag w) s = .next (s1.finish iss c stGEN_BUSY 0 [])) ∧
      (s1.genState (!old) = gSHADOW →
        let t := (((s1.setBit F.tblGenStatus_active 0 (!old)).setGenState (!old) gACTIVE).setGenState old gRETIRING)
        t.activeGen = !old ∧ t.genState (!old) = gACTIVE ∧ t.genState old = gRETIRING ∧
        let u := t.retireCheck old
        (¬(wb w 0 0 = true ∧ u.genState old = gRETIRING) → exec (.genSwap iss tag w) s =
          .next (u.finish iss c stOK 0 [BitVec.ofNat 64 (s1.genHandle (!old))])) ∧
        (wb w 0 0 = true → u.genState old = gRETIRING → ∃ d : Ctl, exec (.genSwap iss tag w) s = .next (u.park iss d) ∧
          d.started = true ∧ d.changed = true ∧ d.op = c.op)))

/-- FLOW.READ, FLOW.WRITE, FLOW.DELETE, FLOW.PIN, FLOW.UNPIN, FLOW.NEXT, LEDGER.REHASH (R151, R163, R174, R339): on a key whose lock is
free, a record is answered, rewritten in the bytes that a write may take, deleted, pinned or unpinned, an absent one is created with
CREATE only; the first record from a cursor is answered; a rehash turns every slice to a new, empty table while the old one is kept. On a
held lock the CTL parks. -/
def Obligations.FlowCommands : Prop :=
  ∀ (iss : Issuer) (tag : BitVec 6) (w : List Word) (s : State) (c : Ctl) (s1 : State),
    let len := wf w 0 0 5 + 1
    let key := wkey w 2 len
    let sl := s1.sliceOf (wf w 0 5 8) key
    let keyed : Prop := s1.bit F.ledgerCfg_en 0 = true ∧ len ≤ keyMax s1.compact ∧ 2 + keyWords len ≤ w.length
    let free : Prop := keyed ∧ s1.lockHeld sl (s1.hsOf key) = false
    let found := (s1.slice sl).findKey key
    (∀ r ∈ [(Instr.flowRead, 0x080), (.flowWrite, 0x081), (.flowDelete, 0x082)], CtlIssues r.2 iss tag w s c s1 → keyed →
      s1.lockHeld sl (s1.hsOf key) = true → exec (r.1 iss tag w) s = .next (s1.park iss { c with started := true })) ∧
    (∀ r ∈ [(Instr.flowRead, 0x080), (.flowDelete, 0x082)], CtlIssues r.2 iss tag w s c s1 → free → found = none →
      exec (r.1 iss tag w) s = .next (s1.finish iss c stNOT_FOUND 0 [])) ∧
    (∀ n e, found = some (n, e) →
      let form := s1.recForm n
      (CtlIssues 0x080 iss tag w s c s1 → free → s1.ctlMemOk iss (wd w 1) (recLen form) = true →
        exec (.flowRead iss tag w) s = .next (((s1.recHbm sl n e false).ctlWrite iss (wd w 1) (leBytes (recLen form) e.img.toNat)).finish
          iss c stOK 0 [BitVec.ofNat 64 (flowWord sl n e)])) ∧
      (CtlIssues 0x081 iss tag w s c s1 → free → s1.ctlMemOk iss (wd w 1) (recLen form) = true →
        let r := s1.ctlRead iss (wd w 1) (recLen form)
        let img := r.1.commitFields form
          (r.1.recCommitMeter (takeImage form e.img (BitVec.ofNat 1024 (leNat r.2))) (recWord e.img))
        ∃ u : State, exec (.flowWrite iss tag w) s = .next (u.finish iss c stOK 0 [BitVec.ofNat 64 (flowWord sl n e)]) ∧
          u.slice sl = ((((r.1.recHbm sl n e false).recHbm sl n e true).slice sl).updRec n (fun e => { e with img := img, dirty := e.cached }))) ∧
      (CtlIssues 0x082 iss tag w s c s1 → free → exec (.flowDelete iss tag w) s = .next ((s1.recDelete sl n 4).finish iss c stOK 0 [])) ∧
      (CtlIssues 0x083 iss tag (w0With 13 1 1 w) s c s1 → free → ∃ u : State,
        exec (.flowUnpin iss tag w) s = .next (u.finish iss c stOK 0 []) ∧
        u.slice sl = (s1.slice sl).updRec n (fun e => { e with img := putBits e.img 2 1 0 })) ∧
      (CtlIssues 0x083 iss tag (w0With 13 1 0 w) s c s1 → free →
        let full : Prop := (if s1.compact then 4 else 2) ≤ (s1.slice sl).pinnedIn (setOf e.hs)
        (recPinned e = true → exec (.flowPin iss tag w) s = .next (s1.finish iss c stOK 0 [])) ∧
        (recPinned e = false → full → exec (.flowPin iss tag w) s = .next (s1.finish iss c stNO_ROOM 0 [])) ∧
        (recPinned e = false → ¬full → e.cached = true → ∃ u : State, exec (.flowPin iss tag w) s = .next (u.finish iss c stOK 0 []) ∧
          u.slice sl = (s1.slice sl).updRec n (fun e => { e with img := putBits e.img 2 1 1, cached := true })))) ∧
    (CtlIssues 0x081 iss tag w s c s1 → free → found = none → s1.ctlMemOk iss (wd w 1) (recLen s1.compact) = true →
      (wb w 0 13 = false → exec (.flowWrite iss tag w) s = .next (s1.finish iss c stNOT_FOUND 0 [])) ∧
      (∀ t0 t n stash, wb w 0 13 = true → s1.makePlace sl (s1.hsOf key) = some t0 → t0.reserveRoom sl key = (t, some (n, stash)) →
        ∃ (u : State) (img : BitVec 1024), exec (.flowWrite iss tag w) s =
          .next ((u.createRec sl n stash key img).finish iss c stOK 0
            [BitVec.ofNat 64 (sl + n % 2 ^ 24 * 2 ^ 8 + (wb w 0 14).toNat * 2 ^ 32)]))) ∧
    (CtlIssues 0x084 iss tag w s c s1 → wb w 0 31 = false →
      let sl := wf w 0 0 4
      let hit := (s1.slice sl).recs.find? (fun e => decide (wf w 0 32 32 ≤ e.1) && recReach e.2)
      (hit = none → exec (.flowNext iss tag w) s = .next (s1.finish iss c stNOT_FOUND 0 [])) ∧
      (∀ n e, hit = some (n, e) → s1.lockHeld sl e.hs = false → s1.ctlMemOk iss (wd w 1) (recLen (s1.recForm n)) = true →
        exec (.flowNext iss tag w) s = .next (((s1.recHbm sl n e false).ctlWrite iss (wd w 1)
          (leBytes (recLen (s1.recForm n)) e.img.toNat)).finish iss c stOK 0 [BitVec.ofNat 64 (flowWord sl n e)]))) ∧
    (CtlIssues 0x085 iss tag w s c s1 → s1.bit F.ledgerCfg_en 0 = true →
      let log2 := wf w 0 0 5
      let form := wb w 0 5
      log2Ok form log2 = true → tableBytes form log2 ≤ s1.regionBytes (1 - s1.get F.ledgerStatus_region 0) →
      (s1.led.rehash.isSome = true → exec (.ledgerRehash iss tag w) s = .next (s1.finish iss c stBAD_PARAM 0 [])) ∧
      (s1.led.rehash = none → form = s1.compact → ∃ u : State, exec (.ledgerRehash iss tag w) s = .next (u.finish iss c stOK 0 []) ∧
        u.led.rehash = some s1.shape))

/-- TIME.MEAS, TIME.MASTER, TIME.ACCEPT (STEP, SLEW, KEEP), TIME.XG_OPEN, TIME.XG_CLOSE (R308-R314): a base that no PPS input feeds takes
a measurement; a running base goes into holdover; a held jump is taken as asked, a suspected path as it is; two to eight bases of no group
make one, under a new handle, which closes it. -/
def Obligations.TimeCommands : Prop :=
  ∀ (iss : Issuer) (tag : BitVec 6) (w : List Word) (s : State) (c : Ctl) (s1 : State),
    let b := wf w 0 0 4
    (CtlIssues 0x0C0 iss tag w s c s1 → b < 8 →
      (s1.get F.timeTbCfg_src b ≠ 0 → exec (.timeMeas iss tag w) s = .next (s1.finish iss c stBAD_PARAM 0 [])) ∧
      (s1.get F.timeTbCfg_src b = 0 →
        let t : Stamp := BitVec.ofNat 128 (wd w 1 + wd w 2 * 2 ^ 64)
        exec (.timeMeas iss tag w) s = .next ((s1.measure b (ktsEpoch t) (kts16 t) (w.getD 3 0).toInt (w.getD 4 0).toInt none).finish
          iss c stOK 0 []))) ∧
    (CtlIssues 0x0C1 iss tag w s c s1 → b < 8 →
      ((s1.base b).running = false → exec (.timeMaster iss tag w) s = .next (s1.finish iss c stOK 0 [])) ∧
      ((s1.base b).running = true → exec (.timeMaster iss tag w) s = .next ((s1.holdover b hMASTER false).finish iss c stOK 0 []))) ∧
    (∀ r ∈ [(Instr.timeAcceptStep, 0), (.timeAcceptSlew, 1), (.timeAcceptKeep, 2)],
      CtlIssues 0x0C2 iss tag (w0With 4 2 r.2 w) s c s1 → wf (w0With 4 2 r.2 w) 0 0 4 = b → wf (w0With 4 2 r.2 w) 0 4 2 = r.2 → b < 8 →
      (s1.servo b = sSUSPECT → exec (r.1 iss tag w) s = .next ((s1.acceptPath b).finish iss c stOK 0 [])) ∧
      (s1.servo b = sHOLDOVER → s1.heldJump b = true →
        (r.2 = 2 → exec (r.1 iss tag w) s = .next ((s1.lock b (s1.theta b)).finish iss c stOK 0 [])) ∧
        (r.2 ≠ 2 → exec (r.1 iss tag w) s =
          .next ((s1.setBase b { s1.base b with accept := some (decide (r.2 = 0)) }).finish iss c stOK 0 []))) ∧
      (s1.servo b ≠ sSUSPECT → s1.heldJump b = false → exec (r.1 iss tag w) s = .next (s1.finish iss c stBAD_PARAM 0 []))) ∧
    (CtlIssues 0x0C3 iss tag w s c s1 →
      let l := (List.range 8).filter (fun b => (wf w 0 0 8).testBit b)
      let free := (List.range 4).find? (fun g => !(s1.bit F.timeXgCfg_en g))
      (l.length < 2 → exec (.timeXgOpen iss tag w) s = .next (s1.finish iss c stBAD_PARAM 0 [])) ∧
      (2 ≤ l.length → (∀ b ∈ l, s1.groupOf b = none) →
        (free = none → exec (.timeXgOpen iss tag w) s = .next (s1.finish iss c stNO_ROOM 0 [])) ∧
        (∀ g, free = some g → ∃ u : State, exec (.timeXgOpen iss tag w) s =
            .next (u.finish iss c stOK 0 [BitVec.ofNat 64 (handle 6 (u.xg g).gen g)]) ∧
          u.get F.timeXgCfg_members g = wf w 0 0 8 ∧ u.bit F.timeXgCfg_en g = true ∧ (u.xg g).gen = ((s1.xg g).gen + 1) % 256))) ∧
    (CtlIssues 0x0C4 iss tag w s c s1 →
      let h := wd w 0
      let mine : Prop := h < 2 ^ 32 ∧ hType h = 6 ∧ hIx h < 4 ∧ s1.bit F.timeXgCfg_en (hIx h) = true ∧ hGen h = (s1.xg (hIx h)).gen
      (mine → ∃ u : State, exec (.timeXgClose iss tag w) s = .next (u.finish iss c stOK 0 []) ∧ u.bit F.timeXgCfg_en (hIx h) = false) ∧
      (¬mine → exec (.timeXgClose iss tag w) s = .next (s1.finish iss c stBAD_HANDLE 0 [])))

/-- TM.SHAPER, TM.GCL (R244, R249, R250): a profile is rewritten with its next version, which is answered; a gate list that meets Table
8.3 is the ADMIN list, its change asked for at its base time or at the first later whole cycle at least 1,000 ns away. LOG.SEAL,
LOG.PART_OPEN, LOG.PART_CLOSE (R404, R407, R409, R414): a partition's open segments are sealed; one is opened on a free number, resuming
from what the directory lists of its tag; one is closed, at once where it holds no segment, not at all under KEEP while it does.
BUF.ALLOC, BUF.FREE, BUF.GIVE (R215-R217, R228): a buffer of the half asked for goes to the issuer's master, with its ID and address; the
present owner of one may free it or give it away, and another's request is refused. -/
def Obligations.ShaperLogAndBufferCommands : Prop :=
  (∀ (iss : Issuer) (tag : BitVec 6) (w : List Word) (s : State) (c : Ctl) (s1 : State),
     (CtlIssues 0x0A0 iss tag w s c s1 →
       let p := wf w 0 0 11
       let t := (s1.setReg .tmShaperProfile p
         (BitVec.ofNat 320 (wd w 1 + wf w 2 0 56 * 2 ^ 64 + s1.get F.tmShaperProfile_version p * 2 ^ 120))).shaperChange p (wb w 0 11)
       exec (.tmShaper iss tag w) s = .next (t.finish iss c stOK 0 [BitVec.ofNat 64 (t.get F.tmShaperProfile_version p)])) ∧
     (CtlIssues 0x0A1 iss tag w s c s1 → c.started = false ∧ (
       let p := wf w 0 0 8
       let n := wf w 4 32 9
       p < 130 → wf w 2 0 32 < 1000000000 → 1000 ≤ wf w 3 0 32 → 1 ≤ n → n ≤ 256 → s1.ctlMemOk iss (wd w 5) (8 * n) = true →
       let r := s1.ctlRead iss (wd w 5) (8 * n)
       let es := words64 r.2 n
       (es.all gclEntryOk = false → exec (.tmGcl iss tag w) s = .next (r.1.finish iss c stBAD_PARAM 5 [])) ∧
       (es.all gclEntryOk = true →
         let l : GateList := ⟨wd w 1, wf w 2 0 32, wf w 3 0 32, wf w 3 32 16, wf w 4 0 32, es⟩
         let at_ := changeTime l (r.1.baseT16 (r.1.gateBase p))
         ∃ u : State, (u.gate p).admin = some l ∧ (u.gate p).change16 = some at_ ∧ u.bit F.tmPortStatus_gclPending p = true ∧
           (wb w 0 8 = false → exec (.tmGcl iss tag w) s = .next (u.finish iss c stOK 0
             [BitVec.ofNat 64 (at_ / 65536 / 1000000000), BitVec.ofNat 64 (at_ / 65536 % 1000000000)])) ∧
           (wb w 0 8 = true → exec (.tmGcl iss tag w) s =
             .next (u.park iss { c with started := true, note := at_, changed := true }))))) ∧
     (∀ (l : GateList) (now : Nat), 0 < glCycle l →
       now + 65536000 ≤ changeTime l now ∧ glBase l ≤ changeTime l now ∧ (changeTime l now - glBase l) % glCycle l = 0)) ∧
  (∀ (iss : Issuer) (tag : BitVec 6) (w : List Word) (s : State) (c : Ctl) (s1 : State),
     (CtlIssues 0x0E0 iss tag w s c s1 →
       (wd w 0 = 0 → ∃ n, exec (.logSeal iss tag w) s =
         .next (((List.range 16).foldl (fun s p => s.sealPart p sgCOMMANDED) s1).finish iss c stOK 0 [BitVec.ofNat 64 n])) ∧
       (∀ p, wd w 0 ≠ 0 → s1.partOf (wd w 0) = some p → ∃ n, exec (.logSeal iss tag w) s =
         .next ((s1.sealPart p sgCOMMANDED).finish iss c stOK 0 [BitVec.ofNat 64 n])) ∧
       (wd w 0 ≠ 0 → s1.partOf (wd w 0) = none → exec (.logSeal iss tag w) s = .next (s1.finish iss c stBAD_HANDLE 0 []))) ∧
     (CtlIssues 0x0E1 iss tag w s c s1 →
       (s1.get F.logStatus_state 0 = 1 → exec (.logPartOpen iss tag w) s = .next (s1.park iss { c with started := true })) ∧
       (s1.get F.logStatus_state 0 ≠ 1 →
         (∀ i, s1.partBad w = some i → exec (.logPartOpen iss tag w) s = .next (s1.finish iss c stBAD_PARAM i [])) ∧
         (s1.partBad w = none → ∀ p, (List.range 16).find? (fun p => s1.get F.logPartStatus_state p == 0) = some p →
           s1.segMibAll + segMib (wf w 0 4 4) + 1024 ≤ s1.get F.bufHbmPool_size 1 * 1024 →
           let gen := ((s1.part p).gen + 1) % 256
           (s1.dirOf (w.getD 3 0) = [] → ∃ u : State, exec (.logPartOpen iss tag w) s =
               .next (u.finish iss c stOK 0 [BitVec.ofNat 64 (handle 5 gen p)]) ∧
             u.get F.logPartStatus_state p = 1 ∧ (u.part p).gen = gen ∧ (u.part p).tag = w.getD 3 0) ∧
           (∃ u : State, exec (.logPartOpen iss tag w) s = .next (u.finish iss c stOK 0 [BitVec.ofNat 64 (handle 5 gen p)]))))) ∧
     (CtlIssues 0x0E2 iss tag w s c s1 →
       (s1.partOf (wd w 0) = none → exec (.logPartClose iss tag w) s = .next (s1.finish iss c stBAD_HANDLE 0 [])) ∧
       (∀ p, s1.partOf (wd w 0) = some p →
         let kept : Prop := (s1.part p).keep = true ∧ (s1.segsOf p).isEmpty = false
         (kept → exec (.logPartClose iss tag w) s = .next (s1.finish iss c stDENIED 0 [])) ∧
         (¬kept →
           let t := (s1.sealPart p sgCOMMANDED).set F.logPartStatus_state p 2
           ((t.segsOf p).isEmpty = false → exec (.logPartClose iss tag w) s = .next (t.finish iss c stOK 0 [])) ∧
           ((t.segsOf p).isEmpty = true → exec (.logPartClose iss tag w) s =
             .next ((t.set F.logPartStatus_state p 0).finish iss c stOK 0 [])))))) ∧
  (∀ (iss : Issuer) (tag : BitVec 6) (w : List Word) (s : State) (c : Ctl) (s1 : State),
     (CtlIssues 0x140 iss tag w s c s1 → ∀ t x, s1.hbAlloc (wf w 0 0 1) (s1.issMaster iss) false = (t, x) →
       (x = none → exec (.bufAlloc iss tag w) s = .next (t.finish iss c stPOOL_EMPTY 0 [])) ∧
       (∀ n, x = some n → exec (.bufAlloc iss tag w) s =
         .next (t.finish iss c stOK 0 [BitVec.ofNat 64 (hbId (wf w 0 0 1) n), BitVec.ofNat 64 (t.hbAddr (wf w 0 0 1) n)]))) ∧
     (CtlIssues 0x141 iss tag w s c s1 →
       (s1.hbOf (wd w 0) = none → exec (.bufFree iss tag w) s = .next (s1.finish iss c stBAD_PARAM 0 [])) ∧
       (∀ h x, s1.hbOf (wd w 0) = some (h, x) → exec (.bufFree iss tag w) s =
         .next ((s1.hbFree h x (s1.issMaster iss)).2.finish iss c (s1.hbFree h x (s1.issMaster iss)).1 0 []))) ∧
     (CtlIssues 0x142 iss tag w s c s1 →
       (s1.hbOf (wd w 0) = none → exec (.bufGive iss tag w) s = .next (s1.finish iss c stBAD_PARAM 0 [])) ∧
       (∀ h x, s1.hbOf (wd w 0) = some (h, x) →
         (∀ b, Tab.get? s1.buf.hbmBufs (hbKey h x) = some b → b.refc = false → b.mid = s1.issMaster iss → ∃ u : State,
           exec (.bufGive iss tag w) s = .next (u.finish iss c stOK 0 []) ∧
           Tab.get? u.buf.hbmBufs (hbKey h x) = some { b with mid := wf w 1 0 8 } ∧ u = { s1 with buf := u.buf }) ∧
         (∀ b, Tab.get? s1.buf.hbmBufs (hbKey h x) = some b → (b.refc = true ∨ b.mid ≠ s1.issMaster iss) → ∃ u : State,
           exec (.bufGive iss tag w) s = .next (u.finish iss c stNOT_OWNER 0 [])) ∧
         (Tab.get? s1.buf.hbmBufs (hbKey h x) = none → ∃ u : State, exec (.bufGive iss tag w) s = .next (u.finish iss c stALREADY_FREE 0 [])))))

/-- TASK.CREATE, TASK.CANCEL, TASK.SIGNAL, MBOX.POST (R354-R358, R366, R367): a task whose descriptor Table 12.4 allows is loaded under
the lowest FREE number and a new generation, or again under its own handle; a running task stops at its next preemption point, a cancelled
one is freed, any other is cancelled; the signals asked for are set; a message goes to a mailbox that takes it and has room. -/
def Obligations.TaskCommands : Prop :=
  ∀ (iss : Issuer) (tag : BitVec 6) (w : List Word) (s : State) (c : Ctl) (s1 : State),
    (CtlIssues 0x100 iss tag w s c s1 → wb w 0 9 = false →
      (∀ i, taskBad w = some i → exec (.taskCreate iss tag w) s = .next (s1.finish iss c stBAD_PARAM i [])) ∧
      (taskBad w = none →
        let free := (List.range 512).find? (fun k => s1.taskState k == tFREE)
        (free = none → exec (.taskCreate iss tag w) s = .next (s1.finish iss c stNO_ROOM 0 [])) ∧
        (∀ k, free = some k → ∃ t : State, t.get F.tugTaskState_gen k = (s1.get F.tugTaskState_gen k + 1) % 256 ∧
          exec (.taskCreate iss tag w) s = .next ((t.taskLoad k w).finish iss c stOK 0 [BitVec.ofNat 64 ((t.taskLoad k w).taskHandle k)])))) ∧
    (CtlIssues 0x101 iss tag w s c s1 →
      (s1.taskOf (wd w 0) = none → exec (.taskCancel iss tag w) s = .next (s1.finish iss c stBAD_HANDLE 0 [])) ∧
      (∀ k, s1.taskOf (wd w 0) = some k →
        (s1.taskState k = tCANCELLED → ∃ u : State, exec (.taskCancel iss tag w) s = .next (u.finish iss c stOK 0 []) ∧ u.taskState k = tFREE) ∧
        (s1.taskState k = tRUNNING → (∀ t, s1.coreOf k = some t → s1.preemptPoint t = false) → exec (.taskCancel iss tag w) s =
          .next ((s1.setTask k { s1.task k with cancel := true }).finish iss c stOK 0 [])) ∧
        (s1.taskState k ≠ tCANCELLED → s1.taskState k ≠ tRUNNING → exec (.taskCancel iss tag w) s =
          .next ((s1.cancelTask k 0).finish iss c stOK 0 [])))) ∧
    (CtlIssues 0x102 iss tag w s c s1 →
      (s1.taskOf (wd w 0) = none → exec (.taskSignal iss tag w) s = .next (s1.finish iss c stBAD_HANDLE 0 [])) ∧
      (∀ k, s1.taskOf (wd w 0) = some k → exec (.taskSignal iss tag w) s =
        .next ((s1.signal k (BitVec.ofNat 32 (wf w 1 0 32))).finish iss c stOK 0 []))) ∧
    (CtlIssues 0x103 iss tag w s c s1 →
      let h := wd w 0
      let m := hIx h
      let mine : Prop := h < 2 ^ 32 ∧ hType h = 3 ∧ m < 64 ∧ s1.bit F.tugMboxCfg_en m = true ∧ hGen h = Tab.getD s1.tug.mailGen m 0
      (¬mine → exec (.mboxPost iss tag w) s = .next (s1.finish iss c stBAD_HANDLE 0 [])) ∧
      (mine → s1.mboxTakes m = false → exec (.mboxPost iss tag w) s = .next (s1.finish iss c stDENIED 0 [])) ∧
      (mine → s1.mboxTakes m = true → 256 ≤ (s1.mailOf m).length → exec (.mboxPost iss tag w) s =
        .next (s1.park iss { c with started := true })) ∧
      (mine → s1.mboxTakes m = true → (s1.mailOf m).length < 256 → exec (.mboxPost iss tag w) s =
        .next ((s1.mboxPut m (w.getD 1 0) (w.getD 2 0)).finish iss c stOK 0 [])))

/-- TASK.CREATE with REARM = 1 (R355): a CANCELLED task keeps its handle and its flag word, its context is loaded from the descriptor as
for a new task, and it is READY; a task in any other state completes it with BAD_PARAM. -/
def Obligations.RearmedTasks : Prop :=
  ∀ (iss : Issuer) (tag : BitVec 6) (w : List Word) (s : State) (c : Ctl) (s1 : State),
    let v := w0With 9 1 1 w
    let k := wf v 0 0 9
    CtlIssues 0x100 iss tag v s c s1 → taskBad v = none →
    (s1.taskState k ≠ tCANCELLED → exec (.taskRearm iss tag w) s = .next (s1.finish iss c stBAD_PARAM 0 [])) ∧
    (s1.taskState k = tCANCELLED →
      let u := s1.taskLoad k v
      exec (.taskRearm iss tag w) s = .next (u.finish iss c stOK 0 [BitVec.ofNat 64 (u.taskHandle k)]) ∧
      u.taskHandle k = s1.taskHandle k ∧ u.get F.tugTaskState_flags k = s1.get F.tugTaskState_flags k ∧ u.taskState k = tREADY ∧
      (u.task k).ctx.pc = v.getD 1 0 ∧ (u.task k).ctx.sup = wb v 0 15 ∧ u.level k = wf v 0 10 5 ∧
      (u.task k).regs[1]? = some (v.getD 2 0) ∧ (u.task k).aff.toNat = wf v 0 18 16)

/-! ### Tasks and windows of the tug cores -/

/-- SEND0, SEND1, RECV0, RECV1, EXQ_HEAD_WRITE, WD_KICK, TIMER_WRITE, IPI, SYSWD_KICK (R366-R372, Table 12.2): a store or load of a window
word by a task that may use it: SEND0 latches, SEND1 posts where the owner takes the message and there is room, and stalls while there is
none; the owner's RECV0 latches and reads the head, its RECV1 reads the second word and removes the message; HEAD frees entries, KICK
restarts the core's watchdog, TIMER and IPI act at supervisor level. -/
def Obligations.TugWindows : Prop :=
  ∀ (t : Core) (m : Mbox) (rd : RegNo) (v : Word) (s : State), TugIssues t s →
    let stored (u : State) : State := (u.ccnt t.val 4 1).tugDone t
    let loaded (u : State) (x : Word) : State := ((u.ccnt t.val 3 1).setG (.tug t) rd x).tugDone t
    let own : Prop := s.running? t.val = some (s.mboxOwner m.val)
    (s.mayMbox t = true →
      exec (.send0 t m v) s = .next (stored (s.send0Write t v)) ∧
      (s.mboxTakes m.val = false → exec (.send1 t m v) s = .next (stored (s.bump F.tugCntMboxRefused 0))) ∧
      (s.mboxTakes m.val = true → (s.mailOf m.val).length < 256 →
        exec (.send1 t m v) s = .next (stored (s.mboxPut m.val (s.tcore t.val).ctx.send0 v))) ∧
      (s.mboxTakes m.val = true → 256 ≤ (s.mailOf m.val).length → exec (.send1 t m v) s = .next s) ∧
      (own → s.mailOf m.val = [] → exec (.recv0 t rd m) s = .next (loaded (s.setLatch m.val none) 0)) ∧
      (∀ a b r, own → s.mailOf m.val = (a, b) :: r → exec (.recv0 t rd m) s = .next (loaded (s.setLatch m.val (some (a, b))) a)) ∧
      (∀ a b, own → Tab.get? s.tug.recv m.val = some (a, b) → exec (.recv1 t rd m) s =
        .next (loaded ((s.setMail m.val (s.mailOf m.val).tail).setLatch m.val none) b)) ∧
      (own → Tab.get? s.tug.recv m.val = none → exec (.recv1 t rd m) s = .next (loaded s 0)) ∧
      (¬own → exec (.recv0 t rd m) s = .next (s.trapHere t tcD_FAULT (BitVec.ofNat 64 (0x02000000 + m.val * 64 + 0x10))))) ∧
    (s.mayMbox t = false → exec (.send0 t m v) s = .next (s.trapHere t tcD_FAULT (BitVec.ofNat 64 (0x02000000 + m.val * 64)))) ∧
    (s.mayExq t = true → exec (.exqHeadWrite t v) s = .next (stored (s.exqFree v))) ∧
    exec (.wdKick t) s = .next (stored (s.wdRestart t.val)) ∧
    (s.tsup t = true →
      exec (.timerWrite t v) s = .next (stored (s.timerSet t v)) ∧
      exec (.ipi t v) s = .next (stored (s.ipiSend v)) ∧
      exec (.syswdKick t v) s = .next (stored (s.sysKickWrite v))) ∧
    (s.tsup t = false →
      exec (.timerWrite t v) s = .next (s.trapHere t tcD_FAULT 0x02020008) ∧
      exec (.syswdKick t v) s = .next (s.trapHere t tcD_FAULT 0x02030000))

/-- TASK_PLACE, CONTEXT_SWITCH, DELAY_LIST_EXPIRY (R360-R365): the first READY task of an idle core starts there, else it goes into the
NEXT slot of the core with the least urgent task; at a preemption point the core takes its NEXT task where that is more urgent, and the
one that ran is READY at the head of its level; every delayed task whose tick has come is READY again with 0 in its register.
TIMER_EXPIRY, CORE_WD_EXPIRY, SYSWD_EXPIRY, MBOX_ENABLE (R366, R370-R372): a timer that is due latches source 1 and is spent; a core's
watchdog latches source 0 and, the second time in a row, resets the core; the system watchdog asks for SAFE HARBOUR and restarts; a
mailbox put into use takes a new generation. -/
def Obligations.TasksTimersAndWatchdogs : Prop :=
  (∀ (k : TaskIx) (t : Core) (s : State),
     (s.taskState k.val ≠ tREADY → exec (.taskPlace k) s = .next s) ∧
     (s.taskState k.val = tREADY → s.idleCore k.val = some t → s.firstFor t.val 32 = some k.val →
       ∃ u : State, exec (.taskPlace k) s = .next u ∧ u.tug.lastCore = t.val ∧ u.taskState k.val = tRUNNING ∧
         u.running? t.val = some k.val ∧ (u.tcore t.val).ctx = (s.task k.val).ctx) ∧
     (s.taskState k.val = tREADY → s.idleCore k.val = none → s.victimCore k.val = some t → s.firstFor t.val 32 = some k.val →
       ∃ u : State, exec (.taskPlace k) s = .next u ∧ (u.tcore t.val).next = some k.val ∧ u.tug.lastCore = t.val ∧
         u = { s with regs := u.regs, tug := u.tug }) ∧
     (s.running? t.val = none → exec (.contextSwitch t) s = .next s) ∧
     (∀ i, s.running? t.val = some i →
       (s.preemptPoint t = false → exec (.contextSwitch t) s = .next s) ∧
       (s.preemptPoint t = true → (s.task i).cancel = true → exec (.contextSwitch t) s = .next (s.cancelHere t i)) ∧
       (∀ j, s.preemptPoint t = true → (s.task i).cancel = false → (s.tcore t.val).next = some j →
         (s.taskState j = tREADY → s.level j < s.level i → ∃ v : State, exec (.contextSwitch t) s = .next (v.startTask t j) ∧
           (i < 512 → v.taskState i = tREADY) ∧ (v.task i).ctx = (s.tcore t.val).ctx ∧
           v.readyOf (s.level i) = i :: s.readyOf (s.level i)) ∧
         (s.taskState j ≠ tREADY → exec (.contextSwitch t) s = .next (s.setNext t.val none)))) ∧
     exec .delayListExpiry s = .next ((s.tug.delay.takeWhile (fun e => decide (e.1 ≤ s.ticks))).foldl (fun s e => s.waitOver e.2) s) ∧
     (∀ (j : Nat) (r : RegNo) (w : Word), (s.task j).wait = some (r, w) →
       let u := s.waitOver j
       (j < 512 → u.taskState j = tREADY) ∧ (u.task j).wait = none ∧ (∀ e ∈ u.tug.delay, e.2 ≠ j) ∧
       (u.task j).regs = (if r = 0 then (s.task j).regs else (s.task j).regs.set r.val 0))) ∧
  (∀ (t : Core) (s : State),
     let tc := s.tcore t.val
     (∀ d, tc.timer = some d → d ≤ s.ns →
       exec (.timerExpiry t) s = .next ((s.setTcore t.val { tc with timer := none }).latchIrq t.val 1)) ∧
     (∀ d, tc.timer = some d → s.ns < d → exec (.timerExpiry t) s = .next s) ∧
     (s.running? t.val ≠ none → tc.wd + s.get F.tugCoreCfg_wdMs t.val * 1000000 ≤ s.ns →
       (tc.wdOnce = true → exec (.coreWdExpiry t) s = .next (s.coreReset t.val 1)) ∧
       (tc.wdOnce = false → exec (.coreWdExpiry t) s =
         .next ((s.setTcore t.val { tc with wd := s.ns, wdOnce := true }).latchIrq t.val 0))) ∧
     (s.ns < tc.wd + s.get F.tugCoreCfg_wdMs t.val * 1000000 → exec (.coreWdExpiry t) s = .next s) ∧
     (∀ d, s.tug.sysDue = some d → d ≤ s.ns → ∃ v : State,
       v.tug.sysDue = some (s.ns + s.get F.tugSyswdCfg_timeout 0 * 1000000) ∧ v = { s with tug := v.tug } ∧
       (s.modeNo ≠ mHARBOUR → exec .syswdExpiry s = .next (v.setCause 2)) ∧
       (s.modeNo = mHARBOUR → exec .syswdExpiry s = .next (v.bump F.tugCntSyswdBad 0))) ∧
     (∀ (m : Mbox) (v : BitVec 32), s.directMode = true → s.bit F.tugMboxCfg_en m.val = false → v.getLsbD 0 = true →
       v.toNat / 2 ^ 10 % 32 ≤ 29 → ∃ u : State, exec (.mboxEnable m v) s = .next u ∧ u.bit F.tugMboxCfg_en m.val = true ∧
         u.mboxOwner m.val = v.toNat / 2 % 512 ∧ u.get F.tugMboxCfg_flag m.val = v.toNat / 2 ^ 10 % 32 ∧
         Tab.get? u.tug.mailGen m.val = some ((Tab.getD s.tug.mailGen m.val 0 + 1) % 256) ∧
         u = { s with regs := u.regs, tug := u.tug }))

/-! ### The harbour log -/

/-- LOG_CAPTURE, LOG_ENABLE, LOG_SCAN_DONE (R398-R403, R414): the oldest record offered leaves the queue and is captured, or lost where
its bucket or the device's is short, or counted where its partition is not open; turning the log on starts the scan, and its end builds
the directory and lets the log run. SEAL_MS_EXPIRY, SEAL_SIGN, CHUNK_WRITE_DONE, SEGMENT_FLUSH_DONE (R404-R406, R412): an open segment
with records closes at its time while the signing queue has room; the oldest closed segment whose chunks are on the drive is signed under
its predecessor's link, 500 µs apart, and its link goes to the next; a chunk's block is entered in the map; a sealed, flushed segment
counts as written. -/
def Obligations.RecordsAreCaptured : Prop :=
  (∀ s : State,
     (s.log.queue = [] → exec .logCapture s = .next s) ∧
     (∀ c rest, s.log.queue = c :: rest →
       let v := { s with log := { s.log with queue := rest } }
       (c.bid = none → exec .logCapture s = .next (v.capture c)) ∧
       (∀ b, c.bid = some b → exec .logCapture s = .next ((v.capture c).letGo b 0x60)) ∧
       (v.logRuns = false → v.capture c = v) ∧
       (v.logRuns = true → v.get F.logPartStatus_state c.part ≠ 1 → v.capture c = v.bump F.logCntNoPart 0) ∧
       (v.logRuns = true → v.get F.logPartStatus_state c.part = 1 → (v.partBucket c.part < recordLen c.body.length * 8000 ∨
           v.devBucket < recordLen c.body.length) → c.part < 16 →
         ((v.capture c).part c.part).lostN = (v.part c.part).lostN + 1 ∧ (v.capture c).log.segs = v.log.segs)) ∧
     (∀ v : Word, s.dockMode = true → s.bit F.logCfg_en 0 = false → v.getLsbD 0 = true →
       let d := v.toNat / 2 % 128
       s.get F.bufHbmPool_bufsz 1 = 10 → d < 96 → (∀ a ∈ s.hbmAreas, meets a.1 a.2 d 1 = false) →
       ∃ u : State, exec (.logEnable v) s = .next u ∧ u.get F.logStatus_state 0 = 1 ∧ u.bit F.logCfg_en 0 = true ∧ u = { s with regs := u.regs }) ∧
     (∀ found : List SegScan, (s.get F.logStatus_state 0 ≠ 1 → exec (.logScanDone found) s = .next s) ∧
       (s.get F.logStatus_state 0 = 1 → ∃ u : State, exec (.logScanDone found) s = .next u ∧ u.get F.logStatus_state 0 = 2 ∧ u.log.dir = found ∧
         u = { s with regs := u.regs, log := u.log }))) ∧
  (∀ (p : Fin 16) (seg lba : Nat) (s : State),
     (s.openSeg p.val = none → exec (.sealMsExpiry p) s = .next s) ∧
     (∀ i g, s.openSeg p.val = some (i, g) →
       let due : Prop := g.records ≠ 0 ∧ s.signRoom = true ∧ g.firstNs + (s.part p.val).sealMs * 1000000 ≤ s.ns
       (due → exec (.sealMsExpiry p) s = .next (s.closeSeg i g sgTIMED)) ∧ (¬due → exec (.sealMsExpiry p) s = .next s)) ∧
     (∀ i g flag, let u := s.closeSeg i g flag
       Tab.get? u.log.segs i = some { g with isOpen := false, flags := g.flags ||| flag, closeT := s.ktsTl } ∧ u.log.signQ = s.log.signQ ++ [i] ∧
       u = { s with regs := u.regs, log := u.log }) ∧
     (s.log.signQ = [] → exec .sealSign s = .next s) ∧
     (∀ i rest g, s.log.signQ = i :: rest → Tab.get? s.log.segs i = some g →
       let quiet : Prop := ∀ t, s.log.signNs = some t → t + 500000 ≤ s.ns
       let ready : Prop := g.chunksDone = true ∧ g.prev.isSome = true ∧ quiet
       (¬ready → exec .sealSign s = .next s) ∧
       (ready →
         let g2 := if s.mode.keys then g else { g with flags := g.flags ||| sgUNSIGNED }
         let link := Config.sha3 (s.sealBody g2)
         let sig := if s.mode.keys then Config.sign s.mode.keyOwner (s.sealBody g2) else []
         ∃ v : State, exec .sealSign s = .next (v.linkNext g.part) ∧
           Tab.get? v.log.segs i = some { g2 with sealed := true, sealNs := s.ns, link := link, sig := sig } ∧
           v.log.signQ = rest ∧ v.log.signNs = some s.ns ∧ (v.part g.part).lastLink = link ∧ (v.part g.part).lastSealed = some g.num ∧
           v = { s with regs := v.regs, log := v.log })) ∧
     (∀ i g, s.segOf p.val seg = some (i, g) →
       let up : Prop := s.logWrites = true ∧ s.get F.logDriveStatus_state g.drive = 2
       (up → g.chunksDone = false → g.chunkClosed g.lba.length = true → g.prev.isSome = true → g.alien = false →
         ∃ u : State, exec (.chunkWriteDone p seg lba) s = .next u ∧
           Tab.get? u.log.segs i =
             some { g with lba := g.lba ++ [if s.bit F.logDriveStatus_zoned g.drive then lba else nextBlock g], fails := 0 }) ∧
       (up → g.sealed = true → g.chunksDone = true → g.written = false →
         ∃ v : State, exec (.segmentFlushDone p seg) s = .next (v.bump F.logCntSealed p.val) ∧
           Tab.get? v.log.segs i = some { g with written := true })))

/-- DRIVE_READY, DRIVE_LINKED, DRIVE_WRITE_FAIL, DRIVE_REMOVED, RETENTION_EXPIRY (R408-R410, R413): a drive that is ABSENT is LINKED with
its link, READY where its namespace meets R410, ABSENT when it is gone; the first failed write of a segment is tried again, the second
fails the drive and sends the segment elsewhere; a closing partition's segment goes at its retention, and the index is free after the
last. -/
def Obligations.DrivesComeAndGo : Prop :=
  ∀ (r : Fin 4) (p : Fin 16) (seg : Nat) (s : State),
    (s.get F.logDriveStatus_state r.val = 0 → ∃ u : State, exec (.driveLinked r) s = .next u ∧ u.get F.logDriveStatus_state r.val = 1 ∧
      u = { s with regs := u.regs }) ∧
    (s.get F.logDriveStatus_state r.val ≠ 0 → exec (.driveLinked r) s = .next s) ∧
    (∃ u : State, exec (.driveRemoved r) s = .next u ∧ u.get F.logDriveStatus_state r.val = 0 ∧ u.get F.logDriveStatus_free r.val = 0 ∧
      Tab.get? u.log.ids r.val = none ∧ u.log.segs = s.log.segs) ∧
    (∀ (id : DriveId) (v : Word), s.directMode = true → s.bit F.logDriveCfg_ready r.val = false → v.getLsbD 0 = true →
      let fit := s.driveFit r.val id (v.toNat / 2 ^ 34 % 2 ^ 16)
      (fit = true → ∃ u : State, exec (.driveReady r id v) s = .next u ∧ u.get F.logDriveStatus_state r.val = 2 ∧
        u.bit F.logDriveStatus_zoned r.val = id.zoned ∧ Tab.get? u.log.ids r.val = some id ∧ u.bit F.logDriveCfg_ready r.val = true) ∧
      (fit = false → exec (.driveReady r id v) s = .next { s with log := { s.log with ids := Tab.put s.log.ids r.val id } })) ∧
    (s.segOf p.val seg = none → exec (.driveWriteFail p seg) s = .next s ∧ exec (.retentionExpiry p seg) s = .next s) ∧
    (∀ i g, s.segOf p.val seg = some (i, g) →
      (g.written = false → g.alien = false → s.get F.logDriveStatus_state g.drive = 2 →
        (g.fails = 0 → exec (.driveWriteFail p seg) s = .next (s.setSeg i { g with fails := 1 })) ∧
        (g.fails ≠ 0 → exec (.driveWriteFail p seg) s =
          .next ((((s.set F.logDriveStatus_state g.drive 3).driveEvent g.drive).hostErr 16).relocateSeg i g))) ∧
      (g.written = true → exec (.driveWriteFail p seg) s = .next s) ∧
      (s.get F.logPartStatus_state p.val = 2 → s.mayRetire i g = true →
        let u := s.retireSeg i g
        ((u.segsOf p.val).isEmpty = true → exec (.retentionExpiry p seg) s = .next (u.set F.logPartStatus_state p.val 0)) ∧
        ((u.segsOf p.val).isEmpty = false → exec (.retentionExpiry p seg) s = .next u)) ∧
      (s.mayRetire i g = false → exec (.retentionExpiry p seg) s = .next s))

/-! ### Modes, SAFE HARBOUR, security -/

/-- RESET_ASSERT, RESET_RELEASE, SYS_RESET, PWR_OK_LOSS, DPLL0_STABLE, BOOT_COMPLETE, BOOT_ERROR (R292, R417, R423, R424, R426, R446,
R475): a reset leaves the state of reset but for the fuses, the pins, the host's memory and what has left; its release starts BOOT unless
THERMTRIP_N is asserted; the reset key goes through BOOT with the PCIe side kept; in BOOT the bases start once DPLL0 is stable, a good
boot ends in MOORED with the image in memory and core 0 at its entry, and a failed one in HALT with its code. -/
def Obligations.ResetAndBoot : Prop :=
  ∀ s : State,
    (∃ u : State, exec .resetAssert s = .next u ∧ u.modeNo = mRESET ∧ u.hbm = [] ∧ u.dmem = [] ∧ u.cmd = State.reset.cmd ∧
      u.tug = State.reset.tug ∧ u.eng = State.reset.eng ∧ u.tab = State.reset.tab ∧ u.led = State.reset.led ∧ u.tm = State.reset.tm ∧
      u.hostMem = s.hostMem ∧ u.out = s.out ∧ u.pending = s.pending ∧ u.mode.fuseOwner0 = s.mode.fuseOwner0 ∧
      u.mode.fuseOwner1 = s.mode.fuseOwner1 ∧ u.mode.revoked0 = s.mode.revoked0 ∧ u.get F.secStatus_arbFw 0 = s.get F.secStatus_arbFw 0 ∧
      u.get F.secStatus_arbPatch 0 = s.get F.secStatus_arbPatch 0 ∧ u.bit F.secStatus_debugLock 0 = s.bit F.secStatus_debugLock 0 ∧
      (s.mode.resetHeld = false → exec .pwrOkLoss s = .next u)) ∧
    (s.mode.resetHeld = true → exec .pwrOkLoss s = .next s ∧
      (s.mode.thermtrip = true → exec .resetRelease s = .next s) ∧
      (s.mode.thermtrip = false → exec .resetRelease s = .next (({ s with mode := { s.mode with resetHeld := false } }).setMode mBOOT))) ∧
    (∀ v : BitVec 32,
      (v = 0x4B580001 → s.mode.resetHeld = false → ∃ u : State, exec (.sysReset v) s = .next u ∧ u.modeNo = mBOOT ∧ u.host = s.host ∧
        u.hbm = [] ∧ u.dmem = [] ∧ u.get F.sysAvs_applied 0 = s.get F.sysAvs_applied 0 ∧ u.time = State.reset.time) ∧
      (v ≠ 0x4B580001 → exec (.sysReset v) s = .next s)) ∧
    (s.modeNo = mBOOT → s.time.tl = false → ∃ v : State, v.time.tl = true ∧ v.time.tlNs = 0 ∧ v = { s with time := v.time } ∧
      exec .dpll0Stable s = .next ((List.range 8).foldl (fun s b => if s.bit F.timeTbCfg_en b then s.startBase b else s) v)) ∧
    (∀ b : BootReport, s.modeNo = mBOOT → s.time.tl = true → b.harbour = none →
      ∃ v : State, exec (.bootComplete b) s = .next ((v.setMode mMOORED).bellsGo) ∧
        v.bit F.sysStatus_slot 0 = b.slot ∧ v.get F.sysStatus_bootMs 0 = Nat.min b.bootMs 2047 ∧
        (v.tcore 0).ctx.pc = b.entry ∧ (v.tcore 0).ctx.sup = true ∧ v.running? 0 = some 0 ∧
        v.dmem = b.firmware.foldl (fun (m : Memory) (e : Nat × Byte) => m.set e.1 e.2) s.dmem) ∧
    ((s.modeNo ≠ mBOOT ∨ s.time.tl = false) → ∀ b : BootReport, exec (.bootComplete b) s = .next s) ∧
    (∀ code : BitVec 3, (s.modeNo = mBOOT → exec (.bootError code) s = .next ((s.set F.sysStatus_bootErr 0 code.toNat).haltIn)) ∧
      (s.modeNo ≠ mBOOT → exec (.bootError code) s = .next s))

/-- SLACK_QUIESCED, SLACK_TIMEOUT, HALT_ENTRY, THERMTRIP, THERMTRIP_CLEAR (R418, R428, R445, R455, R479): a transition under way completes
once its quays are quiesced, with every copy gone for MOORED, or times out with its quays resumed and the mode unchanged; a HALT that is
owed, or an over-temperature, ends in HALT with links down, cores idle and command engines empty. -/
def Obligations.SlackAndHalt : Prop :=
  ∀ s : State,
    (s.mode.trans = none → exec .slackQuiesced s = .next s ∧ exec .slackTimeout s = .next s) ∧
    (∀ t, s.mode.trans = some t →
      (s.forwarding = true → t.target = mSLACK → s.quiescedMask t.mask.toNat = true →
        exec .slackQuiesced s = .next ((s.setMode mSLACK).settleTrans stOK)) ∧
      (s.forwarding = true → t.target = mMOORED → s.quiescedMask 0xFFFF = true → s.tm.copies = [] →
        exec .slackQuiesced s = .next (((s.setMode mMOORED).setPaused 0).settleTrans stOK)) ∧
      (s.forwarding = false ∨ (t.target ≠ mSLACK ∧ s.tm.copies ≠ []) → exec .slackQuiesced s = .next s) ∧
      (∀ d, t.deadlineNs = some d → s.ns < d → exec .slackTimeout s = .next s) ∧
      (∀ d, t.deadlineNs = some d → d ≤ s.ns → ∃ u : State, exec .slackTimeout s = .next u ∧ u.mode.trans = none ∧ u.modeNo = s.modeNo ∧
        ∀ q, q < 16 → t.mask.toNat.testBit q = true → (u.get F.sysMode_paused 0).testBit q = false)) ∧
    (let u := s.haltIn
     u.modeNo = mHALT ∧ (∀ t : Core, u.running? t.val = none) ∧ (∀ p, p < 130 → u.bit F.tmPortStatus_link p = false) ∧ u.cmd.engines = [] ∧
     u.cmd.current = [] ∧ u.eng.frames = [] ∧ u.tm.copies = [] ∧ u.mode.haltOwed = false ∧ OutEv.aer ∈ u.out) ∧
    (s.mode.haltOwed = true → s.modeNo ≠ mRESET → s.modeNo ≠ mHALT → exec .haltEntry s = .next s.haltIn) ∧
    (s.mode.haltOwed = false → exec .haltEntry s = .next s) ∧
    (let v := { s with mode := { s.mode with thermtrip := true } }
     (s.modeNo = mRESET ∨ s.modeNo = mHALT → exec .thermtrip s = .next v) ∧
     (s.modeNo ≠ mRESET → s.modeNo ≠ mHALT → exec .thermtrip s = .next v.haltIn)) ∧
    (s.mode.resetHeld = true → exec .thermtripClear s = .next { s with mode := { s.mode with thermtrip := false } }) ∧
    (s.mode.resetHeld = false → exec .thermtripClear s = .next s)

/-- HARBOUR_N_ASSERT, HARBOUR_N_DEASSERT, HARBOUR_ENTRY, HARBOUR_EXIT_COMPLETE, HBOR_DRAIN_EXPIRY (R419, R421, R439-R444): the pin sets
cause 0 and shows in SYS_STATUS; a cause takes MOORED, SERVICE, SLACK and DRYDOCK into SAFE HARBOUR, a HALT that is owed going first, with
nothing paused, no frame or flow queue left and the harbour queues empty; an exit ends in its mode once they have drained, and DRAIN_US
drops what they hold. HBOR_FRAME_RX, HBOR_LAUNCH, HBOR_BANK_SWITCH, HBOR_BANK_CHECK_DONE (R433-R438): the armed plane takes a whole frame
of an enabled port, counts it, and admits what the lowest matching entry admits; a port serves its classes from the highest once its last
frame has ended; a bank is checked before it becomes active, and a bad one is refused with its place. -/
def Obligations.HarbourEntryPlaneAndExit : Prop :=
  (∀ s : State,
     (let v := ({ s with mode := { s.mode with pinLow := true } }).setBit F.sysStatus_harbourN 0 true
      exec .harbourNAssert s = .next (v.setCause 0) ∧ v.bit F.sysStatus_harbourN 0 = true ∧ v.mode.pinLow = true) ∧
     (∃ u : State, exec .harbourNDeassert s = .next u ∧ u.bit F.sysStatus_harbourN 0 = false ∧ u.mode.pinLow = false ∧
       u = { s with regs := u.regs, mode := u.mode }) ∧
     (∀ b, b < 7 →
       ((s.modeNo = mRESET ∨ s.modeNo = mBOOT ∨ s.modeNo = mHALT) → s.setCause b = s) ∧
       ((s.modeNo = mMOORED ∨ s.modeNo = mSERVICE ∨ s.modeNo = mSLACK ∨ s.modeNo = mDRYDOCK) →
         ((s.setCause b).get F.sysHborCause_cause 0).testBit b = true ∧ (s.setCause b).mode.causeSeen = true)) ∧
     (let m := s.modeNo
      let enters : Prop := s.mode.causeSeen = true ∧ s.mode.haltOwed = false ∧ (m = mMOORED ∨ m = mSERVICE ∨ m = mSLACK ∨ m = mDRYDOCK)
      (¬enters → exec .harbourEntry s = .next s) ∧ (enters → exec .harbourEntry s = .next s.harbourIn)) ∧
     (let u := s.harbourIn
      let v := ((s.settleTrans stABORTED).abandon.setMode mHARBOUR).set F.sysMode_paused 0 0
      v.modeNo = mHARBOUR ∧ v.get F.sysMode_paused 0 = 0 ∧ v.eng.frames = [] ∧ v.tm.queues = [] ∧
      (∃ w : State, w = (List.range 8).foldl (fun s b => if (s.base b).running then s.holdover b hHARBOUR false else s) v ∧
        u = { w with regs := u.regs, hbor := u.hbor, mode := u.mode, freeCtr := u.freeCtr } ∧
        (s.modeNo ≠ mDRYDOCK → u.freeCtr = w.freeCtr)) ∧
      u.eng.frames = [] ∧ u.tm.queues = [] ∧ u.hbor.frames = [] ∧ u.hbor.queues = [] ∧ u.hbor.draining = none ∧ u.mode.causeSeen = false ∧
      u.mode.trans = none) ∧
     (s.modeNo = mHARBOUR → s.hbor.draining ≠ none → s.hbor.frames = [] → ∃ u : State, exec .harbourExitComplete s = .next u ∧
       u.hbor.draining = none ∧ u.mode.trans = none ∧ u.tab.frag = [] ∧ u.eng.flights = [] ∧ u.buf.descs = []) ∧
     ((s.modeNo ≠ mHARBOUR ∨ s.hbor.draining = none ∨ s.hbor.frames ≠ []) → exec .harbourExitComplete s = .next s) ∧
     (∀ d, s.hbor.draining = some d →
       (s.ns < d → exec .hborDrainExpiry s = .next s) ∧
       (d ≤ s.ns → ∃ u : State, exec .hborDrainExpiry s = .next u ∧ u.hbor.frames = [] ∧ u.hbor.queues = [] ∧
         u.get F.hborCntDrainDrop 0 = (s.get F.hborCntDrainDrop 0 + s.hbor.frames.length) % 2 ^ 64 ∧
         u = { s with regs := u.regs, hbor := u.hbor }))) ∧
  (∀ (fid : Nat) (p : Port) (s : State),
     (s.frame? fid = none → exec (.hborFrameRx fid) s = .next s) ∧
     (∀ f, s.frame? fid = some f → s.modeNo = mHARBOUR → f.lenKnown = true → fid ∉ (s.quay f.quay.val).waiting →
       let v := s.delFrame fid
       let takes : Prop := s.hbor.draining = none ∧ v.hbArmed = true ∧ v.bit F.hborPortCfg_en (hbPort v.hbBank f.port) = true
       (¬takes → exec (.hborFrameRx fid) s = .next v) ∧
       (takes → exec (.hborFrameRx fid) s = .next (v.hbAccept fid f))) ∧
     (∀ (f : Frame) (i : Nat),
       let v := s.bump F.hborCntRx f.port
       let e := v.hbMatch f.port f.bytes (hbVid f.bytes (v.get F.hborPortCfg_pvid (hbPort s.hbBank f.port)))
       (e = none → s.hbAccept fid f = v.bump F.hborCntMiss f.port) ∧
       (e = some i → v.get F.hborEntry_maxf i < f.bytes.length → s.hbAccept fid f = v.bump F.hborCntOversize f.port) ∧
       (e = some i → f.bytes.length ≤ v.get F.hborEntry_maxf i → v.bit F.hborEntry_redEn i = false →
         s.hbAccept fid f = v.hbAdmit fid f i)) ∧
     (s.modeNo = mHARBOUR → Tab.getD s.hbor.launchNs p.val 0 ≤ s.ns → Tab.getD s.ports.wire p.val [] = [] → s.linkUp p.val = true →
       exec (.hborLaunch p) s = .next (s.hbServe p.val [7, 6, 5, 4, 3, 2, 1, 0])) ∧
     (s.modeNo ≠ mHARBOUR → exec (.hborLaunch p) s = .next s) ∧
     (∀ v : Word, let b := v.toNat / 2 % 2
       s.directMode = true → b ≠ s.hbBank → (v.getLsbD 0 = true → s.bit F.hborCfg_armed 0 = true ∨ s.hbPassed = true) →
       ∃ u : State, exec (.hborBankSwitch v) s = .next u ∧ u.hbor.check = some b ∧ u.bit F.hborStatus_checking 0 = true ∧
         u.hbBank = s.hbBank ∧ u.bit F.hborCfg_armed 0 = v.getLsbD 0 ∧ u = { s with regs := u.regs, hbor := u.hbor }) ∧
     (s.hbor.check = none → exec .hborBankCheckDone s = .next s) ∧
     (∀ b, s.hbor.check = some b → b < 2 → ∃ u : State, exec .hborBankCheckDone s = .next u ∧ u.hbor.check = none ∧
       u.bit F.hborStatus_checking 0 = false ∧ u = { s with regs := u.regs, hbor := u.hbor } ∧
       ((s.setBit F.hborStatus_checking 0 false).hbFault b = none → u.hbBank = b ∧ u.bit F.hborStatus_bad 0 = false ∧ b ∈ u.hbor.passed) ∧
       (∀ n, (s.setBit F.hborStatus_checking 0 false).hbFault b = some n → u.hbBank = s.hbBank ∧ u.bit F.hborStatus_bad 0 = true ∧
         u.get F.hborStatus_badIndex 0 = n % 2 ^ 13)))

/-- DRYDOCK_BIST_START, DRYDOCK_BIST_DONE, TEMP_ALARM, AVS_COMMAND, HBM_STACK_LOST, CRYPTO_SELF_TEST_FAIL (R425, R455, R456, R473, R478):
self-tests run in DRYDOCK and report what they selected; the temperatures stand in SYS_TEMP and the alarm rises once; the core voltage
takes steps of one towards its goal, and three without acknowledgement set FAULT; a lost stack sets its bit and cause 3; without the
crypto unit there are no keys. -/
def Obligations.TestsAndSensors : Prop :=
  ∀ s : State,
    (∀ v : BitVec 32, s.modeNo = mDRYDOCK → s.bit F.sysDrydockStatus_busy 0 = false → s.bistRefused v.toNat = false →
      ∃ u : State, exec (.drydockBistStart v) s = .next u ∧ u.get F.sysDrydockCtl_bist 0 = v.toNat % 64 ∧
        u.bit F.sysDrydockStatus_busy 0 = v.getLsbD 6 ∧ u = { s with regs := u.regs }) ∧
    (∀ v : BitVec 32, (s.modeNo ≠ mDRYDOCK ∨ s.bit F.sysDrydockStatus_busy 0 = true) → exec (.drydockBistStart v) s = .next s) ∧
    (∀ fail : BitVec 6, s.modeNo = mDRYDOCK → s.bit F.sysDrydockStatus_busy 0 = true → ∃ u : State,
      exec (.drydockBistDone fail) s = .next u ∧ u.bit F.sysDrydockStatus_busy 0 = false ∧
      u.get F.sysDrydockStatus_fail 0 = fail.toNat &&& s.get F.sysDrydockCtl_bist 0 ∧
      ((s.get F.sysDrydockCtl_bist 0).testBit 3 = true → u.dmem = [] ∧ u.tug.bad = [])) ∧
    (∀ die hbm : BitVec 8, ∃ u : State, exec (.tempAlarm die hbm) s = .next u ∧ u.get F.sysTemp_dieMax 0 = die.toNat ∧
      u.get F.sysTemp_hbmMax 0 = hbm.toNat ∧ (hbm.toInt < 95 → u.get F.sysTemp_hbmHot 0 = 0) ∧
      (95 ≤ hbm.toInt → u.get F.sysTemp_hbmHot 0 ≠ 0) ∧
      ((BitVec.ofNat 8 (s.get F.sysTemp_alarmThr 0)).toInt ≤ die.toInt → u.bit F.sysTemp_alarm 0 = true) ∧
      (s.bit F.sysTemp_alarm 0 = true → u.out = s.out)) ∧
    (∀ target : BitVec 5, s.modeNo ≠ mRESET → s.bit F.sysAvs_fault 0 = false → s.avsNext ≠ s.get F.sysAvs_applied 0 →
      target.toNat = s.avsNext → (∀ t, s.mode.avsNs = some t → t + 10000 ≤ s.ns) →
      (∃ u : State, exec (.avsCommand target true) s = .next u ∧ u.get F.sysAvs_applied 0 = s.avsNext ∧ u.mode.avsNaks = 0 ∧
        u.out = s.out ++ [OutEv.avs s.avsNext]) ∧
      (s.mode.avsNaks < 2 → ∃ u : State, exec (.avsCommand target false) s = .next u ∧ u.mode.avsNaks = s.mode.avsNaks + 1 ∧
        u.get F.sysAvs_applied 0 = s.get F.sysAvs_applied 0) ∧
      (2 ≤ s.mode.avsNaks → ∃ u : State, exec (.avsCommand target false) s = .next u ∧ u.bit F.sysAvs_fault 0 = true ∧
        u.out = s.out ++ [OutEv.avs s.avsNext, OutEv.alert])) ∧
    (∀ (st : Fin 4) (hot : Bool),
      ((s.modeNo = mRESET ∨ s.modeNo = mBOOT) → exec (.hbmStackLost st hot) s = .next s) ∧
      (s.modeNo ≠ mRESET → s.modeNo ≠ mBOOT → ∃ v : State, exec (.hbmStackLost st hot) s = .next ((v.logStop.mcheckFree 1).setCause 3) ∧
        v.get F.sysStatus_hbmFail 0 = s.get F.sysStatus_hbmFail 0 ||| 2 ^ st.val ∧ v = { s with regs := v.regs })) ∧
    (s.modeNo ≠ mRESET → ∃ (v : State) (a : Nat), exec .cryptoSelfTestFail s = .next (v.mcheck 9 a 0x63) ∧ v.mode.keys = false)

/-- SCRUB_VISIT, SEAL_STORM_TICK, CORR_RATE_TICK (R449-R453, R457): out of RESET and BOOT a clean word is nothing, a corrected one is
counted for its memory, and one that cannot be corrected does what the last column of Table 16.1 says; an address at or beyond 96 GiB
names no word of HBM, and the visit stops there; enough failed checks in a tick are a storm, and the correction counts start anew.
SEAL_START, SEAL_RANGE_DONE, SEAL_DATA, SEAL_FINAL, SEAL_RESET, SEAL_RUNNING_WRITE (R458, R459, Table 16.5): a unit is reset to its
check's initial value, takes a range of HBM or words, in either way the bytes given, and FINAL folds, applies the final XOR and compares;
a running value can be put back while the unit is IDLE. -/
def Obligations.ScrubbingAndSealUnits : Prop :=
  (∀ (mem : MemKind) (unit : BitVec 8) (addr : Nat) (s : State),
     let real : Prop := ¬(mem = .hbm ∧ hbmSize ≤ addr)
     let active : Prop := ¬(s.modeNo = mRESET ∨ s.modeNo = mBOOT ∨ (mem = .hbm ∧ s.hbmFailed = true))
     (¬real → ∀ out, exec (.scrubVisit mem unit addr out) s = .fault .noHbm) ∧
     (real → exec (.scrubVisit mem unit addr .clean) s = .next s) ∧
     (real → ¬active → ∀ out, exec (.scrubVisit mem unit addr out) s = .next s) ∧
     (real → active →
       (∃ u : State, exec (.scrubVisit mem unit addr .corrected) s = .next u ∧
         u.get F.rasCntCorr (memRow mem) = (s.get F.rasCntCorr (memRow mem) + 1) % 2 ^ 64 ∧ u = { s with regs := u.regs, mode := u.mode }) ∧
       exec (.scrubVisit mem unit addr .uncorrectable) s = .next (s.scrubUe mem unit.toNat addr)) ∧
     (∃ v : State, v.mode.sealFails = 0 ∧ v = { s with mode := v.mode } ∧
       (s.modeNo ≠ mRESET → s.get F.rasSealCfg_stormThr 0 ≠ 0 → s.get F.rasSealCfg_stormThr 0 ≤ s.mode.sealFails →
         exec .sealStormTick s = .next (v.mcheckFree 7)) ∧
       ((s.get F.rasSealCfg_stormThr 0 = 0 ∨ s.mode.sealFails < s.get F.rasSealCfg_stormThr 0) → exec .sealStormTick s = .next v)) ∧
     (∃ v : State, v.mode.corr = [] ∧ v = { s with mode := v.mode } ∧
       ((∀ e ∈ s.mode.corr, e.2 ≤ s.get F.rasSealCfg_corrThr 0) → exec .corrRateTick s = .next v) ∧
       (∀ i n, s.mode.corr = [(i, n)] → s.get F.rasSealCfg_corrThr 0 < n → ∃ (u : State) (m x : Nat),
         exec .corrRateTick s = .next (u.rasEvent 4 i m n x) ∧ u = { v with freeCtr := u.freeCtr }))) ∧
  (∀ (u : SealUnit) (v : Word) (s : State), s.cfgMode = true →
     let busy : Prop := s.get F.sealCtl_state u.val = suBUSY
     let run (t : State) : BitVec 32 := BitVec.ofNat 32 (t.get F.sealRunning_value u.val)
     (∃ t : State, exec (.sealReset u) s = .next t ∧ t.get F.sealRunning_value u.val = s.sealInit u.val ∧
       t.get F.sealCtl_state u.val = suIDLE ∧ t.bit F.sealCtl_mismatch u.val = false ∧ t = { s with regs := t.regs }) ∧
     (s.sealStartOk u.val = true → (s.sealRange u.val).2 ≠ 0 → ∃ t : State, exec (.sealStart u) s = .next t ∧
       t.get F.sealCtl_state u.val = suBUSY ∧ t = { s with regs := t.regs }) ∧
     (s.sealStartOk u.val = false → exec (.sealStart u) s = .next s) ∧
     (busy → ∃ t : State, exec (.sealRangeDone u) s = .next t ∧ t.get F.sealCtl_state u.val = suIDLE ∧
       run t = s.sealStep u.val (run s) (s.sealBytesOf u.val) ∧ t = { s with regs := t.regs }) ∧
     ((s.sealRange u.val).2 = 0 → ¬busy → ∃ t : State, exec (.sealData u v) s = .next t ∧
       run t = s.sealStep u.val (run s) (leBytes 8 v.toNat) ∧ t = { s with regs := t.regs }) ∧
     (busy → exec (.sealData u v) s = .next s) ∧
     (s.get F.sealCtl_state u.val = suIDLE → ∃ t : State, exec (.sealRunningWrite u v) s = .next t ∧
       t.get F.sealRunning_value u.val = v.toNat ∧ t = { s with regs := t.regs }) ∧
     (¬busy →
       let last := if s.bit F.sealCfg_foldEn u.val then s.sealStep u.val (run s) (leBytes 8 (s.get F.sealFold_value u.val)) else run s
       let r := Nat.xor last.toNat (s.sealXor u.val)
       s.get F.sealRunning_value u.val < 2 ^ 32 → ∃ t : State, t.get F.sealResult_value u.val = r ∧ t.get F.sealCtl_state u.val = suDONE ∧
         t = { s with regs := t.regs } ∧
         ((s.bit F.sealCfg_cmpEn u.val = false ∨ r = s.get F.sealExpect_value u.val) → exec (.sealFinal u) s = .next t) ∧
         (s.bit F.sealCfg_cmpEn u.val = true → r ≠ s.get F.sealExpect_value u.val →
           exec (.sealFinal u) s = .next ((t.setBit F.sealCtl_mismatch u.val true).rasEvent 3 u.val (0x80 + u.val) 0 r))))

/-- SEC_ARB_ADVANCE, OWNER_SLOT_PROGRAM, OWNER_REVOKE, DEBUG_LOCK, DEBUG_OPEN, ATTESTATION_START, ATTESTATION_DONE (R461-R464): only the
PF, in MOORED, programs fuses: counts only rise and not past what runs, a blank owner slot takes a hash, slot 0 is revoked once slot 1 is
programmed; any other request is refused and counted; the debug port opens only while it is not locked, and the keys are gone; an
attestation message is built at START and stored signed in the HOST region, or DENIED without keys. -/
def Obligations.FusesAndKeys : Prop :=
  ∀ (fn : Fn) (s : State),
    (∀ v : BitVec 32, s.modeNo = mMOORED → fn.val = 0 →
      let fw := v.toNat % 128
      let pt := v.toNat / 128 % 64
      let f0 := s.get F.secStatus_arbFw 0
      let p0 := s.get F.secStatus_arbPatch 0
      let ok : Prop := (f0 < fw ∨ p0 < pt) ∧ (fw ≤ f0 ∨ fw ≤ s.mode.arbRun) ∧ (pt ≤ p0 ∨ pt ≤ s.mode.patchArb)
      (ok → ∃ u : State, exec (.secArbAdvance fn v) s = .next u ∧ u.get F.secStatus_arbFw 0 = Nat.max f0 fw ∧
        u.get F.secStatus_arbPatch 0 = Nat.max p0 pt ∧ u = { s with regs := u.regs }) ∧
      (¬ok → exec (.secArbAdvance fn v) s = .next (s.bump F.secCntRefused 0))) ∧
    (∀ (v : BitVec 32) (hash : BitVec 256) (slot : Bool), s.modeNo ≠ mRESET → (fn.val ≠ 0 ∨ s.modeNo ≠ mMOORED) →
      exec (.secArbAdvance fn v) s = .next (s.bump F.secCntRefused 0) ∧
      exec (.ownerSlotProgram fn hash slot) s = .next (s.bump F.secCntRefused 0) ∧
      exec (.ownerRevoke fn) s = .next (s.bump F.secCntRefused 0) ∧ exec (.debugLock fn) s = .next (s.bump F.secCntRefused 0)) ∧
    (s.modeNo = mMOORED → fn.val = 0 →
      (∀ hash, s.mode.fuseOwner1 = none → ∃ u : State, exec (.ownerSlotProgram fn hash true) s = .next u ∧
        u.mode.fuseOwner1 = some hash ∧ u.get F.secStatus_owner 0 = 2 ∧ u.ownerHash = hash) ∧
      (∀ hash, s.mode.fuseOwner0 = none → ∃ u : State, exec (.ownerSlotProgram fn hash false) s = .next u ∧
        u.mode.fuseOwner0 = some hash ∧ u.mode.fuseOwner1 = s.mode.fuseOwner1) ∧
      (s.mode.fuseOwner1 = none → exec (.ownerRevoke fn) s = .next (s.bump F.secCntRefused 0)) ∧
      (s.mode.fuseOwner1 ≠ none → ∃ u : State, exec (.ownerRevoke fn) s = .next u ∧ u.mode.revoked0 = true ∧ u.get F.secStatus_owner 0 = 2) ∧
      (∃ u : State, exec (.debugLock fn) s = .next u ∧ u.bit F.secStatus_debugLock 0 = true ∧ u = { s with regs := u.regs })) ∧
    ((s.modeNo = mRESET ∨ s.bit F.secStatus_debugLock 0 = true) → exec .debugOpen s = .next s) ∧
    (s.modeNo ≠ mRESET → s.bit F.secStatus_debugLock 0 = false → ∃ u : State, exec .debugOpen s = .next u ∧ u.mode.keys = false ∧
      u.bit F.secStatus_debugOpened 0 = true ∧ u = { s with regs := u.regs, mode := u.mode }) ∧
    (s.cfgMode = true → s.bit F.secAttCtl_busy 0 = false → ∃ u : State, exec .attestationStart s = .next u ∧
      u.bit F.secAttCtl_busy 0 = true ∧ u.mode.attest = s.attestBody ∧ u = { s with regs := u.regs, mode := u.mode }) ∧
    (s.bit F.secAttCtl_busy 0 = true → exec .attestationStart s = .next s) ∧
    (s.bit F.secAttCtl_busy 0 = true → s.modeNo ≠ mHALT →
      let a := s.get F.secAttCtl_dest 0 * 4096
      (s.mode.keys = false → ∃ u : State, exec .attestationDone s = .next u ∧ u.get F.secAttCtl_status 0 = stDENIED ∧ u.hbm = s.hbm) ∧
      (s.mode.keys = true → s.inRegion 0 a 6360 = true → s.hbmFailed = false → ∃ u : State, exec .attestationDone s = .next u ∧
        u.get F.secAttCtl_status 0 = stOK ∧ u.bit F.secAttCtl_busy 0 = false ∧
        u.hbm = s.hbm.setBytes a (s.mode.attest ++ fitTo 2420 (Config.sign s.mode.keyOwner s.mode.attest)) ∧
        u = { s with regs := u.regs, mode := u.mode, hbm := u.hbm }))
end

