-- ==== Sys2Proof/Laws/Tab.lean ====
section
/-!
SUPPORT. Laws/Tab.lean: tables and byte memories: read after write, and that every operation keeps the canonical form.
-/
namespace Sys2Proof.Machine

/-! ### Reading after writing -/

@[simp] theorem Tab.get?_put_self {α : Type} (t : Tab α) (n : Nat) (v : α) : Tab.get? (Tab.put t n v) n = some v := by
  induction t with
  | nil => simp [Tab.put, Tab.get?]
  | cons e t ih =>
    obtain ⟨k, w⟩ := e
    simp only [Tab.put]
    split
    · simp [Tab.get?]
    · split
      · simp [Tab.get?]
      · rename_i h1 h2
        simp [Tab.get?, ih, Ne.symm h2]

theorem Tab.get?_put_ne {α : Type} (t : Tab α) {n k : Nat} (v : α) (h : k ≠ n) : Tab.get? (Tab.put t n v) k = Tab.get? t k := by
  induction t with
  | nil => simp [Tab.put, Tab.get?, Ne.symm h]
  | cons e t ih =>
    obtain ⟨j, w⟩ := e
    simp only [Tab.put]
    split
    · simp [Tab.get?, Ne.symm h]
    · split
      · rename_i h1 h2
        subst h2
        simp [Tab.get?, Ne.symm h]
      · simp [Tab.get?, ih]

@[simp] theorem Tab.get?_del_self {α : Type} (t : Tab α) (n : Nat) : Tab.get? (Tab.del t n) n = none := by
  induction t with
  | nil => rfl
  | cons e t ih =>
    obtain ⟨k, w⟩ := e
    simp only [Tab.del]
    split
    · exact ih
    · rename_i h
      simp [Tab.get?, h, ih]

theorem Tab.get?_del_ne {α : Type} (t : Tab α) {n k : Nat} (h : k ≠ n) : Tab.get? (Tab.del t n) k = Tab.get? t k := by
  induction t with
  | nil => rfl
  | cons e t ih =>
    obtain ⟨j, w⟩ := e
    simp only [Tab.del]
    split
    · rename_i h1
      subst h1
      simp [Tab.get?, ih, Ne.symm h]
    · simp [Tab.get?, ih]

@[simp] theorem Tab.getD_put_self {α : Type} (t : Tab α) (n : Nat) (v d : α) : Tab.getD (Tab.put t n v) n d = v := by
  simp [Tab.getD]

theorem Tab.getD_put_ne {α : Type} (t : Tab α) {n k : Nat} (v d : α) (h : k ≠ n) : Tab.getD (Tab.put t n v) k d = Tab.getD t k d := by
  simp [Tab.getD, Tab.get?_put_ne t v h]

/-! ### The canonical form -/

theorem Tab.sortedFrom_mono {α : Type} {t : Tab α} {a b : Nat} (hab : a ≤ b) (h : Tab.sortedFrom b t = true) : Tab.sortedFrom a t = true := by
  cases t with
  | nil => rfl
  | cons e t =>
    simp only [Tab.sortedFrom, Bool.and_eq_true, decide_eq_true_eq] at h ⊢
    exact ⟨by omega, h.2⟩

theorem Tab.sortedFrom_put {α : Type} {t : Tab α} {lo n : Nat} (v : α) (hn : lo ≤ n) (h : Tab.sortedFrom lo t = true) :
    Tab.sortedFrom lo (Tab.put t n v) = true := by
  induction t generalizing lo with
  | nil => simp [Tab.put, Tab.sortedFrom, hn]
  | cons e t ih =>
    obtain ⟨k, w⟩ := e
    simp only [Tab.sortedFrom, Bool.and_eq_true, decide_eq_true_eq] at h
    simp only [Tab.put]
    split
    · simp only [Tab.sortedFrom, Bool.and_eq_true, decide_eq_true_eq]
      exact ⟨hn, by omega, h.2⟩
    · split
      · rename_i h1 h2
        subst h2
        simp only [Tab.sortedFrom, Bool.and_eq_true, decide_eq_true_eq]
        exact ⟨hn, h.2⟩
      · simp only [Tab.sortedFrom, Bool.and_eq_true, decide_eq_true_eq]
        exact ⟨h.1, ih (by omega) h.2⟩

theorem Tab.sortedFrom_filter {α : Type} {t : Tab α} (p : Nat × α → Bool) {lo : Nat} (h : Tab.sortedFrom lo t = true) :
    Tab.sortedFrom lo (t.filter p) = true := by
  induction t generalizing lo with
  | nil => rfl
  | cons e t ih =>
    obtain ⟨k, w⟩ := e
    simp only [Tab.sortedFrom, Bool.and_eq_true, decide_eq_true_eq] at h
    simp only [List.filter]
    split
    · simp only [Tab.sortedFrom, Bool.and_eq_true, decide_eq_true_eq]
      exact ⟨h.1, ih h.2⟩
    · exact Tab.sortedFrom_mono (by omega) (ih h.2)

theorem Tab.del_eq_filter {α : Type} (t : Tab α) (n : Nat) : Tab.del t n = t.filter (fun e => !(e.1 == n)) := by
  induction t with
  | nil => rfl
  | cons e t ih =>
    obtain ⟨k, w⟩ := e
    simp only [Tab.del, List.filter]
    split
    · rename_i h
      simp [h, ih]
    · rename_i h
      have : (k == n) = false := by simpa using h
      simp [this, ih]

theorem Tab.wf_put {α : Type} {t : Tab α} (n : Nat) (v : α) (h : Tab.wf t = true) : Tab.wf (Tab.put t n v) = true :=
  Tab.sortedFrom_put v (Nat.zero_le n) h
theorem Tab.wf_filter {α : Type} {t : Tab α} (p : Nat × α → Bool) (h : Tab.wf t = true) : Tab.wf (t.filter p) = true :=
  Tab.sortedFrom_filter p h
theorem Tab.wf_del {α : Type} {t : Tab α} (n : Nat) (h : Tab.wf t = true) : Tab.wf (Tab.del t n) = true := by
  rw [Tab.del_eq_filter]
  exact Tab.wf_filter _ h

theorem Tab.mem_put {α : Type} {t : Tab α} {n : Nat} {v : α} {e : Nat × α} (h : e ∈ Tab.put t n v) : e = (n, v) ∨ e ∈ t := by
  induction t with
  | nil => simp only [Tab.put, List.mem_singleton] at h; exact .inl h
  | cons x t ih =>
    obtain ⟨k, w⟩ := x
    simp only [Tab.put] at h
    split at h
    · rcases List.mem_cons.1 h with h | h
      · exact .inl h
      · exact .inr h
    · split at h
      · rcases List.mem_cons.1 h with h | h
        · exact .inl h
        · exact .inr (List.mem_cons_of_mem _ h)
      · rcases List.mem_cons.1 h with h | h
        · exact .inr (h ▸ List.mem_cons_self)
        · rcases ih h with h | h
          · exact .inl h
          · exact .inr (List.mem_cons_of_mem _ h)

/-! ### Byte memories -/

@[simp] theorem Memory.get_set_self (m : Memory) (a : Nat) (b : Byte) : (m.set a b).get a = b := by
  simp only [Memory.set, Memory.get, Tab.getD]
  split
  · rename_i h
    simp [h]
  · simp

theorem Memory.get_set_ne (m : Memory) {a c : Nat} (b : Byte) (h : c ≠ a) : (m.set a b).get c = m.get c := by
  simp only [Memory.set, Memory.get, Tab.getD]
  split
  · rw [Tab.get?_del_ne _ h]
  · rw [Tab.get?_put_ne _ _ h]

theorem Memory.wf_nil : Memory.wf [] = true := rfl

theorem Memory.wf_set {m : Memory} (a : Nat) (b : Byte) (h : m.wf = true) : (m.set a b).wf = true := by
  simp only [Memory.wf, Bool.and_eq_true, List.all_eq_true] at h ⊢
  simp only [Memory.set]
  split
  · refine ⟨Tab.wf_del _ h.1, fun x hx => h.2 x ?_⟩
    rw [Tab.del_eq_filter] at hx
    exact (List.mem_filter.1 hx).1
  · rename_i hb
    refine ⟨Tab.wf_put _ _ h.1, fun x hx => ?_⟩
    rcases Tab.mem_put hx with rfl | hx
    · simpa using hb
    · exact h.2 x hx

theorem Memory.wf_setBytes {m : Memory} (a : Nat) (l : List Byte) (h : m.wf = true) : (m.setBytes a l).wf = true := by
  induction l generalizing m a with
  | nil => exact h
  | cons b l ih => exact ih _ (Memory.wf_set a b h)

theorem Memory.wf_sets {m : Memory} (l : List (Nat × Byte)) (h : m.wf = true) :
    (l.foldl (fun (m : Memory) (e : Nat × Byte) => m.set e.1 e.2) m).wf = true := by
  induction l generalizing m with
  | nil => exact h
  | cons e l ih => exact ih (Memory.wf_set _ _ h)

/-- A byte outside those written reads as before. -/
theorem Memory.get_setBytes_ne (m : Memory) (a c : Nat) (l : List Byte) (h : c < a ∨ a + l.length ≤ c) :
    (m.setBytes a l).get c = m.get c := by
  induction l generalizing m a with
  | nil => rfl
  | cons b l ih =>
    simp only [List.length_cons] at h
    simp only [Memory.setBytes]
    rw [ih (m.set a b) (a + 1) (by omega), Memory.get_set_ne m b (by omega)]

/-- Byte `i` of those written reads as it was written. -/
theorem Memory.get_setBytes (m : Memory) (a i : Nat) (l : List Byte) (h : i < l.length) : (m.setBytes a l).get (a + i) = l[i] := by
  induction l generalizing m a i with
  | nil => simp at h
  | cons b l ih =>
    simp only [Memory.setBytes]
    cases i with
    | zero =>
      rw [Memory.get_setBytes_ne _ _ _ _ (by omega)]
      simp
    | succ i =>
      have := ih (m.set a b) (a + 1) i (by simpa using h)
      rw [show a + (i + 1) = a + 1 + i by omega, this]
      simp

/-- What was written is read back. -/
theorem Memory.bytes_setBytes (m : Memory) (a : Nat) (l : List Byte) : (m.setBytes a l).bytes a l.length = l := by
  induction l generalizing m a with
  | nil => rfl
  | cons b l ih =>
    simp only [Memory.setBytes, List.length_cons, Memory.bytes]
    rw [ih (m.set a b) (a + 1), Memory.get_setBytes_ne _ _ _ _ (by omega)]
    simp

end Sys2Proof.Machine
end

