-- ==== Sys2Proof/Laws/State.lean ====
section
/-!
SUPPORT. Laws/State.lean: the small lemmas of the state: what each update leaves alone, and what each accessor reads after it.
-/
namespace Sys2Proof.Machine

/-! ### What an update leaves alone -/

@[simp] theorem State.setReg_pending (s : State) (r : Reg) (i : Nat) (v : RegVal) : (s.setReg r i v).pending = s.pending := rfl
@[simp] theorem State.setReg_freeCtr (s : State) (r : Reg) (i : Nat) (v : RegVal) : (s.setReg r i v).freeCtr = s.freeCtr := rfl
@[simp] theorem State.setReg_ns (s : State) (r : Reg) (i : Nat) (v : RegVal) : (s.setReg r i v).ns = s.ns := rfl
@[simp] theorem State.setReg_eng (s : State) (r : Reg) (i : Nat) (v : RegVal) : (s.setReg r i v).eng = s.eng := rfl
@[simp] theorem State.setReg_tab (s : State) (r : Reg) (i : Nat) (v : RegVal) : (s.setReg r i v).tab = s.tab := rfl
@[simp] theorem State.setReg_led (s : State) (r : Reg) (i : Nat) (v : RegVal) : (s.setReg r i v).led = s.led := rfl
@[simp] theorem State.setReg_buf (s : State) (r : Reg) (i : Nat) (v : RegVal) : (s.setReg r i v).buf = s.buf := rfl
@[simp] theorem State.setReg_tm (s : State) (r : Reg) (i : Nat) (v : RegVal) : (s.setReg r i v).tm = s.tm := rfl
@[simp] theorem State.setReg_ports (s : State) (r : Reg) (i : Nat) (v : RegVal) : (s.setReg r i v).ports = s.ports := rfl
@[simp] theorem State.setReg_time (s : State) (r : Reg) (i : Nat) (v : RegVal) : (s.setReg r i v).time = s.time := rfl
@[simp] theorem State.setReg_cmd (s : State) (r : Reg) (i : Nat) (v : RegVal) : (s.setReg r i v).cmd = s.cmd := rfl
@[simp] theorem State.setReg_tug (s : State) (r : Reg) (i : Nat) (v : RegVal) : (s.setReg r i v).tug = s.tug := rfl
@[simp] theorem State.setReg_host (s : State) (r : Reg) (i : Nat) (v : RegVal) : (s.setReg r i v).host = s.host := rfl
@[simp] theorem State.setReg_log (s : State) (r : Reg) (i : Nat) (v : RegVal) : (s.setReg r i v).log = s.log := rfl
@[simp] theorem State.setReg_hbor (s : State) (r : Reg) (i : Nat) (v : RegVal) : (s.setReg r i v).hbor = s.hbor := rfl
@[simp] theorem State.setReg_mode (s : State) (r : Reg) (i : Nat) (v : RegVal) : (s.setReg r i v).mode = s.mode := rfl
@[simp] theorem State.setReg_dmem (s : State) (r : Reg) (i : Nat) (v : RegVal) : (s.setReg r i v).dmem = s.dmem := rfl
@[simp] theorem State.setReg_hbm (s : State) (r : Reg) (i : Nat) (v : RegVal) : (s.setReg r i v).hbm = s.hbm := rfl
@[simp] theorem State.setReg_hostMem (s : State) (r : Reg) (i : Nat) (v : RegVal) : (s.setReg r i v).hostMem = s.hostMem := rfl
@[simp] theorem State.setReg_hbmBad (s : State) (r : Reg) (i : Nat) (v : RegVal) : (s.setReg r i v).hbmBad = s.hbmBad := rfl
@[simp] theorem State.setReg_out (s : State) (r : Reg) (i : Nat) (v : RegVal) : (s.setReg r i v).out = s.out := rfl
@[simp] theorem State.set_pending (s : State) (f : Fld) (i v : Nat) : (s.set f i v).pending = s.pending := rfl
@[simp] theorem State.set_freeCtr (s : State) (f : Fld) (i v : Nat) : (s.set f i v).freeCtr = s.freeCtr := rfl
@[simp] theorem State.set_ns (s : State) (f : Fld) (i v : Nat) : (s.set f i v).ns = s.ns := rfl
@[simp] theorem State.set_eng (s : State) (f : Fld) (i v : Nat) : (s.set f i v).eng = s.eng := rfl
@[simp] theorem State.set_tab (s : State) (f : Fld) (i v : Nat) : (s.set f i v).tab = s.tab := rfl
@[simp] theorem State.set_led (s : State) (f : Fld) (i v : Nat) : (s.set f i v).led = s.led := rfl
@[simp] theorem State.set_buf (s : State) (f : Fld) (i v : Nat) : (s.set f i v).buf = s.buf := rfl
@[simp] theorem State.set_tm (s : State) (f : Fld) (i v : Nat) : (s.set f i v).tm = s.tm := rfl
@[simp] theorem State.set_ports (s : State) (f : Fld) (i v : Nat) : (s.set f i v).ports = s.ports := rfl
@[simp] theorem State.set_time (s : State) (f : Fld) (i v : Nat) : (s.set f i v).time = s.time := rfl
@[simp] theorem State.set_cmd (s : State) (f : Fld) (i v : Nat) : (s.set f i v).cmd = s.cmd := rfl
@[simp] theorem State.set_tug (s : State) (f : Fld) (i v : Nat) : (s.set f i v).tug = s.tug := rfl
@[simp] theorem State.set_host (s : State) (f : Fld) (i v : Nat) : (s.set f i v).host = s.host := rfl
@[simp] theorem State.set_log (s : State) (f : Fld) (i v : Nat) : (s.set f i v).log = s.log := rfl
@[simp] theorem State.set_hbor (s : State) (f : Fld) (i v : Nat) : (s.set f i v).hbor = s.hbor := rfl
@[simp] theorem State.set_mode (s : State) (f : Fld) (i v : Nat) : (s.set f i v).mode = s.mode := rfl
@[simp] theorem State.set_dmem (s : State) (f : Fld) (i v : Nat) : (s.set f i v).dmem = s.dmem := rfl
@[simp] theorem State.set_hbm (s : State) (f : Fld) (i v : Nat) : (s.set f i v).hbm = s.hbm := rfl
@[simp] theorem State.set_hostMem (s : State) (f : Fld) (i v : Nat) : (s.set f i v).hostMem = s.hostMem := rfl
@[simp] theorem State.set_hbmBad (s : State) (f : Fld) (i v : Nat) : (s.set f i v).hbmBad = s.hbmBad := rfl
@[simp] theorem State.set_out (s : State) (f : Fld) (i v : Nat) : (s.set f i v).out = s.out := rfl
@[simp] theorem State.setBit_pending (s : State) (f : Fld) (i : Nat) (b : Bool) : (s.setBit f i b).pending = s.pending := rfl
@[simp] theorem State.setBit_freeCtr (s : State) (f : Fld) (i : Nat) (b : Bool) : (s.setBit f i b).freeCtr = s.freeCtr := rfl
@[simp] theorem State.setBit_ns (s : State) (f : Fld) (i : Nat) (b : Bool) : (s.setBit f i b).ns = s.ns := rfl
@[simp] theorem State.setBit_eng (s : State) (f : Fld) (i : Nat) (b : Bool) : (s.setBit f i b).eng = s.eng := rfl
@[simp] theorem State.setBit_tab (s : State) (f : Fld) (i : Nat) (b : Bool) : (s.setBit f i b).tab = s.tab := rfl
@[simp] theorem State.setBit_led (s : State) (f : Fld) (i : Nat) (b : Bool) : (s.setBit f i b).led = s.led := rfl
@[simp] theorem State.setBit_buf (s : State) (f : Fld) (i : Nat) (b : Bool) : (s.setBit f i b).buf = s.buf := rfl
@[simp] theorem State.setBit_tm (s : State) (f : Fld) (i : Nat) (b : Bool) : (s.setBit f i b).tm = s.tm := rfl
@[simp] theorem State.setBit_ports (s : State) (f : Fld) (i : Nat) (b : Bool) : (s.setBit f i b).ports = s.ports := rfl
@[simp] theorem State.setBit_time (s : State) (f : Fld) (i : Nat) (b : Bool) : (s.setBit f i b).time = s.time := rfl
@[simp] theorem State.setBit_cmd (s : State) (f : Fld) (i : Nat) (b : Bool) : (s.setBit f i b).cmd = s.cmd := rfl
@[simp] theorem State.setBit_tug (s : State) (f : Fld) (i : Nat) (b : Bool) : (s.setBit f i b).tug = s.tug := rfl
@[simp] theorem State.setBit_host (s : State) (f : Fld) (i : Nat) (b : Bool) : (s.setBit f i b).host = s.host := rfl
@[simp] theorem State.setBit_log (s : State) (f : Fld) (i : Nat) (b : Bool) : (s.setBit f i b).log = s.log := rfl
@[simp] theorem State.setBit_hbor (s : State) (f : Fld) (i : Nat) (b : Bool) : (s.setBit f i b).hbor = s.hbor := rfl
@[simp] theorem State.setBit_mode (s : State) (f : Fld) (i : Nat) (b : Bool) : (s.setBit f i b).mode = s.mode := rfl
@[simp] theorem State.setBit_dmem (s : State) (f : Fld) (i : Nat) (b : Bool) : (s.setBit f i b).dmem = s.dmem := rfl
@[simp] theorem State.setBit_hbm (s : State) (f : Fld) (i : Nat) (b : Bool) : (s.setBit f i b).hbm = s.hbm := rfl
@[simp] theorem State.setBit_hostMem (s : State) (f : Fld) (i : Nat) (b : Bool) : (s.setBit f i b).hostMem = s.hostMem := rfl
@[simp] theorem State.setBit_hbmBad (s : State) (f : Fld) (i : Nat) (b : Bool) : (s.setBit f i b).hbmBad = s.hbmBad := rfl
@[simp] theorem State.setBit_out (s : State) (f : Fld) (i : Nat) (b : Bool) : (s.setBit f i b).out = s.out := rfl
@[simp] theorem State.addTo_pending (s : State) (f : Fld) (i n : Nat) : (s.addTo f i n).pending = s.pending := rfl
@[simp] theorem State.addTo_freeCtr (s : State) (f : Fld) (i n : Nat) : (s.addTo f i n).freeCtr = s.freeCtr := rfl
@[simp] theorem State.addTo_ns (s : State) (f : Fld) (i n : Nat) : (s.addTo f i n).ns = s.ns := rfl
@[simp] theorem State.addTo_eng (s : State) (f : Fld) (i n : Nat) : (s.addTo f i n).eng = s.eng := rfl
@[simp] theorem State.addTo_tab (s : State) (f : Fld) (i n : Nat) : (s.addTo f i n).tab = s.tab := rfl
@[simp] theorem State.addTo_led (s : State) (f : Fld) (i n : Nat) : (s.addTo f i n).led = s.led := rfl
@[simp] theorem State.addTo_buf (s : State) (f : Fld) (i n : Nat) : (s.addTo f i n).buf = s.buf := rfl
@[simp] theorem State.addTo_tm (s : State) (f : Fld) (i n : Nat) : (s.addTo f i n).tm = s.tm := rfl
@[simp] theorem State.addTo_ports (s : State) (f : Fld) (i n : Nat) : (s.addTo f i n).ports = s.ports := rfl
@[simp] theorem State.addTo_time (s : State) (f : Fld) (i n : Nat) : (s.addTo f i n).time = s.time := rfl
@[simp] theorem State.addTo_cmd (s : State) (f : Fld) (i n : Nat) : (s.addTo f i n).cmd = s.cmd := rfl
@[simp] theorem State.addTo_tug (s : State) (f : Fld) (i n : Nat) : (s.addTo f i n).tug = s.tug := rfl
@[simp] theorem State.addTo_host (s : State) (f : Fld) (i n : Nat) : (s.addTo f i n).host = s.host := rfl
@[simp] theorem State.addTo_log (s : State) (f : Fld) (i n : Nat) : (s.addTo f i n).log = s.log := rfl
@[simp] theorem State.addTo_hbor (s : State) (f : Fld) (i n : Nat) : (s.addTo f i n).hbor = s.hbor := rfl
@[simp] theorem State.addTo_mode (s : State) (f : Fld) (i n : Nat) : (s.addTo f i n).mode = s.mode := rfl
@[simp] theorem State.addTo_dmem (s : State) (f : Fld) (i n : Nat) : (s.addTo f i n).dmem = s.dmem := rfl
@[simp] theorem State.addTo_hbm (s : State) (f : Fld) (i n : Nat) : (s.addTo f i n).hbm = s.hbm := rfl
@[simp] theorem State.addTo_hostMem (s : State) (f : Fld) (i n : Nat) : (s.addTo f i n).hostMem = s.hostMem := rfl
@[simp] theorem State.addTo_hbmBad (s : State) (f : Fld) (i n : Nat) : (s.addTo f i n).hbmBad = s.hbmBad := rfl
@[simp] theorem State.addTo_out (s : State) (f : Fld) (i n : Nat) : (s.addTo f i n).out = s.out := rfl
@[simp] theorem State.bump_pending (s : State) (f : Fld) (i : Nat) : (s.bump f i).pending = s.pending := rfl
@[simp] theorem State.bump_freeCtr (s : State) (f : Fld) (i : Nat) : (s.bump f i).freeCtr = s.freeCtr := rfl
@[simp] theorem State.bump_ns (s : State) (f : Fld) (i : Nat) : (s.bump f i).ns = s.ns := rfl
@[simp] theorem State.bump_eng (s : State) (f : Fld) (i : Nat) : (s.bump f i).eng = s.eng := rfl
@[simp] theorem State.bump_tab (s : State) (f : Fld) (i : Nat) : (s.bump f i).tab = s.tab := rfl
@[simp] theorem State.bump_led (s : State) (f : Fld) (i : Nat) : (s.bump f i).led = s.led := rfl
@[simp] theorem State.bump_buf (s : State) (f : Fld) (i : Nat) : (s.bump f i).buf = s.buf := rfl
@[simp] theorem State.bump_tm (s : State) (f : Fld) (i : Nat) : (s.bump f i).tm = s.tm := rfl
@[simp] theorem State.bump_ports (s : State) (f : Fld) (i : Nat) : (s.bump f i).ports = s.ports := rfl
@[simp] theorem State.bump_time (s : State) (f : Fld) (i : Nat) : (s.bump f i).time = s.time := rfl
@[simp] theorem State.bump_cmd (s : State) (f : Fld) (i : Nat) : (s.bump f i).cmd = s.cmd := rfl
@[simp] theorem State.bump_tug (s : State) (f : Fld) (i : Nat) : (s.bump f i).tug = s.tug := rfl
@[simp] theorem State.bump_host (s : State) (f : Fld) (i : Nat) : (s.bump f i).host = s.host := rfl
@[simp] theorem State.bump_log (s : State) (f : Fld) (i : Nat) : (s.bump f i).log = s.log := rfl
@[simp] theorem State.bump_hbor (s : State) (f : Fld) (i : Nat) : (s.bump f i).hbor = s.hbor := rfl
@[simp] theorem State.bump_mode (s : State) (f : Fld) (i : Nat) : (s.bump f i).mode = s.mode := rfl
@[simp] theorem State.bump_dmem (s : State) (f : Fld) (i : Nat) : (s.bump f i).dmem = s.dmem := rfl
@[simp] theorem State.bump_hbm (s : State) (f : Fld) (i : Nat) : (s.bump f i).hbm = s.hbm := rfl
@[simp] theorem State.bump_hostMem (s : State) (f : Fld) (i : Nat) : (s.bump f i).hostMem = s.hostMem := rfl
@[simp] theorem State.bump_hbmBad (s : State) (f : Fld) (i : Nat) : (s.bump f i).hbmBad = s.hbmBad := rfl
@[simp] theorem State.bump_out (s : State) (f : Fld) (i : Nat) : (s.bump f i).out = s.out := rfl
@[simp] theorem State.setCtx_pending (s : State) (x : CtxId) (c : Ctx) : (s.setCtx x c).pending = s.pending := rfl
@[simp] theorem State.setCtx_freeCtr (s : State) (x : CtxId) (c : Ctx) : (s.setCtx x c).freeCtr = s.freeCtr := rfl
@[simp] theorem State.setCtx_ns (s : State) (x : CtxId) (c : Ctx) : (s.setCtx x c).ns = s.ns := rfl
@[simp] theorem State.setCtx_regs (s : State) (x : CtxId) (c : Ctx) : (s.setCtx x c).regs = s.regs := rfl
@[simp] theorem State.setCtx_tab (s : State) (x : CtxId) (c : Ctx) : (s.setCtx x c).tab = s.tab := rfl
@[simp] theorem State.setCtx_led (s : State) (x : CtxId) (c : Ctx) : (s.setCtx x c).led = s.led := rfl
@[simp] theorem State.setCtx_buf (s : State) (x : CtxId) (c : Ctx) : (s.setCtx x c).buf = s.buf := rfl
@[simp] theorem State.setCtx_tm (s : State) (x : CtxId) (c : Ctx) : (s.setCtx x c).tm = s.tm := rfl
@[simp] theorem State.setCtx_ports (s : State) (x : CtxId) (c : Ctx) : (s.setCtx x c).ports = s.ports := rfl
@[simp] theorem State.setCtx_time (s : State) (x : CtxId) (c : Ctx) : (s.setCtx x c).time = s.time := rfl
@[simp] theorem State.setCtx_cmd (s : State) (x : CtxId) (c : Ctx) : (s.setCtx x c).cmd = s.cmd := rfl
@[simp] theorem State.setCtx_tug (s : State) (x : CtxId) (c : Ctx) : (s.setCtx x c).tug = s.tug := rfl
@[simp] theorem State.setCtx_host (s : State) (x : CtxId) (c : Ctx) : (s.setCtx x c).host = s.host := rfl
@[simp] theorem State.setCtx_log (s : State) (x : CtxId) (c : Ctx) : (s.setCtx x c).log = s.log := rfl
@[simp] theorem State.setCtx_hbor (s : State) (x : CtxId) (c : Ctx) : (s.setCtx x c).hbor = s.hbor := rfl
@[simp] theorem State.setCtx_mode (s : State) (x : CtxId) (c : Ctx) : (s.setCtx x c).mode = s.mode := rfl
@[simp] theorem State.setCtx_dmem (s : State) (x : CtxId) (c : Ctx) : (s.setCtx x c).dmem = s.dmem := rfl
@[simp] theorem State.setCtx_hbm (s : State) (x : CtxId) (c : Ctx) : (s.setCtx x c).hbm = s.hbm := rfl
@[simp] theorem State.setCtx_hostMem (s : State) (x : CtxId) (c : Ctx) : (s.setCtx x c).hostMem = s.hostMem := rfl
@[simp] theorem State.setCtx_hbmBad (s : State) (x : CtxId) (c : Ctx) : (s.setCtx x c).hbmBad = s.hbmBad := rfl
@[simp] theorem State.setCtx_out (s : State) (x : CtxId) (c : Ctx) : (s.setCtx x c).out = s.out := rfl
@[simp] theorem State.delCtx_pending (s : State) (x : CtxId) : (s.delCtx x).pending = s.pending := rfl
@[simp] theorem State.delCtx_freeCtr (s : State) (x : CtxId) : (s.delCtx x).freeCtr = s.freeCtr := rfl
@[simp] theorem State.delCtx_ns (s : State) (x : CtxId) : (s.delCtx x).ns = s.ns := rfl
@[simp] theorem State.delCtx_regs (s : State) (x : CtxId) : (s.delCtx x).regs = s.regs := rfl
@[simp] theorem State.delCtx_tab (s : State) (x : CtxId) : (s.delCtx x).tab = s.tab := rfl
@[simp] theorem State.delCtx_led (s : State) (x : CtxId) : (s.delCtx x).led = s.led := rfl
@[simp] theorem State.delCtx_buf (s : State) (x : CtxId) : (s.delCtx x).buf = s.buf := rfl
@[simp] theorem State.delCtx_tm (s : State) (x : CtxId) : (s.delCtx x).tm = s.tm := rfl
@[simp] theorem State.delCtx_ports (s : State) (x : CtxId) : (s.delCtx x).ports = s.ports := rfl
@[simp] theorem State.delCtx_time (s : State) (x : CtxId) : (s.delCtx x).time = s.time := rfl
@[simp] theorem State.delCtx_cmd (s : State) (x : CtxId) : (s.delCtx x).cmd = s.cmd := rfl
@[simp] theorem State.delCtx_tug (s : State) (x : CtxId) : (s.delCtx x).tug = s.tug := rfl
@[simp] theorem State.delCtx_host (s : State) (x : CtxId) : (s.delCtx x).host = s.host := rfl
@[simp] theorem State.delCtx_log (s : State) (x : CtxId) : (s.delCtx x).log = s.log := rfl
@[simp] theorem State.delCtx_hbor (s : State) (x : CtxId) : (s.delCtx x).hbor = s.hbor := rfl
@[simp] theorem State.delCtx_mode (s : State) (x : CtxId) : (s.delCtx x).mode = s.mode := rfl
@[simp] theorem State.delCtx_dmem (s : State) (x : CtxId) : (s.delCtx x).dmem = s.dmem := rfl
@[simp] theorem State.delCtx_hbm (s : State) (x : CtxId) : (s.delCtx x).hbm = s.hbm := rfl
@[simp] theorem State.delCtx_hostMem (s : State) (x : CtxId) : (s.delCtx x).hostMem = s.hostMem := rfl
@[simp] theorem State.delCtx_hbmBad (s : State) (x : CtxId) : (s.delCtx x).hbmBad = s.hbmBad := rfl
@[simp] theorem State.delCtx_out (s : State) (x : CtxId) : (s.delCtx x).out = s.out := rfl
@[simp] theorem State.zeroG_pending (s : State) (x : CtxId) : (s.zeroG x).pending = s.pending := rfl
@[simp] theorem State.zeroG_freeCtr (s : State) (x : CtxId) : (s.zeroG x).freeCtr = s.freeCtr := rfl
@[simp] theorem State.zeroG_ns (s : State) (x : CtxId) : (s.zeroG x).ns = s.ns := rfl
@[simp] theorem State.zeroG_regs (s : State) (x : CtxId) : (s.zeroG x).regs = s.regs := rfl
@[simp] theorem State.zeroG_tab (s : State) (x : CtxId) : (s.zeroG x).tab = s.tab := rfl
@[simp] theorem State.zeroG_led (s : State) (x : CtxId) : (s.zeroG x).led = s.led := rfl
@[simp] theorem State.zeroG_buf (s : State) (x : CtxId) : (s.zeroG x).buf = s.buf := rfl
@[simp] theorem State.zeroG_tm (s : State) (x : CtxId) : (s.zeroG x).tm = s.tm := rfl
@[simp] theorem State.zeroG_ports (s : State) (x : CtxId) : (s.zeroG x).ports = s.ports := rfl
@[simp] theorem State.zeroG_time (s : State) (x : CtxId) : (s.zeroG x).time = s.time := rfl
@[simp] theorem State.zeroG_cmd (s : State) (x : CtxId) : (s.zeroG x).cmd = s.cmd := rfl
@[simp] theorem State.zeroG_tug (s : State) (x : CtxId) : (s.zeroG x).tug = s.tug := rfl
@[simp] theorem State.zeroG_host (s : State) (x : CtxId) : (s.zeroG x).host = s.host := rfl
@[simp] theorem State.zeroG_log (s : State) (x : CtxId) : (s.zeroG x).log = s.log := rfl
@[simp] theorem State.zeroG_hbor (s : State) (x : CtxId) : (s.zeroG x).hbor = s.hbor := rfl
@[simp] theorem State.zeroG_mode (s : State) (x : CtxId) : (s.zeroG x).mode = s.mode := rfl
@[simp] theorem State.zeroG_dmem (s : State) (x : CtxId) : (s.zeroG x).dmem = s.dmem := rfl
@[simp] theorem State.zeroG_hbm (s : State) (x : CtxId) : (s.zeroG x).hbm = s.hbm := rfl
@[simp] theorem State.zeroG_hostMem (s : State) (x : CtxId) : (s.zeroG x).hostMem = s.hostMem := rfl
@[simp] theorem State.zeroG_hbmBad (s : State) (x : CtxId) : (s.zeroG x).hbmBad = s.hbmBad := rfl
@[simp] theorem State.zeroG_out (s : State) (x : CtxId) : (s.zeroG x).out = s.out := rfl
@[simp] theorem State.setFrame_pending (s : State) (n : Nat) (f : Frame) : (s.setFrame n f).pending = s.pending := rfl
@[simp] theorem State.setFrame_freeCtr (s : State) (n : Nat) (f : Frame) : (s.setFrame n f).freeCtr = s.freeCtr := rfl
@[simp] theorem State.setFrame_ns (s : State) (n : Nat) (f : Frame) : (s.setFrame n f).ns = s.ns := rfl
@[simp] theorem State.setFrame_regs (s : State) (n : Nat) (f : Frame) : (s.setFrame n f).regs = s.regs := rfl
@[simp] theorem State.setFrame_tab (s : State) (n : Nat) (f : Frame) : (s.setFrame n f).tab = s.tab := rfl
@[simp] theorem State.setFrame_led (s : State) (n : Nat) (f : Frame) : (s.setFrame n f).led = s.led := rfl
@[simp] theorem State.setFrame_buf (s : State) (n : Nat) (f : Frame) : (s.setFrame n f).buf = s.buf := rfl
@[simp] theorem State.setFrame_tm (s : State) (n : Nat) (f : Frame) : (s.setFrame n f).tm = s.tm := rfl
@[simp] theorem State.setFrame_ports (s : State) (n : Nat) (f : Frame) : (s.setFrame n f).ports = s.ports := rfl
@[simp] theorem State.setFrame_time (s : State) (n : Nat) (f : Frame) : (s.setFrame n f).time = s.time := rfl
@[simp] theorem State.setFrame_cmd (s : State) (n : Nat) (f : Frame) : (s.setFrame n f).cmd = s.cmd := rfl
@[simp] theorem State.setFrame_tug (s : State) (n : Nat) (f : Frame) : (s.setFrame n f).tug = s.tug := rfl
@[simp] theorem State.setFrame_host (s : State) (n : Nat) (f : Frame) : (s.setFrame n f).host = s.host := rfl
@[simp] theorem State.setFrame_log (s : State) (n : Nat) (f : Frame) : (s.setFrame n f).log = s.log := rfl
@[simp] theorem State.setFrame_hbor (s : State) (n : Nat) (f : Frame) : (s.setFrame n f).hbor = s.hbor := rfl
@[simp] theorem State.setFrame_mode (s : State) (n : Nat) (f : Frame) : (s.setFrame n f).mode = s.mode := rfl
@[simp] theorem State.setFrame_dmem (s : State) (n : Nat) (f : Frame) : (s.setFrame n f).dmem = s.dmem := rfl
@[simp] theorem State.setFrame_hbm (s : State) (n : Nat) (f : Frame) : (s.setFrame n f).hbm = s.hbm := rfl
@[simp] theorem State.setFrame_hostMem (s : State) (n : Nat) (f : Frame) : (s.setFrame n f).hostMem = s.hostMem := rfl
@[simp] theorem State.setFrame_hbmBad (s : State) (n : Nat) (f : Frame) : (s.setFrame n f).hbmBad = s.hbmBad := rfl
@[simp] theorem State.setFrame_out (s : State) (n : Nat) (f : Frame) : (s.setFrame n f).out = s.out := rfl
@[simp] theorem State.delFrame_pending (s : State) (n : Nat) : (s.delFrame n).pending = s.pending := rfl
@[simp] theorem State.delFrame_freeCtr (s : State) (n : Nat) : (s.delFrame n).freeCtr = s.freeCtr := rfl
@[simp] theorem State.delFrame_ns (s : State) (n : Nat) : (s.delFrame n).ns = s.ns := rfl
@[simp] theorem State.delFrame_regs (s : State) (n : Nat) : (s.delFrame n).regs = s.regs := rfl
@[simp] theorem State.delFrame_tab (s : State) (n : Nat) : (s.delFrame n).tab = s.tab := rfl
@[simp] theorem State.delFrame_led (s : State) (n : Nat) : (s.delFrame n).led = s.led := rfl
@[simp] theorem State.delFrame_buf (s : State) (n : Nat) : (s.delFrame n).buf = s.buf := rfl
@[simp] theorem State.delFrame_tm (s : State) (n : Nat) : (s.delFrame n).tm = s.tm := rfl
@[simp] theorem State.delFrame_ports (s : State) (n : Nat) : (s.delFrame n).ports = s.ports := rfl
@[simp] theorem State.delFrame_time (s : State) (n : Nat) : (s.delFrame n).time = s.time := rfl
@[simp] theorem State.delFrame_cmd (s : State) (n : Nat) : (s.delFrame n).cmd = s.cmd := rfl
@[simp] theorem State.delFrame_tug (s : State) (n : Nat) : (s.delFrame n).tug = s.tug := rfl
@[simp] theorem State.delFrame_host (s : State) (n : Nat) : (s.delFrame n).host = s.host := rfl
@[simp] theorem State.delFrame_log (s : State) (n : Nat) : (s.delFrame n).log = s.log := rfl
@[simp] theorem State.delFrame_hbor (s : State) (n : Nat) : (s.delFrame n).hbor = s.hbor := rfl
@[simp] theorem State.delFrame_mode (s : State) (n : Nat) : (s.delFrame n).mode = s.mode := rfl
@[simp] theorem State.delFrame_dmem (s : State) (n : Nat) : (s.delFrame n).dmem = s.dmem := rfl
@[simp] theorem State.delFrame_hbm (s : State) (n : Nat) : (s.delFrame n).hbm = s.hbm := rfl
@[simp] theorem State.delFrame_hostMem (s : State) (n : Nat) : (s.delFrame n).hostMem = s.hostMem := rfl
@[simp] theorem State.delFrame_hbmBad (s : State) (n : Nat) : (s.delFrame n).hbmBad = s.hbmBad := rfl
@[simp] theorem State.delFrame_out (s : State) (n : Nat) : (s.delFrame n).out = s.out := rfl
@[simp] theorem State.setQuay_pending (s : State) (q : Nat) (v : QuaySt) : (s.setQuay q v).pending = s.pending := rfl
@[simp] theorem State.setQuay_freeCtr (s : State) (q : Nat) (v : QuaySt) : (s.setQuay q v).freeCtr = s.freeCtr := rfl
@[simp] theorem State.setQuay_ns (s : State) (q : Nat) (v : QuaySt) : (s.setQuay q v).ns = s.ns := rfl
@[simp] theorem State.setQuay_regs (s : State) (q : Nat) (v : QuaySt) : (s.setQuay q v).regs = s.regs := rfl
@[simp] theorem State.setQuay_tab (s : State) (q : Nat) (v : QuaySt) : (s.setQuay q v).tab = s.tab := rfl
@[simp] theorem State.setQuay_led (s : State) (q : Nat) (v : QuaySt) : (s.setQuay q v).led = s.led := rfl
@[simp] theorem State.setQuay_buf (s : State) (q : Nat) (v : QuaySt) : (s.setQuay q v).buf = s.buf := rfl
@[simp] theorem State.setQuay_tm (s : State) (q : Nat) (v : QuaySt) : (s.setQuay q v).tm = s.tm := rfl
@[simp] theorem State.setQuay_ports (s : State) (q : Nat) (v : QuaySt) : (s.setQuay q v).ports = s.ports := rfl
@[simp] theorem State.setQuay_time (s : State) (q : Nat) (v : QuaySt) : (s.setQuay q v).time = s.time := rfl
@[simp] theorem State.setQuay_cmd (s : State) (q : Nat) (v : QuaySt) : (s.setQuay q v).cmd = s.cmd := rfl
@[simp] theorem State.setQuay_tug (s : State) (q : Nat) (v : QuaySt) : (s.setQuay q v).tug = s.tug := rfl
@[simp] theorem State.setQuay_host (s : State) (q : Nat) (v : QuaySt) : (s.setQuay q v).host = s.host := rfl
@[simp] theorem State.setQuay_log (s : State) (q : Nat) (v : QuaySt) : (s.setQuay q v).log = s.log := rfl
@[simp] theorem State.setQuay_hbor (s : State) (q : Nat) (v : QuaySt) : (s.setQuay q v).hbor = s.hbor := rfl
@[simp] theorem State.setQuay_mode (s : State) (q : Nat) (v : QuaySt) : (s.setQuay q v).mode = s.mode := rfl
@[simp] theorem State.setQuay_dmem (s : State) (q : Nat) (v : QuaySt) : (s.setQuay q v).dmem = s.dmem := rfl
@[simp] theorem State.setQuay_hbm (s : State) (q : Nat) (v : QuaySt) : (s.setQuay q v).hbm = s.hbm := rfl
@[simp] theorem State.setQuay_hostMem (s : State) (q : Nat) (v : QuaySt) : (s.setQuay q v).hostMem = s.hostMem := rfl
@[simp] theorem State.setQuay_hbmBad (s : State) (q : Nat) (v : QuaySt) : (s.setQuay q v).hbmBad = s.hbmBad := rfl
@[simp] theorem State.setQuay_out (s : State) (q : Nat) (v : QuaySt) : (s.setQuay q v).out = s.out := rfl
@[simp] theorem State.setSlice_pending (s : State) (n : Nat) (v : SliceSt) : (s.setSlice n v).pending = s.pending := rfl
@[simp] theorem State.setSlice_freeCtr (s : State) (n : Nat) (v : SliceSt) : (s.setSlice n v).freeCtr = s.freeCtr := rfl
@[simp] theorem State.setSlice_ns (s : State) (n : Nat) (v : SliceSt) : (s.setSlice n v).ns = s.ns := rfl
@[simp] theorem State.setSlice_regs (s : State) (n : Nat) (v : SliceSt) : (s.setSlice n v).regs = s.regs := rfl
@[simp] theorem State.setSlice_eng (s : State) (n : Nat) (v : SliceSt) : (s.setSlice n v).eng = s.eng := rfl
@[simp] theorem State.setSlice_tab (s : State) (n : Nat) (v : SliceSt) : (s.setSlice n v).tab = s.tab := rfl
@[simp] theorem State.setSlice_buf (s : State) (n : Nat) (v : SliceSt) : (s.setSlice n v).buf = s.buf := rfl
@[simp] theorem State.setSlice_tm (s : State) (n : Nat) (v : SliceSt) : (s.setSlice n v).tm = s.tm := rfl
@[simp] theorem State.setSlice_ports (s : State) (n : Nat) (v : SliceSt) : (s.setSlice n v).ports = s.ports := rfl
@[simp] theorem State.setSlice_time (s : State) (n : Nat) (v : SliceSt) : (s.setSlice n v).time = s.time := rfl
@[simp] theorem State.setSlice_cmd (s : State) (n : Nat) (v : SliceSt) : (s.setSlice n v).cmd = s.cmd := rfl
@[simp] theorem State.setSlice_tug (s : State) (n : Nat) (v : SliceSt) : (s.setSlice n v).tug = s.tug := rfl
@[simp] theorem State.setSlice_host (s : State) (n : Nat) (v : SliceSt) : (s.setSlice n v).host = s.host := rfl
@[simp] theorem State.setSlice_log (s : State) (n : Nat) (v : SliceSt) : (s.setSlice n v).log = s.log := rfl
@[simp] theorem State.setSlice_hbor (s : State) (n : Nat) (v : SliceSt) : (s.setSlice n v).hbor = s.hbor := rfl
@[simp] theorem State.setSlice_mode (s : State) (n : Nat) (v : SliceSt) : (s.setSlice n v).mode = s.mode := rfl
@[simp] theorem State.setSlice_dmem (s : State) (n : Nat) (v : SliceSt) : (s.setSlice n v).dmem = s.dmem := rfl
@[simp] theorem State.setSlice_hbm (s : State) (n : Nat) (v : SliceSt) : (s.setSlice n v).hbm = s.hbm := rfl
@[simp] theorem State.setSlice_hostMem (s : State) (n : Nat) (v : SliceSt) : (s.setSlice n v).hostMem = s.hostMem := rfl
@[simp] theorem State.setSlice_hbmBad (s : State) (n : Nat) (v : SliceSt) : (s.setSlice n v).hbmBad = s.hbmBad := rfl
@[simp] theorem State.setSlice_out (s : State) (n : Nat) (v : SliceSt) : (s.setSlice n v).out = s.out := rfl
@[simp] theorem State.setPortSt_pending (s : State) (p : Nat) (v : PortSt) : (s.setPortSt p v).pending = s.pending := rfl
@[simp] theorem State.setPortSt_freeCtr (s : State) (p : Nat) (v : PortSt) : (s.setPortSt p v).freeCtr = s.freeCtr := rfl
@[simp] theorem State.setPortSt_ns (s : State) (p : Nat) (v : PortSt) : (s.setPortSt p v).ns = s.ns := rfl
@[simp] theorem State.setPortSt_regs (s : State) (p : Nat) (v : PortSt) : (s.setPortSt p v).regs = s.regs := rfl
@[simp] theorem State.setPortSt_eng (s : State) (p : Nat) (v : PortSt) : (s.setPortSt p v).eng = s.eng := rfl
@[simp] theorem State.setPortSt_tab (s : State) (p : Nat) (v : PortSt) : (s.setPortSt p v).tab = s.tab := rfl
@[simp] theorem State.setPortSt_led (s : State) (p : Nat) (v : PortSt) : (s.setPortSt p v).led = s.led := rfl
@[simp] theorem State.setPortSt_buf (s : State) (p : Nat) (v : PortSt) : (s.setPortSt p v).buf = s.buf := rfl
@[simp] theorem State.setPortSt_tm (s : State) (p : Nat) (v : PortSt) : (s.setPortSt p v).tm = s.tm := rfl
@[simp] theorem State.setPortSt_time (s : State) (p : Nat) (v : PortSt) : (s.setPortSt p v).time = s.time := rfl
@[simp] theorem State.setPortSt_cmd (s : State) (p : Nat) (v : PortSt) : (s.setPortSt p v).cmd = s.cmd := rfl
@[simp] theorem State.setPortSt_tug (s : State) (p : Nat) (v : PortSt) : (s.setPortSt p v).tug = s.tug := rfl
@[simp] theorem State.setPortSt_host (s : State) (p : Nat) (v : PortSt) : (s.setPortSt p v).host = s.host := rfl
@[simp] theorem State.setPortSt_log (s : State) (p : Nat) (v : PortSt) : (s.setPortSt p v).log = s.log := rfl
@[simp] theorem State.setPortSt_hbor (s : State) (p : Nat) (v : PortSt) : (s.setPortSt p v).hbor = s.hbor := rfl
@[simp] theorem State.setPortSt_mode (s : State) (p : Nat) (v : PortSt) : (s.setPortSt p v).mode = s.mode := rfl
@[simp] theorem State.setPortSt_dmem (s : State) (p : Nat) (v : PortSt) : (s.setPortSt p v).dmem = s.dmem := rfl
@[simp] theorem State.setPortSt_hbm (s : State) (p : Nat) (v : PortSt) : (s.setPortSt p v).hbm = s.hbm := rfl
@[simp] theorem State.setPortSt_hostMem (s : State) (p : Nat) (v : PortSt) : (s.setPortSt p v).hostMem = s.hostMem := rfl
@[simp] theorem State.setPortSt_hbmBad (s : State) (p : Nat) (v : PortSt) : (s.setPortSt p v).hbmBad = s.hbmBad := rfl
@[simp] theorem State.setPortSt_out (s : State) (p : Nat) (v : PortSt) : (s.setPortSt p v).out = s.out := rfl
@[simp] theorem State.setBase_pending (s : State) (b : Nat) (v : Base) : (s.setBase b v).pending = s.pending := rfl
@[simp] theorem State.setBase_freeCtr (s : State) (b : Nat) (v : Base) : (s.setBase b v).freeCtr = s.freeCtr := rfl
@[simp] theorem State.setBase_ns (s : State) (b : Nat) (v : Base) : (s.setBase b v).ns = s.ns := rfl
@[simp] theorem State.setBase_regs (s : State) (b : Nat) (v : Base) : (s.setBase b v).regs = s.regs := rfl
@[simp] theorem State.setBase_eng (s : State) (b : Nat) (v : Base) : (s.setBase b v).eng = s.eng := rfl
@[simp] theorem State.setBase_tab (s : State) (b : Nat) (v : Base) : (s.setBase b v).tab = s.tab := rfl
@[simp] theorem State.setBase_led (s : State) (b : Nat) (v : Base) : (s.setBase b v).led = s.led := rfl
@[simp] theorem State.setBase_buf (s : State) (b : Nat) (v : Base) : (s.setBase b v).buf = s.buf := rfl
@[simp] theorem State.setBase_tm (s : State) (b : Nat) (v : Base) : (s.setBase b v).tm = s.tm := rfl
@[simp] theorem State.setBase_ports (s : State) (b : Nat) (v : Base) : (s.setBase b v).ports = s.ports := rfl
@[simp] theorem State.setBase_cmd (s : State) (b : Nat) (v : Base) : (s.setBase b v).cmd = s.cmd := rfl
@[simp] theorem State.setBase_tug (s : State) (b : Nat) (v : Base) : (s.setBase b v).tug = s.tug := rfl
@[simp] theorem State.setBase_host (s : State) (b : Nat) (v : Base) : (s.setBase b v).host = s.host := rfl
@[simp] theorem State.setBase_log (s : State) (b : Nat) (v : Base) : (s.setBase b v).log = s.log := rfl
@[simp] theorem State.setBase_hbor (s : State) (b : Nat) (v : Base) : (s.setBase b v).hbor = s.hbor := rfl
@[simp] theorem State.setBase_mode (s : State) (b : Nat) (v : Base) : (s.setBase b v).mode = s.mode := rfl
@[simp] theorem State.setBase_dmem (s : State) (b : Nat) (v : Base) : (s.setBase b v).dmem = s.dmem := rfl
@[simp] theorem State.setBase_hbm (s : State) (b : Nat) (v : Base) : (s.setBase b v).hbm = s.hbm := rfl
@[simp] theorem State.setBase_hostMem (s : State) (b : Nat) (v : Base) : (s.setBase b v).hostMem = s.hostMem := rfl
@[simp] theorem State.setBase_hbmBad (s : State) (b : Nat) (v : Base) : (s.setBase b v).hbmBad = s.hbmBad := rfl
@[simp] theorem State.setBase_out (s : State) (b : Nat) (v : Base) : (s.setBase b v).out = s.out := rfl
@[simp] theorem State.setChan_pending (s : State) (c : Nat) (v : ChanSt) : (s.setChan c v).pending = s.pending := rfl
@[simp] theorem State.setChan_freeCtr (s : State) (c : Nat) (v : ChanSt) : (s.setChan c v).freeCtr = s.freeCtr := rfl
@[simp] theorem State.setChan_ns (s : State) (c : Nat) (v : ChanSt) : (s.setChan c v).ns = s.ns := rfl
@[simp] theorem State.setChan_regs (s : State) (c : Nat) (v : ChanSt) : (s.setChan c v).regs = s.regs := rfl
@[simp] theorem State.setChan_eng (s : State) (c : Nat) (v : ChanSt) : (s.setChan c v).eng = s.eng := rfl
@[simp] theorem State.setChan_tab (s : State) (c : Nat) (v : ChanSt) : (s.setChan c v).tab = s.tab := rfl
@[simp] theorem State.setChan_led (s : State) (c : Nat) (v : ChanSt) : (s.setChan c v).led = s.led := rfl
@[simp] theorem State.setChan_buf (s : State) (c : Nat) (v : ChanSt) : (s.setChan c v).buf = s.buf := rfl
@[simp] theorem State.setChan_tm (s : State) (c : Nat) (v : ChanSt) : (s.setChan c v).tm = s.tm := rfl
@[simp] theorem State.setChan_ports (s : State) (c : Nat) (v : ChanSt) : (s.setChan c v).ports = s.ports := rfl
@[simp] theorem State.setChan_time (s : State) (c : Nat) (v : ChanSt) : (s.setChan c v).time = s.time := rfl
@[simp] theorem State.setChan_tug (s : State) (c : Nat) (v : ChanSt) : (s.setChan c v).tug = s.tug := rfl
@[simp] theorem State.setChan_host (s : State) (c : Nat) (v : ChanSt) : (s.setChan c v).host = s.host := rfl
@[simp] theorem State.setChan_log (s : State) (c : Nat) (v : ChanSt) : (s.setChan c v).log = s.log := rfl
@[simp] theorem State.setChan_hbor (s : State) (c : Nat) (v : ChanSt) : (s.setChan c v).hbor = s.hbor := rfl
@[simp] theorem State.setChan_mode (s : State) (c : Nat) (v : ChanSt) : (s.setChan c v).mode = s.mode := rfl
@[simp] theorem State.setChan_dmem (s : State) (c : Nat) (v : ChanSt) : (s.setChan c v).dmem = s.dmem := rfl
@[simp] theorem State.setChan_hbm (s : State) (c : Nat) (v : ChanSt) : (s.setChan c v).hbm = s.hbm := rfl
@[simp] theorem State.setChan_hostMem (s : State) (c : Nat) (v : ChanSt) : (s.setChan c v).hostMem = s.hostMem := rfl
@[simp] theorem State.setChan_hbmBad (s : State) (c : Nat) (v : ChanSt) : (s.setChan c v).hbmBad = s.hbmBad := rfl
@[simp] theorem State.setChan_out (s : State) (c : Nat) (v : ChanSt) : (s.setChan c v).out = s.out := rfl
@[simp] theorem State.setTport_pending (s : State) (t : Nat) (v : TugPort) : (s.setTport t v).pending = s.pending := rfl
@[simp] theorem State.setTport_freeCtr (s : State) (t : Nat) (v : TugPort) : (s.setTport t v).freeCtr = s.freeCtr := rfl
@[simp] theorem State.setTport_ns (s : State) (t : Nat) (v : TugPort) : (s.setTport t v).ns = s.ns := rfl
@[simp] theorem State.setTport_regs (s : State) (t : Nat) (v : TugPort) : (s.setTport t v).regs = s.regs := rfl
@[simp] theorem State.setTport_eng (s : State) (t : Nat) (v : TugPort) : (s.setTport t v).eng = s.eng := rfl
@[simp] theorem State.setTport_tab (s : State) (t : Nat) (v : TugPort) : (s.setTport t v).tab = s.tab := rfl
@[simp] theorem State.setTport_led (s : State) (t : Nat) (v : TugPort) : (s.setTport t v).led = s.led := rfl
@[simp] theorem State.setTport_buf (s : State) (t : Nat) (v : TugPort) : (s.setTport t v).buf = s.buf := rfl
@[simp] theorem State.setTport_tm (s : State) (t : Nat) (v : TugPort) : (s.setTport t v).tm = s.tm := rfl
@[simp] theorem State.setTport_ports (s : State) (t : Nat) (v : TugPort) : (s.setTport t v).ports = s.ports := rfl
@[simp] theorem State.setTport_time (s : State) (t : Nat) (v : TugPort) : (s.setTport t v).time = s.time := rfl
@[simp] theorem State.setTport_tug (s : State) (t : Nat) (v : TugPort) : (s.setTport t v).tug = s.tug := rfl
@[simp] theorem State.setTport_host (s : State) (t : Nat) (v : TugPort) : (s.setTport t v).host = s.host := rfl
@[simp] theorem State.setTport_log (s : State) (t : Nat) (v : TugPort) : (s.setTport t v).log = s.log := rfl
@[simp] theorem State.setTport_hbor (s : State) (t : Nat) (v : TugPort) : (s.setTport t v).hbor = s.hbor := rfl
@[simp] theorem State.setTport_mode (s : State) (t : Nat) (v : TugPort) : (s.setTport t v).mode = s.mode := rfl
@[simp] theorem State.setTport_dmem (s : State) (t : Nat) (v : TugPort) : (s.setTport t v).dmem = s.dmem := rfl
@[simp] theorem State.setTport_hbm (s : State) (t : Nat) (v : TugPort) : (s.setTport t v).hbm = s.hbm := rfl
@[simp] theorem State.setTport_hostMem (s : State) (t : Nat) (v : TugPort) : (s.setTport t v).hostMem = s.hostMem := rfl
@[simp] theorem State.setTport_hbmBad (s : State) (t : Nat) (v : TugPort) : (s.setTport t v).hbmBad = s.hbmBad := rfl
@[simp] theorem State.setTport_out (s : State) (t : Nat) (v : TugPort) : (s.setTport t v).out = s.out := rfl
@[simp] theorem State.setTcore_pending (s : State) (t : Nat) (v : TCore) : (s.setTcore t v).pending = s.pending := rfl
@[simp] theorem State.setTcore_freeCtr (s : State) (t : Nat) (v : TCore) : (s.setTcore t v).freeCtr = s.freeCtr := rfl
@[simp] theorem State.setTcore_ns (s : State) (t : Nat) (v : TCore) : (s.setTcore t v).ns = s.ns := rfl
@[simp] theorem State.setTcore_regs (s : State) (t : Nat) (v : TCore) : (s.setTcore t v).regs = s.regs := rfl
@[simp] theorem State.setTcore_eng (s : State) (t : Nat) (v : TCore) : (s.setTcore t v).eng = s.eng := rfl
@[simp] theorem State.setTcore_tab (s : State) (t : Nat) (v : TCore) : (s.setTcore t v).tab = s.tab := rfl
@[simp] theorem State.setTcore_led (s : State) (t : Nat) (v : TCore) : (s.setTcore t v).led = s.led := rfl
@[simp] theorem State.setTcore_buf (s : State) (t : Nat) (v : TCore) : (s.setTcore t v).buf = s.buf := rfl
@[simp] theorem State.setTcore_tm (s : State) (t : Nat) (v : TCore) : (s.setTcore t v).tm = s.tm := rfl
@[simp] theorem State.setTcore_ports (s : State) (t : Nat) (v : TCore) : (s.setTcore t v).ports = s.ports := rfl
@[simp] theorem State.setTcore_time (s : State) (t : Nat) (v : TCore) : (s.setTcore t v).time = s.time := rfl
@[simp] theorem State.setTcore_cmd (s : State) (t : Nat) (v : TCore) : (s.setTcore t v).cmd = s.cmd := rfl
@[simp] theorem State.setTcore_host (s : State) (t : Nat) (v : TCore) : (s.setTcore t v).host = s.host := rfl
@[simp] theorem State.setTcore_log (s : State) (t : Nat) (v : TCore) : (s.setTcore t v).log = s.log := rfl
@[simp] theorem State.setTcore_hbor (s : State) (t : Nat) (v : TCore) : (s.setTcore t v).hbor = s.hbor := rfl
@[simp] theorem State.setTcore_mode (s : State) (t : Nat) (v : TCore) : (s.setTcore t v).mode = s.mode := rfl
@[simp] theorem State.setTcore_dmem (s : State) (t : Nat) (v : TCore) : (s.setTcore t v).dmem = s.dmem := rfl
@[simp] theorem State.setTcore_hbm (s : State) (t : Nat) (v : TCore) : (s.setTcore t v).hbm = s.hbm := rfl
@[simp] theorem State.setTcore_hostMem (s : State) (t : Nat) (v : TCore) : (s.setTcore t v).hostMem = s.hostMem := rfl
@[simp] theorem State.setTcore_hbmBad (s : State) (t : Nat) (v : TCore) : (s.setTcore t v).hbmBad = s.hbmBad := rfl
@[simp] theorem State.setTcore_out (s : State) (t : Nat) (v : TCore) : (s.setTcore t v).out = s.out := rfl
@[simp] theorem State.setTask_pending (s : State) (k : Nat) (v : Task) : (s.setTask k v).pending = s.pending := rfl
@[simp] theorem State.setTask_freeCtr (s : State) (k : Nat) (v : Task) : (s.setTask k v).freeCtr = s.freeCtr := rfl
@[simp] theorem State.setTask_ns (s : State) (k : Nat) (v : Task) : (s.setTask k v).ns = s.ns := rfl
@[simp] theorem State.setTask_regs (s : State) (k : Nat) (v : Task) : (s.setTask k v).regs = s.regs := rfl
@[simp] theorem State.setTask_eng (s : State) (k : Nat) (v : Task) : (s.setTask k v).eng = s.eng := rfl
@[simp] theorem State.setTask_tab (s : State) (k : Nat) (v : Task) : (s.setTask k v).tab = s.tab := rfl
@[simp] theorem State.setTask_led (s : State) (k : Nat) (v : Task) : (s.setTask k v).led = s.led := rfl
@[simp] theorem State.setTask_buf (s : State) (k : Nat) (v : Task) : (s.setTask k v).buf = s.buf := rfl
@[simp] theorem State.setTask_tm (s : State) (k : Nat) (v : Task) : (s.setTask k v).tm = s.tm := rfl
@[simp] theorem State.setTask_ports (s : State) (k : Nat) (v : Task) : (s.setTask k v).ports = s.ports := rfl
@[simp] theorem State.setTask_time (s : State) (k : Nat) (v : Task) : (s.setTask k v).time = s.time := rfl
@[simp] theorem State.setTask_cmd (s : State) (k : Nat) (v : Task) : (s.setTask k v).cmd = s.cmd := rfl
@[simp] theorem State.setTask_host (s : State) (k : Nat) (v : Task) : (s.setTask k v).host = s.host := rfl
@[simp] theorem State.setTask_log (s : State) (k : Nat) (v : Task) : (s.setTask k v).log = s.log := rfl
@[simp] theorem State.setTask_hbor (s : State) (k : Nat) (v : Task) : (s.setTask k v).hbor = s.hbor := rfl
@[simp] theorem State.setTask_mode (s : State) (k : Nat) (v : Task) : (s.setTask k v).mode = s.mode := rfl
@[simp] theorem State.setTask_dmem (s : State) (k : Nat) (v : Task) : (s.setTask k v).dmem = s.dmem := rfl
@[simp] theorem State.setTask_hbm (s : State) (k : Nat) (v : Task) : (s.setTask k v).hbm = s.hbm := rfl
@[simp] theorem State.setTask_hostMem (s : State) (k : Nat) (v : Task) : (s.setTask k v).hostMem = s.hostMem := rfl
@[simp] theorem State.setTask_hbmBad (s : State) (k : Nat) (v : Task) : (s.setTask k v).hbmBad = s.hbmBad := rfl
@[simp] theorem State.setTask_out (s : State) (k : Nat) (v : Task) : (s.setTask k v).out = s.out := rfl
@[simp] theorem State.emit_pending (s : State) (e : OutEv) : (s.emit e).pending = s.pending := rfl
@[simp] theorem State.emit_freeCtr (s : State) (e : OutEv) : (s.emit e).freeCtr = s.freeCtr := rfl
@[simp] theorem State.emit_ns (s : State) (e : OutEv) : (s.emit e).ns = s.ns := rfl
@[simp] theorem State.emit_regs (s : State) (e : OutEv) : (s.emit e).regs = s.regs := rfl
@[simp] theorem State.emit_eng (s : State) (e : OutEv) : (s.emit e).eng = s.eng := rfl
@[simp] theorem State.emit_tab (s : State) (e : OutEv) : (s.emit e).tab = s.tab := rfl
@[simp] theorem State.emit_led (s : State) (e : OutEv) : (s.emit e).led = s.led := rfl
@[simp] theorem State.emit_buf (s : State) (e : OutEv) : (s.emit e).buf = s.buf := rfl
@[simp] theorem State.emit_tm (s : State) (e : OutEv) : (s.emit e).tm = s.tm := rfl
@[simp] theorem State.emit_ports (s : State) (e : OutEv) : (s.emit e).ports = s.ports := rfl
@[simp] theorem State.emit_time (s : State) (e : OutEv) : (s.emit e).time = s.time := rfl
@[simp] theorem State.emit_cmd (s : State) (e : OutEv) : (s.emit e).cmd = s.cmd := rfl
@[simp] theorem State.emit_tug (s : State) (e : OutEv) : (s.emit e).tug = s.tug := rfl
@[simp] theorem State.emit_host (s : State) (e : OutEv) : (s.emit e).host = s.host := rfl
@[simp] theorem State.emit_log (s : State) (e : OutEv) : (s.emit e).log = s.log := rfl
@[simp] theorem State.emit_hbor (s : State) (e : OutEv) : (s.emit e).hbor = s.hbor := rfl
@[simp] theorem State.emit_mode (s : State) (e : OutEv) : (s.emit e).mode = s.mode := rfl
@[simp] theorem State.emit_dmem (s : State) (e : OutEv) : (s.emit e).dmem = s.dmem := rfl
@[simp] theorem State.emit_hbm (s : State) (e : OutEv) : (s.emit e).hbm = s.hbm := rfl
@[simp] theorem State.emit_hostMem (s : State) (e : OutEv) : (s.emit e).hostMem = s.hostMem := rfl
@[simp] theorem State.emit_hbmBad (s : State) (e : OutEv) : (s.emit e).hbmBad = s.hbmBad := rfl
@[simp] theorem State.useFree_pending (s : State) : (s.useFree).pending = s.pending := rfl
@[simp] theorem State.useFree_ns (s : State) : (s.useFree).ns = s.ns := rfl
@[simp] theorem State.useFree_regs (s : State) : (s.useFree).regs = s.regs := rfl
@[simp] theorem State.useFree_eng (s : State) : (s.useFree).eng = s.eng := rfl
@[simp] theorem State.useFree_tab (s : State) : (s.useFree).tab = s.tab := rfl
@[simp] theorem State.useFree_led (s : State) : (s.useFree).led = s.led := rfl
@[simp] theorem State.useFree_buf (s : State) : (s.useFree).buf = s.buf := rfl
@[simp] theorem State.useFree_tm (s : State) : (s.useFree).tm = s.tm := rfl
@[simp] theorem State.useFree_ports (s : State) : (s.useFree).ports = s.ports := rfl
@[simp] theorem State.useFree_time (s : State) : (s.useFree).time = s.time := rfl
@[simp] theorem State.useFree_cmd (s : State) : (s.useFree).cmd = s.cmd := rfl
@[simp] theorem State.useFree_tug (s : State) : (s.useFree).tug = s.tug := rfl
@[simp] theorem State.useFree_host (s : State) : (s.useFree).host = s.host := rfl
@[simp] theorem State.useFree_log (s : State) : (s.useFree).log = s.log := rfl
@[simp] theorem State.useFree_hbor (s : State) : (s.useFree).hbor = s.hbor := rfl
@[simp] theorem State.useFree_mode (s : State) : (s.useFree).mode = s.mode := rfl
@[simp] theorem State.useFree_dmem (s : State) : (s.useFree).dmem = s.dmem := rfl
@[simp] theorem State.useFree_hbm (s : State) : (s.useFree).hbm = s.hbm := rfl
@[simp] theorem State.useFree_hostMem (s : State) : (s.useFree).hostMem = s.hostMem := rfl
@[simp] theorem State.useFree_hbmBad (s : State) : (s.useFree).hbmBad = s.hbmBad := rfl
@[simp] theorem State.useFree_out (s : State) : (s.useFree).out = s.out := rfl
@[simp] theorem State.setG_pending (s : State) (x : CtxId) (r : RegNo) (v : Word) : (s.setG x r v).pending = s.pending := by
  unfold State.setG; split <;> rfl
@[simp] theorem State.setG_freeCtr (s : State) (x : CtxId) (r : RegNo) (v : Word) : (s.setG x r v).freeCtr = s.freeCtr := by
  unfold State.setG; split <;> rfl
@[simp] theorem State.setG_ns (s : State) (x : CtxId) (r : RegNo) (v : Word) : (s.setG x r v).ns = s.ns := by
  unfold State.setG; split <;> rfl
@[simp] theorem State.setG_regs (s : State) (x : CtxId) (r : RegNo) (v : Word) : (s.setG x r v).regs = s.regs := by
  unfold State.setG; split <;> rfl
@[simp] theorem State.setG_tab (s : State) (x : CtxId) (r : RegNo) (v : Word) : (s.setG x r v).tab = s.tab := by
  unfold State.setG; split <;> rfl
@[simp] theorem State.setG_led (s : State) (x : CtxId) (r : RegNo) (v : Word) : (s.setG x r v).led = s.led := by
  unfold State.setG; split <;> rfl
@[simp] theorem State.setG_buf (s : State) (x : CtxId) (r : RegNo) (v : Word) : (s.setG x r v).buf = s.buf := by
  unfold State.setG; split <;> rfl
@[simp] theorem State.setG_tm (s : State) (x : CtxId) (r : RegNo) (v : Word) : (s.setG x r v).tm = s.tm := by
  unfold State.setG; split <;> rfl
@[simp] theorem State.setG_ports (s : State) (x : CtxId) (r : RegNo) (v : Word) : (s.setG x r v).ports = s.ports := by
  unfold State.setG; split <;> rfl
@[simp] theorem State.setG_time (s : State) (x : CtxId) (r : RegNo) (v : Word) : (s.setG x r v).time = s.time := by
  unfold State.setG; split <;> rfl
@[simp] theorem State.setG_cmd (s : State) (x : CtxId) (r : RegNo) (v : Word) : (s.setG x r v).cmd = s.cmd := by
  unfold State.setG; split <;> rfl
@[simp] theorem State.setG_tug (s : State) (x : CtxId) (r : RegNo) (v : Word) : (s.setG x r v).tug = s.tug := by
  unfold State.setG; split <;> rfl
@[simp] theorem State.setG_host (s : State) (x : CtxId) (r : RegNo) (v : Word) : (s.setG x r v).host = s.host := by
  unfold State.setG; split <;> rfl
@[simp] theorem State.setG_log (s : State) (x : CtxId) (r : RegNo) (v : Word) : (s.setG x r v).log = s.log := by
  unfold State.setG; split <;> rfl
@[simp] theorem State.setG_hbor (s : State) (x : CtxId) (r : RegNo) (v : Word) : (s.setG x r v).hbor = s.hbor := by
  unfold State.setG; split <;> rfl
@[simp] theorem State.setG_mode (s : State) (x : CtxId) (r : RegNo) (v : Word) : (s.setG x r v).mode = s.mode := by
  unfold State.setG; split <;> rfl
@[simp] theorem State.setG_dmem (s : State) (x : CtxId) (r : RegNo) (v : Word) : (s.setG x r v).dmem = s.dmem := by
  unfold State.setG; split <;> rfl
@[simp] theorem State.setG_hbm (s : State) (x : CtxId) (r : RegNo) (v : Word) : (s.setG x r v).hbm = s.hbm := by
  unfold State.setG; split <;> rfl
@[simp] theorem State.setG_hostMem (s : State) (x : CtxId) (r : RegNo) (v : Word) : (s.setG x r v).hostMem = s.hostMem := by
  unfold State.setG; split <;> rfl
@[simp] theorem State.setG_hbmBad (s : State) (x : CtxId) (r : RegNo) (v : Word) : (s.setG x r v).hbmBad = s.hbmBad := by
  unfold State.setG; split <;> rfl
@[simp] theorem State.setG_out (s : State) (x : CtxId) (r : RegNo) (v : Word) : (s.setG x r v).out = s.out := by
  unfold State.setG; split <;> rfl
@[simp] theorem State.bumpIf_pending (s : State) (b : Bool) (f : Fld) (i : Nat) : (s.bumpIf b f i).pending = s.pending := by
  unfold State.bumpIf; split <;> rfl
@[simp] theorem State.bumpIf_freeCtr (s : State) (b : Bool) (f : Fld) (i : Nat) : (s.bumpIf b f i).freeCtr = s.freeCtr := by
  unfold State.bumpIf; split <;> rfl
@[simp] theorem State.bumpIf_ns (s : State) (b : Bool) (f : Fld) (i : Nat) : (s.bumpIf b f i).ns = s.ns := by
  unfold State.bumpIf; split <;> rfl
@[simp] theorem State.bumpIf_eng (s : State) (b : Bool) (f : Fld) (i : Nat) : (s.bumpIf b f i).eng = s.eng := by
  unfold State.bumpIf; split <;> rfl
@[simp] theorem State.bumpIf_tab (s : State) (b : Bool) (f : Fld) (i : Nat) : (s.bumpIf b f i).tab = s.tab := by
  unfold State.bumpIf; split <;> rfl
@[simp] theorem State.bumpIf_led (s : State) (b : Bool) (f : Fld) (i : Nat) : (s.bumpIf b f i).led = s.led := by
  unfold State.bumpIf; split <;> rfl
@[simp] theorem State.bumpIf_buf (s : State) (b : Bool) (f : Fld) (i : Nat) : (s.bumpIf b f i).buf = s.buf := by
  unfold State.bumpIf; split <;> rfl
@[simp] theorem State.bumpIf_tm (s : State) (b : Bool) (f : Fld) (i : Nat) : (s.bumpIf b f i).tm = s.tm := by
  unfold State.bumpIf; split <;> rfl
@[simp] theorem State.bumpIf_ports (s : State) (b : Bool) (f : Fld) (i : Nat) : (s.bumpIf b f i).ports = s.ports := by
  unfold State.bumpIf; split <;> rfl
@[simp] theorem State.bumpIf_time (s : State) (b : Bool) (f : Fld) (i : Nat) : (s.bumpIf b f i).time = s.time := by
  unfold State.bumpIf; split <;> rfl
@[simp] theorem State.bumpIf_cmd (s : State) (b : Bool) (f : Fld) (i : Nat) : (s.bumpIf b f i).cmd = s.cmd := by
  unfold State.bumpIf; split <;> rfl
@[simp] theorem State.bumpIf_tug (s : State) (b : Bool) (f : Fld) (i : Nat) : (s.bumpIf b f i).tug = s.tug := by
  unfold State.bumpIf; split <;> rfl
@[simp] theorem State.bumpIf_host (s : State) (b : Bool) (f : Fld) (i : Nat) : (s.bumpIf b f i).host = s.host := by
  unfold State.bumpIf; split <;> rfl
@[simp] theorem State.bumpIf_log (s : State) (b : Bool) (f : Fld) (i : Nat) : (s.bumpIf b f i).log = s.log := by
  unfold State.bumpIf; split <;> rfl
@[simp] theorem State.bumpIf_hbor (s : State) (b : Bool) (f : Fld) (i : Nat) : (s.bumpIf b f i).hbor = s.hbor := by
  unfold State.bumpIf; split <;> rfl
@[simp] theorem State.bumpIf_mode (s : State) (b : Bool) (f : Fld) (i : Nat) : (s.bumpIf b f i).mode = s.mode := by
  unfold State.bumpIf; split <;> rfl
@[simp] theorem State.bumpIf_dmem (s : State) (b : Bool) (f : Fld) (i : Nat) : (s.bumpIf b f i).dmem = s.dmem := by
  unfold State.bumpIf; split <;> rfl
@[simp] theorem State.bumpIf_hbm (s : State) (b : Bool) (f : Fld) (i : Nat) : (s.bumpIf b f i).hbm = s.hbm := by
  unfold State.bumpIf; split <;> rfl
@[simp] theorem State.bumpIf_hostMem (s : State) (b : Bool) (f : Fld) (i : Nat) : (s.bumpIf b f i).hostMem = s.hostMem := by
  unfold State.bumpIf; split <;> rfl
@[simp] theorem State.bumpIf_hbmBad (s : State) (b : Bool) (f : Fld) (i : Nat) : (s.bumpIf b f i).hbmBad = s.hbmBad := by
  unfold State.bumpIf; split <;> rfl
@[simp] theorem State.bumpIf_out (s : State) (b : Bool) (f : Fld) (i : Nat) : (s.bumpIf b f i).out = s.out := by
  unfold State.bumpIf; split <;> rfl

/-- Two states whose parts are equal are equal. -/
theorem State.eq_of {s t : State} (h0 : s.pending = t.pending) (h1 : s.freeCtr = t.freeCtr) (h2 : s.ns = t.ns) (h3 : s.regs = t.regs) (h4 : s.eng = t.eng) (h5 : s.tab = t.tab) (h6 : s.led = t.led) (h7 : s.buf = t.buf) (h8 : s.tm = t.tm) (h9 : s.ports = t.ports) (h10 : s.time = t.time) (h11 : s.cmd = t.cmd) (h12 : s.tug = t.tug) (h13 : s.host = t.host) (h14 : s.log = t.log) (h15 : s.hbor = t.hbor) (h16 : s.mode = t.mode) (h17 : s.dmem = t.dmem) (h18 : s.hbm = t.hbm) (h19 : s.hostMem = t.hostMem) (h20 : s.hbmBad = t.hbmBad) (h21 : s.out = t.out) : s = t := by
  cases s; cases t; simp_all

/-! ### Registers -/

theorem Reg.ctorIdx_inj {a b : Reg} (h : a.ctorIdx = b.ctorIdx) : a = b := by
  have := congrArg Reg.ofNat h
  simpa [Reg.ofNat_ctorIdx] using this

theorem Reg.ctorIdx_lt (r : Reg) : r.ctorIdx < 1024 := by cases r <;> decide

theorem regKey_inj {r q : Reg} {i j : Nat} (h : regKey r i = regKey q j) : r = q ∧ i = j := by
  unfold regKey at h
  have := r.ctorIdx_lt
  have := q.ctorIdx_lt
  exact ⟨Reg.ctorIdx_inj (by omega), by omega⟩

@[simp] theorem State.reg_setReg_self (s : State) (r : Reg) (i : Nat) (v : RegVal) : (s.setReg r i v).reg r i = v := by
  simp [State.reg, State.setReg]

theorem State.reg_setReg_ne (s : State) {r q : Reg} {i j : Nat} (v : RegVal) (h : q ≠ r ∨ j ≠ i) :
    (s.setReg r i v).reg q j = s.reg q j := by
  have : regKey q j ≠ regKey r i := fun e => by
    have := regKey_inj e
    rcases h with h | h <;> simp_all
  simp [State.reg, State.setReg, Tab.get?_put_ne _ _ this]

/-- Bits of a value after some of them are replaced. -/
theorem getLsbD_putBits {n : Nat} (v : BitVec n) (lo len x k : Nat) (hk : k < n) :
    (putBits v lo len x).getLsbD k = if lo ≤ k ∧ k < lo + len then x.testBit (k - lo) else v.getLsbD k := by
  unfold putBits
  simp only [BitVec.getLsbD_or, BitVec.getLsbD_and, BitVec.getLsbD_not, BitVec.getLsbD_ofNat, hk, decide_true, Bool.true_and]
  have e1 : ((2 ^ len - 1) * 2 ^ lo).testBit k = (decide (lo ≤ k) && decide (k < lo + len)) := by
    rw [Nat.testBit_mul_two_pow, Nat.testBit_two_pow_sub_one]
    by_cases h : lo ≤ k
    · have : (k - lo < len) ↔ (k < lo + len) := by omega
      simp [h, this]
    · simp [h]
  have e2 : (x % 2 ^ len * 2 ^ lo).testBit k = (decide (lo ≤ k) && (decide (k < lo + len) && x.testBit (k - lo))) := by
    rw [Nat.testBit_mul_two_pow, Nat.testBit_mod_two_pow]
    by_cases h : lo ≤ k
    · have : (k - lo < len) ↔ (k < lo + len) := by omega
      simp [h, this]
    · simp [h]
  rw [e1, e2]
  by_cases h1 : lo ≤ k <;> by_cases h2 : k < lo + len <;> simp [h1, h2]

theorem State.get_setReg_self (s : State) (f : Fld) (i : Nat) (v : RegVal) :
    (s.setReg f.reg i v).get f i = (v.extractLsb' f.lo f.len).toNat := by
  simp [State.get]

/-- A field reads as what was written to it. -/
theorem State.get_set_self (s : State) (f : Fld) (i x : Nat) (h : f.lo + f.len ≤ 320) : (s.set f i x).get f i = x % 2 ^ f.len := by
  unfold State.set
  rw [State.get_setReg_self]
  have : (putBits (s.reg f.reg i) f.lo f.len x).extractLsb' f.lo f.len = BitVec.ofNat f.len x := by
    apply BitVec.eq_of_getLsbD_eq
    intro k hk
    rw [BitVec.getLsbD_extractLsb', getLsbD_putBits _ _ _ _ _ (by omega)]
    simp only [Nat.le_add_right, Nat.add_lt_add_left hk, and_self, if_true, Nat.add_sub_cancel_left]
    rw [BitVec.getLsbD_ofNat]
  rw [this, BitVec.toNat_ofNat]

/-- Writing a field leaves the other fields of its register alone. -/
theorem State.get_set_field (s : State) (f g : Fld) (i x : Nat) (hr : g.reg = f.reg) (hg : g.lo + g.len ≤ 320)
    (h : g.lo + g.len ≤ f.lo ∨ f.lo + f.len ≤ g.lo) : (s.set f i x).get g i = s.get g i := by
  unfold State.get State.set
  rw [hr, State.reg_setReg_self]
  congr 1
  apply BitVec.eq_of_getLsbD_eq
  intro k hk
  rw [BitVec.getLsbD_extractLsb', BitVec.getLsbD_extractLsb', getLsbD_putBits _ _ _ _ _ (by omega)]
  have : ¬(f.lo ≤ g.lo + k ∧ g.lo + k < f.lo + f.len) := by omega
  simp [this]

/-- Writing a field leaves every other register alone. -/
theorem State.get_set_reg (s : State) (f g : Fld) (i j x : Nat) (h : g.reg ≠ f.reg ∨ j ≠ i) :
    (s.set f i x).get g j = s.get g j := by
  unfold State.get State.set
  rw [State.reg_setReg_ne _ _ h]

/-- Fields are read from the registers alone. -/
theorem State.get_congr {s t : State} (h : t.regs = s.regs) (f : Fld) (i : Nat) : t.get f i = s.get f i := by
  unfold State.get State.reg
  rw [h]
theorem State.reg_congr {s t : State} (h : t.regs = s.regs) (r : Reg) (i : Nat) : t.reg r i = s.reg r i := by
  unfold State.reg
  rw [h]
theorem State.bit_congr {s t : State} (h : t.regs = s.regs) (f : Fld) (i : Nat) : t.bit f i = s.bit f i := by
  unfold State.bit
  rw [State.get_congr h]

theorem State.get_lt (s : State) (f : Fld) (i : Nat) : s.get f i < 2 ^ f.len := BitVec.isLt _

/-- A one-bit field reads as what was written to it. -/
theorem State.bit_setBit_self (s : State) (f : Fld) (i : Nat) (b : Bool) (h : f.lo + f.len ≤ 320) (h1 : f.len = 1) :
    (s.setBit f i b).bit f i = b := by
  unfold State.bit State.setBit
  rw [State.get_set_self _ _ _ _ h, h1]
  cases b <;> rfl

/-- A counter counts one, modulo its width. -/
theorem State.get_bump_self (s : State) (f : Fld) (i : Nat) (h : f.lo + f.len ≤ 320) :
    (s.bump f i).get f i = (s.get f i + 1) % 2 ^ f.len := State.get_set_self _ _ _ _ h

/-! ### General registers -/

theorem CtxId.code_inj {x y : CtxId} (h : x.code = y.code) : x = y := by
  cases x <;> cases y <;> simp only [CtxId.code] at h <;> (try omega) <;>
    (simp only [CtxId.pilot.injEq, CtxId.stev.injEq, CtxId.rew.injEq, CtxId.tug.injEq, CtxId.chan.injEq, Fin.ext_iff]; omega)

/-- What a general register reads after a write: g0 reads as zero, the written one its value, every other as before. -/
theorem State.g_setG (s : State) (x y : CtxId) (r q : RegNo) (v : Word) :
    (s.setG x r v).g y q = if q = 0 then 0 else if y = x ∧ q = r then v else s.g y q := by
  unfold State.g State.setG
  by_cases hq : q = 0
  · simp [hq]
  · by_cases hr : r = 0
    · have : ¬(y = x ∧ q = r) := fun h => hq (h.2.trans hr)
      simp [hr, hq]
    · rw [if_neg hr, if_neg hq, if_neg hq]
      by_cases h : y = x ∧ q = r
      · obtain ⟨rfl, rfl⟩ := h
        simp
      · rw [if_neg h, if_neg hq]
        apply Tab.getD_put_ne
        intro e
        apply h
        have e1 : y.code = x.code := by omega
        have e2 : q.val = r.val := by omega
        exact ⟨CtxId.code_inj e1, Fin.ext e2⟩

theorem State.g_congr {s t : State} (h : t.eng = s.eng) (x : CtxId) (r : RegNo) : t.g x r = s.g x r := by
  unfold State.g
  rw [h]
theorem State.g_setCtx (s : State) (x y : CtxId) (c : Ctx) (r : RegNo) : (s.setCtx x c).g y r = s.g y r := rfl
theorem State.ctx?_setG (s : State) (x y : CtxId) (r : RegNo) (v : Word) : (s.setG x r v).ctx? y = s.ctx? y := by
  unfold State.setG
  split <;> rfl
@[simp] theorem State.ctx?_setCtx_self (s : State) (x : CtxId) (c : Ctx) : (s.setCtx x c).ctx? x = some c := by
  simp [State.ctx?, State.setCtx]
theorem State.ctx?_setCtx_ne (s : State) {x y : CtxId} (c : Ctx) (h : y ≠ x) : (s.setCtx x c).ctx? y = s.ctx? y := by
  unfold State.ctx? State.setCtx
  exact Tab.get?_put_ne _ _ (fun e => h (CtxId.code_inj e))

/-! ### Reads after writes of the other parts -/

@[simp] theorem State.frame?_setFrame_self (s : State) (n : Nat) (f : Frame) : (s.setFrame n f).frame? n = some f := by
  simp [State.frame?, State.setFrame]
@[simp] theorem State.quay_setQuay_self (s : State) (q : Nat) (v : QuaySt) : (s.setQuay q v).quay q = v := by
  simp [State.quay, State.setQuay]
@[simp] theorem State.slice_setSlice_self (s : State) (n : Nat) (v : SliceSt) : (s.setSlice n v).slice n = v := by
  simp [State.slice, State.setSlice]
@[simp] theorem State.portSt_setPortSt_self (s : State) (p : Nat) (v : PortSt) : (s.setPortSt p v).portSt p = v := by
  simp [State.portSt, State.setPortSt]
@[simp] theorem State.base_setBase_self (s : State) (b : Nat) (v : Base) : (s.setBase b v).base b = v := by
  simp [State.base, State.setBase]
@[simp] theorem State.chan_setChan_self (s : State) (c : Nat) (v : ChanSt) : (s.setChan c v).chan c = v := by
  simp [State.chan, State.setChan]
@[simp] theorem State.tport_setTport_self (s : State) (t : Nat) (v : TugPort) : (s.setTport t v).tport t = v := by
  simp [State.tport, State.setTport]
@[simp] theorem State.tcore_setTcore_self (s : State) (t : Nat) (v : TCore) : (s.setTcore t v).tcore t = v := by
  simp [State.tcore, State.setTcore]
@[simp] theorem State.task_setTask_self (s : State) (k : Nat) (v : Task) : (s.setTask k v).task k = v := by
  simp [State.task, State.setTask]

end Sys2Proof.Machine
end

