-- ==== Sys2Proof/Laws/Count.lean ====
section
/-!
SUPPORT. Laws/Count.lean: what counting an event may do: the device counters and the core counters change their own registers, take
samples into the HBM, and leave everything else alone.
-/
namespace Sys2Proof.Machine
set_option Elab.async false

/-- The registers that counting an event may write. -/
def countRegs : List Reg := [.pmcCntValue, .pmcCntSampleLost, .pmcSampleTail, .tugCcntStatus]

/-- What counting may do: only registers, the counters of the tug cores and samples in the HBM change; of the registers only those of
`countRegs` and the pending interrupts of the cores; each core keeps its context. -/
structure Counts (s u : State) : Prop where
  frame : u = { s with regs := u.regs, tug := { s.tug with lostSample := u.tug.lostSample, cores := u.tug.cores }, hbm := u.hbm }
  get : ∀ (f : Fld) (i : Nat), f.reg ∉ countRegs → f.reg ≠ .tugCoreStatus ∨ f.lo + f.len ≤ 11 → f.lo + f.len ≤ 320 → u.get f i = s.get f i
  core : ∀ k, (u.tcore k).ctx = (s.tcore k).ctx

theorem Counts.pending {s u : State} (h : Counts s u) : u.pending = s.pending := by rw [h.frame]
theorem Counts.freeCtr {s u : State} (h : Counts s u) : u.freeCtr = s.freeCtr := by rw [h.frame]
theorem Counts.ns {s u : State} (h : Counts s u) : u.ns = s.ns := by rw [h.frame]
theorem Counts.eng {s u : State} (h : Counts s u) : u.eng = s.eng := by rw [h.frame]
theorem Counts.tab {s u : State} (h : Counts s u) : u.tab = s.tab := by rw [h.frame]
theorem Counts.led {s u : State} (h : Counts s u) : u.led = s.led := by rw [h.frame]
theorem Counts.buf {s u : State} (h : Counts s u) : u.buf = s.buf := by rw [h.frame]
theorem Counts.tm {s u : State} (h : Counts s u) : u.tm = s.tm := by rw [h.frame]
theorem Counts.ports {s u : State} (h : Counts s u) : u.ports = s.ports := by rw [h.frame]
theorem Counts.time {s u : State} (h : Counts s u) : u.time = s.time := by rw [h.frame]
theorem Counts.cmd {s u : State} (h : Counts s u) : u.cmd = s.cmd := by rw [h.frame]
theorem Counts.host {s u : State} (h : Counts s u) : u.host = s.host := by rw [h.frame]
theorem Counts.log {s u : State} (h : Counts s u) : u.log = s.log := by rw [h.frame]
theorem Counts.hbor {s u : State} (h : Counts s u) : u.hbor = s.hbor := by rw [h.frame]
theorem Counts.mode {s u : State} (h : Counts s u) : u.mode = s.mode := by rw [h.frame]
theorem Counts.dmem {s u : State} (h : Counts s u) : u.dmem = s.dmem := by rw [h.frame]
theorem Counts.hostMem {s u : State} (h : Counts s u) : u.hostMem = s.hostMem := by rw [h.frame]
theorem Counts.hbmBad {s u : State} (h : Counts s u) : u.hbmBad = s.hbmBad := by rw [h.frame]
theorem Counts.out {s u : State} (h : Counts s u) : u.out = s.out := by rw [h.frame]

theorem Counts.refl {s : State} : Counts s s := ⟨rfl, fun _ _ _ _ _ => rfl, fun _ => rfl⟩

theorem Counts.trans {s t u : State} (h1 : Counts s t) (h2 : Counts t u) : Counts s u := by
  refine ⟨?_, fun f i a b c => (h2.get f i a b c).trans (h1.get f i a b c), fun k => (h2.core k).trans (h1.core k)⟩
  have := h2.frame
  rw [h1.frame] at this
  exact this

theorem Counts.foldl {α : Type} {s : State} {l : List α} {f : State → α → State} (h : ∀ t a, Counts t (f t a)) : Counts s (l.foldl f s) := by
  induction l generalizing s with
  | nil => exact Counts.refl
  | cons a l ih => exact (h s a).trans ih

theorem Counts.set {s : State} {f : Fld} {i v : Nat} (h : f.reg ∈ countRegs) : Counts s (s.set f i v) :=
  ⟨rfl, fun _ _ hg _ _ => State.get_set_reg _ _ _ _ _ _ (.inl fun e => hg (e ▸ h)), fun _ => rfl⟩

theorem Counts.pend {s : State} {i v : Nat} : Counts s (s.set F.tugCoreStatus_pending i v) := by
  refine ⟨rfl, fun g j _ h3 hl => ?_, fun _ => rfl⟩
  by_cases hr : g.reg = .tugCoreStatus
  · by_cases hij : j = i
    · subst hij
      exact State.get_set_field _ _ _ _ _ hr hl (.inl (h3.resolve_left (fun h => h hr)))
    · exact State.get_set_reg _ _ _ _ _ _ (.inr hij)
  · exact State.get_set_reg _ _ _ _ _ _ (.inl hr)

theorem Counts.latch {s : State} {t src : Nat} : Counts s (s.latchIrq t src) := by
  unfold State.latchIrq
  extract_lets old
  split
  · exact Counts.refl
  · exact Counts.pend

theorem Counts.mark {s : State} {m : Memory} {b : Bool} : Counts s { s with hbm := m, tug := { s.tug with lostSample := b } } :=
  ⟨rfl, fun f i _ _ _ => State.get_congr rfl f i, fun _ => rfl⟩

theorem Counts.sample {s : State} {ctr : Nat} {e : PmcEv} : Counts s (s.sample ctr e) := by
  unfold State.sample
  split
  · extract_lets size tail a
    clear_value size tail a
    split
    · exact (Counts.set (s := s) (f := F.pmcCntSampleLost) (i := 0) (v := s.get F.pmcCntSampleLost 0 + 1) (by decide)).trans
        Counts.mark
    · rename_i fl bytes u _
      clear_value bytes
      have h1 : Counts s u := Counts.mark
      clear_value u
      exact h1.trans (Counts.set (by decide))
  · exact Counts.refl

theorem Counts.pmcOne {s : State} {n : Nat} {e : PmcEv} : Counts s (s.pmcOne n e) := by
  unfold State.pmcOne
  split
  · extract_lets c u v
    have h1 : Counts s u := Counts.set (by decide)
    split
    · have h2 : Counts s v := h1.trans (Counts.set (by decide))
      split
      · exact h2.trans Counts.sample
      · exact h2
    · exact h1
  · exact Counts.refl

/-- An event that the device counters take. -/
theorem State.pmc_counts {s : State} {e : PmcEv} : Counts s (s.pmc e) := by
  unfold State.pmc
  exact Counts.foldl fun _ _ => Counts.pmcOne

theorem Counts.ccntOne {s : State} {t i code n : Nat} : Counts s (s.ccntOne t i code n) := by
  unfold State.ccntOne
  extract_lets ix sup lv tc c u v w
  split
  · have h1 : Counts s u := by
      refine ⟨rfl, fun _ _ _ _ _ => rfl, fun k => ?_⟩
      show ((s.setTcore t _).tcore k).ctx = _
      by_cases hk : k = t
      · subst hk; rw [State.tcore_setTcore_self]
      · have : (s.setTcore t { tc with ccnt := tc.ccnt.set i (BitVec.ofNat 64 c) }).tcore k = s.tcore k := by
          unfold State.tcore State.setTcore
          exact Tab.getD_put_ne _ _ _ hk
        rw [this]
    have h2 : Counts s v := h1.trans (Counts.set (by decide))
    have h3 : Counts s w := by
      subst w
      split
      · exact h2.trans (Counts.latch)
      · exact h2
    split
    · split
      · exact h3.trans Counts.sample
      · exact h3
    · exact h1
  · exact Counts.refl

/-- An event that the counters of a core take. -/
theorem State.ccnt_counts {s : State} {t code n : Nat} : Counts s (s.ccnt t code n) := by
  unfold State.ccnt
  exact Counts.foldl fun _ _ => Counts.ccntOne

/-- An instruction of a tug core that is counted. -/
theorem State.tugCount_counts {s : State} {t : Core} : Counts s (s.tugCount t) :=
  State.ccnt_counts.trans State.pmc_counts

/-- A counter that does not count an event is unchanged by it. -/
theorem State.ccnt_off {s : State} {t code n : Nat} (h : ∀ i, s.get F.tugCcntCfg_event i ≠ code) : s.ccnt t code n = s := by
  have h1 : ∀ i, s.ccntOne t i code n = s := by
    intro i
    simp [State.ccntOne, h]
  unfold State.ccnt
  generalize List.range 4 = l
  induction l with
  | nil => rfl
  | cons a l ih => rw [List.foldl_cons, h1, ih]

/-- An event that no device counter selects changes nothing. -/
theorem State.pmc_off {s : State} {e : PmcEv} (h : ∀ n, s.get F.pmcCntCfg_event n ≠ e.code) : s.pmc e = s := by
  have h1 : ∀ n, s.pmcOne n e = s := by
    intro n
    simp [State.pmcOne, State.pmcHit, h]
  unfold State.pmc
  generalize List.range 32 = l
  induction l with
  | nil => rfl
  | cons a l ih => rw [List.foldl_cons, h1, ih]

/-- The tug clocks that a cycle of TIME_CLK counts. -/
theorem State.tugClocks_counts {s : State} {n : Nat} : Counts s (s.tugClocks n) := by
  unfold State.tugClocks
  exact Counts.foldl fun _ _ => State.ccnt_counts

/-- The waits on berth chains that a cycle of TIME_CLK counts. -/
theorem State.chainClocks_counts {s : State} {n : Nat} : Counts s (s.chainClocks n) := by
  unfold State.chainClocks
  refine Counts.foldl fun z e => Counts.foldl fun w b => ?_
  unfold State.chainWait
  split
  · exact State.pmc_counts
  · exact Counts.refl

/-- Where no core counter counts clocks, a cycle counts none. -/
theorem State.tugClocks_off {s : State} {n : Nat} (h : ∀ i, s.get F.tugCcntCfg_event i ≠ 1) : s.tugClocks n = s := by
  unfold State.tugClocks
  generalize List.range 16 = l
  induction l with
  | nil => rfl
  | cons a l ih => rw [List.foldl_cons, State.ccnt_off h, ih]

/-- Where no device counter counts the waits on berth chains, a cycle counts none. -/
theorem State.chainClocks_off {s : State} {n : Nat} (h : ∀ k, s.get F.pmcCntCfg_event k ≠ 0x0803) : s.chainClocks n = s := by
  have h1 : ∀ (sl : Nat) (b : BerthSt), s.chainWait sl n b = s := by
    intro sl b
    unfold State.chainWait
    split
    · exact State.pmc_off h
    · rfl
  have h2 : ∀ (sl : Nat) (bs : Tab BerthSt), bs.foldl (fun s b => s.chainWait sl n b.2) s = s := by
    intro sl bs
    induction bs with
    | nil => rfl
    | cons a l ih => rw [List.foldl_cons, h1, ih]
  unfold State.chainClocks
  generalize s.led.slices = l
  induction l with
  | nil => rfl
  | cons a l ih => rw [List.foldl_cons, h2, ih]

end Sys2Proof.Machine
end

