-- ==== Sys2Proof/Laws/Issue.lean ====
section
/-!
SUPPORT. Laws/Issue.lean: what the shared operations that start a command do, said once: an engine of profile P, S or E, a tug core and
a command engine run the body of an instruction that issues, and nothing else.
-/
namespace Sys2Proof.Machine
set_option Elab.async false

/-! ### Engines of profiles P, S and E -/

/-- An instruction that issues on an engine charges its cycles, moves the pc and runs its body. -/
theorem engine_of {x : CtxId} {mn : String} {cost : Nat} {uses : List RegNo} {s : State} {c : Ctx} (h : Issues x cost uses s c)
    (body : Ctx → State → State) : engine x mn true cost uses s body = .next (body (c.after cost) (s.setCtx x (c.after cost))) := by
  unfold engine
  have hp : ¬(c.ended = true ∨ isPending c uses = true) := by simp [h.going, h.ready]
  have hb : ¬(budgetOf x.profile < c.cyc + cost) := by have := h.budget; omega
  simp [h.running, hp, h.inside, h.fetched, hb, Ctx.after]

/-- The same of an instruction that every profile may run. -/
theorem issue_engine {x : CtxId} {mn : String} {k : Bool} {uses : List RegNo} {s : State} {c : Ctx} (h : Issues x 1 uses s c)
    (f : State → State) : issue x mn true k uses s f = .next (f (s.setCtx x (c.after 1))) := by
  have := engine_of (mn := mn) h (fun _ s => f s)
  cases x with
  | tug t => rcases h.profile with e | e | e <;> cases e
  | chan t => rcases h.profile with e | e | e <;> cases e
  | _ => exact this

/-- The same of an instruction that only engines run. -/
theorem engineOnly_of {x : CtxId} {mn : String} {cost : Nat} {uses : List RegNo} {s : State} {c : Ctx} (h : Issues x cost uses s c)
    (body : Ctx → State → State) : engineOnly x mn true cost uses s body = .next (body (c.after cost) (s.setCtx x (c.after cost))) := by
  cases x with
  | tug t => rcases h.profile with e | e | e <;> cases e
  | chan t => rcases h.profile with e | e | e <;> cases e
  | _ => exact engine_of h body

/-- The same of a field instruction whose bytes have arrived. -/
theorem fieldIssue_of {x : CtxId} {mn : String} {dyn : Bool} {rd : RegNo} {f : FieldOp} {s : State} {c : Ctx} (h : Issues x 1 [rd] s c)
    (hw : s.fieldWaits x c f (if dyn then c.cur else 0) = false) (body : Ctx → State → State) :
    fieldIssue x mn true dyn rd f s body = .next (body (c.after 1) (s.setCtx x (c.after 1))) := by
  unfold fieldIssue
  rw [h.running]
  simp only [hw, Bool.and_false, Bool.false_eq_true, if_false]
  exact engine_of h body

/-- Profiles P, S and E are among those that most instructions name. -/
theorem inProfiles_pset {x : CtxId} (h : x.profile = .p ∨ x.profile = .s ∨ x.profile = .e) : inProfiles x [.p, .s, .e, .t] = true := by
  unfold inProfiles; rcases h with h | h | h <;> rw [h] <;> rfl

/-! ### Tug cores -/

/-- An instruction that issues on a tug core runs its body. -/
theorem State.tugRun_of {t : Core} {s : State} (h : TugIssues t s) (body : State → State) : s.tugRun t true body = body s := by
  unfold State.tugRun
  simp [h.running, h.kept, h.fetched, h.sound]

/-! ### Command engines -/

/-- A CTL that an issuer starts by itself has not started and has no status yet. -/
theorem State.directCtl_fresh (s : State) (iss : Issuer) (op tag : Nat) (w : List Word) :
    (s.directCtl iss op tag w).settled = none ∧ (s.directCtl iss op tag w).started = false ∧ (s.directCtl iss op tag w).op = op ∧
    (s.directCtl iss op tag w).w = w := by
  cases iss <;> exact ⟨rfl, rfl, rfl, rfl⟩

/-- A control instruction that is not taken changes nothing. -/
theorem State.direct_idle {s : State} {iss : Issuer} {op : Nat} {tag : BitVec 6} {w : List Word}
    (h : s.commandsRun = false ∨ s.mayIssue iss = false) : s.direct iss op tag w = s := by
  unfold State.direct; rcases h with h | h <;> simp [h]

/-- One that is taken is run by its engine: it completes as its turn says. -/
theorem State.direct_done {s : State} {iss : Issuer} {op : Nat} {tag : BitVec 6} {w : List Word} {c : Ctl} {s1 t : State} {st pr : Nat}
    {res : List Word} (h : CtlTaken op iss tag w s c s1) (hr : runCtl iss c s1 = .done t st pr res) :
    s.direct iss op tag w = t.finish iss c st pr res := by
  obtain ⟨e, he, rfl⟩ := h.engine
  have hc := h.ctl
  have hroom := h.room
  subst hc
  unfold State.direct
  simp only [h.runs, h.may, Bool.and_self, Bool.true_eq_false, if_false, he]
  unfold State.turn
  simp only [State.taken] at hr hroom
  simp only [hroom, Bool.true_eq_false, if_false, hr]

/-- One that waits parks. -/
theorem State.direct_wait {s : State} {iss : Issuer} {op : Nat} {tag : BitVec 6} {w : List Word} {c d : Ctl} {s1 t : State}
    (h : CtlTaken op iss tag w s c s1) (hr : runCtl iss c s1 = .wait t d) : s.direct iss op tag w = t.park iss d := by
  obtain ⟨e, he, rfl⟩ := h.engine
  have hc := h.ctl
  have hroom := h.room
  subst hc
  unfold State.direct
  simp only [h.runs, h.may, Bool.and_self, Bool.true_eq_false, if_false, he]
  unfold State.turn
  simp only [State.taken] at hr hroom
  simp only [hroom, Bool.true_eq_false, if_false, hr]

/-- A control instruction that starts does its work. -/
theorem runCtl_of {s : State} {iss : Issuer} {op : Nat} {tag : BitVec 6} {w : List Word} {c : Ctl} {s1 : State} {n m : Nat} {p : Bool} {f : CtlFn}
    (h : CtlIssues op iss tag w s c s1) (hop : ctlOp op = some (n, m, p, f)) : runCtl iss c s1 = f iss c s1 := by
  have hc := h.ctl
  have hf := s.directCtl_fresh iss op tag.toNat w
  rw [← hc] at hf
  have hm := h.mode _ hop
  have hw := h.words _ hop
  have hr := h.right _ hop
  unfold runCtl
  simp only [hf.1, hf.2.2.1, hop, hf.2.1, Bool.false_eq_true, if_false, hf.2.2.2]
  rw [if_neg (by simp only [hm]; decide), if_neg (by rintro ⟨a, b⟩; rw [hr a] at b; cases b), if_neg (by omega)]

/-- A control instruction that starts completes as its work says. -/
theorem State.direct_issues {s : State} {iss : Issuer} {op : Nat} {tag : BitVec 6} {w : List Word} {c : Ctl} {s1 t : State} {n m : Nat} {p : Bool}
    {f : CtlFn} {st pr : Nat} {res : List Word} (h : CtlIssues op iss tag w s c s1) (hop : ctlOp op = some (n, m, p, f))
    (hf : f iss c s1 = .done t st pr res) : s.direct iss op tag w = t.finish iss c st pr res :=
  State.direct_done h.toCtlTaken ((runCtl_of h hop).trans hf)

/-- A control instruction that starts parks as its work says. -/
theorem State.direct_parks {s : State} {iss : Issuer} {op : Nat} {tag : BitVec 6} {w : List Word} {c d : Ctl} {s1 t : State} {n m : Nat} {p : Bool}
    {f : CtlFn} (h : CtlIssues op iss tag w s c s1) (hop : ctlOp op = some (n, m, p, f)) (hf : f iss c s1 = .wait t d) :
    s.direct iss op tag w = t.park iss d :=
  State.direct_wait h.toCtlTaken ((runCtl_of h hop).trans hf)

end Sys2Proof.Machine
end

