-- ==== Sys2Proof/Laws/Keeps.lean ====
section
/-!
SUPPORT. Laws/Keeps.lean: what an operation may do to the state, said once for each: `Keeps m s t` says that from `s` to `t` the
queue of commands is unchanged, what has left the device is only added to, free values are never taken back, the canonical form is
kept, and no part of the state but those that the mask `m` names has changed.
-/
namespace Sys2Proof.Machine
set_option Elab.async false

/-- The parts of the state that a mask does not name are the same. -/
structure Same (m : Nat) (s t : State) : Prop where
  regs : m.testBit 0 = true ∨ t.regs = s.regs := by first | exact .inl rfl | exact .inr rfl
  eng : m.testBit 1 = true ∨ t.eng = s.eng := by first | exact .inl rfl | exact .inr rfl
  tab : m.testBit 2 = true ∨ t.tab = s.tab := by first | exact .inl rfl | exact .inr rfl
  led : m.testBit 3 = true ∨ t.led = s.led := by first | exact .inl rfl | exact .inr rfl
  buf : m.testBit 4 = true ∨ t.buf = s.buf := by first | exact .inl rfl | exact .inr rfl
  tm : m.testBit 5 = true ∨ t.tm = s.tm := by first | exact .inl rfl | exact .inr rfl
  ports : m.testBit 6 = true ∨ t.ports = s.ports := by first | exact .inl rfl | exact .inr rfl
  time : m.testBit 7 = true ∨ t.time = s.time := by first | exact .inl rfl | exact .inr rfl
  cmd : m.testBit 8 = true ∨ t.cmd = s.cmd := by first | exact .inl rfl | exact .inr rfl
  tug : m.testBit 9 = true ∨ t.tug = s.tug := by first | exact .inl rfl | exact .inr rfl
  host : m.testBit 10 = true ∨ t.host = s.host := by first | exact .inl rfl | exact .inr rfl
  log : m.testBit 11 = true ∨ t.log = s.log := by first | exact .inl rfl | exact .inr rfl
  hbor : m.testBit 12 = true ∨ t.hbor = s.hbor := by first | exact .inl rfl | exact .inr rfl
  mode : m.testBit 13 = true ∨ t.mode = s.mode := by first | exact .inl rfl | exact .inr rfl
  dmem : m.testBit 14 = true ∨ t.dmem = s.dmem := by first | exact .inl rfl | exact .inr rfl
  hbm : m.testBit 15 = true ∨ t.hbm = s.hbm := by first | exact .inl rfl | exact .inr rfl
  hostMem : m.testBit 16 = true ∨ t.hostMem = s.hostMem := by first | exact .inl rfl | exact .inr rfl
  hbmBad : m.testBit 17 = true ∨ t.hbmBad = s.hbmBad := by first | exact .inl rfl | exact .inr rfl
  ns : m.testBit 18 = true ∨ t.ns = s.ns := by first | exact .inl rfl | exact .inr rfl

structure Keeps (m : Nat) (s t : State) : Prop where
  pending : t.pending = s.pending
  out : s.out <+: t.out
  free : s.freeCtr ≤ t.freeCtr
  canonical : s.Canonical → t.Canonical
  frame : Same m s t

theorem Same.refl {m : Nat} {s : State} : Same m s s := by constructor <;> exact .inr rfl

theorem Same.trans {m : Nat} {s t u : State} (h1 : Same m s t) (h2 : Same m t u) : Same m s u := by
  have e : ∀ {p : Prop} {α : Type} {a b c : α}, (p ∨ b = a) → (p ∨ c = b) → (p ∨ c = a) := fun h g =>
    h.elim .inl (fun h => g.elim .inl (fun g => .inr (g.trans h)))
  constructor
  · exact e h1.regs h2.regs
  · exact e h1.eng h2.eng
  · exact e h1.tab h2.tab
  · exact e h1.led h2.led
  · exact e h1.buf h2.buf
  · exact e h1.tm h2.tm
  · exact e h1.ports h2.ports
  · exact e h1.time h2.time
  · exact e h1.cmd h2.cmd
  · exact e h1.tug h2.tug
  · exact e h1.host h2.host
  · exact e h1.log h2.log
  · exact e h1.hbor h2.hbor
  · exact e h1.mode h2.mode
  · exact e h1.dmem h2.dmem
  · exact e h1.hbm h2.hbm
  · exact e h1.hostMem h2.hostMem
  · exact e h1.hbmBad h2.hbmBad
  · exact e h1.ns h2.ns

theorem Same.mono {m k : Nat} {s t : State} (h : Same m s t) (hk : m ||| k = k) : Same k s t := by
  have e : ∀ {i : Nat} {p : Prop}, (m.testBit i = true ∨ p) → (k.testBit i = true ∨ p) := fun h =>
    h.elim (fun h => .inl (by rw [← hk, Nat.testBit_or, h, Bool.true_or])) .inr
  constructor
  · exact e h.regs
  · exact e h.eng
  · exact e h.tab
  · exact e h.led
  · exact e h.buf
  · exact e h.tm
  · exact e h.ports
  · exact e h.time
  · exact e h.cmd
  · exact e h.tug
  · exact e h.host
  · exact e h.log
  · exact e h.hbor
  · exact e h.mode
  · exact e h.dmem
  · exact e h.hbm
  · exact e h.hostMem
  · exact e h.hbmBad
  · exact e h.ns

/-- A mask inside a mask inside a mask. -/
theorem Same.sub {k l m : Nat} (h1 : k ||| l = l) (h2 : l ||| m = m) : k ||| m = m := by
  rw [← h2, ← Nat.or_assoc, h1]

theorem Keeps.refl {m : Nat} {s : State} : Keeps m s s := ⟨rfl, List.prefix_refl _, Nat.le_refl _, id, Same.refl⟩

theorem Keeps.mono {m k : Nat} {s t : State} (h : Keeps m s t) (hk : m ||| k = k) : Keeps k s t :=
  ⟨h.pending, h.out, h.free, h.canonical, h.frame.mono hk⟩

theorem Keeps.trans {m : Nat} {s t u : State} (h1 : Keeps m s t) (h2 : Keeps m t u) : Keeps m s u :=
  ⟨h2.pending.trans h1.pending, h1.out.trans h2.out, Nat.le_trans h1.free h2.free, fun h => h2.canonical (h1.canonical h),
   h1.frame.trans h2.frame⟩

/-- An operation that changes the parts of `k` follows what has changed those of `m` only. -/
theorem Keeps.step {m k : Nat} {s t u : State} (h2 : Keeps k t u) (hk : k ||| m = m) (h1 : Keeps m s t) : Keeps m s u :=
  h1.trans (h2.mono hk)

/-- A part that has no canonical form of its own is changed. -/
theorem Keeps.plain {m : Nat} {s x y : State} (h : Keeps m s x) (hy : Same m x y)
    (hc : (y.pending, y.out, y.freeCtr, y.regs, y.dmem, y.hbm, y.hostMem) = (x.pending, x.out, x.freeCtr, x.regs, x.dmem, x.hbm, x.hostMem)) :
    Keeps m s y := by
  simp only [Prod.mk.injEq] at hc
  obtain ⟨h1, h2, h3, h4, h5, h6, h7⟩ := hc
  refine h.trans ⟨h1, h2 ▸ List.prefix_refl _, h3 ▸ Nat.le_refl _, fun c => ⟨?_, ?_, ?_, ?_⟩, hy⟩
  · rw [h4]; exact c.regs
  · rw [h5]; exact c.dmem
  · rw [h6]; exact c.hbm
  · rw [h7]; exact c.hostMem

/-- Registers or memories are changed too, in canonical form. -/
theorem Keeps.mem {m : Nat} {s x y : State} (h : Keeps m s x) (hy : Same m x y)
    (hc : (y.pending, y.out, y.freeCtr) = (x.pending, x.out, x.freeCtr)) (hr : Tab.wf x.regs = true → Tab.wf y.regs = true)
    (hd : x.dmem.wf = true → y.dmem.wf = true) (hb : x.hbm.wf = true → y.hbm.wf = true) (hh : x.hostMem.wf = true → y.hostMem.wf = true) :
    Keeps m s y := by
  simp only [Prod.mk.injEq] at hc
  obtain ⟨h1, h2, h3⟩ := hc
  exact h.trans ⟨h1, h2 ▸ List.prefix_refl _, h3 ▸ Nat.le_refl _, fun c => ⟨hr c.regs, hd c.dmem, hb c.hbm, hh c.hostMem⟩, hy⟩

theorem Keeps.of_fst {β : Type} {m : Nat} {s t : State} {p : State × β} {y : β} (h : Keeps m s p.1) (e : p = (t, y)) : Keeps m s t := by
  subst e
  exact h
theorem Keeps.of_snd {β : Type} {m : Nat} {s t : State} {p : β × State} {y : β} (h : Keeps m s p.2) (e : p = (y, t)) : Keeps m s t := by
  subst e
  exact h

theorem Keeps.foldl {m : Nat} {s x : State} {α : Type} {f : State → α → State} {l : List α} (hf : ∀ t a, Keeps m t (f t a))
    (h : Keeps m s x) : Keeps m s (l.foldl f x) := by
  induction l generalizing x with
  | nil => exact h
  | cons a l ih => exact ih (h.trans (hf x a))

/-- A fold whose accumulator carries the state first. -/
theorem Keeps.foldl_fst {m : Nat} {s : State} {α β : Type} {x : State × β} {f : State × β → α → State × β} {l : List α}
    (hf : ∀ t b a, Keeps m t (f (t, b) a).1) (h : Keeps m s x.1) : Keeps m s (l.foldl f x).1 := by
  induction l generalizing x with
  | nil => exact h
  | cons a l ih => exact ih (h.trans (hf x.1 x.2 a))

/-- Free values are taken. -/
theorem Keeps.freed {m : Nat} {s x y : State} (h : Keeps m s x) (hy : Same m x y)
    (hc : (y.pending, y.out, y.regs, y.dmem, y.hbm, y.hostMem) = (x.pending, x.out, x.regs, x.dmem, x.hbm, x.hostMem))
    (hf : x.freeCtr ≤ y.freeCtr) : Keeps m s y := by
  simp only [Prod.mk.injEq] at hc
  obtain ⟨h1, h2, h4, h5, h6, h7⟩ := hc
  refine h.trans ⟨h1, h2 ▸ List.prefix_refl _, hf, fun c => ⟨?_, ?_, ?_, ?_⟩, hy⟩
  · rw [h4]; exact c.regs
  · rw [h5]; exact c.dmem
  · rw [h6]; exact c.hbm
  · rw [h7]; exact c.hostMem

/-! ### The answers that carry a state -/

/-- Every next state that an outcome answers. -/
def KeepsOut (m : Nat) (s : State) (o : Outc) : Prop := ∀ t, o = .next t → Keeps m s t
theorem KeepsOut.next {m : Nat} {s t : State} (h : Keeps m s t) : KeepsOut m s (.next t) := fun _ e => by cases e; exact h
theorem KeepsOut.fault {m : Nat} {s : State} {r : Fault} : KeepsOut m s (.fault r) := fun _ e => by cases e
theorem KeepsOut.refused {m : Nat} {s : State} {r : Refusal} : KeepsOut m s (.refused r) := fun _ e => by cases e
theorem KeepsOut.step {m k : Nat} {s t : State} {o : Outc} (h2 : KeepsOut k t o) (hk : k ||| m = m) (h1 : Keeps m s t) : KeepsOut m s o :=
  fun u e => (h2 u e).step hk h1

/-- What an optional answer carries. -/
def KeepsOpt {α : Type} (m : Nat) (s : State) (f : α → State) (o : Option α) : Prop := ∀ t, o = some t → Keeps m s (f t)
theorem KeepsOpt.some {α : Type} {m : Nat} {s : State} {f : α → State} {t : α} (h : Keeps m s (f t)) : KeepsOpt m s f (some t) :=
  fun _ e => by cases e; exact h
theorem KeepsOpt.none {α : Type} {m : Nat} {s : State} {f : α → State} : KeepsOpt m s f none := fun _ e => by cases e
theorem KeepsOpt.step {α : Type} {m k : Nat} {s t : State} {f : α → State} {o : Option α} (h2 : KeepsOpt k t f o) (hk : k ||| m = m)
    (h1 : Keeps m s t) : KeepsOpt m s f o := fun u e => (h2 u e).step hk h1

/-- Every state that a `CtlOut` carries. -/
def KeepsCtl (m : Nat) (s : State) : CtlOut → Prop
  | .done t _ _ _ => Keeps m s t
  | .wait t _ => Keeps m s t
  | .more t _ => Keeps m s t
  | .gone t => Keeps m s t
theorem KeepsCtl.done {m : Nat} {s t : State} {a : Nat} {b : Nat} {l : List Word} (h : Keeps m s t) : KeepsCtl m s (.done t a b l) := h
theorem KeepsCtl.of_done {m : Nat} {s t : State} {a : Nat} {b : Nat} {l : List Word} {r : CtlOut} (h : KeepsCtl m s r) (e : r = .done t a b l) : Keeps m s t := by
  subst e
  exact h
theorem KeepsCtl.wait {m : Nat} {s t : State} {c : Ctl} (h : Keeps m s t) : KeepsCtl m s (.wait t c) := h
theorem KeepsCtl.of_wait {m : Nat} {s t : State} {c : Ctl} {r : CtlOut} (h : KeepsCtl m s r) (e : r = .wait t c) : Keeps m s t := by
  subst e
  exact h
theorem KeepsCtl.more {m : Nat} {s t : State} {c : Ctl} (h : Keeps m s t) : KeepsCtl m s (.more t c) := h
theorem KeepsCtl.of_more {m : Nat} {s t : State} {c : Ctl} {r : CtlOut} (h : KeepsCtl m s r) (e : r = .more t c) : Keeps m s t := by
  subst e
  exact h
theorem KeepsCtl.gone {m : Nat} {s t : State} (h : Keeps m s t) : KeepsCtl m s (.gone t) := h
theorem KeepsCtl.of_gone {m : Nat} {s t : State} {r : CtlOut} (h : KeepsCtl m s r) (e : r = .gone t) : Keeps m s t := by
  subst e
  exact h
theorem KeepsCtl.step {m k : Nat} {s t : State} {r : CtlOut} (h2 : KeepsCtl k t r) (hk : k ||| m = m) (h1 : Keeps m s t) : KeepsCtl m s r := by
  cases r <;> first | exact Keeps.step h2 hk h1 | trivial
/-- Every state that a `TugRes` carries. -/
def KeepsTug (m : Nat) (s : State) : TugRes → Prop
  | .ok t _ => Keeps m s t
  | .trap t _ => Keeps m s t
  | .stall => True
theorem KeepsTug.ok {m : Nat} {s t : State} {v : Word} (h : Keeps m s t) : KeepsTug m s (.ok t v) := h
theorem KeepsTug.of_ok {m : Nat} {s t : State} {v : Word} {r : TugRes} (h : KeepsTug m s r) (e : r = .ok t v) : Keeps m s t := by
  subst e
  exact h
theorem KeepsTug.trap {m : Nat} {s t : State} {k : Nat} (h : Keeps m s t) : KeepsTug m s (.trap t k) := h
theorem KeepsTug.of_trap {m : Nat} {s t : State} {k : Nat} {r : TugRes} (h : KeepsTug m s r) (e : r = .trap t k) : Keeps m s t := by
  subst e
  exact h
theorem KeepsTug.stall {m : Nat} {s : State} : KeepsTug m s (.stall) := trivial
theorem KeepsTug.step {m k : Nat} {s t : State} {r : TugRes} (h2 : KeepsTug k t r) (hk : k ||| m = m) (h1 : Keeps m s t) : KeepsTug m s r := by
  cases r <;> first | exact Keeps.step h2 hk h1 | trivial
/-- Every state that a `NatTry` carries. -/
def KeepsNat (m : Nat) (s : State) : NatTry → Prop
  | .made t _ => Keeps m s t
  | .wait => True
  | .full => True
theorem KeepsNat.made {m : Nat} {s t : State} {p : Nat} (h : Keeps m s t) : KeepsNat m s (.made t p) := h
theorem KeepsNat.of_made {m : Nat} {s t : State} {p : Nat} {r : NatTry} (h : KeepsNat m s r) (e : r = .made t p) : Keeps m s t := by
  subst e
  exact h
theorem KeepsNat.wait {m : Nat} {s : State} : KeepsNat m s (.wait) := trivial
theorem KeepsNat.full {m : Nat} {s : State} : KeepsNat m s (.full) := trivial
theorem KeepsNat.step {m k : Nat} {s t : State} {r : NatTry} (h2 : KeepsNat k t r) (hk : k ||| m = m) (h1 : Keeps m s t) : KeepsNat m s r := by
  cases r <;> first | exact Keeps.step h2 hk h1 | trivial
/-- Every state that a `Ask` carries. -/
def KeepsAsk (m : Nat) (s : State) : Ask → Prop
  | .done t => Keeps m s t
  | .wait t => Keeps m s t
  | .no _ => True
theorem KeepsAsk.done {m : Nat} {s t : State} (h : Keeps m s t) : KeepsAsk m s (.done t) := h
theorem KeepsAsk.of_done {m : Nat} {s t : State} {r : Ask} (h : KeepsAsk m s r) (e : r = .done t) : Keeps m s t := by
  subst e
  exact h
theorem KeepsAsk.wait {m : Nat} {s t : State} (h : Keeps m s t) : KeepsAsk m s (.wait t) := h
theorem KeepsAsk.of_wait {m : Nat} {s t : State} {r : Ask} (h : KeepsAsk m s r) (e : r = .wait t) : Keeps m s t := by
  subst e
  exact h
theorem KeepsAsk.no {m : Nat} {s : State} {k : Nat} : KeepsAsk m s (.no k) := trivial
theorem KeepsAsk.step {m k : Nat} {s t : State} {r : Ask} (h2 : KeepsAsk k t r) (hk : k ||| m = m) (h1 : Keeps m s t) : KeepsAsk m s r := by
  cases r <;> first | exact Keeps.step h2 hk h1 | trivial
/-- Every state that a `Wrote` carries. -/
def KeepsWrote (m : Nat) (s : State) : Wrote → Prop
  | .ok t => Keeps m s t
  | .no _ => True
theorem KeepsWrote.ok {m : Nat} {s t : State} (h : Keeps m s t) : KeepsWrote m s (.ok t) := h
theorem KeepsWrote.of_ok {m : Nat} {s t : State} {r : Wrote} (h : KeepsWrote m s r) (e : r = .ok t) : Keeps m s t := by
  subst e
  exact h
theorem KeepsWrote.no {m : Nat} {s : State} {k : Nat} : KeepsWrote m s (.no k) := trivial
theorem KeepsWrote.step {m k : Nat} {s t : State} {r : Wrote} (h2 : KeepsWrote k t r) (hk : k ||| m = m) (h1 : Keeps m s t) : KeepsWrote m s r := by
  cases r <;> first | exact Keeps.step h2 hk h1 | trivial
theorem KeepsOpt.of_some {α : Type} {m : Nat} {s : State} {f : α → State} {o : Option α} {t : α} (h : KeepsOpt m s f o) (e : o = .some t) :
    Keeps m s (f t) := h t e
theorem KeepsOut.of_next {m : Nat} {s t : State} {o : Outc} (h : KeepsOut m s o) (e : o = .next t) : Keeps m s t := h t e

/-! ### Where the canonical form is made -/

theorem State.setReg_keeps {s : State} {r : Reg} {i : Nat} {v : RegVal} : Keeps 1 s (s.setReg r i v) :=
  ⟨rfl, List.prefix_refl _, Nat.le_refl _, fun c => ⟨Tab.wf_put _ _ c.regs, c.dmem, c.hbm, c.hostMem⟩, {}⟩

theorem State.useFree_keeps {s : State} : Keeps 0 s s.useFree :=
  ⟨rfl, List.prefix_refl _, Nat.le_succ _, fun c => ⟨c.regs, c.dmem, c.hbm, c.hostMem⟩, {}⟩

theorem State.emit_keeps {s : State} {e : OutEv} : Keeps 0 s (s.emit e) :=
  ⟨rfl, List.prefix_append _ _, Nat.le_refl _, fun c => ⟨c.regs, c.dmem, c.hbm, c.hostMem⟩, {}⟩

end Sys2Proof.Machine
end

