-- ==== Sys2Proof/Laws/KeepsBase.lean ====
section
/-!
SUPPORT. Laws/KeepsBase.lean: one lemma `f_keeps` for each operation `f` of the model that answers a state (the shared operations, events, table replicas, the buffer manager, the traffic manager, meters and the flow ledger):
what it may do to the state, in the terms of Laws/Keeps.lean; the mask names the parts it may change.
-/
namespace Sys2Proof.Machine
set_option Elab.async false

/-! ### Machine/Ops.lean -/

theorem State.set_keeps {s : State} {f : Fld} {i : Nat} {x : Nat} : Keeps 1 s (State.set s f i x) := by
  unfold State.set
  exact State.setReg_keeps.mono rfl

theorem State.setBit_keeps {s : State} {f : Fld} {i : Nat} {b : Bool} : Keeps 1 s (State.setBit s f i b) := by
  unfold State.setBit
  exact State.set_keeps.mono rfl

theorem State.addTo_keeps {s : State} {f : Fld} {i : Nat} {n : Nat} : Keeps 1 s (State.addTo s f i n) := by
  unfold State.addTo
  exact State.set_keeps.mono rfl

theorem State.bump_keeps {s : State} {f : Fld} {i : Nat} : Keeps 1 s (State.bump s f i) := by
  unfold State.bump
  exact State.addTo_keeps.mono rfl

theorem State.bumpIf_keeps {s : State} {b : Bool} {f : Fld} {i : Nat} : Keeps 1 s (State.bumpIf s b f i) := by
  unfold State.bumpIf
  split
  · exact State.bump_keeps.mono rfl
  · exact Keeps.refl

theorem State.setG_keeps {s : State} {x : CtxId} {r : RegNo} {v : Word} : Keeps 2 s (State.setG s x r v) := by
  unfold State.setG
  split
  · exact Keeps.refl
  · exact Keeps.plain (x := s) Keeps.refl {} rfl

theorem State.zeroG_keeps {s : State} {x : CtxId} : Keeps 2 s (State.zeroG s x) := by
  unfold State.zeroG
  exact Keeps.plain (x := s) Keeps.refl {} rfl

theorem State.setCtx_keeps {s : State} {x : CtxId} {c : Ctx} : Keeps 2 s (State.setCtx s x c) := by
  unfold State.setCtx
  exact Keeps.plain (x := s) Keeps.refl {} rfl

theorem State.delCtx_keeps {s : State} {x : CtxId} : Keeps 2 s (State.delCtx s x) := by
  unfold State.delCtx
  exact Keeps.plain (x := s) Keeps.refl {} rfl

theorem State.updCtx_keeps {s : State} {x : CtxId} {f : Ctx → Ctx} : Keeps 2 s (State.updCtx s x f) := by
  unfold State.updCtx
  split
  · exact State.setCtx_keeps.mono rfl
  · exact Keeps.refl

theorem State.setFrame_keeps {s : State} {fid : Nat} {f : Frame} : Keeps 2 s (State.setFrame s fid f) := by
  unfold State.setFrame
  exact Keeps.plain (x := s) Keeps.refl {} rfl

theorem State.delFrame_keeps {s : State} {fid : Nat} : Keeps 2 s (State.delFrame s fid) := by
  unfold State.delFrame
  exact Keeps.plain (x := s) Keeps.refl {} rfl

theorem State.updFrame_keeps {s : State} {fid : Nat} {f : Frame → Frame} : Keeps 2 s (State.updFrame s fid f) := by
  unfold State.updFrame
  split
  · exact State.setFrame_keeps.mono rfl
  · exact Keeps.refl

theorem State.setQuay_keeps {s : State} {q : Nat} {v : QuaySt} : Keeps 2 s (State.setQuay s q v) := by
  unfold State.setQuay
  exact Keeps.plain (x := s) Keeps.refl {} rfl

theorem State.setSlice_keeps {s : State} {n : Nat} {v : SliceSt} : Keeps 8 s (State.setSlice s n v) := by
  unfold State.setSlice
  exact Keeps.plain (x := s) Keeps.refl {} rfl

theorem State.setPortSt_keeps {s : State} {p : Nat} {v : PortSt} : Keeps 64 s (State.setPortSt s p v) := by
  unfold State.setPortSt
  exact Keeps.plain (x := s) Keeps.refl {} rfl

theorem State.setBase_keeps {s : State} {b : Nat} {v : Base} : Keeps 128 s (State.setBase s b v) := by
  unfold State.setBase
  exact Keeps.plain (x := s) Keeps.refl {} rfl

theorem State.setChan_keeps {s : State} {c : Nat} {v : ChanSt} : Keeps 256 s (State.setChan s c v) := by
  unfold State.setChan
  exact Keeps.plain (x := s) Keeps.refl {} rfl

theorem State.setTport_keeps {s : State} {t : Nat} {v : TugPort} : Keeps 256 s (State.setTport s t v) := by
  unfold State.setTport
  exact Keeps.plain (x := s) Keeps.refl {} rfl

theorem State.setTcore_keeps {s : State} {t : Nat} {v : TCore} : Keeps 512 s (State.setTcore s t v) := by
  unfold State.setTcore
  exact Keeps.plain (x := s) Keeps.refl {} rfl

theorem State.setTask_keeps {s : State} {k : Nat} {v : Task} : Keeps 512 s (State.setTask s k v) := by
  unfold State.setTask
  exact Keeps.plain (x := s) Keeps.refl {} rfl

/-! ### Machine/Events.lean -/

theorem State.dWrite_keeps {s : State} {t : Nat} {a : Nat} {l : List Byte} : Keeps 49152 s (State.dWrite s t a l) := by
  unfold State.dWrite
  split
  · refine Keeps.mem (x := s) Keeps.refl {} rfl id id (Memory.wf_setBytes _ _) id
  · refine Keeps.mem (x := s) Keeps.refl {} rfl id (Memory.wf_setBytes _ _) id id

theorem State.hostWrite_keeps {s : State} {fn : Nat} {a : Nat} {l : List Byte} : Keeps 65536 s (State.hostWrite s fn a l) := by
  unfold State.hostWrite
  refine Keeps.mem (x := s) Keeps.refl {} rfl id id id (Memory.wf_setBytes _ _)

theorem State.chWrite_keeps {s : State} {c : Nat} {a : Nat} {l : List Byte} : Keeps 114688 s (State.chWrite s c a l) := by
  unfold State.chWrite
  split
  · exact State.dWrite_keeps.mono rfl
  · exact State.hostWrite_keeps.mono rfl

theorem State.sendVector_keeps {s : State} {v : Nat} : Keeps 1024 s (State.sendVector s v) := by
  unfold State.sendVector
  split
  · exact State.emit_keeps.mono rfl
  · split
    · exact Keeps.refl
    · exact Keeps.plain (x := s) Keeps.refl {} rfl

theorem State.hostErr_keeps {s : State} {b : Nat} : Keeps 1025 s (State.hostErr s b) := by
  unfold State.hostErr
  extract_lets +onlyGivenNames y0
  clear_value y0
  split
  · exact Keeps.refl
  · extract_lets +onlyGivenNames y3
    have h4 : Keeps 1025 s y3 := by
      subst y3
      exact State.set_keeps.mono rfl
    clear_value y3
    split
    · assumption
    · exact Keeps.step State.sendVector_keeps rfl (by assumption)

theorem State.setReady_keeps {s : State} {lvl : Nat} {l : List Nat} : Keeps 512 s (State.setReady s lvl l) := by
  unfold State.setReady
  exact Keeps.plain (x := s) Keeps.refl {} rfl

theorem State.makeReady_keeps {s : State} {k : Nat} : Keeps 513 s (State.makeReady s k) := by
  unfold State.makeReady
  extract_lets +onlyGivenNames y0
  clear_value y0
  refine Keeps.step State.setReady_keeps rfl (Keeps.step State.set_keeps rfl ?_)
  exact Keeps.refl

theorem State.undelay_keeps {s : State} {k : Nat} : Keeps 512 s (State.undelay s k) := by
  unfold State.undelay
  exact Keeps.plain (x := s) Keeps.refl {} rfl

theorem State.wakeOnFlags_keeps {s : State} {k : Nat} : Keeps 513 s (State.wakeOnFlags s k) := by
  unfold State.wakeOnFlags
  extract_lets +onlyGivenNames y0
  clear_value y0
  split
  · exact Keeps.refl
  · extract_lets +onlyGivenNames y7
    clear_value y7
    split
    · exact Keeps.refl
    · extract_lets +onlyGivenNames y13
      have h14 : Keeps 513 s y13 := by
        subst y13
        split
        · exact Keeps.refl
        · exact State.set_keeps.mono rfl
      clear_value y13
      extract_lets +onlyGivenNames y17
      clear_value y17
      refine Keeps.step State.makeReady_keeps rfl (Keeps.step State.undelay_keeps rfl ?_)
      exact Keeps.step State.setTask_keeps rfl (by assumption)

theorem State.signal_keeps {s : State} {k : Nat} {bits : BitVec 32} : Keeps 513 s (State.signal s k bits) := by
  unfold State.signal
  split
  · exact Keeps.refl
  · extract_lets +onlyGivenNames y2
    have h3 : Keeps 513 s y2 := by
      subst y2
      exact State.set_keeps.mono rfl
    clear_value y2
    split
    · exact Keeps.step State.wakeOnFlags_keeps rfl (by assumption)
    · assumption

theorem State.latchIrq_keeps {s : State} {t : Nat} {src : Nat} : Keeps 1 s (State.latchIrq s t src) := by
  unfold State.latchIrq
  extract_lets +onlyGivenNames y0
  clear_value y0
  split
  · exact Keeps.refl
  · exact State.set_keeps.mono rfl

theorem State.sample_keeps {s : State} {ctr : Nat} {e : PmcEv} : Keeps 33281 s (State.sample s ctr e) := by
  unfold State.sample
  split
  · extract_lets +onlyGivenNames y1 y2 y3
    clear_value y1 y2 y3
    split
    · extract_lets +onlyGivenNames y5
      have h6 : Keeps 33281 s y5 := by
        subst y5
        exact State.bump_keeps.mono rfl
      clear_value y5
      refine Keeps.plain (x := y5) ?_ {} rfl
      assumption
    · extract_lets +onlyGivenNames y8 y9 y10
      clear_value y8 y9 y10
      extract_lets +onlyGivenNames y11
      have h12 : Keeps 33281 s y11 := by
        subst y11
        refine Keeps.mem (x := s) Keeps.refl {} rfl id id (Memory.wf_setBytes _ _) id
      clear_value y11
      exact Keeps.step State.set_keeps rfl (by assumption)
  · exact Keeps.refl

theorem State.pmcOne_keeps {s : State} {n : Nat} {e : PmcEv} : Keeps 33281 s (State.pmcOne s n e) := by
  unfold State.pmcOne
  split
  · extract_lets +onlyGivenNames y1
    clear_value y1
    extract_lets +onlyGivenNames y2
    have h3 : Keeps 33281 s y2 := by
      subst y2
      exact State.set_keeps.mono rfl
    clear_value y2
    split
    · extract_lets +onlyGivenNames y5
      have h6 : Keeps 33281 s y5 := by
        subst y5
        exact Keeps.step State.setBit_keeps rfl (by assumption)
      clear_value y5
      split
      · exact Keeps.step State.sample_keeps rfl (by assumption)
      · assumption
    · assumption
  · exact Keeps.refl

theorem State.pmc_keeps {s : State} {e : PmcEv} : Keeps 33281 s (State.pmc s e) := by
  unfold State.pmc
  refine Keeps.foldl ?_ ?_
  · intro z0 z1
    exact State.pmcOne_keeps.mono rfl
  · exact Keeps.refl

theorem State.ccntOne_keeps {s : State} {t : Nat} {i : Nat} {code : Nat} {n : Nat} : Keeps 33281 s (State.ccntOne s t i code n) := by
  unfold State.ccntOne
  extract_lets +onlyGivenNames y0 y1 y2
  clear_value y0 y1 y2
  split
  · extract_lets +onlyGivenNames y4 y5
    clear_value y4 y5
    extract_lets +onlyGivenNames y6
    have h7 : Keeps 33281 s y6 := by
      subst y6
      exact State.setTcore_keeps.mono rfl
    clear_value y6
    split
    · extract_lets +onlyGivenNames y9
      have h10 : Keeps 33281 s y9 := by
        subst y9
        exact Keeps.step State.set_keeps rfl (by assumption)
      clear_value y9
      extract_lets +onlyGivenNames y11
      have h12 : Keeps 33281 s y11 := by
        subst y11
        split
        · exact Keeps.step State.latchIrq_keeps rfl (by assumption)
        · assumption
      clear_value y11
      split
      · exact Keeps.step State.sample_keeps rfl (by assumption)
      · assumption
    · assumption
  · exact Keeps.refl

theorem State.ccnt_keeps {s : State} {t : Nat} {code : Nat} {n : Nat} : Keeps 33281 s (State.ccnt s t code n) := by
  unfold State.ccnt
  refine Keeps.foldl ?_ ?_
  · intro z0 z1
    exact State.ccntOne_keeps.mono rfl
  · exact Keeps.refl

theorem State.captureRec_keeps {s : State} {kind : Nat} {body : List Byte} : Keeps 2049 s (State.captureRec s kind body) := by
  unfold State.captureRec
  split
  · extract_lets +onlyGivenNames y1
    clear_value y1
    split
    · exact Keeps.plain (x := s) Keeps.refl {} rfl
    · exact State.bump_keeps.mono rfl
  · exact Keeps.refl

theorem State.exqPut_keeps {s : State} {head : List Byte} {body : List Byte} : Keeps 16897 s (State.exqPut s head body) := by
  unfold State.exqPut
  extract_lets +onlyGivenNames y0
  clear_value y0
  split
  · extract_lets +onlyGivenNames y2 y3 y4
    clear_value y2 y3 y4
    extract_lets +onlyGivenNames y5
    have h6 : Keeps 16897 s y5 := by
      subst y5
      refine Keeps.mem (x := s) Keeps.refl {} rfl id (Memory.wf_setBytes _ _) id id
    clear_value y5
    exact Keeps.step State.signal_keeps rfl (by assumption)
  · exact State.bump_keeps.mono rfl

theorem State.exqRec_keeps {s : State} {kind : Nat} {body : List Byte} : Keeps 16897 s (State.exqRec s kind body) := by
  unfold State.exqRec
  exact State.exqPut_keeps.mono rfl

theorem State.chPut_keeps {s : State} {c : Nat} {a : Nat} {l : List Byte} : Keeps 115201 s (State.chPut s c a l) := by
  unfold State.chPut
  extract_lets +onlyGivenNames y0
  have h1 : Keeps 115201 s y0 := by
    subst y0
    exact State.chWrite_keeps.mono rfl
  clear_value y0
  split
  · assumption
  · exact Keeps.step State.pmc_keeps rfl (by assumption)

theorem State.chGot_keeps {s : State} {c : Nat} {a : Nat} {n : Nat} : Keeps 33281 s (State.chGot s c a n) := by
  unfold State.chGot
  split
  · exact Keeps.refl
  · exact State.pmc_keeps.mono rfl

theorem State.entryWritten_keeps {s : State} {c : Nat} : Keeps 257 s (State.entryWritten s c) := by
  unfold State.entryWritten
  extract_lets +onlyGivenNames y0
  clear_value y0
  refine Keeps.step State.bump_keeps rfl (Keeps.step State.setChan_keeps rfl ?_)
  exact Keeps.refl

theorem State.evtWrite_keeps {s : State} {c : Nat} {kind : Nat} {body : List Byte} : Keeps 115457 s (State.evtWrite s c kind body) := by
  unfold State.evtWrite
  extract_lets +onlyGivenNames y0 y1
  clear_value y0 y1
  extract_lets +onlyGivenNames y2
  have h3 : Keeps 115457 s y2 := by
    subst y2
    exact State.chPut_keeps.mono rfl
  clear_value y2
  extract_lets +onlyGivenNames y4
  clear_value y4
  extract_lets +onlyGivenNames y5
  have h6 : Keeps 115457 s y5 := by
    subst y5
    exact Keeps.step State.setChan_keeps rfl (by assumption)
  clear_value y5
  exact Keeps.step State.entryWritten_keeps rfl (by assumption)

theorem State.evtDrop_keeps {s : State} {c : Nat} : Keeps 257 s (State.evtDrop s c) := by
  unfold State.evtDrop
  extract_lets +onlyGivenNames y0
  clear_value y0
  refine Keeps.step State.bump_keeps rfl (Keeps.step State.setChan_keeps rfl ?_)
  exact Keeps.refl

theorem State.evtTo_keeps {s : State} {h : Nat} {kind : Nat} {body : List Byte} : Keeps 115457 s (State.evtTo s h kind body).1 := by
  unfold State.evtTo
  split
  · extract_lets +onlyGivenNames y1
    have h2 : Keeps 115457 s y1 := by
      subst y1
      exact State.exqRec_keeps.mono rfl
    clear_value y1
    dsimp only
    assumption
  · split
    · extract_lets +onlyGivenNames y5 y6
      clear_value y5 y6
      split
      · dsimp only
        exact State.evtWrite_keeps.mono rfl
      · split
        · dsimp only
          exact State.evtDrop_keeps.mono rfl
        · dsimp only
          exact State.setChan_keeps.mono rfl
    · split
      · dsimp only
        exact State.bump_keeps.mono rfl
      · dsimp only
        exact Keeps.refl

theorem State.evtOr_keeps {s : State} {h : Nat} {kind : Nat} {body : List Byte} {f : Fld} : Keeps 115457 s (State.evtOr s h kind body f) := by
  unfold State.evtOr
  extract_lets +onlyGivenNames y0
  have h1 : Keeps 115457 s y0.1 := by
    subst y0
    exact State.evtTo_keeps.mono rfl
  clear_value y0
  split
  · exact Keeps.step State.bump_keeps rfl (by assumption)
  · assumption

theorem State.evtPost_keeps {s : State} {h : Nat} {kind : Nat} {body : List Byte} : Keeps 115457 s (State.evtPost s h kind body) := by
  unfold State.evtPost
  exact State.evtTo_keeps.mono rfl

theorem State.cmdEvent_keeps {s : State} {ty : Nat} {unit : Nat} {status : Nat} {value : Nat} : Keeps 117505 s (State.cmdEvent s ty unit status value) := by
  unfold State.cmdEvent
  extract_lets +onlyGivenNames y0
  clear_value y0
  refine Keeps.step State.evtOr_keeps rfl (Keeps.step State.captureRec_keeps rfl ?_)
  exact Keeps.refl

theorem State.rasEventAt_keeps {s : State} {t : Stamp} {ty : Nat} {b1 : Nat} {b2 : Nat} {w4 : Nat} {v8 : Nat} : Keeps 117505 s (State.rasEventAt s t ty b1 b2 w4 v8) := by
  unfold State.rasEventAt
  extract_lets +onlyGivenNames y0 y1
  clear_value y0 y1
  refine Keeps.step State.useFree_keeps rfl (Keeps.step State.evtOr_keeps rfl ?_)
  exact State.captureRec_keeps.mono rfl

theorem State.rasEvent_keeps {s : State} {ty : Nat} {b1 : Nat} {b2 : Nat} {w4 : Nat} {v8 : Nat} : Keeps 117505 s (State.rasEvent s ty b1 b2 w4 v8) := by
  unfold State.rasEvent
  exact State.rasEventAt_keeps.mono rfl

theorem State.settleTrans_keeps {s : State} {status : Nat} : Keeps 8448 s (State.settleTrans s status) := by
  unfold State.settleTrans
  split
  · exact Keeps.refl
  · extract_lets +onlyGivenNames y5
    clear_value y5
    exact Keeps.plain (x := s) Keeps.refl {} rfl

theorem State.setCause_keeps {s : State} {b : Nat} : Keeps 12545 s (State.setCause s b) := by
  unfold State.setCause
  extract_lets +onlyGivenNames y0
  clear_value y0
  split
  · exact Keeps.refl
  · extract_lets +onlyGivenNames y3
    clear_value y3
    extract_lets +onlyGivenNames y4
    have h5 : Keeps 12545 s y4 := by
      subst y4
      exact State.set_keeps.mono rfl
    clear_value y4
    extract_lets +onlyGivenNames y6
    clear_value y6
    extract_lets +onlyGivenNames y7
    have h8 : Keeps 12545 s y7 := by
      subst y7
      refine Keeps.plain (x := y4) ?_ {} rfl
      assumption
    clear_value y7
    extract_lets +onlyGivenNames y9
    have h10 : Keeps 12545 s y9 := by
      subst y9
      split
      · exact Keeps.step State.setBit_keeps rfl (by assumption)
      · assumption
    clear_value y9
    split
    · split
      · assumption
      · extract_lets +onlyGivenNames y19
        have h20 : Keeps 12545 s y19 := by
          subst y19
          exact Keeps.step State.settleTrans_keeps rfl (by assumption)
        clear_value y19
        extract_lets +onlyGivenNames y21
        have h22 : Keeps 12545 s y21 := by
          subst y21
          exact Keeps.step State.set_keeps rfl (by assumption)
        clear_value y21
        refine Keeps.plain (x := y21) ?_ {} rfl
        assumption
    · refine Keeps.plain (x := y9) ?_ {} rfl
      assumption

theorem State.mcheck_keeps {s : State} {k : Nat} {addr : Nat} {master : Nat} : Keeps 130817 s (State.mcheck s k addr master) := by
  unfold State.mcheck
  extract_lets +onlyGivenNames y0 y1 y2
  clear_value y0 y1 y2
  extract_lets +onlyGivenNames y3
  have h4 : Keeps 130817 s y3 := by
    subst y3
    exact State.set_keeps.mono rfl
  clear_value y3
  extract_lets +onlyGivenNames y5
  have h6 : Keeps 130817 s y5 := by
    subst y5
    refine Keeps.step State.set_keeps rfl (Keeps.step State.set_keeps rfl ?_)
    exact Keeps.step State.set_keeps rfl (by assumption)
  clear_value y5
  extract_lets +onlyGivenNames y7
  have h8 : Keeps 130817 s y7 := by
    subst y7
    exact Keeps.step State.set_keeps rfl (by assumption)
  clear_value y7
  extract_lets +onlyGivenNames y9
  have h10 : Keeps 130817 s y9 := by
    subst y9
    exact Keeps.step State.rasEvent_keeps rfl (by assumption)
  clear_value y9
  extract_lets +onlyGivenNames y11
  have h12 : Keeps 130817 s y11 := by
    subst y11
    refine Keeps.foldl ?_ ?_
    · intro z13 z14
      split
      · exact State.latchIrq_keeps.mono rfl
      · exact Keeps.refl
    · assumption
  clear_value y11
  extract_lets +onlyGivenNames y17
  have h18 : Keeps 130817 s y17 := by
    subst y17
    exact Keeps.step State.hostErr_keeps rfl (by assumption)
  clear_value y17
  split
  · exact Keeps.step State.setCause_keeps rfl (by assumption)
  · split
    · refine Keeps.plain (x := y17) ?_ {} rfl
      assumption
    · assumption

/-! ### Machine/Tables.lean -/

theorem State.unbad_keeps {s : State} {kind : Nat} {ix : Nat} : Keeps 4 s (State.unbad s kind ix) := by
  unfold State.unbad
  split
  · exact Keeps.refl
  · exact Keeps.plain (x := s) Keeps.refl {} rfl

theorem State.parityEvent_keeps {s : State} {kind : Nat} {g : Nat} {ix : Nat} : Keeps 5 s (State.parityEvent s kind g ix) := by
  unfold State.parityEvent
  extract_lets +onlyGivenNames y0
  have h1 : Keeps 5 s y0 := by
    subst y0
    exact State.bump_keeps.mono rfl
  clear_value y0
  extract_lets +onlyGivenNames y2
  clear_value y2
  extract_lets +onlyGivenNames y3
  have h4 : Keeps 5 s y3 := by
    subst y3
    split
    · assumption
    · refine Keeps.plain (x := y0) ?_ {} rfl
      assumption
  clear_value y3
  split
  · assumption
  · refine Keeps.plain (x := y3) ?_ {} rfl
    assumption

theorem State.setEm_keeps {s : State} {ix : Nat} {e : EmEntry} : Keeps 4 s (State.setEm s ix e) := by
  unfold State.setEm
  exact Keeps.step State.unbad_keeps rfl (Keeps.plain (x := s) Keeps.refl {} rfl)

theorem State.delEm_keeps {s : State} {ix : Nat} : Keeps 4 s (State.delEm s ix) := by
  unfold State.delEm
  exact Keeps.step State.unbad_keeps rfl (Keeps.plain (x := s) Keeps.refl {} rfl)

theorem State.emMove_keeps {s : State} {m : Nat × Nat} : Keeps 4 s (State.emMove s m) := by
  unfold State.emMove
  split
  · exact Keeps.step State.delEm_keeps rfl (State.setEm_keeps.mono rfl)
  · exact Keeps.refl

theorem State.emPut_keeps {s : State} {p : Nat} {key : List Byte} {data : BitVec 40} {static : Bool} : Keeps 5 s (State.emPut s p key data static).1 := by
  unfold State.emPut
  extract_lets +onlyGivenNames y0 y1
  clear_value y0 y1
  extract_lets +onlyGivenNames y2
  have h3 : Keeps 5 s y2 := by
    subst y2
    exact Keeps.plain (x := s) Keeps.refl {} rfl
  clear_value y2
  split
  · dsimp only
    refine Keeps.step State.setEm_keeps rfl (Keeps.foldl ?_ ?_)
    · intro z8 z9
      exact State.emMove_keeps.mono rfl
    · assumption
  · split
    · dsimp only
      refine Keeps.step State.bump_keeps rfl (Keeps.step State.setEm_keeps rfl ?_)
      assumption
    · dsimp only
      exact Keeps.step State.bump_keeps rfl (by assumption)

theorem State.emUnstash_keeps {s : State} {p : Nat} {a : List (Nat × EmEntry)} : Keeps 4 s (State.emUnstash s p a) := by
  induction a generalizing s p
  · rw [State.emUnstash]
    exact Keeps.refl
  · rename_i ih
    rw [State.emUnstash]
    split
    · refine Keeps.step State.delEm_keeps rfl (Keeps.step State.setEm_keeps rfl (Keeps.foldl ?_ ?_))
      · intro z4 z5
        exact State.emMove_keeps.mono rfl
      · exact Keeps.refl
    · exact ih.mono rfl

theorem State.emRemove_keeps {s : State} {p : Nat} {ix : Nat} : Keeps 4 s (State.emRemove s p ix) := by
  unfold State.emRemove
  extract_lets +onlyGivenNames y0
  have h1 : Keeps 4 s y0 := by
    subst y0
    exact State.delEm_keeps.mono rfl
  clear_value y0
  exact Keeps.step State.emUnstash_keeps rfl (by assumption)

theorem State.markHit_keeps {s : State} {h : Option (Nat × Nat)} : Keeps 4 s (State.markHit s h) := by
  unfold State.markHit
  split
  · split
    · exact Keeps.plain (x := s) Keeps.refl {} rfl
    · exact Keeps.plain (x := s) Keeps.refl {} rfl
  · exact Keeps.refl

theorem State.learnPost_keeps {s : State} {g : Nat} {n : Notice} : Keeps 5 s (State.learnPost s g n) := by
  unfold State.learnPost
  split
  · extract_lets +onlyGivenNames y1
    clear_value y1
    split
    · exact Keeps.plain (x := s) Keeps.refl {} rfl
    · exact State.bump_keeps.mono rfl
  · exact Keeps.refl

theorem State.noticeOut_keeps {s : State} {n : Notice} : Keeps 115457 s (State.noticeOut s n) := by
  unfold State.noticeOut
  extract_lets +onlyGivenNames y0
  clear_value y0
  split
  · exact Keeps.step State.bump_keeps rfl (State.evtPost_keeps.mono rfl)
  · exact State.bump_keeps.mono rfl

theorem State.setGenState_keeps {s : State} {g : Bool} {x : Nat} : Keeps 1 s (State.setGenState s g x) := by
  unfold State.setGenState
  split
  · exact State.set_keeps.mono rfl
  · exact State.set_keeps.mono rfl

theorem State.setInflight_keeps {s : State} {g : Bool} {n : Nat} : Keeps 1 s (State.setInflight s g n) := by
  unfold State.setInflight
  split
  · exact State.set_keeps.mono rfl
  · exact State.set_keeps.mono rfl

theorem State.becomeShadow_keeps {s : State} {g : Bool} : Keeps 117509 s (State.becomeShadow s g) := by
  unfold State.becomeShadow
  extract_lets +onlyGivenNames y0
  have h1 : Keeps 117509 s y0 := by
    subst y0
    exact State.setGenState_keeps.mono rfl
  clear_value y0
  extract_lets +onlyGivenNames y2
  clear_value y2
  extract_lets +onlyGivenNames y3
  have h4 : Keeps 117509 s y3 := by
    subst y3
    refine Keeps.plain (x := y0) ?_ {} rfl
    assumption
  clear_value y3
  exact Keeps.step State.cmdEvent_keeps rfl (by assumption)

theorem State.retireCheck_keeps {s : State} {g : Bool} : Keeps 117509 s (State.retireCheck s g) := by
  unfold State.retireCheck
  split
  · exact State.becomeShadow_keeps.mono rfl
  · exact Keeps.refl

theorem State.flightStart_keeps {s : State} : Keeps 3 s (State.flightStart s).1 := by
  unfold State.flightStart
  extract_lets +onlyGivenNames y0 y1 y2
  clear_value y0 y1 y2
  extract_lets +onlyGivenNames y3
  have h4 : Keeps 3 s y3 := by
    subst y3
    exact Keeps.plain (x := s) Keeps.refl {} rfl
  clear_value y3
  dsimp only
  exact Keeps.step State.setInflight_keeps rfl (by assumption)

theorem State.flightAdd_keeps {s : State} {n : Nat} : Keeps 2 s (State.flightAdd s n) := by
  unfold State.flightAdd
  exact Keeps.plain (x := s) Keeps.refl {} rfl

theorem State.flightEnd_keeps {s : State} {n : Nat} : Keeps 117511 s (State.flightEnd s n) := by
  unfold State.flightEnd
  split
  · exact Keeps.refl
  · split
    · extract_lets +onlyGivenNames y7
      clear_value y7
      extract_lets +onlyGivenNames y8
      have h9 : Keeps 117511 s y8 := by
        subst y8
        exact Keeps.plain (x := s) Keeps.refl {} rfl
      clear_value y8
      refine Keeps.step State.retireCheck_keeps rfl (Keeps.step State.setInflight_keeps rfl ?_)
      assumption
    · exact Keeps.plain (x := s) Keeps.refl {} rfl

/-! ### Machine/Buffer.lean -/

theorem State.setPg_keeps {s : State} {k : Nat} {v : PgAcct} : Keeps 16 s (State.setPg s k v) := by
  unfold State.setPg
  exact Keeps.plain (x := s) Keeps.refl {} rfl

theorem State.sendFlow_keeps {s : State} {p : Nat} {mask : BitVec 8} {quanta : List Nat} : Keeps 1 s (State.sendFlow s p mask quanta) := by
  unfold State.sendFlow
  split
  · exact Keeps.refl
  · split
    · exact Keeps.step State.bump_keeps rfl (State.emit_keeps.mono rfl)
    · refine Keeps.foldl ?_ ?_
      · intro z6 z7
        exact State.bumpIf_keeps.mono rfl
      · exact State.emit_keeps.mono rfl
    · exact Keeps.refl

theorem State.xoffUpdate_keeps {s : State} {p : Nat} : Keeps 65 s (State.xoffUpdate s p) := by
  unfold State.xoffUpdate
  extract_lets +onlyGivenNames y0 y1
  clear_value y0 y1
  split
  · exact Keeps.refl
  · extract_lets +onlyGivenNames y4 y5 y6
    clear_value y4 y5 y6
    extract_lets +onlyGivenNames y7
    have h8 : Keeps 65 s y7 := by
      subst y7
      exact State.setPortSt_keeps.mono rfl
    clear_value y7
    split
    · split
      · exact Keeps.step State.sendFlow_keeps rfl (by assumption)
      · split
        · exact Keeps.step State.sendFlow_keeps rfl (by assumption)
        · assumption
    · exact Keeps.step State.sendFlow_keeps rfl (by assumption)

theorem State.setDesc_keeps {s : State} {b : Nat} {d : Desc} : Keeps 16 s (State.setDesc s b d) := by
  unfold State.setDesc
  exact Keeps.plain (x := s) Keeps.refl {} rfl

theorem State.delDesc_keeps {s : State} {b : Nat} : Keeps 16 s (State.delDesc s b) := by
  unfold State.delDesc
  exact Keeps.plain (x := s) Keeps.refl {} rfl

theorem State.allocFrom_keeps {s : State} {sp : Nat} {pick : Nat} {hdrm : Bool} {a : Nat} {arg5 : Nat} : Keeps 1 s (State.allocFrom s sp pick hdrm a arg5).1 := by
  induction a generalizing s sp pick hdrm arg5
  · rw [State.allocFrom]
    dsimp only
    exact Keeps.refl
  · rename_i ih
    rw [State.allocFrom]
    split
    · split
      · dsimp only
        exact State.bumpIf_keeps.mono rfl
      · dsimp only
        exact Keeps.refl
    · split
      · split
        · rename_i x12 _ x14
          have h15 : Keeps 1 s x12 := by
            refine Keeps.of_fst ?_ x14
            exact ih.mono rfl
          dsimp only
          exact Keeps.step State.bump_keeps rfl (by assumption)
        · exact ih.mono rfl
      · dsimp only
        exact Keeps.refl

theorem State.addQUsed_keeps {s : State} {q : Nat} {n : Nat} : Keeps 1 s (State.addQUsed s q n) := by
  unfold State.addQUsed
  split
  · exact State.set_keeps.mono rfl
  · exact Keeps.refl

theorem State.subQUsed_keeps {s : State} {q : Nat} {n : Nat} : Keeps 1 s (State.subQUsed s q n) := by
  unfold State.subQUsed
  split
  · exact State.set_keeps.mono rfl
  · exact Keeps.refl

theorem State.pgCheck_keeps {s : State} {k : Nat} : Keeps 81 s (State.pgCheck s k) := by
  unfold State.pgCheck
  extract_lets +onlyGivenNames y0 y1 y2 y3 y4
  clear_value y0 y1 y2 y3 y4
  split
  · exact Keeps.refl
  · exact Keeps.step State.xoffUpdate_keeps rfl (State.setPg_keeps.mono rfl)

theorem State.pgCharge_keeps {s : State} {k : Nat} {acct : Nat} {n : Nat} : Keeps 81 s (State.pgCharge s k acct n) := by
  unfold State.pgCharge
  extract_lets +onlyGivenNames y0
  clear_value y0
  refine Keeps.step State.pgCheck_keeps rfl ?_
  split
  · exact State.setPg_keeps.mono rfl
  · split
    · exact State.setPg_keeps.mono rfl
    · exact Keeps.refl

theorem State.pgRelease_keeps {s : State} {d : Desc} {n : Nat} : Keeps 81 s (State.pgRelease s d n) := by
  unfold State.pgRelease
  extract_lets +onlyGivenNames y0
  clear_value y0
  split
  · exact Keeps.step State.pgCheck_keeps rfl (State.setPg_keeps.mono rfl)
  · split
    · exact Keeps.step State.pgCheck_keeps rfl (State.setPg_keeps.mono rfl)
    · exact Keeps.refl

theorem State.ownerEvent_keeps {s : State} {status : Nat} {req : Nat} {tag : Nat} {bid : Nat} : Keeps 117505 s (State.ownerEvent s status req tag bid) := by
  unfold State.ownerEvent
  exact State.rasEvent_keeps.mono rfl

theorem State.ownerRefuse_keeps {s : State} {status : Nat} {req : Nat} {tag : Nat} {bid : Nat} : Keeps 117505 s (State.ownerRefuse s status req tag bid) := by
  unfold State.ownerRefuse
  refine Keeps.step State.ownerEvent_keeps rfl (Keeps.step State.bumpIf_keeps rfl ?_)
  exact State.bumpIf_keeps.mono rfl

theorem State.bufDrop_keeps {s : State} {b : Nat} {d : Desc} : Keeps 81 s (State.bufDrop s b d) := by
  unfold State.bufDrop
  refine Keeps.step State.pgRelease_keeps rfl (Keeps.step State.delDesc_keeps rfl ?_)
  exact Keeps.refl

theorem State.bufFree_keeps {s : State} {b : Nat} {req : Nat} : Keeps 117585 s (State.bufFree s b req).2 := by
  unfold State.bufFree
  split
  · dsimp only
    refine Keeps.step State.ownerRefuse_keeps rfl (Keeps.step State.useFree_keeps rfl ?_)
    exact Keeps.refl
  · split
    · dsimp only
      exact State.ownerRefuse_keeps.mono rfl
    · split
      · dsimp only
        exact State.ownerRefuse_keeps.mono rfl
      · dsimp only
        exact State.bufDrop_keeps.mono rfl

theorem State.refRelease_keeps {s : State} {b : Nat} {req : Nat} : Keeps 117585 s (State.refRelease s b req) := by
  unfold State.refRelease
  split
  · exact Keeps.step State.ownerRefuse_keeps rfl (State.useFree_keeps.mono rfl)
  · split
    · exact State.ownerRefuse_keeps.mono rfl
    · split
      · exact State.bufDrop_keeps.mono rfl
      · exact State.setDesc_keeps.mono rfl

theorem State.letGo_keeps {s : State} {b : Nat} {req : Nat} : Keeps 117585 s (State.letGo s b req) := by
  unfold State.letGo
  split
  · split
    · exact State.refRelease_keeps.mono rfl
    · exact State.bufFree_keeps.mono rfl
  · exact State.bufFree_keeps.mono rfl

theorem State.hbGrant_keeps {s : State} {h : Nat} {x : Nat} {mid : Nat} {refc : Bool} : Keeps 16 s (State.hbGrant s h x mid refc) := by
  unfold State.hbGrant
  exact Keeps.plain (x := s) Keeps.refl {} rfl

theorem State.hbAlloc_keeps {s : State} {h : Nat} {mid : Nat} {refc : Bool} : Keeps 16 s (State.hbAlloc s h mid refc).1 := by
  unfold State.hbAlloc
  split
  · dsimp only
    exact Keeps.refl
  · split
    · dsimp only
      exact State.hbGrant_keeps.mono rfl
    · dsimp only
      exact Keeps.refl

theorem State.hbFree_keeps {s : State} {h : Nat} {x : Nat} {req : Nat} : Keeps 117521 s (State.hbFree s h x req).2 := by
  unfold State.hbFree
  split
  · dsimp only
    refine Keeps.step State.ownerRefuse_keeps rfl (Keeps.step State.useFree_keeps rfl ?_)
    exact Keeps.refl
  · split
    · dsimp only
      exact State.ownerRefuse_keeps.mono rfl
    · split
      · dsimp only
        exact State.ownerRefuse_keeps.mono rfl
      · dsimp only
        exact Keeps.plain (x := s) Keeps.refl {} rfl

theorem State.hbLet_keeps {s : State} {h : Nat} {x : Nat} : Keeps 16 s (State.hbLet s h x) := by
  unfold State.hbLet
  exact Keeps.plain (x := s) Keeps.refl {} rfl

/-! ### Machine/Sched.lean -/

theorem State.shaperCharge_keeps {s : State} {lo : Nat} {e : Nat} : Keeps 32 s (State.shaperCharge s lo e) := by
  unfold State.shaperCharge
  split
  · exact Keeps.refl
  · extract_lets +onlyGivenNames y5 y6 y7 y8
    clear_value y5 y6 y7 y8
    exact Keeps.plain (x := s) Keeps.refl {} rfl

theorem State.shaperChange_keeps {s : State} {i : Nat} {full : Bool} : Keeps 33 s (State.shaperChange s i full) := by
  unfold State.shaperChange
  extract_lets +onlyGivenNames y0 y1 y2
  clear_value y0 y1 y2
  extract_lets +onlyGivenNames y3
  have h4 : Keeps 33 s y3 := by
    subst y3
    exact Keeps.plain (x := s) Keeps.refl {} rfl
  clear_value y3
  exact Keeps.step State.set_keeps rfl (by assumption)

theorem State.setGate_keeps {s : State} {p : Nat} {g : Gate} : Keeps 32 s (State.setGate s p g) := by
  unfold State.setGate
  exact Keeps.plain (x := s) Keeps.refl {} rfl

theorem State.setQueue_keeps {s : State} {q : Nat} {l : List Nat} : Keeps 32 s (State.setQueue s q l) := by
  unfold State.setQueue
  exact Keeps.plain (x := s) Keeps.refl {} rfl

theorem State.setCopy_keeps {s : State} {c : Nat} {v : Copy} : Keeps 32 s (State.setCopy s c v) := by
  unfold State.setCopy
  exact Keeps.plain (x := s) Keeps.refl {} rfl

theorem State.delCopy_keeps {s : State} {c : Nat} : Keeps 32 s (State.delCopy s c) := by
  unfold State.delCopy
  exact Keeps.plain (x := s) Keeps.refl {} rfl

theorem State.cbsTouch_keeps {s : State} {i : Nat} : Keeps 32 s (State.cbsTouch s i) := by
  unfold State.cbsTouch
  split
  · extract_lets +onlyGivenNames y1 y2 y3 y4 y5 y6 y7 y8
    clear_value y1 y2 y3 y4 y5 y6 y7 y8
    exact Keeps.plain (x := s) Keeps.refl {} rfl
  · exact Keeps.refl

theorem State.setCbs_keeps {s : State} {i : Nat} {c : Cbs} : Keeps 32 s (State.setCbs s i c) := by
  unfold State.setCbs
  exact Keeps.plain (x := s) Keeps.refl {} rfl

theorem State.dwrr_keeps {s : State} {e : Nat} {prio : Nat} {view : ChildView} {a : Nat} : Keeps 32 s (State.dwrr s e prio view a).1 := by
  induction a generalizing s e prio view
  · rw [State.dwrr]
    dsimp only
    exact Keeps.refl
  · rename_i ih
    rw [State.dwrr]
    split
    · dsimp only
      exact Keeps.refl
    · extract_lets +onlyGivenNames y5 y6 y7 y8 y9
      clear_value y5 y6 y7 y8 y9
      extract_lets +onlyGivenNames y10
      have h11 : Keeps 32 s y10 := by
        subst y10
        exact Keeps.plain (x := s) Keeps.refl {} rfl
      clear_value y10
      split
      · dsimp only
        refine Keeps.plain (x := y10) ?_ {} rfl
        assumption
      · extract_lets +onlyGivenNames y14
        clear_value y14
        extract_lets +onlyGivenNames y15
        have h16 : Keeps 32 s y15 := by
          subst y15
          refine Keeps.plain (x := y10) ?_ {} rfl
          assumption
        clear_value y15
        exact Keeps.step ih rfl (by assumption)

theorem State.syncLevel_keeps {s : State} {e : Nat} {prio : Nat} {kids : List Nat} : Keeps 32 s (State.syncLevel s e prio kids) := by
  unfold State.syncLevel
  extract_lets +onlyGivenNames y0 y1 y2 y3 y4 y5
  clear_value y0 y1 y2 y3 y4 y5
  exact Keeps.plain (x := s) Keeps.refl {} rfl

theorem State.wfqPick_keeps {s : State} {e : Nat} {prio : Nat} {kids : List Nat} {view : ChildView} : Keeps 32 s (State.wfqPick s e prio kids view).1 := by
  unfold State.wfqPick
  extract_lets +onlyGivenNames y0
  clear_value y0
  extract_lets +onlyGivenNames y1
  subst y1
  extract_lets +onlyGivenNames y2
  clear_value y2
  split
  · dsimp only
    exact Keeps.refl
  · extract_lets +onlyGivenNames y6 y7 y8
    clear_value y6 y7 y8
    extract_lets +onlyGivenNames y9
    have h10 : Keeps 32 s y9 := by
      subst y9
      exact Keeps.plain (x := s) Keeps.refl {} rfl
    clear_value y9
    dsimp only
    assumption

theorem State.descend_keeps {s : State} {slot : Nat} {a : Nat} {arg3 : Nat} : Keeps 32 s (State.descend s slot a arg3).1 := by
  induction a generalizing s slot arg3
  · rw [State.descend]
    dsimp only
    exact Keeps.refl
  · rename_i ih
    rw [State.descend]
    split
    · dsimp only
      exact Keeps.refl
    · extract_lets +onlyGivenNames y2 y3 y4
      clear_value y2 y3 y4
      split
      · dsimp only
        exact Keeps.refl
      · extract_lets +onlyGivenNames y11
        clear_value y11
        extract_lets +onlyGivenNames y12
        subst y12
        extract_lets +onlyGivenNames y13
        have h14 : Keeps 32 s y13 := by
          subst y13
          exact State.syncLevel_keeps.mono rfl
        clear_value y13
        extract_lets +onlyGivenNames y15
        have h16 : Keeps 32 s y15.1 := by
          subst y15
          split
          · exact Keeps.step State.wfqPick_keeps rfl (by assumption)
          · exact Keeps.step State.dwrr_keeps rfl (by assumption)
        clear_value y15
        split
        · exact Keeps.step ih rfl (by assumption)
        · dsimp only
          assumption

theorem State.portPick_keeps {s : State} {p : Nat} : Keeps 32 s (State.portPick s p).1 := by
  unfold State.portPick
  extract_lets +onlyGivenNames y0 y1 y2
  clear_value y0 y1 y2
  split
  · dsimp only
    exact Keeps.refl
  · extract_lets +onlyGivenNames y9
    clear_value y9
    extract_lets +onlyGivenNames y10
    subst y10
    extract_lets +onlyGivenNames y11
    have h12 : Keeps 32 s y11 := by
      subst y11
      exact State.syncLevel_keeps.mono rfl
    clear_value y11
    extract_lets +onlyGivenNames y13
    have h14 : Keeps 32 s y13.1 := by
      subst y13
      split
      · exact Keeps.step State.wfqPick_keeps rfl (by assumption)
      · exact Keeps.step State.dwrr_keeps rfl (by assumption)
    clear_value y13
    split
    · split
      · rename_i x21 _ x23
        have h24 : Keeps 32 s x21 := by
          refine Keeps.of_fst ?_ x23
          exact Keeps.step State.descend_keeps rfl (by assumption)
        dsimp only
        assumption
      · rename_i x26 x27
        have h28 : Keeps 32 s x26 := by
          refine Keeps.of_fst ?_ x27
          exact Keeps.step State.descend_keeps rfl (by assumption)
        dsimp only
        assumption
    · dsimp only
      assumption

/-! ### Machine/Meter.lean -/

theorem State.meterRun_keeps {s : State} {ix : Nat} {req : Option (Nat × Nat × Bool)} : Keeps 4 s (State.meterRun s ix req).2 := by
  unfold State.meterRun
  extract_lets +onlyGivenNames y0 y1 y2 y3 y4 y5 y6 y7
  clear_value y0 y1 y2 y3 y4 y5 y6 y7
  dsimp only
  exact Keeps.plain (x := s) Keeps.refl {} rfl

/-! ### Machine/Store.lean -/

theorem State.storeWords_keeps {s : State} {kind : Nat} {unit : Nat} {gen : Bool} {load : Nat} {first : Nat} {a : List (BitVec 32)} : Keeps 2 s (State.storeWords s kind unit gen load first a) := by
  induction a generalizing s kind unit gen load first
  · rw [State.storeWords]
    exact Keeps.refl
  · rename_i ih
    rw [State.storeWords]
    exact Keeps.step ih rfl (Keeps.plain (x := s) Keeps.refl {} rfl)

/-! ### Machine/Ledger.lean -/

theorem State.ledHbm_keeps {s : State} {sl : Nat} {n : Nat} {write : Bool} : Keeps 33281 s (State.ledHbm s sl n write) := by
  unfold State.ledHbm
  refine Keeps.step State.useFree_keeps rfl (Keeps.step State.pmc_keeps rfl ?_)
  exact Keeps.refl

theorem State.makePlace_keeps {s : State} {sl : Nat} {hs : Word} : KeepsOpt 33289 s id (State.makePlace s sl hs) := by
  unfold State.makePlace
  extract_lets +onlyGivenNames y0
  clear_value y0
  split
  · split
    · refine KeepsOpt.some ?_
      dsimp only [id]
      exact Keeps.refl
    · split
      · extract_lets +onlyGivenNames y7
        clear_value y7
        extract_lets +onlyGivenNames y8
        have h9 : Keeps 33289 s y8 := by
          subst y8
          exact State.setSlice_keeps.mono rfl
        clear_value y8
        refine KeepsOpt.some ?_
        dsimp only [id]
        split
        · exact Keeps.step State.ledHbm_keeps rfl (by assumption)
        · assumption
      · exact KeepsOpt.none
  · split
    · refine KeepsOpt.some ?_
      dsimp only [id]
      exact Keeps.refl
    · split
      · extract_lets +onlyGivenNames y20
        clear_value y20
        extract_lets +onlyGivenNames y21
        have h22 : Keeps 33289 s y21 := by
          subst y21
          exact State.setSlice_keeps.mono rfl
        clear_value y21
        refine KeepsOpt.some ?_
        dsimp only [id]
        split
        · exact Keeps.step State.ledHbm_keeps rfl (by assumption)
        · assumption
      · exact KeepsOpt.none

theorem State.setBerth_keeps {s : State} {sl : Nat} {b : Nat} {v : BerthSt} : Keeps 8 s (State.setBerth s sl b v) := by
  unfold State.setBerth
  extract_lets +onlyGivenNames y0
  clear_value y0
  exact State.setSlice_keeps.mono rfl

theorem State.delBerth_keeps {s : State} {sl : Nat} {b : Nat} : Keeps 8 s (State.delBerth s sl b) := by
  unfold State.delBerth
  extract_lets +onlyGivenNames y0
  clear_value y0
  exact State.setSlice_keeps.mono rfl

theorem State.reserveRoom_keeps {s : State} {sl : Nat} {key : List Byte} : Keeps 8 s (State.reserveRoom s sl key).1 := by
  unfold State.reserveRoom
  extract_lets +onlyGivenNames y0 y1
  clear_value y0 y1
  split
  · dsimp only
    exact Keeps.refl
  · split
    · dsimp only
      exact State.setSlice_keeps.mono rfl
    · dsimp only
      exact Keeps.refl

theorem State.unreserve_keeps {s : State} {sl : Nat} {n : Option Nat} : Keeps 8 s (State.unreserve s sl n) := by
  unfold State.unreserve
  split
  · extract_lets +onlyGivenNames y2
    clear_value y2
    exact State.setSlice_keeps.mono rfl
  · exact Keeps.refl

theorem State.prepBlank_keeps {s : State} {sl : Nat} {b : Nat} : Keeps 33289 s (State.prepBlank s sl b) := by
  unfold State.prepBlank
  split
  · exact Keeps.refl
  · split
    · exact Keeps.refl
    · rename_i x8 x9
      have h10 : Keeps 33289 s x8 := by
        refine KeepsOpt.of_some (f := id) ?_ x9
        exact KeepsOpt.step State.makePlace_keeps rfl Keeps.refl
      extract_lets +onlyGivenNames y11
      clear_value y11
      extract_lets +onlyGivenNames y12
      have h13 : Keeps 33289 s y12 := by
        subst y12
        refine Keeps.step State.pmc_keeps rfl (Keeps.step State.bump_keeps rfl ?_)
        assumption
      clear_value y12
      split
      · rename_i x15 _ _ x18
        have h19 : Keeps 33289 s x15 := by
          refine Keeps.of_fst ?_ x18
          exact Keeps.step State.reserveRoom_keeps rfl (by assumption)
        exact Keeps.step State.setBerth_keeps rfl (by assumption)
      · rename_i x21 x22
        have h23 : Keeps 33289 s x21 := by
          refine Keeps.of_fst ?_ x22
          exact Keeps.step State.reserveRoom_keeps rfl (by assumption)
        refine Keeps.step State.setBerth_keeps rfl (Keeps.step State.bump_keeps rfl ?_)
        assumption

theorem State.lookupStart_keeps {s : State} {sl : Nat} {b : Nat} : Keeps 9 s (State.lookupStart s sl b) := by
  unfold State.lookupStart
  split
  · exact Keeps.refl
  · split
    · split
      · extract_lets +onlyGivenNames y10
        have h11 : Keeps 9 s y10 := by
          subst y10
          exact State.setSlice_keeps.mono rfl
        clear_value y10
        refine Keeps.step State.setBerth_keeps rfl (Keeps.step State.bump_keeps rfl ?_)
        assumption
      · split
        · exact State.setBerth_keeps.mono rfl
        · exact State.setBerth_keeps.mono rfl
    · exact State.setBerth_keeps.mono rfl

theorem State.exportRec_keeps {s : State} {sl : Nat} {etype : Nat} {n : Nat} {e : Rec} : Keeps 115457 s (State.exportRec s sl etype n e) := by
  unfold State.exportRec
  extract_lets +onlyGivenNames y0
  clear_value y0
  split
  · exact State.bump_keeps.mono rfl
  · extract_lets +onlyGivenNames y3
    clear_value y3
    exact State.evtPost_keeps.mono rfl

theorem State.dropRec_keeps {s : State} {sl : Nat} {n : Nat} : Keeps 8 s (State.dropRec s sl n) := by
  unfold State.dropRec
  extract_lets +onlyGivenNames y0
  clear_value y0
  exact State.setSlice_keeps.mono rfl

theorem State.natUnmap_keeps {s : State} {e : Rec} : Keeps 8 s (State.natUnmap s e) := by
  unfold State.natUnmap
  extract_lets +onlyGivenNames y0 y1 y2 y3
  clear_value y0 y1 y2 y3
  extract_lets +onlyGivenNames y4
  have h5 : Keeps 8 s y4 := by
    subst y4
    split
    · exact State.dropRec_keeps.mono rfl
    · exact Keeps.refl
  clear_value y4
  extract_lets +onlyGivenNames y12
  clear_value y12
  split
  · exact Keeps.step State.setSlice_keeps rfl (by assumption)
  · assumption

theorem State.recDelete_keeps {s : State} {sl : Nat} {n : Nat} {etype : Nat} : Keeps 115465 s (State.recDelete s sl n etype) := by
  unfold State.recDelete
  split
  · exact Keeps.refl
  · extract_lets +onlyGivenNames y5
    have h6 : Keeps 115465 s y5 := by
      subst y5
      exact State.dropRec_keeps.mono rfl
    clear_value y5
    extract_lets +onlyGivenNames y7
    have h8 : Keeps 115465 s y7 := by
      subst y7
      split
      · exact Keeps.step State.natUnmap_keeps rfl (by assumption)
      · assumption
    clear_value y7
    split
    · exact Keeps.step State.exportRec_keeps rfl (by assumption)
    · assumption

theorem State.createRec_keeps {s : State} {sl : Nat} {n : Nat} {stash : Bool} {key : List Byte} {img : BitVec 1024} : Keeps 9 s (State.createRec s sl n stash key img) := by
  unfold State.createRec
  extract_lets +onlyGivenNames y0 y1 y2
  clear_value y0 y1 y2
  refine Keeps.step State.bump_keeps rfl (Keeps.step State.setSlice_keeps rfl ?_)
  exact Keeps.refl

theorem State.chainOn_keeps {s : State} {sl : Nat} {p : BerthSt} : Keeps 9 s (State.chainOn s sl p) := by
  unfold State.chainOn
  split
  · exact Keeps.refl
  · extract_lets +onlyGivenNames y6
    clear_value y6
    split
    · split
      · split
        · exact Keeps.step State.setBerth_keeps rfl (State.bump_keeps.mono rfl)
        · exact State.lookupStart_keeps.mono rfl
      · exact State.lookupStart_keeps.mono rfl
    · split
      · exact State.setBerth_keeps.mono rfl
      · exact Keeps.refl
    · split
      · exact State.setBerth_keeps.mono rfl
      · exact Keeps.refl
    · exact Keeps.refl

theorem State.passCommit_keeps {s : State} {sl : Nat} {b : Nat} : Keeps 115465 s (State.passCommit s sl b) := by
  unfold State.passCommit
  split
  · exact Keeps.refl
  · extract_lets +onlyGivenNames y5 y6 y7 y8 y9
    clear_value y5 y6 y7 y8 y9
    extract_lets +onlyGivenNames y10
    have h11 : Keeps 115465 s y10 := by
      subst y10
      split
      · split
        · exact State.unreserve_keeps.mono rfl
        · split
          · exact State.recDelete_keeps.mono rfl
          · exact Keeps.refl
      · split
        · split
          · split
            · exact State.createRec_keeps.mono rfl
            · exact State.unreserve_keeps.mono rfl
          · exact Keeps.refl
        · split
          · exact State.setSlice_keeps.mono rfl
          · exact Keeps.refl
    clear_value y10
    split
    · exact Keeps.step State.setBerth_keeps rfl (by assumption)
    · extract_lets +onlyGivenNames y37
      clear_value y37
      refine Keeps.step State.chainOn_keeps rfl (Keeps.step State.setBerth_keeps rfl ?_)
      assumption

theorem State.passDiscard_keeps {s : State} {sl : Nat} {b : Nat} : Keeps 9 s (State.passDiscard s sl b) := by
  unfold State.passDiscard
  split
  · exact Keeps.refl
  · extract_lets +onlyGivenNames y5
    have h6 : Keeps 9 s y5 := by
      subst y5
      split
      · exact State.unreserve_keeps.mono rfl
      · exact Keeps.refl
    clear_value y5
    extract_lets +onlyGivenNames y9
    clear_value y9
    refine Keeps.step State.chainOn_keeps rfl (Keeps.step State.setBerth_keeps rfl ?_)
    assumption

theorem State.passSettle_keeps {s : State} {sl : Nat} {b : Nat} : Keeps 115465 s (State.passSettle s sl b) := by
  unfold State.passSettle
  split
  · exact Keeps.refl
  · split
    · exact State.passCommit_keeps.mono rfl
    · exact Keeps.refl

theorem State.passSettleAll_keeps {s : State} {sl : Nat} : Keeps 115465 s (State.passSettleAll s sl) := by
  unfold State.passSettleAll
  refine Keeps.foldl ?_ ?_
  · intro z0 z1
    exact State.passSettle_keeps.mono rfl
  · exact Keeps.refl

theorem State.passSettleN_keeps {s : State} {sl : Nat} {a : Nat} : Keeps 115465 s (State.passSettleN s sl a) := by
  induction a generalizing s sl
  · rw [State.passSettleN]
    exact Keeps.refl
  · rename_i ih
    rw [State.passSettleN]
    refine Keeps.step ih rfl (Keeps.step State.passSettleAll_keeps rfl ?_)
    exact Keeps.refl

theorem State.stevFree_keeps {s : State} {sl : Nat} {st : BerthSt} : Keeps 2 s (State.stevFree s sl st) := by
  unfold State.stevFree
  split
  · extract_lets +onlyGivenNames y3
    clear_value y3
    refine Keeps.step State.zeroG_keeps rfl (Keeps.step State.delCtx_keeps rfl ?_)
    exact Keeps.refl
  · exact Keeps.refl

theorem State.passStop_keeps {s : State} {sl : Nat} {b : Nat} {flag : Nat} {status : Nat} {reason : Nat} : Keeps 11 s (State.passStop s sl b flag status reason) := by
  unfold State.passStop
  split
  · exact Keeps.refl
  · extract_lets +onlyGivenNames y5
    have h6 : Keeps 11 s y5 := by
      subst y5
      exact State.stevFree_keeps.mono rfl
    clear_value y5
    extract_lets +onlyGivenNames y7
    have h8 : Keeps 11 s y7 := by
      subst y7
      exact Keeps.step State.setBerth_keeps rfl (by assumption)
    clear_value y7
    exact Keeps.step State.passDiscard_keeps rfl (by assumption)

theorem State.chainFault_keeps {s : State} {sl : Nat} {st : BerthSt} : Keeps 11 s (State.chainFault s sl st) := by
  unfold State.chainFault
  refine Keeps.foldl ?_ ?_
  · intro z0 z1
    split
    · exact State.passStop_keeps.mono rfl
    · exact Keeps.refl
  · exact Keeps.refl

theorem State.berthKill_keeps {s : State} {sl : Nat} {b : Nat} : Keeps 115467 s (State.berthKill s sl b) := by
  unfold State.berthKill
  split
  · exact Keeps.refl
  · extract_lets +onlyGivenNames y5
    have h6 : Keeps 115467 s y5 := by
      subst y5
      exact State.stevFree_keeps.mono rfl
    clear_value y5
    extract_lets +onlyGivenNames y7
    have h8 : Keeps 115467 s y7 := by
      subst y7
      split
      · assumption
      · exact Keeps.step State.passDiscard_keeps rfl (by assumption)
    clear_value y7
    refine Keeps.step State.passSettleN_keeps rfl (Keeps.step State.delBerth_keeps rfl ?_)
    assumption

theorem State.flowKill_keeps {s : State} {fid : Nat} : Keeps 115467 s (State.flowKill s fid) := by
  unfold State.flowKill
  split
  · exact Keeps.refl
  · split
    · extract_lets +onlyGivenNames y8
      clear_value y8
      exact Keeps.plain (x := s) Keeps.refl {} rfl
    · exact State.berthKill_keeps.mono rfl
    · exact Keeps.refl

theorem State.chainWait_keeps {s : State} {sl n : Nat} {b : BerthSt} : Keeps 33281 s (State.chainWait s sl n b) := by
  unfold State.chainWait
  split
  · exact State.pmc_keeps
  · exact Keeps.refl

/-- A cycle of TIME_CLK changes the clocks and the counters of clocks. -/
theorem State.tick_keeps {s : State} : Keeps 295553 s s.tick := by
  unfold State.tick
  split
  · exact Keeps.refl
  · extract_lets +onlyGivenNames tm u
    have h1 : Keeps 295553 s u := Keeps.plain (x := s) Keeps.refl {} rfl
    clear_value u
    unfold State.chainClocks State.tugClocks
    refine Keeps.foldl (fun z e => Keeps.foldl (fun w b => State.chainWait_keeps.mono rfl) Keeps.refl) ?_
    exact Keeps.foldl (fun z t => State.ccnt_keeps.mono rfl) h1

end Sys2Proof.Machine
end

