-- ==== Sys2Proof/Laws/KeepsEngine.lean ====
section
/-!
SUPPORT. Laws/KeepsEngine.lean: one lemma `f_keeps` for each operation `f` of the model that answers a state (exception copies, the parser, tasks and traps, completions, the engines, moves and branches):
what it may do to the state, in the terms of Laws/Keeps.lean; the mask names the parts it may change.
-/
namespace Sys2Proof.Machine
set_option Elab.async false

/-! ### Machine/Excep.lean -/

theorem State.bwAsk_keeps {s : State} {c : Nat} {q : Nat} {m : Man} : Keeps 33285 s (State.bwAsk s c q m).1 := by
  unfold State.bwAsk
  extract_lets +onlyGivenNames y0
  clear_value y0
  split
  · dsimp only
    exact Keeps.step State.bump_keeps rfl (Keeps.plain (x := s) Keeps.refl {} rfl)
  · dsimp only
    refine Keeps.step State.pmc_keeps rfl (Keeps.step State.bump_keeps rfl ?_)
    exact Keeps.refl

theorem State.flightDone_keeps {s : State} {n : Nat} {m : Man} : Keeps 117639 s (State.flightDone s n m) := by
  unfold State.flightDone
  split
  · exact Keeps.refl
  · extract_lets +onlyGivenNames y2
    have h3 : Keeps 117639 s y2 := by
      subst y2
      exact State.flightEnd_keeps.mono rfl
    clear_value y2
    split
    · assumption
    · refine Keeps.plain (x := y2) ?_ {} rfl
      assumption

theorem State.deliveryEnd_keeps {s : State} {w : RxWait} : Keeps 117719 s (State.deliveryEnd s w) := by
  unfold State.deliveryEnd
  refine Keeps.step State.flightDone_keeps rfl ?_
  split
  · exact State.letGo_keeps.mono rfl
  · exact Keeps.refl

theorem State.hbTake_keeps {s : State} {mid : Nat} {a : Nat} : Keeps 16 s (State.hbTake s mid a).1 := by
  induction a generalizing s mid
  · rw [State.hbTake]
    dsimp only
    exact Keeps.refl
  · rename_i ih
    rw [State.hbTake]
    split
    · rename_i x1 _ x3
      have h4 : Keeps 16 s x1 := by
        refine Keeps.of_fst ?_ x3
        exact State.hbAlloc_keeps.mono rfl
      split
      · rename_i x6 _ x8
        have h9 : Keeps 16 s x6 := by
          refine Keeps.of_fst ?_ x8
          exact Keeps.step ih rfl (by assumption)
        dsimp only
        assumption
      · rename_i x11 x12
        have h13 : Keeps 16 s x11 := by
          refine Keeps.of_fst ?_ x12
          exact Keeps.step ih rfl (by assumption)
        dsimp only
        exact Keeps.refl
    · rename_i x15 x16
      have h17 : Keeps 16 s x15 := by
        refine Keeps.of_fst ?_ x16
        exact State.hbAlloc_keeps.mono rfl
      dsimp only
      exact Keeps.refl

theorem State.hbFill_keeps {s : State} {a : List Nat} {arg2 : List Byte} : Keeps 32768 s (State.hbFill s a arg2) := by
  induction a generalizing s arg2
  · rw [State.hbFill]
    exact Keeps.refl
  · rename_i ih
    rw [State.hbFill]
    refine Keeps.step ih rfl (Keeps.mem (x := s) Keeps.refl {} rfl id id (Memory.wf_setBytes _ _) id)

theorem State.exqFrame_keeps {s : State} {cause : Nat} {m : Man} {st : Tab Stamp} {bytes : List Byte} {cut0 : Bool} : Keeps 49681 s (State.exqFrame s cause m st bytes cut0) := by
  unfold State.exqFrame
  extract_lets +onlyGivenNames y0 y1 y2 y3 y4 y5
  clear_value y0 y1 y2 y3 y4 y5
  split
  · split
    · rename_i x8 x9
      have h10 : Keeps 49681 s x8 := by
        refine Keeps.of_fst ?_ x9
        exact State.hbTake_keeps.mono rfl
      exact State.bump_keeps.mono rfl
    · rename_i x12 _ x14
      have h15 : Keeps 49681 s x12 := by
        refine Keeps.of_fst ?_ x14
        exact State.hbTake_keeps.mono rfl
      extract_lets +onlyGivenNames y16
      have h17 : Keeps 49681 s y16 := by
        subst y16
        exact Keeps.step State.hbFill_keeps rfl (by assumption)
      clear_value y16
      extract_lets +onlyGivenNames y18
      clear_value y18
      exact Keeps.step State.exqPut_keeps rfl (by assumption)
  · exact State.bump_keeps.mono rfl

theorem State.rxDrop_keeps {s : State} {c : Nat} {w : RxWait} : Keeps 117719 s (State.rxDrop s c w) := by
  unfold State.rxDrop
  refine Keeps.step State.deliveryEnd_keeps rfl (Keeps.step State.bump_keeps rfl ?_)
  exact Keeps.refl

theorem State.rxArrive_keeps {s : State} {c : Nat} {w : RxWait} : Keeps 117719 s (State.rxArrive s c w) := by
  unfold State.rxArrive
  extract_lets +onlyGivenNames y0
  clear_value y0
  split
  · exact State.rxDrop_keeps.mono rfl
  · split
    · exact State.rxDrop_keeps.mono rfl
    · exact State.setChan_keeps.mono rfl

theorem State.deliver_keeps {s : State} {c : Nat} {m : Man} {st : Tab Stamp} {bytes : List Byte} {flight : Nat} {bid : Option Nat} {cut0 : Bool} : Keeps 117719 s (State.deliver s c m st bytes flight bid cut0) := by
  unfold State.deliver
  extract_lets +onlyGivenNames y0 y1 y2 y3 y4
  clear_value y0 y1 y2 y3 y4
  split
  · exact Keeps.step State.deliveryEnd_keeps rfl (State.exqFrame_keeps.mono rfl)
  · split
    · exact State.rxArrive_keeps.mono rfl
    · exact Keeps.step State.deliveryEnd_keeps rfl (State.bump_keeps.mono rfl)

theorem State.copyAsk_keeps {s : State} {c : Nat} {q : Nat} {m : Man} {st : Tab Stamp} {bytes : List Byte} {flight : Nat} : Keeps 117719 s (State.copyAsk s c q m st bytes flight) := by
  unfold State.copyAsk
  split
  · rename_i x1 x2
    have h3 : Keeps 117719 s x1 := by
      refine Keeps.of_fst ?_ x2
      exact State.bwAsk_keeps.mono rfl
    refine Keeps.step State.deliver_keeps rfl ?_
    split
    · assumption
    · exact Keeps.step State.flightAdd_keeps rfl (by assumption)
  · rename_i x7 x8
    have h9 : Keeps 117719 s x7 := by
      refine Keeps.of_fst ?_ x8
      exact State.bwAsk_keeps.mono rfl
    assumption

theorem State.copyEnd_keeps {s : State} {e : Nat} {cp : Copy} : Keeps 117719 s (State.copyEnd s e cp) := by
  unfold State.copyEnd
  refine Keeps.step State.flightDone_keeps rfl (Keeps.step State.letGo_keeps rfl ?_)
  exact State.subQUsed_keeps.mono rfl

/-! ### Machine/Parse.lean -/

theorem State.setFrag_keeps {s : State} {ix : Nat} {e : FragEntry} : Keeps 4 s (State.setFrag s ix e) := by
  unfold State.setFrag
  exact Keeps.step State.unbad_keeps rfl (Keeps.plain (x := s) Keeps.refl {} rfl)

theorem State.delFrag_keeps {s : State} {ix : Nat} : Keeps 4 s (State.delFrag s ix) := by
  unfold State.delFrag
  exact Keeps.step State.unbad_keeps rfl (Keeps.plain (x := s) Keeps.refl {} rfl)

theorem State.fragMove_keeps {s : State} {m : Nat × Nat} : Keeps 4 s (State.fragMove s m) := by
  unfold State.fragMove
  split
  · exact Keeps.step State.delFrag_keeps rfl (State.setFrag_keeps.mono rfl)
  · exact Keeps.refl

theorem State.fragInsert_keeps {s : State} {e : FragEntry} : Keeps 4 s (State.fragInsert s e).1 := by
  unfold State.fragInsert
  split
  · dsimp only
    exact State.setFrag_keeps.mono rfl
  · split
    · dsimp only
      refine Keeps.step State.setFrag_keeps rfl (Keeps.foldl ?_ ?_)
      · intro z10 z11
        exact State.fragMove_keeps.mono rfl
      · exact Keeps.refl
    · dsimp only
      exact Keeps.refl

theorem State.resolveFrame_keeps {s : State} {fid : Nat} : Keeps 7 s (State.resolveFrame s fid) := by
  unfold State.resolveFrame
  split
  · exact Keeps.refl
  · split
    · exact Keeps.refl
    · split
      · exact State.setFrame_keeps.mono rfl
      · extract_lets +onlyGivenNames y9
        clear_value y9
        split
        · exact State.setFrame_keeps.mono rfl
        · extract_lets +onlyGivenNames y15
          clear_value y15
          split
          · exact State.setFrame_keeps.mono rfl
          · split
            · exact State.setFrame_keeps.mono rfl
            · extract_lets +onlyGivenNames y20 y21
              clear_value y20 y21
              split
              · split
                · split
                  · rename_i x27 x28
                    have h29 : Keeps 7 s x27 := by
                      refine Keeps.of_fst ?_ x28
                      exact State.fragInsert_keeps.mono rfl
                    refine Keeps.step State.setFrame_keeps rfl (Keeps.step State.bump_keeps rfl ?_)
                    assumption
                  · rename_i x31 x32
                    have h33 : Keeps 7 s x31 := by
                      refine Keeps.of_fst ?_ x32
                      exact State.fragInsert_keeps.mono rfl
                    extract_lets +onlyGivenNames y34
                    clear_value y34
                    refine Keeps.step State.setFrame_keeps rfl (Keeps.step State.bump_keeps rfl ?_)
                    assumption
                · exact State.setFrame_keeps.mono rfl
              · exact State.setFrame_keeps.mono rfl

/-! ### Machine/Task.lean -/

theorem State.saveTask_keeps {s : State} {t : Core} {k : Nat} : Keeps 512 s (State.saveTask s t k) := by
  unfold State.saveTask
  extract_lets +onlyGivenNames y0
  clear_value y0
  exact State.setTask_keeps.mono rfl

theorem State.unready_keeps {s : State} {k : Nat} : Keeps 512 s (State.unready s k) := by
  unfold State.unready
  extract_lets +onlyGivenNames y0
  clear_value y0
  exact State.setReady_keeps.mono rfl

theorem State.setNext_keeps {s : State} {t : Nat} {n : Option Nat} : Keeps 513 s (State.setNext s t n) := by
  unfold State.setNext
  refine Keeps.step State.setBit_keeps rfl (Keeps.step State.setTcore_keeps rfl ?_)
  exact Keeps.refl

theorem State.unnext_keeps {s : State} {k : Nat} : Keeps 513 s (State.unnext s k) := by
  unfold State.unnext
  refine Keeps.foldl ?_ ?_
  · intro z0 z1
    split
    · exact State.setNext_keeps.mono rfl
    · exact Keeps.refl
  · exact Keeps.refl

theorem State.startTask_keeps {s : State} {t : Core} {k : Nat} : Keeps 33283 s (State.startTask s t k) := by
  unfold State.startTask
  extract_lets +onlyGivenNames y0
  have h1 : Keeps 33283 s y0 := by
    subst y0
    refine Keeps.step State.unnext_keeps rfl (Keeps.step State.unready_keeps rfl ?_)
    exact Keeps.refl
  clear_value y0
  extract_lets +onlyGivenNames y2
  clear_value y2
  extract_lets +onlyGivenNames y3
  have h4 : Keeps 33283 s y3 := by
    subst y3
    refine Keeps.step State.set_keeps rfl (Keeps.step State.set_keeps rfl ?_)
    assumption
  clear_value y3
  extract_lets +onlyGivenNames y5
  have h6 : Keeps 33283 s y5 := by
    subst y5
    refine Keeps.foldl ?_ ?_
    · intro z7 z8
      exact State.setG_keeps.mono rfl
    · exact Keeps.step State.zeroG_keeps rfl (by assumption)
  clear_value y5
  extract_lets +onlyGivenNames y9
  clear_value y9
  extract_lets +onlyGivenNames y10
  have h11 : Keeps 33283 s y10 := by
    subst y10
    exact Keeps.step State.setTcore_keeps rfl (by assumption)
  clear_value y10
  refine Keeps.step State.ccnt_keeps rfl (Keeps.step State.setBit_keeps rfl ?_)
  exact Keeps.step State.set_keeps rfl (by assumption)

theorem State.coreIdle_keeps {s : State} {t : Core} : Keeps 1 s (State.coreIdle s t) := by
  unfold State.coreIdle
  exact State.setBit_keeps.mono rfl

theorem State.coreTake_keeps {s : State} {t : Core} : Keeps 33283 s (State.coreTake s t) := by
  unfold State.coreTake
  split
  · exact State.startTask_keeps.mono rfl
  · exact Keeps.step State.setNext_keeps rfl (State.coreIdle_keeps.mono rfl)

theorem State.cancelTask_keeps {s : State} {k : Nat} {cause : Nat} : Keeps 513 s (State.cancelTask s k cause) := by
  unfold State.cancelTask
  extract_lets +onlyGivenNames y0
  have h1 : Keeps 513 s y0 := by
    subst y0
    refine Keeps.step State.undelay_keeps rfl (Keeps.step State.unnext_keeps rfl ?_)
    exact State.unready_keeps.mono rfl
  clear_value y0
  extract_lets +onlyGivenNames y2
  clear_value y2
  extract_lets +onlyGivenNames y3
  have h4 : Keeps 513 s y3 := by
    subst y3
    exact Keeps.step State.setTask_keeps rfl (by assumption)
  clear_value y3
  refine Keeps.step State.set_keeps rfl (Keeps.step State.set_keeps rfl ?_)
  assumption

theorem State.cancelHere_keeps {s : State} {t : Core} {k : Nat} : Keeps 33283 s (State.cancelHere s t k) := by
  unfold State.cancelHere
  refine Keeps.step State.coreTake_keeps rfl (Keeps.step State.cancelTask_keeps rfl ?_)
  exact State.saveTask_keeps.mono rfl

theorem State.delayFor_keeps {s : State} {k : Nat} {due : Nat} : Keeps 512 s (State.delayFor s k due) := by
  unfold State.delayFor
  extract_lets +onlyGivenNames y0 y1
  clear_value y0 y1
  exact Keeps.plain (x := s) Keeps.refl {} rfl

theorem State.waitOver_keeps {s : State} {k : Nat} : Keeps 513 s (State.waitOver s k) := by
  unfold State.waitOver
  extract_lets +onlyGivenNames y0
  clear_value y0
  split
  · exact State.undelay_keeps.mono rfl
  · refine Keeps.step State.makeReady_keeps rfl ?_
    refine Keeps.step State.undelay_keeps rfl (Keeps.step State.setTask_keeps rfl ?_)
    exact Keeps.refl

/-! ### Machine/Trap.lean -/

theorem State.rasOther_keeps {s : State} {b1 : Nat} {b2 : Nat} {v8 : Nat} : Keeps 117505 s (State.rasOther s b1 b2 v8) := by
  unfold State.rasOther
  refine Keeps.step State.rasEvent_keeps rfl (Keeps.step State.useFree_keeps rfl ?_)
  exact Keeps.refl

theorem State.wdRestart_keeps {s : State} {t : Nat} : Keeps 512 s (State.wdRestart s t) := by
  unfold State.wdRestart
  exact State.setTcore_keeps.mono rfl

theorem State.setIdle_keeps {s : State} {t : Nat} : Keeps 1 s (State.setIdle s t) := by
  unfold State.setIdle
  exact State.setBit_keeps.mono rfl

theorem State.coreReset_keeps {s : State} {t : Nat} {cause : Nat} : Keeps 117505 s (State.coreReset s t cause) := by
  unfold State.coreReset
  split
  · exact Keeps.refl
  · extract_lets +onlyGivenNames y5
    have h6 : Keeps 117505 s y5 := by
      subst y5
      refine Keeps.step State.set_keeps rfl (Keeps.step State.set_keeps rfl ?_)
      exact Keeps.refl
    clear_value y5
    extract_lets +onlyGivenNames y7
    clear_value y7
    extract_lets +onlyGivenNames y8
    have h9 : Keeps 117505 s y8 := by
      subst y8
      exact Keeps.step State.setTask_keeps rfl (by assumption)
    clear_value y8
    refine Keeps.step State.rasOther_keeps rfl (Keeps.step State.bump_keeps rfl ?_)
    exact Keeps.step State.setIdle_keeps rfl (by assumption)

theorem State.trapEnter_keeps {s : State} {t : Core} {cause : Nat} {detail : Word} {ra : Word} : Keeps 117505 s (State.trapEnter s t cause detail ra) := by
  unfold State.trapEnter
  extract_lets +onlyGivenNames y0
  clear_value y0
  split
  · exact State.coreReset_keeps.mono rfl
  · extract_lets +onlyGivenNames y3 y4 y5
    clear_value y3 y4 y5
    extract_lets +onlyGivenNames y6
    have h7 : Keeps 117505 s y6 := by
      subst y6
      exact State.setTcore_keeps.mono rfl
    clear_value y6
    exact Keeps.step State.ccnt_keeps rfl (by assumption)

theorem State.trapReturn_keeps {s : State} {t : Core} : Keeps 512 s (State.trapReturn s t) := by
  unfold State.trapReturn
  extract_lets +onlyGivenNames y0
  clear_value y0
  split
  · exact Keeps.refl
  · exact State.setTcore_keeps.mono rfl

theorem State.setTpc_keeps {s : State} {t : Core} {pc : Word} : Keeps 512 s (State.setTpc s t pc) := by
  unfold State.setTpc
  extract_lets +onlyGivenNames y0
  clear_value y0
  exact State.setTcore_keeps.mono rfl

theorem State.trapHere_keeps {s : State} {t : Core} {cause : Nat} {detail : Word} : Keeps 117505 s (State.trapHere s t cause detail) := by
  unfold State.trapHere
  exact State.trapEnter_keeps.mono rfl

theorem State.tugCount_keeps {s : State} {t : Core} : Keeps 33281 s (State.tugCount s t) := by
  unfold State.tugCount
  refine Keeps.step State.pmc_keeps rfl (Keeps.step State.ccnt_keeps rfl ?_)
  exact Keeps.refl

theorem State.tugDone_keeps {s : State} {t : Core} : Keeps 33281 s (State.tugDone s t) := by
  unfold State.tugDone
  refine Keeps.step State.setTpc_keeps rfl (Keeps.step State.tugCount_keeps rfl ?_)
  exact Keeps.refl

theorem State.tugJump_keeps {s : State} {t : Core} {pc : Word} : Keeps 33281 s (State.tugJump s t pc) := by
  unfold State.tugJump
  refine Keeps.step State.setTpc_keeps rfl (Keeps.step State.tugCount_keeps rfl ?_)
  exact Keeps.refl

theorem State.tugRun_keeps {m : Nat} (hm : 130819 ||| m = m) {s : State} {t : Core} {ok : Bool} {body : State → State}
    (h : ∀ z, Keeps m z (body z)) : Keeps m s (s.tugRun t ok body) := by
  unfold State.tugRun
  split
  · exact Keeps.refl
  · split
    · exact State.cancelHere_keeps.mono (Same.sub rfl hm)
    · extract_lets pc
      split
      · exact State.trapHere_keeps.mono (Same.sub rfl hm)
      · split
        · exact (State.mcheck_keeps.mono (Same.sub rfl hm)).trans (State.trapHere_keeps.mono (Same.sub rfl hm))
        · split
          · exact State.trapHere_keeps.mono (Same.sub rfl hm)
          · exact h s

theorem State.setMail_keeps {s : State} {m : Nat} {l : List (Word × Word)} : Keeps 512 s (State.setMail s m l) := by
  unfold State.setMail
  exact Keeps.plain (x := s) Keeps.refl {} rfl

theorem State.mboxPut_keeps {s : State} {m : Nat} {a : Word} {b : Word} : Keeps 513 s (State.mboxPut s m a b) := by
  unfold State.mboxPut
  refine Keeps.step State.signal_keeps rfl (Keeps.step State.setMail_keeps rfl ?_)
  exact Keeps.refl

theorem State.exqFree_keeps {s : State} {v : Word} : Keeps 512 s (State.exqFree s v) := by
  unfold State.exqFree
  extract_lets +onlyGivenNames y0 y1 y2
  clear_value y0 y1 y2
  split
  · exact Keeps.plain (x := s) Keeps.refl {} rfl
  · exact Keeps.refl

theorem State.timerSet_keeps {s : State} {t : Core} {v : Word} : Keeps 512 s (State.timerSet s t v) := by
  unfold State.timerSet
  exact State.setTcore_keeps.mono rfl

theorem State.ipiSend_keeps {s : State} {v : Word} : Keeps 1 s (State.ipiSend s v) := by
  unfold State.ipiSend
  refine Keeps.foldl ?_ ?_
  · intro z0 z1
    split
    · exact State.latchIrq_keeps.mono rfl
    · exact Keeps.refl
  · exact Keeps.refl

theorem State.sysKickWrite_keeps {s : State} {v : Word} : Keeps 513 s (State.sysKickWrite s v) := by
  unfold State.sysKickWrite
  split
  · split
    · exact Keeps.plain (x := s) Keeps.refl {} rfl
    · exact State.bump_keeps.mono rfl
  · extract_lets +onlyGivenNames y7
    clear_value y7
    extract_lets +onlyGivenNames y8
    have h9 : Keeps 513 s y8 := by
      subst y8
      exact Keeps.plain (x := s) Keeps.refl {} rfl
    clear_value y8
    split
    · refine Keeps.plain (x := y8) ?_ {} rfl
      assumption
    · exact Keeps.step State.bump_keeps rfl (by assumption)

theorem State.send1Write_keeps {s : State} {t : Core} {m : Nat} {v : Word} : KeepsTug 513 s (State.send1Write s t m v) := by
  unfold State.send1Write
  split
  · exact KeepsTug.ok (State.bump_keeps.mono rfl)
  · split
    · exact KeepsTug.stall
    · exact KeepsTug.ok (State.mboxPut_keeps.mono rfl)

theorem State.send0Write_keeps {s : State} {t : Core} {v : Word} : Keeps 512 s (State.send0Write s t v) := by
  unfold State.send0Write
  extract_lets +onlyGivenNames y0
  clear_value y0
  exact State.setTcore_keeps.mono rfl

theorem State.setLatch_keeps {s : State} {m : Nat} {v : Option (Word × Word)} : Keeps 512 s (State.setLatch s m v) := by
  unfold State.setLatch
  exact Keeps.plain (x := s) Keeps.refl {} rfl

theorem State.recv0Read_keeps {s : State} {t : Core} {m : Nat} : KeepsTug 512 s (State.recv0Read s t m) := by
  unfold State.recv0Read
  split
  · split
    · exact KeepsTug.ok (State.setLatch_keeps.mono rfl)
    · exact KeepsTug.ok (State.setLatch_keeps.mono rfl)
  · exact KeepsTug.trap Keeps.refl

theorem State.recv1Read_keeps {s : State} {t : Core} {m : Nat} : KeepsTug 512 s (State.recv1Read s t m) := by
  unfold State.recv1Read
  split
  · split
    · refine KeepsTug.ok (Keeps.step State.setLatch_keeps rfl (Keeps.step State.setMail_keeps rfl ?_))
      exact Keeps.refl
    · exact KeepsTug.ok Keeps.refl
  · exact KeepsTug.trap Keeps.refl

theorem State.tugLoad_keeps {s : State} {t : Core} {a : Nat} {n : Nat} {ue : Bool} : KeepsTug 130817 s (State.tugLoad s t a n ue) := by
  unfold State.tugLoad
  split
  · exact KeepsTug.trap Keeps.refl
  · split
    · split
      · exact KeepsTug.trap Keeps.refl
      · split
        · exact KeepsTug.step State.recv0Read_keeps rfl Keeps.refl
        · split
          · exact KeepsTug.step State.recv1Read_keeps rfl Keeps.refl
          · split
            · exact KeepsTug.ok Keeps.refl
            · exact KeepsTug.trap Keeps.refl
    · split
      · exact KeepsTug.trap Keeps.refl
      · split
        · exact KeepsTug.ok Keeps.refl
        · split
          · exact KeepsTug.ok Keeps.refl
          · split
            · exact KeepsTug.ok Keeps.refl
            · exact KeepsTug.trap Keeps.refl
    · split
      · exact KeepsTug.ok Keeps.refl
      · exact KeepsTug.trap Keeps.refl
    · split
      · exact KeepsTug.trap Keeps.refl
      · split
        · exact KeepsTug.trap (State.mcheck_keeps.mono rfl)
        · exact KeepsTug.ok Keeps.refl

theorem State.tugAccCount_keeps {s : State} {t : Core} {a : Nat} {n : Nat} {store : Bool} : Keeps 33281 s (State.tugAccCount s t a n store) := by
  unfold State.tugAccCount
  extract_lets +onlyGivenNames y0
  have h1 : Keeps 33281 s y0 := by
    subst y0
    exact State.ccnt_keeps.mono rfl
  clear_value y0
  split
  · exact Keeps.step State.pmc_keeps rfl (Keeps.step State.ccnt_keeps rfl (by assumption))
  · exact Keeps.step State.pmc_keeps rfl (by assumption)
  · assumption

theorem State.wordMend_keeps {s : State} {t : Nat} {a : Nat} {n : Nat} : Keeps 131584 s (State.wordMend s t a n) := by
  unfold State.wordMend
  split
  · exact Keeps.refl
  · split
    · exact Keeps.plain (x := s) Keeps.refl {} rfl
    · exact Keeps.plain (x := s) Keeps.refl {} rfl

theorem State.tugStore_keeps {s : State} {t : Core} {a : Nat} {n : Nat} {v : Word} : KeepsTug 180737 s (State.tugStore s t a n v) := by
  unfold State.tugStore
  split
  · exact KeepsTug.trap Keeps.refl
  · split
    · split
      · exact KeepsTug.trap Keeps.refl
      · split
        · exact KeepsTug.ok (State.send0Write_keeps.mono rfl)
        · split
          · exact KeepsTug.step State.send1Write_keeps rfl Keeps.refl
          · exact KeepsTug.trap Keeps.refl
    · split
      · exact KeepsTug.ok (State.exqFree_keeps.mono rfl)
      · exact KeepsTug.trap Keeps.refl
    · split
      · exact KeepsTug.trap Keeps.refl
      · split
        · exact KeepsTug.ok (State.wdRestart_keeps.mono rfl)
        · split
          · exact KeepsTug.trap Keeps.refl
          · split
            · exact KeepsTug.ok (State.timerSet_keeps.mono rfl)
            · split
              · exact KeepsTug.ok (State.ipiSend_keeps.mono rfl)
              · exact KeepsTug.trap Keeps.refl
    · split
      · exact KeepsTug.ok (State.sysKickWrite_keeps.mono rfl)
      · exact KeepsTug.trap Keeps.refl
    · split
      · exact KeepsTug.trap Keeps.refl
      · refine KeepsTug.ok (Keeps.step State.wordMend_keeps rfl (Keeps.step State.dWrite_keeps rfl ?_))
        exact Keeps.refl

theorem State.tugFinish_keeps {m : Nat} (hm : 117507 ||| m = m) {s s0 : State} {t : Core} {rd : Option RegNo} {a : Word} {n : Nat}
    {r : TugRes} (h : KeepsTug m s0 r) (h0 : Keeps m s0 s) : Keeps m s0 (s.tugFinish t rd a n r) := by
  unfold State.tugFinish
  split
  · exact h0
  · exact h.trans (State.trapHere_keeps.mono (Same.sub rfl hm))
  · extract_lets y
    have hy : Keeps m s0 y := Keeps.trans h (State.tugAccCount_keeps.mono (Same.sub rfl hm))
    refine Keeps.trans ?_ (State.tugDone_keeps.mono (Same.sub rfl hm))
    split
    · exact hy.trans (State.setG_keeps.mono (Same.sub rfl hm))
    · exact hy

/-! ### Machine/Compl.lean -/

theorem State.chanResults_keeps {s : State} {c : Chan} {res : List Word} : Keeps 2 s (State.chanResults s c res) := by
  unfold State.chanResults
  extract_lets +onlyGivenNames y0
  have h1 : Keeps 2 s y0 := by
    subst y0
    split
    · exact State.setG_keeps.mono rfl
    · exact Keeps.refl
  clear_value y0
  split
  · exact Keeps.step State.setG_keeps rfl (by assumption)
  · assumption

theorem State.microCount_keeps {s : State} {master : Nat} : Keeps 33281 s (State.microCount s master) := by
  unfold State.microCount
  split
  · exact Keeps.step State.useFree_keeps rfl (State.pmc_keeps.mono rfl)
  · exact Keeps.refl

theorem State.complete_keeps {s : State} {iss : Issuer} {op : Nat} {tag : Nat} {slot : Nat} {status : Nat} {progress : Nat} {res : List Word} {task : Option Nat} {sup : Option Bool} : Keeps 115459 s (State.complete s iss op tag slot status progress res task sup) := by
  unfold State.complete
  extract_lets +onlyGivenNames y0
  clear_value y0
  extract_lets +onlyGivenNames y1
  have h2 : Keeps 115459 s y1 := by
    subst y1
    refine Keeps.step State.pmc_keeps rfl (Keeps.step State.bump_keeps rfl ?_)
    exact Keeps.refl
  clear_value y1
  extract_lets +onlyGivenNames ym
  have hm : Keeps 115459 s ym := by
    subst ym
    exact Keeps.step State.microCount_keeps rfl (by assumption)
  clear_value ym
  split
  · extract_lets +onlyGivenNames y5
    have h6 : Keeps 115459 s y5 := by
      subst y5
      exact Keeps.step State.chanResults_keeps rfl (by assumption)
    clear_value y5
    extract_lets +onlyGivenNames y7
    clear_value y7
    split
    · assumption
    · extract_lets +onlyGivenNames y10
      have h11 : Keeps 115459 s y10 := by
        subst y10
        split
        · exact Keeps.step State.chPut_keeps rfl (by assumption)
        · assumption
      clear_value y10
      extract_lets +onlyGivenNames y14 y15
      clear_value y14 y15
      refine Keeps.step State.entryWritten_keeps rfl (Keeps.step State.setChan_keeps rfl ?_)
      assumption
  · extract_lets +onlyGivenNames y18 y19 y20
    clear_value y18 y19 y20
    extract_lets +onlyGivenNames y21
    have h22 : Keeps 115459 s y21 := by
      subst y21
      exact Keeps.step State.dWrite_keeps rfl (by assumption)
    clear_value y21
    extract_lets +onlyGivenNames y23
    clear_value y23
    extract_lets +onlyGivenNames y24
    have h25 : Keeps 115459 s y24 := by
      subst y24
      exact Keeps.step State.setTport_keeps rfl (by assumption)
    clear_value y24
    split
    · exact Keeps.step State.signal_keeps rfl (by assumption)
    · assumption

theorem State.kBadWord_keeps {s : State} {c : Chan} {slot : Nat} : Keeps 115459 s (State.kBadWord s c slot) := by
  unfold State.kBadWord
  exact State.complete_keeps.mono rfl

/-! ### Machine/Stamp.lean -/

theorem State.timeEvent_keeps {s : State} {ty : Nat} {unit : Nat} {info : Option Nat} {value : Option Int} : Keeps 117505 s (State.timeEvent s ty unit info value) := by
  unfold State.timeEvent
  extract_lets +onlyGivenNames y0 y1 y2
  clear_value y0 y1 y2
  refine Keeps.step State.useFree_keeps rfl (Keeps.step State.useFree_keeps rfl ?_)
  refine Keeps.step State.evtPost_keeps rfl (Keeps.step State.captureRec_keeps rfl ?_)
  exact Keeps.refl

theorem State.linkEvent_keeps {s : State} {ty : Nat} {p : Nat} {info : Nat} : Keeps 117505 s (State.linkEvent s ty p info) := by
  unfold State.linkEvent
  split
  · exact Keeps.refl
  · extract_lets +onlyGivenNames y2
    clear_value y2
    refine Keeps.step State.evtPost_keeps rfl (Keeps.step State.captureRec_keeps rfl ?_)
    exact Keeps.refl

theorem State.setTxts_keeps {s : State} {p : Nat} {l : List TxEntry} : Keeps 128 s (State.setTxts s p l) := by
  unfold State.setTxts
  exact Keeps.plain (x := s) Keeps.refl {} rfl

theorem State.txtsLose_keeps {s : State} {p : Nat} {seq : Nat} : Keeps 129 s (State.txtsLose s p seq) := by
  unfold State.txtsLose
  extract_lets +onlyGivenNames y0 y1
  clear_value y0 y1
  extract_lets +onlyGivenNames y2
  have h3 : Keeps 129 s y2 := by
    subst y2
    split
    · exact Keeps.plain (x := s) Keeps.refl {} rfl
    · exact Keeps.refl
  clear_value y2
  refine Keeps.step State.bump_keeps rfl (Keeps.step State.set_keeps rfl ?_)
  assumption

theorem State.txtsPut_keeps {s : State} {p : Nat} {e : TxEntry} : Keeps 129 s (State.txtsPut s p e) := by
  unfold State.txtsPut
  split
  · extract_lets +onlyGivenNames y1
    have h2 : Keeps 129 s y1 := by
      subst y1
      exact State.setTxts_keeps.mono rfl
    clear_value y1
    exact Keeps.step State.bumpIf_keeps rfl (by assumption)
  · exact State.txtsLose_keeps.mono rfl

theorem State.txtsGap_keeps {s : State} {p : Nat} : Keeps 117633 s (State.txtsGap s p) := by
  unfold State.txtsGap
  extract_lets +onlyGivenNames y0
  clear_value y0
  split
  · exact Keeps.refl
  · extract_lets +onlyGivenNames y3
    clear_value y3
    refine Keeps.step State.timeEvent_keeps rfl (Keeps.step State.set_keeps rfl ?_)
    exact State.setTxts_keeps.mono rfl

theorem State.txtsFlushed_keeps {s : State} {cp : Copy} {reason : Nat} : Keeps 129 s (State.txtsFlushed s cp reason) := by
  unfold State.txtsFlushed
  split
  · exact State.txtsPut_keeps.mono rfl
  · exact Keeps.refl

theorem State.copyDrop_keeps {s : State} {e : Nat} {cp : Copy} {reason : Nat} : Keeps 117719 s (State.copyDrop s e cp reason) := by
  unfold State.copyDrop
  refine Keeps.step State.copyEnd_keeps rfl (Keeps.step State.txtsFlushed_keeps rfl ?_)
  exact Keeps.refl

/-! ### Machine/Engine.lean -/

theorem State.orphan_keeps {s : State} {x : CtxId} : Keeps 2 s (State.orphan s x) := by
  unfold State.orphan
  exact Keeps.plain (x := s) Keeps.refl {} rfl

theorem State.ctxFree_keeps {s : State} {x : CtxId} : Keeps 2 s (State.ctxFree s x) := by
  unfold State.ctxFree
  refine Keeps.step State.zeroG_keeps rfl (Keeps.step State.delCtx_keeps rfl ?_)
  exact State.orphan_keeps.mono rfl

theorem State.pilotEnd_keeps {s : State} {x : CtxId} {stopped : Bool} : Keeps 33287 s (State.pilotEnd s x stopped) := by
  unfold State.pilotEnd
  split
  · exact Keeps.refl
  · extract_lets +onlyGivenNames y5
    have h6 : Keeps 33287 s y5 := by
      subst y5
      exact State.ctxFree_keeps.mono rfl
    clear_value y5
    extract_lets +onlyGivenNames y7
    have h8 : Keeps 33287 s y7 := by
      subst y7
      exact Keeps.step State.pmc_keeps rfl (by assumption)
    clear_value y7
    refine Keeps.step State.resolveFrame_keeps rfl (Keeps.step State.updFrame_keeps rfl ?_)
    assumption

theorem State.pilotStop_keeps {s : State} {x : CtxId} {reason : Nat} {cause : Option Nat} : Keeps 33287 s (State.pilotStop s x reason cause) := by
  unfold State.pilotStop
  refine Keeps.step State.pilotEnd_keeps rfl (Keeps.step State.updCtx_keeps rfl ?_)
  exact Keeps.refl

theorem State.outDone_keeps {s : State} {p : Nat} : Keeps 1 s (State.outDone s p) := by
  unfold State.outDone
  exact State.set_keeps.mono rfl

theorem State.sealReport_keeps {s : State} {e : Nat} {cp : Copy} : Keeps 125697 s (State.sealReport s e cp) := by
  unfold State.sealReport
  extract_lets +onlyGivenNames y0
  clear_value y0
  extract_lets +onlyGivenNames y1
  have h2 : Keeps 125697 s y1 := by
    subst y1
    refine Keeps.step State.rasEvent_keeps rfl (Keeps.step State.bump_keeps rfl ?_)
    exact Keeps.refl
  clear_value y1
  refine Keeps.plain (x := y1) ?_ {} rfl
  assumption

theorem State.rewDrop_keeps {s : State} {x : CtxId} {reason : Nat} : Keeps 125943 s (State.rewDrop s x reason) := by
  unfold State.rewDrop
  split
  · exact Keeps.refl
  · extract_lets +onlyGivenNames y5
    have h6 : Keeps 125943 s y5 := by
      subst y5
      exact State.ctxFree_keeps.mono rfl
    clear_value y5
    split
    · extract_lets +onlyGivenNames y10
      have h11 : Keeps 125943 s y10 := by
        subst y10
        split
        · exact Keeps.step State.sealReport_keeps rfl (by assumption)
        · assumption
      clear_value y10
      refine Keeps.step State.copyDrop_keeps rfl (Keeps.step State.outDone_keeps rfl ?_)
      exact Keeps.step State.delCopy_keeps rfl (by assumption)
    · assumption

theorem State.rewCopyAsk_keeps {s : State} {x : CtxId} {cause : Nat} : Keeps 117719 s (State.rewCopyAsk s x cause) := by
  unfold State.rewCopyAsk
  split
  · exact Keeps.refl
  · split
    · exact State.copyAsk_keeps.mono rfl
    · exact Keeps.refl

theorem State.rewAsked_keeps {s : State} {x : CtxId} : Keeps 117719 s (State.rewAsked s x) := by
  unfold State.rewAsked
  split
  · exact State.rewCopyAsk_keeps.mono rfl
  · exact Keeps.refl

theorem State.rewEnd_keeps {s : State} {x : CtxId} : Keeps 117719 s (State.rewEnd s x) := by
  unfold State.rewEnd
  refine Keeps.step State.updCtx_keeps rfl (Keeps.step State.rewAsked_keeps rfl ?_)
  exact Keeps.refl

theorem State.updBerth_keeps {s : State} {sl : Nat} {b : Nat} {f : BerthSt → BerthSt} : Keeps 8 s (State.updBerth s sl b f) := by
  unfold State.updBerth
  split
  · exact State.setBerth_keeps.mono rfl
  · exact Keeps.refl

theorem State.faultCount_keeps {s : State} {x : CtxId} : Keeps 1 s (State.faultCount s x) := by
  unfold State.faultCount
  split
  · exact State.bump_keeps.mono rfl
  · exact State.bump_keeps.mono rfl
  · exact State.bump_keeps.mono rfl
  · exact Keeps.refl

theorem State.stevFault_keeps {s : State} {x : CtxId} : Keeps 115467 s (State.stevFault s x) := by
  unfold State.stevFault
  extract_lets +onlyGivenNames y0
  clear_value y0
  split
  · exact Keeps.refl
  · refine Keeps.step State.passSettleN_keeps rfl ?_
    refine Keeps.step State.chainFault_keeps rfl (Keeps.step State.passStop_keeps rfl ?_)
    exact Keeps.refl

theorem State.stopBudget_keeps {s : State} {x : CtxId} : Keeps 125951 s (State.stopBudget s x) := by
  unfold State.stopBudget
  extract_lets +onlyGivenNames y0
  have h1 : Keeps 125951 s y0 := by
    subst y0
    exact State.faultCount_keeps.mono rfl
  clear_value y0
  split
  · refine Keeps.step State.pilotStop_keeps rfl ?_
    refine Keeps.step State.updCtx_keeps rfl (Keeps.step State.bump_keeps rfl ?_)
    assumption
  · extract_lets +onlyGivenNames y9
    clear_value y9
    refine Keeps.step State.passSettleN_keeps rfl (Keeps.step State.passStop_keeps rfl ?_)
    assumption
  · refine Keeps.step State.bump_keeps rfl ?_
    refine Keeps.step State.rewDrop_keeps rfl (Keeps.step State.rewCopyAsk_keeps rfl ?_)
    assumption
  · assumption

theorem State.stopFetch_keeps {s : State} {x : CtxId} {parity : Bool} : Keeps 125951 s (State.stopFetch s x parity) := by
  unfold State.stopFetch
  extract_lets +onlyGivenNames y0
  have h1 : Keeps 125951 s y0 := by
    subst y0
    exact State.faultCount_keeps.mono rfl
  clear_value y0
  extract_lets +onlyGivenNames y2
  have h3 : Keeps 125951 s y2 := by
    subst y2
    split
    · exact Keeps.step State.rasOther_keeps rfl (by assumption)
    · assumption
  clear_value y2
  split
  · exact Keeps.step State.pilotStop_keeps rfl (by assumption)
  · exact Keeps.step State.stevFault_keeps rfl (by assumption)
  · exact Keeps.step State.bump_keeps rfl (Keeps.step State.rewDrop_keeps rfl (by assumption))
  · assumption

theorem engine_keeps {m : Nat} (hm : 125951 ||| m = m) {x : CtxId} {mn : String} {ok : Bool} {cost : Nat} {uses : List RegNo}
    {s : State} {body : Ctx → State → State} (h : ∀ c z, Keeps m z (body c z)) : KeepsOut m s (engine x mn ok cost uses s body) := by
  unfold engine
  split
  · exact KeepsOut.refused
  · split
    · exact KeepsOut.next Keeps.refl
    · split
      · exact KeepsOut.next Keeps.refl
      · split
        · exact KeepsOut.next (State.rewEnd_keeps.mono (Same.sub rfl hm))
        · split
          · exact KeepsOut.next (State.stopFetch_keeps.mono (Same.sub rfl hm))
          · exact KeepsOut.next (State.stopFetch_keeps.mono (Same.sub rfl hm))
          · split
            · exact KeepsOut.next (State.stopBudget_keeps.mono (Same.sub rfl hm))
            · extract_lets c
              exact KeepsOut.next ((State.setCtx_keeps.mono (Same.sub rfl hm)).trans (h _ _))

theorem issue_keeps {m : Nat} (hm : 131071 ||| m = m) {x : CtxId} {mn : String} {ok k : Bool} {uses : List RegNo} {s : State}
    {f : State → State} (h : ∀ z, Keeps m z (f z)) : KeepsOut m s (issue x mn ok k uses s f) := by
  unfold issue
  split
  · exact KeepsOut.next (State.tugRun_keeps (Same.sub rfl hm) (fun z => (h z).trans (State.tugDone_keeps.mono (Same.sub rfl hm))))
  · refine KeepsOut.next ?_
    split
    · split
      · exact h s
      · exact State.kBadWord_keeps.mono (Same.sub rfl hm)
    · exact Keeps.refl
  · exact engine_keeps (Same.sub rfl hm) (fun _ z => h z)

/-! ### Machine/Move.lean -/

theorem State.fMark_keeps {s : State} {x : CtxId} : Keeps 8 s (State.fMark s x) := by
  unfold State.fMark
  extract_lets +onlyGivenNames y0
  clear_value y0
  split
  · split
    · exact State.setBerth_keeps.mono rfl
    · exact Keeps.refl
  · exact Keeps.refl

theorem extBody_keeps {x : CtxId} {rd : RegNo} {f : FieldOp} {dyn : Bool} {c : Ctx} {s : State} : Keeps 10 s (extBody x rd f dyn c s) := by
  unfold extBody
  extract_lets +onlyGivenNames y0 y1
  clear_value y0 y1
  extract_lets +onlyGivenNames y2
  have h3 : Keeps 10 s y2 := by
    subst y2
    split
    · exact State.fMark_keeps.mono rfl
    · exact Keeps.refl
  clear_value y2
  extract_lets +onlyGivenNames y6
  have h7 : Keeps 10 s y6 := by
    subst y6
    split
    · exact Keeps.step State.updCtx_keeps rfl (by assumption)
    · assumption
  clear_value y6
  exact Keeps.step State.setG_keeps rfl (by assumption)

theorem fieldIssue_keeps {m : Nat} (hm : 125951 ||| m = m) {x : CtxId} {mn : String} {ok dyn : Bool} {rd : RegNo} {f : FieldOp}
    {s : State} {body : Ctx → State → State} (h : ∀ c z, Keeps m z (body c z)) : KeepsOut m s (fieldIssue x mn ok dyn rd f s body) := by
  unfold fieldIssue
  split
  · rename_i c _
    by_cases hc : (ok && !c.ended && s.fieldWaits x c f (if dyn then c.cur else 0)) = true
    · rw [if_pos hc]
      exact KeepsOut.next Keeps.refl
    · rw [if_neg hc]
      exact engine_keeps (Same.sub rfl hm) h
  · exact engine_keeps (Same.sub rfl hm) h

theorem extTug_keeps {t : Core} {rd : RegNo} {f : FieldOp} {s : State} : Keeps 130819 s (extTug t rd f s) := by
  unfold extTug
  extract_lets +onlyGivenNames y0 y1
  clear_value y0 y1
  split
  · exact State.trapHere_keeps.mono rfl
  · split
    · exact Keeps.step State.trapHere_keeps rfl (State.mcheck_keeps.mono rfl)
    · extract_lets +onlyGivenNames y6
      clear_value y6
      refine Keeps.step State.tugDone_keeps rfl (Keeps.step State.setG_keeps rfl ?_)
      exact State.tugAccCount_keeps.mono rfl

theorem insTug_keeps {t : Core} {rd : RegNo} {f : FieldOp} {s : State} : Keeps 130817 s (insTug t rd f s) := by
  unfold insTug
  extract_lets +onlyGivenNames y0 y1
  clear_value y0 y1
  split
  · exact State.trapHere_keeps.mono rfl
  · split
    · exact Keeps.step State.trapHere_keeps rfl (State.mcheck_keeps.mono rfl)
    · extract_lets +onlyGivenNames y6 y7
      clear_value y6 y7
      refine Keeps.step State.tugDone_keeps rfl (Keeps.step State.dWrite_keeps rfl ?_)
      exact State.tugAccCount_keeps.mono rfl

theorem execExt_keeps {x : CtxId} {rd : RegNo} {f : FieldOp} {s : State} : KeepsOut 131071 s (execExt x rd f s) := by
  unfold execExt
  split
  · refine KeepsOut.next (Keeps.step (State.tugRun_keeps (m := 131071) rfl ?_) rfl ?_)
    · intro z2
      exact extTug_keeps.mono rfl
    · exact Keeps.refl
  · refine KeepsOut.next ?_
    split
    · exact State.kBadWord_keeps.mono rfl
    · exact Keeps.refl
  · refine KeepsOut.step (fieldIssue_keeps (m := 131071) rfl ?_) rfl ?_
    · intro z10 z11
      exact extBody_keeps.mono rfl
    · exact Keeps.refl

theorem execExtc_keeps {x : CtxId} {rd : RegNo} {f : FieldOp} {s : State} : KeepsOut 131071 s (execExtc x rd f s) := by
  unfold execExtc
  split
  · refine KeepsOut.next (Keeps.step (State.tugRun_keeps (m := 131071) rfl ?_) rfl ?_)
    · intro z2
      dsimp only [id]
      exact Keeps.refl
    · exact Keeps.refl
  · refine KeepsOut.next ?_
    split
    · exact State.kBadWord_keeps.mono rfl
    · exact Keeps.refl
  · refine KeepsOut.step (fieldIssue_keeps (m := 131071) rfl ?_) rfl ?_
    · intro z10 z11
      exact extBody_keeps.mono rfl
    · exact Keeps.refl

theorem State.recWrite_keeps {s : State} {x : CtxId} {first : Nat} {w : Nat} {a : Nat} {b : Nat} {v : Word} : Keeps 3 s (State.recWrite s x first w a b v) := by
  unfold State.recWrite
  split
  · exact Keeps.refl
  · extract_lets +onlyGivenNames y5 y6 y7
    clear_value y5 y6 y7
    split
    · extract_lets +onlyGivenNames y9
      clear_value y9
      refine Keeps.step State.faultCount_keeps rfl (Keeps.step State.setCtx_keeps rfl ?_)
      exact Keeps.refl
    · exact State.setCtx_keeps.mono rfl

theorem State.fieldWrite_keeps {s : State} {x : CtxId} {f : FieldOp} {cur : Nat} {v : Word} : Keeps 3 s (State.fieldWrite s x f cur v) := by
  unfold State.fieldWrite
  extract_lets +onlyGivenNames y0 y1 y2 y3
  clear_value y0 y1 y2 y3
  split
  · exact State.updCtx_keeps.mono rfl
  · exact State.updCtx_keeps.mono rfl
  · exact State.recWrite_keeps.mono rfl
  · exact State.updCtx_keeps.mono rfl
  · exact Keeps.refl

theorem execIns_keeps {x : CtxId} {rd : RegNo} {f : FieldOp} {s : State} : KeepsOut 131071 s (execIns x rd f s) := by
  unfold execIns
  split
  · refine KeepsOut.next (Keeps.step (State.tugRun_keeps (m := 131071) rfl ?_) rfl ?_)
    · intro z2
      exact insTug_keeps.mono rfl
    · exact Keeps.refl
  · refine KeepsOut.next ?_
    split
    · exact State.kBadWord_keeps.mono rfl
    · exact Keeps.refl
  · refine KeepsOut.step (fieldIssue_keeps (m := 131071) rfl ?_) rfl ?_
    · intro z10 z11
      exact State.fieldWrite_keeps.mono rfl
    · exact Keeps.refl

theorem execInsc_keeps {x : CtxId} {rd : RegNo} {f : FieldOp} {s : State} : KeepsOut 131071 s (execInsc x rd f s) := by
  unfold execInsc
  split
  · refine KeepsOut.next (Keeps.step (State.tugRun_keeps (m := 131071) rfl ?_) rfl ?_)
    · intro z2
      dsimp only [id]
      exact Keeps.refl
    · exact Keeps.refl
  · refine KeepsOut.next ?_
    split
    · exact State.kBadWord_keeps.mono rfl
    · exact Keeps.refl
  · refine KeepsOut.step (fieldIssue_keeps (m := 131071) rfl ?_) rfl ?_
    · intro z10 z11
      split
      · exact State.fieldWrite_keeps.mono rfl
      · exact State.faultCount_keeps.mono rfl
    · exact Keeps.refl

theorem engineOnly_keeps {m : Nat} (hm : 131071 ||| m = m) {x : CtxId} {mn : String} {ok : Bool} {cost : Nat} {uses : List RegNo}
    {s : State} {body : Ctx → State → State} (h : ∀ c z, Keeps m z (body c z)) : KeepsOut m s (engineOnly x mn ok cost uses s body) := by
  unfold engineOnly
  split
  · exact KeepsOut.next (State.tugRun_keeps (Same.sub rfl hm) (fun _ => Keeps.refl))
  · refine KeepsOut.next ?_
    split
    · exact State.kBadWord_keeps.mono (Same.sub rfl hm)
    · exact Keeps.refl
  · exact engine_keeps (Same.sub rfl hm) h

theorem execHdr_keeps {x : CtxId} {rd : RegNo} {ra : RegNo} {imm : BitVec 16} {s : State} : KeepsOut 131071 s (execHdr x rd ra imm s) := by
  unfold execHdr
  refine KeepsOut.step (engineOnly_keeps (m := 131071) rfl ?_) rfl ?_
  · intro z0 z1
    extract_lets +onlyGivenNames y2 y3
    clear_value y2 y3
    split
    · exact State.setCtx_keeps.mono rfl
    · extract_lets +onlyGivenNames y6 y7 y8 y9 y10 y11
      clear_value y6 y7 y8 y9 y10 y11
      exact State.setCtx_keeps.mono rfl
  · exact Keeps.refl

theorem execAdvc_keeps {x : CtxId} {rd : RegNo} {ra : RegNo} {imm : BitVec 16} {s : State} : KeepsOut 131071 s (execAdvc x rd ra imm s) := by
  unfold execAdvc
  refine KeepsOut.step (engineOnly_keeps (m := 131071) rfl ?_) rfl ?_
  · intro z0 z1
    extract_lets +onlyGivenNames y2
    clear_value y2
    split
    · exact State.setCtx_keeps.mono rfl
    · split
      · exact State.setCtx_keeps.mono rfl
      · exact State.setCtx_keeps.mono rfl
  · exact Keeps.refl

theorem execMfs_keeps {x : CtxId} {rd : RegNo} {ra : RegNo} {imm : BitVec 16} {s : State} : KeepsOut 131071 s (execMfs x rd ra imm s) := by
  unfold execMfs
  split
  · refine KeepsOut.next (Keeps.step (State.tugRun_keeps (m := 131071) rfl ?_) rfl ?_)
    · intro z2
      split
      · exact Keeps.step State.tugDone_keeps rfl (State.setG_keeps.mono rfl)
      · exact State.trapHere_keeps.mono rfl
    · exact Keeps.refl
  · refine KeepsOut.step (engineOnly_keeps (m := 131071) rfl ?_) rfl ?_
    · intro z10 z11
      exact State.setG_keeps.mono rfl
    · exact Keeps.refl

theorem State.ccntWrite_keeps {s : State} {t : Core} {i : Nat} {v : Word} : Keeps 33281 s (State.ccntWrite s t i v) := by
  unfold State.ccntWrite
  extract_lets +onlyGivenNames y0
  have h1 : Keeps 33281 s y0 := by
    subst y0
    exact State.tugCount_keeps.mono rfl
  clear_value y0
  extract_lets +onlyGivenNames y2 y3
  clear_value y2 y3
  refine Keeps.step State.setTpc_keeps rfl (Keeps.step State.bumpIf_keeps rfl ?_)
  exact Keeps.step State.setTcore_keeps rfl (by assumption)

theorem State.tugSpecialWrite_keeps {s : State} {t : Core} {n : Nat} {v : Word} : Keeps 117505 s (State.tugSpecialWrite s t n v) := by
  unfold State.tugSpecialWrite
  extract_lets +onlyGivenNames y0 y1
  clear_value y0 y1
  extract_lets +onlyGivenNames y2
  subst y2
  extract_lets +onlyGivenNames y3
  subst y3
  split
  · dsimp -zeta only
    refine Keeps.step State.tugDone_keeps rfl (Keeps.step State.setTcore_keeps rfl ?_)
    exact Keeps.refl
  · split
    · dsimp -zeta only
      refine Keeps.step State.tugDone_keeps rfl (Keeps.step State.setTcore_keeps rfl ?_)
      exact Keeps.refl
    · dsimp -zeta only
      exact State.trapHere_keeps.mono rfl
  · split
    · dsimp -zeta only
      refine Keeps.step State.tugDone_keeps rfl (Keeps.step State.setTcore_keeps rfl ?_)
      exact Keeps.refl
    · dsimp -zeta only
      exact State.trapHere_keeps.mono rfl
  · split
    · dsimp -zeta only
      refine Keeps.step State.tugDone_keeps rfl (Keeps.step State.setTcore_keeps rfl ?_)
      exact Keeps.refl
    · dsimp -zeta only
      exact State.trapHere_keeps.mono rfl
  · split
    · exact State.ccntWrite_keeps.mono rfl
    · dsimp -zeta only
      exact State.trapHere_keeps.mono rfl

theorem execMts_keeps {x : CtxId} {rd : RegNo} {ra : RegNo} {imm : BitVec 16} {s : State} : KeepsOut 131071 s (execMts x rd ra imm s) := by
  unfold execMts
  split
  · refine KeepsOut.next (Keeps.step (State.tugRun_keeps (m := 131071) rfl ?_) rfl ?_)
    · intro z2
      exact State.tugSpecialWrite_keeps.mono rfl
    · exact Keeps.refl
  · refine KeepsOut.step (engineOnly_keeps (m := 131071) rfl ?_) rfl ?_
    · intro z5 z6
      exact State.setCtx_keeps.mono rfl
    · exact Keeps.refl

/-! ### Machine/Branch.lean -/

theorem execBr_keeps {x : CtxId} {cond : BitVec 4} {i : Bool} {ra : RegNo} {rb : RegNo} {disp : BitVec 11} {s : State} : KeepsOut 131071 s (execBr x cond i ra rb disp s) := by
  unfold execBr
  extract_lets +onlyGivenNames y0
  clear_value y0
  split
  · refine KeepsOut.next (Keeps.step (State.tugRun_keeps (m := 131071) rfl ?_) rfl ?_)
    · intro z3
      split
      · exact Keeps.step State.tugJump_keeps rfl (State.ccnt_keeps.mono rfl)
      · exact State.tugDone_keeps.mono rfl
    · exact Keeps.refl
  · refine KeepsOut.step (engineOnly_keeps (m := 131071) rfl ?_) rfl ?_
    · intro z8 z9
      split
      · exact State.setCtx_keeps.mono rfl
      · exact Keeps.refl
    · exact Keeps.refl

theorem execJal_keeps {t : Core} {rd : RegNo} {ra : RegNo} {imm : BitVec 16} {s : State} : KeepsOut 130819 s (execJal t rd ra imm s) := by
  unfold execJal
  refine KeepsOut.next (Keeps.step (State.tugRun_keeps (m := 130819) rfl ?_) rfl ?_)
  · intro z0
    refine Keeps.step State.tugJump_keeps rfl (Keeps.step State.setG_keeps rfl ?_)
    exact Keeps.refl
  · exact Keeps.refl

theorem execJr_keeps {t : Core} {rd : RegNo} {ra : RegNo} {rb : RegNo} {func : BitVec 11} {s : State} : KeepsOut 130819 s (execJr t rd ra rb func s) := by
  unfold execJr
  refine KeepsOut.next (Keeps.step (State.tugRun_keeps (m := 130819) rfl ?_) rfl ?_)
  · intro z0
    extract_lets +onlyGivenNames y1
    clear_value y1
    split
    · exact State.tugJump_keeps.mono rfl
    · exact State.trapHere_keeps.mono rfl
  · exact Keeps.refl

theorem execNop_keeps {x : CtxId} {s : State} : KeepsOut 131071 s (execNop x s) := by
  unfold execNop
  refine KeepsOut.step (issue_keeps (m := 131071) rfl ?_) rfl ?_
  · intro z0
    dsimp only [id]
    exact Keeps.refl
  · exact Keeps.refl

theorem State.progEnd_keeps {s : State} {x : CtxId} : Keeps 117719 s (State.progEnd s x) := by
  unfold State.progEnd
  split
  · exact State.pilotEnd_keeps.mono rfl
  · exact State.rewEnd_keeps.mono rfl

theorem execEndProg_keeps {x : CtxId} {s : State} : KeepsOut 131071 s (execEndProg x s) := by
  unfold execEndProg
  refine KeepsOut.step (engineOnly_keeps (m := 131071) rfl ?_) rfl ?_
  · intro z0 z1
    exact State.progEnd_keeps.mono rfl
  · exact Keeps.refl

theorem execDrop_keeps {x : CtxId} {reason : BitVec 8} {s : State} : KeepsOut 131071 s (execDrop x reason s) := by
  unfold execDrop
  refine KeepsOut.step (engineOnly_keeps (m := 131071) rfl ?_) rfl ?_
  · intro z0 z1
    split
    · exact State.setCtx_keeps.mono rfl
    · exact Keeps.step State.pilotEnd_keeps rfl (State.setCtx_keeps.mono rfl)
    · refine Keeps.step State.bump_keeps rfl ?_
      refine Keeps.step State.rewDrop_keeps rfl (Keeps.step State.rewAsked_keeps rfl ?_)
      exact Keeps.refl
  · exact Keeps.refl

theorem execExcp_keeps {x : CtxId} {cause : BitVec 6} {copy : Bool} {s : State} : KeepsOut 131071 s (execExcp x cause copy s) := by
  unfold execExcp
  refine KeepsOut.step (engineOnly_keeps (m := 131071) rfl ?_) rfl ?_
  · intro z0 z1
    split
    · exact State.setCtx_keeps.mono rfl
    · split
      · exact State.setCtx_keeps.mono rfl
      · exact Keeps.step State.pilotEnd_keeps rfl (State.setCtx_keeps.mono rfl)
    · split
      · exact State.setCtx_keeps.mono rfl
      · refine Keeps.step State.rewDrop_keeps rfl ?_
        refine Keeps.step State.rewCopyAsk_keeps rfl (Keeps.step State.rewAsked_keeps rfl ?_)
        exact Keeps.refl
  · exact Keeps.refl

theorem execRecirc_keeps {x : CtxId} {s : State} : KeepsOut 131071 s (execRecirc x s) := by
  unfold execRecirc
  refine KeepsOut.step (engineOnly_keeps (m := 131071) rfl ?_) rfl ?_
  · intro z0 z1
    refine Keeps.step State.pilotEnd_keeps rfl (Keeps.step State.setCtx_keeps rfl ?_)
    exact Keeps.refl
  · exact Keeps.refl

theorem execMirror_keeps {x : CtxId} {session : BitVec 4} {s : State} : KeepsOut 131071 s (execMirror x session s) := by
  unfold execMirror
  refine KeepsOut.step (engineOnly_keeps (m := 131071) rfl ?_) rfl ?_
  · intro z0 z1
    split
    · exact State.setCtx_keeps.mono rfl
    · exact State.setCtx_keeps.mono rfl
  · exact Keeps.refl

theorem execFend_keeps {x : CtxId} {write : Bool} {delete : Bool} {s : State} : KeepsOut 131071 s (execFend x write delete s) := by
  unfold execFend
  refine KeepsOut.step (engineOnly_keeps (m := 131071) rfl ?_) rfl ?_
  · intro z0 z1
    extract_lets +onlyGivenNames y2
    clear_value y2
    extract_lets +onlyGivenNames y3
    have h4 : Keeps 131071 z1 y3 := by
      subst y3
      exact State.ctxFree_keeps.mono rfl
    clear_value y3
    extract_lets +onlyGivenNames y5
    have h6 : Keeps 131071 z1 y5 := by
      subst y5
      exact Keeps.step State.updBerth_keeps rfl (by assumption)
    clear_value y5
    exact Keeps.step State.passSettleN_keeps rfl (by assumption)
  · exact Keeps.refl

theorem execWaitPend_keeps {x : CtxId} {s : State} : KeepsOut 131071 s (execWaitPend x s) := by
  unfold execWaitPend
  split
  · refine KeepsOut.next (Keeps.step (State.tugRun_keeps (m := 131071) rfl ?_) rfl ?_)
    · intro z2
      exact State.tugDone_keeps.mono rfl
    · exact Keeps.refl
  · split
    · split
      · exact KeepsOut.next Keeps.refl
      · refine KeepsOut.step (engineOnly_keeps (m := 131071) rfl ?_) rfl ?_
        · intro z10 z11
          exact Keeps.refl
        · exact Keeps.refl
    · refine KeepsOut.step (engineOnly_keeps (m := 131071) rfl ?_) rfl ?_
      · intro z14 z15
        exact Keeps.refl
      · exact Keeps.refl

theorem execTrap_keeps {t : Core} {code : BitVec 8} {s : State} : KeepsOut 130819 s (execTrap t code s) := by
  unfold execTrap
  refine KeepsOut.next (Keeps.step (State.tugRun_keeps (m := 130819) rfl ?_) rfl ?_)
  · intro z0
    exact State.trapEnter_keeps.mono rfl
  · exact Keeps.refl

theorem execTret_keeps {t : Core} {s : State} : KeepsOut 130819 s (execTret t s) := by
  unfold execTret
  refine KeepsOut.next (Keeps.step (State.tugRun_keeps (m := 130819) rfl ?_) rfl ?_)
  · intro z0
    extract_lets +onlyGivenNames y1
    clear_value y1
    split
    · exact State.trapHere_keeps.mono rfl
    · split
      · exact State.trapHere_keeps.mono rfl
      · exact Keeps.step State.trapReturn_keeps rfl (State.tugCount_keeps.mono rfl)
  · exact Keeps.refl

theorem execFence_keeps {t : Core} {s : State} : KeepsOut 130819 s (execFence t s) := by
  unfold execFence
  refine KeepsOut.next (Keeps.step (State.tugRun_keeps (m := 130819) rfl ?_) rfl ?_)
  · intro z0
    exact State.tugDone_keeps.mono rfl
  · exact Keeps.refl

theorem execIllegalInstruction_keeps {t : Core} {word : BitVec 32} {s : State} : KeepsOut 130819 s (execIllegalInstruction t word s) := by
  unfold execIllegalInstruction
  refine KeepsOut.next (Keeps.step (State.tugRun_keeps (m := 130819) rfl ?_) rfl ?_)
  · intro z0
    exact State.trapHere_keeps.mono rfl
  · exact Keeps.refl

theorem execInterruptTaken_keeps {t : Core} {s : State} : KeepsOut 117505 s (execInterruptTaken t s) := by
  unfold execInterruptTaken
  refine KeepsOut.next ?_
  split
  · exact Keeps.refl
  · split
    · exact Keeps.refl
    · extract_lets +onlyGivenNames y7
      have h8 : Keeps 117505 s y7 := by
        subst y7
        exact State.set_keeps.mono rfl
      clear_value y7
      exact Keeps.step State.trapEnter_keeps rfl (by assumption)

end Sys2Proof.Machine
end

