-- ==== Sys2Proof/Laws/KeepsPath.lean ====
section
/-!
SUPPORT. Laws/KeepsPath.lean: one lemma `f_keeps` for each operation `f` of the model that answers a state (flow programs, tug memory, receive, release, admission, the arithmetic instructions and egress):
what it may do to the state, in the terms of Laws/Keeps.lean; the mask names the parts it may change.
-/
namespace Sys2Proof.Machine
set_option Elab.async false

/-! ### Machine/FlowLib.lean -/

theorem State.natTry_keeps {s : State} {fwd : List Byte} {a : List Nat} : KeepsNat 33289 s (State.natTry s fwd a) := by
  induction a generalizing s fwd
  · rw [State.natTry]
    exact KeepsNat.full
  · rename_i ih
    rw [State.natTry]
    split
    · exact KeepsNat.wait
    · split
      · exact KeepsNat.step ih rfl Keeps.refl
      · split
        · exact KeepsNat.wait
        · rename_i x10 x11
          have h12 : Keeps 33289 s x10 := by
            refine KeepsOpt.of_some (f := id) ?_ x11
            exact KeepsOpt.step State.makePlace_keeps rfl Keeps.refl
          split
          · rename_i x14 _ _ x17
            have h18 : Keeps 33289 s x14 := by
              refine Keeps.of_fst ?_ x17
              exact Keeps.step State.reserveRoom_keeps rfl (by assumption)
            extract_lets +onlyGivenNames y19 y20 y21 y22
            clear_value y19 y20 y21 y22
            refine KeepsNat.made (Keeps.step State.createRec_keeps rfl ?_)
            assumption
          · rename_i x24 x25
            have h26 : Keeps 33289 s x24 := by
              refine Keeps.of_fst ?_ x25
              exact Keeps.step State.reserveRoom_keeps rfl (by assumption)
            exact KeepsNat.step ih rfl Keeps.refl

theorem State.libNat_keeps {s : State} {st : BerthSt} {f : BitVec 1024} {len : Nat} : KeepsOpt 33289 s Prod.fst (State.libNat s st f len) := by
  unfold State.libNat
  extract_lets +onlyGivenNames y0 y1 y2
  clear_value y0 y1 y2
  split
  · refine KeepsOpt.some ?_
    dsimp only [id]
    exact Keeps.refl
  · split
    · split
      · refine KeepsOpt.some ?_
        dsimp only [id]
        exact Keeps.refl
      · extract_lets +onlyGivenNames y8
        clear_value y8
        refine KeepsOpt.some ?_
        dsimp only [id]
        exact Keeps.refl
    · split
      · extract_lets +onlyGivenNames y11
        clear_value y11
        refine KeepsOpt.some ?_
        dsimp only [id]
        exact Keeps.refl
      · split
        · refine KeepsOpt.some ?_
          dsimp only [id]
          exact Keeps.refl
        · extract_lets +onlyGivenNames y15 y16
          clear_value y15 y16
          split
          · exact KeepsOpt.none
          · split
            · refine KeepsOpt.some ?_
              dsimp only [id]
              exact Keeps.refl
            · split
              · exact KeepsOpt.none
              · refine KeepsOpt.some ?_
                dsimp only [id]
                exact Keeps.refl
              · rename_i x30 _ x32
                have h33 : Keeps 33289 s x30 := by
                  refine KeepsNat.of_made ?_ x32
                  exact KeepsNat.step State.natTry_keeps rfl Keeps.refl
                extract_lets +onlyGivenNames y34
                have h35 : Keeps 33289 s y34 := by
                  subst y34
                  exact Keeps.step State.setSlice_keeps rfl (by assumption)
                clear_value y34
                refine KeepsOpt.some ?_
                dsimp only [id]
                assumption

theorem State.library_keeps {s : State} {st : BerthSt} {f : BitVec 1024} {len : Nat} : KeepsOpt 33289 s Prod.fst (State.library s st f len) := by
  unfold State.library
  extract_lets +onlyGivenNames y0 y1
  clear_value y0 y1
  extract_lets +onlyGivenNames y2
  subst y2
  split
  · exact KeepsOpt.step State.libNat_keeps rfl Keeps.refl
  · dsimp -zeta only
    refine KeepsOpt.some ?_
    dsimp only [id]
    exact Keeps.refl
  · dsimp -zeta only
    refine KeepsOpt.some ?_
    dsimp only [id]
    exact Keeps.refl
  · dsimp -zeta only
    refine KeepsOpt.some ?_
    dsimp only [id]
    exact Keeps.refl
  · dsimp -zeta only
    refine KeepsOpt.some ?_
    dsimp only [id]
    exact Keeps.refl

/-! ### Machine/FlowRun.lean -/

theorem execFlowRequestAccept_keeps {sl : Slice} {q : Quay} {s : State} : KeepsOut 11 s (execFlowRequestAccept sl q s) := by
  unfold execFlowRequestAccept
  refine KeepsOut.next ?_
  extract_lets +onlyGivenNames y0 y1
  clear_value y0 y1
  split
  · exact Keeps.refl
  · split
    · exact Keeps.refl
    · split
      · extract_lets +onlyGivenNames y13 y14 y15 y16
        clear_value y13 y14 y15 y16
        extract_lets +onlyGivenNames y17
        have h18 : Keeps 11 s y17 := by
          subst y17
          exact State.setSlice_keeps.mono rfl
        clear_value y17
        extract_lets +onlyGivenNames y19
        clear_value y19
        extract_lets +onlyGivenNames y20
        have h21 : Keeps 11 s y20 := by
          subst y20
          refine Keeps.plain (x := y17) ?_ {} rfl
          assumption
        clear_value y20
        extract_lets +onlyGivenNames y22
        have h23 : Keeps 11 s y22 := by
          subst y22
          exact Keeps.step State.updFrame_keeps rfl (by assumption)
        clear_value y22
        split
        · assumption
        · exact Keeps.step State.lookupStart_keeps rfl (by assumption)
      · exact Keeps.refl

theorem State.passParity_keeps {s : State} {sl : Nat} {b : Nat} : Keeps 130827 s (State.passParity s sl b) := by
  unfold State.passParity
  extract_lets +onlyGivenNames y0
  have h1 : Keeps 130827 s y0 := by
    subst y0
    refine Keeps.step State.mcheck_keeps rfl (Keeps.step State.bump_keeps rfl ?_)
    exact State.useFree_keeps.mono rfl
  clear_value y0
  refine Keeps.step State.passSettleN_keeps rfl (Keeps.step State.passStop_keeps rfl ?_)
  assumption

theorem State.nextProbe_keeps {s : State} {sl : Nat} {b : Nat} {st : BerthSt} {alt : Bool} {other : Bool} : Keeps 33289 s (State.nextProbe s sl b st alt other) := by
  unfold State.nextProbe
  extract_lets +onlyGivenNames y0
  clear_value y0
  split
  · exact State.prepBlank_keeps.mono rfl
  · split
    · exact Keeps.step State.setBerth_keeps rfl (State.bump_keeps.mono rfl)
    · split
      · exact State.setBerth_keeps.mono rfl
      · exact State.prepBlank_keeps.mono rfl

theorem execIndexReadDone_keeps {sl : Slice} {b : Berth} {ue : Bool} {s : State} : KeepsOut 130827 s (execIndexReadDone sl b ue s) := by
  unfold execIndexReadDone
  refine KeepsOut.next ?_
  split
  · exact Keeps.refl
  · split
    · split
      · exact State.prepBlank_keeps.mono rfl
      · extract_lets +onlyGivenNames y15
        clear_value y15
        extract_lets +onlyGivenNames y16
        have h17 : Keeps 130827 s y16 := by
          subst y16
          exact State.ledHbm_keeps.mono rfl
        clear_value y16
        split
        · exact Keeps.step State.passParity_keeps rfl (Keeps.step State.setSlice_keeps rfl (by assumption))
        · split
          · exact Keeps.step State.setBerth_keeps rfl (by assumption)
          · exact Keeps.step State.nextProbe_keeps rfl (by assumption)
    · exact Keeps.refl

theorem State.installRec_keeps {s : State} {sl : Nat} {b : Nat} {n : Nat} {e : Rec} {st : BerthSt} : Keeps 33289 s (State.installRec s sl b n e st) := by
  unfold State.installRec
  split
  · exact Keeps.refl
  · rename_i x3 x4
    have h5 : Keeps 33289 s x3 := by
      refine KeepsOpt.of_some (f := id) ?_ x4
      exact KeepsOpt.step State.makePlace_keeps rfl Keeps.refl
    extract_lets +onlyGivenNames y6
    clear_value y6
    extract_lets +onlyGivenNames y7
    have h8 : Keeps 33289 s y7 := by
      subst y7
      refine Keeps.step State.ledHbm_keeps rfl (Keeps.step State.setSlice_keeps rfl ?_)
      assumption
    clear_value y7
    extract_lets +onlyGivenNames y9
    have h10 : Keeps 33289 s y9 := by
      subst y9
      refine Keeps.step State.pmc_keeps rfl (Keeps.step State.bump_keeps rfl ?_)
      assumption
    clear_value y9
    exact Keeps.step State.setBerth_keeps rfl (by assumption)

theorem execRecordReadDone_keeps {sl : Slice} {b : Berth} {ue : Bool} {s : State} : KeepsOut 130827 s (execRecordReadDone sl b ue s) := by
  unfold execRecordReadDone
  refine KeepsOut.next ?_
  split
  · exact Keeps.refl
  · split
    · split
      · exact State.lookupStart_keeps.mono rfl
      · split
        · extract_lets +onlyGivenNames y14
          have h15 : Keeps 130827 s y14 := by
            subst y14
            exact State.dropRec_keeps.mono rfl
          clear_value y14
          extract_lets +onlyGivenNames y16
          have h17 : Keeps 130827 s y16 := by
            subst y16
            split
            · exact Keeps.step State.natUnmap_keeps rfl (by assumption)
            · assumption
          clear_value y16
          refine Keeps.step State.passParity_keeps rfl (Keeps.step State.ledHbm_keeps rfl ?_)
          exact Keeps.step State.exportRec_keeps rfl (by assumption)
        · split
          · exact State.installRec_keeps.mono rfl
          · extract_lets +onlyGivenNames y23
            have h24 : Keeps 130827 s y23 := by
              subst y23
              refine Keeps.step State.ledHbm_keeps rfl (Keeps.step State.bump_keeps rfl ?_)
              exact Keeps.refl
            clear_value y23
            split
            · exact Keeps.step State.setBerth_keeps rfl (by assumption)
            · extract_lets +onlyGivenNames y31 y32
              clear_value y31 y32
              exact Keeps.step State.nextProbe_keeps rfl (by assumption)
    · exact Keeps.refl

theorem State.passReady_keeps {s : State} {sl : Slice} {b : Nat} {st : BerthSt} : KeepsOpt 9 s Prod.fst (State.passReady s sl b st) := by
  unfold State.passReady
  split
  · extract_lets +onlyGivenNames y2
    clear_value y2
    refine KeepsOpt.some ?_
    dsimp only [id]
    exact State.setBerth_keeps.mono rfl
  · split
    · extract_lets +onlyGivenNames y6 y7
      clear_value y6 y7
      refine KeepsOpt.some ?_
      dsimp only [id]
      refine Keeps.step State.setBerth_keeps rfl (Keeps.step State.bump_keeps rfl ?_)
      exact Keeps.refl
    · exact KeepsOpt.none
  · exact KeepsOpt.none

theorem State.stevStart_keeps {s : State} {sl : Slice} {b : Nat} {e : Fin 20} {st : BerthSt} : Keeps 10 s (State.stevStart s sl b e st) := by
  unfold State.stevStart
  extract_lets +onlyGivenNames y0 y1
  clear_value y0 y1
  refine Keeps.step State.setCtx_keeps rfl (Keeps.step State.zeroG_keeps rfl ?_)
  exact State.setBerth_keeps.mono rfl

theorem State.libEnd_keeps {s : State} {sl : Slice} {b : Nat} {st : BerthSt} {r : LibRes} : Keeps 115465 s (State.libEnd s sl b st r) := by
  unfold State.libEnd
  extract_lets +onlyGivenNames y0
  clear_value y0
  extract_lets +onlyGivenNames y1
  have h2 : Keeps 115465 s y1 := by
    subst y1
    split
    · exact Keeps.step State.bump_keeps rfl (State.unreserve_keeps.mono rfl)
    · exact Keeps.refl
  clear_value y1
  extract_lets +onlyGivenNames y5 y6
  clear_value y5 y6
  refine Keeps.step State.passSettleN_keeps rfl (Keeps.step State.setBerth_keeps rfl ?_)
  assumption

theorem State.spoilWord_keeps {s : State} {kind : Nat} {unit : Nat} {gen : Bool} {word : Nat} {bad : Bool} : Keeps 2 s (State.spoilWord s kind unit gen word bad) := by
  unfold State.spoilWord
  split
  · exact Keeps.plain (x := s) Keeps.refl {} rfl
  · exact Keeps.refl

theorem execStevedoreDispatch_keeps {sl : Slice} {b : Berth} {fetchBad : Bool} {s : State} : KeepsOut 115467 s (execStevedoreDispatch sl b fetchBad s) := by
  unfold execStevedoreDispatch
  refine KeepsOut.next ?_
  split
  · split
    · exact Keeps.refl
    · rename_i x9 _ x11
      have h12 : Keeps 115467 s x9 := by
        refine KeepsOpt.of_some (f := Prod.fst) ?_ x11
        exact KeepsOpt.step State.passReady_keeps rfl Keeps.refl
      extract_lets +onlyGivenNames y13
      have h14 : Keeps 115467 s y13 := by
        subst y13
        exact Keeps.step State.pmc_keeps rfl (by assumption)
      clear_value y13
      split
      · split
        · extract_lets +onlyGivenNames y17
          clear_value y17
          split
          · rename_i x19 _ x21
            have h22 : Keeps 115467 s x19 := by
              refine KeepsOpt.of_some (f := Prod.fst) ?_ x21
              exact KeepsOpt.step State.library_keeps rfl (by assumption)
            exact Keeps.step State.libEnd_keeps rfl (by assumption)
          · exact Keeps.refl
        · exact Keeps.refl
      · exact Keeps.step State.stevStart_keeps rfl (Keeps.step State.spoilWord_keeps rfl (by assumption))
  · exact Keeps.refl

theorem execFlowPassReturn_keeps {sl : Slice} {b : Berth} {s : State} : KeepsOut 115471 s (execFlowPassReturn sl b s) := by
  unfold execFlowPassReturn
  refine KeepsOut.next ?_
  split
  · exact Keeps.refl
  · split
    · split
      · extract_lets +onlyGivenNames y8
        clear_value y8
        refine Keeps.step State.passSettleN_keeps rfl (Keeps.step State.delBerth_keeps rfl ?_)
        refine Keeps.step State.chainOn_keeps rfl (Keeps.step State.setBerth_keeps rfl ?_)
        exact Keeps.refl
      · split
        · exact State.delBerth_keeps.mono rfl
        · exact Keeps.refl
    · split
      · extract_lets +onlyGivenNames y16 y17 y18 y19 y20 y21
        clear_value y16 y17 y18 y19 y20 y21
        extract_lets +onlyGivenNames y22
        have h23 : Keeps 115471 s y22 := by
          subst y22
          split
          · exact Keeps.refl
          · exact State.delBerth_keeps.mono rfl
        clear_value y22
        split
        · extract_lets +onlyGivenNames y29
          have h30 : Keeps 115471 s y29 := by
            subst y29
            refine Keeps.step State.updCtx_keeps rfl (Keeps.step State.setG_keeps rfl ?_)
            assumption
          clear_value y29
          exact Keeps.step State.setFrame_keeps rfl (by assumption)
        · exact Keeps.step State.resolveFrame_keeps rfl (Keeps.step State.setFrame_keeps rfl (by assumption))
      · exact Keeps.refl

theorem execIndexWriteDone_keeps {sl : Slice} {s : State} : KeepsOut 33289 s (execIndexWriteDone sl s) := by
  unfold execIndexWriteDone
  refine KeepsOut.next ?_
  extract_lets +onlyGivenNames y0
  clear_value y0
  split
  · exact Keeps.refl
  · exact Keeps.step State.ledHbm_keeps rfl (State.setSlice_keeps.mono rfl)

theorem execIndexUnitMove_keeps {sl : Slice} {s : State} : KeepsOut 33289 s (execIndexUnitMove sl s) := by
  unfold execIndexUnitMove
  refine KeepsOut.next ?_
  extract_lets +onlyGivenNames y0
  clear_value y0
  extract_lets +onlyGivenNames y1
  subst y1
  split
  · exact Keeps.step State.ledHbm_keeps rfl (State.setSlice_keeps.mono rfl)
  · exact Keeps.refl

theorem execLedgerAgerVisit_keeps {sl : Slice} {ue : Bool} {s : State} : KeepsOut 130825 s (execLedgerAgerVisit sl ue s) := by
  unfold execLedgerAgerVisit
  refine KeepsOut.next ?_
  extract_lets +onlyGivenNames y0
  clear_value y0
  split
  · exact Keeps.refl
  · split
    · exact Keeps.refl
    · extract_lets +onlyGivenNames y9
      have h10 : Keeps 130825 s y9 := by
        subst y9
        exact State.setSlice_keeps.mono rfl
      clear_value y9
      extract_lets +onlyGivenNames y11
      have h12 : Keeps 130825 s y11 := by
        subst y11
        split
        · assumption
        · exact Keeps.step State.ledHbm_keeps rfl (by assumption)
      clear_value y11
      split
      · extract_lets +onlyGivenNames y16
        have h17 : Keeps 130825 s y16 := by
          subst y16
          exact Keeps.step State.dropRec_keeps rfl (by assumption)
        clear_value y16
        extract_lets +onlyGivenNames y18
        have h19 : Keeps 130825 s y18 := by
          subst y18
          split
          · exact Keeps.step State.natUnmap_keeps rfl (by assumption)
          · assumption
        clear_value y18
        refine Keeps.step State.mcheck_keeps rfl (Keeps.step State.bump_keeps rfl ?_)
        refine Keeps.step State.exportRec_keeps rfl (Keeps.step State.useFree_keeps rfl ?_)
        assumption
      · split
        · assumption
        · split
          · exact Keeps.step State.bump_keeps rfl (Keeps.step State.recDelete_keeps rfl (by assumption))
          · split
            · exact Keeps.step State.exportRec_keeps rfl (by assumption)
            · assumption

theorem State.migrateDone_keeps {s : State} {sl : Nat} {r : Rehash} : Keeps 117513 s (State.migrateDone s sl r) := by
  unfold State.migrateDone
  split
  · exact Keeps.refl
  · extract_lets +onlyGivenNames y2
    clear_value y2
    extract_lets +onlyGivenNames y3
    have h4 : Keeps 117513 s y3 := by
      subst y3
      refine Keeps.step State.cmdEvent_keeps rfl (Keeps.step State.setSlice_keeps rfl ?_)
      exact Keeps.refl
    clear_value y3
    extract_lets +onlyGivenNames y5
    clear_value y5
    split
    · refine Keeps.plain (x := y3) ?_ {} rfl
      assumption
    · refine Keeps.step State.set_keeps rfl (Keeps.plain (x := y3) ?_ {} rfl)
      assumption

theorem State.migrateRec_keeps {s : State} {sl : Nat} {n : Nat} {e : Rec} {r : Rehash} : Keeps 115465 s (State.migrateRec s sl n e r) := by
  unfold State.migrateRec
  extract_lets +onlyGivenNames y0
  subst y0
  split
  · dsimp -zeta only
    exact State.recDelete_keeps.mono rfl
  · split
    · extract_lets +onlyGivenNames y4
      have h5 : Keeps 115465 s y4 := by
        subst y4
        exact State.dropRec_keeps.mono rfl
      clear_value y4
      extract_lets +onlyGivenNames y6
      have h7 : Keeps 115465 s y6 := by
        subst y6
        split
        · exact Keeps.step State.natUnmap_keeps rfl (by assumption)
        · assumption
      clear_value y6
      exact Keeps.step State.exportRec_keeps rfl (by assumption)
    · split
      · rename_i x12 x13
        have h14 : Keeps 115465 s x12 := by
          refine Keeps.of_fst ?_ x13
          exact State.reserveRoom_keeps.mono rfl
        exact Keeps.refl
      · rename_i x16 _ _ x19
        have h20 : Keeps 115465 s x16 := by
          refine Keeps.of_fst ?_ x19
          exact State.reserveRoom_keeps.mono rfl
        extract_lets +onlyGivenNames y21 y22 y23
        clear_value y21 y22 y23
        refine Keeps.step State.bump_keeps rfl (Keeps.step State.ledHbm_keeps rfl ?_)
        refine Keeps.step State.ledHbm_keeps rfl (Keeps.step State.setSlice_keeps rfl ?_)
        assumption

theorem execRehashMigrate_keeps {sl : Slice} {s : State} : KeepsOut 117513 s (execRehashMigrate sl s) := by
  unfold execRehashMigrate
  refine KeepsOut.next ?_
  split
  · exact Keeps.refl
  · split
    · exact Keeps.refl
    · split
      · exact State.migrateDone_keeps.mono rfl
      · extract_lets +onlyGivenNames y14
        clear_value y14
        extract_lets +onlyGivenNames y15
        have h16 : Keeps 117513 s y15 := by
          subst y15
          exact State.setSlice_keeps.mono rfl
        clear_value y15
        split
        · assumption
        · exact Keeps.step State.migrateRec_keeps rfl (by assumption)

/-! ### Machine/TugMem.lean -/

theorem loadOp_keeps {n : Nat} {t : Core} {rd : RegNo} {ra : RegNo} {imm : BitVec 16} {ue : Bool} {s : State} : KeepsOut 130819 s (loadOp n t rd ra imm ue s) := by
  unfold loadOp
  refine KeepsOut.next (Keeps.step (State.tugRun_keeps (m := 130819) rfl ?_) rfl ?_)
  · intro z0
    extract_lets +onlyGivenNames y1
    clear_value y1
    refine State.tugFinish_keeps (m := 130819) rfl ?_ ?_
    · exact KeepsTug.step State.tugLoad_keeps rfl Keeps.refl
    · exact Keeps.refl
  · exact Keeps.refl

theorem storeOp_keeps {n : Nat} {t : Core} {rd : RegNo} {ra : RegNo} {imm : BitVec 16} {s : State} : KeepsOut 261891 s (storeOp n t rd ra imm s) := by
  unfold storeOp
  refine KeepsOut.next (Keeps.step (State.tugRun_keeps (m := 261891) rfl ?_) rfl ?_)
  · intro z0
    extract_lets +onlyGivenNames y1
    clear_value y1
    refine State.tugFinish_keeps (m := 261891) rfl ?_ ?_
    · exact KeepsTug.step State.tugStore_keeps rfl Keeps.refl
    · exact Keeps.refl
  · exact Keeps.refl

theorem execLdb_keeps {t : Core} {rd : RegNo} {ra : RegNo} {imm : BitVec 16} {ue : Bool} {s : State} : KeepsOut 130819 s (execLdb t rd ra imm ue s) := by
  unfold execLdb
  exact KeepsOut.step loadOp_keeps rfl Keeps.refl

theorem execLdh_keeps {t : Core} {rd : RegNo} {ra : RegNo} {imm : BitVec 16} {ue : Bool} {s : State} : KeepsOut 130819 s (execLdh t rd ra imm ue s) := by
  unfold execLdh
  exact KeepsOut.step loadOp_keeps rfl Keeps.refl

theorem execLdw_keeps {t : Core} {rd : RegNo} {ra : RegNo} {imm : BitVec 16} {ue : Bool} {s : State} : KeepsOut 130819 s (execLdw t rd ra imm ue s) := by
  unfold execLdw
  exact KeepsOut.step loadOp_keeps rfl Keeps.refl

theorem execLdd_keeps {t : Core} {rd : RegNo} {ra : RegNo} {imm : BitVec 16} {ue : Bool} {s : State} : KeepsOut 130819 s (execLdd t rd ra imm ue s) := by
  unfold execLdd
  exact KeepsOut.step loadOp_keeps rfl Keeps.refl

theorem execStb_keeps {t : Core} {rd : RegNo} {ra : RegNo} {imm : BitVec 16} {s : State} : KeepsOut 261891 s (execStb t rd ra imm s) := by
  unfold execStb
  exact KeepsOut.step storeOp_keeps rfl Keeps.refl

theorem execSth_keeps {t : Core} {rd : RegNo} {ra : RegNo} {imm : BitVec 16} {s : State} : KeepsOut 261891 s (execSth t rd ra imm s) := by
  unfold execSth
  exact KeepsOut.step storeOp_keeps rfl Keeps.refl

theorem execStw_keeps {t : Core} {rd : RegNo} {ra : RegNo} {imm : BitVec 16} {s : State} : KeepsOut 261891 s (execStw t rd ra imm s) := by
  unfold execStw
  exact KeepsOut.step storeOp_keeps rfl Keeps.refl

theorem execStd_keeps {t : Core} {rd : RegNo} {ra : RegNo} {imm : BitVec 16} {s : State} : KeepsOut 261891 s (execStd t rd ra imm s) := by
  unfold execStd
  exact KeepsOut.step storeOp_keeps rfl Keeps.refl

theorem amoOp_keeps {f : Word → Word → Word → Option Word} {t : Core} {rd : RegNo} {ra : RegNo} {rb : RegNo} {ue : Bool} {s : State} : KeepsOut 261891 s (amoOp f t rd ra rb ue s) := by
  unfold amoOp
  refine KeepsOut.next (Keeps.step (State.tugRun_keeps (m := 261891) rfl ?_) rfl ?_)
  · intro z0
    extract_lets +onlyGivenNames y1 y2
    clear_value y1 y2
    split
    · exact State.trapHere_keeps.mono rfl
    · split
      · exact State.trapHere_keeps.mono rfl
      · split
        · rename_i x8 _ x10
          have h11 : Keeps 261891 z0 x8 := by
            refine KeepsTug.of_ok ?_ x10
            exact KeepsTug.step State.tugLoad_keeps rfl Keeps.refl
          extract_lets +onlyGivenNames y12
          have h13 : Keeps 261891 z0 y12 := by
            subst y12
            exact Keeps.step State.tugAccCount_keeps rfl (by assumption)
          clear_value y12
          extract_lets +onlyGivenNames y14
          have h15 : Keeps 261891 z0 y14 := by
            subst y14
            split
            · refine Keeps.step State.tugAccCount_keeps rfl ?_
              refine Keeps.step State.wordMend_keeps rfl (Keeps.step State.dWrite_keeps rfl ?_)
              assumption
            · assumption
          clear_value y14
          refine Keeps.step State.tugDone_keeps rfl (Keeps.step State.setG_keeps rfl ?_)
          assumption
        · rename_i x22 _ x24
          have h25 : Keeps 261891 z0 x22 := by
            refine KeepsTug.of_trap ?_ x24
            exact KeepsTug.step State.tugLoad_keeps rfl Keeps.refl
          exact Keeps.step State.trapHere_keeps rfl (by assumption)
        · exact Keeps.refl
  · exact Keeps.refl

theorem execAmoAdd_keeps {t : Core} {rd : RegNo} {ra : RegNo} {rb : RegNo} {ue : Bool} {s : State} : KeepsOut 261891 s (execAmoAdd t rd ra rb ue s) := by
  unfold execAmoAdd
  exact KeepsOut.step amoOp_keeps rfl Keeps.refl

theorem execAmoSwap_keeps {t : Core} {rd : RegNo} {ra : RegNo} {rb : RegNo} {ue : Bool} {s : State} : KeepsOut 261891 s (execAmoSwap t rd ra rb ue s) := by
  unfold execAmoSwap
  exact KeepsOut.step amoOp_keeps rfl Keeps.refl

theorem execAmoOr_keeps {t : Core} {rd : RegNo} {ra : RegNo} {rb : RegNo} {ue : Bool} {s : State} : KeepsOut 261891 s (execAmoOr t rd ra rb ue s) := by
  unfold execAmoOr
  exact KeepsOut.step amoOp_keeps rfl Keeps.refl

theorem execAmoAnd_keeps {t : Core} {rd : RegNo} {ra : RegNo} {rb : RegNo} {ue : Bool} {s : State} : KeepsOut 261891 s (execAmoAnd t rd ra rb ue s) := by
  unfold execAmoAnd
  exact KeepsOut.step amoOp_keeps rfl Keeps.refl

theorem execAmoCas_keeps {t : Core} {rd : RegNo} {ra : RegNo} {rb : RegNo} {ue : Bool} {s : State} : KeepsOut 261891 s (execAmoCas t rd ra rb ue s) := by
  unfold execAmoCas
  exact KeepsOut.step amoOp_keeps rfl Keeps.refl

theorem windowStore_keeps {t : Core} {a : Nat} {v : Word} {s : State} : KeepsOut 261891 s (windowStore t a v s) := by
  unfold windowStore
  refine KeepsOut.next (Keeps.step (State.tugRun_keeps (m := 261891) rfl ?_) rfl ?_)
  · intro z0
    refine State.tugFinish_keeps (m := 261891) rfl ?_ ?_
    · exact KeepsTug.step State.tugStore_keeps rfl Keeps.refl
    · exact Keeps.refl
  · exact Keeps.refl

theorem windowLoad_keeps {t : Core} {rd : RegNo} {a : Nat} {s : State} : KeepsOut 130819 s (windowLoad t rd a s) := by
  unfold windowLoad
  refine KeepsOut.next (Keeps.step (State.tugRun_keeps (m := 130819) rfl ?_) rfl ?_)
  · intro z0
    refine State.tugFinish_keeps (m := 130819) rfl ?_ ?_
    · exact KeepsTug.step State.tugLoad_keeps rfl Keeps.refl
    · exact Keeps.refl
  · exact Keeps.refl

theorem execSend0_keeps {t : Core} {m : Mbox} {v : Word} {s : State} : KeepsOut 261891 s (execSend0 t m v s) := by
  unfold execSend0
  exact KeepsOut.step windowStore_keeps rfl Keeps.refl

theorem execSend1_keeps {t : Core} {m : Mbox} {v : Word} {s : State} : KeepsOut 261891 s (execSend1 t m v s) := by
  unfold execSend1
  exact KeepsOut.step windowStore_keeps rfl Keeps.refl

theorem execRecv0_keeps {t : Core} {rd : RegNo} {m : Mbox} {s : State} : KeepsOut 130819 s (execRecv0 t rd m s) := by
  unfold execRecv0
  exact KeepsOut.step windowLoad_keeps rfl Keeps.refl

theorem execRecv1_keeps {t : Core} {rd : RegNo} {m : Mbox} {s : State} : KeepsOut 130819 s (execRecv1 t rd m s) := by
  unfold execRecv1
  exact KeepsOut.step windowLoad_keeps rfl Keeps.refl

theorem execExqHeadWrite_keeps {t : Core} {v : Word} {s : State} : KeepsOut 261891 s (execExqHeadWrite t v s) := by
  unfold execExqHeadWrite
  exact KeepsOut.step windowStore_keeps rfl Keeps.refl

theorem execWdKick_keeps {t : Core} {s : State} : KeepsOut 261891 s (execWdKick t s) := by
  unfold execWdKick
  exact KeepsOut.step windowStore_keeps rfl Keeps.refl

theorem execTimerWrite_keeps {t : Core} {v : Word} {s : State} : KeepsOut 261891 s (execTimerWrite t v s) := by
  unfold execTimerWrite
  exact KeepsOut.step windowStore_keeps rfl Keeps.refl

theorem execIpi_keeps {t : Core} {v : Word} {s : State} : KeepsOut 261891 s (execIpi t v s) := by
  unfold execIpi
  exact KeepsOut.step windowStore_keeps rfl Keeps.refl

theorem execSyswdKick_keeps {t : Core} {v : Word} {s : State} : KeepsOut 261891 s (execSyswdKick t v s) := by
  unfold execSyswdKick
  exact KeepsOut.step windowStore_keeps rfl Keeps.refl

theorem execWaitf_keeps {t : Core} {r : RegNo} {s : State} : KeepsOut 130819 s (execWaitf t r s) := by
  unfold execWaitf
  refine KeepsOut.next (Keeps.step (State.tugRun_keeps (m := 130819) rfl ?_) rfl ?_)
  · intro z0
    split
    · exact Keeps.refl
    · extract_lets +onlyGivenNames y6 y7 y8 y9
      clear_value y6 y7 y8 y9
      split
      · extract_lets +onlyGivenNames y13
        have h14 : Keeps 130819 z0 y13 := by
          subst y13
          split
          · exact Keeps.refl
          · exact State.set_keeps.mono rfl
        clear_value y13
        refine Keeps.step State.tugDone_keeps rfl (Keeps.step State.setG_keeps rfl ?_)
        assumption
      · split
        · exact Keeps.step State.tugDone_keeps rfl (State.setG_keeps.mono rfl)
        · extract_lets +onlyGivenNames y21
          have h22 : Keeps 130819 z0 y21 := by
            subst y21
            refine Keeps.step State.saveTask_keeps rfl (Keeps.step State.tugDone_keeps rfl ?_)
            exact Keeps.refl
          clear_value y21
          extract_lets +onlyGivenNames y23
          clear_value y23
          extract_lets +onlyGivenNames y24
          have h25 : Keeps 130819 z0 y24 := by
            subst y24
            exact Keeps.step State.setTask_keeps rfl (by assumption)
          clear_value y24
          extract_lets +onlyGivenNames y26
          have h27 : Keeps 130819 z0 y26 := by
            subst y26
            exact Keeps.step State.set_keeps rfl (by assumption)
          clear_value y26
          extract_lets +onlyGivenNames y28
          have h29 : Keeps 130819 z0 y28 := by
            subst y28
            split
            · assumption
            · exact Keeps.step State.delayFor_keeps rfl (by assumption)
          clear_value y28
          exact Keeps.step State.coreTake_keeps rfl (by assumption)
  · exact Keeps.refl

theorem execYield_keeps {t : Core} {s : State} : KeepsOut 130819 s (execYield t s) := by
  unfold execYield
  refine KeepsOut.next (Keeps.step (State.tugRun_keeps (m := 130819) rfl ?_) rfl ?_)
  · intro z0
    split
    · exact Keeps.refl
    · extract_lets +onlyGivenNames y6
      have h7 : Keeps 130819 z0 y6 := by
        subst y6
        exact State.tugDone_keeps.mono rfl
      clear_value y6
      split
      · assumption
      · refine Keeps.step State.startTask_keeps rfl ?_
        refine Keeps.step State.makeReady_keeps rfl (Keeps.step State.saveTask_keeps rfl ?_)
        assumption
  · exact Keeps.refl

theorem execTaskPlace_keeps {k : TaskIx} {s : State} : KeepsOut 33283 s (execTaskPlace k s) := by
  unfold execTaskPlace
  refine KeepsOut.next ?_
  split
  · split
    · split
      · extract_lets +onlyGivenNames y5
        have h6 : Keeps 33283 s y5 := by
          subst y5
          exact State.startTask_keeps.mono rfl
        clear_value y5
        refine Keeps.plain (x := y5) ?_ {} rfl
        assumption
      · exact Keeps.refl
    · split
      · split
        · extract_lets +onlyGivenNames y14
          have h15 : Keeps 33283 s y14 := by
            subst y14
            exact State.setNext_keeps.mono rfl
          clear_value y14
          refine Keeps.plain (x := y14) ?_ {} rfl
          assumption
        · exact Keeps.refl
      · exact Keeps.refl
  · exact Keeps.refl

theorem execContextSwitch_keeps {t : Core} {s : State} : KeepsOut 33283 s (execContextSwitch t s) := by
  unfold execContextSwitch
  refine KeepsOut.next ?_
  split
  · exact Keeps.refl
  · split
    · split
      · exact State.cancelHere_keeps.mono rfl
      · split
        · exact Keeps.refl
        · split
          · extract_lets +onlyGivenNames y14
            have h15 : Keeps 33283 s y14 := by
              subst y14
              exact State.saveTask_keeps.mono rfl
            clear_value y14
            extract_lets +onlyGivenNames y16
            have h17 : Keeps 33283 s y16 := by
              subst y16
              refine Keeps.step State.setReady_keeps rfl (Keeps.step State.set_keeps rfl ?_)
              assumption
            clear_value y16
            exact Keeps.step State.startTask_keeps rfl (by assumption)
          · exact State.setNext_keeps.mono rfl
    · exact Keeps.refl

theorem execDelayListExpiry_keeps {s : State} : KeepsOut 513 s (execDelayListExpiry s) := by
  unfold execDelayListExpiry
  refine KeepsOut.next (Keeps.foldl ?_ ?_)
  · intro z0 z1
    exact State.waitOver_keeps.mono rfl
  · exact Keeps.refl

theorem execTimerExpiry_keeps {t : Core} {s : State} : KeepsOut 513 s (execTimerExpiry t s) := by
  unfold execTimerExpiry
  refine KeepsOut.next ?_
  split
  · split
    · exact Keeps.step State.latchIrq_keeps rfl (State.setTcore_keeps.mono rfl)
    · exact Keeps.refl
  · exact Keeps.refl

theorem execCoreWdExpiry_keeps {t : Core} {s : State} : KeepsOut 117505 s (execCoreWdExpiry t s) := by
  unfold execCoreWdExpiry
  refine KeepsOut.next ?_
  extract_lets +onlyGivenNames y0
  clear_value y0
  split
  · split
    · exact State.coreReset_keeps.mono rfl
    · exact Keeps.step State.latchIrq_keeps rfl (State.setTcore_keeps.mono rfl)
  · exact Keeps.refl

theorem execSyswdExpiry_keeps {s : State} : KeepsOut 13057 s (execSyswdExpiry s) := by
  unfold execSyswdExpiry
  refine KeepsOut.next ?_
  split
  · split
    · extract_lets +onlyGivenNames y4
      clear_value y4
      extract_lets +onlyGivenNames y5
      have h6 : Keeps 13057 s y5 := by
        subst y5
        exact Keeps.plain (x := s) Keeps.refl {} rfl
      clear_value y5
      split
      · exact Keeps.step State.bump_keeps rfl (by assumption)
      · exact Keeps.step State.setCause_keeps rfl (by assumption)
    · exact Keeps.refl
  · exact Keeps.refl

/-! ### Machine/Rx.lean -/

theorem State.stickyFree_keeps {s : State} {sl : Nat} {b : Nat} : Keeps 115465 s (State.stickyFree s sl b) := by
  unfold State.stickyFree
  split
  · exact Keeps.refl
  · extract_lets +onlyGivenNames y5
    clear_value y5
    refine Keeps.step State.passSettleN_keeps rfl (Keeps.step State.delBerth_keeps rfl ?_)
    refine Keeps.step State.chainOn_keeps rfl (Keeps.step State.setBerth_keeps rfl ?_)
    exact Keeps.refl

theorem State.quayForget_keeps {s : State} {q : Nat} {fid : Nat} : Keeps 2 s (State.quayForget s q fid) := by
  unfold State.quayForget
  extract_lets +onlyGivenNames y0
  clear_value y0
  exact State.setQuay_keeps.mono rfl

theorem State.frameDrop_keeps {s : State} {fid : Nat} : Keeps 117647 s (State.frameDrop s fid) := by
  unfold State.frameDrop
  split
  · exact Keeps.refl
  · extract_lets +onlyGivenNames y5
    have h6 : Keeps 117647 s y5 := by
      subst y5
      exact State.flowKill_keeps.mono rfl
    clear_value y5
    extract_lets +onlyGivenNames y7
    have h8 : Keeps 117647 s y7 := by
      subst y7
      split
      · exact Keeps.step State.stickyFree_keeps rfl (by assumption)
      · assumption
    clear_value y7
    extract_lets +onlyGivenNames y15
    have h16 : Keeps 117647 s y15 := by
      subst y15
      split
      · exact Keeps.step State.ctxFree_keeps rfl (by assumption)
      · assumption
    clear_value y15
    refine Keeps.step State.flightDone_keeps rfl (Keeps.step State.delFrame_keeps rfl ?_)
    exact Keeps.step State.quayForget_keeps rfl (by assumption)

theorem State.enterFrame_keeps {s : State} {f : Frame} {headIn : Bool} : Keeps 2 s (State.enterFrame s f headIn) := by
  unfold State.enterFrame
  extract_lets +onlyGivenNames y0 y1
  clear_value y0 y1
  extract_lets +onlyGivenNames y2
  have h3 : Keeps 2 s y2 := by
    subst y2
    exact Keeps.plain (x := s) Keeps.refl {} rfl
  clear_value y2
  split
  · extract_lets +onlyGivenNames y5
    clear_value y5
    exact Keeps.step State.setQuay_keeps rfl (by assumption)
  · assumption

theorem execFrameRxStart_keeps {p : Port} {lane : Fin 4} {bit : BitVec 16} {phi : BitVec 16} {frag : Bool} {bytes : List Byte} {s : State} : KeepsOut 67 s (execFrameRxStart p lane bit phi frag bytes s) := by
  unfold execFrameRxStart
  refine KeepsOut.next ?_
  split
  · exact Keeps.refl
  · extract_lets +onlyGivenNames y2 y3 y4
    clear_value y2 y3 y4
    extract_lets +onlyGivenNames y5
    have h6 : Keeps 67 s y5 := by
      subst y5
      exact State.setPortSt_keeps.mono rfl
    clear_value y5
    extract_lets +onlyGivenNames y7 y8 y9 y10
    clear_value y7 y8 y9 y10
    split
    · exact Keeps.step State.bump_keeps rfl (by assumption)
    · split
      · exact Keeps.step State.bump_keeps rfl (by assumption)
      · exact Keeps.step State.enterFrame_keeps rfl (by assumption)

theorem State.pauseRx_keeps {s : State} {p : Nat} {quanta : Nat} : Keeps 65 s (State.pauseRx s p quanta) := by
  unfold State.pauseRx
  extract_lets +onlyGivenNames y0
  have h1 : Keeps 65 s y0 := by
    subst y0
    exact State.bump_keeps.mono rfl
  clear_value y0
  extract_lets +onlyGivenNames y2
  clear_value y2
  refine Keeps.step State.setBit_keeps rfl (Keeps.step State.setPortSt_keeps rfl ?_)
  assumption

theorem State.pfcOne_keeps {s : State} {p : Nat} {n : Nat} {quanta : Nat} : Keeps 65 s (State.pfcOne s p n quanta) := by
  unfold State.pfcOne
  extract_lets +onlyGivenNames y0
  have h1 : Keeps 65 s y0 := by
    subst y0
    exact State.bump_keeps.mono rfl
  clear_value y0
  extract_lets +onlyGivenNames y2 y3
  clear_value y2 y3
  split
  · exact Keeps.step State.setPortSt_keeps rfl (by assumption)
  · extract_lets +onlyGivenNames y6
    clear_value y6
    split
    · exact Keeps.step State.set_keeps rfl (Keeps.step State.setPortSt_keeps rfl (by assumption))
    · exact Keeps.step State.set_keeps rfl (Keeps.step State.setPortSt_keeps rfl (by assumption))

theorem State.pfcRx_keeps {s : State} {p : Nat} {mask : BitVec 8} {quanta : List Nat} : Keeps 65 s (State.pfcRx s p mask quanta) := by
  unfold State.pfcRx
  refine Keeps.foldl ?_ ?_
  · intro z0 z1
    split
    · exact State.pfcOne_keeps.mono rfl
    · exact Keeps.refl
  · exact Keeps.refl

theorem State.pauseFrame_keeps {s : State} {p : Nat} {quanta : Nat} : Keeps 65 s (State.pauseFrame s p quanta) := by
  unfold State.pauseFrame
  split
  · exact State.pauseRx_keeps.mono rfl
  · exact State.bump_keeps.mono rfl

theorem State.pfcFrame_keeps {s : State} {p : Nat} {mask : BitVec 8} {quanta : List Nat} : Keeps 65 s (State.pfcFrame s p mask quanta) := by
  unfold State.pfcFrame
  split
  · exact State.pfcRx_keeps.mono rfl
  · exact State.bump_keeps.mono rfl

theorem State.controlRx_keeps {s : State} {p : Nat} {l : List Byte} : Keeps 65 s (State.controlRx s p l) := by
  unfold State.controlRx
  extract_lets +onlyGivenNames y0
  subst y0
  split
  · exact State.pauseFrame_keeps.mono rfl
  · exact State.pfcFrame_keeps.mono rfl
  · exact State.bump_keeps.mono rfl

theorem execPauseFrameRx_keeps {p : Port} {quanta : BitVec 16} {s : State} : KeepsOut 65 s (execPauseFrameRx p quanta s) := by
  unfold execPauseFrameRx
  refine KeepsOut.next ?_
  split
  · exact State.pauseFrame_keeps.mono rfl
  · exact Keeps.refl

theorem execPfcFrameRx_keeps {p : Port} {mask : BitVec 8} {quanta : List (BitVec 16)} {s : State} : KeepsOut 65 s (execPfcFrameRx p mask quanta s) := by
  unfold execPfcFrameRx
  refine KeepsOut.next ?_
  split
  · exact State.pfcFrame_keeps.mono rfl
  · exact Keeps.refl

theorem State.frameLast_keeps {s : State} {fid : Nat} {f : Frame} : Keeps 2 s (State.frameLast s fid f) := by
  unfold State.frameLast
  extract_lets +onlyGivenNames y0 y1
  clear_value y0 y1
  split
  · extract_lets +onlyGivenNames y5
    have h6 : Keeps 2 s y5 := by
      subst y5
      exact State.setFrame_keeps.mono rfl
    clear_value y5
    exact Keeps.step State.updCtx_keeps rfl (by assumption)
  · extract_lets +onlyGivenNames y9
    clear_value y9
    exact State.setFrame_keeps.mono rfl

theorem State.flowSettle_keeps {s : State} {f : Frame} : Keeps 115465 s (State.flowSettle s f) := by
  unfold State.flowSettle
  split
  · exact State.passSettleN_keeps.mono rfl
  · exact Keeps.refl

theorem execFrameRxEnd_keeps {fid : Nat} {fecBad : Bool} {s : State} : KeepsOut 117711 s (execFrameRxEnd fid fecBad s) := by
  unfold execFrameRxEnd
  refine KeepsOut.next ?_
  split
  · exact Keeps.refl
  · split
    · exact Keeps.refl
    · extract_lets +onlyGivenNames y7 y8
      clear_value y7 y8
      split
      · refine Keeps.step State.bump_keeps rfl ?_
        refine Keeps.step State.bump_keeps rfl (Keeps.step State.frameDrop_keeps rfl ?_)
        exact Keeps.refl
      · split
        · exact Keeps.step State.bump_keeps rfl (State.frameDrop_keeps.mono rfl)
        · split
          · exact Keeps.step State.bump_keeps rfl (State.frameDrop_keeps.mono rfl)
          · split
            · exact Keeps.step State.bump_keeps rfl (State.frameDrop_keeps.mono rfl)
            · split
              · exact Keeps.step State.bump_keeps rfl (State.frameDrop_keeps.mono rfl)
              · extract_lets +onlyGivenNames y19
                have h20 : Keeps 117711 s y19 := by
                  subst y19
                  refine Keeps.step State.bump_keeps rfl (Keeps.step State.addTo_keeps rfl ?_)
                  exact Keeps.refl
                clear_value y19
                extract_lets +onlyGivenNames y21
                clear_value y21
                extract_lets +onlyGivenNames y22
                have h23 : Keeps 117711 s y22 := by
                  subst y22
                  refine Keeps.step State.bumpIf_keeps rfl (Keeps.step State.bumpIf_keeps rfl ?_)
                  assumption
                clear_value y22
                split
                · exact Keeps.step State.controlRx_keeps rfl (Keeps.step State.frameDrop_keeps rfl (by assumption))
                · split
                  · extract_lets +onlyGivenNames y28
                    have h29 : Keeps 117711 s y28 := by
                      subst y28
                      exact Keeps.step State.frameLast_keeps rfl (by assumption)
                    clear_value y28
                    split
                    · assumption
                    · extract_lets +onlyGivenNames y32
                      clear_value y32
                      exact Keeps.step State.setQuay_keeps rfl (by assumption)
                  · refine Keeps.step State.flowSettle_keeps rfl ?_
                    exact Keeps.step State.frameLast_keeps rfl (by assumption)

theorem execHeadDispatch_keeps {q : Quay} {fetchBad : Bool} {s : State} : KeepsOut 33283 s (execHeadDispatch q fetchBad s) := by
  unfold execHeadDispatch
  refine KeepsOut.next ?_
  split
  · exact Keeps.refl
  · split
    · split
      · exact Keeps.refl
      · extract_lets +onlyGivenNames y15
        have h16 : Keeps 33283 s y15.1 := by
          subst y15
          split
          · exact State.flightStart_keeps.mono rfl
          · dsimp only
            exact Keeps.refl
        clear_value y15
        extract_lets +onlyGivenNames y19
        have h20 : Keeps 33283 s y19 := by
          subst y19
          assumption
        clear_value y19
        extract_lets +onlyGivenNames y21 y22 y23 y24 y25 y26
        clear_value y21 y22 y23 y24 y25 y26
        extract_lets +onlyGivenNames y27
        have h28 : Keeps 33283 s y27 := by
          subst y27
          exact Keeps.step State.setQuay_keeps rfl (by assumption)
        clear_value y27
        extract_lets +onlyGivenNames y29
        have h30 : Keeps 33283 s y29 := by
          subst y29
          exact Keeps.step State.setFrame_keeps rfl (by assumption)
        clear_value y29
        extract_lets +onlyGivenNames y31
        have h32 : Keeps 33283 s y31 := by
          subst y31
          exact Keeps.step State.spoilWord_keeps rfl (by assumption)
        clear_value y31
        extract_lets +onlyGivenNames y33
        have h34 : Keeps 33283 s y33 := by
          subst y33
          exact Keeps.step State.pmc_keeps rfl (by assumption)
        clear_value y33
        refine Keeps.step State.setCtx_keeps rfl (Keeps.step State.zeroG_keeps rfl ?_)
        assumption
    · exact Keeps.refl

theorem execBreakwaterTick_keeps {s : State} : KeepsOut 4 s (execBreakwaterTick s) := by
  unfold execBreakwaterTick
  refine KeepsOut.next ?_
  split
  · exact Keeps.refl
  · refine Keeps.foldl ?_ ?_
    · intro z2 z3
      extract_lets +onlyGivenNames y4 y5
      clear_value y4 y5
      exact Keeps.plain (x := z2) Keeps.refl {} rfl
    · exact Keeps.refl

theorem execLearnFilter_keeps {g : Fin 4} {s : State} : KeepsOut 115461 s (execLearnFilter g s) := by
  unfold execLearnFilter
  refine KeepsOut.next ?_
  split
  · exact Keeps.refl
  · extract_lets +onlyGivenNames y6
    clear_value y6
    extract_lets +onlyGivenNames y7
    have h8 : Keeps 115461 s y7 := by
      subst y7
      exact Keeps.plain (x := s) Keeps.refl {} rfl
    clear_value y7
    extract_lets +onlyGivenNames y9 y10
    clear_value y9 y10
    split
    · exact Keeps.step State.bump_keeps rfl (by assumption)
    · extract_lets +onlyGivenNames y13 y14
      clear_value y13 y14
      refine Keeps.step State.noticeOut_keeps rfl (Keeps.plain (x := y7) ?_ {} rfl)
      assumption

theorem State.setEmAger_keeps {s : State} {p : Nat} {a : EmAger} : Keeps 4 s (State.setEmAger s p a) := by
  unfold State.setEmAger
  exact Keeps.plain (x := s) Keeps.refl {} rfl

theorem execEmAgeTick_keeps {p : Fin 16} {s : State} : KeepsOut 4 s (execEmAgeTick p s) := by
  unfold execEmAgeTick
  refine KeepsOut.next ?_
  split
  · extract_lets +onlyGivenNames y1
    clear_value y1
    exact State.setEmAger_keeps.mono rfl
  · exact Keeps.refl

theorem State.emAgeOne_keeps {s : State} {p : Nat} {ix : Nat} : Keeps 115461 s (State.emAgeOne s p ix) := by
  unfold State.emAgeOne
  split
  · exact Keeps.refl
  · extract_lets +onlyGivenNames y5
    clear_value y5
    extract_lets +onlyGivenNames y6
    subst y6
    split
    · exact Keeps.refl
    · split
      · dsimp -zeta only
        exact Keeps.plain (x := s) Keeps.refl {} rfl
      · split
        · extract_lets +onlyGivenNames y12
          have h13 : Keeps 115461 s y12 := by
            subst y12
            refine Keeps.step State.bump_keeps rfl (Keeps.step State.emRemove_keeps rfl ?_)
            exact Keeps.refl
          clear_value y12
          split
          · exact Keeps.step State.noticeOut_keeps rfl (by assumption)
          · assumption
        · dsimp -zeta only
          exact Keeps.plain (x := s) Keeps.refl {} rfl

theorem execEmAgerVisit_keeps {p : Fin 16} {s : State} : KeepsOut 115461 s (execEmAgerVisit p s) := by
  unfold execEmAgerVisit
  refine KeepsOut.next ?_
  split
  · exact Keeps.refl
  · extract_lets +onlyGivenNames y6
    clear_value y6
    refine Keeps.foldl ?_ ?_
    · intro z7 z8
      exact State.emAgeOne_keeps.mono rfl
    · exact State.setEmAger_keeps.mono rfl

theorem execFragAgeTick_keeps {s : State} : KeepsOut 4 s (execFragAgeTick s) := by
  unfold execFragAgeTick
  refine KeepsOut.next ?_
  split
  · refine Keeps.foldl ?_ ?_
    · intro z1 z2
      split
      · exact State.delFrag_keeps.mono rfl
      · exact Keeps.plain (x := z1) Keeps.refl {} rfl
    · exact Keeps.refl
  · exact Keeps.refl

theorem execLpmSpareReturn_keeps {s : State} : KeepsOut 4 s (execLpmSpareReturn s) := by
  unfold execLpmSpareReturn
  exact KeepsOut.next (Keeps.plain (x := s) Keeps.refl {} rfl)

theorem execTableRepair_keeps {s : State} : KeepsOut 117509 s (execTableRepair s) := by
  unfold execTableRepair
  refine KeepsOut.next ?_
  split
  · exact Keeps.refl
  · extract_lets +onlyGivenNames y8
    clear_value y8
    extract_lets +onlyGivenNames y9
    have h10 : Keeps 117509 s y9 := by
      subst y9
      exact Keeps.plain (x := s) Keeps.refl {} rfl
    clear_value y9
    split
    · extract_lets +onlyGivenNames y12
      clear_value y12
      extract_lets +onlyGivenNames y13
      have h14 : Keeps 117509 s y13 := by
        subst y13
        refine Keeps.plain (x := y9) ?_ {} rfl
        assumption
      clear_value y13
      refine Keeps.step State.cmdEvent_keeps rfl (Keeps.step State.bump_keeps rfl ?_)
      assumption
    · exact Keeps.step State.cmdEvent_keeps rfl (Keeps.step State.bump_keeps rfl (by assumption))

theorem execMeterSweep_keeps {s : State} : KeepsOut 5 s (execMeterSweep s) := by
  unfold execMeterSweep
  refine KeepsOut.next ?_
  extract_lets +onlyGivenNames y0
  clear_value y0
  refine Keeps.step State.bump_keeps rfl (Keeps.foldl ?_ ?_)
  · intro z1 z2
    exact State.meterRun_keeps.mono rfl
  · exact Keeps.refl

theorem execDepthSampleSweep_keeps {s : State} : KeepsOut 32 s (execDepthSampleSweep s) := by
  unfold execDepthSampleSweep
  refine KeepsOut.next ?_
  extract_lets +onlyGivenNames y0
  clear_value y0
  exact Keeps.plain (x := s) Keeps.refl {} rfl

/-! ### Machine/Release.lean -/

theorem State.fragMiss_keeps {s : State} {f : Frame} : Keeps 1 s (State.fragMiss s f).1 := by
  unfold State.fragMiss
  extract_lets +onlyGivenNames y0 y1
  clear_value y0 y1
  dsimp only
  exact State.bump_keeps.mono rfl

theorem State.relFrag_keeps {s : State} {f : Frame} {bad : Bool} : Keeps 5 s (State.relFrag s f bad).1 := by
  unfold State.relFrag
  split
  · extract_lets +onlyGivenNames y5 y6
    clear_value y5 y6
    split
    · split
      · exact Keeps.step State.fragMiss_keeps rfl (State.parityEvent_keeps.mono rfl)
      · extract_lets +onlyGivenNames y13
        clear_value y13
        extract_lets +onlyGivenNames y14
        have h15 : Keeps 5 s y14 := by
          subst y14
          exact Keeps.plain (x := s) Keeps.refl {} rfl
        clear_value y14
        dsimp only
        exact Keeps.step State.bump_keeps rfl (by assumption)
    · exact State.fragMiss_keeps.mono rfl
  · dsimp only
    exact Keeps.refl

theorem State.stickyWrite_keeps {s : State} {sl : Nat} {key : List Byte} {nh : Nat} : Keeps 8 s (State.stickyWrite s sl key nh) := by
  unfold State.stickyWrite
  extract_lets +onlyGivenNames y0
  clear_value y0
  split
  · exact State.setSlice_keeps.mono rfl
  · exact Keeps.refl

theorem State.groupPick_keeps {s : State} {g : Nat} {grp : Nat} {m : Man} : Keeps 4 s (State.groupPick s g grp m).1 := by
  unfold State.groupPick
  extract_lets +onlyGivenNames y0 y1
  clear_value y0 y1
  extract_lets +onlyGivenNames y2
  have h3 : Keeps 4 s y2 := by
    subst y2
    split
    · exact Keeps.plain (x := s) Keeps.refl {} rfl
    · exact Keeps.refl
  clear_value y2
  dsimp only
  assumption

theorem State.relResolve_keeps {s : State} {f : Frame} {bad : Bool} : Keeps 13 s (State.relResolve s f bad).1 := by
  unfold State.relResolve
  extract_lets +onlyGivenNames y0 y1
  clear_value y0 y1
  split
  · dsimp only
    exact Keeps.refl
  · extract_lets +onlyGivenNames y4 y5
    clear_value y4 y5
    extract_lets +onlyGivenNames y6
    have h7 : Keeps 13 s y6.1 := by
      subst y6
      split
      · exact State.groupPick_keeps.mono rfl
      · dsimp only
        exact Keeps.refl
    clear_value y6
    extract_lets +onlyGivenNames y10
    have h11 : Keeps 13 s y10 := by
      subst y10
      assumption
    clear_value y10
    extract_lets +onlyGivenNames y12
    clear_value y12
    split
    · dsimp only
      split
      · exact Keeps.step State.parityEvent_keeps rfl (by assumption)
      · exact Keeps.step State.parityEvent_keeps rfl (by assumption)
    · split
      · split
        · extract_lets +onlyGivenNames y19
          have h20 : Keeps 13 s y19.1 := by
            subst y19
            exact Keeps.step State.groupPick_keeps rfl (by assumption)
          clear_value y19
          extract_lets +onlyGivenNames y21
          clear_value y21
          extract_lets +onlyGivenNames y22
          have h23 : Keeps 13 s y22 := by
            subst y22
            exact Keeps.step State.stickyWrite_keeps rfl (by assumption)
          clear_value y22
          dsimp only
          assumption
        · dsimp only
          assumption
      · extract_lets +onlyGivenNames y26
        have h27 : Keeps 13 s y26 := by
          subst y26
          split
          · exact Keeps.step State.stickyWrite_keeps rfl (by assumption)
          · assumption
        clear_value y26
        dsimp only
        assumption

theorem State.listMembers_keeps {s : State} {f : Frame} {m : Man} : Keeps 1 s (State.listMembers s f m).1 := by
  unfold State.listMembers
  extract_lets +onlyGivenNames y0 y1 y2
  clear_value y0 y1 y2
  refine Keeps.foldl_fst ?_ ?_
  · intro z3 z4 z5
    extract_lets +onlyGivenNames y6 y7
    clear_value y6 y7
    split
    · dsimp only
      exact State.bump_keeps.mono rfl
    · extract_lets +onlyGivenNames y10
      clear_value y10
      dsimp only
      exact Keeps.refl
  · dsimp only
    exact Keeps.refl

theorem State.mirrorReq_keeps {s : State} {n : Nat} : Keeps 5 s (State.mirrorReq s n).1 := by
  unfold State.mirrorReq
  extract_lets +onlyGivenNames y0
  have h1 : Keeps 5 s y0 := by
    subst y0
    exact State.bump_keeps.mono rfl
  extract_lets +onlyGivenNames y2
  split
  · dsimp only
    assumption
  · split
    · extract_lets +onlyGivenNames y6
      clear_value y6
      dsimp only
      refine Keeps.step State.bumpIf_keeps rfl (Keeps.step State.useFree_keeps rfl ?_)
      assumption
    · extract_lets +onlyGivenNames y8
      clear_value y8
      split
      · dsimp only
        refine Keeps.step State.bump_keeps rfl (Keeps.plain (x := y0) ?_ {} rfl)
        assumption
      · dsimp only
        refine Keeps.plain (x := y0) ?_ {} rfl
        assumption

theorem State.relMirror_keeps {s : State} {f : Frame} : Keeps 33285 s (State.relMirror s f).1 := by
  unfold State.relMirror
  split
  · extract_lets +onlyGivenNames y1
    clear_value y1
    split
    · rename_i x3 x4
      have h5 : Keeps 33285 s x3 := by
        refine Keeps.of_fst ?_ x4
        exact State.mirrorReq_keeps.mono rfl
      split
      · split
        · rename_i x8 x9
          have h10 : Keeps 33285 s x8 := by
            refine Keeps.of_fst ?_ x9
            exact Keeps.step State.bwAsk_keeps rfl (by assumption)
          dsimp only
          assumption
        · rename_i x12 x13
          have h14 : Keeps 33285 s x12 := by
            refine Keeps.of_fst ?_ x13
            exact Keeps.step State.bwAsk_keeps rfl (by assumption)
          dsimp only
          assumption
      · dsimp only
        assumption
    · rename_i x17 x18
      have h19 : Keeps 33285 s x17 := by
        refine Keeps.of_fst ?_ x18
        exact State.mirrorReq_keeps.mono rfl
      dsimp only
      assumption
  · dsimp only
    exact Keeps.refl

theorem State.zoneCapture_keeps {s : State} {z : Nat} {bit : Nat} : Keeps 1 s (State.zoneCapture s z bit).1 := by
  unfold State.zoneCapture
  split
  · extract_lets +onlyGivenNames y1
    clear_value y1
    split
    · dsimp only
      exact Keeps.refl
    · dsimp only
      exact State.bump_keeps.mono rfl
  · dsimp only
    exact Keeps.refl

theorem State.holdStamp_keeps {s : State} {f : Frame} : Keeps 129 s (State.holdStamp s f) := by
  unfold State.holdStamp
  extract_lets +onlyGivenNames y0 y1 y2 y3
  clear_value y0 y1 y2 y3
  split
  · split
    · split
      · exact Keeps.plain (x := s) Keeps.refl {} rfl
      · exact State.bump_keeps.mono rfl
    · exact Keeps.refl
  · exact Keeps.refl

theorem State.relCount_keeps {s : State} {f : Frame} : Keeps 1 s (State.relCount s f) := by
  unfold State.relCount
  extract_lets +onlyGivenNames y0
  clear_value y0
  refine Keeps.step State.bumpIf_keeps rfl (Keeps.step State.bumpIf_keeps rfl ?_)
  exact State.bumpIf_keeps.mono rfl

theorem State.relCopies_keeps {s : State} {f : Frame} : Keeps 117719 s (State.relCopies s f) := by
  unfold State.relCopies
  extract_lets +onlyGivenNames y0
  clear_value y0
  refine Keeps.foldl ?_ ?_
  · intro z1 z2
    exact State.copyAsk_keeps.mono rfl
  · exact Keeps.refl

theorem State.relLeave_keeps {s : State} {fid : Nat} {f : Frame} : Keeps 117727 s (State.relLeave s fid f) := by
  unfold State.relLeave
  extract_lets +onlyGivenNames y0
  have h1 : Keeps 117727 s y0 := by
    subst y0
    refine Keeps.step State.relCopies_keeps rfl (Keeps.step State.setFrame_keeps rfl ?_)
    exact Keeps.refl
  clear_value y0
  split
  · extract_lets +onlyGivenNames y3
    clear_value y3
    split
    · rename_i x5 x6
      have h7 : Keeps 117727 s x5 := by
        refine Keeps.of_fst ?_ x6
        exact Keeps.step State.bwAsk_keeps rfl (by assumption)
      extract_lets +onlyGivenNames y8
      have h9 : Keeps 117727 s y8 := by
        subst y8
        refine Keeps.step State.deliver_keeps rfl ?_
        split
        · assumption
        · exact Keeps.step State.flightAdd_keeps rfl (by assumption)
      clear_value y8
      exact Keeps.step State.frameDrop_keeps rfl (by assumption)
    · rename_i x13 x14
      have h15 : Keeps 117727 s x13 := by
        refine Keeps.of_fst ?_ x14
        exact Keeps.step State.bwAsk_keeps rfl (by assumption)
      refine Keeps.step State.frameDrop_keeps rfl (Keeps.step State.setFrame_keeps rfl ?_)
      assumption
  · exact Keeps.step State.frameDrop_keeps rfl (by assumption)

theorem State.relAdmit_keeps {s : State} {fid : Nat} {f : Frame} : Keeps 117727 s (State.relAdmit s fid f) := by
  unfold State.relAdmit
  extract_lets +onlyGivenNames y0
  clear_value y0
  extract_lets +onlyGivenNames y1
  have h2 : Keeps 117727 s y1 := by
    subst y1
    exact State.relCopies_keeps.mono rfl
  clear_value y1
  extract_lets +onlyGivenNames y3
  have h4 : Keeps 117727 s y3 := by
    subst y3
    split
    · exact Keeps.step State.stickyFree_keeps rfl (by assumption)
    · assumption
  clear_value y3
  extract_lets +onlyGivenNames y11
  have h12 : Keeps 117727 s y11.1 := by
    subst y11
    split
    · dsimp only
      assumption
    · split
      · exact Keeps.step State.listMembers_keeps rfl (by assumption)
      · dsimp only
        assumption
  clear_value y11
  extract_lets +onlyGivenNames y17
  have h18 : Keeps 117727 s y17.1 := by
    subst y17
    exact Keeps.step State.relMirror_keeps rfl (by assumption)
  clear_value y17
  extract_lets +onlyGivenNames y19
  have h20 : Keeps 117727 s y19.1 := by
    subst y19
    exact Keeps.step State.zoneCapture_keeps rfl (by assumption)
  clear_value y19
  extract_lets +onlyGivenNames y21
  have h22 : Keeps 117727 s y21 := by
    subst y21
    exact Keeps.step State.holdStamp_keeps rfl (by assumption)
  clear_value y21
  extract_lets +onlyGivenNames y23
  have h24 : Keeps 117727 s y23 := by
    subst y23
    exact Keeps.step State.setFrame_keeps rfl (by assumption)
  clear_value y23
  extract_lets +onlyGivenNames y25
  clear_value y25
  exact Keeps.step State.setQuay_keeps rfl (by assumption)

theorem State.relHead_keeps {s : State} {fid : Nat} {f : Frame} {bad : Bool} : Keeps 117727 s (State.relHead s fid f bad) := by
  unfold State.relHead
  extract_lets +onlyGivenNames y0
  clear_value y0
  extract_lets +onlyGivenNames y1
  have h2 : Keeps 117727 s y1.1 := by
    subst y1
    exact State.relFrag_keeps.mono rfl
  clear_value y1
  extract_lets +onlyGivenNames y3
  clear_value y3
  extract_lets +onlyGivenNames y4
  have h5 : Keeps 117727 s y4.1 := by
    subst y4
    split
    · exact Keeps.step State.relResolve_keeps rfl (by assumption)
    · dsimp only
      assumption
  clear_value y4
  extract_lets +onlyGivenNames y8 y9
  clear_value y8 y9
  split
  · exact Keeps.step State.relLeave_keeps rfl (Keeps.step State.relCount_keeps rfl (by assumption))
  · exact Keeps.step State.relAdmit_keeps rfl (Keeps.step State.relCount_keeps rfl (by assumption))

theorem execRelease_keeps {fid : Nat} {bad : Bool} {s : State} : KeepsOut 117727 s (execRelease fid bad s) := by
  unfold execRelease
  refine KeepsOut.next ?_
  split
  · exact Keeps.refl
  · split
    · exact Keeps.refl
    · extract_lets +onlyGivenNames y7 y8
      clear_value y7 y8
      split
      · exact Keeps.step State.relLeave_keeps rfl (State.relCount_keeps.mono rfl)
      · split
        · exact Keeps.refl
        · exact State.relHead_keeps.mono rfl

/-! ### Machine/Admit.lean -/

theorem State.failPost_keeps {s : State} {port : Nat} {g : Nat} : Keeps 117569 s (State.failPost s port g) := by
  unfold State.failPost
  extract_lets +onlyGivenNames y0
  clear_value y0
  split
  · exact Keeps.refl
  · exact Keeps.step State.linkEvent_keeps rfl (State.setPortSt_keeps.mono rfl)

theorem State.queueAsk_keeps {s : State} {queue : Nat} {port : Nat} : Keeps 117569 s (State.queueAsk s queue port).1 := by
  unfold State.queueAsk
  split
  · dsimp only
    exact Keeps.refl
  · extract_lets +onlyGivenNames y2
    subst y2
    split
    · split
      · dsimp -zeta only
        split
        · dsimp only
          refine Keeps.step State.bump_keeps rfl (Keeps.step State.failPost_keeps rfl ?_)
          exact Keeps.refl
        · split
          · dsimp only
            refine Keeps.step State.bump_keeps rfl (Keeps.step State.failPost_keeps rfl ?_)
            exact Keeps.refl
          · split
            · dsimp only
              refine Keeps.step State.bump_keeps rfl (Keeps.step State.failPost_keeps rfl ?_)
              exact Keeps.refl
            · split
              · dsimp only
                refine Keeps.step State.bump_keeps rfl (Keeps.step State.failPost_keeps rfl ?_)
                exact Keeps.refl
              · dsimp only
                exact State.failPost_keeps.mono rfl
      · dsimp -zeta only
        split
        · dsimp only
          exact State.bump_keeps.mono rfl
        · split
          · dsimp only
            exact State.bump_keeps.mono rfl
          · split
            · dsimp only
              exact State.bump_keeps.mono rfl
            · split
              · dsimp only
                exact State.bump_keeps.mono rfl
              · dsimp only
                exact Keeps.refl
    · dsimp -zeta only
      split
      · dsimp only
        exact State.bump_keeps.mono rfl
      · split
        · dsimp only
          exact State.bump_keeps.mono rfl
        · split
          · dsimp only
            exact State.bump_keeps.mono rfl
          · split
            · dsimp only
              exact State.bump_keeps.mono rfl
            · dsimp only
              exact Keeps.refl

theorem State.granted_keeps {s : State} {fid : Nat} {f : Frame} {acct : Nat} {b : Nat} : Keeps 83 s (State.granted s fid f acct b) := by
  unfold State.granted
  extract_lets +onlyGivenNames y0 y1 y2 y3 y4
  clear_value y0 y1 y2 y3 y4
  extract_lets +onlyGivenNames y5
  have h6 : Keeps 83 s y5 := by
    subst y5
    refine Keeps.step State.setDesc_keeps rfl (Keeps.step State.setQuay_keeps rfl ?_)
    exact Keeps.refl
  clear_value y5
  extract_lets +onlyGivenNames y7
  have h8 : Keeps 83 s y7 := by
    subst y7
    split
    · assumption
    · exact Keeps.step State.pgCharge_keeps rfl (by assumption)
  clear_value y7
  exact Keeps.step State.setFrame_keeps rfl (by assumption)

theorem State.askPool_keeps {s : State} {fid : Nat} {f : Frame} {p : Nat} {acct : Nat} {pick : Nat} : Keeps 117727 s (State.askPool s fid f p acct pick) := by
  unfold State.askPool
  extract_lets +onlyGivenNames y0 y1
  clear_value y0 y1
  split
  · rename_i x3 _ _ x6
    have h7 : Keeps 117727 s x3 := by
      refine Keeps.of_fst ?_ x6
      exact State.allocFrom_keeps.mono rfl
    exact Keeps.step State.granted_keeps rfl (by assumption)
  · rename_i x9 x10
    have h11 : Keeps 117727 s x9 := by
      refine Keeps.of_fst ?_ x10
      exact State.allocFrom_keeps.mono rfl
    refine Keeps.step State.frameDrop_keeps rfl (Keeps.step State.pmc_keeps rfl ?_)
    exact Keeps.step State.bump_keeps rfl (by assumption)

theorem execAllocRequest_keeps {q : Quay} {pick : Nat} {s : State} : KeepsOut 117727 s (execAllocRequest q pick s) := by
  unfold execAllocRequest
  refine KeepsOut.next ?_
  split
  · exact Keeps.refl
  · split
    · exact Keeps.refl
    · extract_lets +onlyGivenNames y8 y9
      clear_value y8 y9
      split
      · exact State.frameDrop_keeps.mono rfl
      · extract_lets +onlyGivenNames y12
        have h13 : Keeps 117727 s y12.1 := by
          subst y12
          split
          · split
            · extract_lets +onlyGivenNames y21
              have h22 : Keeps 117727 s y21.1 := by
                subst y21
                exact State.queueAsk_keeps.mono rfl
              clear_value y21
              dsimp only
              assumption
            · dsimp only
              exact Keeps.refl
          · dsimp only
            exact Keeps.refl
        clear_value y12
        split
        · exact Keeps.step State.frameDrop_keeps rfl (by assumption)
        · split
          · split
            · exact Keeps.step State.frameDrop_keeps rfl (Keeps.step State.bump_keeps rfl (by assumption))
            · exact Keeps.step State.askPool_keeps rfl (by assumption)
          · extract_lets +onlyGivenNames y37
            clear_value y37
            split
            · exact Keeps.step State.askPool_keeps rfl (by assumption)
            · exact Keeps.step State.frameDrop_keeps rfl (Keeps.step State.bump_keeps rfl (by assumption))

theorem execCellWriteStart_keeps {q : Quay} {s : State} : KeepsOut 33299 s (execCellWriteStart q s) := by
  unfold execCellWriteStart
  refine KeepsOut.next ?_
  split
  · exact Keeps.refl
  · split
    · exact Keeps.refl
    · extract_lets +onlyGivenNames y11 y12
      clear_value y11 y12
      split
      · exact Keeps.refl
      · extract_lets +onlyGivenNames y18
        clear_value y18
        extract_lets +onlyGivenNames y19
        have h20 : Keeps 33299 s y19 := by
          subst y19
          exact State.setDesc_keeps.mono rfl
        clear_value y19
        extract_lets +onlyGivenNames y21
        have h22 : Keeps 33299 s y21 := by
          subst y21
          exact Keeps.step State.setQuay_keeps rfl (by assumption)
        clear_value y21
        refine Keeps.step State.pmc_keeps rfl (Keeps.step State.setFrame_keeps rfl ?_)
        assumption

theorem State.madeCopy_keeps {s : State} {q : Nat} {cp : Copy} : Keeps 2 s (State.madeCopy s q cp) := by
  unfold State.madeCopy
  extract_lets +onlyGivenNames y0
  have h1 : Keeps 2 s y0 := by
    subst y0
    split
    · exact Keeps.refl
    · exact State.flightAdd_keeps.mono rfl
  clear_value y0
  extract_lets +onlyGivenNames y4
  clear_value y4
  exact Keeps.step State.setQuay_keeps rfl (by assumption)

theorem State.frameRecord_keeps {s : State} {kind : Nat} {part : Nat} {m : Man} {inPort : Nat} {eport : Nat} {queue : Nat} {seqId : Nat} {t : Stamp} {bytes : List Byte} {bid : Option Nat} : Keeps 2048 s (State.frameRecord s kind part m inPort eport queue seqId t bytes bid) := by
  unfold State.frameRecord
  extract_lets +onlyGivenNames y0 y1 y2 y3 y4
  clear_value y0 y1 y2 y3 y4
  exact Keeps.plain (x := s) Keeps.refl {} rfl

theorem State.mirrorCopy_keeps {s : State} {q : Nat} {n : Nat} {f : Frame} : Keeps 117719 s (State.mirrorCopy s q n f) := by
  unfold State.mirrorCopy
  extract_lets +onlyGivenNames y0 y1
  clear_value y0 y1
  split
  · extract_lets +onlyGivenNames y3
    clear_value y3
    extract_lets +onlyGivenNames y4
    have h5 : Keeps 117719 s y4 := by
      subst y4
      split
      · exact Keeps.refl
      · exact State.flightAdd_keeps.mono rfl
    clear_value y4
    exact Keeps.step State.deliver_keeps rfl (by assumption)
  · extract_lets +onlyGivenNames y9 y10
    clear_value y9 y10
    exact State.madeCopy_keeps.mono rfl

theorem State.copiesDone_keeps {s : State} {fid : Nat} {f : Frame} : Keeps 117719 s (State.copiesDone s fid f) := by
  unfold State.copiesDone
  extract_lets +onlyGivenNames y0
  have h1 : Keeps 117719 s y0 := by
    subst y0
    split
    · exact State.mirrorCopy_keeps.mono rfl
    · exact Keeps.refl
  clear_value y0
  extract_lets +onlyGivenNames y7
  have h8 : Keeps 117719 s y7 := by
    subst y7
    split
    · exact Keeps.step State.frameRecord_keeps rfl (by assumption)
    · assumption
  clear_value y7
  refine Keeps.step State.flightDone_keeps rfl (Keeps.step State.delFrame_keeps rfl ?_)
  exact Keeps.step State.quayForget_keeps rfl (by assumption)

theorem execReplicationCopy_keeps {q : Quay} {s : State} : KeepsOut 117719 s (execReplicationCopy q s) := by
  unfold execReplicationCopy
  refine KeepsOut.next ?_
  split
  · exact Keeps.refl
  · split
    · exact State.copiesDone_keeps.mono rfl
    · extract_lets +onlyGivenNames y14
      clear_value y14
      extract_lets +onlyGivenNames y15
      have h16 : Keeps 117719 s y15 := by
        subst y15
        exact State.madeCopy_keeps.mono rfl
      clear_value y15
      extract_lets +onlyGivenNames y17
      have h18 : Keeps 117719 s y17 := by
        subst y17
        exact Keeps.step State.bumpIf_keeps rfl (by assumption)
      clear_value y17
      extract_lets +onlyGivenNames y19
      clear_value y19
      split
      · exact Keeps.step State.copiesDone_keeps rfl (by assumption)
      · exact Keeps.step State.setFrame_keeps rfl (by assumption)

theorem State.copyRefuse_keeps {s : State} {q : Nat} {cp : Copy} : Keeps 117719 s (State.copyRefuse s q cp) := by
  unfold State.copyRefuse
  refine Keeps.step State.flightDone_keeps rfl (Keeps.step State.letGo_keeps rfl ?_)
  exact Keeps.refl

theorem execEnqueue_keeps {q : Quay} {s : State} : KeepsOut 117751 s (execEnqueue q s) := by
  unfold execEnqueue
  refine KeepsOut.next ?_
  split
  · exact Keeps.refl
  · split
    · exact Keeps.refl
    · extract_lets +onlyGivenNames y8
      clear_value y8
      extract_lets +onlyGivenNames y9
      have h10 : Keeps 117751 s y9 := by
        subst y9
        exact State.setQuay_keeps.mono rfl
      clear_value y9
      split
      · exact Keeps.step State.copyRefuse_keeps rfl (by assumption)
      · split
        · rename_i x17 x18
          have h19 : Keeps 117751 s x17 := by
            refine Keeps.of_fst ?_ x18
            exact Keeps.step State.queueAsk_keeps rfl (by assumption)
          exact Keeps.step State.copyRefuse_keeps rfl (by assumption)
        · rename_i x21 _ _ x24
          have h25 : Keeps 117751 s x21 := by
            refine Keeps.of_fst ?_ x24
            exact Keeps.step State.queueAsk_keeps rfl (by assumption)
          extract_lets +onlyGivenNames y26
          clear_value y26
          split
          · exact Keeps.step State.copyRefuse_keeps rfl (Keeps.step State.bump_keeps rfl (by assumption))
          · extract_lets +onlyGivenNames y29 y30 y31
            clear_value y29 y30 y31
            extract_lets +onlyGivenNames y32
            have h33 : Keeps 117751 s y32 := by
              subst y32
              split
              · assumption
              · exact Keeps.step State.setDesc_keeps rfl (by assumption)
            clear_value y32
            extract_lets +onlyGivenNames y36
            have h37 : Keeps 117751 s y36 := by
              subst y36
              exact Keeps.step State.addQUsed_keeps rfl (by assumption)
            clear_value y36
            extract_lets +onlyGivenNames y38
            clear_value y38
            extract_lets +onlyGivenNames y39
            have h40 : Keeps 117751 s y39 := by
              subst y39
              split
              · exact Keeps.step State.cbsTouch_keeps rfl (by assumption)
              · assumption
            clear_value y39
            extract_lets +onlyGivenNames y47
            have h48 : Keeps 117751 s y47 := by
              subst y47
              exact Keeps.step State.setCopy_keeps rfl (by assumption)
            clear_value y47
            refine Keeps.step State.setQueue_keeps rfl (Keeps.plain (x := y47) ?_ {} rfl)
            assumption

/-! ### Machine/Alu.lean -/

theorem aluOp_keeps {mn : String} {f : Word → Word → Word} {x : CtxId} {rd : RegNo} {ra : RegNo} {rb : RegNo} {s : State} : KeepsOut 131071 s (aluOp mn f x rd ra rb s) := by
  unfold aluOp
  refine KeepsOut.step (issue_keeps (m := 131071) rfl ?_) rfl ?_
  · intro z0
    exact State.setG_keeps.mono rfl
  · exact Keeps.refl

theorem immOp_keeps {mn : String} {ok : Bool} {uses : List RegNo} {f : Word → Word → Word} {x : CtxId} {rd : RegNo} {ra : RegNo} {s : State} : KeepsOut 131071 s (immOp mn ok uses f x rd ra s) := by
  unfold immOp
  refine KeepsOut.step (issue_keeps (m := 131071) rfl ?_) rfl ?_
  · intro z0
    exact State.setG_keeps.mono rfl
  · exact Keeps.refl

theorem execAdd_keeps {x : CtxId} {rd : RegNo} {ra : RegNo} {rb : RegNo} {s : State} : KeepsOut 131071 s (execAdd x rd ra rb s) := by
  unfold execAdd
  exact KeepsOut.step aluOp_keeps rfl Keeps.refl

theorem execSub_keeps {x : CtxId} {rd : RegNo} {ra : RegNo} {rb : RegNo} {s : State} : KeepsOut 131071 s (execSub x rd ra rb s) := by
  unfold execSub
  exact KeepsOut.step aluOp_keeps rfl Keeps.refl

theorem execAndd_keeps {x : CtxId} {rd : RegNo} {ra : RegNo} {rb : RegNo} {s : State} : KeepsOut 131071 s (execAndd x rd ra rb s) := by
  unfold execAndd
  exact KeepsOut.step aluOp_keeps rfl Keeps.refl

theorem execOrr_keeps {x : CtxId} {rd : RegNo} {ra : RegNo} {rb : RegNo} {s : State} : KeepsOut 131071 s (execOrr x rd ra rb s) := by
  unfold execOrr
  exact KeepsOut.step aluOp_keeps rfl Keeps.refl

theorem execXor_keeps {x : CtxId} {rd : RegNo} {ra : RegNo} {rb : RegNo} {s : State} : KeepsOut 131071 s (execXor x rd ra rb s) := by
  unfold execXor
  exact KeepsOut.step aluOp_keeps rfl Keeps.refl

theorem execAndn_keeps {x : CtxId} {rd : RegNo} {ra : RegNo} {rb : RegNo} {s : State} : KeepsOut 131071 s (execAndn x rd ra rb s) := by
  unfold execAndn
  exact KeepsOut.step aluOp_keeps rfl Keeps.refl

theorem execShl_keeps {x : CtxId} {rd : RegNo} {ra : RegNo} {rb : RegNo} {s : State} : KeepsOut 131071 s (execShl x rd ra rb s) := by
  unfold execShl
  exact KeepsOut.step aluOp_keeps rfl Keeps.refl

theorem execShr_keeps {x : CtxId} {rd : RegNo} {ra : RegNo} {rb : RegNo} {s : State} : KeepsOut 131071 s (execShr x rd ra rb s) := by
  unfold execShr
  exact KeepsOut.step aluOp_keeps rfl Keeps.refl

theorem execSar_keeps {x : CtxId} {rd : RegNo} {ra : RegNo} {rb : RegNo} {s : State} : KeepsOut 131071 s (execSar x rd ra rb s) := by
  unfold execSar
  exact KeepsOut.step aluOp_keeps rfl Keeps.refl

theorem execRol_keeps {x : CtxId} {rd : RegNo} {ra : RegNo} {rb : RegNo} {s : State} : KeepsOut 131071 s (execRol x rd ra rb s) := by
  unfold execRol
  exact KeepsOut.step aluOp_keeps rfl Keeps.refl

theorem execMinu_keeps {x : CtxId} {rd : RegNo} {ra : RegNo} {rb : RegNo} {s : State} : KeepsOut 131071 s (execMinu x rd ra rb s) := by
  unfold execMinu
  exact KeepsOut.step aluOp_keeps rfl Keeps.refl

theorem execMaxu_keeps {x : CtxId} {rd : RegNo} {ra : RegNo} {rb : RegNo} {s : State} : KeepsOut 131071 s (execMaxu x rd ra rb s) := by
  unfold execMaxu
  exact KeepsOut.step aluOp_keeps rfl Keeps.refl

theorem execMin_keeps {x : CtxId} {rd : RegNo} {ra : RegNo} {rb : RegNo} {s : State} : KeepsOut 131071 s (execMin x rd ra rb s) := by
  unfold execMin
  exact KeepsOut.step aluOp_keeps rfl Keeps.refl

theorem execMax_keeps {x : CtxId} {rd : RegNo} {ra : RegNo} {rb : RegNo} {s : State} : KeepsOut 131071 s (execMax x rd ra rb s) := by
  unfold execMax
  exact KeepsOut.step aluOp_keeps rfl Keeps.refl

theorem execSltu_keeps {x : CtxId} {rd : RegNo} {ra : RegNo} {rb : RegNo} {s : State} : KeepsOut 131071 s (execSltu x rd ra rb s) := by
  unfold execSltu
  exact KeepsOut.step aluOp_keeps rfl Keeps.refl

theorem execSlt_keeps {x : CtxId} {rd : RegNo} {ra : RegNo} {rb : RegNo} {s : State} : KeepsOut 131071 s (execSlt x rd ra rb s) := by
  unfold execSlt
  exact KeepsOut.step aluOp_keeps rfl Keeps.refl

theorem execMul_keeps {x : CtxId} {rd : RegNo} {ra : RegNo} {rb : RegNo} {s : State} : KeepsOut 131071 s (execMul x rd ra rb s) := by
  unfold execMul
  exact KeepsOut.step aluOp_keeps rfl Keeps.refl

theorem execPopc_keeps {x : CtxId} {rd : RegNo} {ra : RegNo} {rb : RegNo} {s : State} : KeepsOut 131071 s (execPopc x rd ra rb s) := by
  unfold execPopc
  exact KeepsOut.step aluOp_keeps rfl Keeps.refl

theorem execClz_keeps {x : CtxId} {rd : RegNo} {ra : RegNo} {rb : RegNo} {s : State} : KeepsOut 131071 s (execClz x rd ra rb s) := by
  unfold execClz
  exact KeepsOut.step aluOp_keeps rfl Keeps.refl

theorem execBswap16_keeps {x : CtxId} {rd : RegNo} {ra : RegNo} {rb : RegNo} {s : State} : KeepsOut 131071 s (execBswap16 x rd ra rb s) := by
  unfold execBswap16
  exact KeepsOut.step aluOp_keeps rfl Keeps.refl

theorem execBswap32_keeps {x : CtxId} {rd : RegNo} {ra : RegNo} {rb : RegNo} {s : State} : KeepsOut 131071 s (execBswap32 x rd ra rb s) := by
  unfold execBswap32
  exact KeepsOut.step aluOp_keeps rfl Keeps.refl

theorem execBswap64_keeps {x : CtxId} {rd : RegNo} {ra : RegNo} {rb : RegNo} {s : State} : KeepsOut 131071 s (execBswap64 x rd ra rb s) := by
  unfold execBswap64
  exact KeepsOut.step aluOp_keeps rfl Keeps.refl

theorem execCsadd_keeps {x : CtxId} {rd : RegNo} {ra : RegNo} {rb : RegNo} {s : State} : KeepsOut 131071 s (execCsadd x rd ra rb s) := by
  unfold execCsadd
  exact KeepsOut.step aluOp_keeps rfl Keeps.refl

theorem execAddi_keeps {x : CtxId} {rd : RegNo} {ra : RegNo} {imm : BitVec 16} {s : State} : KeepsOut 131071 s (execAddi x rd ra imm s) := by
  unfold execAddi
  exact KeepsOut.step immOp_keeps rfl Keeps.refl

theorem execAndi_keeps {x : CtxId} {rd : RegNo} {ra : RegNo} {imm : BitVec 16} {s : State} : KeepsOut 131071 s (execAndi x rd ra imm s) := by
  unfold execAndi
  exact KeepsOut.step immOp_keeps rfl Keeps.refl

theorem execOri_keeps {x : CtxId} {rd : RegNo} {ra : RegNo} {imm : BitVec 16} {s : State} : KeepsOut 131071 s (execOri x rd ra imm s) := by
  unfold execOri
  exact KeepsOut.step immOp_keeps rfl Keeps.refl

theorem execXori_keeps {x : CtxId} {rd : RegNo} {ra : RegNo} {imm : BitVec 16} {s : State} : KeepsOut 131071 s (execXori x rd ra imm s) := by
  unfold execXori
  exact KeepsOut.step immOp_keeps rfl Keeps.refl

theorem execShi_keeps {x : CtxId} {rd : RegNo} {ra : RegNo} {imm : BitVec 16} {s : State} : KeepsOut 131071 s (execShi x rd ra imm s) := by
  unfold execShi
  exact KeepsOut.step immOp_keeps rfl Keeps.refl

theorem execMovi_keeps {x : CtxId} {rd : RegNo} {ra : RegNo} {imm : BitVec 16} {s : State} : KeepsOut 131071 s (execMovi x rd ra imm s) := by
  unfold execMovi
  exact KeepsOut.step immOp_keeps rfl Keeps.refl

/-! ### Machine/TmRun.lean -/

theorem State.setTmPort_keeps {s : State} {p : Nat} {v : TmPortSt} : Keeps 32 s (State.setTmPort s p v) := by
  unfold State.setTmPort
  exact Keeps.plain (x := s) Keeps.refl {} rfl

theorem State.setWindow_keeps {s : State} {e : Nat} {l : List Nat} : Keeps 32 s (State.setWindow s e l) := by
  unfold State.setWindow
  exact Keeps.plain (x := s) Keeps.refl {} rfl

theorem State.headCount_keeps {s : State} {p : Nat} {reason : Nat} : Keeps 1 s (State.headCount s p reason) := by
  unfold State.headCount
  refine Keeps.step State.bumpIf_keeps rfl (Keeps.step State.bumpIf_keeps rfl ?_)
  exact State.bumpIf_keeps.mono rfl

theorem State.headDrop_keeps {s : State} {e : Nat} {p : Nat} {q : Nat} {cid : Nat} {cp : Copy} {reason : Nat} : Keeps 117751 s (State.headDrop s e p q cid cp reason) := by
  unfold State.headDrop
  extract_lets +onlyGivenNames y0
  have h1 : Keeps 117751 s y0 := by
    subst y0
    refine Keeps.step State.headCount_keeps rfl (Keeps.step State.delCopy_keeps rfl ?_)
    exact State.setQueue_keeps.mono rfl
  clear_value y0
  refine Keeps.step State.copyDrop_keeps rfl (Keeps.step State.pmc_keeps rfl ?_)
  assumption

theorem State.latOne_keeps {s : State} {n : Nat} {q : Nat} {slot : Nat} {p : Nat} {x : Nat} : Keeps 32 s (State.latOne s n q slot p x) := by
  unfold State.latOne
  extract_lets +onlyGivenNames y0 y1
  clear_value y0 y1
  split
  · extract_lets +onlyGivenNames y3 y4
    clear_value y3 y4
    exact Keeps.plain (x := s) Keeps.refl {} rfl
  · exact Keeps.refl

theorem State.latAll_keeps {s : State} {q : Nat} {slot : Nat} {p : Nat} {x : Nat} : Keeps 32 s (State.latAll s q slot p x) := by
  unfold State.latAll
  refine Keeps.foldl ?_ ?_
  · intro z0 z1
    exact State.latOne_keeps.mono rfl
  · exact Keeps.refl

theorem State.lpiWake_keeps {s : State} {p : Nat} : Keeps 97 s (State.lpiWake s p) := by
  unfold State.lpiWake
  split
  · extract_lets +onlyGivenNames y1
    clear_value y1
    extract_lets +onlyGivenNames y2
    have h3 : Keeps 97 s y2 := by
      subst y2
      refine Keeps.step State.emit_keeps rfl (Keeps.step State.setBit_keeps rfl ?_)
      exact Keeps.refl
    clear_value y2
    extract_lets +onlyGivenNames y4
    clear_value y4
    extract_lets +onlyGivenNames y5
    have h6 : Keeps 97 s y5 := by
      subst y5
      exact Keeps.step State.setPortSt_keeps rfl (by assumption)
    clear_value y5
    exact Keeps.step State.setTmPort_keeps rfl (by assumption)
  · exact Keeps.refl

theorem State.cbsSpend_keeps {s : State} {i : Nat} {lw : Nat} {tw : Nat} : Keeps 32 s (State.cbsSpend s i lw tw) := by
  unfold State.cbsSpend
  split
  · extract_lets +onlyGivenNames y1 y2
    clear_value y1 y2
    exact State.setCbs_keeps.mono rfl
  · exact Keeps.refl

theorem State.selectHead_keeps {s : State} {e : Nat} {p : Nat} {i : Nat} {q : Nat} {cid : Nat} {cp : Copy} : Keeps 33377 s (State.selectHead s e p i q cid cp) := by
  unfold State.selectHead
  extract_lets +onlyGivenNames y0 y1 y2 y3
  clear_value y0 y1 y2 y3
  extract_lets +onlyGivenNames y4
  have h5 : Keeps 33377 s y4 := by
    subst y4
    exact State.lpiWake_keeps.mono rfl
  clear_value y4
  extract_lets +onlyGivenNames y6 y7
  clear_value y6 y7
  extract_lets +onlyGivenNames y8
  have h9 : Keeps 33377 s y8 := by
    subst y8
    exact Keeps.step State.setTmPort_keeps rfl (by assumption)
  clear_value y8
  extract_lets +onlyGivenNames y10
  have h11 : Keeps 33377 s y10 := by
    subst y10
    refine Keeps.foldl ?_ ?_
    · intro z12 z13
      exact State.shaperCharge_keeps.mono rfl
    · assumption
  clear_value y10
  extract_lets +onlyGivenNames y14
  have h15 : Keeps 33377 s y14 := by
    subst y14
    refine Keeps.step State.setQueue_keeps rfl (Keeps.step State.cbsTouch_keeps rfl ?_)
    assumption
  clear_value y14
  extract_lets +onlyGivenNames y16
  have h17 : Keeps 33377 s y16 := by
    subst y16
    exact Keeps.step State.cbsSpend_keeps rfl (by assumption)
  clear_value y16
  extract_lets +onlyGivenNames y18
  have h19 : Keeps 33377 s y18 := by
    subst y18
    exact Keeps.step State.latAll_keeps rfl (by assumption)
  clear_value y18
  extract_lets +onlyGivenNames y20
  have h21 : Keeps 33377 s y20 := by
    subst y20
    exact Keeps.step State.setCopy_keeps rfl (by assumption)
  clear_value y20
  extract_lets +onlyGivenNames y22
  have h23 : Keeps 33377 s y22 := by
    subst y22
    exact Keeps.step State.setWindow_keeps rfl (by assumption)
  clear_value y22
  extract_lets +onlyGivenNames y24
  have h25 : Keeps 33377 s y24 := by
    subst y24
    exact Keeps.step State.set_keeps rfl (by assumption)
  clear_value y24
  refine Keeps.step State.pmc_keeps rfl (Keeps.step State.bump_keeps rfl ?_)
  assumption

theorem State.selectPort_keeps {s : State} {e : Nat} {a : List Nat} : Keeps 117751 s (State.selectPort s e a) := by
  induction a generalizing s e
  · rw [State.selectPort]
    exact Keeps.refl
  · rename_i ih
    rw [State.selectPort]
    split
    · exact ih.mono rfl
    · split
      · rename_i x3 x4
        have h5 : Keeps 117751 s x3 := by
          refine Keeps.of_fst ?_ x4
          exact State.portPick_keeps.mono rfl
        exact ih.mono rfl
      · rename_i x7 _ _ x10
        have h11 : Keeps 117751 s x7 := by
          refine Keeps.of_fst ?_ x10
          exact State.portPick_keeps.mono rfl
        split
        · exact Keeps.refl
        · split
          · exact Keeps.refl
          · split
            · exact State.headDrop_keeps.mono rfl
            · split
              · exact State.headDrop_keeps.mono rfl
              · exact Keeps.step State.selectHead_keeps rfl (by assumption)

theorem execTmSelect_keeps {e : Quay} {s : State} : KeepsOut 117751 s (execTmSelect e s) := by
  unfold execTmSelect
  refine KeepsOut.next ?_
  split
  · exact Keeps.refl
  · extract_lets +onlyGivenNames y2 y3
    clear_value y2 y3
    exact State.selectPort_keeps.mono rfl

theorem State.gateHold_keeps {s : State} {p : Nat} : Keeps 32 s (State.gateHold s p) := by
  unfold State.gateHold
  extract_lets +onlyGivenNames y0
  clear_value y0
  split
  · exact State.setGate_keeps.mono rfl
  · exact State.setGate_keeps.mono rfl
  · exact Keeps.refl

theorem execGclEntryAdvance_keeps {p : Port} {s : State} : KeepsOut 32 s (execGclEntryAdvance p s) := by
  unfold execGclEntryAdvance
  refine KeepsOut.next ?_
  split
  · exact State.gateHold_keeps.mono rfl
  · exact Keeps.refl

theorem execGclChange_keeps {p : Port} {s : State} : KeepsOut 33 s (execGclChange p s) := by
  unfold execGclChange
  refine KeepsOut.next ?_
  extract_lets +onlyGivenNames y0
  clear_value y0
  split
  · split
    · extract_lets +onlyGivenNames y8
      have h9 : Keeps 33 s y8 := by
        subst y8
        refine Keeps.foldl ?_ ?_
        · intro z10 z11
          exact State.cbsTouch_keeps.mono rfl
        · exact Keeps.refl
      clear_value y8
      extract_lets +onlyGivenNames y12
      have h13 : Keeps 33 s y12 := by
        subst y12
        exact Keeps.step State.setGate_keeps rfl (by assumption)
      clear_value y12
      extract_lets +onlyGivenNames y14
      have h15 : Keeps 33 s y14 := by
        subst y14
        refine Keeps.step State.setBit_keeps rfl (Keeps.step State.setBit_keeps rfl ?_)
        assumption
      clear_value y14
      extract_lets +onlyGivenNames y16
      have h17 : Keeps 33 s y16 := by
        subst y16
        exact Keeps.step State.setBit_keeps rfl (by assumption)
      clear_value y16
      refine Keeps.step State.gateHold_keeps rfl (Keeps.step State.bump_keeps rfl ?_)
      assumption
    · exact Keeps.refl
  · exact Keeps.refl

/-! ### Machine/Egress.lean -/

theorem State.preDrop_keeps {s : State} {e : Nat} {cid : Nat} {cp : Copy} {reason : Nat} : Keeps 117751 s (State.preDrop s e cid cp reason) := by
  unfold State.preDrop
  refine Keeps.step State.copyDrop_keeps rfl (Keeps.step State.outDone_keeps rfl ?_)
  exact State.delCopy_keeps.mono rfl

theorem State.readRun_keeps {s : State} {x : CtxId} {e cid : Nat} {cp : Copy} {d : Desc} {bad fetchBad : Bool} {stop : Nat} : Keeps 117751 s (State.readRun s x e cid cp d bad fetchBad stop) := by
  unfold State.readRun
  extract_lets +onlyGivenNames y17 y18
  clear_value y17 y18
  split
  · exact Keeps.step State.preDrop_keeps rfl (State.bump_keeps.mono rfl)
  · split
    · exact Keeps.step State.preDrop_keeps rfl (State.bump_keeps.mono rfl)
    · extract_lets +onlyGivenNames y26
      clear_value y26
      extract_lets +onlyGivenNames y28 y29
      clear_value y28 y29
      extract_lets +onlyGivenNames y30
      have h31 : Keeps 117751 s y30 := by
        subst y30
        exact State.spoilWord_keeps.mono rfl
      clear_value y30
      extract_lets +onlyGivenNames y32
      clear_value y32
      refine Keeps.step State.setCtx_keeps rfl (Keeps.step State.zeroG_keeps rfl ?_)
      assumption

theorem State.readZone_keeps {s : State} {x : CtxId} {e cid : Nat} {cp : Copy} {d : Desc} {bad zoneBad fetchBad : Bool} {stop : Nat} : Keeps 117751 s (State.readZone s x e cid cp d bad zoneBad fetchBad stop) := by
  unfold State.readZone
  split
  · exact Keeps.step State.preDrop_keeps rfl (State.parityEvent_keeps.mono rfl)
  · split
    · exact Keeps.step State.preDrop_keeps rfl (State.bump_keeps.mono rfl)
    · exact State.readRun_keeps

theorem State.readStart_keeps {s : State} {x : CtxId} {e : Nat} {t : Nat} {cid : Nat} {cp : Copy} {d : Desc} {damaged : Bool} {zoneBad : Bool} {fetchBad : Bool} : Keeps 117751 s (State.readStart s x e t cid cp d damaged zoneBad fetchBad) := by
  unfold State.readStart
  extract_lets +onlyGivenNames y3
  have h4 : Keeps 117751 s y3 := by
    subst y3
    exact State.addTo_keeps.mono rfl
  clear_value y3
  extract_lets +onlyGivenNames y5
  clear_value y5
  extract_lets +onlyGivenNames y6
  have h7 : Keeps 117751 s y6 := by
    subst y6
    refine Keeps.plain (x := y3) ?_ {} rfl
    assumption
  clear_value y6
  extract_lets +onlyGivenNames y8
  have h9 : Keeps 117751 s y8 := by
    subst y8
    exact Keeps.step State.setWindow_keeps rfl (by assumption)
  clear_value y8
  extract_lets +onlyGivenNames y10
  have h11 : Keeps 117751 s y10 := by
    subst y10
    exact Keeps.step State.bumpIf_keeps rfl (by assumption)
  clear_value y10
  extract_lets +onlyGivenNames y12
  clear_value y12
  exact Keeps.step State.readZone_keeps rfl (by assumption)

theorem execEgressReadStart_keeps {e : Quay} {damaged : Bool} {zoneBad : Bool} {fetchBad : Bool} {s : State} : KeepsOut 117751 s (execEgressReadStart e damaged zoneBad fetchBad s) := by
  unfold execEgressReadStart
  refine KeepsOut.next ?_
  split
  · exact Keeps.refl
  · split
    · exact Keeps.refl
    · split
      · exact Keeps.refl
      · split
        · exact Keeps.refl
        · split
          · exact Keeps.refl
          · split
            · exact Keeps.refl
            · exact State.readStart_keeps.mono rfl

theorem State.sumL4_keeps {s : State} {c : Ctx} {rx : List Byte} {rst : List (Nat × Nat)} {st : List (Nat × Nat)} {out : List Byte} {i : Nat} {ty : Nat} {o : Nat} {n : Nat} {old : Option Nat} : Keeps 0 s (State.sumL4 s c rx rst st out i ty o n old).1 := by
  unfold State.sumL4
  extract_lets +onlyGivenNames y0 y1
  clear_value y0 y1
  split
  · split
    · dsimp only
      exact State.useFree_keeps.mono rfl
    · split
      · dsimp only
        exact Keeps.refl
      · extract_lets +onlyGivenNames y9
        clear_value y9
        dsimp only
        exact Keeps.refl
  · extract_lets +onlyGivenNames y12
    clear_value y12
    split
    · split
      · dsimp only
        exact Keeps.refl
      · extract_lets +onlyGivenNames y18 y19
        clear_value y18 y19
        dsimp only
        exact Keeps.refl
    · split
      · dsimp only
        exact Keeps.refl
      · extract_lets +onlyGivenNames y23 y24
        clear_value y23 y24
        dsimp only
        exact Keeps.refl

theorem State.sumOne_keeps {s : State} {c : Ctx} {e : Nat} {rx : List Byte} {rst : List (Nat × Nat)} {st : List (Nat × Nat)} {out : List Byte} {i : Nat} : Keeps 1 s (State.sumOne s c e rx rst st out i).1 := by
  unfold State.sumOne
  split
  · dsimp only
    exact Keeps.refl
  · split
    · dsimp only
      exact Keeps.refl
    · extract_lets +onlyGivenNames y8 y9
      clear_value y8 y9
      split
      · dsimp only
        exact State.bump_keeps.mono rfl
      · split
        · split
          · dsimp only
            exact Keeps.refl
          · dsimp only
            exact Keeps.refl
        · exact State.sumL4_keeps.mono rfl

theorem State.sumAll_keeps {s : State} {c : Ctx} {e : Nat} {cp : Copy} {rx : List Byte} {out : List Byte} : Keeps 1 s (State.sumAll s c e cp rx out).1 := by
  unfold State.sumAll
  split
  · dsimp only
    exact Keeps.refl
  · extract_lets +onlyGivenNames y2 y3
    clear_value y2 y3
    refine Keeps.foldl_fst ?_ ?_
    · intro z4 z5 z6
      refine Keeps.step State.sumOne_keeps rfl ?_
      dsimp only
      exact Keeps.refl
    · dsimp only
      exact Keeps.refl

theorem State.predictFor_keeps {s : State} {p : Nat} {b : Nat} {phic : BitVec 16} : Keeps 0 s (State.predictFor s p b phic).1 := by
  unfold State.predictFor
  split
  · dsimp only
    exact State.useFree_keeps.mono rfl
  · dsimp only
    exact Keeps.refl

theorem State.timeFields_keeps {s : State} {c : Ctx} {cp : Copy} {e : Nat} {t : Stamp} {out : List Byte} : Keeps 1 s (State.timeFields s c cp e t out).1 := by
  unfold State.timeFields
  extract_lets +onlyGivenNames y0 y1 y2 y3
  clear_value y0 y1 y2 y3
  split
  · dsimp only
    exact Keeps.refl
  · extract_lets +onlyGivenNames y6 y7
    clear_value y6 y7
    split
    · dsimp only
      exact State.bump_keeps.mono rfl
    · split
      · split
        · dsimp only
          exact State.bump_keeps.mono rfl
        · extract_lets +onlyGivenNames y17 y18
          clear_value y17 y18
          extract_lets +onlyGivenNames y19
          have h20 : Keeps 1 s y19 := by
            subst y19
            exact State.bumpIf_keeps.mono rfl
          clear_value y19
          extract_lets +onlyGivenNames y21 y22 y23 y24
          clear_value y21 y22 y23 y24
          dsimp only
          assumption
      · split
        · dsimp only
          exact State.bump_keeps.mono rfl
        · extract_lets +onlyGivenNames y28 y29
          clear_value y28 y29
          extract_lets +onlyGivenNames y30
          have h31 : Keeps 1 s y30 := by
            subst y30
            exact State.bumpIf_keeps.mono rfl
          clear_value y30
          extract_lets +onlyGivenNames y32 y33 y34 y35
          clear_value y32 y33 y34 y35
          dsimp only
          assumption

theorem State.egressMirror_keeps {s : State} {e : Nat} {c : Ctx} {cp : Copy} {out : List Byte} : Keeps 117719 s (State.egressMirror s e c cp out) := by
  unfold State.egressMirror
  split
  · exact Keeps.refl
  · split
    · exact Keeps.refl
    · split
      · rename_i x8 x9
        have h10 : Keeps 117719 s x8 := by
          refine Keeps.of_fst ?_ x9
          exact State.mirrorReq_keeps.mono rfl
        assumption
      · rename_i x12 x13
        have h14 : Keeps 117719 s x12 := by
          refine Keeps.of_fst ?_ x13
          exact State.mirrorReq_keeps.mono rfl
        extract_lets +onlyGivenNames y15 y16 y17 y18
        clear_value y15 y16 y17 y18
        split
        · split
          · rename_i x21 x22
            have h23 : Keeps 117719 s x21 := by
              refine Keeps.of_fst ?_ x22
              exact Keeps.step State.bwAsk_keeps rfl (by assumption)
            assumption
          · rename_i x25 x26
            have h27 : Keeps 117719 s x25 := by
              refine Keeps.of_fst ?_ x26
              exact Keeps.step State.bwAsk_keeps rfl (by assumption)
            refine Keeps.step State.deliver_keeps rfl ?_
            split
            · assumption
            · exact Keeps.step State.flightAdd_keeps rfl (by assumption)
        · extract_lets +onlyGivenNames y31 y32 y33 y34
          clear_value y31 y32 y33 y34
          extract_lets +onlyGivenNames y35
          have h36 : Keeps 117719 s y35 := by
            subst y35
            split
            · assumption
            · exact Keeps.step State.flightAdd_keeps rfl (by assumption)
          clear_value y35
          extract_lets +onlyGivenNames y39
          clear_value y39
          extract_lets +onlyGivenNames y40
          have h41 : Keeps 117719 s y40 := by
            subst y40
            refine Keeps.plain (x := y35) ?_ {} rfl
            assumption
          clear_value y40
          extract_lets +onlyGivenNames y42
          clear_value y42
          exact Keeps.step State.setQuay_keeps rfl (by assumption)

theorem State.reenter_keeps {s : State} {x : CtxId} {e : Nat} {c : Ctx} {cp : Copy} {out : List Byte} : Keeps 117619 s (State.reenter s x e c cp out) := by
  unfold State.reenter
  extract_lets +onlyGivenNames y0 y1
  clear_value y0 y1
  extract_lets +onlyGivenNames y2
  have h3 : Keeps 117619 s y2 := by
    subst y2
    refine Keeps.step State.outDone_keeps rfl (Keeps.step State.delCopy_keeps rfl ?_)
    exact State.ctxFree_keeps.mono rfl
  clear_value y2
  extract_lets +onlyGivenNames y4
  have h5 : Keeps 117619 s y4 := by
    subst y4
    refine Keeps.step State.bump_keeps rfl (Keeps.step State.letGo_keeps rfl ?_)
    assumption
  clear_value y4
  exact Keeps.step State.enterFrame_keeps rfl (by assumption)

theorem State.commitSend_keeps {s : State} {x : CtxId} {e : Nat} {c : Ctx} {cp : Copy} {d : Desc} {phic : BitVec 16} : Keeps 125943 s (State.commitSend s x e c cp d phic) := by
  unfold State.commitSend
  extract_lets +onlyGivenNames y0
  clear_value y0
  extract_lets +onlyGivenNames y1
  have h2 : Keeps 125943 s y1.1 := by
    subst y1
    exact State.predictFor_keeps.mono rfl
  clear_value y1
  extract_lets +onlyGivenNames y3
  have h4 : Keeps 125943 s y3.1 := by
    subst y3
    exact Keeps.step State.sumAll_keeps rfl (by assumption)
  clear_value y3
  extract_lets +onlyGivenNames y5
  have h6 : Keeps 125943 s y5.1 := by
    subst y5
    exact Keeps.step State.timeFields_keeps rfl (by assumption)
  clear_value y5
  extract_lets +onlyGivenNames y7
  have h8 : Keeps 125943 s y7 := by
    subst y7
    assumption
  clear_value y7
  extract_lets +onlyGivenNames y9 y10
  clear_value y9 y10
  extract_lets +onlyGivenNames y11
  have h12 : Keeps 125943 s y11 := by
    subst y11
    split
    · exact Keeps.step State.sealReport_keeps rfl (by assumption)
    · assumption
  clear_value y11
  extract_lets +onlyGivenNames y15
  have h16 : Keeps 125943 s y15 := by
    subst y15
    exact Keeps.step State.egressMirror_keeps rfl (by assumption)
  clear_value y15
  extract_lets +onlyGivenNames y17
  have h18 : Keeps 125943 s y17 := by
    subst y17
    split
    · rename_i x20 _ x22
      have h23 : Keeps 125943 s x20 := by
        refine Keeps.of_fst ?_ x22
        exact Keeps.step State.zoneCapture_keeps rfl (by assumption)
      exact Keeps.step State.frameRecord_keeps rfl (by assumption)
    · rename_i x25 x26
      have h27 : Keeps 125943 s x25 := by
        refine Keeps.of_fst ?_ x26
        exact Keeps.step State.zoneCapture_keeps rfl (by assumption)
      assumption
  clear_value y17
  extract_lets +onlyGivenNames y28
  have h29 : Keeps 125943 s y28 := by
    subst y28
    refine Keeps.step State.outDone_keeps rfl (Keeps.step State.ctxFree_keeps rfl ?_)
    assumption
  clear_value y28
  extract_lets +onlyGivenNames y30
  have h31 : Keeps 125943 s y30 := by
    subst y30
    split
    · extract_lets +onlyGivenNames y36
      clear_value y36
      extract_lets +onlyGivenNames y37
      have h38 : Keeps 125943 s y37 := by
        subst y37
        exact Keeps.step State.cbsTouch_keeps rfl (by assumption)
      clear_value y37
      exact Keeps.step State.setCbs_keeps rfl (by assumption)
    · assumption
  clear_value y30
  extract_lets +onlyGivenNames y41
  clear_value y41
  refine Keeps.plain (x := y30) ?_ {} rfl
  assumption

theorem execEgressCommit_keeps {x : CtxId} {phic : BitVec 16} {s : State} : KeepsOut 125943 s (execEgressCommit x phic s) := by
  unfold execEgressCommit
  refine KeepsOut.next ?_
  split
  · extract_lets +onlyGivenNames y4
    have h5 : Keeps 125943 s y4 := by
      subst y4
      split
      · split
        · exact State.rewEnd_keeps.mono rfl
        · exact Keeps.refl
      · exact Keeps.refl
    clear_value y4
    split
    · assumption
    · split
      · assumption
      · split
        · exact Keeps.step State.ctxFree_keeps rfl (by assumption)
        · split
          · exact Keeps.step State.rewDrop_keeps rfl (by assumption)
          · extract_lets +onlyGivenNames y30
            clear_value y30
            split
            · exact Keeps.step State.rewDrop_keeps rfl (Keeps.step State.bump_keeps rfl (by assumption))
            · split
              · exact Keeps.step State.rewDrop_keeps rfl (by assumption)
              · split
                · exact Keeps.step State.rewDrop_keeps rfl (Keeps.step State.bump_keeps rfl (by assumption))
                · split
                  · exact Keeps.step State.rewDrop_keeps rfl (Keeps.step State.bump_keeps rfl (by assumption))
                  · split
                    · assumption
                    · split
                      · extract_lets +onlyGivenNames y42
                        have h43 : Keeps 125943 s y42.1 := by
                          subst y42
                          exact Keeps.step State.sumAll_keeps rfl (by assumption)
                        clear_value y42
                        refine Keeps.step State.reenter_keeps rfl (Keeps.step State.egressMirror_keeps rfl ?_)
                        assumption
                      · exact Keeps.step State.commitSend_keeps rfl (by assumption)
  · exact Keeps.refl

theorem State.txStamped_keeps {s : State} {p : Nat} {w : OnWire} {bit : BitVec 16} {phi : BitVec 16} {pre : Bool} : Keeps 117633 s (State.txStamped s p w bit phi pre) := by
  unfold State.txStamped
  extract_lets +onlyGivenNames y0
  clear_value y0
  extract_lets +onlyGivenNames y1
  subst y1
  split
  · exact State.txtsLose_keeps.mono rfl
  · split
    · refine Keeps.step State.useFree_keeps rfl ?_
      dsimp -zeta only
      exact State.txtsPut_keeps.mono rfl
    · extract_lets +onlyGivenNames y6
      clear_value y6
      extract_lets +onlyGivenNames y7
      have h8 : Keeps 117633 s y7 := by
        subst y7
        dsimp -zeta only
        exact State.txtsPut_keeps.mono rfl
      clear_value y7
      extract_lets +onlyGivenNames y9
      clear_value y9
      split
      · exact Keeps.step State.timeEvent_keeps rfl (Keeps.step State.bump_keeps rfl (by assumption))
      · assumption

theorem State.txDone_keeps {s : State} {p : Nat} {w : OnWire} {bit : BitVec 16} {phi : BitVec 16} {expr : Bool} {cuts : Nat} : Keeps 117751 s (State.txDone s p w bit phi expr cuts) := by
  unfold State.txDone
  extract_lets +onlyGivenNames y0 y1
  clear_value y0 y1
  extract_lets +onlyGivenNames y2
  have h3 : Keeps 117751 s y2 := by
    subst y2
    exact State.emit_keeps.mono rfl
  clear_value y2
  extract_lets +onlyGivenNames yc
  have hc : Keeps 117751 s yc := by
    subst yc
    split
    · exact Keeps.step State.addTo_keeps rfl (by assumption)
    · assumption
  clear_value yc
  extract_lets +onlyGivenNames y4
  have h5 : Keeps 117751 s y4 := by
    subst y4
    split
    · exact Keeps.step State.bump_keeps rfl (by assumption)
    · refine Keeps.step State.bump_keeps rfl (Keeps.step State.bump_keeps rfl (Keeps.step State.addTo_keeps rfl ?_))
      assumption
  clear_value y4
  extract_lets +onlyGivenNames y8
  have h9 : Keeps 117751 s y8 := by
    subst y8
    split
    · assumption
    · split
      · exact Keeps.step State.txtsFlushed_keeps rfl (by assumption)
      · exact Keeps.step State.txStamped_keeps rfl (by assumption)
  clear_value y8
  extract_lets +onlyGivenNames y14
  have h15 : Keeps 117751 s y14 := by
    subst y14
    split
    · extract_lets +onlyGivenNames y20
      clear_value y20
      extract_lets +onlyGivenNames y21
      have h22 : Keeps 117751 s y21 := by
        subst y21
        exact Keeps.step State.cbsTouch_keeps rfl (by assumption)
      clear_value y21
      exact Keeps.step State.setCbs_keeps rfl (by assumption)
    · assumption
  clear_value y14
  extract_lets +onlyGivenNames y25
  clear_value y25
  extract_lets +onlyGivenNames y26
  have h27 : Keeps 117751 s y26 := by
    subst y26
    exact Keeps.step State.setPortSt_keeps rfl (by assumption)
  clear_value y26
  refine Keeps.step State.copyEnd_keeps rfl (Keeps.step State.delCopy_keeps rfl ?_)
  assumption

theorem execTxComplete_keeps {p : TmPort} {bit : BitVec 16} {phi : BitVec 16} {expr : Bool} {cuts : Nat} {s : State} : KeepsOut 117751 s (execTxComplete p bit phi expr cuts s) := by
  unfold execTxComplete
  refine KeepsOut.next ?_
  split
  · exact Keeps.refl
  · exact Keeps.step State.txDone_keeps rfl (Keeps.plain (x := s) Keeps.refl {} rfl)

end Sys2Proof.Machine
end

