-- ==== Sys2Proof/Laws/KeepsPorts.lean ====
section
/-!
SUPPORT. Laws/KeepsPorts.lean: one lemma `f_keeps` for each operation `f` of the model that answers a state (clocks, ports, time bases, the drive log, host channels, doorbells and SAFE HARBOUR):
what it may do to the state, in the terms of Laws/Keeps.lean; the mask names the parts it may change.
-/
namespace Sys2Proof.Machine
set_option Elab.async false

/-! ### Machine/Dpll.lean -/

theorem State.dpllSelect_keeps {s : State} {d : Nat} : Keeps 1 s (State.dpllSelect s d) := by
  unfold State.dpllSelect
  split
  · split
    · split
      · exact State.set_keeps.mono rfl
      · exact Keeps.refl
    · exact State.set_keeps.mono rfl
    · exact Keeps.refl
  · exact Keeps.refl

theorem State.dpllMark_keeps {s : State} {d : Nat} {i : Nat} {on : Bool} : Keeps 1 s (State.dpllMark s d i on) := by
  unfold State.dpllMark
  extract_lets +onlyGivenNames y0
  clear_value y0
  refine Keeps.step State.dpllSelect_keeps rfl (Keeps.step State.set_keeps rfl ?_)
  exact Keeps.refl

theorem State.rclkSquelch_keeps {s : State} {p : Nat} : Keeps 1 s (State.rclkSquelch s p) := by
  unfold State.rclkSquelch
  refine Keeps.foldl ?_ ?_
  · intro z0 z1
    split
    · refine Keeps.foldl ?_ ?_
      · intro z3 z4
        split
        · exact State.dpllMark_keeps.mono rfl
        · exact Keeps.refl
      · exact Keeps.refl
    · exact Keeps.refl
  · exact Keeps.refl

/-! ### Machine/Ports.lean -/

theorem execLinkConditionsMet_keeps {p : Port} {s : State} : KeepsOut 65 s (execLinkConditionsMet p s) := by
  unfold execLinkConditionsMet
  refine KeepsOut.next ?_
  split
  · exact Keeps.refl
  · extract_lets +onlyGivenNames y2
    clear_value y2
    extract_lets +onlyGivenNames y3
    have h4 : Keeps 65 s y3 := by
      subst y3
      refine Keeps.step State.setBit_keeps rfl (Keeps.step State.setBit_keeps rfl ?_)
      exact Keeps.refl
    clear_value y3
    split
    · exact Keeps.step State.setPortSt_keeps rfl (by assumption)
    · exact Keeps.step State.set_keeps rfl (Keeps.step State.setPortSt_keeps rfl (by assumption))

theorem execLinkConditionFailed_keeps {p : Port} {cause : BitVec 8} {s : State} : KeepsOut 65 s (execLinkConditionFailed p cause s) := by
  unfold execLinkConditionFailed
  refine KeepsOut.next ?_
  extract_lets +onlyGivenNames y0
  clear_value y0
  extract_lets +onlyGivenNames y1
  have h2 : Keeps 65 s y1 := by
    subst y1
    split
    · exact State.setBit_keeps.mono rfl
    · split
      · exact State.setBit_keeps.mono rfl
      · exact Keeps.refl
  clear_value y1
  extract_lets +onlyGivenNames y7
  clear_value y7
  split
  · split
    · assumption
    · exact Keeps.step State.setPortSt_keeps rfl (by assumption)
  · exact Keeps.step State.set_keeps rfl (Keeps.step State.setPortSt_keeps rfl (by assumption))

theorem execCalDone_keeps {p : Port} {skew : BitVec 48} {dRx : BitVec 16} {dTx : BitVec 16} {kTx : BitVec 32} {s : State} : KeepsOut 1 s (execCalDone p skew dRx dTx kTx s) := by
  unfold execCalDone
  refine KeepsOut.next ?_
  split
  · extract_lets +onlyGivenNames y1
    have h2 : Keeps 1 s y1 := by
      subst y1
      exact State.set_keeps.mono rfl
    clear_value y1
    extract_lets +onlyGivenNames y3
    have h4 : Keeps 1 s y3 := by
      subst y3
      refine Keeps.step State.set_keeps rfl (Keeps.step State.set_keeps rfl ?_)
      assumption
    clear_value y3
    refine Keeps.step State.set_keeps rfl (Keeps.step State.set_keeps rfl ?_)
    assumption
  · exact Keeps.refl

theorem State.linkUpNow_keeps {s : State} {p : Nat} : Keeps 117601 s (State.linkUpNow s p) := by
  unfold State.linkUpNow
  extract_lets +onlyGivenNames y0
  clear_value y0
  extract_lets +onlyGivenNames y1
  have h2 : Keeps 117601 s y1 := by
    subst y1
    refine Keeps.step State.setBit_keeps rfl (Keeps.step State.setBit_keeps rfl ?_)
    exact Keeps.refl
  clear_value y1
  extract_lets +onlyGivenNames y3
  clear_value y3
  extract_lets +onlyGivenNames y4
  have h5 : Keeps 117601 s y4 := by
    subst y4
    refine Keeps.step State.setBit_keeps rfl (Keeps.step State.setTmPort_keeps rfl ?_)
    assumption
  clear_value y4
  extract_lets +onlyGivenNames y6
  clear_value y6
  extract_lets +onlyGivenNames y7
  have h8 : Keeps 117601 s y7 := by
    subst y7
    exact Keeps.step State.setPortSt_keeps rfl (by assumption)
  clear_value y7
  extract_lets +onlyGivenNames y9
  have h10 : Keeps 117601 s y9 := by
    subst y9
    split
    · exact Keeps.step State.setBit_keeps rfl (by assumption)
    · assumption
  clear_value y9
  exact Keeps.step State.linkEvent_keeps rfl (by assumption)

theorem execLinkUp_keeps {p : Port} {s : State} : KeepsOut 117601 s (execLinkUp p s) := by
  unfold execLinkUp
  refine KeepsOut.next ?_
  split
  · split
    · exact State.linkUpNow_keeps.mono rfl
    · exact Keeps.refl
  · exact Keeps.refl

theorem State.txAbort_keeps {s : State} {p : Nat} : Keeps 117751 s (State.txAbort s p) := by
  unfold State.txAbort
  extract_lets +onlyGivenNames y0 y1
  clear_value y0 y1
  extract_lets +onlyGivenNames y2
  have h3 : Keeps 117751 s y2 := by
    subst y2
    exact Keeps.plain (x := s) Keeps.refl {} rfl
  clear_value y2
  refine Keeps.foldl ?_ ?_
  · intro z4 z5
    refine Keeps.step State.copyDrop_keeps rfl (Keeps.step State.delCopy_keeps rfl ?_)
    exact State.bump_keeps.mono rfl
  · assumption

theorem State.rxAbort_keeps {s : State} {p : Nat} : Keeps 117647 s (State.rxAbort s p) := by
  unfold State.rxAbort
  refine Keeps.foldl ?_ ?_
  · intro z0 z1
    split
    · exact Keeps.step State.bump_keeps rfl (State.frameDrop_keeps.mono rfl)
    · exact Keeps.refl
  · exact Keeps.refl

theorem State.linkDownNow_keeps {s : State} {p : Nat} {cause : Nat} : Keeps 117759 s (State.linkDownNow s p cause) := by
  unfold State.linkDownNow
  extract_lets +onlyGivenNames y0
  clear_value y0
  extract_lets +onlyGivenNames y1
  have h2 : Keeps 117759 s y1 := by
    subst y1
    refine Keeps.step State.setBit_keeps rfl (Keeps.step State.setBit_keeps rfl ?_)
    exact Keeps.refl
  clear_value y1
  extract_lets +onlyGivenNames y3
  have h4 : Keeps 117759 s y3 := by
    subst y3
    refine Keeps.step State.set_keeps rfl (Keeps.step State.bump_keeps rfl ?_)
    assumption
  clear_value y3
  extract_lets +onlyGivenNames y5
  have h6 : Keeps 117759 s y5 := by
    subst y5
    refine Keeps.step State.set_keeps rfl (Keeps.step State.setBit_keeps rfl ?_)
    assumption
  clear_value y5
  extract_lets +onlyGivenNames y7
  have h8 : Keeps 117759 s y7 := by
    subst y7
    refine Keeps.step State.set_keeps rfl (Keeps.step State.setBit_keeps rfl ?_)
    exact Keeps.step State.setBit_keeps rfl (by assumption)
  clear_value y7
  extract_lets +onlyGivenNames y9
  clear_value y9
  extract_lets +onlyGivenNames y10
  have h11 : Keeps 117759 s y10 := by
    subst y10
    exact Keeps.step State.setPortSt_keeps rfl (by assumption)
  clear_value y10
  extract_lets +onlyGivenNames y12
  have h13 : Keeps 117759 s y12 := by
    subst y12
    refine Keeps.step State.rclkSquelch_keeps rfl (Keeps.step State.txAbort_keeps rfl ?_)
    exact Keeps.step State.rxAbort_keeps rfl (by assumption)
  clear_value y12
  extract_lets +onlyGivenNames y14
  have h15 : Keeps 117759 s y14 := by
    subst y14
    refine Keeps.foldl ?_ ?_
    · intro z16 z17
      exact State.setCbs_keeps.mono rfl
    · assumption
  clear_value y14
  extract_lets +onlyGivenNames y18
  clear_value y18
  extract_lets +onlyGivenNames y19
  have h20 : Keeps 117759 s y19 := by
    subst y19
    exact Keeps.step State.setTmPort_keeps rfl (by assumption)
  clear_value y19
  refine Keeps.step State.linkEvent_keeps rfl (Keeps.step State.setBit_keeps rfl ?_)
  assumption

theorem execLinkDown_keeps {p : Port} {s : State} : KeepsOut 117759 s (execLinkDown p s) := by
  unfold execLinkDown
  refine KeepsOut.next ?_
  split
  · split
    · exact State.linkDownNow_keeps.mono rfl
    · exact Keeps.refl
  · exact Keeps.refl

theorem State.flushQueues_keeps {m : Nat} (hm : 117751 ||| m = m) {s : State} {e reason : Nat} {sel : Nat → Bool} {cnt : State → State}
    (h : ∀ z, Keeps m z (cnt z)) : Keeps m s (s.flushQueues e reason sel cnt) := by
  unfold State.flushQueues
  refine Keeps.foldl (fun t q => ?_) Keeps.refl
  refine Keeps.foldl (fun t cid => ?_) (State.setQueue_keeps.mono (Same.sub rfl hm))
  split
  · exact ((State.delCopy_keeps.mono (Same.sub rfl hm)).trans (h _)).trans (State.copyDrop_keeps.mono (Same.sub rfl hm))
  · exact Keeps.refl

theorem execLinkHoldExpiry_keeps {p : Port} {s : State} : KeepsOut 117751 s (execLinkHoldExpiry p s) := by
  unfold execLinkHoldExpiry
  refine KeepsOut.next ?_
  split
  · split
    · extract_lets +onlyGivenNames y4
      subst y4
      extract_lets +onlyGivenNames y5
      have h6 : Keeps 117751 s y5 := by
        subst y5
        refine Keeps.step (State.flushQueues_keeps (m := 117751) rfl ?_) rfl ?_
        · intro z7
          exact State.bump_keeps.mono rfl
        · exact Keeps.refl
      clear_value y5
      refine Keeps.step State.setBit_keeps rfl (Keeps.step State.setTmPort_keeps rfl ?_)
      assumption
    · exact Keeps.refl
  · exact Keeps.refl

theorem execFecDegradedTick_keeps {p : Port} {corrected : Nat} {s : State} : KeepsOut 117569 s (execFecDegradedTick p corrected s) := by
  unfold execFecDegradedTick
  refine KeepsOut.next ?_
  split
  · exact Keeps.refl
  · extract_lets +onlyGivenNames y2
    clear_value y2
    extract_lets +onlyGivenNames y3
    have h4 : Keeps 117569 s y3 := by
      subst y3
      exact State.addTo_keeps.mono rfl
    clear_value y3
    extract_lets +onlyGivenNames y5
    clear_value y5
    split
    · exact Keeps.step State.linkEvent_keeps rfl (Keeps.step State.setPortSt_keeps rfl (by assumption))
    · assumption

theorem execPauseExpiry_keeps {p : Port} {prio : Option (Fin 8)} {s : State} : KeepsOut 65 s (execPauseExpiry p prio s) := by
  unfold execPauseExpiry
  refine KeepsOut.next ?_
  extract_lets +onlyGivenNames y0
  clear_value y0
  split
  · split
    · split
      · exact Keeps.step State.setBit_keeps rfl (State.setPortSt_keeps.mono rfl)
      · exact Keeps.refl
    · exact Keeps.refl
  · split
    · extract_lets +onlyGivenNames y14
      clear_value y14
      split
      · exact Keeps.step State.set_keeps rfl (State.setPortSt_keeps.mono rfl)
      · exact Keeps.refl
    · exact Keeps.refl

theorem execPfcRefresh_keeps {p : Port} {s : State} : KeepsOut 65 s (execPfcRefresh p s) := by
  unfold execPfcRefresh
  refine KeepsOut.next ?_
  extract_lets +onlyGivenNames y0
  clear_value y0
  split
  · split
    · extract_lets +onlyGivenNames y5 y6
      clear_value y5 y6
      extract_lets +onlyGivenNames y7
      have h8 : Keeps 65 s y7 := by
        subst y7
        exact State.setPortSt_keeps.mono rfl
      clear_value y7
      split
      · exact Keeps.step State.sendFlow_keeps rfl (by assumption)
      · exact Keeps.step State.sendFlow_keeps rfl (by assumption)
    · exact Keeps.refl
  · exact Keeps.refl

theorem State.stormStart_keeps {s : State} {p : Nat} {n : Nat} : Keeps 117751 s (State.stormStart s p n) := by
  unfold State.stormStart
  extract_lets +onlyGivenNames y0 y1
  clear_value y0 y1
  extract_lets +onlyGivenNames y2
  have h3 : Keeps 117751 s y2 := by
    subst y2
    exact State.setPortSt_keeps.mono rfl
  clear_value y2
  extract_lets +onlyGivenNames y4
  have h5 : Keeps 117751 s y4 := by
    subst y4
    exact Keeps.step State.set_keeps rfl (by assumption)
  clear_value y4
  extract_lets +onlyGivenNames y6
  have h7 : Keeps 117751 s y6 := by
    subst y6
    refine Keeps.step State.linkEvent_keeps rfl (Keeps.step State.bump_keeps rfl ?_)
    assumption
  clear_value y6
  split
  · assumption
  · refine Keeps.step (State.flushQueues_keeps (m := 117751) rfl ?_) rfl ?_
    · intro z10
      exact State.bump_keeps.mono rfl
    · assumption

theorem execPfcWdTick_keeps {p : Port} {prio : Fin 8} {s : State} : KeepsOut 117751 s (execPfcWdTick p prio s) := by
  unfold execPfcWdTick
  refine KeepsOut.next ?_
  extract_lets +onlyGivenNames y0 y1 y2
  clear_value y0 y1 y2
  split
  · exact Keeps.refl
  · split
    · split
      · extract_lets +onlyGivenNames y7
        have h8 : Keeps 117751 s y7 := by
          subst y7
          exact State.setPortSt_keeps.mono rfl
        clear_value y7
        extract_lets +onlyGivenNames y9
        clear_value y9
        refine Keeps.step State.linkEvent_keeps rfl (Keeps.step State.set_keeps rfl ?_)
        assumption
      · exact Keeps.refl
    · split
      · extract_lets +onlyGivenNames y13
        clear_value y13
        extract_lets +onlyGivenNames y14
        have h15 : Keeps 117751 s y14 := by
          subst y14
          exact State.setPortSt_keeps.mono rfl
        clear_value y14
        split
        · exact Keeps.step State.stormStart_keeps rfl (by assumption)
        · assumption
      · exact State.setPortSt_keeps.mono rfl

theorem execLpiEnter_keeps {p : Port} {s : State} : KeepsOut 1 s (execLpiEnter p s) := by
  unfold execLpiEnter
  refine KeepsOut.next ?_
  extract_lets +onlyGivenNames y0
  clear_value y0
  split
  · refine Keeps.step State.emit_keeps rfl (Keeps.step State.bump_keeps rfl (Keeps.step State.setBit_keeps rfl ?_))
    exact Keeps.refl
  · exact Keeps.refl

theorem execRxLpi_keeps {p : Port} {s : State} : KeepsOut 117569 s (execRxLpi p s) := by
  unfold execRxLpi
  refine KeepsOut.next ?_
  split
  · exact Keeps.refl
  · extract_lets +onlyGivenNames y2
    clear_value y2
    extract_lets +onlyGivenNames y3
    have h4 : Keeps 117569 s y3 := by
      subst y3
      exact State.bump_keeps.mono rfl
    clear_value y3
    split
    · extract_lets +onlyGivenNames y6 y7
      clear_value y6 y7
      extract_lets +onlyGivenNames y8
      have h9 : Keeps 117569 s y8 := by
        subst y8
        exact Keeps.step State.setPortSt_keeps rfl (by assumption)
      clear_value y8
      split
      · exact Keeps.step State.linkEvent_keeps rfl (by assumption)
      · assumption
    · assumption

theorem execPreemptVerifySend_keeps {p : Port} {s : State} : KeepsOut 117569 s (execPreemptVerifySend p s) := by
  unfold execPreemptVerifySend
  refine KeepsOut.next ?_
  extract_lets +onlyGivenNames y0 y1
  clear_value y0 y1
  split
  · extract_lets +onlyGivenNames y4
    have h5 : Keeps 117569 s y4 := by
      subst y4
      exact State.setPortSt_keeps.mono rfl
    clear_value y4
    split
    · exact Keeps.step State.emit_keeps rfl (by assumption)
    · exact Keeps.step State.linkEvent_keeps rfl (by assumption)
  · exact Keeps.refl

theorem execPreemptVerifyResponse_keeps {p : Port} {s : State} : KeepsOut 117505 s (execPreemptVerifyResponse p s) := by
  unfold execPreemptVerifyResponse
  refine KeepsOut.next ?_
  extract_lets +onlyGivenNames y0 y1
  clear_value y0 y1
  split
  · exact Keeps.step State.linkEvent_keeps rfl (State.setBit_keeps.mono rfl)
  · exact Keeps.refl

/-! ### Machine/Servo.lean -/

theorem State.setRate_keeps {s : State} {b : Nat} {rate : Rat} : Keeps 129 s (State.setRate s b rate) := by
  unfold State.setRate
  extract_lets +onlyGivenNames y0
  clear_value y0
  refine Keeps.step State.set_keeps rfl (Keeps.step State.setBase_keeps rfl ?_)
  exact Keeps.refl

theorem State.setDm_keeps {s : State} {b : Nat} {dm : Rat} : Keeps 129 s (State.setDm s b dm) := by
  unfold State.setDm
  refine Keeps.step State.set_keeps rfl (Keeps.step State.setBase_keeps rfl ?_)
  exact Keeps.refl

theorem State.gclStepped_keeps {s : State} {b : Nat} : Keeps 1 s (State.gclStepped s b) := by
  unfold State.gclStepped
  refine Keeps.foldl ?_ ?_
  · intro z0 z1
    split
    · exact State.bump_keeps.mono rfl
    · exact Keeps.refl
  · exact Keeps.refl

theorem State.stepBase_keeps {s : State} {b : Nat} {theta : Int} {bump : Bool} : Keeps 129 s (State.stepBase s b theta bump) := by
  unfold State.stepBase
  extract_lets +onlyGivenNames y0 y1
  clear_value y0 y1
  extract_lets +onlyGivenNames y2
  have h3 : Keeps 129 s y2 := by
    subst y2
    exact State.setBase_keeps.mono rfl
  clear_value y2
  split
  · exact Keeps.step State.set_keeps rfl (by assumption)
  · assumption

theorem State.servoTo_keeps {s : State} {b : Nat} {st : Nat} {theta : Int} : Keeps 117633 s (State.servoTo s b st theta) := by
  unfold State.servoTo
  extract_lets +onlyGivenNames y0
  clear_value y0
  split
  · exact Keeps.refl
  · extract_lets +onlyGivenNames y3
    clear_value y3
    extract_lets +onlyGivenNames y4
    have h5 : Keeps 117633 s y4 := by
      subst y4
      exact State.setBase_keeps.mono rfl
    clear_value y4
    refine Keeps.step State.timeEvent_keeps rfl (Keeps.step State.set_keeps rfl ?_)
    assumption

theorem State.lock_keeps {s : State} {b : Nat} {theta : Int} : Keeps 117633 s (State.lock s b theta) := by
  unfold State.lock
  extract_lets +onlyGivenNames y0
  clear_value y0
  extract_lets +onlyGivenNames y1
  have h2 : Keeps 117633 s y1 := by
    subst y1
    exact State.setBase_keeps.mono rfl
  clear_value y1
  refine Keeps.step State.servoTo_keeps rfl (Keeps.step State.setBit_keeps rfl ?_)
  exact Keeps.step State.set_keeps rfl (by assumption)

theorem State.holdover_keeps {s : State} {b : Nat} {cause : Nat} {pend : Bool} : Keeps 117633 s (State.holdover s b cause pend) := by
  unfold State.holdover
  extract_lets +onlyGivenNames y0
  have h1 : Keeps 117633 s y0 := by
    subst y0
    exact State.setRate_keeps.mono rfl
  clear_value y0
  extract_lets +onlyGivenNames y2 y3
  clear_value y2 y3
  extract_lets +onlyGivenNames y4
  have h5 : Keeps 117633 s y4 := by
    subst y4
    exact Keeps.step State.setBase_keeps rfl (by assumption)
  clear_value y4
  extract_lets +onlyGivenNames y6
  have h7 : Keeps 117633 s y6 := by
    subst y6
    refine Keeps.step State.setBit_keeps rfl (Keeps.step State.setBit_keeps rfl ?_)
    exact Keeps.step State.set_keeps rfl (by assumption)
  clear_value y6
  exact Keeps.step State.servoTo_keeps rfl (by assumption)

theorem State.startBase_keeps {s : State} {b : Nat} : Keeps 129 s (State.startBase s b) := by
  unfold State.startBase
  extract_lets +onlyGivenNames y0
  clear_value y0
  extract_lets +onlyGivenNames y1
  have h2 : Keeps 129 s y1 := by
    subst y1
    exact State.setBase_keeps.mono rfl
  clear_value y1
  refine Keeps.step State.setRate_keeps rfl (Keeps.step State.setReg_keeps rfl ?_)
  assumption

theorem State.stopBase_keeps {s : State} {b : Nat} : Keeps 129 s (State.stopBase s b) := by
  unfold State.stopBase
  extract_lets +onlyGivenNames y0
  clear_value y0
  refine Keeps.step State.setReg_keeps rfl (Keeps.step State.setReg_keeps rfl ?_)
  exact State.setBase_keeps.mono rfl

theorem State.jumpPolicy_keeps {s : State} {b : Nat} {policy : Nat} {theta : Int} : Keeps 117633 s (State.jumpPolicy s b policy theta) := by
  unfold State.jumpPolicy
  split
  · exact Keeps.step State.setBit_keeps rfl (State.lock_keeps.mono rfl)
  · refine Keeps.step State.lock_keeps rfl ?_
    refine Keeps.step State.gclStepped_keeps rfl (Keeps.step State.bump_keeps rfl ?_)
    exact State.stepBase_keeps.mono rfl
  · exact State.holdover_keeps.mono rfl
  · exact Keeps.refl

theorem State.setXg_keeps {s : State} {g : Nat} {x : Xg} : Keeps 128 s (State.setXg s g x) := by
  unfold State.setXg
  exact Keeps.plain (x := s) Keeps.refl {} rfl

theorem State.windowEnd_keeps {s : State} {g : Nat} : Keeps 117633 s (State.windowEnd s g) := by
  unfold State.windowEnd
  extract_lets +onlyGivenNames y0
  clear_value y0
  extract_lets +onlyGivenNames y1
  have h2 : Keeps 117633 s y1 := by
    subst y1
    exact State.setXg_keeps.mono rfl
  clear_value y1
  refine Keeps.foldl ?_ ?_
  · intro z3 z4
    split
    · refine Keeps.step State.timeEvent_keeps rfl ?_
      refine Keeps.step State.bump_keeps rfl (Keeps.step State.holdover_keeps rfl ?_)
      exact Keeps.refl
    · exact Keeps.refl
  · assumption

theorem State.commonJump_keeps {s : State} {g : Nat} : Keeps 117633 s (State.commonJump s g) := by
  unfold State.commonJump
  extract_lets +onlyGivenNames y0
  clear_value y0
  extract_lets +onlyGivenNames y1
  have h2 : Keeps 117633 s y1 := by
    subst y1
    exact State.setXg_keeps.mono rfl
  clear_value y1
  refine Keeps.foldl ?_ ?_
  · intro z3 z4
    split
    · exact State.jumpPolicy_keeps.mono rfl
    · exact Keeps.refl
  · assumption

theorem State.joinJump_keeps {s : State} {g : Nat} {b : Nat} {theta : Int} : Keeps 117633 s (State.joinJump s g b theta) := by
  unfold State.joinJump
  extract_lets +onlyGivenNames y0
  clear_value y0
  extract_lets +onlyGivenNames y1
  have h2 : Keeps 117633 s y1 := by
    subst y1
    split
    · split
      · exact State.windowEnd_keeps.mono rfl
      · exact Keeps.refl
    · exact Keeps.refl
  clear_value y1
  extract_lets +onlyGivenNames y10 y11
  clear_value y10 y11
  split
  · extract_lets +onlyGivenNames y15
    clear_value y15
    exact Keeps.step State.setXg_keeps rfl (by assumption)
  · exact Keeps.step State.setXg_keeps rfl (by assumption)

theorem State.meetJump_keeps {s : State} {b : Nat} {theta : Int} : Keeps 117633 s (State.meetJump s b theta) := by
  unfold State.meetJump
  extract_lets +onlyGivenNames y0
  have h1 : Keeps 117633 s y0 := by
    subst y0
    exact State.bump_keeps.mono rfl
  clear_value y0
  extract_lets +onlyGivenNames y2
  clear_value y2
  extract_lets +onlyGivenNames y3
  subst y3
  split
  · dsimp -zeta only
    refine Keeps.step State.jumpPolicy_keeps rfl (Keeps.step State.timeEvent_keeps rfl ?_)
    assumption
  · extract_lets +onlyGivenNames y9
    clear_value y9
    split
    · dsimp -zeta only
      refine Keeps.step State.jumpPolicy_keeps rfl (Keeps.step State.timeEvent_keeps rfl ?_)
      assumption
    · extract_lets +onlyGivenNames y12
      have h13 : Keeps 117633 s y12 := by
        subst y12
        exact Keeps.step State.joinJump_keeps rfl (by assumption)
      clear_value y12
      split
      · refine Keeps.step State.commonJump_keeps rfl ?_
        refine Keeps.step State.setBit_keeps rfl (Keeps.step State.timeEvent_keeps rfl ?_)
        assumption
      · split
        · dsimp -zeta only
          refine Keeps.step State.jumpPolicy_keeps rfl (Keeps.step State.timeEvent_keeps rfl ?_)
          assumption
        · exact Keeps.step State.holdover_keeps rfl (Keeps.step State.timeEvent_keeps rfl (by assumption))

theorem State.acceptPath_keeps {s : State} {b : Nat} : Keeps 117633 s (State.acceptPath s b) := by
  unfold State.acceptPath
  refine Keeps.step State.lock_keeps rfl (Keeps.step State.setDm_keeps rfl ?_)
  exact Keeps.refl

theorem State.suspectMeas_keeps {s : State} {b : Nat} {theta : Int} {d : Rat} : Keeps 117633 s (State.suspectMeas s b theta d) := by
  unfold State.suspectMeas
  extract_lets +onlyGivenNames y0 y1 y2 y3
  clear_value y0 y1 y2 y3
  extract_lets +onlyGivenNames y4
  have h5 : Keeps 117633 s y4 := by
    subst y4
    exact State.setBase_keeps.mono rfl
  clear_value y4
  split
  · exact Keeps.step State.lock_keeps rfl (by assumption)
  · split
    · extract_lets +onlyGivenNames y9
      clear_value y9
      extract_lets +onlyGivenNames y10
      have h11 : Keeps 117633 s y10 := by
        subst y10
        exact Keeps.step State.set_keeps rfl (by assumption)
      clear_value y10
      refine Keeps.step State.lock_keeps rfl (Keeps.step State.timeEvent_keeps rfl ?_)
      exact Keeps.step State.setDm_keeps rfl (by assumption)
    · split
      · exact Keeps.step State.setBase_keeps rfl (by assumption)
      · assumption

theorem State.pi_keeps {s : State} {b : Nat} {theta : Int} {d : Rat} {tau : Rat} : Keeps 117633 s (State.pi s b theta d tau) := by
  unfold State.pi
  extract_lets +onlyGivenNames y0 y1 y2 y3
  clear_value y0 y1 y2 y3
  extract_lets +onlyGivenNames y4
  have h5 : Keeps 117633 s y4 := by
    subst y4
    split
    · exact State.useFree_keeps.mono rfl
    · exact Keeps.refl
  clear_value y4
  extract_lets +onlyGivenNames y8
  clear_value y8
  extract_lets +onlyGivenNames y9
  have h10 : Keeps 117633 s y9 := by
    subst y9
    exact Keeps.step State.setRate_keeps rfl (by assumption)
  clear_value y9
  extract_lets +onlyGivenNames y11 y12 y13
  clear_value y11 y12 y13
  extract_lets +onlyGivenNames y14
  have h15 : Keeps 117633 s y14 := by
    subst y14
    split
    · split
      · exact Keeps.step State.setBit_keeps rfl (by assumption)
      · assumption
    · exact Keeps.step State.setRate_keeps rfl (State.setBase_keeps.mono rfl)
  clear_value y14
  extract_lets +onlyGivenNames y20
  have h21 : Keeps 117633 s y20 := by
    subst y20
    exact Keeps.step State.setDm_keeps rfl (by assumption)
  clear_value y20
  split
  · extract_lets +onlyGivenNames y23 y24
    clear_value y23 y24
    extract_lets +onlyGivenNames y25
    have h26 : Keeps 117633 s y25 := by
      subst y25
      exact Keeps.step State.setBase_keeps rfl (by assumption)
    clear_value y25
    split
    · exact Keeps.step State.lock_keeps rfl (by assumption)
    · assumption
  · assumption

theorem State.holdMeas_keeps {s : State} {b : Nat} {theta : Int} {d : Rat} : Keeps 117633 s (State.holdMeas s b theta d) := by
  unfold State.holdMeas
  extract_lets +onlyGivenNames y0 y1
  clear_value y0 y1
  split
  · extract_lets +onlyGivenNames y5
    have h6 : Keeps 117633 s y5 := by
      subst y5
      exact State.setDm_keeps.mono rfl
    clear_value y5
    split
    · exact Keeps.step State.jumpPolicy_keeps rfl (by assumption)
    · split
      · exact Keeps.step State.lock_keeps rfl (by assumption)
      · exact Keeps.step State.jumpPolicy_keeps rfl (by assumption)
  · split
    · exact Keeps.refl
    · split
      · extract_lets +onlyGivenNames y16
        have h17 : Keeps 117633 s y16 := by
          subst y16
          exact State.setDm_keeps.mono rfl
        clear_value y16
        extract_lets +onlyGivenNames y18 y19
        clear_value y18 y19
        extract_lets +onlyGivenNames y20
        have h21 : Keeps 117633 s y20 := by
          subst y20
          exact Keeps.step State.setBase_keeps rfl (by assumption)
        clear_value y20
        split
        · exact Keeps.step State.lock_keeps rfl (by assumption)
        · assumption
      · extract_lets +onlyGivenNames y25
        have h26 : Keeps 117633 s y25 := by
          subst y25
          exact State.setDm_keeps.mono rfl
        clear_value y25
        split
        · exact Keeps.step State.lock_keeps rfl (by assumption)
        · exact Keeps.step State.meetJump_keeps rfl (by assumption)

theorem State.measure_keeps {s : State} {b : Nat} {ep : Nat} {t : Int} {theta0 : Int} {d0 : Int} {tau : Option Rat} : Keeps 117633 s (State.measure s b ep t theta0 d0 tau) := by
  unfold State.measure
  split
  · exact Keeps.refl
  · split
    · exact State.bump_keeps.mono rfl
    · extract_lets +onlyGivenNames y4 y5 y6 y7
      clear_value y4 y5 y6 y7
      extract_lets +onlyGivenNames y8
      have h9 : Keeps 117633 s y8 := by
        subst y8
        exact State.bump_keeps.mono rfl
      clear_value y8
      extract_lets +onlyGivenNames y10
      have h11 : Keeps 117633 s y10 := by
        subst y10
        exact Keeps.step State.setBase_keeps rfl (by assumption)
      clear_value y10
      extract_lets +onlyGivenNames y12
      have h13 : Keeps 117633 s y12 := by
        subst y12
        exact Keeps.step State.set_keeps rfl (by assumption)
      clear_value y12
      split
      · extract_lets +onlyGivenNames y16
        clear_value y16
        extract_lets +onlyGivenNames y17
        have h18 : Keeps 117633 s y17 := by
          subst y17
          exact Keeps.step State.setBase_keeps rfl (by assumption)
        clear_value y17
        refine Keeps.step State.servoTo_keeps rfl (Keeps.step State.setDm_keeps rfl ?_)
        exact Keeps.step State.stepBase_keeps rfl (by assumption)
      · exact Keeps.step State.holdMeas_keeps rfl (by assumption)
      · exact Keeps.step State.suspectMeas_keeps rfl (by assumption)
      · extract_lets +onlyGivenNames y25
        clear_value y25
        split
        · extract_lets +onlyGivenNames y27
          have h28 : Keeps 117633 s y27 := by
            subst y27
            exact Keeps.step State.setBase_keeps rfl (by assumption)
          clear_value y27
          split
          · extract_lets +onlyGivenNames y30
            clear_value y30
            split
            · rename_i x33 x34
              have h35 : Keeps 117633 s x33 := by
                refine Keeps.of_snd ?_ x34
                split
                · dsimp only
                  exact Keeps.step State.useFree_keeps rfl (by assumption)
                · dsimp only
                  assumption
              extract_lets +onlyGivenNames y38
              clear_value y38
              refine Keeps.step State.setRate_keeps rfl (Keeps.step State.setBase_keeps rfl ?_)
              assumption
          · assumption
        · split
          · extract_lets +onlyGivenNames y42
            have h43 : Keeps 117633 s y42 := by
              subst y42
              exact Keeps.step State.stepBase_keeps rfl (by assumption)
            clear_value y42
            exact Keeps.step State.setBase_keeps rfl (by assumption)
          · exact Keeps.step State.pi_keeps rfl (by assumption)
      · extract_lets +onlyGivenNames y50
        clear_value y50
        split
        · extract_lets +onlyGivenNames y52
          have h53 : Keeps 117633 s y52 := by
            subst y52
            refine Keeps.step State.timeEvent_keeps rfl (Keeps.step State.bump_keeps rfl ?_)
            assumption
          clear_value y52
          extract_lets +onlyGivenNames y54
          have h55 : Keeps 117633 s y54 := by
            subst y54
            exact Keeps.step State.setRate_keeps rfl (by assumption)
          clear_value y54
          extract_lets +onlyGivenNames y56
          clear_value y56
          extract_lets +onlyGivenNames y57
          have h58 : Keeps 117633 s y57 := by
            subst y57
            exact Keeps.step State.setBase_keeps rfl (by assumption)
          clear_value y57
          exact Keeps.step State.servoTo_keeps rfl (by assumption)
        · split
          · exact Keeps.step State.meetJump_keeps rfl (by assumption)
          · exact Keeps.step State.pi_keeps rfl (by assumption)

/-! ### Machine/Time.lean -/

theorem execMeasTimeout_keeps {b : TBase} {s : State} : KeepsOut 117633 s (execMeasTimeout b s) := by
  unfold execMeasTimeout
  refine KeepsOut.next ?_
  extract_lets +onlyGivenNames y0
  clear_value y0
  split
  · exact State.holdover_keeps.mono rfl
  · exact Keeps.refl

theorem execJumpWindowEnd_keeps {g : Fin 4} {s : State} : KeepsOut 117633 s (execJumpWindowEnd g s) := by
  unfold execJumpWindowEnd
  refine KeepsOut.next ?_
  split
  · split
    · exact State.windowEnd_keeps.mono rfl
    · exact Keeps.refl
  · exact Keeps.refl

theorem execAcceptAfterExpiry_keeps {b : TBase} {s : State} : KeepsOut 117633 s (execAcceptAfterExpiry b s) := by
  unfold execAcceptAfterExpiry
  refine KeepsOut.next ?_
  extract_lets +onlyGivenNames y0
  clear_value y0
  split
  · exact State.acceptPath_keeps.mono rfl
  · exact Keeps.refl

theorem execQualityTrained_keeps {b : TBase} {s : State} : KeepsOut 1 s (execQualityTrained b s) := by
  unfold execQualityTrained
  refine KeepsOut.next ?_
  split
  · split
    · exact State.setBit_keeps.mono rfl
    · exact Keeps.refl
  · exact Keeps.refl

theorem execDegradeAfterExpiry_keeps {b : TBase} {s : State} : KeepsOut 128 s (execDegradeAfterExpiry b s) := by
  unfold execDegradeAfterExpiry
  refine KeepsOut.next ?_
  extract_lets +onlyGivenNames y0
  clear_value y0
  split
  · exact State.setBase_keeps.mono rfl
  · exact Keeps.refl

theorem execReplicaLoopUpdate_keeps {p : Port} {mRx : BitVec 16} {mTx : BitVec 16} {s : State} : KeepsOut 117569 s (execReplicaLoopUpdate p mRx mTx s) := by
  unfold execReplicaLoopUpdate
  refine KeepsOut.next ?_
  extract_lets +onlyGivenNames y0
  clear_value y0
  split
  · extract_lets +onlyGivenNames y2 y3 y4 y5 y6
    clear_value y2 y3 y4 y5 y6
    extract_lets +onlyGivenNames y7
    have h8 : Keeps 117569 s y7 := by
      subst y7
      refine Keeps.step State.set_keeps rfl (Keeps.step State.set_keeps rfl ?_)
      exact Keeps.refl
    clear_value y7
    extract_lets +onlyGivenNames y9 y10
    clear_value y9 y10
    extract_lets +onlyGivenNames y11
    have h12 : Keeps 117569 s y11 := by
      subst y11
      exact Keeps.step State.setPortSt_keeps rfl (by assumption)
    clear_value y11
    split
    · exact Keeps.step State.timeEvent_keeps rfl (Keeps.step State.set_keeps rfl (by assumption))
    · split
      · exact Keeps.step State.set_keeps rfl (by assumption)
      · assumption
  · exact Keeps.refl

theorem State.ppsMeasure_keeps {s : State} {b : Nat} {t : Stamp} {label : Nat} : Keeps 117633 s (State.ppsMeasure s b t label) := by
  unfold State.ppsMeasure
  exact State.measure_keeps.mono rfl

theorem State.setPpsIn_keeps {s : State} {n : Nat} {v : PpsIn} : Keeps 128 s (State.setPpsIn s n v) := by
  unfold State.setPpsIn
  exact Keeps.plain (x := s) Keeps.refl {} rfl

theorem execPpsInEdge_keeps {n : Fin 4} {phi : BitVec 16} {s : State} : KeepsOut 117633 s (execPpsInEdge n phi s) := by
  unfold execPpsInEdge
  refine KeepsOut.next ?_
  split
  · extract_lets +onlyGivenNames y1
    clear_value y1
    extract_lets +onlyGivenNames y2
    subst y2
    extract_lets +onlyGivenNames y3 y4 y5
    clear_value y3 y4 y5
    extract_lets +onlyGivenNames y6
    have h7 : Keeps 117633 s y6 := by
      subst y6
      exact State.set_keeps.mono rfl
    clear_value y6
    extract_lets +onlyGivenNames y8
    have h9 : Keeps 117633 s y8 := by
      subst y8
      exact Keeps.step State.setPpsIn_keeps rfl (by assumption)
    clear_value y8
    split
    · assumption
    · refine Keeps.foldl ?_ ?_
      · intro z12 z13
        extract_lets +onlyGivenNames y14
        clear_value y14
        split
        · exact State.ppsMeasure_keeps.mono rfl
        · exact Keeps.refl
      · assumption
  · exact Keeps.refl

theorem execPpsInLoss_keeps {n : Fin 4} {s : State} : KeepsOut 117633 s (execPpsInLoss n s) := by
  unfold execPpsInLoss
  refine KeepsOut.next ?_
  split
  · split
    · exact Keeps.step State.timeEvent_keeps rfl (State.setPpsIn_keeps.mono rfl)
    · exact Keeps.refl
  · exact Keeps.refl

theorem execTodRxMessage_keeps {n : Fin 2} {msg : List Byte} {s : State} : KeepsOut 117633 s (execTodRxMessage n msg s) := by
  unfold execTodRxMessage
  refine KeepsOut.next ?_
  split
  · extract_lets +onlyGivenNames y1 y2
    clear_value y1 y2
    split
    · extract_lets +onlyGivenNames y4
      have h5 : Keeps 117633 s y4 := by
        subst y4
        exact State.setPpsIn_keeps.mono rfl
      clear_value y4
      split
      · refine Keeps.foldl ?_ ?_
        · intro z7 z8
          exact State.ppsMeasure_keeps.mono rfl
        · assumption
      · assumption
    · exact State.timeEvent_keeps.mono rfl
  · exact Keeps.refl

theorem State.todAfter_keeps {s : State} {n : Fin 4} {b : Nat} : Keeps 128 s (State.todAfter s n b) := by
  unfold State.todAfter
  split
  · exact Keeps.step State.useFree_keeps rfl (Keeps.plain (x := s) Keeps.refl {} rfl)
  · exact Keeps.refl

theorem execPpsOutEdge_keeps {n : Fin 4} {s : State} : KeepsOut 128 s (execPpsOutEdge n s) := by
  unfold execPpsOutEdge
  refine KeepsOut.next ?_
  extract_lets +onlyGivenNames y0 y1
  clear_value y0 y1
  split
  · extract_lets +onlyGivenNames y4
    have h5 : Keeps 128 s y4 := by
      subst y4
      exact State.emit_keeps.mono rfl
    clear_value y4
    exact Keeps.step State.todAfter_keeps rfl (Keeps.plain (x := y4) h5 {} rfl)
  · exact Keeps.refl

theorem execTodTxSend_keeps {n : Fin 2} {s : State} : KeepsOut 128 s (execTodTxSend n s) := by
  unfold execTodTxSend
  refine KeepsOut.next ?_
  split
  · split
    · exact Keeps.step State.emit_keeps rfl (Keeps.plain (x := s) Keeps.refl {} rfl)
    · exact Keeps.refl
  · exact Keeps.refl

theorem execDpllQualify_keeps {d : Fin 4} {inp : Fin 11} {s : State} : KeepsOut 1 s (execDpllQualify d inp s) := by
  unfold execDpllQualify
  refine KeepsOut.next ?_
  extract_lets +onlyGivenNames y0
  clear_value y0
  split
  · exact Keeps.refl
  · exact State.dpllMark_keeps.mono rfl

theorem execDpllDisqualify_keeps {d : Fin 4} {inp : Fin 11} {s : State} : KeepsOut 1 s (execDpllDisqualify d inp s) := by
  unfold execDpllDisqualify
  refine KeepsOut.next (Keeps.step State.dpllMark_keeps rfl ?_)
  exact Keeps.refl

theorem execDpllState_keeps {d : Fin 4} {st : BitVec 2} {s : State} : KeepsOut 117633 s (execDpllState d st s) := by
  unfold execDpllState
  refine KeepsOut.next ?_
  split
  · exact Keeps.refl
  · extract_lets +onlyGivenNames y2
    have h3 : Keeps 117633 s y2 := by
      subst y2
      exact State.set_keeps.mono rfl
    clear_value y2
    extract_lets +onlyGivenNames y4
    clear_value y4
    extract_lets +onlyGivenNames y5
    have h6 : Keeps 117633 s y5 := by
      subst y5
      split
      · refine Keeps.plain (x := y2) ?_ {} rfl
        assumption
      · assumption
    clear_value y5
    extract_lets +onlyGivenNames y9
    have h10 : Keeps 117633 s y9 := by
      subst y9
      split
      · exact Keeps.step State.setBit_keeps rfl (by assumption)
      · assumption
    clear_value y9
    exact Keeps.step State.timeEvent_keeps rfl (by assumption)

theorem execHoldReady_keeps {d : Fin 4} {s : State} : KeepsOut 1 s (execHoldReady d s) := by
  unfold execHoldReady
  refine KeepsOut.next ?_
  split
  · split
    · exact State.setBit_keeps.mono rfl
    · exact Keeps.refl
  · exact Keeps.refl

theorem State.txtsPop_keeps {s : State} {p : Nat} : Keeps 117633 s (State.txtsPop s p) := by
  unfold State.txtsPop
  refine Keeps.step State.txtsGap_keeps rfl (Keeps.step State.setTxts_keeps rfl ?_)
  exact Keeps.refl

theorem execTxtsDrain_keeps {p : Port} {s : State} : KeepsOut 117633 s (execTxtsDrain p s) := by
  unfold execTxtsDrain
  refine KeepsOut.next ?_
  extract_lets +onlyGivenNames y0
  clear_value y0
  split
  · exact Keeps.refl
  · split
    · exact Keeps.step State.txtsPop_keeps rfl (State.evtWrite_keeps.mono rfl)
    · exact Keeps.refl

/-! ### Machine/Log.lean -/

theorem State.setPart_keeps {s : State} {p : Nat} {v : Part} : Keeps 2048 s (State.setPart s p v) := by
  unfold State.setPart
  exact Keeps.plain (x := s) Keeps.refl {} rfl

theorem State.setSeg_keeps {s : State} {i : Nat} {g : Seg} : Keeps 2048 s (State.setSeg s i g) := by
  unfold State.setSeg
  exact Keeps.plain (x := s) Keeps.refl {} rfl

theorem State.delSeg_keeps {s : State} {i : Nat} : Keeps 2048 s (State.delSeg s i) := by
  unfold State.delSeg
  exact Keeps.plain (x := s) Keeps.refl {} rfl

theorem State.segCount_keeps {s : State} {p : Nat} : Keeps 1 s (State.segCount s p) := by
  unfold State.segCount
  exact State.set_keeps.mono rfl

theorem State.takeSlot_keeps {s : State} {r : Nat} : Keeps 2049 s (State.takeSlot s r).1 := by
  unfold State.takeSlot
  extract_lets +onlyGivenNames y0
  clear_value y0
  split
  · dsimp only
    exact Keeps.refl
  · extract_lets +onlyGivenNames y3
    clear_value y3
    split
    · dsimp only
      exact Keeps.refl
    · dsimp only
      exact Keeps.step State.set_keeps rfl (Keeps.plain (x := s) Keeps.refl {} rfl)

theorem State.slotBack_keeps {s : State} {r : Nat} : Keeps 1 s (State.slotBack s r) := by
  unfold State.slotBack
  exact State.set_keeps.mono rfl

theorem State.chunksBack_keeps {s : State} {g : Seg} : Keeps 16 s (State.chunksBack s g) := by
  unfold State.chunksBack
  refine Keeps.foldl ?_ ?_
  · intro z0 z1
    exact State.hbLet_keeps.mono rfl
  · exact Keeps.refl

theorem State.retireSeg_keeps {s : State} {i : Nat} {g : Seg} : Keeps 2049 s (State.retireSeg s i g) := by
  unfold State.retireSeg
  refine Keeps.step State.segCount_keeps rfl (Keeps.step State.bump_keeps rfl ?_)
  refine Keeps.step State.slotBack_keeps rfl (Keeps.step State.delSeg_keeps rfl ?_)
  exact Keeps.refl

theorem State.quotaRoom_keeps {s : State} {p : Nat} : Keeps 2049 s (State.quotaRoom s p).1 := by
  unfold State.quotaRoom
  split
  · dsimp only
    exact Keeps.refl
  · split
    · split
      · dsimp only
        exact State.retireSeg_keeps.mono rfl
      · dsimp only
        exact Keeps.refl
    · dsimp only
      exact Keeps.refl

theorem State.newChunk_keeps {s : State} : Keeps 16 s (State.newChunk s).1 := by
  unfold State.newChunk
  exact State.hbAlloc_keeps.mono rfl

theorem State.newSeg_keeps {s : State} {p : Nat} : Keeps 2065 s (State.newSeg s p).1 := by
  unfold State.newSeg
  split
  · rename_i x1 x2
    have h3 : Keeps 2065 s x1 := by
      refine Keeps.of_fst ?_ x2
      exact State.quotaRoom_keeps.mono rfl
    dsimp only
    exact Keeps.step State.setBit_keeps rfl (by assumption)
  · rename_i x5 x6
    have h7 : Keeps 2065 s x5 := by
      refine Keeps.of_fst ?_ x6
      exact State.quotaRoom_keeps.mono rfl
    extract_lets +onlyGivenNames y8
    have h9 : Keeps 2065 s y8 := by
      subst y8
      exact Keeps.step State.setBit_keeps rfl (by assumption)
    clear_value y8
    extract_lets +onlyGivenNames y10
    clear_value y10
    split
    · dsimp only
      assumption
    · split
      · rename_i x17 x18
        have h19 : Keeps 2065 s x17 := by
          refine Keeps.of_fst ?_ x18
          exact Keeps.step State.newChunk_keeps rfl (by assumption)
        dsimp only
        assumption
      · rename_i x21 _ x23
        have h24 : Keeps 2065 s x21 := by
          refine Keeps.of_fst ?_ x23
          exact Keeps.step State.newChunk_keeps rfl (by assumption)
        split
        · rename_i x26 x27
          have h28 : Keeps 2065 s x26 := by
            refine Keeps.of_fst ?_ x27
            exact Keeps.step State.takeSlot_keeps rfl (by assumption)
          dsimp only
          assumption
        · rename_i x30 _ x32
          have h33 : Keeps 2065 s x30 := by
            refine Keeps.of_fst ?_ x32
            exact Keeps.step State.takeSlot_keeps rfl (by assumption)
          extract_lets +onlyGivenNames y34 y35 y36
          clear_value y34 y35 y36
          extract_lets +onlyGivenNames y37
          have h38 : Keeps 2065 s y37 := by
            subst y37
            refine Keeps.step State.setPart_keeps rfl (Keeps.step State.setSeg_keeps rfl ?_)
            assumption
          clear_value y37
          dsimp only
          refine Keeps.step State.segCount_keeps rfl (Keeps.plain (x := y37) ?_ {} rfl)
          assumption

theorem State.fillChunk_keeps {s : State} {i : Nat} {g : Seg} {l : List Byte} : Keeps 35329 s (State.fillChunk s i g l) := by
  unfold State.fillChunk
  split
  · exact Keeps.refl
  · extract_lets +onlyGivenNames y6 y7
    clear_value y6 y7
    extract_lets +onlyGivenNames y8
    have h9 : Keeps 35329 s y8 := by
      subst y8
      refine Keeps.step State.pmc_keeps rfl (Keeps.mem (x := s) Keeps.refl {} rfl id id (Memory.wf_setBytes _ _) id)
    clear_value y8
    exact Keeps.step State.setSeg_keeps rfl (by assumption)

theorem State.closeSeg_keeps {s : State} {i : Nat} {g : Seg} {flag : Nat} : Keeps 2049 s (State.closeSeg s i g flag) := by
  unfold State.closeSeg
  extract_lets +onlyGivenNames y0
  have h1 : Keeps 2049 s y0 := by
    subst y0
    exact State.setSeg_keeps.mono rfl
  clear_value y0
  extract_lets +onlyGivenNames y2
  clear_value y2
  extract_lets +onlyGivenNames y3
  have h4 : Keeps 2049 s y3 := by
    subst y3
    refine Keeps.plain (x := y0) ?_ {} rfl
    assumption
  clear_value y3
  exact Keeps.step State.set_keeps rfl (by assumption)

theorem State.placeFor_keeps {s : State} {p : Nat} {n : Nat} : Keeps 2065 s (State.placeFor s p n).1 := by
  unfold State.placeFor
  extract_lets +onlyGivenNames y0
  subst y0
  split
  · dsimp -zeta only
    split
    · rename_i x4 _ x6
      have h7 : Keeps 2065 s x4 := by
        refine Keeps.of_fst ?_ x6
        exact State.newSeg_keeps.mono rfl
      dsimp only
      assumption
    · rename_i x9 x10
      have h11 : Keeps 2065 s x9 := by
        refine Keeps.of_fst ?_ x10
        exact State.newSeg_keeps.mono rfl
      dsimp only
      assumption
  · split
    · dsimp only
      exact Keeps.refl
    · split
      · split
        · rename_i x20 _ x22
          have h23 : Keeps 2065 s x20 := by
            refine Keeps.of_fst ?_ x22
            exact State.newChunk_keeps.mono rfl
          extract_lets +onlyGivenNames y24
          clear_value y24
          dsimp only
          exact Keeps.step State.setSeg_keeps rfl (by assumption)
        · rename_i x26 x27
          have h28 : Keeps 2065 s x26 := by
            refine Keeps.of_fst ?_ x27
            exact State.newChunk_keeps.mono rfl
          dsimp only
          assumption
      · split
        · dsimp -zeta only
          split
          · rename_i x32 _ x34
            have h35 : Keeps 2065 s x32 := by
              refine Keeps.of_fst ?_ x34
              refine Keeps.step State.newSeg_keeps rfl (Keeps.step State.closeSeg_keeps rfl ?_)
              exact Keeps.refl
            dsimp only
            assumption
          · rename_i x37 x38
            have h39 : Keeps 2065 s x37 := by
              refine Keeps.of_fst ?_ x38
              refine Keeps.step State.newSeg_keeps rfl (Keeps.step State.closeSeg_keeps rfl ?_)
              exact Keeps.refl
            dsimp only
            assumption
        · dsimp only
          exact Keeps.refl

theorem State.putRecord_keeps {s : State} {p : Nat} {kind : Nat} {word : BitVec 32} {t : Stamp} {body : List Byte} : Keeps 35345 s (State.putRecord s p kind word t body).1 := by
  unfold State.putRecord
  split
  · rename_i x1 x2
    have h3 : Keeps 35345 s x1 := by
      refine Keeps.of_fst ?_ x2
      exact State.placeFor_keeps.mono rfl
    dsimp only
    assumption
  · rename_i x5 _ _ x8
    have h9 : Keeps 35345 s x5 := by
      refine Keeps.of_fst ?_ x8
      exact State.placeFor_keeps.mono rfl
    extract_lets +onlyGivenNames y10
    clear_value y10
    extract_lets +onlyGivenNames y11
    have h12 : Keeps 35345 s y11 := by
      subst y11
      exact Keeps.step State.fillChunk_keeps rfl (by assumption)
    clear_value y11
    dsimp only
    refine Keeps.step State.bump_keeps rfl (Keeps.step State.setPart_keeps rfl ?_)
    assumption

theorem State.loseRecord_keeps {s : State} {p : Nat} {n : Nat} {t : Stamp} : Keeps 2049 s (State.loseRecord s p n t) := by
  unfold State.loseRecord
  extract_lets +onlyGivenNames y0
  clear_value y0
  refine Keeps.step State.bump_keeps rfl (Keeps.step State.setPart_keeps rfl ?_)
  exact Keeps.refl

theorem State.owedRecords_keeps {s : State} {p : Nat} : Keeps 35345 s (State.owedRecords s p) := by
  unfold State.owedRecords
  extract_lets +onlyGivenNames y0
  clear_value y0
  extract_lets +onlyGivenNames y1
  have h2 : Keeps 35345 s y1 := by
    subst y1
    split
    · split
      · rename_i x7 x8
        have h9 : Keeps 35345 s x7 := by
          refine Keeps.of_fst ?_ x8
          exact State.putRecord_keeps.mono rfl
        exact Keeps.step State.setPart_keeps rfl (by assumption)
      · rename_i x11 x12
        have h13 : Keeps 35345 s x11 := by
          refine Keeps.of_fst ?_ x12
          exact State.putRecord_keeps.mono rfl
        assumption
    · exact Keeps.refl
  clear_value y1
  extract_lets +onlyGivenNames y16
  clear_value y16
  split
  · assumption
  · split
    · rename_i x20 x21
      have h22 : Keeps 35345 s x20 := by
        refine Keeps.of_fst ?_ x21
        exact Keeps.step State.putRecord_keeps rfl (by assumption)
      exact Keeps.step State.setPart_keeps rfl (by assumption)
    · rename_i x24 x25
      have h26 : Keeps 35345 s x24 := by
        refine Keeps.of_fst ?_ x25
        exact Keeps.step State.putRecord_keeps rfl (by assumption)
      assumption

theorem State.capture_keeps {s : State} {c : Capture} : Keeps 35345 s (State.capture s c) := by
  unfold State.capture
  extract_lets +onlyGivenNames y0 y1
  clear_value y0 y1
  split
  · exact Keeps.refl
  · split
    · exact State.bump_keeps.mono rfl
    · extract_lets +onlyGivenNames y6 y7 y8
      clear_value y6 y7 y8
      extract_lets +onlyGivenNames y9
      have h10 : Keeps 35345 s y9 := by
        subst y9
        exact Keeps.plain (x := s) Keeps.refl {} rfl
      clear_value y9
      extract_lets +onlyGivenNames y11
      clear_value y11
      extract_lets +onlyGivenNames y12
      have h13 : Keeps 35345 s y12 := by
        subst y12
        exact Keeps.step State.setPart_keeps rfl (by assumption)
      clear_value y12
      split
      · exact Keeps.step State.loseRecord_keeps rfl (by assumption)
      · extract_lets +onlyGivenNames y16
        have h17 : Keeps 35345 s y16 := by
          subst y16
          exact Keeps.step State.owedRecords_keeps rfl (by assumption)
        clear_value y16
        split
        · rename_i x19 x20
          have h21 : Keeps 35345 s x19 := by
            refine Keeps.of_fst ?_ x20
            exact Keeps.step State.putRecord_keeps rfl (by assumption)
          extract_lets +onlyGivenNames y22
          clear_value y22
          extract_lets +onlyGivenNames y23
          have h24 : Keeps 35345 s y23 := by
            subst y23
            refine Keeps.plain (x := x19) ?_ {} rfl
            assumption
          clear_value y23
          exact Keeps.step State.setPart_keeps rfl (by assumption)
        · rename_i x26 x27
          have h28 : Keeps 35345 s x26 := by
            refine Keeps.of_fst ?_ x27
            exact Keeps.step State.putRecord_keeps rfl (by assumption)
          exact Keeps.step State.loseRecord_keeps rfl (by assumption)

theorem execLogCapture_keeps {s : State} : KeepsOut 117585 s (execLogCapture s) := by
  unfold execLogCapture
  refine KeepsOut.next ?_
  split
  · exact Keeps.refl
  · extract_lets +onlyGivenNames y6
    clear_value y6
    extract_lets +onlyGivenNames y7
    have h8 : Keeps 117585 s y7 := by
      subst y7
      exact Keeps.step State.capture_keeps rfl (Keeps.plain (x := s) Keeps.refl {} rfl)
    clear_value y7
    split
    · exact Keeps.step State.letGo_keeps rfl (by assumption)
    · assumption

theorem execSealMsExpiry_keeps {p : Fin 16} {s : State} : KeepsOut 2049 s (execSealMsExpiry p s) := by
  unfold execSealMsExpiry
  refine KeepsOut.next ?_
  split
  · split
    · exact State.closeSeg_keeps.mono rfl
    · exact Keeps.refl
  · exact Keeps.refl

theorem State.sealPart_keeps {s : State} {p : Nat} {flag : Nat} : Keeps 2049 s (State.sealPart s p flag) := by
  unfold State.sealPart
  split
  · split
    · exact State.closeSeg_keeps.mono rfl
    · exact Keeps.refl
  · exact Keeps.refl

theorem State.linkNext_keeps {s : State} {p : Nat} : Keeps 2048 s (State.linkNext s p) := by
  unfold State.linkNext
  extract_lets +onlyGivenNames y0
  clear_value y0
  split
  · exact State.setSeg_keeps.mono rfl
  · exact Keeps.refl

theorem execSealSign_keeps {s : State} : KeepsOut 2049 s (execSealSign s) := by
  unfold execSealSign
  refine KeepsOut.next ?_
  split
  · exact Keeps.refl
  · extract_lets +onlyGivenNames y6
    clear_value y6
    split
    · exact Keeps.step State.set_keeps rfl (Keeps.plain (x := s) Keeps.refl {} rfl)
    · split
      · extract_lets +onlyGivenNames y13 y14 y15
        clear_value y13 y14 y15
        extract_lets +onlyGivenNames y16
        have h17 : Keeps 2049 s y16 := by
          subst y16
          exact State.setSeg_keeps.mono rfl
        clear_value y16
        extract_lets +onlyGivenNames y18
        clear_value y18
        extract_lets +onlyGivenNames y19
        have h20 : Keeps 2049 s y19 := by
          subst y19
          refine Keeps.step State.set_keeps rfl (Keeps.plain (x := y16) ?_ {} rfl)
          assumption
        clear_value y19
        refine Keeps.step State.linkNext_keeps rfl (Keeps.step State.setPart_keeps rfl ?_)
        assumption
      · exact Keeps.refl

theorem execChunkWriteDone_keeps {p : Fin 16} {seg : Nat} {lba : Nat} {s : State} : KeepsOut 35329 s (execChunkWriteDone p seg lba s) := by
  unfold execChunkWriteDone
  refine KeepsOut.next ?_
  split
  · split
    · extract_lets +onlyGivenNames y5 y6
      clear_value y5 y6
      extract_lets +onlyGivenNames y7
      have h8 : Keeps 35329 s y7 := by
        subst y7
        exact State.pmc_keeps.mono rfl
      clear_value y7
      exact Keeps.step State.setSeg_keeps rfl (by assumption)
    · exact Keeps.refl
  · exact Keeps.refl

theorem execSegmentFlushDone_keeps {p : Fin 16} {seg : Nat} {s : State} : KeepsOut 2065 s (execSegmentFlushDone p seg s) := by
  unfold execSegmentFlushDone
  refine KeepsOut.next ?_
  split
  · split
    · refine Keeps.step State.bump_keeps rfl ?_
      refine Keeps.step State.setSeg_keeps rfl (Keeps.step State.chunksBack_keeps rfl ?_)
      exact Keeps.refl
    · exact Keeps.refl
  · exact Keeps.refl

theorem State.discardSeg_keeps {s : State} {i : Nat} {g : Seg} : Keeps 2065 s (State.discardSeg s i g) := by
  unfold State.discardSeg
  extract_lets +onlyGivenNames y0
  have h1 : Keeps 2065 s y0 := by
    subst y0
    refine Keeps.step State.delSeg_keeps rfl (Keeps.step State.chunksBack_keeps rfl ?_)
    exact Keeps.refl
  clear_value y0
  extract_lets +onlyGivenNames y2 y3
  clear_value y2 y3
  extract_lets +onlyGivenNames y4
  have h5 : Keeps 2065 s y4 := by
    subst y4
    exact Keeps.step State.setPart_keeps rfl (by assumption)
  clear_value y4
  extract_lets +onlyGivenNames y6
  have h7 : Keeps 2065 s y6 := by
    subst y6
    exact Keeps.step State.addTo_keeps rfl (by assumption)
  clear_value y6
  extract_lets +onlyGivenNames y8
  clear_value y8
  extract_lets +onlyGivenNames y9
  have h10 : Keeps 2065 s y9 := by
    subst y9
    refine Keeps.plain (x := y6) ?_ {} rfl
    assumption
  clear_value y9
  refine Keeps.step State.segCount_keeps rfl (Keeps.step State.linkNext_keeps rfl ?_)
  refine Keeps.step State.slotBack_keeps rfl (Keeps.step State.set_keeps rfl ?_)
  assumption

theorem State.relocateSeg_keeps {s : State} {i : Nat} {g : Seg} : Keeps 2065 s (State.relocateSeg s i g) := by
  unfold State.relocateSeg
  split
  · exact State.discardSeg_keeps.mono rfl
  · split
    · rename_i x6 x7
      have h8 : Keeps 2065 s x6 := by
        refine Keeps.of_fst ?_ x7
        exact State.takeSlot_keeps.mono rfl
      exact State.discardSeg_keeps.mono rfl
    · rename_i x10 _ x12
      have h13 : Keeps 2065 s x10 := by
        refine Keeps.of_fst ?_ x12
        exact State.takeSlot_keeps.mono rfl
      extract_lets +onlyGivenNames y14
      have h15 : Keeps 2065 s y14 := by
        subst y14
        exact Keeps.step State.setSeg_keeps rfl (by assumption)
      clear_value y14
      extract_lets +onlyGivenNames y16
      clear_value y16
      extract_lets +onlyGivenNames y17
      have h18 : Keeps 2065 s y17 := by
        subst y17
        split
        · refine Keeps.plain (x := y14) ?_ {} rfl
          assumption
        · assumption
      clear_value y17
      refine Keeps.step State.bump_keeps rfl (Keeps.step State.set_keeps rfl ?_)
      assumption

theorem State.driveEvent_keeps {s : State} {r : Nat} : Keeps 117505 s (State.driveEvent s r) := by
  unfold State.driveEvent
  refine Keeps.step State.rasEvent_keeps rfl (Keeps.step State.useFree_keeps rfl ?_)
  exact Keeps.refl

theorem execDriveWriteFail_keeps {p : Fin 16} {seg : Nat} {s : State} : KeepsOut 118545 s (execDriveWriteFail p seg s) := by
  unfold execDriveWriteFail
  refine KeepsOut.next ?_
  split
  · split
    · exact Keeps.refl
    · split
      · exact State.setSeg_keeps.mono rfl
      · extract_lets +onlyGivenNames y8
        have h9 : Keeps 118545 s y8 := by
          subst y8
          split
          · refine Keeps.step State.hostErr_keeps rfl ?_
            refine Keeps.step State.driveEvent_keeps rfl (Keeps.step State.set_keeps rfl ?_)
            exact Keeps.refl
          · exact Keeps.refl
        clear_value y8
        exact Keeps.step State.relocateSeg_keeps rfl (by assumption)
  · exact Keeps.refl

theorem execRetentionExpiry_keeps {p : Fin 16} {seg : Nat} {s : State} : KeepsOut 2049 s (execRetentionExpiry p seg s) := by
  unfold execRetentionExpiry
  refine KeepsOut.next ?_
  split
  · split
    · extract_lets +onlyGivenNames y5
      have h6 : Keeps 2049 s y5 := by
        subst y5
        exact State.retireSeg_keeps.mono rfl
      clear_value y5
      split
      · exact Keeps.step State.set_keeps rfl (by assumption)
      · assumption
    · exact Keeps.refl
  · exact Keeps.refl

theorem execDriveLinked_keeps {r : Fin 4} {s : State} : KeepsOut 1 s (execDriveLinked r s) := by
  unfold execDriveLinked
  refine KeepsOut.next ?_
  split
  · exact State.set_keeps.mono rfl
  · exact Keeps.refl

theorem execDriveRemoved_keeps {r : Fin 4} {s : State} : KeepsOut 2049 s (execDriveRemoved r s) := by
  unfold execDriveRemoved
  refine KeepsOut.next ?_
  extract_lets +onlyGivenNames y0
  have h1 : Keeps 2049 s y0 := by
    subst y0
    refine Keeps.step State.set_keeps rfl (Keeps.step State.set_keeps rfl ?_)
    exact Keeps.refl
  clear_value y0
  refine Keeps.plain (x := y0) ?_ {} rfl
  assumption

theorem State.driveUp_keeps {s : State} {r : Nat} {d : DriveId} : Keeps 2049 s (State.driveUp s r d) := by
  unfold State.driveUp
  extract_lets +onlyGivenNames y0
  clear_value y0
  extract_lets +onlyGivenNames y1
  have h2 : Keeps 2049 s y1 := by
    subst y1
    exact Keeps.plain (x := s) Keeps.refl {} rfl
  clear_value y1
  refine Keeps.step State.set_keeps rfl (Keeps.step State.setBit_keeps rfl ?_)
  exact Keeps.step State.set_keeps rfl (by assumption)

theorem execLogScanDone_keeps {found : List SegScan} {s : State} : KeepsOut 2049 s (execLogScanDone found s) := by
  unfold execLogScanDone
  refine KeepsOut.next ?_
  split
  · extract_lets +onlyGivenNames y1
    clear_value y1
    extract_lets +onlyGivenNames y2
    have h3 : Keeps 2049 s y2 := by
      subst y2
      exact Keeps.plain (x := s) Keeps.refl {} rfl
    clear_value y2
    extract_lets +onlyGivenNames y4
    have h5 : Keeps 2049 s y4 := by
      subst y4
      refine Keeps.foldl ?_ ?_
      · intro z6 z7
        split
        · split
          · exact State.set_keeps.mono rfl
          · exact Keeps.refl
        · exact Keeps.refl
      · assumption
    clear_value y4
    exact Keeps.step State.set_keeps rfl (by assumption)
  · exact Keeps.refl

theorem State.logHalt_keeps {s : State} : Keeps 2049 s (State.logHalt s) := by
  unfold State.logHalt
  split
  · exact Keeps.refl
  · extract_lets +onlyGivenNames y2
    clear_value y2
    extract_lets +onlyGivenNames y3
    have h4 : Keeps 2049 s y3 := by
      subst y3
      exact Keeps.plain (x := s) Keeps.refl {} rfl
    clear_value y3
    split
    · assumption
    · refine Keeps.foldl ?_ ?_
      · intro z7 z8
        split
        · exact State.closeSeg_keeps.mono rfl
        · exact Keeps.refl
      · assumption

theorem State.logStop_keeps {s : State} : Keeps 1 s (State.logStop s) := by
  unfold State.logStop
  split
  · exact Keeps.refl
  · exact State.set_keeps.mono rfl

theorem State.freeBytes_keeps {s : State} {n : Nat} : Keeps 0 s (State.freeBytes s n).1 := by
  unfold State.freeBytes
  dsimp only
  refine Keeps.freed (x := s) Keeps.refl {} rfl (Nat.le_add_right _ _)

theorem State.segRead_keeps {s : State} {g : Seg} {b : Nat} {a : Nat} : Keeps 0 s (State.segRead s g b a).1 := by
  induction a generalizing s g b
  · rw [State.segRead]
    dsimp only
    exact Keeps.refl
  · rename_i ih
    rw [State.segRead]
    dsimp only
    refine Keeps.step ih rfl ?_
    split
    · dsimp only
      exact Keeps.refl
    · exact State.freeBytes_keeps.mono rfl

/-! ### Machine/Host.lean -/

theorem State.setHead_keeps {s : State} {c : Nat} {n : Nat} : Keeps 257 s (State.setHead s c n) := by
  unfold State.setHead
  refine Keeps.step State.set_keeps rfl (Keeps.step State.setChan_keeps rfl ?_)
  exact Keeps.refl

theorem State.chanFree_keeps {s : State} {c : Nat} : Keeps 257 s (State.chanFree s c) := by
  unfold State.chanFree
  extract_lets +onlyGivenNames y0
  have h1 : Keeps 257 s y0 := by
    subst y0
    refine Keeps.step State.setBit_keeps rfl (Keeps.step State.set_keeps rfl ?_)
    exact Keeps.refl
  clear_value y0
  refine Keeps.plain (x := y0) ?_ {} rfl
  assumption

theorem State.closeStep_keeps {s : State} {c : Nat} : Keeps 257 s (State.closeStep s c) := by
  unfold State.closeStep
  split
  · exact State.chanFree_keeps.mono rfl
  · exact Keeps.refl

theorem State.closeChan_keeps {s : State} {c : Nat} {mute : Bool} : Keeps 117719 s (State.closeChan s c mute) := by
  unfold State.closeChan
  split
  · exact Keeps.refl
  · extract_lets +onlyGivenNames y2
    clear_value y2
    split
    · refine Keeps.step State.closeStep_keeps rfl ?_
      refine Keeps.step State.setChan_keeps rfl (Keeps.step State.set_keeps rfl ?_)
      exact Keeps.refl
    · extract_lets +onlyGivenNames y5
      have h6 : Keeps 117719 s y5 := by
        subst y5
        exact State.addTo_keeps.mono rfl
      clear_value y5
      refine Keeps.step State.chanFree_keeps rfl (Keeps.foldl ?_ ?_)
      · intro z7 z8
        exact State.deliveryEnd_keeps.mono rfl
      · assumption

theorem State.rxWriteBack_keeps {s : State} {c : Nat} {ix : Nat} {n : Nat} {w : RxWait} {first : Bool} {last : Bool} {count : Nat} : Keeps 115457 s (State.rxWriteBack s c ix n w first last count) := by
  unfold State.rxWriteBack
  extract_lets +onlyGivenNames y0 y1
  clear_value y0 y1
  extract_lets +onlyGivenNames y2
  have h3 : Keeps 115457 s y2 := by
    subst y2
    exact State.chPut_keeps.mono rfl
  clear_value y2
  extract_lets +onlyGivenNames y4
  have h5 : Keeps 115457 s y4 := by
    subst y4
    exact Keeps.step State.chPut_keeps rfl (by assumption)
  clear_value y4
  refine Keeps.step State.entryWritten_keeps rfl (Keeps.step State.chPut_keeps rfl ?_)
  assumption

theorem State.rxFill_keeps {s : State} {c : Nat} {a : List (Nat × Nat)} {arg3 : List Byte} : Keeps 115201 s (State.rxFill s c a arg3) := by
  induction a generalizing s c arg3
  · rw [State.rxFill]
    exact Keeps.refl
  · rename_i ih
    rw [State.rxFill]
    refine Keeps.step ih rfl (Keeps.step State.chPut_keeps rfl ?_)
    exact Keeps.refl

theorem State.rxDone_keeps {s : State} {c : Nat} {w : RxWait} {count : Nat} {first : Bool} {a : List (Nat × Nat)} {arg6 : Nat} : Keeps 115457 s (State.rxDone s c w count first a arg6) := by
  induction a generalizing s c w count first arg6
  · rw [State.rxDone]
    exact Keeps.refl
  · rename_i ih
    rw [State.rxDone]
    refine Keeps.step ih rfl (Keeps.step State.rxWriteBack_keeps rfl ?_)
    exact Keeps.refl

theorem execRxpDelivery_keeps {c : Chan} {s : State} : KeepsOut 117719 s (execRxpDelivery c s) := by
  unfold execRxpDelivery
  refine KeepsOut.next ?_
  split
  · exact Keeps.refl
  · split
    · split
      · exact Keeps.refl
      · extract_lets +onlyGivenNames y12
        clear_value y12
        extract_lets +onlyGivenNames y13
        have h14 : Keeps 117719 s y13 := by
          subst y13
          refine Keeps.step State.rxDone_keeps rfl (Keeps.step State.rxFill_keeps rfl ?_)
          exact Keeps.refl
        clear_value y13
        extract_lets +onlyGivenNames y15
        clear_value y15
        extract_lets +onlyGivenNames y16
        have h17 : Keeps 117719 s y16 := by
          subst y16
          refine Keeps.step State.setHead_keeps rfl (Keeps.step State.setChan_keeps rfl ?_)
          assumption
        clear_value y16
        exact Keeps.step State.deliveryEnd_keeps rfl (by assumption)
    · exact Keeps.refl

theorem execRxpStallExpiry_keeps {c : Chan} {s : State} : KeepsOut 117719 s (execRxpStallExpiry c s) := by
  unfold execRxpStallExpiry
  refine KeepsOut.next ?_
  split
  · exact Keeps.refl
  · extract_lets +onlyGivenNames y6
    clear_value y6
    split
    · exact Keeps.step State.rxDrop_keeps rfl (State.setChan_keeps.mono rfl)
    · exact Keeps.refl

theorem State.txBack_keeps {s : State} {c : Nat} {status : Nat} {run : List TxEnt} : Keeps 115457 s (State.txBack s c status run) := by
  unfold State.txBack
  extract_lets +onlyGivenNames y0
  have h1 : Keeps 115457 s y0 := by
    subst y0
    refine Keeps.foldl ?_ ?_
    · intro z2 z3
      extract_lets +onlyGivenNames y4 y5
      clear_value y4 y5
      refine Keeps.step State.entryWritten_keeps rfl (Keeps.step State.chPut_keeps rfl ?_)
      exact Keeps.refl
    · exact Keeps.refl
  clear_value y0
  extract_lets +onlyGivenNames y6
  clear_value y6
  exact Keeps.step State.setHead_keeps rfl (by assumption)

theorem State.txGot_keeps {s : State} {c : Nat} {run : List TxEnt} : Keeps 33281 s (State.txGot s c run) := by
  unfold State.txGot
  refine Keeps.foldl ?_ ?_
  · intro z0 z1
    exact State.chGot_keeps.mono rfl
  · exact Keeps.refl

theorem execTxpFetch_keeps {c : Chan} {s : State} : KeepsOut 115459 s (execTxpFetch c s) := by
  unfold execTxpFetch
  refine KeepsOut.next ?_
  split
  · exact Keeps.refl
  · split
    · exact Keeps.refl
    · split
      · refine Keeps.step State.bump_keeps rfl ?_
        refine Keeps.step State.txBack_keeps rfl (Keeps.step State.txGot_keeps rfl ?_)
        exact Keeps.refl
      · extract_lets +onlyGivenNames y12
        clear_value y12
        split
        · exact Keeps.refl
        · extract_lets +onlyGivenNames y15 y16 y17
          clear_value y15 y16 y17
          refine Keeps.step State.txBack_keeps rfl (Keeps.step State.enterFrame_keeps rfl ?_)
          exact State.txGot_keeps.mono rfl

theorem execEvtHoldRelease_keeps {c : Chan} {s : State} : KeepsOut 115457 s (execEvtHoldRelease c s) := by
  unfold execEvtHoldRelease
  refine KeepsOut.next ?_
  split
  · exact Keeps.refl
  · split
    · exact Keeps.step State.evtWrite_keeps rfl (State.setChan_keeps.mono rfl)
    · exact Keeps.refl

theorem execEvtHoldExpiry_keeps {c : Chan} {s : State} : KeepsOut 257 s (execEvtHoldExpiry c s) := by
  unfold execEvtHoldExpiry
  refine KeepsOut.next ?_
  split
  · exact Keeps.refl
  · extract_lets +onlyGivenNames y6
    clear_value y6
    split
    · exact Keeps.step State.evtDrop_keeps rfl (State.setChan_keeps.mono rfl)
    · exact Keeps.refl

theorem State.recDone_keeps {s : State} {c : Nat} {bytes : Nat} {status : Nat} : Keeps 115457 s (State.recDone s c bytes status) := by
  unfold State.recDone
  extract_lets +onlyGivenNames y0 y1
  clear_value y0 y1
  extract_lets +onlyGivenNames y2
  have h3 : Keeps 115457 s y2 := by
    subst y2
    refine Keeps.step State.chPut_keeps rfl (Keeps.step State.chPut_keeps rfl ?_)
    exact Keeps.refl
  clear_value y2
  refine Keeps.step State.entryWritten_keeps rfl (Keeps.step State.setHead_keeps rfl ?_)
  exact Keeps.step State.setChan_keeps rfl (by assumption)

theorem execRecEntryServe_keeps {c : Chan} {s : State} : KeepsOut 115457 s (execRecEntryServe c s) := by
  unfold execRecEntryServe
  refine KeepsOut.next ?_
  split
  · extract_lets +onlyGivenNames y1 y2
    clear_value y1 y2
    split
    · split
      · split
        · exact State.setChan_keeps.mono rfl
        · exact State.recDone_keeps.mono rfl
      · exact State.recDone_keeps.mono rfl
    · exact State.recDone_keeps.mono rfl
  · exact Keeps.refl

theorem execRecReadComplete_keeps {c : Chan} {ok : Bool} {s : State} : KeepsOut 115457 s (execRecReadComplete c ok s) := by
  unfold execRecReadComplete
  refine KeepsOut.next ?_
  split
  · split
    · exact Keeps.refl
    · split
      · exact State.recDone_keeps.mono rfl
      · split
        · extract_lets +onlyGivenNames y12 y13
          clear_value y12 y13
          extract_lets +onlyGivenNames y14
          have h15 : Keeps 115457 s y14.1 := by
            subst y14
            exact State.segRead_keeps.mono rfl
          clear_value y14
          refine Keeps.step State.recDone_keeps rfl (Keeps.step State.chPut_keeps rfl ?_)
          assumption
        · exact State.recDone_keeps.mono rfl
  · exact Keeps.refl

theorem State.chanVector_keeps {s : State} {c : Nat} : Keeps 1280 s (State.chanVector s c) := by
  unfold State.chanVector
  extract_lets +onlyGivenNames y0
  clear_value y0
  refine Keeps.step State.sendVector_keeps rfl (Keeps.step State.setChan_keeps rfl ?_)
  exact Keeps.refl

theorem execMsixSend_keeps {c : Chan} {s : State} : KeepsOut 1280 s (execMsixSend c s) := by
  unfold execMsixSend
  refine KeepsOut.next ?_
  extract_lets +onlyGivenNames y0 y1
  clear_value y0 y1
  split
  · exact State.chanVector_keeps.mono rfl
  · exact Keeps.refl

theorem execMsixUnmask_keeps {v : Vec} {s : State} : KeepsOut 1024 s (execMsixUnmask v s) := by
  unfold execMsixUnmask
  refine KeepsOut.next ?_
  extract_lets +onlyGivenNames y0 y1 y2
  clear_value y0 y1 y2
  extract_lets +onlyGivenNames y3
  have h4 : Keeps 1024 s y3 := by
    subst y3
    exact Keeps.plain (x := s) Keeps.refl {} rfl
  clear_value y3
  split
  · exact Keeps.step State.emit_keeps rfl (by assumption)
  · assumption

theorem State.dmaReport_keeps {s : State} {c : Nat} {cause : Nat} {addr : Nat} : Keeps 1281 s (State.dmaReport s c cause addr) := by
  unfold State.dmaReport
  extract_lets +onlyGivenNames y0
  have h1 : Keeps 1281 s y0 := by
    subst y0
    refine Keeps.step State.set_keeps rfl (Keeps.step State.set_keeps rfl ?_)
    exact State.setBit_keeps.mono rfl
  clear_value y0
  refine Keeps.step State.hostErr_keeps rfl (Keeps.step State.chanVector_keeps rfl ?_)
  assumption

theorem execDmaReadError_keeps {c : Chan} {cause : BitVec 2} {addr : Word} {s : State} : KeepsOut 118743 s (execDmaReadError c cause addr s) := by
  unfold execDmaReadError
  refine KeepsOut.next ?_
  split
  · split
    · refine Keeps.step State.txBack_keeps rfl ?_
      refine Keeps.step State.dmaReport_keeps rfl (Keeps.step State.useFree_keeps rfl ?_)
      exact Keeps.refl
    · extract_lets +onlyGivenNames y6
      clear_value y6
      extract_lets +onlyGivenNames y7
      have h8 : Keeps 118743 s y7 := by
        subst y7
        exact State.setChan_keeps.mono rfl
      clear_value y7
      extract_lets +onlyGivenNames y9
      have h10 : Keeps 118743 s y9 := by
        subst y9
        exact Keeps.step State.dmaReport_keeps rfl (by assumption)
      clear_value y9
      extract_lets +onlyGivenNames y11
      clear_value y11
      split
      · refine Keeps.foldl ?_ ?_
        · intro z13 z14
          exact State.rxDrop_keeps.mono rfl
        · exact Keeps.step State.setChan_keeps rfl (by assumption)
      · assumption
  · exact Keeps.refl

theorem State.closeVfs_keeps {s : State} : Keeps 117719 s (State.closeVfs s) := by
  unfold State.closeVfs
  refine Keeps.foldl ?_ ?_
  · intro z0 z1
    exact State.closeChan_keeps.mono rfl
  · exact Keeps.refl

theorem State.resetCh0_keeps {s : State} : Keeps 257 s (State.resetCh0 s) := by
  unfold State.resetCh0
  extract_lets +onlyGivenNames y0
  clear_value y0
  refine Keeps.step State.set_keeps rfl (Keeps.step State.setHead_keeps rfl ?_)
  exact State.setChan_keeps.mono rfl

theorem execFunctionLevelReset_keeps {fn : Fn} {s : State} : KeepsOut 117719 s (execFunctionLevelReset fn s) := by
  unfold execFunctionLevelReset
  refine KeepsOut.next ?_
  split
  · extract_lets +onlyGivenNames y1
    have h2 : Keeps 117719 s y1 := by
      subst y1
      exact State.closeVfs_keeps.mono rfl
    clear_value y1
    extract_lets +onlyGivenNames y3
    have h4 : Keeps 117719 s y3 := by
      subst y3
      refine Keeps.foldl ?_ ?_
      · intro z5 z6
        exact State.closeChan_keeps.mono rfl
      · assumption
    clear_value y3
    exact Keeps.step State.resetCh0_keeps rfl (by assumption)
  · refine Keeps.foldl ?_ ?_
    · intro z8 z9
      exact State.closeChan_keeps.mono rfl
    · exact Keeps.refl

theorem execVfEnableClear_keeps {s : State} : KeepsOut 118743 s (execVfEnableClear s) := by
  unfold execVfEnableClear
  refine KeepsOut.next ?_
  extract_lets +onlyGivenNames y0
  have h1 : Keeps 118743 s y0 := by
    subst y0
    exact State.closeVfs_keeps.mono rfl
  clear_value y0
  refine Keeps.plain (x := y0) ?_ {} rfl
  assumption

theorem execBusMasterDisable_keeps {fn : Fn} {s : State} : KeepsOut 1024 s (execBusMasterDisable fn s) := by
  unfold execBusMasterDisable
  refine KeepsOut.next ?_
  split
  · exact Keeps.refl
  · exact Keeps.plain (x := s) Keeps.refl {} rfl

theorem execBar4Access_keeps {write : Bool} {off : BitVec 32} {data : Word} {s : State} : KeepsOut 261889 s (execBar4Access write off data s) := by
  unfold execBar4Access
  refine KeepsOut.next ?_
  split
  · exact Keeps.refl
  · extract_lets +onlyGivenNames y2 y3
    clear_value y2 y3
    split
    · refine Keeps.step State.bump_keeps rfl ?_
      split
      · exact Keeps.refl
      · exact State.emit_keeps.mono rfl
    · split
      · split
        · exact Keeps.refl
        · exact Keeps.step State.useFree_keeps rfl (State.emit_keeps.mono rfl)
      · extract_lets +onlyGivenNames y12
        have h13 : Keeps 261889 s y12 := by
          subst y12
          exact State.pmc_keeps.mono rfl
        clear_value y12
        extract_lets +onlyGivenNames y14
        clear_value y14
        split
        · refine Keeps.mem (x := y12) ?_ {} rfl id id (Memory.wf_setBytes _ _) id
          assumption
        · split
          · refine Keeps.step State.emit_keeps rfl ?_
            refine Keeps.step State.mcheck_keeps rfl (Keeps.step State.useFree_keeps rfl ?_)
            assumption
          · exact Keeps.step State.emit_keeps rfl (by assumption)

/-! ### Machine/Bell.lean -/

theorem State.joinReady_keeps {s : State} {iss : Issuer} : Keeps 256 s (State.joinReady s iss) := by
  unfold State.joinReady
  split
  · exact Keeps.plain (x := s) Keeps.refl {} rfl
  · exact Keeps.refl

theorem State.ch0Sync_keeps {s : State} : Keeps 256 s (State.ch0Sync s) := by
  unfold State.ch0Sync
  exact State.setChan_keeps.mono rfl

theorem State.takeTail_keeps {s : State} {c : Nat} {index : Nat} : Keeps 257 s (State.takeTail s c index) := by
  unfold State.takeTail
  extract_lets +onlyGivenNames y0
  clear_value y0
  extract_lets +onlyGivenNames y1
  have h2 : Keeps 257 s y1 := by
    subst y1
    exact State.set_keeps.mono rfl
  clear_value y1
  split
  · extract_lets +onlyGivenNames y4
    clear_value y4
    extract_lets +onlyGivenNames y5
    have h6 : Keeps 257 s y5 := by
      subst y5
      split
      · exact Keeps.step State.setChan_keeps rfl (by assumption)
      · assumption
    clear_value y5
    exact Keeps.step State.joinReady_keeps rfl (by assumption)
  · assumption

theorem State.bellTail_keeps {s : State} {fn : Nat} {c : Nat} {index : Nat} {gen : Nat} : Keeps 257 s (State.bellTail s fn c index gen) := by
  unfold State.bellTail
  split
  · exact State.bump_keeps.mono rfl
  · split
    · exact Keeps.refl
    · split
      · exact State.bump_keeps.mono rfl
      · split
        · exact State.setChan_keeps.mono rfl
        · exact State.takeTail_keeps.mono rfl

theorem State.bellHead_keeps {s : State} {fn : Nat} {c : Nat} {index : Nat} {gen : Nat} : Keeps 257 s (State.bellHead s fn c index gen) := by
  unfold State.bellHead
  split
  · exact State.bump_keeps.mono rfl
  · extract_lets +onlyGivenNames y2 y3 y4
    clear_value y2 y3 y4
    split
    · exact Keeps.refl
    · split
      · exact State.bump_keeps.mono rfl
      · exact State.setChan_keeps.mono rfl

theorem State.bell_keeps {s : State} {head : Bool} {fn : Nat} {c : Nat} {index : Nat} {gen : Nat} : Keeps 8449 s (State.bell s head fn c index gen) := by
  unfold State.bell
  split
  · exact Keeps.plain (x := s) Keeps.refl {} rfl
  · split
    · exact Keeps.refl
    · split
      · exact State.bellHead_keeps.mono rfl
      · exact State.bellTail_keeps.mono rfl

theorem State.bellsGo_keeps {s : State} : Keeps 8449 s (State.bellsGo s) := by
  unfold State.bellsGo
  extract_lets +onlyGivenNames y0
  clear_value y0
  refine Keeps.foldl ?_ ?_
  · intro z1 z2
    exact State.bell_keeps.mono rfl
  · exact Keeps.plain (x := s) Keeps.refl {} rfl

theorem State.ch0Written_keeps {s : State} : Keeps 257 s (State.ch0Written s) := by
  unfold State.ch0Written
  extract_lets +onlyGivenNames y0
  have h1 : Keeps 257 s y0 := by
    subst y0
    exact State.ch0Sync_keeps.mono rfl
  clear_value y0
  split
  · split
    · exact Keeps.step State.takeTail_keeps rfl (Keeps.step State.setChan_keeps rfl (by assumption))
    · assumption
  · assumption

theorem State.driverWrites_keeps {s : State} {fn : Nat} {c : Nat} {l : List (Nat × Word)} : Keeps 114688 s (State.driverWrites s fn c l) := by
  unfold State.driverWrites
  refine Keeps.foldl ?_ ?_
  · intro z0 z1
    split
    · exact State.dWrite_keeps.mono rfl
    · exact State.hostWrite_keeps.mono rfl
  · exact Keeps.refl

theorem execDoorbellTail_keeps {fn : Fn} {c : Chan} {index : BitVec 16} {gen : BitVec 8} {mem : List (Nat × Word)} {s : State} : KeepsOut 123137 s (execDoorbellTail fn c index gen mem s) := by
  unfold execDoorbellTail
  refine KeepsOut.next (Keeps.step State.bell_keeps rfl ?_)
  exact State.driverWrites_keeps.mono rfl

theorem execDoorbellHead_keeps {fn : Fn} {c : Chan} {index : BitVec 16} {gen : BitVec 8} {s : State} : KeepsOut 8449 s (execDoorbellHead fn c index gen s) := by
  unfold execDoorbellHead
  refine KeepsOut.next (Keeps.step State.bell_keeps rfl ?_)
  exact Keeps.refl

/-! ### Machine/Hbor.lean -/

theorem State.hbCheckStart_keeps {s : State} {b : Nat} : Keeps 4097 s (State.hbCheckStart s b) := by
  unfold State.hbCheckStart
  extract_lets +onlyGivenNames y0
  have h1 : Keeps 4097 s y0 := by
    subst y0
    exact State.setBit_keeps.mono rfl
  clear_value y0
  refine Keeps.plain (x := y0) ?_ {} rfl
  assumption

theorem State.hbCheckEnd_keeps {s : State} {b : Nat} : Keeps 4097 s (State.hbCheckEnd s b) := by
  unfold State.hbCheckEnd
  extract_lets +onlyGivenNames y0
  have h1 : Keeps 4097 s y0 := by
    subst y0
    exact State.setBit_keeps.mono rfl
  clear_value y0
  split
  · extract_lets +onlyGivenNames y4
    have h5 : Keeps 4097 s y4 := by
      subst y4
      refine Keeps.step State.setBit_keeps rfl (Keeps.step State.set_keeps rfl ?_)
      assumption
    clear_value y4
    refine Keeps.plain (x := y4) ?_ {} rfl
    assumption
  · extract_lets +onlyGivenNames y9
    have h10 : Keeps 4097 s y9 := by
      subst y9
      refine Keeps.step State.set_keeps rfl (Keeps.step State.setBit_keeps rfl ?_)
      assumption
    clear_value y9
    refine Keeps.plain (x := y9) ?_ {} rfl
    assumption

theorem execHborBankCheckDone_keeps {s : State} : KeepsOut 4097 s (execHborBankCheckDone s) := by
  unfold execHborBankCheckDone
  refine KeepsOut.next ?_
  split
  · exact State.hbCheckEnd_keeps.mono rfl
  · exact Keeps.refl

theorem State.hbRecover_keeps {s : State} {st : Nat} {seq : Nat} : Keeps 4097 s (State.hbRecover s st seq).1 := by
  unfold State.hbRecover
  extract_lets +onlyGivenNames y0 y1 y2 y3 y4
  clear_value y0 y1 y2 y3 y4
  extract_lets +onlyGivenNames y5
  subst y5
  split
  · dsimp -zeta only
    extract_lets +onlyGivenNames y7
    have h8 : Keeps 4097 s y7 := by
      subst y7
      refine Keeps.step State.addTo_keeps rfl (Keeps.step State.set_keeps rfl ?_)
      refine Keeps.step State.setBit_keeps rfl (Keeps.step State.set_keeps rfl ?_)
      exact Keeps.refl
    clear_value y7
    dsimp only
    refine Keeps.plain (x := y7) ?_ {} rfl
    assumption
  · split
    · dsimp only
      exact State.addTo_keeps.mono rfl
    · split
      · dsimp -zeta only
        extract_lets +onlyGivenNames y13
        have h14 : Keeps 4097 s y13 := by
          subst y13
          refine Keeps.step State.addTo_keeps rfl (Keeps.step State.set_keeps rfl ?_)
          refine Keeps.step State.setBit_keeps rfl (Keeps.step State.set_keeps rfl ?_)
          exact Keeps.refl
        clear_value y13
        dsimp only
        refine Keeps.plain (x := y13) ?_ {} rfl
        assumption
      · split
        · dsimp only
          exact State.addTo_keeps.mono rfl
        · dsimp -zeta only
          extract_lets +onlyGivenNames y18
          have h19 : Keeps 4097 s y18 := by
            subst y18
            refine Keeps.step State.addTo_keeps rfl (Keeps.step State.set_keeps rfl ?_)
            refine Keeps.step State.setBit_keeps rfl (Keeps.step State.set_keeps rfl ?_)
            exact Keeps.refl
          clear_value y18
          dsimp only
          refine Keeps.plain (x := y18) ?_ {} rfl
          assumption

theorem State.setHbQueue_keeps {s : State} {k : Nat} {l : List Nat} : Keeps 4096 s (State.setHbQueue s k l) := by
  unfold State.setHbQueue
  exact Keeps.plain (x := s) Keeps.refl {} rfl

theorem State.hbCopies_keeps {s : State} {fid : Nat} {tc : Nat} {a : List Nat} : Keeps 4097 s (State.hbCopies s fid tc a).1 := by
  induction a generalizing s fid tc
  · rw [State.hbCopies]
    dsimp only
    exact Keeps.refl
  · rename_i ih
    rw [State.hbCopies]
    split
    · exact Keeps.step ih rfl (State.bump_keeps.mono rfl)
    · extract_lets +onlyGivenNames y2
      have h3 : Keeps 4097 s y2.1 := by
        subst y2
        refine Keeps.step ih rfl (Keeps.step State.setHbQueue_keeps rfl ?_)
        exact Keeps.refl
      clear_value y2
      dsimp only
      assumption

theorem State.hbAdmit_keeps {s : State} {fid : Nat} {f : Frame} {i : Nat} : Keeps 4097 s (State.hbAdmit s fid f i) := by
  unfold State.hbAdmit
  extract_lets +onlyGivenNames y0
  clear_value y0
  split
  · exact State.bump_keeps.mono rfl
  · extract_lets +onlyGivenNames y3
    have h4 : Keeps 4097 s y3.1 := by
      subst y3
      exact State.hbCopies_keeps.mono rfl
    clear_value y3
    split
    · assumption
    · extract_lets +onlyGivenNames y7 y8
      clear_value y7 y8
      extract_lets +onlyGivenNames y9
      have h10 : Keeps 4097 s y9 := by
        subst y9
        assumption
      clear_value y9
      refine Keeps.plain (x := y9) ?_ {} rfl
      assumption

theorem State.hbAccept_keeps {s : State} {fid : Nat} {f : Frame} : Keeps 4097 s (State.hbAccept s fid f) := by
  unfold State.hbAccept
  extract_lets +onlyGivenNames y0
  clear_value y0
  extract_lets +onlyGivenNames y1
  have h2 : Keeps 4097 s y1 := by
    subst y1
    exact State.bump_keeps.mono rfl
  clear_value y1
  split
  · exact Keeps.step State.bump_keeps rfl (by assumption)
  · split
    · exact Keeps.step State.bump_keeps rfl (by assumption)
    · split
      · split
        · exact Keeps.step State.hbAdmit_keeps rfl (by assumption)
        · split
          · rename_i x17 x18
            have h19 : Keeps 4097 s x17 := by
              refine Keeps.of_fst ?_ x18
              exact Keeps.step State.hbRecover_keeps rfl (by assumption)
            exact Keeps.step State.hbAdmit_keeps rfl (by assumption)
          · rename_i x21 x22
            have h23 : Keeps 4097 s x21 := by
              refine Keeps.of_fst ?_ x22
              exact Keeps.step State.hbRecover_keeps rfl (by assumption)
            exact Keeps.step State.bump_keeps rfl (by assumption)
      · exact Keeps.step State.hbAdmit_keeps rfl (by assumption)

theorem execHborFrameRx_keeps {fid : Nat} {s : State} : KeepsOut 4099 s (execHborFrameRx fid s) := by
  unfold execHborFrameRx
  refine KeepsOut.next ?_
  split
  · exact Keeps.refl
  · split
    · extract_lets +onlyGivenNames y6
      have h7 : Keeps 4099 s y6 := by
        subst y6
        exact State.delFrame_keeps.mono rfl
      clear_value y6
      split
      · exact Keeps.step State.hbAccept_keeps rfl (by assumption)
      · assumption
    · exact Keeps.refl

theorem State.hbPop_keeps {s : State} {k : Nat} {fid : Nat} : Keeps 4096 s (State.hbPop s k fid) := by
  unfold State.hbPop
  extract_lets +onlyGivenNames y0
  have h1 : Keeps 4096 s y0 := by
    subst y0
    exact State.setHbQueue_keeps.mono rfl
  clear_value y0
  split
  · assumption
  · refine Keeps.plain (x := y0) ?_ {} rfl
    assumption

theorem State.hbCorrect_keeps {s : State} {h : HFrame} : Keeps 1 s (State.hbCorrect s h).1 := by
  unfold State.hbCorrect
  extract_lets +onlyGivenNames y0 y1 y2 y3
  clear_value y0 y1 y2 y3
  split
  · dsimp only
    exact Keeps.refl
  · extract_lets +onlyGivenNames y6
    clear_value y6
    split
    · dsimp only
      exact State.bump_keeps.mono rfl
    · split
      · dsimp only
        exact State.bump_keeps.mono rfl
      · extract_lets +onlyGivenNames y14 y15
        clear_value y14 y15
        dsimp only
        exact Keeps.refl

theorem State.hbSend_keeps {s : State} {p : Nat} {k : Nat} {fid : Nat} {h : HFrame} : Keeps 4097 s (State.hbSend s p k fid h) := by
  unfold State.hbSend
  extract_lets +onlyGivenNames y0
  have h1 : Keeps 4097 s y0.1 := by
    subst y0
    exact State.hbCorrect_keeps.mono rfl
  clear_value y0
  extract_lets +onlyGivenNames y2
  clear_value y2
  extract_lets +onlyGivenNames y3
  have h4 : Keeps 4097 s y3 := by
    subst y3
    refine Keeps.step State.hbPop_keeps rfl (Keeps.step State.bump_keeps rfl ?_)
    exact Keeps.step State.emit_keeps rfl (by assumption)
  clear_value y3
  extract_lets +onlyGivenNames y5
  have h6 : Keeps 4097 s y5 := by
    subst y5
    refine Keeps.step State.bump_keeps rfl (Keeps.step State.addTo_keeps rfl ?_)
    assumption
  clear_value y5
  refine Keeps.plain (x := y5) ?_ {} rfl
  assumption

theorem State.hbServe_keeps {s : State} {p : Nat} {a : List Nat} : Keeps 4097 s (State.hbServe s p a) := by
  induction a generalizing s p
  · rw [State.hbServe]
    exact Keeps.refl
  · rename_i ih
    rw [State.hbServe]
    split
    · exact ih.mono rfl
    · split
      · exact State.setHbQueue_keeps.mono rfl
      · split
        · exact ih.mono rfl
        · split
          · exact State.hbSend_keeps.mono rfl
          · extract_lets +onlyGivenNames y18 y19 y20
            clear_value y18 y19 y20
            split
            · split
              · exact Keeps.step State.hbPop_keeps rfl (State.bump_keeps.mono rfl)
              · split
                · exact State.hbSend_keeps.mono rfl
                · exact ih.mono rfl
            · split
              · exact Keeps.step State.hbPop_keeps rfl (State.bump_keeps.mono rfl)
              · split
                · exact State.hbSend_keeps.mono rfl
                · exact ih.mono rfl

theorem execHborLaunch_keeps {p : Port} {s : State} : KeepsOut 4097 s (execHborLaunch p s) := by
  unfold execHborLaunch
  refine KeepsOut.next ?_
  split
  · exact State.hbServe_keeps.mono rfl
  · exact Keeps.refl

theorem execHborDrainExpiry_keeps {s : State} : KeepsOut 4097 s (execHborDrainExpiry s) := by
  unfold execHborDrainExpiry
  refine KeepsOut.next ?_
  split
  · exact Keeps.refl
  · split
    · exact Keeps.refl
    · extract_lets +onlyGivenNames y7
      have h8 : Keeps 4097 s y7 := by
        subst y7
        exact State.addTo_keeps.mono rfl
      clear_value y7
      refine Keeps.plain (x := y7) ?_ {} rfl
      assumption

end Sys2Proof.Machine
end

