-- ==== Sys2Proof/Laws/KeepsSys.lean ====
section
/-!
SUPPORT. Laws/KeepsSys.lean: one lemma `f_keeps` for each operation `f` of the model that answers a state (modes and resets, seals and keys, and the registers):
what it may do to the state, in the terms of Laws/Keeps.lean; the mask names the parts it may change.
-/
namespace Sys2Proof.Machine
set_option Elab.async false

/-! ### Machine/Modes.lean -/

theorem State.setPaused_keeps {s : State} {mask : Nat} : Keeps 65 s (State.setPaused s mask) := by
  unfold State.setPaused
  refine Keeps.foldl ?_ ?_
  · intro z0 z1
    exact State.xoffUpdate_keeps.mono rfl
  · exact State.set_keeps.mono rfl

theorem State.pend_keeps {s : State} {target : Nat} {mask : Nat} {iss : Issuer} : Keeps 8192 s (State.pend s target mask iss) := by
  unfold State.pend
  exact Keeps.plain (x := s) Keeps.refl {} rfl

theorem State.setMode_keeps {s : State} {m : Nat} : Keeps 1 s (State.setMode s m) := by
  unfold State.setMode
  exact State.set_keeps.mono rfl

theorem State.drydockIn_keeps {s : State} : Keeps 117759 s (State.drydockIn s) := by
  unfold State.drydockIn
  extract_lets +onlyGivenNames y0
  have h1 : Keeps 117759 s y0 := by
    subst y0
    refine Keeps.foldl ?_ ?_
    · intro z2 z3
      split
      · exact State.linkDownNow_keeps.mono rfl
      · split
        · exact Keeps.refl
        · exact Keeps.step State.set_keeps rfl (State.setPortSt_keeps.mono rfl)
    · exact Keeps.refl
  clear_value y0
  exact Keeps.step State.setMode_keeps rfl (by assumption)

theorem State.emptyCounts_keeps {s : State} : Keeps 117511 s (State.emptyCounts s) := by
  unfold State.emptyCounts
  extract_lets +onlyGivenNames y0 y1
  clear_value y0 y1
  extract_lets +onlyGivenNames y2
  have h3 : Keeps 117511 s y2 := by
    subst y2
    exact Keeps.plain (x := s) Keeps.refl {} rfl
  clear_value y2
  refine Keeps.step State.retireCheck_keeps rfl (Keeps.step State.retireCheck_keeps rfl ?_)
  refine Keeps.step State.setInflight_keeps rfl (Keeps.step State.setInflight_keeps rfl ?_)
  assumption

theorem State.exitStart_keeps {s : State} {target : Nat} {iss : Issuer} : Keeps 12353 s (State.exitStart s target iss) := by
  unfold State.exitStart
  extract_lets +onlyGivenNames y0
  have h1 : Keeps 12353 s y0 := by
    subst y0
    exact State.pend_keeps.mono rfl
  clear_value y0
  extract_lets +onlyGivenNames y2
  clear_value y2
  extract_lets +onlyGivenNames y3
  have h4 : Keeps 12353 s y3 := by
    subst y3
    refine Keeps.plain (x := y0) ?_ {} rfl
    assumption
  clear_value y3
  exact Keeps.step State.setPaused_keeps rfl (by assumption)

theorem State.modeAsk_keeps {s : State} {t : Nat} {mask : Nat} {iss : Issuer} : KeepsAsk 130047 s (State.modeAsk s t mask iss) := by
  unfold State.modeAsk
  extract_lets +onlyGivenNames y0 y1
  clear_value y0 y1
  split
  · exact KeepsAsk.no
  · split
    · exact KeepsAsk.wait (Keeps.plain (x := s) Keeps.refl {} rfl)
    · split
      · split
        · split
          · exact KeepsAsk.no
          · refine KeepsAsk.done (Keeps.step State.setMode_keeps rfl (Keeps.step State.emptyCounts_keeps rfl ?_))
            exact Keeps.refl
        · split
          · refine KeepsAsk.done (Keeps.step State.setPaused_keeps rfl (Keeps.step State.setMode_keeps rfl ?_))
            exact Keeps.refl
          · exact KeepsAsk.no
      · split
        · split
          · exact KeepsAsk.done (State.drydockIn_keeps.mono rfl)
          · exact KeepsAsk.no
        · split
          · extract_lets +onlyGivenNames y19
            clear_value y19
            split
            · refine KeepsAsk.wait (Keeps.step State.pend_keeps rfl (Keeps.step State.setPaused_keeps rfl ?_))
              exact Keeps.refl
            · split
              · exact KeepsAsk.wait (State.exitStart_keeps.mono rfl)
              · exact KeepsAsk.no
          · split
            · split
              · exact KeepsAsk.no
              · exact KeepsAsk.done (State.setMode_keeps.mono rfl)
            · split
              · refine KeepsAsk.wait (Keeps.step State.pend_keeps rfl (Keeps.step State.setPaused_keeps rfl ?_))
                exact Keeps.refl
              · split
                · exact KeepsAsk.wait (State.exitStart_keeps.mono rfl)
                · exact KeepsAsk.no

theorem execSlackQuiesced_keeps {s : State} : KeepsOut 8513 s (execSlackQuiesced s) := by
  unfold execSlackQuiesced
  refine KeepsOut.next ?_
  split
  · exact Keeps.refl
  · split
    · exact Keeps.refl
    · split
      · split
        · exact Keeps.step State.settleTrans_keeps rfl (State.setMode_keeps.mono rfl)
        · exact Keeps.refl
      · split
        · refine Keeps.step State.settleTrans_keeps rfl ?_
          refine Keeps.step State.setPaused_keeps rfl (Keeps.step State.setMode_keeps rfl ?_)
          exact Keeps.refl
        · exact Keeps.refl

theorem execSlackTimeout_keeps {s : State} : KeepsOut 12609 s (execSlackTimeout s) := by
  unfold execSlackTimeout
  refine KeepsOut.next ?_
  split
  · exact Keeps.refl
  · split
    · exact Keeps.refl
    · split
      · exact Keeps.refl
      · extract_lets +onlyGivenNames y12
        clear_value y12
        extract_lets +onlyGivenNames y13
        have h14 : Keeps 12609 s y13 := by
          subst y13
          exact Keeps.plain (x := s) Keeps.refl {} rfl
        clear_value y13
        refine Keeps.step State.settleTrans_keeps rfl (Keeps.step State.setPaused_keeps rfl ?_)
        assumption

theorem State.abandonCopy_keeps {s : State} {cp : Copy} : Keeps 129 s (State.abandonCopy s cp) := by
  unfold State.abandonCopy
  extract_lets +onlyGivenNames y0
  have h1 : Keeps 129 s y0 := by
    subst y0
    exact State.bump_keeps.mono rfl
  clear_value y0
  split
  · exact Keeps.step State.txtsLose_keeps rfl (by assumption)
  · assumption

theorem State.abandonFlow_keeps {s : State} {fid : Nat} {f : Frame} : Keeps 115467 s (State.abandonFlow s fid f) := by
  unfold State.abandonFlow
  extract_lets +onlyGivenNames y0
  have h1 : Keeps 115467 s y0 := by
    subst y0
    split
    · exact State.stickyFree_keeps.mono rfl
    · exact Keeps.refl
  clear_value y0
  split
  · split
    · exact Keeps.step State.delFrame_keeps rfl (by assumption)
    · split
      · exact Keeps.step State.passSettleN_keeps rfl (Keeps.step State.delFrame_keeps rfl (by assumption))
      · exact Keeps.step State.passSettleN_keeps rfl (Keeps.step State.delFrame_keeps rfl (by assumption))
      · exact Keeps.step State.delFrame_keeps rfl (Keeps.step State.berthKill_keeps rfl (by assumption))
  · exact Keeps.step State.delFrame_keeps rfl (Keeps.step State.flowKill_keeps rfl (by assumption))

theorem State.abandon_keeps {s : State} : Keeps 117675 s (State.abandon s) := by
  unfold State.abandon
  extract_lets +onlyGivenNames y0 y1
  clear_value y0 y1
  extract_lets +onlyGivenNames y2
  have h3 : Keeps 117675 s y2 := by
    subst y2
    refine Keeps.foldl ?_ ?_
    · intro z4 z5
      exact State.abandonFlow_keeps.mono rfl
    · exact Keeps.refl
  clear_value y2
  extract_lets +onlyGivenNames y6
  have h7 : Keeps 117675 s y6 := by
    subst y6
    refine Keeps.foldl ?_ ?_
    · intro z8 z9
      split
      · exact Keeps.refl
      · exact State.abandonCopy_keeps.mono rfl
    · assumption
  clear_value y6
  extract_lets +onlyGivenNames y12
  have h13 : Keeps 117675 s y12 := by
    subst y12
    refine Keeps.foldl ?_ ?_
    · intro z14 z15
      refine Keeps.foldl ?_ ?_
      · intro z16 z17
        exact State.abandonCopy_keeps.mono rfl
      · exact Keeps.refl
    · assumption
  clear_value y12
  extract_lets +onlyGivenNames y18 y19 y20 y21 y22 y23 y24 y25 y26 y27
  clear_value y18 y19 y20 y21 y22 y23 y24 y25 y26 y27
  extract_lets +onlyGivenNames y28
  have h29 : Keeps 117675 s y28 := by
    subst y28
    refine Keeps.plain (x := y12) ?_ {} rfl
    assumption
  clear_value y28
  refine Keeps.foldl ?_ ?_
  · intro z30 z31
    exact State.set_keeps.mono rfl
  · assumption

theorem State.loopStop_keeps {s : State} {i : Nat} : Keeps 65537 s (State.loopStop s i) := by
  unfold State.loopStop
  extract_lets +onlyGivenNames y0
  have h1 : Keeps 65537 s y0 := by
    subst y0
    split
    · exact Keeps.step State.useFree_keeps rfl (State.set_keeps.mono rfl)
    · exact Keeps.refl
  clear_value y0
  exact Keeps.step State.set_keeps rfl h1

theorem State.harbourIn_keeps {s : State} : Keeps 129963 s (State.harbourIn s) := by
  unfold State.harbourIn
  extract_lets +onlyGivenNames y0
  clear_value y0
  extract_lets +onlyGivenNames y1
  have h2 : Keeps 129963 s y1 := by
    subst y1
    refine Keeps.step State.abandon_keeps rfl (Keeps.step State.settleTrans_keeps rfl ?_)
    exact Keeps.refl
  clear_value y1
  extract_lets +onlyGivenNames y3
  have h4 : Keeps 129963 s y3 := by
    subst y3
    refine Keeps.step State.set_keeps rfl (Keeps.step State.setMode_keeps rfl ?_)
    assumption
  clear_value y3
  extract_lets +onlyGivenNames y5
  have h6 : Keeps 129963 s y5 := by
    subst y5
    refine Keeps.foldl ?_ ?_
    · intro z7 z8
      split
      · exact State.holdover_keeps.mono rfl
      · exact Keeps.refl
    · assumption
  clear_value y5
  extract_lets +onlyGivenNames y11
  have h12 : Keeps 129963 s y11 := by
    subst y11
    split
    · refine Keeps.foldl ?_ ?_
      · intro z14 z15
        exact State.loopStop_keeps.mono rfl
      · exact Keeps.step State.setBit_keeps rfl (by assumption)
    · assumption
  clear_value y11
  extract_lets +onlyGivenNames y17
  have h18 : Keeps 129963 s y17 := by
    subst y17
    refine Keeps.foldl ?_ ?_
    · intro z19 z20
      exact State.setBit_keeps.mono rfl
    · assumption
  clear_value y17
  extract_lets +onlyGivenNames y21
  have h22 : Keeps 129963 s y21 := by
    subst y21
    exact Keeps.step State.setBit_keeps rfl (by assumption)
  clear_value y21
  refine Keeps.plain (x := y21) ?_ {} rfl
  assumption

theorem execHarbourEntry_keeps {s : State} : KeepsOut 129963 s (execHarbourEntry s) := by
  unfold execHarbourEntry
  refine KeepsOut.next ?_
  extract_lets +onlyGivenNames y0
  clear_value y0
  split
  · exact State.harbourIn_keeps.mono rfl
  · exact Keeps.refl

theorem State.shapersFull_keeps {s : State} : Keeps 32 s (State.shapersFull s) := by
  unfold State.shapersFull
  extract_lets +onlyGivenNames y0
  clear_value y0
  exact Keeps.plain (x := s) Keeps.refl {} rfl

theorem State.poolsEmpty_keeps {s : State} : Keeps 17 s (State.poolsEmpty s) := by
  unfold State.poolsEmpty
  extract_lets +onlyGivenNames y0
  clear_value y0
  extract_lets +onlyGivenNames y1
  have h2 : Keeps 17 s y1 := by
    subst y1
    exact Keeps.plain (x := s) Keeps.refl {} rfl
  clear_value y1
  refine Keeps.foldl ?_ ?_
  · intro z3 z4
    exact State.set_keeps.mono rfl
  · assumption

theorem State.retireNow_keeps {s : State} {g : Bool} : Keeps 117509 s (State.retireNow s g) := by
  unfold State.retireNow
  split
  · exact State.becomeShadow_keeps.mono rfl
  · exact Keeps.refl

theorem State.harbourOut_keeps {s : State} : Keeps 129911 s (State.harbourOut s) := by
  unfold State.harbourOut
  extract_lets +onlyGivenNames y0
  clear_value y0
  extract_lets +onlyGivenNames y1
  have h2 : Keeps 129911 s y1 := by
    subst y1
    refine Keeps.step State.retireNow_keeps rfl (Keeps.step State.retireNow_keeps rfl ?_)
    refine Keeps.step State.shapersFull_keeps rfl (Keeps.step State.emptyCounts_keeps rfl ?_)
    exact State.poolsEmpty_keeps.mono rfl
  clear_value y1
  extract_lets +onlyGivenNames y3
  clear_value y3
  extract_lets +onlyGivenNames y4
  have h5 : Keeps 129911 s y4 := by
    subst y4
    refine Keeps.plain (x := y1) ?_ {} rfl
    assumption
  clear_value y4
  extract_lets +onlyGivenNames y6
  have h7 : Keeps 129911 s y6 := by
    subst y6
    refine Keeps.step State.setPaused_keeps rfl (Keeps.step State.setMode_keeps rfl ?_)
    exact Keeps.step State.setBit_keeps rfl (by assumption)
  clear_value y6
  exact Keeps.step State.settleTrans_keeps rfl (by assumption)

theorem execHarbourExitComplete_keeps {s : State} : KeepsOut 129911 s (execHarbourExitComplete s) := by
  unfold execHarbourExitComplete
  refine KeepsOut.next ?_
  split
  · exact State.harbourOut_keeps.mono rfl
  · exact Keeps.refl

theorem execHarbourNAssert_keeps {s : State} : KeepsOut 12545 s (execHarbourNAssert s) := by
  unfold execHarbourNAssert
  refine KeepsOut.next (Keeps.step State.setCause_keeps rfl ?_)
  exact Keeps.step State.setBit_keeps rfl (Keeps.plain (x := s) Keeps.refl {} rfl)

theorem execHarbourNDeassert_keeps {s : State} : KeepsOut 8193 s (execHarbourNDeassert s) := by
  unfold execHarbourNDeassert
  refine KeepsOut.next (Keeps.step State.setBit_keeps rfl ?_)
  exact Keeps.plain (x := s) Keeps.refl {} rfl

theorem State.causeW1c_keeps {s : State} {v : Nat} : Keeps 1 s (State.causeW1c s v) := by
  unfold State.causeW1c
  extract_lets +onlyGivenNames y0 y1
  clear_value y0 y1
  exact State.set_keeps.mono rfl

theorem State.haltIn_keeps {s : State} : Keeps 15331 s (State.haltIn s) := by
  unfold State.haltIn
  extract_lets +onlyGivenNames y0
  have h1 : Keeps 15331 s y0 := by
    subst y0
    exact State.logHalt_keeps.mono rfl
  clear_value y0
  extract_lets +onlyGivenNames y2
  have h3 : Keeps 15331 s y2 := by
    subst y2
    exact Keeps.step State.emit_keeps rfl (by assumption)
  clear_value y2
  extract_lets +onlyGivenNames y4
  have h5 : Keeps 15331 s y4 := by
    subst y4
    exact Keeps.step State.setMode_keeps rfl (by assumption)
  clear_value y4
  extract_lets +onlyGivenNames y6
  have h7 : Keeps 15331 s y6 := by
    subst y6
    refine Keeps.foldl ?_ ?_
    · intro z8 z9
      refine Keeps.step State.setBit_keeps rfl (Keeps.step State.setBit_keeps rfl ?_)
      exact Keeps.refl
    · assumption
  clear_value y6
  extract_lets +onlyGivenNames y10
  have h11 : Keeps 15331 s y10 := by
    subst y10
    refine Keeps.foldl ?_ ?_
    · intro z12 z13
      exact State.setIdle_keeps.mono rfl
    · assumption
  clear_value y10
  extract_lets +onlyGivenNames y14
  have h15 : Keeps 15331 s y14 := by
    subst y14
    refine Keeps.step State.setBit_keeps rfl (Keeps.step State.setBit_keeps rfl ?_)
    assumption
  clear_value y14
  refine Keeps.plain (x := y14) ?_ {} rfl
  assumption

theorem execHaltEntry_keeps {s : State} : KeepsOut 15331 s (execHaltEntry s) := by
  unfold execHaltEntry
  refine KeepsOut.next ?_
  split
  · exact State.haltIn_keeps.mono rfl
  · exact Keeps.refl

theorem State.resetCore_keeps {s : State} : Keeps 458751 s s.resetCore := by
  refine ⟨rfl, List.prefix_refl _, Nat.le_refl _, fun c => ⟨?_, rfl, rfl, c.hostMem⟩, {}⟩
  show Tab.wf s.fuseRegs = true
  unfold State.fuseRegs
  extract_lets fuse pin t
  have ht : Tab.wf t = true := by
    subst t
    split
    · rfl
    · exact Tab.wf_put _ _ rfl
  split
  · exact ht
  · exact Tab.wf_put _ _ ht

theorem execResetAssert_keeps {s : State} : KeepsOut 524287 s (execResetAssert s) := by
  unfold execResetAssert
  refine KeepsOut.next (Keeps.step State.resetCore_keeps rfl ?_)
  exact Keeps.refl

theorem execResetRelease_keeps {s : State} : KeepsOut 8193 s (execResetRelease s) := by
  unfold execResetRelease
  refine KeepsOut.next ?_
  split
  · exact Keeps.step State.setMode_keeps rfl (Keeps.plain (x := s) Keeps.refl {} rfl)
  · exact Keeps.refl

theorem State.warmReset_keeps {s : State} : Keeps 524287 s (State.warmReset s) := by
  unfold State.warmReset
  extract_lets +onlyGivenNames y0
  clear_value y0
  extract_lets +onlyGivenNames y1
  have h2 : Keeps 524287 s y1 := by
    subst y1
    exact State.resetCore_keeps.mono rfl
  clear_value y1
  extract_lets +onlyGivenNames y3
  have h4 : Keeps 524287 s y3 := by
    subst y3
    refine Keeps.plain (x := y1) ?_ {} rfl
    assumption
  clear_value y3
  extract_lets +onlyGivenNames y5
  have h6 : Keeps 524287 s y5 := by
    subst y5
    split
    · assumption
    · exact Keeps.step State.set_keeps rfl (by assumption)
  clear_value y5
  refine Keeps.step State.setMode_keeps rfl (Keeps.plain (x := y5) ?_ {} rfl)
  assumption

theorem execSysReset_keeps {v : BitVec 32} {s : State} : KeepsOut 524287 s (execSysReset v s) := by
  unfold execSysReset
  refine KeepsOut.next ?_
  split
  · exact State.warmReset_keeps.mono rfl
  · exact Keeps.refl

theorem execPwrOkLoss_keeps {s : State} : KeepsOut 524287 s (execPwrOkLoss s) := by
  unfold execPwrOkLoss
  refine KeepsOut.next ?_
  split
  · exact Keeps.refl
  · exact State.resetCore_keeps.mono rfl

theorem execThermtrip_keeps {s : State} : KeepsOut 15331 s (execThermtrip s) := by
  unfold execThermtrip
  refine KeepsOut.next ?_
  extract_lets +onlyGivenNames y0
  clear_value y0
  extract_lets +onlyGivenNames y1
  have h2 : Keeps 15331 s y1 := by
    subst y1
    exact Keeps.plain (x := s) Keeps.refl {} rfl
  clear_value y1
  split
  · assumption
  · exact Keeps.step State.haltIn_keeps rfl (by assumption)

theorem execThermtripClear_keeps {s : State} : KeepsOut 8192 s (execThermtripClear s) := by
  unfold execThermtripClear
  refine KeepsOut.next ?_
  split
  · exact Keeps.plain (x := s) Keeps.refl {} rfl
  · exact Keeps.refl

theorem execDpll0Stable_keeps {s : State} : KeepsOut 129 s (execDpll0Stable s) := by
  unfold execDpll0Stable
  refine KeepsOut.next ?_
  split
  · extract_lets +onlyGivenNames y1
    clear_value y1
    extract_lets +onlyGivenNames y2
    have h3 : Keeps 129 s y2 := by
      subst y2
      exact Keeps.plain (x := s) Keeps.refl {} rfl
    clear_value y2
    refine Keeps.foldl ?_ ?_
    · intro z4 z5
      split
      · exact State.startBase_keeps.mono rfl
      · exact Keeps.refl
    · assumption
  · exact Keeps.refl

theorem State.harbourWord_keeps {s : State} {off : Nat} {v : Word} : Keeps 1 s (State.harbourWord s off v) := by
  unfold State.harbourWord
  extract_lets +onlyGivenNames y0
  subst y0
  split
  · dsimp -zeta only
    exact State.setReg_keeps.mono rfl
  · split
    · dsimp -zeta only
      exact State.setReg_keeps.mono rfl
    · split
      · dsimp -zeta only
        exact State.setReg_keeps.mono rfl
      · split
        · dsimp -zeta only
          exact State.setReg_keeps.mono rfl
        · exact Keeps.refl

theorem State.free256_keeps {s : State} : Keeps 0 s (State.free256 s).1 := by
  unfold State.free256
  dsimp only
  refine Keeps.freed (x := s) Keeps.refl {} rfl (Nat.le_add_right _ _)

theorem State.bootTask_keeps {s : State} {entry : Word} : Keeps 513 s (State.bootTask s entry) := by
  unfold State.bootTask
  extract_lets +onlyGivenNames y0
  have h1 : Keeps 513 s y0 := by
    subst y0
    exact State.setTask_keeps.mono rfl
  clear_value y0
  extract_lets +onlyGivenNames y2
  clear_value y2
  extract_lets +onlyGivenNames y3
  have h4 : Keeps 513 s y3 := by
    subst y3
    exact Keeps.step State.setTcore_keeps rfl (by assumption)
  clear_value y3
  extract_lets +onlyGivenNames y5
  have h6 : Keeps 513 s y5 := by
    subst y5
    refine Keeps.step State.set_keeps rfl (Keeps.step State.set_keeps rfl ?_)
    assumption
  clear_value y5
  refine Keeps.step State.setBit_keeps rfl (Keeps.step State.set_keeps rfl ?_)
  assumption

theorem execBootComplete_keeps {b : BootReport} {s : State} : KeepsOut 129963 s (execBootComplete b s) := by
  unfold execBootComplete
  refine KeepsOut.next ?_
  split
  · extract_lets +onlyGivenNames y1
    have h2 : Keeps 129963 s y1 := by
      subst y1
      refine Keeps.step State.set_keeps rfl (Keeps.step State.set_keeps rfl ?_)
      exact State.setBit_keeps.mono rfl
    clear_value y1
    extract_lets +onlyGivenNames y3
    have h4 : Keeps 129963 s y3 := by
      subst y3
      refine Keeps.mem (x := y1) ?_ {} rfl id (Memory.wf_sets _) id id
      assumption
    clear_value y3
    extract_lets +onlyGivenNames y5
    have h6 : Keeps 129963 s y5 := by
      subst y5
      split
      · extract_lets +onlyGivenNames y10
        have h11 : Keeps 129963 s y10 := by
          subst y10
          refine Keeps.foldl ?_ ?_
          · intro z12 z13
            exact State.harbourWord_keeps.mono rfl
          · assumption
        clear_value y10
        split
        · refine Keeps.plain (x := y10) ?_ {} rfl
          assumption
        · assumption
      · assumption
    clear_value y5
    extract_lets +onlyGivenNames y18
    have h19 : Keeps 129963 s y18.1 := by
      subst y18
      exact Keeps.step State.free256_keeps rfl (by assumption)
    clear_value y18
    extract_lets +onlyGivenNames y20
    clear_value y20
    extract_lets +onlyGivenNames y21
    have h22 : Keeps 129963 s y21 := by
      subst y21
      assumption
    clear_value y21
    extract_lets +onlyGivenNames y23
    clear_value y23
    extract_lets +onlyGivenNames y24
    have h25 : Keeps 129963 s y24 := by
      subst y24
      refine Keeps.step State.useFree_keeps rfl (Keeps.plain (x := y21) ?_ {} rfl)
      assumption
    clear_value y24
    extract_lets +onlyGivenNames y26
    have h27 : Keeps 129963 s y26 := by
      subst y26
      refine Keeps.step State.bootTask_keeps rfl (Keeps.step State.setBit_keeps rfl ?_)
      assumption
    clear_value y26
    extract_lets +onlyGivenNames y28
    have h29 : Keeps 129963 s y28 := by
      subst y28
      exact Keeps.step State.ch0Sync_keeps rfl (by assumption)
    clear_value y28
    extract_lets +onlyGivenNames y30
    have h31 : Keeps 129963 s y30 := by
      subst y30
      split
      · refine Keeps.step State.harbourIn_keeps rfl ?_
        refine Keeps.step State.set_keeps rfl (Keeps.step State.setBit_keeps rfl ?_)
        exact Keeps.step State.setMode_keeps rfl (by assumption)
      · exact Keeps.step State.setMode_keeps rfl (by assumption)
    clear_value y30
    exact Keeps.step State.bellsGo_keeps rfl (by assumption)
  · exact Keeps.refl

theorem execBootError_keeps {code : BitVec 3} {s : State} : KeepsOut 15331 s (execBootError code s) := by
  unfold execBootError
  refine KeepsOut.next ?_
  split
  · exact Keeps.step State.haltIn_keeps rfl (State.set_keeps.mono rfl)
  · exact Keeps.refl

/-! ### Machine/Seal.lean -/

theorem State.sealFeed_keeps {s : State} {u : Nat} {l : List Byte} : Keeps 1 s (State.sealFeed s u l) := by
  unfold State.sealFeed
  exact State.set_keeps.mono rfl

theorem State.sealStart_keeps {s : State} {u : Nat} : Keeps 1 s (State.sealStart s u) := by
  unfold State.sealStart
  split
  · exact State.set_keeps.mono rfl
  · exact Keeps.refl

theorem State.sealEnd_keeps {s : State} {u : Nat} : Keeps 1 s (State.sealEnd s u) := by
  unfold State.sealEnd
  split
  · exact Keeps.step State.set_keeps rfl (State.sealFeed_keeps.mono rfl)
  · exact Keeps.refl

theorem State.sealWord_keeps {s : State} {u : Nat} {v : Word} : Keeps 1 s (State.sealWord s u v) := by
  unfold State.sealWord
  split
  · exact State.sealFeed_keeps.mono rfl
  · exact Keeps.refl

theorem State.sealReset_keeps {s : State} {u : Nat} : Keeps 1 s (State.sealReset s u) := by
  unfold State.sealReset
  refine Keeps.step State.setBit_keeps rfl (Keeps.step State.set_keeps rfl ?_)
  exact State.set_keeps.mono rfl

theorem State.sealPartial_keeps {s : State} {u : Nat} : Keeps 1 s (State.sealPartial s u) := by
  unfold State.sealPartial
  split
  · exact Keeps.step State.useFree_keeps rfl (State.sealFeed_keeps.mono rfl)
  · exact Keeps.refl

theorem State.sealFinal_keeps {s : State} {u : Nat} : Keeps 117505 s (State.sealFinal s u) := by
  unfold State.sealFinal
  extract_lets +onlyGivenNames y0
  have h1 : Keeps 117505 s y0 := by
    subst y0
    exact State.sealPartial_keeps.mono rfl
  clear_value y0
  extract_lets +onlyGivenNames y2
  have h3 : Keeps 117505 s y2 := by
    subst y2
    split
    · exact Keeps.step State.sealFeed_keeps rfl (by assumption)
    · assumption
  clear_value y2
  extract_lets +onlyGivenNames y6
  clear_value y6
  extract_lets +onlyGivenNames y7
  have h8 : Keeps 117505 s y7 := by
    subst y7
    refine Keeps.step State.set_keeps rfl (Keeps.step State.set_keeps rfl ?_)
    assumption
  clear_value y7
  split
  · exact Keeps.step State.rasEvent_keeps rfl (Keeps.step State.setBit_keeps rfl (by assumption))
  · assumption

theorem State.sealRestore_keeps {s : State} {u : Nat} {v : Word} : Keeps 1 s (State.sealRestore s u v) := by
  unfold State.sealRestore
  split
  · exact State.set_keeps.mono rfl
  · exact Keeps.refl

theorem execSealStart_keeps {u : SealUnit} {s : State} : KeepsOut 1 s (execSealStart u s) := by
  unfold execSealStart
  refine KeepsOut.next ?_
  split
  · exact State.sealStart_keeps.mono rfl
  · exact Keeps.refl

theorem execSealRangeDone_keeps {u : SealUnit} {s : State} : KeepsOut 1 s (execSealRangeDone u s) := by
  unfold execSealRangeDone
  refine KeepsOut.next (Keeps.step State.sealEnd_keeps rfl ?_)
  exact Keeps.refl

theorem execSealData_keeps {u : SealUnit} {v : Word} {s : State} : KeepsOut 1 s (execSealData u v s) := by
  unfold execSealData
  refine KeepsOut.next ?_
  split
  · exact State.sealWord_keeps.mono rfl
  · exact Keeps.refl

theorem execSealFinal_keeps {u : SealUnit} {s : State} : KeepsOut 117505 s (execSealFinal u s) := by
  unfold execSealFinal
  refine KeepsOut.next ?_
  split
  · exact State.sealFinal_keeps.mono rfl
  · exact Keeps.refl

theorem execSealReset_keeps {u : SealUnit} {s : State} : KeepsOut 1 s (execSealReset u s) := by
  unfold execSealReset
  refine KeepsOut.next ?_
  split
  · exact State.sealReset_keeps.mono rfl
  · exact Keeps.refl

theorem execSealRunningWrite_keeps {u : SealUnit} {v : Word} {s : State} : KeepsOut 1 s (execSealRunningWrite u v s) := by
  unfold execSealRunningWrite
  refine KeepsOut.next ?_
  split
  · exact State.sealRestore_keeps.mono rfl
  · exact Keeps.refl

/-! ### Machine/Sec.lean -/

theorem State.mcheckFree_keeps {s : State} {k : Nat} : Keeps 130817 s (State.mcheckFree s k) := by
  unfold State.mcheckFree
  extract_lets +onlyGivenNames y0
  clear_value y0
  extract_lets +onlyGivenNames y1
  have h2 : Keeps 130817 s y1 := by
    subst y1
    exact State.useFree_keeps.mono rfl
  clear_value y1
  extract_lets +onlyGivenNames y3
  clear_value y3
  refine Keeps.step State.mcheck_keeps rfl (Keeps.step State.useFree_keeps rfl ?_)
  assumption

theorem State.ownerSync_keeps {s : State} : Keeps 1 s (State.ownerSync s) := by
  unfold State.ownerSync
  exact State.set_keeps.mono rfl

theorem State.fuse_keeps {m : Nat} (hm : 1 ||| m = m) {s : State} {fn : Nat} {ok : Bool} {act : State → State}
    (h : ∀ z, Keeps m z (act z)) : Keeps m s (s.fuse fn ok act) := by
  unfold State.fuse
  split
  · exact Keeps.refl
  · split
    · exact h s
    · exact State.bump_keeps.mono (Same.sub rfl hm)

theorem State.arbAsk_keeps {s : State} {fn : Nat} {v : BitVec 32} : Keeps 1 s (State.arbAsk s fn v) := by
  unfold State.arbAsk
  extract_lets +onlyGivenNames y0 y1 y2 y3 y4
  clear_value y0 y1 y2 y3 y4
  refine Keeps.step (State.fuse_keeps (m := 1) rfl ?_) rfl ?_
  · intro z5
    refine Keeps.step State.set_keeps rfl (Keeps.step State.set_keeps rfl ?_)
    exact Keeps.refl
  · exact Keeps.refl

theorem execSecArbAdvance_keeps {fn : Fn} {v : BitVec 32} {s : State} : KeepsOut 1 s (execSecArbAdvance fn v s) := by
  unfold execSecArbAdvance
  refine KeepsOut.next (Keeps.step State.arbAsk_keeps rfl ?_)
  exact Keeps.refl

theorem State.ownerProgram_keeps {s : State} {hash : BitVec 256} {slot : Bool} : Keeps 8193 s (State.ownerProgram s hash slot) := by
  unfold State.ownerProgram
  refine Keeps.step State.ownerSync_keeps rfl ?_
  split
  · exact Keeps.plain (x := s) Keeps.refl {} rfl
  · exact Keeps.plain (x := s) Keeps.refl {} rfl

theorem State.ownerAsk_keeps {s : State} {fn : Nat} {hash : BitVec 256} {slot : Bool} : Keeps 8193 s (State.ownerAsk s fn hash slot) := by
  unfold State.ownerAsk
  refine Keeps.step (State.fuse_keeps (m := 8193) rfl ?_) rfl ?_
  · intro z0
    exact State.ownerProgram_keeps.mono rfl
  · exact Keeps.refl

theorem State.revokeAsk_keeps {s : State} {fn : Nat} : Keeps 8193 s (State.revokeAsk s fn) := by
  unfold State.revokeAsk
  refine Keeps.step (State.fuse_keeps (m := 8193) rfl ?_) rfl ?_
  · intro z0
    exact Keeps.step State.ownerSync_keeps rfl (Keeps.plain (x := z0) Keeps.refl {} rfl)
  · exact Keeps.refl

theorem State.lockAsk_keeps {s : State} {fn : Nat} : Keeps 1 s (State.lockAsk s fn) := by
  unfold State.lockAsk
  refine Keeps.step (State.fuse_keeps (m := 1) rfl ?_) rfl ?_
  · intro z0
    exact State.setBit_keeps.mono rfl
  · exact Keeps.refl

theorem execOwnerSlotProgram_keeps {fn : Fn} {hash : BitVec 256} {slot : Bool} {s : State} : KeepsOut 8193 s (execOwnerSlotProgram fn hash slot s) := by
  unfold execOwnerSlotProgram
  refine KeepsOut.next (Keeps.step State.ownerAsk_keeps rfl ?_)
  exact Keeps.refl

theorem execOwnerRevoke_keeps {fn : Fn} {s : State} : KeepsOut 8193 s (execOwnerRevoke fn s) := by
  unfold execOwnerRevoke
  refine KeepsOut.next (Keeps.step State.revokeAsk_keeps rfl ?_)
  exact Keeps.refl

theorem execDebugLock_keeps {fn : Fn} {s : State} : KeepsOut 1 s (execDebugLock fn s) := by
  unfold execDebugLock
  refine KeepsOut.next (Keeps.step State.lockAsk_keeps rfl ?_)
  exact Keeps.refl

theorem execDebugOpen_keeps {s : State} : KeepsOut 8193 s (execDebugOpen s) := by
  unfold execDebugOpen
  refine KeepsOut.next ?_
  split
  · exact Keeps.refl
  · exact Keeps.step State.setBit_keeps rfl (Keeps.plain (x := s) Keeps.refl {} rfl)

theorem State.attestStart_keeps {s : State} : Keeps 8193 s (State.attestStart s) := by
  unfold State.attestStart
  split
  · exact Keeps.refl
  · exact Keeps.step State.setBit_keeps rfl (Keeps.plain (x := s) Keeps.refl {} rfl)

theorem execAttestationStart_keeps {s : State} : KeepsOut 8193 s (execAttestationStart s) := by
  unfold execAttestationStart
  refine KeepsOut.next ?_
  split
  · exact State.attestStart_keeps.mono rfl
  · exact Keeps.refl

theorem execAttestationDone_keeps {s : State} : KeepsOut 40961 s (execAttestationDone s) := by
  unfold execAttestationDone
  refine KeepsOut.next ?_
  split
  · exact Keeps.refl
  · extract_lets +onlyGivenNames y2 y3 y4
    clear_value y2 y3 y4
    extract_lets +onlyGivenNames y5
    have h6 : Keeps 40961 s y5 := by
      subst y5
      refine Keeps.step State.setBit_keeps rfl (Keeps.step State.setBit_keeps rfl ?_)
      exact Keeps.plain (x := s) Keeps.refl {} rfl
    clear_value y5
    split
    · exact Keeps.step State.set_keeps rfl (by assumption)
    · split
      · refine Keeps.step State.set_keeps rfl (Keeps.mem (x := y5) ?_ {} rfl id id (Memory.wf_setBytes _ _) id)
        assumption
      · exact Keeps.step State.useFree_keeps rfl (Keeps.step State.set_keeps rfl (by assumption))

theorem execTempAlarm_keeps {die : BitVec 8} {hbm : BitVec 8} {s : State} : KeepsOut 1 s (execTempAlarm die hbm s) := by
  unfold execTempAlarm
  refine KeepsOut.next ?_
  extract_lets +onlyGivenNames y0
  have h1 : Keeps 1 s y0 := by
    subst y0
    refine Keeps.step State.set_keeps rfl (Keeps.step State.set_keeps rfl ?_)
    exact Keeps.refl
  clear_value y0
  extract_lets +onlyGivenNames y2
  have h3 : Keeps 1 s y2 := by
    subst y2
    split
    · exact Keeps.step State.useFree_keeps rfl (Keeps.step State.set_keeps rfl (by assumption))
    · exact Keeps.step State.set_keeps rfl (by assumption)
  clear_value y2
  extract_lets +onlyGivenNames y6
  clear_value y6
  extract_lets +onlyGivenNames y7
  have h8 : Keeps 1 s y7 := by
    subst y7
    split
    · exact Keeps.step State.emit_keeps rfl (Keeps.step State.setBit_keeps rfl (by assumption))
    · assumption
  clear_value y7
  split
  · assumption
  · split
    · exact Keeps.step State.setBit_keeps rfl (by assumption)
    · split
      · exact Keeps.step State.setBit_keeps rfl (by assumption)
      · assumption

theorem State.avsAnswer_keeps {s : State} {next : Nat} {acked : Bool} : Keeps 8193 s (State.avsAnswer s next acked) := by
  unfold State.avsAnswer
  split
  · exact Keeps.step State.set_keeps rfl (Keeps.plain (x := s) Keeps.refl {} rfl)
  · split
    · refine Keeps.step State.emit_keeps rfl ?_
      exact Keeps.step State.setBit_keeps rfl (Keeps.plain (x := s) Keeps.refl {} rfl)
    · exact Keeps.plain (x := s) Keeps.refl {} rfl

theorem execAvsCommand_keeps {target : BitVec 5} {acked : Bool} {s : State} : KeepsOut 8193 s (execAvsCommand target acked s) := by
  unfold execAvsCommand
  refine KeepsOut.next ?_
  extract_lets +onlyGivenNames y0 y1
  clear_value y0 y1
  split
  · exact Keeps.refl
  · refine Keeps.step State.avsAnswer_keeps rfl ?_
    exact Keeps.step State.emit_keeps rfl (Keeps.plain (x := s) Keeps.refl {} rfl)

theorem execHbmStackLost_keeps {st : Fin 4} {arg1 : Bool} {s : State} : KeepsOut 130817 s (execHbmStackLost st arg1 s) := by
  unfold execHbmStackLost
  refine KeepsOut.next ?_
  split
  · exact Keeps.refl
  · extract_lets +onlyGivenNames y2
    have h3 : Keeps 130817 s y2 := by
      subst y2
      exact State.set_keeps.mono rfl
    clear_value y2
    refine Keeps.step State.setCause_keeps rfl (Keeps.step State.mcheckFree_keeps rfl ?_)
    exact Keeps.step State.logStop_keeps rfl (by assumption)

theorem execCryptoSelfTestFail_keeps {s : State} : KeepsOut 130817 s (execCryptoSelfTestFail s) := by
  unfold execCryptoSelfTestFail
  refine KeepsOut.next ?_
  split
  · exact Keeps.refl
  · extract_lets +onlyGivenNames y2 y3
    clear_value y2 y3
    extract_lets +onlyGivenNames y4
    have h5 : Keeps 130817 s y4 := by
      subst y4
      exact Keeps.plain (x := s) Keeps.refl {} rfl
    clear_value y4
    refine Keeps.step State.mcheck_keeps rfl (Keeps.step State.useFree_keeps rfl ?_)
    assumption

theorem execSealStormTick_keeps {s : State} : KeepsOut 130817 s (execSealStormTick s) := by
  unfold execSealStormTick
  refine KeepsOut.next ?_
  extract_lets +onlyGivenNames y0 y1 y2
  clear_value y0 y1 y2
  extract_lets +onlyGivenNames y3
  have h4 : Keeps 130817 s y3 := by
    subst y3
    exact Keeps.plain (x := s) Keeps.refl {} rfl
  clear_value y3
  split
  · exact Keeps.step State.mcheckFree_keeps rfl (by assumption)
  · assumption

theorem execCorrRateTick_keeps {s : State} : KeepsOut 125697 s (execCorrRateTick s) := by
  unfold execCorrRateTick
  refine KeepsOut.next ?_
  extract_lets +onlyGivenNames y0 y1
  clear_value y0 y1
  extract_lets +onlyGivenNames y2
  have h3 : Keeps 125697 s y2 := by
    subst y2
    exact Keeps.plain (x := s) Keeps.refl {} rfl
  clear_value y2
  refine Keeps.foldl ?_ ?_
  · intro z4 z5
    split
    · extract_lets +onlyGivenNames y7
      clear_value y7
      extract_lets +onlyGivenNames y8
      have h9 : Keeps 125697 z4 y8 := by
        subst y8
        exact State.useFree_keeps.mono rfl
      clear_value y8
      refine Keeps.step State.rasEvent_keeps rfl (Keeps.step State.useFree_keeps rfl ?_)
      assumption
    · exact Keeps.refl
  · assumption

theorem State.bistWrite_keeps {s : State} {v : Nat} : Keeps 1 s (State.bistWrite s v) := by
  unfold State.bistWrite
  split
  · exact Keeps.refl
  · extract_lets +onlyGivenNames y2
    have h3 : Keeps 1 s y2 := by
      subst y2
      exact State.set_keeps.mono rfl
    clear_value y2
    split
    · exact Keeps.step State.setBit_keeps rfl (by assumption)
    · assumption

theorem State.dropReg_keeps {s : State} {r : Reg} : Keeps 1 s (State.dropReg s r) := by
  unfold State.dropReg
  refine Keeps.mem (x := s) Keeps.refl {} rfl (Tab.wf_filter _) id id id

theorem State.bistZero_keeps {s : State} {k : Nat} : Keeps 21277 s (State.bistZero s k) := by
  unfold State.bistZero
  split
  · exact Keeps.plain (x := s) Keeps.refl {} rfl
  · extract_lets +onlyGivenNames y2
    subst y2
    exact Keeps.plain (x := s) Keeps.refl {} rfl
  · exact Keeps.plain (x := s) Keeps.refl {} rfl
  · refine Keeps.mem (x := s) Keeps.refl {} rfl id (fun _ => rfl) id id
  · extract_lets +onlyGivenNames y6
    have h7 : Keeps 21277 s y6 := by
      subst y6
      refine Keeps.step State.dropReg_keeps rfl (Keeps.step State.dropReg_keeps rfl ?_)
      exact State.dropReg_keeps.mono rfl
    clear_value y6
    refine Keeps.plain (x := y6) ?_ {} rfl
    assumption
  · exact Keeps.plain (x := s) Keeps.refl {} rfl

theorem execDrydockBistStart_keeps {v : BitVec 32} {s : State} : KeepsOut 1 s (execDrydockBistStart v s) := by
  unfold execDrydockBistStart
  refine KeepsOut.next (Keeps.step State.bistWrite_keeps rfl ?_)
  exact Keeps.refl

theorem execDrydockBistDone_keeps {fail : BitVec 6} {s : State} : KeepsOut 21277 s (execDrydockBistDone fail s) := by
  unfold execDrydockBistDone
  refine KeepsOut.next ?_
  split
  · exact Keeps.refl
  · extract_lets +onlyGivenNames y2
    clear_value y2
    extract_lets +onlyGivenNames y3
    have h4 : Keeps 21277 s y3 := by
      subst y3
      refine Keeps.step State.set_keeps rfl (Keeps.step State.setBit_keeps rfl ?_)
      exact Keeps.refl
    clear_value y3
    refine Keeps.foldl ?_ ?_
    · intro z5 z6
      split
      · exact State.bistZero_keeps.mono rfl
      · exact Keeps.refl
    · assumption

/-! ### Machine/RegRead.lean -/

theorem State.clearRc_keeps {s : State} {r : Reg} {i : Nat} : Keeps 33 s (State.clearRc s r i) := by
  unfold State.clearRc
  extract_lets +onlyGivenNames y0 y1
  clear_value y0 y1
  extract_lets +onlyGivenNames y2
  have h3 : Keeps 33 s y2 := by
    subst y2
    split
    · exact Keeps.plain (x := s) Keeps.refl {} rfl
    · exact Keeps.refl
  clear_value y2
  split
  · assumption
  · exact Keeps.step State.setReg_keeps rfl (by assumption)

theorem State.latSnap_keeps {s : State} {k : Nat} : Keeps 1 s (State.latSnap s k) := by
  unfold State.latSnap
  extract_lets +onlyGivenNames y0
  clear_value y0
  extract_lets +onlyGivenNames y1
  have h2 : Keeps 1 s y1 := by
    subst y1
    exact State.setReg_keeps.mono rfl
  clear_value y1
  extract_lets +onlyGivenNames y3
  have h4 : Keeps 1 s y3 := by
    subst y3
    refine Keeps.step State.set_keeps rfl (Keeps.step State.set_keeps rfl ?_)
    exact Keeps.step State.set_keeps rfl (by assumption)
  clear_value y3
  refine Keeps.foldl ?_ ?_
  · intro z5 z6
    exact State.set_keeps.mono rfl
  · assumption

theorem State.drawReg_keeps {s : State} {r : Reg} {i : Nat} {b : Nat} {n : Nat} {master : Nat} : Keeps 117633 s (State.drawReg s r i b n master).1 := by
  unfold State.drawReg
  split
  · extract_lets +onlyGivenNames y3
    clear_value y3
    split
    · extract_lets +onlyGivenNames y5
      clear_value y5
      dsimp only
      exact Keeps.plain (x := s) Keeps.refl {} rfl
    · dsimp only
      exact Keeps.refl
  · split
    · extract_lets +onlyGivenNames y10 y11
      clear_value y10 y11
      extract_lets +onlyGivenNames y12
      have h13 : Keeps 117633 s y12 := by
        subst y12
        split
        · exact Keeps.plain (x := s) Keeps.refl {} rfl
        · exact Keeps.refl
      clear_value y12
      extract_lets +onlyGivenNames y16
      clear_value y16
      extract_lets +onlyGivenNames y17
      have h18 : Keeps 117633 s y17 := by
        subst y17
        split
        · exact Keeps.step State.txtsPop_keeps rfl (by assumption)
        · assumption
      clear_value y17
      dsimp only
      assumption
    · split
      · extract_lets +onlyGivenNames y23
        have h24 : Keeps 117633 s y23 := by
          subst y23
          exact State.latSnap_keeps.mono rfl
        clear_value y23
        dsimp only
        assumption
      · split
        · dsimp only
          exact State.useFree_keeps.mono rfl
        · split
          · dsimp only
            exact State.useFree_keeps.mono rfl
          · dsimp only
            exact Keeps.refl

theorem State.regRead_keeps {s : State} {off : Nat} {n : Nat} {master : Nat} : Keeps 117665 s (State.regRead s off n master).1 := by
  unfold State.regRead
  split
  · dsimp only
    exact Keeps.refl
  · extract_lets +onlyGivenNames y7
    have h8 : Keeps 117665 s y7.1 := by
      subst y7
      exact State.drawReg_keeps.mono rfl
    clear_value y7
    extract_lets +onlyGivenNames y9
    clear_value y9
    dsimp only
    exact Keeps.step State.clearRc_keeps rfl (by assumption)

theorem State.hostRegRead_keeps {s : State} {off : Nat} {n : Nat} : Keeps 117665 s (State.hostRegRead s off n) := by
  unfold State.hostRegRead
  extract_lets +onlyGivenNames y0
  have h1 : Keeps 117665 s y0.1 := by
    subst y0
    exact State.regRead_keeps.mono rfl
  clear_value y0
  exact Keeps.step State.emit_keeps rfl (by assumption)

theorem execCounterReadClear_keeps {off : BitVec 26} {s : State} : KeepsOut 117665 s (execCounterReadClear off s) := by
  unfold execCounterReadClear
  refine KeepsOut.next ?_
  split
  · exact State.hostRegRead_keeps.mono rfl
  · exact Keeps.refl

theorem execTmLatCountRead_keeps {n : Fin 64} {s : State} : KeepsOut 117665 s (execTmLatCountRead n s) := by
  unfold execTmLatCountRead
  refine KeepsOut.next ?_
  split
  · exact State.hostRegRead_keeps.mono rfl
  · exact Keeps.refl

theorem execTimeNowRead_keeps {master : BitVec 8} {b : Option TBase} {s : State} : KeepsOut 117665 s (execTimeNowRead master b s) := by
  unfold execTimeNowRead
  refine KeepsOut.next ?_
  split
  · extract_lets +onlyGivenNames y1
    clear_value y1
    extract_lets +onlyGivenNames y2
    have h3 : Keeps 117665 s y2.1 := by
      subst y2
      exact State.regRead_keeps.mono rfl
    clear_value y2
    split
    · exact Keeps.step State.emit_keeps rfl (by assumption)
    · assumption
  · exact Keeps.refl

theorem execTxtsDataRead_keeps {p : Port} {word : Fin 4} {s : State} : KeepsOut 117665 s (execTxtsDataRead p word s) := by
  unfold execTxtsDataRead
  refine KeepsOut.next ?_
  split
  · exact State.hostRegRead_keeps.mono rfl
  · exact Keeps.refl

/-! ### Machine/RegWrite.lean -/

theorem State.pgAll_keeps {s : State} : Keeps 81 s (State.pgAll s) := by
  unfold State.pgAll
  refine Keeps.foldl ?_ ?_
  · intro z0 z1
    exact State.pgCheck_keeps.mono rfl
  · exact Keeps.refl

theorem State.pmcShadow_keeps {s : State} : Keeps 1 s (State.pmcShadow s) := by
  unfold State.pmcShadow
  refine Keeps.foldl ?_ ?_
  · intro z0 z1
    exact State.setReg_keeps.mono rfl
  · exact Keeps.refl

theorem State.unfence_keeps {s : State} {e : Nat} : Keeps 257 s (State.unfence s e) := by
  unfold State.unfence
  extract_lets +onlyGivenNames y0
  clear_value y0
  extract_lets +onlyGivenNames y1
  have h2 : Keeps 257 s y1 := by
    subst y1
    exact Keeps.plain (x := s) Keeps.refl {} rfl
  clear_value y1
  extract_lets +onlyGivenNames y3
  clear_value y3
  refine Keeps.step State.set_keeps rfl (Keeps.step State.setBit_keeps rfl ?_)
  assumption

theorem State.ledgerNew_keeps {s : State} : Keeps 9 s (State.ledgerNew s) := by
  unfold State.ledgerNew
  extract_lets +onlyGivenNames y0 y1
  clear_value y0 y1
  extract_lets +onlyGivenNames y2
  have h3 : Keeps 9 s y2 := by
    subst y2
    exact Keeps.plain (x := s) Keeps.refl {} rfl
  clear_value y2
  refine Keeps.step State.useFree_keeps rfl (Keeps.step State.set_keeps rfl ?_)
  exact Keeps.step State.set_keeps rfl (by assumption)

theorem State.wAct_keeps {s : State} {t : State} {r : Reg} {i : Nat} {raw : RegVal} : Keeps 130047 t (State.wAct s t r i raw) := by
  unfold State.wAct
  split
  · split
    · exact Keeps.plain (x := t) Keeps.refl {} rfl
    · exact Keeps.refl
  · exact Keeps.plain (x := t) Keeps.refl {} rfl
  · exact Keeps.plain (x := t) Keeps.refl {} rfl
  · split
    · exact Keeps.refl
    · exact Keeps.plain (x := t) Keeps.refl {} rfl
  · exact State.ledgerNew_keeps.mono rfl
  · exact State.pgAll_keeps.mono rfl
  · exact State.pgAll_keeps.mono rfl
  · refine Keeps.step State.pgAll_keeps rfl ?_
    refine Keeps.step State.xoffUpdate_keeps rfl (Keeps.step State.pgCheck_keeps rfl ?_)
    exact Keeps.refl
  · refine Keeps.step State.pgAll_keeps rfl ?_
    refine Keeps.step State.xoffUpdate_keeps rfl (Keeps.step State.pgCheck_keeps rfl ?_)
    exact Keeps.refl
  · exact State.shaperChange_keeps.mono rfl
  · split
    · exact Keeps.refl
    · exact Keeps.plain (x := t) Keeps.refl {} rfl
  · exact Keeps.step State.latSnap_keeps rfl (Keeps.plain (x := t) Keeps.refl {} rfl)
  · extract_lets +onlyGivenNames y19
    clear_value y19
    split
    · split
      · exact State.linkDownNow_keeps.mono rfl
      · exact Keeps.step State.set_keeps rfl (State.setPortSt_keeps.mono rfl)
    · exact Keeps.refl
  · extract_lets +onlyGivenNames y25
    clear_value y25
    split
    · exact State.setBit_keeps.mono rfl
    · split
      · extract_lets +onlyGivenNames y29
        clear_value y29
        extract_lets +onlyGivenNames y30
        have h31 : Keeps 130047 t y30 := by
          subst y30
          exact State.setPortSt_keeps.mono rfl
        clear_value y30
        split
        · exact Keeps.step State.setBit_keeps rfl (by assumption)
        · assumption
      · exact Keeps.refl
  · split
    · exact Keeps.refl
    · split
      · exact State.startBase_keeps.mono rfl
      · exact State.stopBase_keeps.mono rfl
  · exact State.dpllSelect_keeps.mono rfl
  · exact State.dpllSelect_keeps.mono rfl
  · exact State.ch0Written_keeps.mono rfl
  · exact State.ch0Written_keeps.mono rfl
  · exact State.ch0Written_keeps.mono rfl
  · split
    · exact State.unfence_keeps.mono rfl
    · exact Keeps.refl
  · exact State.setTport_keeps.mono rfl
  · split
    · exact Keeps.plain (x := t) Keeps.refl {} rfl
    · exact Keeps.refl
  · split
    · exact Keeps.refl
    · exact Keeps.plain (x := t) Keeps.refl {} rfl
  · split
    · exact Keeps.plain (x := t) Keeps.refl {} rfl
    · exact Keeps.refl
  · split
    · exact State.pmcShadow_keeps.mono rfl
    · exact Keeps.refl
  · split
    · exact Keeps.refl
    · exact Keeps.step State.set_keeps rfl (State.set_keeps.mono rfl)
  · exact State.set_keeps.mono rfl
  · split
    · exact Keeps.refl
    · split
      · exact State.set_keeps.mono rfl
      · exact State.set_keeps.mono rfl
  · split
    · exact Keeps.refl
    · split
      · split
        · exact State.driveUp_keeps.mono rfl
        · exact Keeps.refl
      · split
        · exact State.set_keeps.mono rfl
        · exact Keeps.refl
  · split
    · exact Keeps.refl
    · exact Keeps.step State.hbCheckStart_keeps rfl (State.set_keeps.mono rfl)
  · exact Keeps.plain (x := t) Keeps.refl {} rfl
  · exact Keeps.plain (x := t) Keeps.refl {} rfl
  · exact Keeps.plain (x := t) Keeps.refl {} rfl
  · exact Keeps.plain (x := t) Keeps.refl {} rfl
  · split
    · exact State.attestStart_keeps.mono rfl
    · exact Keeps.refl
  · split
    · exact Keeps.step State.useFree_keeps rfl (State.set_keeps.mono rfl)
    · exact Keeps.refl
  · exact Keeps.refl

theorem State.wFuse_keeps {s : State} {fn : Nat} {r : Reg} {m : RegVal} {v : RegVal} : Keeps 8193 s (State.wFuse s fn r m v) := by
  unfold State.wFuse
  split
  · exact State.arbAsk_keeps.mono rfl
  · extract_lets +onlyGivenNames y2
    have h3 : Keeps 8193 s y2 := by
      subst y2
      split
      · exact State.setReg_keeps.mono rfl
      · exact Keeps.refl
    clear_value y2
    split
    · split
      · exact Keeps.step State.lockAsk_keeps rfl (by assumption)
      · split
        · exact Keeps.step State.revokeAsk_keeps rfl (by assumption)
        · exact Keeps.step State.ownerAsk_keeps rfl (by assumption)
    · assumption

theorem State.wSealCtl_keeps {s : State} {u : Nat} {v : RegVal} : KeepsWrote 117505 s (State.wSealCtl s u v) := by
  unfold State.wSealCtl
  extract_lets +onlyGivenNames y0
  have h1 : Keeps 117505 s y0 := by
    subst y0
    split
    · exact State.sealReset_keeps.mono rfl
    · exact Keeps.refl
  clear_value y0
  split
  · exact KeepsWrote.no
  · extract_lets +onlyGivenNames y6
    have h7 : Keeps 117505 s y6 := by
      subst y6
      split
      · exact Keeps.step State.sealStart_keeps rfl (by assumption)
      · assumption
    clear_value y6
    refine KeepsWrote.ok ?_
    split
    · exact Keeps.step State.sealFinal_keeps rfl (by assumption)
    · assumption

theorem State.wMerge_keeps {s : State} {via : Via} {r : Reg} {i : Nat} {m : RegVal} {v : RegVal} : KeepsWrote 130047 s (State.wMerge s via r i m v) := by
  unfold State.wMerge
  extract_lets +onlyGivenNames y0 y1 y2 y3 y4
  clear_value y0 y1 y2 y3 y4
  split
  · exact KeepsWrote.no
  · extract_lets +onlyGivenNames y7
    clear_value y7
    extract_lets +onlyGivenNames y8
    have h9 : Keeps 130047 s y8 := by
      subst y8
      exact State.setReg_keeps.mono rfl
    clear_value y8
    split
    · exact KeepsWrote.no
    · split
      · exact KeepsWrote.ok Keeps.refl
      · exact KeepsWrote.ok (Keeps.step State.wAct_keeps rfl (by assumption))

theorem State.wReg_keeps {s : State} {via : Via} {fn : Nat} {r : Reg} {i : Nat} {m : RegVal} {v : RegVal} : KeepsWrote 524287 s (State.wReg s via fn r i m v) := by
  unfold State.wReg
  split
  · exact KeepsWrote.no
  · split
    · exact KeepsWrote.ok (State.wFuse_keeps.mono rfl)
    · exact KeepsWrote.ok (State.wFuse_keeps.mono rfl)
    · refine KeepsWrote.ok ?_
      split
      · exact State.warmReset_keeps.mono rfl
      · exact Keeps.refl
    · exact KeepsWrote.ok (State.causeW1c_keeps.mono rfl)
    · split
      · exact KeepsWrote.no
      · exact KeepsWrote.ok (State.sealWord_keeps.mono rfl)
    · exact KeepsWrote.step State.wSealCtl_keeps rfl Keeps.refl
    · split
      · exact KeepsWrote.ok (State.sealRestore_keeps.mono rfl)
      · exact KeepsWrote.no
    · split
      · exact KeepsWrote.no
      · exact KeepsWrote.step State.wMerge_keeps rfl Keeps.refl
    · extract_lets +onlyGivenNames y22
      clear_value y22
      split
      · exact KeepsWrote.no
      · split
        · exact KeepsWrote.no
        · exact KeepsWrote.ok (State.bistWrite_keeps.mono rfl)
    · exact KeepsWrote.step State.wMerge_keeps rfl Keeps.refl

theorem State.regPut_keeps {s : State} {via : Via} {fn : Nat} {off : Nat} {n : Nat} {m : RegVal} {v : RegVal} : KeepsWrote 524287 s (State.regPut s via fn off n m v) := by
  unfold State.regPut
  split
  · exact KeepsWrote.no
  · split
    · extract_lets +onlyGivenNames y8
      clear_value y8
      exact KeepsWrote.step State.wReg_keeps rfl Keeps.refl
    · exact KeepsWrote.no

theorem State.regWrite_keeps {s : State} {fn : Nat} {off : Nat} {n : Nat} {v : RegVal} : Keeps 524287 s (State.regWrite s fn off n v) := by
  unfold State.regWrite
  split
  · rename_i x1 x2
    have h3 : Keeps 524287 s x1 := by
      refine KeepsWrote.of_ok ?_ x2
      exact KeepsWrote.step State.regPut_keeps rfl Keeps.refl
    assumption
  · exact Keeps.refl

/-! ### Machine/RegIo.lean -/

theorem State.pfWrite_keeps {s : State} {r : Reg} {i : Nat} {v : RegVal} : Keeps 524287 s (State.pfWrite s r i v) := by
  unfold State.pfWrite
  split
  · rename_i x1 x2
    have h3 : Keeps 524287 s x1 := by
      refine KeepsWrote.of_ok ?_ x2
      exact KeepsWrote.step State.wReg_keeps rfl Keeps.refl
    assumption
  · exact Keeps.refl

theorem execRegisterWrite_keeps {fn : Fn} {off : BitVec 26} {n : RegAccess} {v : RegVal} {s : State} : KeepsOut 524287 s (execRegisterWrite fn off n v s) := by
  unfold execRegisterWrite
  refine KeepsOut.next (Keeps.step State.regWrite_keeps rfl ?_)
  exact Keeps.refl

theorem execQuayFragFlush_keeps {v : BitVec 32} {s : State} : KeepsOut 524287 s (execQuayFragFlush v s) := by
  unfold execQuayFragFlush
  refine KeepsOut.next (Keeps.step State.pfWrite_keeps rfl ?_)
  exact Keeps.refl

theorem execQuayBwCfgWrite_keeps {c : Fin 64} {v : Word} {s : State} : KeepsOut 524287 s (execQuayBwCfgWrite c v s) := by
  unfold execQuayBwCfgWrite
  refine KeepsOut.next (Keeps.step State.pfWrite_keeps rfl ?_)
  exact Keeps.refl

theorem execEgrMirrorCfgWrite_keeps {n : Fin 16} {v : Word} {s : State} : KeepsOut 524287 s (execEgrMirrorCfgWrite n v s) := by
  unfold execEgrMirrorCfgWrite
  refine KeepsOut.next (Keeps.step State.pfWrite_keeps rfl ?_)
  exact Keeps.refl

theorem execTmLatCfgWrite_keeps {n : Fin 64} {v : Word} {s : State} : KeepsOut 524287 s (execTmLatCfgWrite n v s) := by
  unfold execTmLatCfgWrite
  refine KeepsOut.next (Keeps.step State.pfWrite_keeps rfl ?_)
  exact Keeps.refl

theorem execPmcSnapshot_keeps {v : BitVec 32} {s : State} : KeepsOut 524287 s (execPmcSnapshot v s) := by
  unfold execPmcSnapshot
  refine KeepsOut.next (Keeps.step State.pfWrite_keeps rfl ?_)
  exact Keeps.refl

theorem execPmcSampleHead_keeps {v : BitVec 32} {s : State} : KeepsOut 524287 s (execPmcSampleHead v s) := by
  unfold execPmcSampleHead
  refine KeepsOut.next (Keeps.step State.pfWrite_keeps rfl ?_)
  exact Keeps.refl

theorem execHostErrStatusClear_keeps {v : BitVec 32} {s : State} : KeepsOut 524287 s (execHostErrStatusClear v s) := by
  unfold execHostErrStatusClear
  refine KeepsOut.next (Keeps.step State.pfWrite_keeps rfl ?_)
  exact Keeps.refl

theorem execSysHborCauseClear_keeps {v : BitVec 32} {s : State} : KeepsOut 524287 s (execSysHborCauseClear v s) := by
  unfold execSysHborCauseClear
  refine KeepsOut.next (Keeps.step State.pfWrite_keeps rfl ?_)
  exact Keeps.refl

theorem execHborBankSwitch_keeps {v : Word} {s : State} : KeepsOut 524287 s (execHborBankSwitch v s) := by
  unfold execHborBankSwitch
  refine KeepsOut.next (Keeps.step State.pfWrite_keeps rfl ?_)
  exact Keeps.refl

theorem execLogEnable_keeps {v : Word} {s : State} : KeepsOut 524287 s (execLogEnable v s) := by
  unfold execLogEnable
  refine KeepsOut.next (Keeps.step State.pfWrite_keeps rfl ?_)
  exact Keeps.refl

theorem execDriveReady_keeps {r : Fin 4} {id : DriveId} {v : Word} {s : State} : KeepsOut 524287 s (execDriveReady r id v s) := by
  unfold execDriveReady
  refine KeepsOut.next (Keeps.step State.pfWrite_keeps rfl ?_)
  exact Keeps.plain (x := s) Keeps.refl {} rfl

theorem execCmdEngineUnfence_keeps {e : Engine} {s : State} : KeepsOut 524287 s (execCmdEngineUnfence e s) := by
  unfold execCmdEngineUnfence
  refine KeepsOut.next (Keeps.step State.pfWrite_keeps rfl ?_)
  exact Keeps.refl

theorem execMboxEnable_keeps {m : Mbox} {v : BitVec 32} {s : State} : KeepsOut 524287 s (execMboxEnable m v s) := by
  unfold execMboxEnable
  refine KeepsOut.next (Keeps.step State.pfWrite_keeps rfl ?_)
  exact Keeps.refl

theorem State.cStore_keeps {s : State} {t : Core} {a n : Nat} {v : Word} : Keeps 524287 s (State.cStore s t a n v) := by
  have put : ∀ z : State, Keeps 524287 s z → Keeps 524287 s
      (match z.regPut (.direct false) 64 a n (BitVec.ofNat 320 (2 ^ 320 - 1)) (v.setWidth 320) with
       | .ok s => s
       | .no _ => z) := by
    intro z hz
    split
    · rename_i x hx
      exact KeepsWrote.of_ok (KeepsWrote.step State.regPut_keeps rfl hz) hx
    · exact hz
  unfold State.cStore
  extract_lets +onlyGivenNames y0
  subst y0
  dsimp only
  split
  · have h2 := put (s.tugCount t) (State.tugCount_keeps.mono rfl)
    refine Keeps.step State.setTpc_keeps rfl (Keeps.step State.bumpIf_keeps rfl ?_)
    split
    · exact Keeps.step State.setBit_keeps rfl h2
    · exact h2
  · exact Keeps.step State.tugDone_keeps rfl (put s Keeps.refl)

theorem cAccess_keeps {n : Nat} {t : Core} {rd : RegNo} {ra : RegNo} {imm : BitVec 16} {st : Option Word} {s : State} : KeepsOut 524287 s (cAccess n t rd ra imm st s) := by
  unfold cAccess
  refine KeepsOut.next (Keeps.step (State.tugRun_keeps (m := 524287) rfl ?_) rfl ?_)
  · intro z0
    extract_lets +onlyGivenNames y1 y2
    clear_value y1 y2
    split
    · exact State.trapHere_keeps.mono rfl
    · split
      · exact State.trapHere_keeps.mono rfl
      · split
        · exact State.trapHere_keeps.mono rfl
        · split
          · extract_lets +onlyGivenNames y10
            have h11 : Keeps 524287 z0 y10.1 := by
              subst y10
              exact State.regRead_keeps.mono rfl
            clear_value y10
            refine Keeps.step State.tugDone_keeps rfl (Keeps.step State.setG_keeps rfl ?_)
            assumption
          · extract_lets +onlyGivenNames y14
            clear_value y14
            split
            · exact State.trapHere_keeps.mono rfl
            · exact State.cStore_keeps.mono rfl
  · exact Keeps.refl

theorem execLdc_keeps {t : Core} {rd : RegNo} {ra : RegNo} {imm : BitVec 16} {s : State} : KeepsOut 524287 s (execLdc t rd ra imm s) := by
  unfold execLdc
  exact KeepsOut.step cAccess_keeps rfl Keeps.refl

theorem execStc_keeps {t : Core} {rd : RegNo} {ra : RegNo} {imm : BitVec 16} {s : State} : KeepsOut 524287 s (execStc t rd ra imm s) := by
  unfold execStc
  exact KeepsOut.step cAccess_keeps rfl Keeps.refl

theorem execLdcd_keeps {t : Core} {rd : RegNo} {ra : RegNo} {imm : BitVec 16} {s : State} : KeepsOut 524287 s (execLdcd t rd ra imm s) := by
  unfold execLdcd
  exact KeepsOut.step cAccess_keeps rfl Keeps.refl

theorem execStcd_keeps {t : Core} {rd : RegNo} {ra : RegNo} {imm : BitVec 16} {s : State} : KeepsOut 524287 s (execStcd t rd ra imm s) := by
  unfold execStcd
  exact KeepsOut.step cAccess_keeps rfl Keeps.refl

end Sys2Proof.Machine
end

