-- ==== Sys2Proof/Laws/KeepsCtl.lean ====
section
/-!
SUPPORT. Laws/KeepsCtl.lean: one lemma `f_keeps` for each operation `f` of the model that answers a state (control instructions, the command engines, look-ups and the scrubber):
what it may do to the state, in the terms of Laws/Keeps.lean; the mask names the parts it may change.
-/
namespace Sys2Proof.Machine
set_option Elab.async false

/-! ### Machine/Ctl.lean -/

theorem ctlBad_keeps {s : State} {i : Nat} : KeepsCtl 0 s (ctlBad s i) := by
  unfold ctlBad
  exact KeepsCtl.done Keeps.refl

theorem ctlEnd_keeps {s : State} {status : Nat} : KeepsCtl 0 s (ctlEnd s status) := by
  unfold ctlEnd
  exact KeepsCtl.done Keeps.refl

theorem ctlOk_keeps {s : State} {res : List Nat} : KeepsCtl 0 s (ctlOk s res) := by
  unfold ctlOk
  exact KeepsCtl.done Keeps.refl

theorem ctlRes_keeps {s : State} {status : Nat} {res : List Nat} : KeepsCtl 0 s (ctlRes s status res) := by
  unfold ctlRes
  exact KeepsCtl.done Keeps.refl

theorem ctlWait_keeps {s : State} {c : Ctl} : KeepsCtl 0 s (ctlWait s c) := by
  unfold ctlWait
  exact KeepsCtl.wait Keeps.refl

theorem State.ctlRead_keeps {s : State} {iss : Issuer} {a : Nat} {n : Nat} : Keeps 33281 s (State.ctlRead s iss a n).1 := by
  unfold State.ctlRead
  split
  · dsimp only
    exact State.chGot_keeps.mono rfl
  · dsimp only
    exact Keeps.refl

theorem State.ctlWrite_keeps {s : State} {iss : Issuer} {a : Nat} {l : List Byte} : Keeps 115201 s (State.ctlWrite s iss a l) := by
  unfold State.ctlWrite
  split
  · exact State.chPut_keeps.mono rfl
  · exact State.dWrite_keeps.mono rfl

theorem State.finish_keeps {s : State} {iss : Issuer} {c : Ctl} {status : Nat} {progress : Nat} {res : List Word} : Keeps 115459 s (State.finish s iss c status progress res) := by
  unfold State.finish
  extract_lets +onlyGivenNames y0
  have h1 : Keeps 115459 s y0 := by
    subst y0
    exact State.complete_keeps.mono rfl
  clear_value y0
  extract_lets +onlyGivenNames y2 y3
  clear_value y2 y3
  extract_lets +onlyGivenNames y4
  have h5 : Keeps 115459 s y4 := by
    subst y4
    refine Keeps.plain (x := y0) ?_ {} rfl
    assumption
  clear_value y4
  extract_lets +onlyGivenNames y6
  have h7 : Keeps 115459 s y6 := by
    subst y6
    split
    · extract_lets +onlyGivenNames y10 y11
      clear_value y10 y11
      extract_lets +onlyGivenNames y12
      have h13 : Keeps 115459 s y12 := by
        subst y12
        exact Keeps.step State.setChan_keeps rfl (by assumption)
      clear_value y12
      refine Keeps.step State.closeStep_keeps rfl (Keeps.step State.setBit_keeps rfl ?_)
      exact Keeps.step State.setBit_keeps rfl (by assumption)
    · assumption
  clear_value y6
  exact Keeps.step State.joinReady_keeps rfl (by assumption)

theorem State.dropTrans_keeps {s : State} {iss : Issuer} : Keeps 12353 s (State.dropTrans s iss) := by
  unfold State.dropTrans
  split
  · split
    · extract_lets +onlyGivenNames y4 y5
      clear_value y4 y5
      extract_lets +onlyGivenNames y6
      have h7 : Keeps 12353 s y6 := by
        subst y6
        exact Keeps.plain (x := s) Keeps.refl {} rfl
      clear_value y6
      exact Keeps.step State.setPaused_keeps rfl (by assumption)
    · exact Keeps.refl
  · exact Keeps.refl

theorem State.stopCtl_keeps {s : State} {iss : Issuer} : Keeps 127811 s (State.stopCtl s iss) := by
  unfold State.stopCtl
  split
  · exact Keeps.refl
  · extract_lets +onlyGivenNames y5
    clear_value y5
    extract_lets +onlyGivenNames y6
    have h7 : Keeps 127811 s y6 := by
      subst y6
      split
      · exact State.setChan_keeps.mono rfl
      · exact Keeps.refl
    clear_value y6
    extract_lets +onlyGivenNames y12
    have h13 : Keeps 127811 s y12 := by
      subst y12
      exact Keeps.step State.dropTrans_keeps rfl (by assumption)
    clear_value y12
    extract_lets +onlyGivenNames y14
    clear_value y14
    split
    · exact Keeps.step State.finish_keeps rfl (by assumption)
    · refine Keeps.plain (x := y12) ?_ {} rfl
      assumption

/-! ### Machine/CtlSys.lean -/

theorem opChanOpen_keeps {a : Issuer} {arg1 : Ctl} {arg2 : State} : KeepsCtl 259 arg2 (opChanOpen a arg1 arg2) := by
  unfold opChanOpen
  extract_lets +onlyGivenNames y0 y1 y2 y3 y4 y5 y6
  clear_value y0 y1 y2 y3 y4 y5 y6
  split
  · exact KeepsCtl.step ctlEnd_keeps rfl Keeps.refl
  · split
    · exact KeepsCtl.step ctlBad_keeps rfl Keeps.refl
    · split
      · exact KeepsCtl.step ctlBad_keeps rfl Keeps.refl
      · split
        · exact KeepsCtl.step ctlBad_keeps rfl Keeps.refl
        · split
          · exact KeepsCtl.step ctlBad_keeps rfl Keeps.refl
          · split
            · exact KeepsCtl.step ctlEnd_keeps rfl Keeps.refl
            · extract_lets +onlyGivenNames y22
              clear_value y22
              extract_lets +onlyGivenNames y23
              have h24 : Keeps 259 arg2 y23 := by
                subst y23
                exact State.setChan_keeps.mono rfl
              clear_value y23
              extract_lets +onlyGivenNames y25
              clear_value y25
              extract_lets +onlyGivenNames y26
              have h27 : Keeps 259 arg2 y26 := by
                subst y26
                refine Keeps.step State.setReg_keeps rfl (Keeps.step State.setReg_keeps rfl ?_)
                exact Keeps.step State.setReg_keeps rfl (by assumption)
              clear_value y26
              refine KeepsCtl.step ctlOk_keeps rfl (Keeps.step State.zeroG_keeps rfl ?_)
              assumption

theorem opChanClose_keeps {a : Issuer} {arg1 : Ctl} {arg2 : State} : KeepsCtl 117719 arg2 (opChanClose a arg1 arg2) := by
  unfold opChanClose
  split
  · split
    · exact KeepsCtl.wait Keeps.refl
    · exact KeepsCtl.step ctlEnd_keeps rfl Keeps.refl
  · split
    · exact KeepsCtl.step ctlEnd_keeps rfl Keeps.refl
    · split
      · exact KeepsCtl.step ctlEnd_keeps rfl Keeps.refl
      · extract_lets +onlyGivenNames y11
        have h12 : Keeps 117719 arg2 y11 := by
          subst y11
          exact State.closeChan_keeps.mono rfl
        clear_value y11
        split
        · exact KeepsCtl.step ctlWait_keeps rfl (by assumption)
        · exact KeepsCtl.step ctlEnd_keeps rfl (by assumption)

theorem opChanInfo_keeps {a : Issuer} {arg1 : Ctl} {arg2 : State} : KeepsCtl 0 arg2 (opChanInfo a arg1 arg2) := by
  unfold opChanInfo
  split
  · exact KeepsCtl.step ctlEnd_keeps rfl Keeps.refl
  · split
    · exact KeepsCtl.step ctlEnd_keeps rfl Keeps.refl
    · exact KeepsCtl.step ctlOk_keeps rfl Keeps.refl

theorem opCmdAbort_keeps {a : Issuer} {arg1 : Ctl} {arg2 : State} : KeepsCtl 127811 arg2 (opCmdAbort a arg1 arg2) := by
  unfold opCmdAbort
  split
  · extract_lets +onlyGivenNames y1
    clear_value y1
    split
    · split
      · exact KeepsCtl.wait Keeps.refl
      · exact KeepsCtl.step ctlOk_keeps rfl Keeps.refl
    · split
      · exact KeepsCtl.wait Keeps.refl
      · exact KeepsCtl.step ctlOk_keeps rfl Keeps.refl
  · extract_lets +onlyGivenNames y12
    clear_value y12
    split
    · exact KeepsCtl.step ctlEnd_keeps rfl Keeps.refl
    · split
      · exact KeepsCtl.step ctlEnd_keeps rfl Keeps.refl
      · split
        · exact KeepsCtl.step ctlEnd_keeps rfl Keeps.refl
        · extract_lets +onlyGivenNames y23
          have h24 : Keeps 127811 arg2 y23 := by
            subst y23
            exact State.stopCtl_keeps.mono rfl
          clear_value y23
          split
          · exact KeepsCtl.step ctlWait_keeps rfl (by assumption)
          · exact KeepsCtl.step ctlOk_keeps rfl (by assumption)

theorem opCmdWait_keeps {a : Issuer} {arg1 : Ctl} {arg2 : State} : KeepsCtl 117665 arg2 (opCmdWait a arg1 arg2) := by
  unfold opCmdWait
  extract_lets +onlyGivenNames y0 y1
  clear_value y0 y1
  split
  · exact KeepsCtl.step ctlRes_keeps rfl Keeps.refl
  · split
    · exact KeepsCtl.step ctlOk_keeps rfl Keeps.refl
    · split
      · exact KeepsCtl.wait Keeps.refl
      · exact KeepsCtl.step ctlWait_keeps rfl Keeps.refl

theorem opBarrier_keeps {a : Issuer} {arg1 : Ctl} {arg2 : State} : KeepsCtl 0 arg2 (opBarrier a arg1 arg2) := by
  unfold opBarrier
  extract_lets +onlyGivenNames y0
  clear_value y0
  split
  · exact KeepsCtl.step ctlEnd_keeps rfl Keeps.refl
  · exact KeepsCtl.wait Keeps.refl

theorem opGet_keeps {a : Issuer} {arg1 : Ctl} {arg2 : State} : KeepsCtl 117665 arg2 (opGet a arg1 arg2) := by
  unfold opGet
  extract_lets +onlyGivenNames y0
  clear_value y0
  split
  · exact KeepsCtl.step ctlBad_keeps rfl Keeps.refl
  · split
    · exact KeepsCtl.step ctlEnd_keeps rfl Keeps.refl
    · extract_lets +onlyGivenNames y8
      have h9 : Keeps 117665 arg2 y8.1 := by
        subst y8
        exact State.regRead_keeps.mono rfl
      clear_value y8
      extract_lets +onlyGivenNames y10
      clear_value y10
      exact KeepsCtl.step ctlOk_keeps rfl (by assumption)

theorem setDone_keeps {c : Ctl} {old : State} {s : State} : KeepsCtl 0 s (setDone c old s) := by
  unfold setDone
  split
  · exact KeepsCtl.gone Keeps.refl
  · split
    · split
      · exact KeepsCtl.step ctlEnd_keeps rfl Keeps.refl
      · exact KeepsCtl.step ctlWait_keeps rfl Keeps.refl
    · exact KeepsCtl.step ctlEnd_keeps rfl Keeps.refl

theorem setResume_keeps {c : Ctl} {s : State} : KeepsCtl 0 s (setResume c s) := by
  unfold setResume
  split
  · exact KeepsCtl.wait Keeps.refl
  · split
    · exact KeepsCtl.step ctlEnd_keeps rfl Keeps.refl
    · split
      · exact KeepsCtl.step ctlBad_keeps rfl Keeps.refl
      · exact KeepsCtl.step ctlEnd_keeps rfl Keeps.refl

theorem opSet_keeps {a : Issuer} {arg1 : Ctl} {arg2 : State} : KeepsCtl 524287 arg2 (opSet a arg1 arg2) := by
  unfold opSet
  split
  · exact KeepsCtl.step setResume_keeps rfl Keeps.refl
  · extract_lets +onlyGivenNames y2 y3
    clear_value y2 y3
    split
    · exact KeepsCtl.step ctlBad_keeps rfl Keeps.refl
    · split
      · exact KeepsCtl.step ctlBad_keeps rfl Keeps.refl
      · split
        · exact KeepsCtl.step ctlBad_keeps rfl Keeps.refl
        · extract_lets +onlyGivenNames y13 y14
          clear_value y13 y14
          split
          · rename_i x16 x17
            have h18 : Keeps 524287 arg2 x16 := by
              refine KeepsWrote.of_ok ?_ x17
              exact KeepsWrote.step State.regPut_keeps rfl Keeps.refl
            exact KeepsCtl.step setDone_keeps rfl (by assumption)
          · split
            · exact KeepsCtl.step ctlBad_keeps rfl Keeps.refl
            · exact KeepsCtl.step ctlEnd_keeps rfl Keeps.refl

theorem State.setPairs_keeps {s : State} {iss : Issuer} {w : List Word} {block k i : Nat} {t : State}
    (h : s.setPairs iss w block k i = .ok t) : Keeps 524287 s t := by
  induction k generalizing s i with
  | zero => rw [State.setPairs] at h; cases h; exact Keeps.refl
  | succ k ih =>
    unfold State.setPairs at h
    split at h
    · cases h
    · dsimp only at h
      split at h
      · cases h
      · split at h
        · rename_i e
          exact (KeepsWrote.of_ok (State.regPut_keeps.step rfl Keeps.refl) e).trans (ih h)
        · cases h

theorem opSetm_keeps {iss : Issuer} {c : Ctl} {s : State} : KeepsCtl 524287 s (opSetm iss c s) := by
  unfold opSetm
  split
  · exact KeepsCtl.step setResume_keeps rfl Keeps.refl
  · extract_lets k
    split
    · exact KeepsCtl.step ctlBad_keeps rfl Keeps.refl
    · split
      · exact KeepsCtl.step ctlBad_keeps rfl Keeps.refl
      · split
        · rename_i e
          exact KeepsCtl.step setDone_keeps rfl (State.setPairs_keeps e)
        · split
          · exact KeepsCtl.step ctlBad_keeps rfl Keeps.refl
          · exact KeepsCtl.step ctlEnd_keeps rfl Keeps.refl

theorem opSysMode_keeps {a : Issuer} {arg1 : Ctl} {arg2 : State} : KeepsCtl 130047 arg2 (opSysMode a arg1 arg2) := by
  unfold opSysMode
  split
  · exact KeepsCtl.wait Keeps.refl
  · split
    · exact KeepsCtl.wait Keeps.refl
    · split
      · split
        · exact KeepsCtl.step ctlBad_keeps rfl Keeps.refl
        · exact KeepsCtl.step ctlEnd_keeps rfl Keeps.refl
      · rename_i x10 x11
        have h12 : Keeps 130047 arg2 x10 := by
          refine KeepsAsk.of_done ?_ x11
          exact KeepsAsk.step State.modeAsk_keeps rfl Keeps.refl
        exact KeepsCtl.step ctlOk_keeps rfl (by assumption)
      · rename_i x14 x15
        have h16 : Keeps 130047 arg2 x14 := by
          refine KeepsAsk.of_wait ?_ x15
          exact KeepsAsk.step State.modeAsk_keeps rfl Keeps.refl
        split
        · exact KeepsCtl.gone (by assumption)
        · exact KeepsCtl.step ctlWait_keeps rfl (by assumption)

theorem opHarbour_keeps {a : Issuer} {arg1 : Ctl} {arg2 : State} : KeepsCtl 12545 arg2 (opHarbour a arg1 arg2) := by
  unfold opHarbour
  refine KeepsCtl.step ctlEnd_keeps rfl (Keeps.step State.setCause_keeps rfl ?_)
  exact State.set_keeps.mono rfl

theorem State.patchLoad_keeps {s : State} {ver : Nat} {arb : Nat} {hash : BitVec 256} : Keeps 8449 s (State.patchLoad s ver arb hash) := by
  unfold State.patchLoad
  extract_lets +onlyGivenNames y0 y1 y2
  clear_value y0 y1 y2
  extract_lets +onlyGivenNames y3
  have h4 : Keeps 8449 s y3 := by
    subst y3
    refine Keeps.freed (x := s) Keeps.refl {} rfl (Nat.le_add_right _ _)
  clear_value y3
  extract_lets +onlyGivenNames y5
  have h6 : Keeps 8449 s y5 := by
    subst y5
    refine Keeps.foldl ?_ ?_
    · intro z7 z8
      refine Keeps.step State.useFree_keeps rfl (Keeps.step State.setReg_keeps rfl ?_)
      exact Keeps.refl
    · assumption
  clear_value y5
  exact Keeps.step State.set_keeps rfl (by assumption)

theorem opUcodePatch_keeps {a : Issuer} {arg1 : Ctl} {arg2 : State} : KeepsCtl 41729 arg2 (opUcodePatch a arg1 arg2) := by
  unfold opUcodePatch
  extract_lets +onlyGivenNames y0 y1
  clear_value y0 y1
  split
  · exact KeepsCtl.step ctlBad_keeps rfl Keeps.refl
  · extract_lets +onlyGivenNames y4
    have h5 : Keeps 41729 arg2 y4.1 := by
      subst y4
      exact State.ctlRead_keeps.mono rfl
    clear_value y4
    extract_lets +onlyGivenNames y6
    have h7 : Keeps 41729 arg2 y6.1 := by
      subst y6
      split
      · dsimp only
        exact Keeps.refl
      · split
        · dsimp only
          assumption
        · dsimp only
          assumption
    clear_value y6
    split
    · exact KeepsCtl.step ctlEnd_keeps rfl (by assumption)
    · split
      · extract_lets +onlyGivenNames y18
        have h19 : Keeps 41729 arg2 y18 := by
          subst y18
          exact Keeps.step State.patchLoad_keeps rfl (by assumption)
        clear_value y18
        exact KeepsCtl.step ctlOk_keeps rfl (by assumption)
      · exact KeepsCtl.more (by assumption)

theorem opUcodeInfo_keeps {a : Issuer} {arg1 : Ctl} {arg2 : State} : KeepsCtl 1 arg2 (opUcodeInfo a arg1 arg2) := by
  unfold opUcodeInfo
  exact KeepsCtl.step ctlOk_keeps rfl Keeps.refl

/-! ### Machine/CtlTab.lean -/

theorem State.emOp_keeps {m : Nat} (hm : 0 ||| m = m) {s0 s : State} {c : Ctl} {key : Bool} {f : Nat → CtlOut}
    (h : ∀ p, KeepsCtl m s0 (f p)) (h0 : Keeps m s0 s) : KeepsCtl m s0 (s.emOp c key f) := by
  unfold State.emOp
  extract_lets p
  split
  · exact KeepsCtl.step ctlBad_keeps (Same.sub rfl hm) h0
  · split
    · exact KeepsCtl.step ctlBad_keeps (Same.sub rfl hm) h0
    · exact h p

theorem opEmInsert_keeps {a : Issuer} {arg1 : Ctl} {arg2 : State} : KeepsCtl 5 arg2 (opEmInsert a arg1 arg2) := by
  unfold opEmInsert
  refine State.emOp_keeps (m := 5) rfl ?_ ?_
  · intro z0
    extract_lets +onlyGivenNames y1
    clear_value y1
    split
    · exact KeepsCtl.step ctlRes_keeps rfl Keeps.refl
    · extract_lets +onlyGivenNames y8
      have h9 : Keeps 5 arg2 y8 := by
        subst y8
        split
        · exact State.delEm_keeps.mono rfl
        · exact Keeps.refl
      clear_value y8
      split
      · rename_i x17 _ x19
        have h20 : Keeps 5 arg2 x17 := by
          refine Keeps.of_fst ?_ x19
          exact Keeps.step State.emPut_keeps rfl (by assumption)
        exact KeepsCtl.step ctlOk_keeps rfl (by assumption)
      · rename_i x22 x23
        have h24 : Keeps 5 arg2 x22 := by
          refine Keeps.of_fst ?_ x23
          exact Keeps.step State.emPut_keeps rfl (by assumption)
        exact KeepsCtl.step ctlEnd_keeps rfl (by assumption)
  · exact Keeps.refl

theorem opEmDelete_keeps {a : Issuer} {arg1 : Ctl} {arg2 : State} : KeepsCtl 4 arg2 (opEmDelete a arg1 arg2) := by
  unfold opEmDelete
  refine State.emOp_keeps (m := 4) rfl ?_ ?_
  · intro z0
    split
    · exact KeepsCtl.step ctlEnd_keeps rfl (State.emRemove_keeps.mono rfl)
    · exact KeepsCtl.step ctlEnd_keeps rfl Keeps.refl
  · exact Keeps.refl

theorem opEmUpdate_keeps {a : Issuer} {arg1 : Ctl} {arg2 : State} : KeepsCtl 4 arg2 (opEmUpdate a arg1 arg2) := by
  unfold opEmUpdate
  refine State.emOp_keeps (m := 4) rfl ?_ ?_
  · intro z0
    split
    · exact KeepsCtl.step ctlOk_keeps rfl (State.setEm_keeps.mono rfl)
    · exact KeepsCtl.step ctlEnd_keeps rfl Keeps.refl
  · exact Keeps.refl

theorem opEmSearch_keeps {a : Issuer} {arg1 : Ctl} {arg2 : State} : KeepsCtl 0 arg2 (opEmSearch a arg1 arg2) := by
  unfold opEmSearch
  refine State.emOp_keeps (m := 0) rfl ?_ ?_
  · intro z0
    split
    · exact KeepsCtl.step ctlOk_keeps rfl Keeps.refl
    · exact KeepsCtl.step ctlEnd_keeps rfl Keeps.refl
  · exact Keeps.refl

theorem opEmNext_keeps {a : Issuer} {arg1 : Ctl} {arg2 : State} : KeepsCtl 0 arg2 (opEmNext a arg1 arg2) := by
  unfold opEmNext
  refine State.emOp_keeps (m := 0) rfl ?_ ?_
  · intro z0
    split
    · extract_lets +onlyGivenNames y5
      clear_value y5
      exact KeepsCtl.step ctlOk_keeps rfl Keeps.refl
    · exact KeepsCtl.step ctlEnd_keeps rfl Keeps.refl
  · exact Keeps.refl

theorem State.flushFrom_keeps {s : State} {p : Nat} {port : Nat} {a : Nat} {arg4 : Nat} {arg5 : Nat} : Keeps 4 s (State.flushFrom s p port a arg4 arg5).1 := by
  induction a generalizing s p port arg4 arg5
  · rw [State.flushFrom]
    dsimp only
    exact Keeps.refl
  · rename_i ih
    rw [State.flushFrom]
    refine Keeps.step ih rfl (Keeps.foldl_fst ?_ ?_)
    · intro z0 z1 z2
      split
      · split
        · dsimp only
          exact State.emRemove_keeps.mono rfl
        · dsimp only
          exact Keeps.refl
      · dsimp only
        exact Keeps.refl
    · dsimp only
      exact Keeps.refl

theorem State.publish_keeps {s : State} {iss : Issuer} {op : Nat} {x : Nat} : Keeps 1 s (State.publish s iss op x) := by
  unfold State.publish
  split
  · refine Keeps.step State.setBit_keeps rfl (Keeps.step State.set_keeps rfl (Keeps.step State.set_keeps rfl ?_))
    exact Keeps.refl
  · exact Keeps.refl

theorem opEmFlushPort_keeps {a : Issuer} {arg1 : Ctl} {arg2 : State} : KeepsCtl 5 arg2 (opEmFlushPort a arg1 arg2) := by
  unfold opEmFlushPort
  refine State.emOp_keeps (m := 5) rfl ?_ ?_
  · intro z0
    extract_lets +onlyGivenNames y1 y2 y3 y4
    clear_value y1 y2 y3 y4
    extract_lets +onlyGivenNames y5
    have h6 : Keeps 5 arg2 y5.1 := by
      subst y5
      refine Keeps.step State.flushFrom_keeps rfl (Keeps.step State.useFree_keeps rfl ?_)
      exact Keeps.refl
    clear_value y5
    split
    · exact KeepsCtl.done (Keeps.step State.publish_keeps rfl (by assumption))
    · exact KeepsCtl.more (Keeps.step State.publish_keeps rfl (by assumption))
  · exact Keeps.refl

theorem State.lpmOp_keeps {m : Nat} (hm : 0 ||| m = m) {s0 s : State} {c : Ctl} {len : Bool} {f : CtlOut}
    (h : KeepsCtl m s0 f) (h0 : Keeps m s0 s) : KeepsCtl m s0 (s.lpmOp c len f) := by
  unfold State.lpmOp
  extract_lets v6 need
  by_cases a : c.w.length < need
  · rw [if_pos a]
    exact KeepsCtl.step ctlBad_keeps (Same.sub rfl hm) h0
  · rw [if_neg a]
    by_cases b : len = true ∧ (if v6 = true then 128 else 32) < wf c.w 0 13 8
    · rw [if_pos b]
      exact KeepsCtl.step ctlBad_keeps (Same.sub rfl hm) h0
    · rw [if_neg b]
      exact h

theorem State.rebuilt_keeps {s : State} {n : Nat} : Keeps 4 s (State.rebuilt s n) := by
  unfold State.rebuilt
  exact Keeps.plain (x := s) Keeps.refl {} rfl

theorem State.putLpm_keeps {s : State} {n : Nat} {e : LpmEntry} : Keeps 4 s (State.putLpm s n e) := by
  unfold State.putLpm
  exact Keeps.step State.unbad_keeps rfl (Keeps.plain (x := s) Keeps.refl {} rfl)

theorem State.delLpm_keeps {s : State} {n : Nat} : Keeps 4 s (State.delLpm s n) := by
  unfold State.delLpm
  exact Keeps.step State.unbad_keeps rfl (Keeps.plain (x := s) Keeps.refl {} rfl)

theorem opLpmInsert_keeps {a : Issuer} {arg1 : Ctl} {arg2 : State} : KeepsCtl 5 arg2 (opLpmInsert a arg1 arg2) := by
  unfold opLpmInsert
  refine State.lpmOp_keeps (m := 5) rfl ?_ ?_
  · extract_lets +onlyGivenNames y0
    extract_lets +onlyGivenNames y1
    split
    · exact KeepsCtl.step ctlRes_keeps rfl Keeps.refl
    · extract_lets +onlyGivenNames y8
      have h9 : Keeps 5 arg2 y8 := by
        subst y8
        split
        · exact State.delLpm_keeps.mono rfl
        · exact Keeps.refl
      extract_lets +onlyGivenNames y16
      extract_lets +onlyGivenNames y17
      split
      · split
        · refine KeepsCtl.step ctlEnd_keeps rfl ?_
          refine Keeps.step State.bump_keeps rfl (Keeps.step State.useFree_keeps rfl ?_)
          exact Keeps.refl
        · extract_lets +onlyGivenNames y21
          clear_value y21
          refine KeepsCtl.step ctlOk_keeps rfl (Keeps.step State.rebuilt_keeps rfl ?_)
          refine Keeps.step State.putLpm_keeps rfl (Keeps.step State.useFree_keeps rfl ?_)
          assumption
      · split
        · refine KeepsCtl.step ctlEnd_keeps rfl ?_
          refine Keeps.step State.bump_keeps rfl (Keeps.step State.useFree_keeps rfl ?_)
          exact Keeps.refl
        · extract_lets +onlyGivenNames y25
          clear_value y25
          refine KeepsCtl.step ctlOk_keeps rfl (Keeps.step State.rebuilt_keeps rfl ?_)
          refine Keeps.step State.putLpm_keeps rfl (Keeps.step State.useFree_keeps rfl ?_)
          assumption
  · exact Keeps.refl

theorem opLpmDelete_keeps {a : Issuer} {arg1 : Ctl} {arg2 : State} : KeepsCtl 4 arg2 (opLpmDelete a arg1 arg2) := by
  unfold opLpmDelete
  refine State.lpmOp_keeps (m := 4) rfl ?_ ?_
  · split
    · exact KeepsCtl.step ctlEnd_keeps rfl Keeps.refl
    · refine KeepsCtl.step ctlEnd_keeps rfl ?_
      refine Keeps.step State.rebuilt_keeps rfl (Keeps.step State.delLpm_keeps rfl ?_)
      exact State.useFree_keeps.mono rfl
  · exact Keeps.refl

theorem opLpmSearch_keeps {a : Issuer} {arg1 : Ctl} {arg2 : State} : KeepsCtl 0 arg2 (opLpmSearch a arg1 arg2) := by
  unfold opLpmSearch
  refine State.lpmOp_keeps (m := 0) rfl ?_ ?_
  · extract_lets +onlyGivenNames y0
    clear_value y0
    split
    · exact KeepsCtl.step ctlOk_keeps rfl Keeps.refl
    · exact KeepsCtl.step ctlEnd_keeps rfl Keeps.refl
  · exact Keeps.refl

theorem opLpmNext_keeps {a : Issuer} {arg1 : Ctl} {arg2 : State} : KeepsCtl 0 arg2 (opLpmNext a arg1 arg2) := by
  unfold opLpmNext
  split
  · extract_lets +onlyGivenNames y4
    clear_value y4
    exact KeepsCtl.step ctlOk_keeps rfl Keeps.refl
  · exact KeepsCtl.step ctlEnd_keeps rfl Keeps.refl

theorem opTcamWrite_keeps {a : Issuer} {arg1 : Ctl} {arg2 : State} : KeepsCtl 4 arg2 (opTcamWrite a arg1 arg2) := by
  unfold opTcamWrite
  extract_lets +onlyGivenNames y0 y1
  clear_value y0 y1
  refine KeepsCtl.step ctlEnd_keeps rfl (Keeps.step State.unbad_keeps rfl ?_)
  exact Keeps.plain (x := arg2) Keeps.refl {} rfl

theorem opTcamRead_keeps {a : Issuer} {arg1 : Ctl} {arg2 : State} : KeepsCtl 115201 arg2 (opTcamRead a arg1 arg2) := by
  unfold opTcamRead
  extract_lets +onlyGivenNames y0
  clear_value y0
  split
  · exact KeepsCtl.step ctlBad_keeps rfl Keeps.refl
  · extract_lets +onlyGivenNames y3 y4
    clear_value y3 y4
    extract_lets +onlyGivenNames y5
    have h6 : Keeps 115201 arg2 y5 := by
      subst y5
      exact State.ctlWrite_keeps.mono rfl
    clear_value y5
    exact KeepsCtl.step ctlOk_keeps rfl (by assumption)

theorem State.tcamClearFrom_keeps {s : State} {a : Nat} {arg2 : Nat} : Keeps 4 s (State.tcamClearFrom s a arg2) := by
  induction a generalizing s arg2
  · rw [State.tcamClearFrom]
    exact Keeps.refl
  · rename_i ih
    rw [State.tcamClearFrom]
    refine Keeps.step ih rfl (Keeps.step State.unbad_keeps rfl ?_)
    exact Keeps.plain (x := s) Keeps.refl {} rfl

theorem opTcamClear_keeps {a : Issuer} {arg1 : Ctl} {arg2 : State} : KeepsCtl 5 arg2 (opTcamClear a arg1 arg2) := by
  unfold opTcamClear
  extract_lets +onlyGivenNames y0 y1
  clear_value y0 y1
  split
  · exact KeepsCtl.step ctlBad_keeps rfl Keeps.refl
  · extract_lets +onlyGivenNames y4 y5 y6
    clear_value y4 y5 y6
    extract_lets +onlyGivenNames y7
    have h8 : Keeps 5 arg2 y7 := by
      subst y7
      refine Keeps.step State.publish_keeps rfl (Keeps.step State.tcamClearFrom_keeps rfl ?_)
      exact State.useFree_keeps.mono rfl
    clear_value y7
    split
    · exact KeepsCtl.done (by assumption)
    · exact KeepsCtl.more (by assumption)

theorem State.putObj_keeps {s : State} {code : Nat} {ix : Nat} {w : List Word} : Keeps 4 s (State.putObj s code ix w) := by
  unfold State.putObj
  extract_lets +onlyGivenNames y0 y1
  clear_value y0 y1
  extract_lets +onlyGivenNames y2
  have h3 : Keeps 4 s y2 := by
    subst y2
    exact Keeps.plain (x := s) Keeps.refl {} rfl
  clear_value y2
  split
  · exact Keeps.step State.unbad_keeps rfl (by assumption)
  · assumption

theorem State.putMeter_keeps {s : State} {ix : Nat} {prof : Nat} : Keeps 4 s (State.putMeter s ix prof) := by
  unfold State.putMeter
  extract_lets +onlyGivenNames y0
  clear_value y0
  exact State.putObj_keeps.mono rfl

theorem opObjWrite_keeps {a : Issuer} {arg1 : Ctl} {arg2 : State} : KeepsCtl 33285 arg2 (opObjWrite a arg1 arg2) := by
  unfold opObjWrite
  extract_lets +onlyGivenNames y0 y1 y2
  clear_value y0 y1 y2
  split
  · exact KeepsCtl.step ctlBad_keeps rfl Keeps.refl
  · split
    · exact KeepsCtl.step ctlBad_keeps rfl Keeps.refl
    · split
      · split
        · exact KeepsCtl.step ctlBad_keeps rfl Keeps.refl
        · extract_lets +onlyGivenNames y10
          have h11 : Keeps 33285 arg2 y10.1 := by
            subst y10
            exact State.ctlRead_keeps.mono rfl
          clear_value y10
          split
          · exact KeepsCtl.step ctlEnd_keeps rfl (Keeps.step State.putObj_keeps rfl (by assumption))
          · exact KeepsCtl.step ctlBad_keeps rfl (by assumption)
      · extract_lets +onlyGivenNames y15
        clear_value y15
        split
        · exact KeepsCtl.step ctlBad_keeps rfl Keeps.refl
        · split
          · exact KeepsCtl.step ctlEnd_keeps rfl (State.putMeter_keeps.mono rfl)
          · extract_lets +onlyGivenNames y20
            have h21 : Keeps 33285 arg2 y20 := by
              subst y20
              exact State.putObj_keeps.mono rfl
            clear_value y20
            refine KeepsCtl.step ctlEnd_keeps rfl ?_
            split
            · refine Keeps.plain (x := y20) ?_ {} rfl
              assumption
            · assumption

theorem opObjRead_keeps {a : Issuer} {arg1 : Ctl} {arg2 : State} : KeepsCtl 115201 arg2 (opObjRead a arg1 arg2) := by
  unfold opObjRead
  extract_lets +onlyGivenNames y0 y1
  clear_value y0 y1
  split
  · exact KeepsCtl.step ctlBad_keeps rfl Keeps.refl
  · split
    · split
      · exact KeepsCtl.step ctlBad_keeps rfl Keeps.refl
      · split
        · exact KeepsCtl.step ctlBad_keeps rfl Keeps.refl
        · exact KeepsCtl.step ctlEnd_keeps rfl (State.ctlWrite_keeps.mono rfl)
    · exact KeepsCtl.done Keeps.refl

theorem opProgLoad_keeps {a : Issuer} {arg1 : Ctl} {arg2 : State} : KeepsCtl 33283 arg2 (opProgLoad a arg1 arg2) := by
  unfold opProgLoad
  extract_lets +onlyGivenNames y0 y1 y2 y3 y4
  clear_value y0 y1 y2 y3 y4
  split
  · split
    · exact KeepsCtl.step ctlBad_keeps rfl Keeps.refl
    · exact KeepsCtl.step ctlEnd_keeps rfl Keeps.refl
  · split
    · exact KeepsCtl.step ctlBad_keeps rfl Keeps.refl
    · split
      · exact KeepsCtl.step ctlBad_keeps rfl Keeps.refl
      · extract_lets +onlyGivenNames y16
        have h17 : Keeps 33283 arg2 y16.1 := by
          subst y16
          exact State.ctlRead_keeps.mono rfl
        clear_value y16
        extract_lets +onlyGivenNames y18
        clear_value y18
        extract_lets +onlyGivenNames y19
        have h20 : Keeps 33283 arg2 y19 := by
          subst y19
          assumption
        clear_value y19
        split
        · exact KeepsCtl.step ctlBad_keeps rfl (by assumption)
        · extract_lets +onlyGivenNames y26 y27
          clear_value y26 y27
          extract_lets +onlyGivenNames y28
          have h29 : Keeps 33283 arg2 y28 := by
            subst y28
            refine Keeps.plain (x := y19) ?_ {} rfl
            assumption
          clear_value y28
          refine KeepsCtl.step ctlEnd_keeps rfl (Keeps.foldl ?_ ?_)
          · intro z30 z31
            split
            · exact State.storeWords_keeps.mono rfl
            · exact Keeps.refl
          · assumption

theorem opGenSwap_keeps {a : Issuer} {arg1 : Ctl} {arg2 : State} : KeepsCtl 117509 arg2 (opGenSwap a arg1 arg2) := by
  unfold opGenSwap
  split
  · extract_lets +onlyGivenNames y1
    clear_value y1
    split
    · exact KeepsCtl.wait Keeps.refl
    · exact KeepsCtl.step ctlOk_keeps rfl Keeps.refl
  · extract_lets +onlyGivenNames y5 y6
    clear_value y5 y6
    split
    · exact KeepsCtl.step ctlEnd_keeps rfl Keeps.refl
    · extract_lets +onlyGivenNames y9 y10
      clear_value y9 y10
      extract_lets +onlyGivenNames y11
      have h12 : Keeps 117509 arg2 y11 := by
        subst y11
        refine Keeps.step State.setGenState_keeps rfl (Keeps.step State.setGenState_keeps rfl ?_)
        exact State.setBit_keeps.mono rfl
      clear_value y11
      extract_lets +onlyGivenNames y13
      have h14 : Keeps 117509 arg2 y13 := by
        subst y13
        exact Keeps.step State.retireCheck_keeps rfl (by assumption)
      clear_value y13
      split
      · exact KeepsCtl.step ctlWait_keeps rfl (by assumption)
      · exact KeepsCtl.step ctlOk_keeps rfl (by assumption)

/-! ### Machine/CtlFlow.lean -/

theorem State.flowOp_keeps {m : Nat} (hm : 0 ||| m = m) {s0 s : State} {c : Ctl} {f : Nat → Nat → List Byte → CtlOut}
    (h : ∀ a b k, KeepsCtl m s0 (f a b k)) (h0 : Keeps m s0 s) : KeepsCtl m s0 (s.flowOp c f) := by
  unfold State.flowOp
  extract_lets len prog key sl
  split
  · exact KeepsCtl.step ctlBad_keeps (Same.sub rfl hm) h0
  · split
    · exact KeepsCtl.step ctlBad_keeps (Same.sub rfl hm) h0
    · split
      · exact KeepsCtl.step ctlWait_keeps (Same.sub rfl hm) h0
      · exact h _ _ _

theorem State.recHbm_keeps {s : State} {sl : Nat} {n : Nat} {e : Rec} {write : Bool} : Keeps 33281 s (State.recHbm s sl n e write) := by
  unfold State.recHbm
  split
  · exact Keeps.refl
  · exact State.ledHbm_keeps.mono rfl

theorem opFlowRead_keeps {a : Issuer} {arg1 : Ctl} {arg2 : State} : KeepsCtl 115201 arg2 (opFlowRead a arg1 arg2) := by
  unfold opFlowRead
  refine State.flowOp_keeps (m := 115201) rfl ?_ ?_
  · intro z0 z1 z2
    split
    · exact KeepsCtl.step ctlEnd_keeps rfl Keeps.refl
    · extract_lets +onlyGivenNames y9
      clear_value y9
      split
      · exact KeepsCtl.step ctlBad_keeps rfl Keeps.refl
      · refine KeepsCtl.step ctlOk_keeps rfl ?_
        refine Keeps.step State.ctlWrite_keeps rfl (Keeps.step State.recHbm_keeps rfl ?_)
        exact Keeps.refl
  · exact Keeps.refl

theorem opFlowWrite_keeps {a : Issuer} {arg1 : Ctl} {arg2 : State} : KeepsCtl 33289 arg2 (opFlowWrite a arg1 arg2) := by
  unfold opFlowWrite
  refine State.flowOp_keeps (m := 33289) rfl ?_ ?_
  · intro z0 z1 z2
    extract_lets +onlyGivenNames y3 y4 y5
    clear_value y3 y4 y5
    split
    · exact KeepsCtl.step ctlBad_keeps rfl Keeps.refl
    · split
      · extract_lets +onlyGivenNames y11
        have h12 : Keeps 33289 arg2 y11.1 := by
          subst y11
          exact State.ctlRead_keeps.mono rfl
        clear_value y11
        extract_lets +onlyGivenNames y13 y14
        clear_value y13 y14
        extract_lets +onlyGivenNames y15
        have h16 : Keeps 33289 arg2 y15 := by
          subst y15
          refine Keeps.step State.recHbm_keeps rfl (Keeps.step State.recHbm_keeps rfl ?_)
          assumption
        clear_value y15
        refine KeepsCtl.step ctlOk_keeps rfl (Keeps.step State.setSlice_keeps rfl ?_)
        assumption
      · split
        · exact KeepsCtl.step ctlEnd_keeps rfl Keeps.refl
        · split
          · exact KeepsCtl.step ctlWait_keeps rfl Keeps.refl
          · rename_i x23 x24
            have h25 : Keeps 33289 arg2 x23 := by
              refine KeepsOpt.of_some (f := id) ?_ x24
              exact KeepsOpt.step State.makePlace_keeps rfl Keeps.refl
            split
            · rename_i x27 x28
              have h29 : Keeps 33289 arg2 x27 := by
                refine Keeps.of_fst ?_ x28
                exact Keeps.step State.reserveRoom_keeps rfl (by assumption)
              exact KeepsCtl.step ctlEnd_keeps rfl Keeps.refl
            · rename_i x31 _ _ x34
              have h35 : Keeps 33289 arg2 x31 := by
                refine Keeps.of_fst ?_ x34
                exact Keeps.step State.reserveRoom_keeps rfl (by assumption)
              extract_lets +onlyGivenNames y36
              have h37 : Keeps 33289 arg2 y36.1 := by
                subst y36
                exact Keeps.step State.ctlRead_keeps rfl (by assumption)
              clear_value y36
              extract_lets +onlyGivenNames y38 y39
              clear_value y38 y39
              extract_lets +onlyGivenNames y40
              have h41 : Keeps 33289 arg2 y40 := by
                subst y40
                exact Keeps.step State.createRec_keeps rfl (by assumption)
              clear_value y40
              exact KeepsCtl.step ctlOk_keeps rfl (by assumption)
  · exact Keeps.refl

theorem opFlowDelete_keeps {a : Issuer} {arg1 : Ctl} {arg2 : State} : KeepsCtl 115465 arg2 (opFlowDelete a arg1 arg2) := by
  unfold opFlowDelete
  refine State.flowOp_keeps (m := 115465) rfl ?_ ?_
  · intro z0 z1 z2
    split
    · exact KeepsCtl.step ctlEnd_keeps rfl Keeps.refl
    · exact KeepsCtl.step ctlEnd_keeps rfl (State.recDelete_keeps.mono rfl)
  · exact Keeps.refl

theorem opFlowPin_keeps {a : Issuer} {arg1 : Ctl} {arg2 : State} : KeepsCtl 33289 arg2 (opFlowPin a arg1 arg2) := by
  unfold opFlowPin
  refine State.flowOp_keeps (m := 33289) rfl ?_ ?_
  · intro z0 z1 z2
    split
    · exact KeepsCtl.step ctlEnd_keeps rfl Keeps.refl
    · extract_lets +onlyGivenNames y9
      subst y9
      extract_lets +onlyGivenNames y10
      subst y10
      split
      · dsimp -zeta only
        refine KeepsCtl.step ctlEnd_keeps rfl (Keeps.step State.setSlice_keeps rfl ?_)
        exact Keeps.refl
      · split
        · dsimp -zeta only
          exact KeepsCtl.step ctlEnd_keeps rfl Keeps.refl
        · split
          · split
            · exact KeepsCtl.step ctlEnd_keeps rfl Keeps.refl
            · split
              · dsimp -zeta only
                refine KeepsCtl.step ctlEnd_keeps rfl (Keeps.step State.setSlice_keeps rfl ?_)
                exact Keeps.refl
              · split
                · exact KeepsCtl.step ctlWait_keeps rfl Keeps.refl
                · rename_i x23 x24
                  have h25 : Keeps 33289 arg2 x23 := by
                    refine KeepsOpt.of_some (f := id) ?_ x24
                    exact KeepsOpt.step State.makePlace_keeps rfl Keeps.refl
                  dsimp -zeta only
                  refine KeepsCtl.step ctlEnd_keeps rfl (Keeps.step State.setSlice_keeps rfl ?_)
                  exact Keeps.step State.recHbm_keeps rfl (by assumption)
          · split
            · exact KeepsCtl.step ctlEnd_keeps rfl Keeps.refl
            · split
              · dsimp -zeta only
                refine KeepsCtl.step ctlEnd_keeps rfl (Keeps.step State.setSlice_keeps rfl ?_)
                exact Keeps.refl
              · split
                · exact KeepsCtl.step ctlWait_keeps rfl Keeps.refl
                · rename_i x34 x35
                  have h36 : Keeps 33289 arg2 x34 := by
                    refine KeepsOpt.of_some (f := id) ?_ x35
                    exact KeepsOpt.step State.makePlace_keeps rfl Keeps.refl
                  dsimp -zeta only
                  refine KeepsCtl.step ctlEnd_keeps rfl (Keeps.step State.setSlice_keeps rfl ?_)
                  exact Keeps.step State.recHbm_keeps rfl (by assumption)
  · exact Keeps.refl

theorem opFlowNext_keeps {a : Issuer} {arg1 : Ctl} {arg2 : State} : KeepsCtl 115201 arg2 (opFlowNext a arg1 arg2) := by
  unfold opFlowNext
  extract_lets +onlyGivenNames y0 y1 y2 y3
  clear_value y0 y1 y2 y3
  split
  · exact KeepsCtl.step ctlEnd_keeps rfl Keeps.refl
  · extract_lets +onlyGivenNames y10 y11
    clear_value y10 y11
    split
    · exact KeepsCtl.step ctlWait_keeps rfl Keeps.refl
    · split
      · exact KeepsCtl.step ctlBad_keeps rfl Keeps.refl
      · refine KeepsCtl.step ctlOk_keeps rfl ?_
        refine Keeps.step State.ctlWrite_keeps rfl (Keeps.step State.recHbm_keeps rfl ?_)
        exact Keeps.refl

theorem State.sliceTurn_keeps {s : State} {sl : Nat} : Keeps 8 s (State.sliceTurn s sl) := by
  unfold State.sliceTurn
  extract_lets +onlyGivenNames y0 y1 y2
  clear_value y0 y1 y2
  extract_lets +onlyGivenNames y3
  have h4 : Keeps 8 s y3 := by
    subst y3
    exact State.setSlice_keeps.mono rfl
  clear_value y3
  refine Keeps.foldl ?_ ?_
  · intro z5 z6
    split
    · rename_i x9 _ _ _ x13 _
      have h15 : Keeps 8 z5 x9 := by
        refine Keeps.of_fst ?_ x13
        exact State.reserveRoom_keeps.mono rfl
      exact Keeps.step State.setBerth_keeps rfl (by assumption)
    · rename_i x18 _ x20 _
      have h22 : Keeps 8 z5 x18 := by
        refine Keeps.of_fst ?_ x20
        exact State.reserveRoom_keeps.mono rfl
      exact Keeps.step State.setBerth_keeps rfl (by assumption)
    · rename_i x25 _ x27 _
      have h29 : Keeps 8 z5 x25 := by
        refine Keeps.of_fst ?_ x27
        exact State.reserveRoom_keeps.mono rfl
      assumption
  · assumption

theorem opLedgerRehash_keeps {a : Issuer} {arg1 : Ctl} {arg2 : State} : KeepsCtl 9 arg2 (opLedgerRehash a arg1 arg2) := by
  unfold opLedgerRehash
  extract_lets +onlyGivenNames y0 y1 y2
  clear_value y0 y1 y2
  split
  · exact KeepsCtl.step ctlBad_keeps rfl Keeps.refl
  · split
    · exact KeepsCtl.step ctlEnd_keeps rfl Keeps.refl
    · extract_lets +onlyGivenNames y7
      clear_value y7
      extract_lets +onlyGivenNames y8
      have h9 : Keeps 9 arg2 y8 := by
        subst y8
        refine Keeps.step State.set_keeps rfl (Keeps.step State.set_keeps rfl ?_)
        exact State.set_keeps.mono rfl
      clear_value y8
      extract_lets +onlyGivenNames y10
      have h11 : Keeps 9 arg2 y10 := by
        subst y10
        refine Keeps.step State.set_keeps rfl (Keeps.step State.set_keeps rfl ?_)
        assumption
      clear_value y10
      extract_lets +onlyGivenNames y12
      clear_value y12
      extract_lets +onlyGivenNames y13
      have h14 : Keeps 9 arg2 y13 := by
        subst y13
        refine Keeps.plain (x := y10) ?_ {} rfl
        assumption
      clear_value y13
      refine KeepsCtl.step ctlEnd_keeps rfl (Keeps.foldl ?_ ?_)
      · intro z15 z16
        exact State.sliceTurn_keeps.mono rfl
      · assumption

theorem opTmShaper_keeps {a : Issuer} {arg1 : Ctl} {arg2 : State} : KeepsCtl 33 arg2 (opTmShaper a arg1 arg2) := by
  unfold opTmShaper
  extract_lets +onlyGivenNames y0 y1 y2
  clear_value y0 y1 y2
  extract_lets +onlyGivenNames y3
  have h4 : Keeps 33 arg2 y3 := by
    subst y3
    refine Keeps.step State.shaperChange_keeps rfl (Keeps.step State.setReg_keeps rfl ?_)
    exact Keeps.refl
  clear_value y3
  exact KeepsCtl.step ctlOk_keeps rfl (by assumption)

theorem opTmGcl_keeps {a : Issuer} {arg1 : Ctl} {arg2 : State} : KeepsCtl 33313 arg2 (opTmGcl a arg1 arg2) := by
  unfold opTmGcl
  extract_lets +onlyGivenNames y0
  clear_value y0
  extract_lets +onlyGivenNames y1
  subst y1
  split
  · split
    · exact KeepsCtl.wait Keeps.refl
    · exact KeepsCtl.step ctlOk_keeps rfl Keeps.refl
  · extract_lets +onlyGivenNames y6
    clear_value y6
    split
    · exact KeepsCtl.step ctlBad_keeps rfl Keeps.refl
    · split
      · exact KeepsCtl.step ctlBad_keeps rfl Keeps.refl
      · split
        · exact KeepsCtl.step ctlBad_keeps rfl Keeps.refl
        · split
          · exact KeepsCtl.step ctlBad_keeps rfl Keeps.refl
          · split
            · exact KeepsCtl.step ctlBad_keeps rfl Keeps.refl
            · extract_lets +onlyGivenNames y17
              have h18 : Keeps 33313 arg2 y17.1 := by
                subst y17
                exact State.ctlRead_keeps.mono rfl
              clear_value y17
              extract_lets +onlyGivenNames y19
              clear_value y19
              split
              · exact KeepsCtl.step ctlBad_keeps rfl (by assumption)
              · extract_lets +onlyGivenNames y22
                clear_value y22
                extract_lets +onlyGivenNames y23
                have h24 : Keeps 33313 arg2 y23 := by
                  subst y23
                  assumption
                clear_value y23
                extract_lets +onlyGivenNames y25 y26
                clear_value y25 y26
                extract_lets +onlyGivenNames y27
                have h28 : Keeps 33313 arg2 y27 := by
                  subst y27
                  refine Keeps.step State.setBit_keeps rfl (Keeps.step State.setGate_keeps rfl ?_)
                  assumption
                clear_value y27
                split
                · exact KeepsCtl.step ctlWait_keeps rfl (by assumption)
                · exact KeepsCtl.step ctlOk_keeps rfl (by assumption)

/-! ### Machine/CtlMisc.lean -/

theorem baseOp_keeps {m : Nat} (hm : 0 ||| m = m) {s0 s : State} {c : Ctl} {f : Nat → CtlOut}
    (h : ∀ b, KeepsCtl m s0 (f b)) (h0 : Keeps m s0 s) : KeepsCtl m s0 (baseOp c s f) := by
  unfold baseOp
  extract_lets b
  split
  · exact KeepsCtl.step ctlBad_keeps (Same.sub rfl hm) h0
  · exact h b

theorem opTimeMeas_keeps {a : Issuer} {arg1 : Ctl} {arg2 : State} : KeepsCtl 117633 arg2 (opTimeMeas a arg1 arg2) := by
  unfold opTimeMeas
  refine baseOp_keeps (m := 117633) rfl ?_ ?_
  · intro z0
    split
    · exact KeepsCtl.step ctlBad_keeps rfl Keeps.refl
    · extract_lets +onlyGivenNames y3
      clear_value y3
      refine KeepsCtl.step ctlEnd_keeps rfl (Keeps.step State.measure_keeps rfl ?_)
      exact Keeps.refl
  · exact Keeps.refl

theorem opTimeMaster_keeps {a : Issuer} {arg1 : Ctl} {arg2 : State} : KeepsCtl 117633 arg2 (opTimeMaster a arg1 arg2) := by
  unfold opTimeMaster
  refine baseOp_keeps (m := 117633) rfl ?_ ?_
  · intro z0
    refine KeepsCtl.step ctlEnd_keeps rfl ?_
    split
    · exact State.holdover_keeps.mono rfl
    · exact Keeps.refl
  · exact Keeps.refl

theorem opTimeAccept_keeps {a : Issuer} {arg1 : Ctl} {arg2 : State} : KeepsCtl 117633 arg2 (opTimeAccept a arg1 arg2) := by
  unfold opTimeAccept
  refine baseOp_keeps (m := 117633) rfl ?_ ?_
  · intro z0
    extract_lets +onlyGivenNames y1
    clear_value y1
    split
    · exact KeepsCtl.step ctlBad_keeps rfl Keeps.refl
    · split
      · exact KeepsCtl.step ctlEnd_keeps rfl (State.acceptPath_keeps.mono rfl)
      · split
        · refine KeepsCtl.step ctlEnd_keeps rfl ?_
          split
          · exact State.lock_keeps.mono rfl
          · exact State.setBase_keeps.mono rfl
        · exact KeepsCtl.step ctlBad_keeps rfl Keeps.refl
  · exact Keeps.refl

theorem opTimeXgOpen_keeps {a : Issuer} {arg1 : Ctl} {arg2 : State} : KeepsCtl 129 arg2 (opTimeXgOpen a arg1 arg2) := by
  unfold opTimeXgOpen
  extract_lets +onlyGivenNames y0 y1
  clear_value y0 y1
  split
  · exact KeepsCtl.step ctlBad_keeps rfl Keeps.refl
  · split
    · exact KeepsCtl.step ctlEnd_keeps rfl Keeps.refl
    · extract_lets +onlyGivenNames y9
      clear_value y9
      extract_lets +onlyGivenNames y10
      have h11 : Keeps 129 arg2 y10 := by
        subst y10
        exact State.setXg_keeps.mono rfl
      clear_value y10
      refine KeepsCtl.step ctlOk_keeps rfl (Keeps.step State.setBit_keeps rfl ?_)
      exact Keeps.step State.set_keeps rfl (by assumption)

theorem opTimeXgClose_keeps {a : Issuer} {arg1 : Ctl} {arg2 : State} : KeepsCtl 129 arg2 (opTimeXgClose a arg1 arg2) := by
  unfold opTimeXgClose
  extract_lets +onlyGivenNames y0 y1
  clear_value y0 y1
  split
  · refine KeepsCtl.step ctlEnd_keeps rfl (Keeps.step State.setBit_keeps rfl (Keeps.step State.setXg_keeps rfl ?_))
    exact Keeps.refl
  · exact KeepsCtl.step ctlEnd_keeps rfl Keeps.refl

theorem opLogSeal_keeps {a : Issuer} {arg1 : Ctl} {arg2 : State} : KeepsCtl 2049 arg2 (opLogSeal a arg1 arg2) := by
  unfold opLogSeal
  extract_lets +onlyGivenNames y0
  subst y0
  split
  · extract_lets +onlyGivenNames y2
    have h3 : Keeps 2049 arg2 y2 := by
      subst y2
      refine Keeps.foldl ?_ ?_
      · intro z4 z5
        exact State.sealPart_keeps.mono rfl
      · exact Keeps.refl
    clear_value y2
    exact KeepsCtl.step ctlOk_keeps rfl (by assumption)
  · split
    · exact KeepsCtl.step ctlEnd_keeps rfl Keeps.refl
    · extract_lets +onlyGivenNames y12
      have h13 : Keeps 2049 arg2 y12 := by
        subst y12
        exact State.sealPart_keeps.mono rfl
      clear_value y12
      exact KeepsCtl.step ctlOk_keeps rfl (by assumption)

theorem State.partResume_keeps {s : State} {p : Nat} {l : List SegScan} : Keeps 2049 s (State.partResume s p l) := by
  unfold State.partResume
  split
  · exact Keeps.refl
  · extract_lets +onlyGivenNames y2 y3
    clear_value y2 y3
    extract_lets +onlyGivenNames y4
    have h5 : Keeps 2049 s y4 := by
      subst y4
      refine Keeps.foldl ?_ ?_
      · intro z6 z7
        extract_lets +onlyGivenNames y8
        clear_value y8
        exact Keeps.plain (x := z6) Keeps.refl {} rfl
      · exact Keeps.refl
    clear_value y4
    extract_lets +onlyGivenNames y9 y10 y11
    clear_value y9 y10 y11
    refine Keeps.step State.segCount_keeps rfl (Keeps.step State.setPart_keeps rfl ?_)
    assumption

theorem opLogPartOpen_keeps {a : Issuer} {arg1 : Ctl} {arg2 : State} : KeepsCtl 2049 arg2 (opLogPartOpen a arg1 arg2) := by
  unfold opLogPartOpen
  split
  · exact KeepsCtl.step ctlWait_keeps rfl Keeps.refl
  · split
    · exact KeepsCtl.step ctlBad_keeps rfl Keeps.refl
    · split
      · exact KeepsCtl.step ctlEnd_keeps rfl Keeps.refl
      · split
        · exact KeepsCtl.step ctlEnd_keeps rfl Keeps.refl
        · extract_lets +onlyGivenNames y14 y15
          clear_value y14 y15
          extract_lets +onlyGivenNames y16
          have h17 : Keeps 2049 arg2 y16 := by
            subst y16
            refine Keeps.step State.setBit_keeps rfl (Keeps.step State.set_keeps rfl ?_)
            exact State.setPart_keeps.mono rfl
          clear_value y16
          refine KeepsCtl.step ctlOk_keeps rfl (Keeps.step State.partResume_keeps rfl ?_)
          assumption

theorem opLogPartClose_keeps {a : Issuer} {arg1 : Ctl} {arg2 : State} : KeepsCtl 2049 arg2 (opLogPartClose a arg1 arg2) := by
  unfold opLogPartClose
  split
  · exact KeepsCtl.step ctlEnd_keeps rfl Keeps.refl
  · split
    · exact KeepsCtl.step ctlEnd_keeps rfl Keeps.refl
    · extract_lets +onlyGivenNames y7
      have h8 : Keeps 2049 arg2 y7 := by
        subst y7
        refine Keeps.step State.set_keeps rfl (Keeps.step State.sealPart_keeps rfl ?_)
        exact Keeps.refl
      clear_value y7
      refine KeepsCtl.step ctlEnd_keeps rfl ?_
      split
      · exact Keeps.step State.set_keeps rfl (by assumption)
      · assumption

theorem State.taskLoad_keeps {s : State} {k : Nat} {w : List Word} : Keeps 513 s (State.taskLoad s k w) := by
  unfold State.taskLoad
  extract_lets +onlyGivenNames y0 y1 y2
  clear_value y0 y1 y2
  extract_lets +onlyGivenNames y3
  have h4 : Keeps 513 s y3 := by
    subst y3
    exact State.setTask_keeps.mono rfl
  clear_value y3
  refine Keeps.step State.makeReady_keeps rfl (Keeps.step State.set_keeps rfl ?_)
  exact Keeps.step State.set_keeps rfl (by assumption)

theorem opTaskCreate_keeps {a : Issuer} {arg1 : Ctl} {arg2 : State} : KeepsCtl 513 arg2 (opTaskCreate a arg1 arg2) := by
  unfold opTaskCreate
  split
  · exact KeepsCtl.step ctlBad_keeps rfl Keeps.refl
  · split
    · extract_lets +onlyGivenNames y6
      clear_value y6
      split
      · exact KeepsCtl.step ctlBad_keeps rfl Keeps.refl
      · exact KeepsCtl.step ctlOk_keeps rfl (State.taskLoad_keeps.mono rfl)
    · split
      · exact KeepsCtl.step ctlEnd_keeps rfl Keeps.refl
      · extract_lets +onlyGivenNames y15
        have h16 : Keeps 513 arg2 y15 := by
          subst y15
          refine Keeps.step State.set_keeps rfl (Keeps.step State.set_keeps rfl ?_)
          exact Keeps.refl
        clear_value y15
        refine KeepsCtl.step ctlOk_keeps rfl (Keeps.step State.taskLoad_keeps rfl ?_)
        assumption

theorem opTaskCancel_keeps {a : Issuer} {arg1 : Ctl} {arg2 : State} : KeepsCtl 33283 arg2 (opTaskCancel a arg1 arg2) := by
  unfold opTaskCancel
  split
  · exact KeepsCtl.step ctlEnd_keeps rfl Keeps.refl
  · refine KeepsCtl.step ctlEnd_keeps rfl ?_
    split
    · extract_lets +onlyGivenNames y6
      have h7 : Keeps 33283 arg2 y6 := by
        subst y6
        exact State.set_keeps.mono rfl
      clear_value y6
      refine Keeps.plain (x := y6) ?_ {} rfl
      assumption
    · split
      · split
        · split
          · exact State.cancelHere_keeps.mono rfl
          · exact State.setTask_keeps.mono rfl
        · exact State.setTask_keeps.mono rfl
      · exact State.cancelTask_keeps.mono rfl

theorem opTaskSignal_keeps {a : Issuer} {arg1 : Ctl} {arg2 : State} : KeepsCtl 513 arg2 (opTaskSignal a arg1 arg2) := by
  unfold opTaskSignal
  split
  · exact KeepsCtl.step ctlEnd_keeps rfl Keeps.refl
  · exact KeepsCtl.step ctlEnd_keeps rfl (State.signal_keeps.mono rfl)

theorem opMboxPost_keeps {a : Issuer} {arg1 : Ctl} {arg2 : State} : KeepsCtl 513 arg2 (opMboxPost a arg1 arg2) := by
  unfold opMboxPost
  extract_lets +onlyGivenNames y0 y1
  clear_value y0 y1
  split
  · split
    · exact KeepsCtl.step ctlEnd_keeps rfl Keeps.refl
    · split
      · exact KeepsCtl.step ctlWait_keeps rfl Keeps.refl
      · exact KeepsCtl.step ctlEnd_keeps rfl (State.mboxPut_keeps.mono rfl)
  · exact KeepsCtl.step ctlEnd_keeps rfl Keeps.refl

theorem opBufAlloc_keeps {a : Issuer} {arg1 : Ctl} {arg2 : State} : KeepsCtl 16 arg2 (opBufAlloc a arg1 arg2) := by
  unfold opBufAlloc
  extract_lets +onlyGivenNames y0
  clear_value y0
  split
  · rename_i x2 _ x4
    have h5 : Keeps 16 arg2 x2 := by
      refine Keeps.of_fst ?_ x4
      exact State.hbAlloc_keeps.mono rfl
    exact KeepsCtl.step ctlOk_keeps rfl (by assumption)
  · rename_i x7 x8
    have h9 : Keeps 16 arg2 x7 := by
      refine Keeps.of_fst ?_ x8
      exact State.hbAlloc_keeps.mono rfl
    exact KeepsCtl.step ctlEnd_keeps rfl (by assumption)

theorem opBufFree_keeps {a : Issuer} {arg1 : Ctl} {arg2 : State} : KeepsCtl 117521 arg2 (opBufFree a arg1 arg2) := by
  unfold opBufFree
  split
  · exact KeepsCtl.step ctlBad_keeps rfl Keeps.refl
  · extract_lets +onlyGivenNames y6
    have h7 : Keeps 117521 arg2 y6.2 := by
      subst y6
      exact State.hbFree_keeps.mono rfl
    clear_value y6
    exact KeepsCtl.step ctlEnd_keeps rfl (by assumption)

theorem State.hbGive_keeps {s : State} {h : Nat} {x : Nat} {req : Nat} {dest : Nat} : Keeps 117521 s (State.hbGive s h x req dest).2 := by
  unfold State.hbGive
  split
  · dsimp only
    refine Keeps.step State.ownerRefuse_keeps rfl (Keeps.step State.useFree_keeps rfl ?_)
    exact Keeps.refl
  · split
    · dsimp only
      exact State.ownerRefuse_keeps.mono rfl
    · split
      · dsimp only
        exact State.ownerRefuse_keeps.mono rfl
      · dsimp only
        exact Keeps.plain (x := s) Keeps.refl {} rfl

theorem opBufGive_keeps {a : Issuer} {arg1 : Ctl} {arg2 : State} : KeepsCtl 117521 arg2 (opBufGive a arg1 arg2) := by
  unfold opBufGive
  split
  · exact KeepsCtl.step ctlBad_keeps rfl Keeps.refl
  · extract_lets +onlyGivenNames y6
    have h7 : Keeps 117521 arg2 y6.2 := by
      subst y6
      exact State.hbGive_keeps.mono rfl
    clear_value y6
    exact KeepsCtl.step ctlEnd_keeps rfl (by assumption)

/-! ### Machine/Cmd.lean -/

theorem ctlOp_keeps {op need modes : Nat} {p : Bool} {f : CtlFn} (h : ctlOp op = some (need, modes, p, f)) {iss : Issuer} {c : Ctl}
    {s : State} : KeepsCtl 524287 s (f iss c s) := by
  have e : (ctlOp op).map (fun r => r.2.2.2) = some f := by rw [h]; rfl
  clear h
  unfold ctlOp at e
  split at e
  case h_1 => cases e; exact KeepsCtl.step (@opChanOpen_keeps iss c s) rfl Keeps.refl
  case h_2 => cases e; exact KeepsCtl.step (@opChanClose_keeps iss c s) rfl Keeps.refl
  case h_3 => cases e; exact KeepsCtl.step (@opChanInfo_keeps iss c s) rfl Keeps.refl
  case h_4 => cases e; exact KeepsCtl.step (@opCmdAbort_keeps iss c s) rfl Keeps.refl
  case h_5 => cases e; exact KeepsCtl.step (@opCmdWait_keeps iss c s) rfl Keeps.refl
  case h_6 => cases e; exact KeepsCtl.step (@opBarrier_keeps iss c s) rfl Keeps.refl
  case h_7 => cases e; exact KeepsCtl.step (@opGet_keeps iss c s) rfl Keeps.refl
  case h_8 => cases e; exact KeepsCtl.step (@opSet_keeps iss c s) rfl Keeps.refl
  case h_9 => cases e; exact KeepsCtl.step (@opSetm_keeps iss c s) rfl Keeps.refl
  case h_10 => cases e; exact KeepsCtl.step (@opSysMode_keeps iss c s) rfl Keeps.refl
  case h_11 => cases e; exact KeepsCtl.step (@opHarbour_keeps iss c s) rfl Keeps.refl
  case h_12 => cases e; exact KeepsCtl.step (@opEmInsert_keeps iss c s) rfl Keeps.refl
  case h_13 => cases e; exact KeepsCtl.step (@opEmDelete_keeps iss c s) rfl Keeps.refl
  case h_14 => cases e; exact KeepsCtl.step (@opEmUpdate_keeps iss c s) rfl Keeps.refl
  case h_15 => cases e; exact KeepsCtl.step (@opEmSearch_keeps iss c s) rfl Keeps.refl
  case h_16 => cases e; exact KeepsCtl.step (@opEmNext_keeps iss c s) rfl Keeps.refl
  case h_17 => cases e; exact KeepsCtl.step (@opEmFlushPort_keeps iss c s) rfl Keeps.refl
  case h_18 => cases e; exact KeepsCtl.step (@opLpmInsert_keeps iss c s) rfl Keeps.refl
  case h_19 => cases e; exact KeepsCtl.step (@opLpmDelete_keeps iss c s) rfl Keeps.refl
  case h_20 => cases e; exact KeepsCtl.step (@opLpmSearch_keeps iss c s) rfl Keeps.refl
  case h_21 => cases e; exact KeepsCtl.step (@opLpmNext_keeps iss c s) rfl Keeps.refl
  case h_22 => cases e; exact KeepsCtl.step (@opTcamWrite_keeps iss c s) rfl Keeps.refl
  case h_23 => cases e; exact KeepsCtl.step (@opTcamRead_keeps iss c s) rfl Keeps.refl
  case h_24 => cases e; exact KeepsCtl.step (@opTcamClear_keeps iss c s) rfl Keeps.refl
  case h_25 => cases e; exact KeepsCtl.step (@opObjWrite_keeps iss c s) rfl Keeps.refl
  case h_26 => cases e; exact KeepsCtl.step (@opObjRead_keeps iss c s) rfl Keeps.refl
  case h_27 => cases e; exact KeepsCtl.step (@opProgLoad_keeps iss c s) rfl Keeps.refl
  case h_28 => cases e; exact KeepsCtl.step (@opGenSwap_keeps iss c s) rfl Keeps.refl
  case h_29 => cases e; exact KeepsCtl.step (@opFlowRead_keeps iss c s) rfl Keeps.refl
  case h_30 => cases e; exact KeepsCtl.step (@opFlowWrite_keeps iss c s) rfl Keeps.refl
  case h_31 => cases e; exact KeepsCtl.step (@opFlowDelete_keeps iss c s) rfl Keeps.refl
  case h_32 => cases e; exact KeepsCtl.step (@opFlowPin_keeps iss c s) rfl Keeps.refl
  case h_33 => cases e; exact KeepsCtl.step (@opFlowNext_keeps iss c s) rfl Keeps.refl
  case h_34 => cases e; exact KeepsCtl.step (@opLedgerRehash_keeps iss c s) rfl Keeps.refl
  case h_35 => cases e; exact KeepsCtl.step (@opTmShaper_keeps iss c s) rfl Keeps.refl
  case h_36 => cases e; exact KeepsCtl.step (@opTmGcl_keeps iss c s) rfl Keeps.refl
  case h_37 => cases e; exact KeepsCtl.step (@opTimeMeas_keeps iss c s) rfl Keeps.refl
  case h_38 => cases e; exact KeepsCtl.step (@opTimeMaster_keeps iss c s) rfl Keeps.refl
  case h_39 => cases e; exact KeepsCtl.step (@opTimeAccept_keeps iss c s) rfl Keeps.refl
  case h_40 => cases e; exact KeepsCtl.step (@opTimeXgOpen_keeps iss c s) rfl Keeps.refl
  case h_41 => cases e; exact KeepsCtl.step (@opTimeXgClose_keeps iss c s) rfl Keeps.refl
  case h_42 => cases e; exact KeepsCtl.step (@opLogSeal_keeps iss c s) rfl Keeps.refl
  case h_43 => cases e; exact KeepsCtl.step (@opLogPartOpen_keeps iss c s) rfl Keeps.refl
  case h_44 => cases e; exact KeepsCtl.step (@opLogPartClose_keeps iss c s) rfl Keeps.refl
  case h_45 => cases e; exact KeepsCtl.step (@opTaskCreate_keeps iss c s) rfl Keeps.refl
  case h_46 => cases e; exact KeepsCtl.step (@opTaskCancel_keeps iss c s) rfl Keeps.refl
  case h_47 => cases e; exact KeepsCtl.step (@opTaskSignal_keeps iss c s) rfl Keeps.refl
  case h_48 => cases e; exact KeepsCtl.step (@opMboxPost_keeps iss c s) rfl Keeps.refl
  case h_49 => cases e; exact KeepsCtl.step (@opBufAlloc_keeps iss c s) rfl Keeps.refl
  case h_50 => cases e; exact KeepsCtl.step (@opBufFree_keeps iss c s) rfl Keeps.refl
  case h_51 => cases e; exact KeepsCtl.step (@opBufGive_keeps iss c s) rfl Keeps.refl
  case h_52 => cases e; exact KeepsCtl.step (@opUcodePatch_keeps iss c s) rfl Keeps.refl
  case h_53 => cases e; exact KeepsCtl.step (@opUcodeInfo_keeps iss c s) rfl Keeps.refl
  case h_54 => cases e

theorem runCtl_keeps {iss : Issuer} {c : Ctl} {s : State} : KeepsCtl 524287 s (runCtl iss c s) := by
  unfold runCtl
  split
  · split
    · exact KeepsCtl.step opCmdWait_keeps rfl Keeps.refl
    · exact KeepsCtl.done Keeps.refl
  · split
    · exact KeepsCtl.step ctlBad_keeps rfl Keeps.refl
    · rename_i h
      split
      · exact ctlOp_keeps h
      · split
        · exact KeepsCtl.step ctlEnd_keeps rfl Keeps.refl
        · split
          · exact KeepsCtl.step ctlEnd_keeps rfl Keeps.refl
          · split
            · exact KeepsCtl.step ctlBad_keeps rfl Keeps.refl
            · exact ctlOp_keeps h

theorem State.park_keeps {s : State} {iss : Issuer} {c : Ctl} : Keeps 257 s (State.park s iss c) := by
  unfold State.park
  extract_lets +onlyGivenNames y0
  clear_value y0
  split
  · extract_lets +onlyGivenNames y2
    clear_value y2
    extract_lets +onlyGivenNames y3
    have h4 : Keeps 257 s y3 := by
      subst y3
      exact Keeps.plain (x := s) Keeps.refl {} rfl
    clear_value y3
    split
    · exact Keeps.step State.setBit_keeps rfl (by assumption)
    · assumption
  · extract_lets +onlyGivenNames y10
    have h11 : Keeps 257 s y10 := by
      subst y10
      exact State.bump_keeps.mono rfl
    clear_value y10
    refine Keeps.plain (x := y10) ?_ {} rfl
    assumption

theorem State.turn_keeps {s : State} {e : Nat} {iss : Issuer} {c : Ctl} : Keeps 524287 s (State.turn s e iss c) := by
  unfold State.turn
  extract_lets +onlyGivenNames y0 y1
  clear_value y0 y1
  extract_lets +onlyGivenNames y2
  have h3 : Keeps 524287 s y2 := by
    subst y2
    exact Keeps.plain (x := s) Keeps.refl {} rfl
  clear_value y2
  split
  · exact Keeps.step State.park_keeps rfl (by assumption)
  · split
    · rename_i x7 _ _ _ x11
      have h12 : Keeps 524287 s x7 := by
        refine KeepsCtl.of_done ?_ x11
        exact KeepsCtl.step runCtl_keeps rfl (by assumption)
      exact Keeps.step State.finish_keeps rfl (by assumption)
    · rename_i x14 _ x16
      have h17 : Keeps 524287 s x14 := by
        refine KeepsCtl.of_wait ?_ x16
        exact KeepsCtl.step runCtl_keeps rfl (by assumption)
      exact Keeps.step State.park_keeps rfl (by assumption)
    · rename_i x19 _ x21
      have h22 : Keeps 524287 s x19 := by
        refine KeepsCtl.of_more ?_ x21
        exact KeepsCtl.step runCtl_keeps rfl (by assumption)
      refine Keeps.plain (x := x19) ?_ {} rfl
      assumption
    · rename_i x24 x25
      have h26 : Keeps 524287 s x24 := by
        refine KeepsCtl.of_gone ?_ x25
        exact KeepsCtl.step runCtl_keeps rfl (by assumption)
      refine Keeps.plain (x := x24) ?_ {} rfl
      assumption

theorem State.batchStep_keeps {s : State} {c : Nat} : Keeps 256 s (State.batchStep s c) := by
  unfold State.batchStep
  extract_lets +onlyGivenNames y0
  clear_value y0
  split
  · split
    · exact State.setChan_keeps.mono rfl
    · exact Keeps.refl
  · split
    · exact State.setChan_keeps.mono rfl
    · exact Keeps.refl

theorem State.kTake_keeps {s : State} {c : Nat} {n : Nat} : Keeps 33537 s (State.kTake s c n) := by
  unfold State.kTake
  extract_lets +onlyGivenNames y0 y1
  clear_value y0 y1
  extract_lets +onlyGivenNames y2
  have h3 : Keeps 33537 s y2 := by
    subst y2
    refine Keeps.step State.setHead_keeps rfl (Keeps.step State.chGot_keeps rfl ?_)
    exact Keeps.refl
  clear_value y2
  extract_lets +onlyGivenNames y4
  clear_value y4
  extract_lets +onlyGivenNames y5
  subst y5
  exact Keeps.step State.setChan_keeps rfl (by assumption)

theorem State.kRun_keeps {s : State} {i : Instr} : Keeps 131071 s (s.kRun i) := by
  unfold State.kRun
  extract_lets r
  have hr : KeepsOut 131071 s r := by
    subst r
    split
    · exact KeepsOut.step execAddi_keeps rfl Keeps.refl
    · exact KeepsOut.step execAndi_keeps rfl Keeps.refl
    · exact KeepsOut.step execOri_keeps rfl Keeps.refl
    · exact KeepsOut.step execXori_keeps rfl Keeps.refl
    · exact KeepsOut.step execShi_keeps rfl Keeps.refl
    · exact KeepsOut.step execMovi_keeps rfl Keeps.refl
    · exact KeepsOut.next Keeps.refl
  clear_value r
  split
  · exact KeepsOut.of_next hr rfl
  · exact Keeps.refl

theorem State.kFetch_keeps {c : Chan} {a : Nat} {arg2 : State} : Keeps 131071 arg2 (State.kFetch c a arg2).1 := by
  induction a generalizing c arg2
  · rw [State.kFetch]
    dsimp only
    exact Keeps.refl
  · rename_i ih
    rw [State.kFetch]
    split
    · dsimp only
      exact State.batchStep_keeps.mono rfl
    · extract_lets +onlyGivenNames y2 y3 y4
      clear_value y2 y3 y4
      split
      · dsimp only
        refine Keeps.step State.kTake_keeps rfl (Keeps.step State.batchStep_keeps rfl ?_)
        exact Keeps.refl
      · extract_lets +onlyGivenNames y7
        have h8 : Keeps 131071 arg2 y7 := by
          subst y7
          refine Keeps.step State.kTake_keeps rfl (Keeps.step State.batchStep_keeps rfl ?_)
          exact Keeps.refl
        clear_value y7
        split
        · exact Keeps.step ih rfl (by assumption)
        · split
          · exact Keeps.step ih rfl (Keeps.step State.kRun_keeps rfl (by assumption))
          · dsimp only
            assumption

theorem State.nextCtl_keeps {s : State} {iss : Issuer} : Keeps 131071 s (State.nextCtl s iss).1 := by
  unfold State.nextCtl
  split
  · dsimp only
    exact Keeps.refl
  · split
    · split
      · exact State.kFetch_keeps.mono rfl
      · dsimp only
        exact Keeps.refl
    · split
      · dsimp only
        exact Keeps.refl
      · dsimp only
        exact State.setTport_keeps.mono rfl

theorem State.engineCheck_keeps {s : State} {e : Nat} {iss : Issuer} {c : Ctl} {upc : Nat} : Keeps 129793 s (State.engineCheck s e iss c upc) := by
  unfold State.engineCheck
  extract_lets +onlyGivenNames y0
  clear_value y0
  extract_lets +onlyGivenNames y1
  have h2 : Keeps 129793 s y1 := by
    subst y1
    refine Keeps.step State.set_keeps rfl (Keeps.step State.setBit_keeps rfl ?_)
    exact State.set_keeps.mono rfl
  clear_value y1
  extract_lets +onlyGivenNames y3
  have h4 : Keeps 129793 s y3 := by
    subst y3
    refine Keeps.step State.bump_keeps rfl (Keeps.step State.set_keeps rfl ?_)
    exact Keeps.step State.set_keeps rfl (by assumption)
  clear_value y3
  extract_lets +onlyGivenNames y5
  have h6 : Keeps 129793 s y5 := by
    subst y5
    exact Keeps.step State.cmdEvent_keeps rfl (by assumption)
  clear_value y5
  extract_lets +onlyGivenNames y7 y8
  clear_value y7 y8
  extract_lets +onlyGivenNames y9
  have h10 : Keeps 129793 s y9 := by
    subst y9
    refine Keeps.plain (x := y5) ?_ {} rfl
    assumption
  clear_value y9
  split
  · extract_lets +onlyGivenNames y12
    have h13 : Keeps 129793 s y12 := by
      subst y12
      refine Keeps.step State.cmdEvent_keeps rfl (Keeps.step State.setBit_keeps rfl ?_)
      assumption
    clear_value y12
    split
    · exact Keeps.step State.setCause_keeps rfl (Keeps.step State.cmdEvent_keeps rfl (by assumption))
    · assumption
  · assumption

theorem execCmdDispatch_keeps {e : Engine} {ucErr : Option (BitVec 15)} {s : State} : KeepsOut 524287 s (execCmdDispatch e ucErr s) := by
  unfold execCmdDispatch
  refine KeepsOut.next ?_
  split
  · exact Keeps.refl
  · split
    · exact Keeps.refl
    · extract_lets +onlyGivenNames y8
      clear_value y8
      extract_lets +onlyGivenNames y9
      have h10 : Keeps 524287 s y9 := by
        subst y9
        exact Keeps.plain (x := s) Keeps.refl {} rfl
      clear_value y9
      split
      · assumption
      · split
        · rename_i x14 x15
          have h16 : Keeps 524287 s x14 := by
            refine Keeps.of_fst ?_ x15
            exact Keeps.step State.nextCtl_keeps rfl (by assumption)
          assumption
        · rename_i x18 _ x20
          have h21 : Keeps 524287 s x18 := by
            refine Keeps.of_fst ?_ x20
            exact Keeps.step State.nextCtl_keeps rfl (by assumption)
          split
          · exact Keeps.step State.turn_keeps rfl (Keeps.step State.engineCheck_keeps rfl (by assumption))
          · refine Keeps.step State.turn_keeps rfl ?_
            refine Keeps.step State.engineCheck_keeps rfl (Keeps.step State.useFree_keeps rfl ?_)
            assumption
          · exact Keeps.step State.turn_keeps rfl (by assumption)

theorem execSliceEnd_keeps {e : Engine} {s : State} : KeepsOut 524287 s (execSliceEnd e s) := by
  unfold execSliceEnd
  refine KeepsOut.next ?_
  split
  · exact Keeps.refl
  · split
    · exact Keeps.refl
    · extract_lets +onlyGivenNames y10
      subst y10
      split
      · dsimp -zeta only
        extract_lets +onlyGivenNames y12
        have h13 : Keeps 524287 s y12 := by
          subst y12
          exact State.bump_keeps.mono rfl
        clear_value y12
        refine Keeps.step State.joinReady_keeps rfl (Keeps.plain (x := y12) ?_ {} rfl)
        assumption
      · split
        · exact State.turn_keeps.mono rfl
        · split
          · rename_i x18 _ x20
            have h21 : Keeps 524287 s x18 := by
              refine KeepsCtl.of_wait ?_ x20
              split
              · exact KeepsCtl.step runCtl_keeps rfl Keeps.refl
              · exact KeepsCtl.wait Keeps.refl
            dsimp -zeta only
            extract_lets +onlyGivenNames y24
            have h25 : Keeps 524287 s y24 := by
              subst y24
              exact State.bump_keeps.mono rfl
            clear_value y24
            refine Keeps.step State.joinReady_keeps rfl (Keeps.plain (x := y24) ?_ {} rfl)
            assumption
          · exact State.turn_keeps.mono rfl

theorem State.unpark_keeps {s : State} {iss : Issuer} {c : Ctl} : Keeps 524287 s (State.unpark s iss c) := by
  unfold State.unpark
  extract_lets +onlyGivenNames y0
  clear_value y0
  split
  · extract_lets +onlyGivenNames y2
    clear_value y2
    extract_lets +onlyGivenNames y3
    have h4 : Keeps 524287 s y3 := by
      subst y3
      exact Keeps.plain (x := s) Keeps.refl {} rfl
    clear_value y3
    extract_lets +onlyGivenNames y5
    have h6 : Keeps 524287 s y5 := by
      subst y5
      split
      · exact Keeps.step State.setBit_keeps rfl (by assumption)
      · assumption
    clear_value y5
    exact Keeps.step State.joinReady_keeps rfl (by assumption)
  · split
    · exact State.turn_keeps.mono rfl
    · exact Keeps.plain (x := s) Keeps.refl {} rfl

theorem execParkWake_keeps {iss : Issuer} {s : State} : KeepsOut 524287 s (execParkWake iss s) := by
  unfold execParkWake
  refine KeepsOut.next ?_
  split
  · split
    · exact State.unpark_keeps.mono rfl
    · exact Keeps.refl
  · exact Keeps.refl

theorem execParkTimeout_keeps {iss : Issuer} {s : State} : KeepsOut 524287 s (execParkTimeout iss s) := by
  unfold execParkTimeout
  refine KeepsOut.next ?_
  split
  · split
    · split
      · exact State.unpark_keeps.mono rfl
      · exact Keeps.refl
    · exact Keeps.refl
  · exact Keeps.refl

theorem execCtl_keeps {t : Core} {op : BitVec 10} {desc : BitVec 16} {s : State} : KeepsOut 130819 s (execCtl t op desc s) := by
  unfold execCtl
  refine KeepsOut.next (State.tugRun_keeps (m := 130819) ?_ ?_)
  · decide
  intro z
  extract_lets d pc a p
  split
  · exact Keeps.refl
  · split
    · exact State.trapHere_keeps.mono rfl
    · rename_i w c z2 _ _
      clear_value w c
      have h2 : Keeps 130819 z z2 := by subst z2; exact State.setTport_keeps.mono rfl
      clear_value z2
      exact State.joinReady_keeps.step rfl (State.tugJump_keeps.step rfl h2)

theorem State.direct_keeps {s : State} {iss : Issuer} {op : Nat} {tag : BitVec 6} {w : List Word} : Keeps 524287 s (State.direct s iss op tag w) := by
  unfold State.direct
  split
  · exact Keeps.refl
  · split
    · exact Keeps.refl
    · exact State.turn_keeps.mono rfl

theorem execChanOpen_keeps {iss : Issuer} {tag : BitVec 6} {w : List Word} {s : State} : KeepsOut 524287 s (execChanOpen iss tag w s) := by
  unfold execChanOpen
  refine KeepsOut.next (Keeps.step State.direct_keeps rfl ?_)
  exact Keeps.refl

theorem execChanClose_keeps {iss : Issuer} {tag : BitVec 6} {w : List Word} {s : State} : KeepsOut 524287 s (execChanClose iss tag w s) := by
  unfold execChanClose
  refine KeepsOut.next (Keeps.step State.direct_keeps rfl ?_)
  exact Keeps.refl

theorem execChanInfo_keeps {iss : Issuer} {tag : BitVec 6} {w : List Word} {s : State} : KeepsOut 524287 s (execChanInfo iss tag w s) := by
  unfold execChanInfo
  refine KeepsOut.next (Keeps.step State.direct_keeps rfl ?_)
  exact Keeps.refl

theorem execCmdAbort_keeps {iss : Issuer} {tag : BitVec 6} {w : List Word} {s : State} : KeepsOut 524287 s (execCmdAbort iss tag w s) := by
  unfold execCmdAbort
  refine KeepsOut.next (Keeps.step State.direct_keeps rfl ?_)
  exact Keeps.refl

theorem execCmdWait_keeps {iss : Issuer} {tag : BitVec 6} {w : List Word} {s : State} : KeepsOut 524287 s (execCmdWait iss tag w s) := by
  unfold execCmdWait
  refine KeepsOut.next (Keeps.step State.direct_keeps rfl ?_)
  exact Keeps.refl

theorem execBarrier_keeps {iss : Issuer} {tag : BitVec 6} {w : List Word} {s : State} : KeepsOut 524287 s (execBarrier iss tag w s) := by
  unfold execBarrier
  refine KeepsOut.next (Keeps.step State.direct_keeps rfl ?_)
  exact Keeps.refl

theorem execGetReg_keeps {iss : Issuer} {tag : BitVec 6} {w : List Word} {s : State} : KeepsOut 524287 s (execGetReg iss tag w s) := by
  unfold execGetReg
  refine KeepsOut.next (Keeps.step State.direct_keeps rfl ?_)
  exact Keeps.refl

theorem execSetReg_keeps {iss : Issuer} {tag : BitVec 6} {w : List Word} {s : State} : KeepsOut 524287 s (execSetReg iss tag w s) := by
  unfold execSetReg
  refine KeepsOut.next (Keeps.step State.direct_keeps rfl ?_)
  exact Keeps.refl

theorem execSetMasked_keeps {iss : Issuer} {tag : BitVec 6} {w : List Word} {s : State} : KeepsOut 524287 s (execSetMasked iss tag w s) := by
  unfold execSetMasked
  refine KeepsOut.next (Keeps.step State.direct_keeps rfl ?_)
  exact Keeps.refl

theorem execSetm_keeps {iss : Issuer} {tag : BitVec 6} {w : List Word} {s : State} : KeepsOut 524287 s (execSetm iss tag w s) := by
  unfold execSetm
  refine KeepsOut.next (Keeps.step State.direct_keeps rfl ?_)
  exact Keeps.refl

theorem execSysModeMoored_keeps {iss : Issuer} {tag : BitVec 6} {w : List Word} {s : State} : KeepsOut 524287 s (execSysModeMoored iss tag w s) := by
  unfold execSysModeMoored
  refine KeepsOut.next (Keeps.step State.direct_keeps rfl ?_)
  exact Keeps.refl

theorem execSysModeService_keeps {iss : Issuer} {tag : BitVec 6} {w : List Word} {s : State} : KeepsOut 524287 s (execSysModeService iss tag w s) := by
  unfold execSysModeService
  refine KeepsOut.next (Keeps.step State.direct_keeps rfl ?_)
  exact Keeps.refl

theorem execSysModeSlack_keeps {iss : Issuer} {tag : BitVec 6} {w : List Word} {s : State} : KeepsOut 524287 s (execSysModeSlack iss tag w s) := by
  unfold execSysModeSlack
  refine KeepsOut.next (Keeps.step State.direct_keeps rfl ?_)
  exact Keeps.refl

theorem execSysModeDrydock_keeps {iss : Issuer} {tag : BitVec 6} {w : List Word} {s : State} : KeepsOut 524287 s (execSysModeDrydock iss tag w s) := by
  unfold execSysModeDrydock
  refine KeepsOut.next (Keeps.step State.direct_keeps rfl ?_)
  exact Keeps.refl

theorem execSysModeHalt_keeps {iss : Issuer} {tag : BitVec 6} {w : List Word} {s : State} : KeepsOut 524287 s (execSysModeHalt iss tag w s) := by
  unfold execSysModeHalt
  refine KeepsOut.next (Keeps.step State.direct_keeps rfl ?_)
  exact Keeps.refl

theorem execHarbour_keeps {iss : Issuer} {tag : BitVec 6} {w : List Word} {s : State} : KeepsOut 524287 s (execHarbour iss tag w s) := by
  unfold execHarbour
  refine KeepsOut.next (Keeps.step State.direct_keeps rfl ?_)
  exact Keeps.refl

theorem execEmInsert_keeps {iss : Issuer} {tag : BitVec 6} {w : List Word} {s : State} : KeepsOut 524287 s (execEmInsert iss tag w s) := by
  unfold execEmInsert
  refine KeepsOut.next (Keeps.step State.direct_keeps rfl ?_)
  exact Keeps.refl

theorem execEmDelete_keeps {iss : Issuer} {tag : BitVec 6} {w : List Word} {s : State} : KeepsOut 524287 s (execEmDelete iss tag w s) := by
  unfold execEmDelete
  refine KeepsOut.next (Keeps.step State.direct_keeps rfl ?_)
  exact Keeps.refl

theorem execEmUpdate_keeps {iss : Issuer} {tag : BitVec 6} {w : List Word} {s : State} : KeepsOut 524287 s (execEmUpdate iss tag w s) := by
  unfold execEmUpdate
  refine KeepsOut.next (Keeps.step State.direct_keeps rfl ?_)
  exact Keeps.refl

theorem execEmSearch_keeps {iss : Issuer} {tag : BitVec 6} {w : List Word} {s : State} : KeepsOut 524287 s (execEmSearch iss tag w s) := by
  unfold execEmSearch
  refine KeepsOut.next (Keeps.step State.direct_keeps rfl ?_)
  exact Keeps.refl

theorem execEmNext_keeps {iss : Issuer} {tag : BitVec 6} {w : List Word} {s : State} : KeepsOut 524287 s (execEmNext iss tag w s) := by
  unfold execEmNext
  refine KeepsOut.next (Keeps.step State.direct_keeps rfl ?_)
  exact Keeps.refl

theorem execEmFlushPort_keeps {iss : Issuer} {tag : BitVec 6} {w : List Word} {s : State} : KeepsOut 524287 s (execEmFlushPort iss tag w s) := by
  unfold execEmFlushPort
  refine KeepsOut.next (Keeps.step State.direct_keeps rfl ?_)
  exact Keeps.refl

theorem execLpmInsert_keeps {iss : Issuer} {tag : BitVec 6} {w : List Word} {s : State} : KeepsOut 524287 s (execLpmInsert iss tag w s) := by
  unfold execLpmInsert
  refine KeepsOut.next (Keeps.step State.direct_keeps rfl ?_)
  exact Keeps.refl

theorem execLpmDelete_keeps {iss : Issuer} {tag : BitVec 6} {w : List Word} {s : State} : KeepsOut 524287 s (execLpmDelete iss tag w s) := by
  unfold execLpmDelete
  refine KeepsOut.next (Keeps.step State.direct_keeps rfl ?_)
  exact Keeps.refl

theorem execLpmSearch_keeps {iss : Issuer} {tag : BitVec 6} {w : List Word} {s : State} : KeepsOut 524287 s (execLpmSearch iss tag w s) := by
  unfold execLpmSearch
  refine KeepsOut.next (Keeps.step State.direct_keeps rfl ?_)
  exact Keeps.refl

theorem execLpmNext_keeps {iss : Issuer} {tag : BitVec 6} {w : List Word} {s : State} : KeepsOut 524287 s (execLpmNext iss tag w s) := by
  unfold execLpmNext
  refine KeepsOut.next (Keeps.step State.direct_keeps rfl ?_)
  exact Keeps.refl

theorem execTcamWrite_keeps {iss : Issuer} {tag : BitVec 6} {w : List Word} {s : State} : KeepsOut 524287 s (execTcamWrite iss tag w s) := by
  unfold execTcamWrite
  refine KeepsOut.next (Keeps.step State.direct_keeps rfl ?_)
  exact Keeps.refl

theorem execTcamRead_keeps {iss : Issuer} {tag : BitVec 6} {w : List Word} {s : State} : KeepsOut 524287 s (execTcamRead iss tag w s) := by
  unfold execTcamRead
  refine KeepsOut.next (Keeps.step State.direct_keeps rfl ?_)
  exact Keeps.refl

theorem execTcamClear_keeps {iss : Issuer} {tag : BitVec 6} {w : List Word} {s : State} : KeepsOut 524287 s (execTcamClear iss tag w s) := by
  unfold execTcamClear
  refine KeepsOut.next (Keeps.step State.direct_keeps rfl ?_)
  exact Keeps.refl

theorem execObjWrite_keeps {iss : Issuer} {tag : BitVec 6} {w : List Word} {s : State} : KeepsOut 524287 s (execObjWrite iss tag w s) := by
  unfold execObjWrite
  refine KeepsOut.next (Keeps.step State.direct_keeps rfl ?_)
  exact Keeps.refl

theorem execObjRead_keeps {iss : Issuer} {tag : BitVec 6} {w : List Word} {s : State} : KeepsOut 524287 s (execObjRead iss tag w s) := by
  unfold execObjRead
  refine KeepsOut.next (Keeps.step State.direct_keeps rfl ?_)
  exact Keeps.refl

theorem execProgLoad_keeps {iss : Issuer} {tag : BitVec 6} {w : List Word} {s : State} : KeepsOut 524287 s (execProgLoad iss tag w s) := by
  unfold execProgLoad
  refine KeepsOut.next (Keeps.step State.direct_keeps rfl ?_)
  exact Keeps.refl

theorem execGenSwap_keeps {iss : Issuer} {tag : BitVec 6} {w : List Word} {s : State} : KeepsOut 524287 s (execGenSwap iss tag w s) := by
  unfold execGenSwap
  refine KeepsOut.next (Keeps.step State.direct_keeps rfl ?_)
  exact Keeps.refl

theorem execFlowRead_keeps {iss : Issuer} {tag : BitVec 6} {w : List Word} {s : State} : KeepsOut 524287 s (execFlowRead iss tag w s) := by
  unfold execFlowRead
  refine KeepsOut.next (Keeps.step State.direct_keeps rfl ?_)
  exact Keeps.refl

theorem execFlowWrite_keeps {iss : Issuer} {tag : BitVec 6} {w : List Word} {s : State} : KeepsOut 524287 s (execFlowWrite iss tag w s) := by
  unfold execFlowWrite
  refine KeepsOut.next (Keeps.step State.direct_keeps rfl ?_)
  exact Keeps.refl

theorem execFlowDelete_keeps {iss : Issuer} {tag : BitVec 6} {w : List Word} {s : State} : KeepsOut 524287 s (execFlowDelete iss tag w s) := by
  unfold execFlowDelete
  refine KeepsOut.next (Keeps.step State.direct_keeps rfl ?_)
  exact Keeps.refl

theorem execFlowPin_keeps {iss : Issuer} {tag : BitVec 6} {w : List Word} {s : State} : KeepsOut 524287 s (execFlowPin iss tag w s) := by
  unfold execFlowPin
  refine KeepsOut.next (Keeps.step State.direct_keeps rfl ?_)
  exact Keeps.refl

theorem execFlowUnpin_keeps {iss : Issuer} {tag : BitVec 6} {w : List Word} {s : State} : KeepsOut 524287 s (execFlowUnpin iss tag w s) := by
  unfold execFlowUnpin
  refine KeepsOut.next (Keeps.step State.direct_keeps rfl ?_)
  exact Keeps.refl

theorem execFlowNext_keeps {iss : Issuer} {tag : BitVec 6} {w : List Word} {s : State} : KeepsOut 524287 s (execFlowNext iss tag w s) := by
  unfold execFlowNext
  refine KeepsOut.next (Keeps.step State.direct_keeps rfl ?_)
  exact Keeps.refl

theorem execLedgerRehash_keeps {iss : Issuer} {tag : BitVec 6} {w : List Word} {s : State} : KeepsOut 524287 s (execLedgerRehash iss tag w s) := by
  unfold execLedgerRehash
  refine KeepsOut.next (Keeps.step State.direct_keeps rfl ?_)
  exact Keeps.refl

theorem execTmShaper_keeps {iss : Issuer} {tag : BitVec 6} {w : List Word} {s : State} : KeepsOut 524287 s (execTmShaper iss tag w s) := by
  unfold execTmShaper
  refine KeepsOut.next (Keeps.step State.direct_keeps rfl ?_)
  exact Keeps.refl

theorem execTmGcl_keeps {iss : Issuer} {tag : BitVec 6} {w : List Word} {s : State} : KeepsOut 524287 s (execTmGcl iss tag w s) := by
  unfold execTmGcl
  refine KeepsOut.next (Keeps.step State.direct_keeps rfl ?_)
  exact Keeps.refl

theorem execTimeMeas_keeps {iss : Issuer} {tag : BitVec 6} {w : List Word} {s : State} : KeepsOut 524287 s (execTimeMeas iss tag w s) := by
  unfold execTimeMeas
  refine KeepsOut.next (Keeps.step State.direct_keeps rfl ?_)
  exact Keeps.refl

theorem execTimeMaster_keeps {iss : Issuer} {tag : BitVec 6} {w : List Word} {s : State} : KeepsOut 524287 s (execTimeMaster iss tag w s) := by
  unfold execTimeMaster
  refine KeepsOut.next (Keeps.step State.direct_keeps rfl ?_)
  exact Keeps.refl

theorem execTimeAcceptStep_keeps {iss : Issuer} {tag : BitVec 6} {w : List Word} {s : State} : KeepsOut 524287 s (execTimeAcceptStep iss tag w s) := by
  unfold execTimeAcceptStep
  refine KeepsOut.next (Keeps.step State.direct_keeps rfl ?_)
  exact Keeps.refl

theorem execTimeAcceptSlew_keeps {iss : Issuer} {tag : BitVec 6} {w : List Word} {s : State} : KeepsOut 524287 s (execTimeAcceptSlew iss tag w s) := by
  unfold execTimeAcceptSlew
  refine KeepsOut.next (Keeps.step State.direct_keeps rfl ?_)
  exact Keeps.refl

theorem execTimeAcceptKeep_keeps {iss : Issuer} {tag : BitVec 6} {w : List Word} {s : State} : KeepsOut 524287 s (execTimeAcceptKeep iss tag w s) := by
  unfold execTimeAcceptKeep
  refine KeepsOut.next (Keeps.step State.direct_keeps rfl ?_)
  exact Keeps.refl

theorem execTimeXgOpen_keeps {iss : Issuer} {tag : BitVec 6} {w : List Word} {s : State} : KeepsOut 524287 s (execTimeXgOpen iss tag w s) := by
  unfold execTimeXgOpen
  refine KeepsOut.next (Keeps.step State.direct_keeps rfl ?_)
  exact Keeps.refl

theorem execTimeXgClose_keeps {iss : Issuer} {tag : BitVec 6} {w : List Word} {s : State} : KeepsOut 524287 s (execTimeXgClose iss tag w s) := by
  unfold execTimeXgClose
  refine KeepsOut.next (Keeps.step State.direct_keeps rfl ?_)
  exact Keeps.refl

theorem execLogSeal_keeps {iss : Issuer} {tag : BitVec 6} {w : List Word} {s : State} : KeepsOut 524287 s (execLogSeal iss tag w s) := by
  unfold execLogSeal
  refine KeepsOut.next (Keeps.step State.direct_keeps rfl ?_)
  exact Keeps.refl

theorem execLogPartOpen_keeps {iss : Issuer} {tag : BitVec 6} {w : List Word} {s : State} : KeepsOut 524287 s (execLogPartOpen iss tag w s) := by
  unfold execLogPartOpen
  refine KeepsOut.next (Keeps.step State.direct_keeps rfl ?_)
  exact Keeps.refl

theorem execLogPartClose_keeps {iss : Issuer} {tag : BitVec 6} {w : List Word} {s : State} : KeepsOut 524287 s (execLogPartClose iss tag w s) := by
  unfold execLogPartClose
  refine KeepsOut.next (Keeps.step State.direct_keeps rfl ?_)
  exact Keeps.refl

theorem execTaskCreate_keeps {iss : Issuer} {tag : BitVec 6} {w : List Word} {s : State} : KeepsOut 524287 s (execTaskCreate iss tag w s) := by
  unfold execTaskCreate
  refine KeepsOut.next (Keeps.step State.direct_keeps rfl ?_)
  exact Keeps.refl

theorem execTaskRearm_keeps {iss : Issuer} {tag : BitVec 6} {w : List Word} {s : State} : KeepsOut 524287 s (execTaskRearm iss tag w s) := by
  unfold execTaskRearm
  refine KeepsOut.next (Keeps.step State.direct_keeps rfl ?_)
  exact Keeps.refl

theorem execTaskCancel_keeps {iss : Issuer} {tag : BitVec 6} {w : List Word} {s : State} : KeepsOut 524287 s (execTaskCancel iss tag w s) := by
  unfold execTaskCancel
  refine KeepsOut.next (Keeps.step State.direct_keeps rfl ?_)
  exact Keeps.refl

theorem execTaskSignal_keeps {iss : Issuer} {tag : BitVec 6} {w : List Word} {s : State} : KeepsOut 524287 s (execTaskSignal iss tag w s) := by
  unfold execTaskSignal
  refine KeepsOut.next (Keeps.step State.direct_keeps rfl ?_)
  exact Keeps.refl

theorem execMboxPost_keeps {iss : Issuer} {tag : BitVec 6} {w : List Word} {s : State} : KeepsOut 524287 s (execMboxPost iss tag w s) := by
  unfold execMboxPost
  refine KeepsOut.next (Keeps.step State.direct_keeps rfl ?_)
  exact Keeps.refl

theorem execBufAlloc_keeps {iss : Issuer} {tag : BitVec 6} {w : List Word} {s : State} : KeepsOut 524287 s (execBufAlloc iss tag w s) := by
  unfold execBufAlloc
  refine KeepsOut.next (Keeps.step State.direct_keeps rfl ?_)
  exact Keeps.refl

theorem execBufFree_keeps {iss : Issuer} {tag : BitVec 6} {w : List Word} {s : State} : KeepsOut 524287 s (execBufFree iss tag w s) := by
  unfold execBufFree
  refine KeepsOut.next (Keeps.step State.direct_keeps rfl ?_)
  exact Keeps.refl

theorem execBufGive_keeps {iss : Issuer} {tag : BitVec 6} {w : List Word} {s : State} : KeepsOut 524287 s (execBufGive iss tag w s) := by
  unfold execBufGive
  refine KeepsOut.next (Keeps.step State.direct_keeps rfl ?_)
  exact Keeps.refl

theorem execUcodePatch_keeps {iss : Issuer} {tag : BitVec 6} {w : List Word} {s : State} : KeepsOut 524287 s (execUcodePatch iss tag w s) := by
  unfold execUcodePatch
  refine KeepsOut.next (Keeps.step State.direct_keeps rfl ?_)
  exact Keeps.refl

theorem execUcodeInfo_keeps {iss : Issuer} {tag : BitVec 6} {w : List Word} {s : State} : KeepsOut 524287 s (execUcodeInfo iss tag w s) := by
  unfold execUcodeInfo
  refine KeepsOut.next (Keeps.step State.direct_keeps rfl ?_)
  exact Keeps.refl

/-! ### Machine/Lookup.lean -/

theorem keyIssue_keeps {m : Nat} (hm : 131071 ||| m = m) {x : CtxId} {mn : String} {ok : Bool} {cost a b : Nat} {uses : List RegNo}
    {s : State} {body : Ctx → State → State} (h : ∀ c z, Keeps m z (body c z)) : KeepsOut m s (keyIssue x mn ok cost a b uses s body) := by
  unfold keyIssue
  split
  · split
    · exact KeepsOut.next Keeps.refl
    · exact engineOnly_keeps (Same.sub rfl hm) h
  · exact engineOnly_keeps (Same.sub rfl hm) h

theorem execLkp_keeps {x : CtxId} {tbl : BitVec 6} {klen : BitVec 6} {rd : RegNo} {koff : BitVec 6} {nohit : Bool} {s : State} : KeepsOut 131071 s (execLkp x tbl klen rd koff nohit s) := by
  unfold execLkp
  extract_lets +onlyGivenNames y0
  clear_value y0
  split
  · exact KeepsOut.next Keeps.refl
  · refine KeepsOut.step (keyIssue_keeps (m := 131071) rfl ?_) rfl ?_
    · intro z3 z4
      extract_lets +onlyGivenNames y5
      clear_value y5
      split
      · split
        · exact Keeps.step State.faultCount_keeps rfl (State.setG_keeps.mono rfl)
        · extract_lets +onlyGivenNames y9 y10
          clear_value y9 y10
          extract_lets +onlyGivenNames y11
          have h12 : Keeps 131071 z4 y11 := by
            subst y11
            exact State.setCtx_keeps.mono rfl
          clear_value y11
          extract_lets +onlyGivenNames y13
          have h14 : Keeps 131071 z4 y13 := by
            subst y13
            exact Keeps.step State.pmc_keeps rfl (by assumption)
          clear_value y13
          refine Keeps.plain (x := y13) ?_ {} rfl
          assumption
      · split
        · exact Keeps.step State.faultCount_keeps rfl (State.setG_keeps.mono rfl)
        · extract_lets +onlyGivenNames y18 y19
          clear_value y18 y19
          extract_lets +onlyGivenNames y20
          have h21 : Keeps 131071 z4 y20 := by
            subst y20
            exact State.setCtx_keeps.mono rfl
          clear_value y20
          extract_lets +onlyGivenNames y22
          have h23 : Keeps 131071 z4 y22 := by
            subst y22
            exact Keeps.step State.pmc_keeps rfl (by assumption)
          clear_value y22
          refine Keeps.plain (x := y22) ?_ {} rfl
          assumption
    · exact Keeps.refl

theorem State.resultTo_keeps {s : State} {x : CtxId} {live : Bool} {rd : RegNo} {n : Nat} {v : Word} : Keeps 2 s (State.resultTo s x live rd n v) := by
  unfold State.resultTo
  split
  · exact Keeps.step State.updCtx_keeps rfl (State.setG_keeps.mono rfl)
  · exact Keeps.refl

theorem execLookupReply_keeps {n : Nat} {bad : Bool} {s : State} : KeepsOut 33287 s (execLookupReply n bad s) := by
  unfold execLookupReply
  split
  · exact KeepsOut.next Keeps.refl
  · extract_lets +onlyGivenNames y5
    clear_value y5
    extract_lets +onlyGivenNames y6
    have h7 : Keeps 33287 s y6 := by
      subst y6
      exact Keeps.plain (x := s) Keeps.refl {} rfl
    clear_value y6
    extract_lets +onlyGivenNames y8 y9 y10
    clear_value y8 y9 y10
    extract_lets +onlyGivenNames y11
    have h12 : Keeps 33287 s y11 := by
      subst y11
      split
      · exact Keeps.step State.parityEvent_keeps rfl (by assumption)
      · split
        · exact Keeps.step State.parityEvent_keeps rfl (by assumption)
        · assumption
    clear_value y11
    extract_lets +onlyGivenNames y21
    have h22 : Keeps 33287 s y21 := by
      subst y21
      split
      · assumption
      · exact Keeps.step State.markHit_keeps rfl (by assumption)
    clear_value y21
    extract_lets +onlyGivenNames y25
    have h26 : Keeps 33287 s y25 := by
      subst y25
      split
      · assumption
      · exact Keeps.step State.pmc_keeps rfl (by assumption)
    clear_value y25
    extract_lets +onlyGivenNames y29
    clear_value y29
    extract_lets +onlyGivenNames y30
    have h31 : Keeps 33287 s y30 := by
      subst y30
      split
      · exact Keeps.step State.learnPost_keeps rfl (by assumption)
      · split
        · exact Keeps.step State.learnPost_keeps rfl (by assumption)
        · assumption
    clear_value y30
    refine KeepsOut.next (Keeps.step State.resultTo_keeps rfl ?_)
    assumption

theorem mtrRecord_keeps {x : CtxId} {rd : RegNo} {rb : RegNo} {func : BitVec 11} {c : Ctx} {s : State} : Keeps 10 s (mtrRecord x rd rb func c s) := by
  unfold mtrRecord
  extract_lets +onlyGivenNames y0
  clear_value y0
  split
  · exact State.setG_keeps.mono rfl
  · extract_lets +onlyGivenNames y6 y7
    clear_value y6 y7
    extract_lets +onlyGivenNames y8
    have h9 : Keeps 10 s y8 := by
      subst y8
      exact State.fMark_keeps.mono rfl
    clear_value y8
    extract_lets +onlyGivenNames y10
    have h11 : Keeps 10 s y10 := by
      subst y10
      split
      · exact Keeps.step State.setCtx_keeps rfl (by assumption)
      · assumption
    clear_value y10
    exact Keeps.step State.setG_keeps rfl (by assumption)

theorem execMtr_keeps {x : CtxId} {rd : RegNo} {ra : RegNo} {rb : RegNo} {func : BitVec 11} {s : State} : KeepsOut 131071 s (execMtr x rd ra rb func s) := by
  unfold execMtr
  extract_lets +onlyGivenNames y0
  clear_value y0
  split
  · split
    · exact KeepsOut.next Keeps.refl
    · refine KeepsOut.step (engineOnly_keeps (m := 131071) rfl ?_) rfl ?_
      · intro z6 z7
        exact mtrRecord_keeps.mono rfl
      · exact Keeps.refl
  · split
    · exact KeepsOut.next Keeps.refl
    · refine KeepsOut.step (engineOnly_keeps (m := 131071) rfl ?_) rfl ?_
      · intro z12 z13
        extract_lets +onlyGivenNames y14
        clear_value y14
        split
        · exact Keeps.step State.faultCount_keeps rfl (State.setG_keeps.mono rfl)
        · extract_lets +onlyGivenNames y17 y18
          clear_value y17 y18
          extract_lets +onlyGivenNames y19
          have h20 : Keeps 131071 z13 y19 := by
            subst y19
            exact State.setCtx_keeps.mono rfl
          clear_value y19
          refine Keeps.plain (x := y19) ?_ {} rfl
          assumption
      · exact Keeps.refl

theorem execMeterReply_keeps {n : Nat} {bad : Bool} {s : State} : KeepsOut 130823 s (execMeterReply n bad s) := by
  unfold execMeterReply
  split
  · exact KeepsOut.next Keeps.refl
  · extract_lets +onlyGivenNames y5
    clear_value y5
    extract_lets +onlyGivenNames y6
    have h7 : Keeps 130823 s y6 := by
      subst y6
      exact Keeps.plain (x := s) Keeps.refl {} rfl
    clear_value y6
    extract_lets +onlyGivenNames y8
    clear_value y8
    extract_lets +onlyGivenNames y9
    have h10 : Keeps 130823 s y9 := by
      subst y9
      split
      · refine Keeps.step State.mcheck_keeps rfl (Keeps.plain (x := y6) ?_ {} rfl)
        assumption
      · assumption
    clear_value y9
    extract_lets +onlyGivenNames y13
    have h14 : Keeps 130823 s y13.2 := by
      subst y13
      exact Keeps.step State.meterRun_keeps rfl (by assumption)
    clear_value y13
    refine KeepsOut.next (Keeps.step State.resultTo_keeps rfl ?_)
    assumption

theorem execHsh_keeps {x : CtxId} {rd : RegNo} {ra : RegNo} {imm : BitVec 16} {s : State} : KeepsOut 131071 s (execHsh x rd ra imm s) := by
  unfold execHsh
  extract_lets +onlyGivenNames y0 y1
  clear_value y0 y1
  refine KeepsOut.step (keyIssue_keeps (m := 131071) rfl ?_) rfl ?_
  · intro z2 z3
    exact State.setG_keeps.mono rfl
  · exact Keeps.refl

theorem execFlow_keeps {x : CtxId} {rd ra : RegNo} {imm : BitVec 16} {s : State} : KeepsOut 131071 s (execFlow x rd ra imm s) := by
  unfold execFlow
  extract_lets n prog
  refine keyIssue_keeps rfl ?_
  intro c z
  split
  · exact State.pilotStop_keeps.step rfl (State.faultCount_keeps.mono rfl)
  · extract_lets key m
    split
    · exact State.setG_keeps.step rfl (State.setCtx_keeps.mono rfl)
    · rename_i z1 z2 _ _ _
      have h1 : Keeps 131071 z z1 := by subst z1; exact State.setCtx_keeps.mono rfl
      clear_value z1
      have h2 : Keeps 131071 z z2 := by subst z2; exact State.updFrame_keeps.step rfl h1
      clear_value z2
      exact Keeps.plain (x := z2) h2 {} rfl

/-! ### Machine/Scrub.lean -/

theorem State.corrected_keeps {s : State} {row : Nat} : Keeps 8193 s (State.corrected s row) := by
  unfold State.corrected
  extract_lets +onlyGivenNames y0
  have h1 : Keeps 8193 s y0 := by
    subst y0
    exact State.bump_keeps.mono rfl
  clear_value y0
  refine Keeps.plain (x := y0) ?_ {} rfl
  assumption

theorem State.hbmUe_keeps {s : State} {a : Nat} : Keeps 261905 s (State.hbmUe s a) := by
  unfold State.hbmUe
  extract_lets +onlyGivenNames y0
  have h1 : Keeps 261905 s y0 := by
    subst y0
    exact State.mcheck_keeps.mono rfl
  clear_value y0
  extract_lets +onlyGivenNames y2
  have h3 : Keeps 261905 s y2 := by
    subst y2
    split
    · assumption
    · refine Keeps.plain (x := y0) ?_ {} rfl
      assumption
  clear_value y2
  split
  · exact Keeps.step State.discardSeg_keeps rfl (by assumption)
  · assumption

theorem State.cacheUe_keeps {s : State} {sl : Nat} {n : Nat} : Keeps 130825 s (State.cacheUe s sl n) := by
  unfold State.cacheUe
  split
  · exact Keeps.refl
  · split
    · extract_lets +onlyGivenNames y6
      have h7 : Keeps 130825 s y6 := by
        subst y6
        exact State.dropRec_keeps.mono rfl
      clear_value y6
      extract_lets +onlyGivenNames y8
      have h9 : Keeps 130825 s y8 := by
        subst y8
        split
        · exact Keeps.step State.natUnmap_keeps rfl (by assumption)
        · assumption
      clear_value y8
      refine Keeps.step State.mcheck_keeps rfl (Keeps.step State.bump_keeps rfl ?_)
      refine Keeps.step State.exportRec_keeps rfl (Keeps.step State.useFree_keeps rfl ?_)
      assumption
    · exact Keeps.refl

theorem State.progUe_keeps {s : State} {kind : Nat} {unit : Nat} {gen : Bool} {word : Nat} : Keeps 117507 s (State.progUe s kind unit gen word) := by
  unfold State.progUe
  extract_lets +onlyGivenNames y0
  subst y0
  split
  · exact Keeps.refl
  · extract_lets +onlyGivenNames y6
    subst y6
    extract_lets +onlyGivenNames y7
    clear_value y7
    extract_lets +onlyGivenNames y8
    have h9 : Keeps 117507 s y8 := by
      subst y8
      exact State.useFree_keeps.mono rfl
    clear_value y8
    split
    · split
      · refine Keeps.step State.cmdEvent_keeps rfl (Keeps.plain (x := y8) ?_ {} rfl)
        assumption
      · assumption
    · refine Keeps.step State.cmdEvent_keeps rfl (Keeps.plain (x := y8) ?_ {} rfl)
      assumption

theorem State.saveUe_keeps {s : State} {k : Nat} : Keeps 256 s (State.saveUe s k) := by
  unfold State.saveUe
  extract_lets +onlyGivenNames y0
  subst y0
  extract_lets +onlyGivenNames y1
  clear_value y1
  split
  · exact Keeps.refl
  · exact Keeps.plain (x := s) Keeps.refl {} rfl

theorem State.taskUe_keeps {s : State} {k : Nat} : Keeps 130817 s (State.taskUe s k) := by
  unfold State.taskUe
  extract_lets +onlyGivenNames y0
  have h1 : Keeps 130817 s y0 := by
    subst y0
    exact State.mcheck_keeps.mono rfl
  clear_value y0
  split
  · exact Keeps.step State.cancelTask_keeps rfl (Keeps.step State.useFree_keeps rfl (by assumption))
  · assumption

theorem State.scrubUe_keeps {s : State} {mem : MemKind} {unit : Nat} {addr : Nat} : Keeps 262047 s (State.scrubUe s mem unit addr) := by
  unfold State.scrubUe
  split
  · exact State.hbmUe_keeps.mono rfl
  · split
    · exact State.setDesc_keeps.mono rfl
    · exact Keeps.refl
  · exact State.mcheck_keeps.mono rfl
  · exact State.frameDrop_keeps.mono rfl
  · exact State.cacheUe_keeps.mono rfl
  · exact State.parityEvent_keeps.mono rfl
  · extract_lets +onlyGivenNames y12
    clear_value y12
    exact Keeps.step State.mcheck_keeps rfl (Keeps.plain (x := s) Keeps.refl {} rfl)
  · exact State.progUe_keeps.mono rfl
  · exact State.corrected_keeps.mono rfl
  · split
    · exact State.saveUe_keeps.mono rfl
    · exact State.taskUe_keeps.mono rfl
  · extract_lets +onlyGivenNames y19
    have h20 : Keeps 262047 s y19 := by
      subst y19
      exact State.mcheck_keeps.mono rfl
    clear_value y19
    split
    · assumption
    · refine Keeps.plain (x := y19) ?_ {} rfl
      assumption
  · exact Keeps.plain (x := s) Keeps.refl {} rfl
  · extract_lets +onlyGivenNames y25
    clear_value y25
    exact Keeps.step State.mcheck_keeps rfl (Keeps.plain (x := s) Keeps.refl {} rfl)
  · exact State.mcheck_keeps.mono rfl

theorem execScrubVisit_keeps {mem : MemKind} {unit : BitVec 8} {addr : Nat} {out : ScrubOut} {s : State} : KeepsOut 262047 s (execScrubVisit mem unit addr out s) := by
  unfold execScrubVisit
  split
  · exact KeepsOut.fault
  · refine KeepsOut.next ?_
    split
    · exact Keeps.refl
    · split
      · exact Keeps.refl
      · extract_lets +onlyGivenNames y6
        have h7 : Keeps 262047 s y6 := by
          subst y6
          exact State.corrected_keeps.mono rfl
        clear_value y6
        split
        · exact Keeps.step State.bump_keeps rfl (by assumption)
        · assumption
      · exact State.scrubUe_keeps.mono rfl

end Sys2Proof.Machine
end

