-- ==== Sys2Proof/Tests/Slice0.lean ====
section
/-!
SUPPORT. Tests/Slice0.lean: small states that meet the hypotheses of the statements, clause by clause; ill-formed terms that the checks
refuse; words of the spec's encodings. The cases of a clause that rest on a free value or on an open function of Config (how many units
a slice does, whether an image's signatures are good) have no witness: nothing in Lean can evaluate them.
-/
open Sys2Proof Sys2Proof.Machine
namespace Sys2Proof.Tests
set_option Elab.async false

/-! ### Small states -/

/-- The block out of reset in mode `m`, TL running. -/
def inMode (m : Nat) : State :=
  State.set { State.reset with mode := { resetHeld := false }, time := { tl := true } } F.sysMode_mode 0 m

/-- A context of each engine. -/
def pilot : CtxId := .pilot 0 0 0
def stev : CtxId := .stev 0 0
def rew : CtxId := .rew 0 0 0

/-- A program of profile P, S or E at word 0, with its word loaded, that has run `cyc` cycles. -/
def ctxAt (cyc : Nat) : Ctx := { fid := 1, cid := 1, gen := false, pass := 0, pc := 0, cyc := cyc, man := 0 }
def engine0 (x : CtxId) (c : Ctx) : State :=
  let u := ctxStore x
  { inMode mSERVICE with eng := { ctxs := [(x.code, c)], progs := [(progKey u.1 u.2 false 0, ⟨0, 1, false⟩)] } }

/-- Task 0 runs on core 0 at the level given, at pc 0 of its local memory. -/
def core0 (sup : Bool) : State :=
  State.set { inMode mSERVICE with tug := { cores := [(0, { ctx := { sup := sup } })], tasks := [(0, { w3 := 64 })] } } F.tugCoreStatus_idle 0 0

/-- Channel 1 is an OPEN CMD channel of the PF. -/
def chan1 (m : Nat) : State :=
  ((inMode m).set F.cmdChState_state 1 1).set F.cmdChState_type 1 1

theorem test_issues_pilot : Issues pilot 1 [1, 2, 3] (engine0 pilot (ctxAt 159)) (ctxAt 159) :=
  ⟨by decide +kernel, by decide +kernel, by decide +kernel, by decide +kernel, by decide +kernel, by decide +kernel, by decide +kernel⟩
theorem test_issues_stev : Issues stev 1 [31, 0, 0] (engine0 stev (ctxAt 63)) (ctxAt 63) :=
  ⟨by decide +kernel, by decide +kernel, by decide +kernel, by decide +kernel, by decide +kernel, by decide +kernel, by decide +kernel⟩
theorem test_issues_rew : Issues rew 1 [1, 2, 3] (engine0 rew (ctxAt 119)) (ctxAt 119) :=
  ⟨by decide +kernel, by decide +kernel, by decide +kernel, by decide +kernel, by decide +kernel, by decide +kernel, by decide +kernel⟩
theorem test_issues_sup : TugIssues 0 (core0 true) := ⟨by decide +kernel, by decide +kernel, by decide +kernel, by decide +kernel⟩
theorem test_issues_task : TugIssues 0 (core0 false) := ⟨by decide +kernel, by decide +kernel, by decide +kernel, by decide +kernel⟩
theorem test_issues_chan : (chan1 mSERVICE).cmdOpen 1 = true := by decide +kernel

/-! ### Queue, reset, and what holds of every command -/

theorem test_front_of_queue : (inMode mSERVICE).pending = [] ∧ ({ inMode mSERVICE with pending := [.hborFrameRx 9] } : State).pending =
    .hborFrameRx 9 :: [] := by decide +kernel
theorem test_empty_queue_ticks : (inMode mSERVICE).tick.ns = 1 ∧ State.reset.tick.ns = 0 := by decide +kernel
theorem test_no_clock_counters : (∀ i, State.reset.get F.tugCcntCfg_event i ≠ 1) ∧ (∀ n, State.reset.get F.pmcCntCfg_event n ≠ 0x0803) :=
  ⟨fun _ => Nat.zero_ne_one, fun _ => (by decide +kernel : ((BitVec.ofNat 320 (Reg.resetBase .pmcCntCfg)).extractLsb' 0 16).toNat ≠ 0x0803)⟩
/-- Counter 0 of core 0 counts tug clocks (Table 12.9): five cycles of TIME_CLK are six of them. -/
theorem test_tug_clocks_count :
    ((((((inMode mSERVICE).set F.tugCcntCfg_event 0 1).tick.tick.tick.tick.tick).tcore 0).ccnt.getD 0 0)) = 6 := by decide +kernel
theorem test_reset_is_canonical : State.reset.Canonical := ⟨by decide +kernel, by decide +kernel, by decide +kernel, by decide +kernel⟩
theorem test_step_from_reset : step State.reset = .next State.reset := by rfl

/-! ### Arithmetic, fields, special registers -/

/-- Three registers of a context. -/
def withG (x : CtxId) (a b : Word) (s : State) : State := (s.setG x 2 a).setG x 3 b

theorem test_alu_table_complete : aluTable.length = 23 ∧ immTable.length = 6 ∧ loadTable.length = 4 ∧ storeTable.length = 4 ∧
    amoTable.length = 5 ∧ branchTable.length = 12 ∧ ctlRows.length = 62 := by decide +kernel
theorem test_alu_word_reserved_func : wbits (0x04443041 : BitVec 32) 26 6 = 1 ∧ wbits (0x04443041 : BitVec 32) 6 5 ≠ 0 := by decide +kernel
theorem test_movi_and_shi_numbers : (7 : RegNo).val < 8 ∧ (255 : BitVec 16).toNat < 256 := by decide +kernel

/-- A field of H at byte 12, a field of M, of F, of K, of D. -/
def fieldH : FieldOp := ⟨0, 12, 0, 15, false⟩
def fieldM : FieldOp := ⟨1, 0x40, 0, 7, false⟩
def fieldF : FieldOp := ⟨2, 127, 0, 7, false⟩
def fieldK : FieldOp := ⟨3, 0, 3, 63, false⟩
def fieldD : FieldOp := ⟨5, 255, 7, 63, false⟩

theorem test_hdr_with_room : wfHdr pilot 1 255 = true ∧ mget (ctxAt 0).man mHcount = 0 ∧ (ctxAt 0).cur ≤ 255 ∧ (ctxAt 0).cur + 255 ≤ 256 := by
  decide +kernel
theorem test_hdr_without_room : wfHdr pilot 31 255 = true ∧ 256 < ({ ctxAt 0 with cur := 2 } : Ctx).cur + 255 := by decide +kernel
theorem test_hdr_stack_full : mget (mset 0 mHcount 12) mHcount = 12 := by decide +kernel
theorem test_hdr_past_cursor : Issues pilot 1 [0] (engine0 pilot { ctxAt 159 with cur := 256 }) { ctxAt 159 with cur := 256 } :=
  ⟨by decide +kernel, by decide +kernel, by decide +kernel, by decide +kernel, by decide +kernel, by decide +kernel, by decide +kernel⟩
theorem test_advc_profiles : wfAdvc pilot 0 255 = true ∧ wfAdvc rew 0 255 = true := by decide +kernel
theorem test_ext_ready : wfExt pilot fieldH true = true ∧ wfExt pilot fieldH false = true ∧ wfExt stev fieldF false = true ∧
    (engine0 pilot (ctxAt 159)).fieldWaits pilot (ctxAt 159) fieldH 0 = false ∧
    (engine0 stev (ctxAt 63)).fieldWaits stev (ctxAt 63) fieldF 0 = false := by decide +kernel
theorem test_ins_ready : wfIns pilot fieldK false = true ∧ wfIns stev fieldF false = true ∧ wfIns rew fieldH true = true ∧
    wfIns rew fieldH false = true ∧ wfIns pilot fieldM false = true ∧
    (engine0 rew (ctxAt 119)).fieldWaits rew (ctxAt 119) fieldH 0 = false ∧
    (engine0 pilot (ctxAt 159)).fieldWaits pilot (ctxAt 159) fieldK 0 = false := by decide +kernel
theorem test_insc_past_the_frame : insDynOk rew (ctxAt 119) fieldH = false ∧ insDynOk rew { ctxAt 119 with hlen := 14 } fieldH = true := by
  decide +kernel
theorem test_tug_fields : wfExt (.tug 0) fieldD false = true ∧ wfIns (.tug 0) fieldD false = true ∧
    (core0 true).memAllowed 0 (dSpan (core0 true) 0 fieldD).1 (dSpan (core0 true) 0 fieldD).2 = true ∧
    (core0 true).spanBad 0 (dSpan (core0 true) 0 fieldD).1 (dSpan (core0 true) 0 fieldD).2 = false := by decide +kernel
theorem test_mfs_mts : wfMfs pilot 0 8 = true ∧ wfMts rew 0 3 = true ∧ wfMts pilot 0 3 = false ∧ wfMfs (.tug 0) 0 0x25 = true ∧ wfMts (.tug 0) 0 0x14 = true ∧
    wfMts (.tug 0) 0 0x18 = true ∧ wfMts (.tug 0) 0 0x1B = true ∧ wfMts (.tug 0) 0 0x20 = true ∧ wfMts (.tug 0) 0 0x21 = true ∧
    wfMts (.tug 0) 0 0x22 = true ∧ ((core0 true).tcore 0).ctx.sup = true ∧ ((core0 false).tcore 0).ctx.sup = false := by decide +kernel

/-! ### Tug memory, jumps, traps, waiting -/

/-- Core 0 with an address in g2, and a bad word at 8 of its local memory. -/
def coreAt (sup : Bool) (a : Word) : State := (core0 sup).setG (.tug 0) 2 a
def coreBad (a : Word) : State := { coreAt true a with tug := { (coreAt true a).tug with bad := [dCell 0 8 / 8] } }

theorem test_issues_at : TugIssues 0 (coreAt true 0x3FFF8) := ⟨by decide +kernel, by decide +kernel, by decide +kernel, by decide +kernel⟩
theorem test_issues_bad : TugIssues 0 (coreBad 8) := ⟨by decide +kernel, by decide +kernel, by decide +kernel, by decide +kernel⟩
theorem test_access_misaligned : (coreAt true 0x3FFF7).g (.tug 0) 2 + (0 : BitVec 16).signExtend 64 = 0x3FFF7 ∧ (0x3FFF7 : Word).toNat % 8 ≠ 0 := by
  decide +kernel
theorem test_access_first_and_last_word : (0x3FFF8 : Nat) % 8 = 0 ∧ (coreAt true 0x3FFF8).memAllowed 0 0x3FFF8 8 = true ∧
    (coreAt true 0).memAllowed 0 0 8 = true ∧ (coreAt true 0x3FFF8).wordBad 0 0x3FFF8 = false := by decide +kernel
theorem test_access_denied : isWindow 0x40000 8 = false ∧ (coreAt true 0x40000).memAllowed 0 0x40000 8 = false ∧
    isWindow 0x40000 1 = false ∧ (coreAt false 0x1000).memAllowed 0 0x1000 8 = false ∧ isWindow 0x1000 8 = false := by decide +kernel
theorem test_access_window_narrow : (0x02000000 : Nat) % 4 = 0 ∧ isWindow 0x02000000 4 = true ∧ (4 : Nat) ≠ 8 := by decide +kernel
theorem test_access_bad_word : (coreBad 8).memAllowed 0 8 8 = true ∧ (coreBad 8).wordBad 0 8 = true := by decide +kernel
theorem test_store_then_load : leNat (((core0 true).dWrite 0 0x3FFFF (leBytes 1 0x1AB)).dRead 0 0x3FFFF 1) = 0xAB := by decide +kernel

theorem test_register_space : (core0 true).tsup 0 = true ∧ (core0 false).tsup 0 = false ∧ (4 : Nat) % 8 ≠ 0 ∧
    (0x3FFFFFC : Nat) % 4 = 0 ∧ (0x3FFFFFC : Nat) < 0x4000000 ∧ (0x4000000 : Nat) % 8 = 0 ∧ anyModeReg 0 = false ∧
    (core0 true).modeNo = mSERVICE := by decide +kernel
/-- Whether a register takes a write. -/
def takes : Wrote → Bool
  | .ok _ => true
  | .no _ => false
theorem test_register_space_store : takes ((State.set (core0 true) F.sysMode_mode 0 mMOORED).regPut (.direct false) 64 0x106800 8
    (BitVec.ofNat 320 (2 ^ 320 - 1)) (BitVec.ofNat 320 (64 * 1000))) = true := by decide +kernel

/-- Core 0 in MOORED, with device counter 31 at its last value and counting the instructions that retire. -/
def counting : State :=
  (State.set ((State.set (core0 true) F.sysMode_mode 0 mMOORED).set F.pmcCntCfg_event 31 0x0E01) F.pmcCntValue_count 31 (2 ^ 48 - 1))
theorem test_counter_store : findReg 0xF003F0 = some (.pmcCntValue, 31, 0) ∧
    takes ((counting.tugCount 0).regPut (.direct false) 64 0xF003F0 8 (BitVec.ofNat 320 (2 ^ 320 - 1)) 7) = true ∧
    (counting.tugCount 0).reg .pmcCntValue 31 ≠ counting.reg .pmcCntValue 31 := by decide +kernel
/-- R376: the written value stands, the lost increment is counted, and OVF is still set. -/
theorem test_counter_collision : (counting.cStore 0 0xF003F0 8 7).reg .pmcCntValue 31 = 0x8000000000000007 ∧
    (counting.cStore 0 0xF003F0 8 7).get F.pmcCntCollision 0 = 1 := by decide +kernel

theorem test_branches_taken_and_not : wfBr pilot 0 false 2 3 1023 = true ∧ wfBr pilot 7 true 2 31 1 = true ∧ wfBr pilot 8 false 2 0 1 = true ∧
    wfBr pilot 10 true 0 31 1 = true ∧ wfBr (.tug 0) 12 false 0 0 0x7FF = true ∧ wfBr stev 9 false 2 0 1 = true ∧
    (withG pilot 5 5 (engine0 pilot (ctxAt 159))).g pilot 2 = (withG pilot 5 5 (engine0 pilot (ctxAt 159))).g pilot 3 ∧
    (0x8000000000000000 : Word).toInt < (0 : Word).toInt ∧ ¬(0x8000000000000000 : Word) < 0 := by decide +kernel
theorem test_jumps : (coreAt true 0x100).g (.tug 0) 2 = 0x100 ∧ (0x100 : Word).toNat % 4 = 0 ∧ (0x102 : Word).toNat % 4 ≠ 0 ∧
    (coreAt true 0x102).g (.tug 0) 2 = 0x102 := by decide +kernel

/-- Core 0 with `n` trap slots in use. -/
def coreIn (n : Nat) (sup : Bool) : State := (core0 sup).setTcore 0 { ctx := { sup := sup, inten := true, slots := List.replicate n ⟨0x40, 0, 0, false, true⟩ } }
/-- Core 0 with interrupt sources 0 and 4 latched. -/
def coreIrq : State := (coreIn 0 true).set F.tugCoreStatus_pending 0 0x11

theorem test_trap_room : ((coreIn 3 true).tcore 0).ctx.slots.length < 4 ∧ 4 ≤ ((coreIn 4 true).tcore 0).ctx.slots.length ∧
    (coreIn 4 true).running? 0 = some 0 := by decide +kernel
theorem test_trap_issues : TugIssues 0 (coreIn 1 true) ∧ ((coreIn 1 true).tcore 0).ctx.slots = ⟨0x40, 0, 0, false, true⟩ :: [] ∧
    ((coreIn 0 true).tcore 0).ctx.slots = [] := ⟨⟨by decide +kernel, by decide +kernel, by decide +kernel, by decide +kernel⟩, by decide +kernel⟩
theorem test_interrupt_first_and_last : TugIssues 0 coreIrq ∧ (coreIrq.tcore 0).ctx.inten = true ∧
    (coreIrq.get F.tugCoreStatus_pending 0).testBit 0 = true ∧ (Nat.testBit 0x10 4 = true ∧ ∀ j, j < 4 → Nat.testBit 0x10 j = false) :=
  ⟨⟨by decide +kernel, by decide +kernel, by decide +kernel, by decide +kernel⟩, by decide +kernel, by decide +kernel, by decide +kernel⟩
theorem test_trap_enters : (((coreIn 1 false).trapEnter 0 0x81 7 0x44).tcore 0).ctx.slots.length = 2 := by decide +kernel

/-- Sixteen CTLs queued at core 0's port. -/
def portFull : State := (core0 true).setTport 0 { queue := List.replicate 16 ⟨0x181, 0, 0, [], 0, false, false, none, none, 0, none, true⟩ }
/-- Core 0 with `op` in g2, `fl` in the flags of its task 0, which has level 3. -/
def coreWait (op : Word) (fl : Nat) : State := ((coreAt true op).set F.tugTaskState_flags 0 fl).set F.tugTaskState_level 0 3

theorem test_ctl_issues : wfCtl 0x8085 = true ∧ wfCtl 0 = true ∧ 16 ≤ (portFull.tport 0).queue.length ∧ ((core0 true).tport 0).queue.length < 16 ∧
    (∀ i < 30, (core0 true).fetchAllowed 0 (8 + 4 * i) = true) := by decide +kernel
theorem test_ctl_issues_full : TugIssues 0 portFull := ⟨by decide +kernel, by decide +kernel, by decide +kernel, by decide +kernel⟩
theorem test_waits : waitHit 0x1 (BitVec.ofNat 32 ((coreWait 0x1 5).get F.tugTaskState_flags 0)) = some 1 ∧
    waitHit 0x100000006 (BitVec.ofNat 32 ((coreWait 0x100000006 5).get F.tugTaskState_flags 0)) = none ∧
    (coreWait 0x100000006 5).g (.tug 0) 2 = 0x100000006 ∧ (coreWait 0x100000006 5).running? 0 = some 0 ∧
    waitHit 0 (BitVec.ofNat 32 ((coreWait 0 5).get F.tugTaskState_flags 0)) = none ∧ ((0 : Word).extractLsb' 40 24).toNat = 0 := by decide +kernel
theorem test_yield : ((core0 true).tugDone 0).firstFor 0 (((core0 true).tugDone 0).level 0 + 1) = none ∧
    (({ core0 true with tug := { (core0 true).tug with ready := [(0, [5])], tasks := [(5, { aff := 1 })] } } : State).tugDone 0).firstFor 0 1 = some 5 := by
  decide +kernel

/-! ### Lookups, hashes, meters, flows, the end of programs, decoding -/

/-- A pilot's program over a good descriptor of an exact-match table of 4-byte keys in table 2. -/
def pilotT : State := (engine0 pilot (ctxAt 157)).setReg .tblDesc 2 (BitVec.ofNat 320 (1 + 3 * 8 + 512))
/-- The same with lookup 7 outstanding to g10. -/
def pilotL : State :=
  { pilotT with eng := { pilotT.eng with ctxs := [(pilot.code, { ctxAt 157 with pend := [(10, .lkp, 7)] })],
                                         lkps := [(7, ⟨pilot, 10, false, BitVec.ofNat 64 (1 + 3 * 8 + 512), [1, 2, 3, 4], false, 0, 0, 0, true⟩)] } }
theorem test_lkp_fits : wfLkp pilot 3 60 = true ∧ outstanding (ctxAt 157) < 4 ∧ prpWaits (ctxAt 157) 60 64 = false ∧
    dKind (pilotT.desc false 2) ≠ 0 ∧ dKlen (pilotT.desc false 2) = (3 : BitVec 6).toNat + 1 ∧ dPok (pilotT.desc false 2) = true ∧
    ¬ dKlen (pilotT.desc false 2) = (63 : BitVec 6).toNat + 1 ∧ isPending (ctxAt 157) [10] = false := by decide +kernel
theorem test_lkp_issues : Issues pilot 1 [10] pilotT (ctxAt 157) :=
  ⟨by decide +kernel, by decide +kernel, by decide +kernel, by decide +kernel, by decide +kernel, by decide +kernel, by decide +kernel⟩
theorem test_lookup_outstanding : ∃ l, Tab.get? pilotL.eng.lkps 7 = some l ∧ pilotL.ctx? l.x = some { ctxAt 157 with pend := [(10, .lkp, 7)] } ∧ l.live = true :=
  ⟨_, rfl, by decide +kernel, rfl⟩
theorem test_result_awaited : ∃ q ∈ ({ ctxAt 157 with pend := [(10, .lkp, 7)] } : Ctx).pend, q.1 = 10 := ⟨_, List.mem_singleton_self _, rfl⟩

theorem test_hsh_longest : wfHsh pilot 0 0x1FC0 = true ∧ (0x1FC0 : BitVec 16).toNat / 64 % 64 + 1 = 64 ∧ (64 + 15) / 16 = 4 := by decide +kernel
theorem test_hsh_issues : Issues pilot 4 [10] (engine0 pilot (ctxAt 156)) (ctxAt 156) :=
  ⟨by decide +kernel, by decide +kernel, by decide +kernel, by decide +kernel, by decide +kernel, by decide +kernel, by decide +kernel⟩
theorem test_mtr_index_limit : wfMtr pilot 2 3 = true ∧ 262144 ≤ (((engine0 pilot (ctxAt 157)).setG pilot 2 262144).g pilot 2).toNat := by decide +kernel
theorem test_mtr_issues : Issues pilot 2 [1, 2, 3] (engine0 pilot (ctxAt 158)) (ctxAt 158) :=
  ⟨by decide +kernel, by decide +kernel, by decide +kernel, by decide +kernel, by decide +kernel, by decide +kernel, by decide +kernel⟩
theorem test_mtr_of_record : Issues stev 2 [1, 3] (engine0 stev (ctxAt 62)) (ctxAt 62) ∧ wfMtr stev 0 0 = true ∧
    (engine0 stev (ctxAt 62)).fReady stev 0x30 0x40 = true :=
  ⟨⟨by decide +kernel, by decide +kernel, by decide +kernel, by decide +kernel, by decide +kernel, by decide +kernel, by decide +kernel⟩, by decide +kernel⟩

/-- The ledger on, program 0 of generation A enabled, frame 1 in its pilot. -/
def frame1 (stage : Stage) : Frame :=
  { port := 0, src := .wire, quay := 0, bytes := List.replicate 64 0, lenKnown := true, man := 0, manW := 0, seqId := 0, stamps := [], gen := false, stage := stage }
def pilotF : State :=
  ({ engine0 pilot (ctxAt 158) with eng := { (engine0 pilot (ctxAt 158)).eng with frames := [(1, frame1 (.pilot pilot))] } }.setBit F.ledgerCfg_en 0 true).setBit F.ledgerProg_en 0 true
theorem test_flow_asked : wfFlow pilot 0 63 = true ∧ pilotF.flowRefused false 0 16 = false ∧ pilotF.flowRefused false 0xF5 16 = true ∧
    (ctxAt 158).flowDone = false ∧ pilotF.frame? 1 = some (frame1 (.pilot pilot)) := by decide +kernel
theorem test_flow_issues : Issues pilot 2 [1] pilotF (ctxAt 158) :=
  ⟨by decide +kernel, by decide +kernel, by decide +kernel, by decide +kernel, by decide +kernel, by decide +kernel, by decide +kernel⟩
theorem test_wait_with_and_without : Issues pilot 0 [] pilotL { ctxAt 157 with pend := [(10, .lkp, 7)] } ∧ (ctxAt 157).pend = [] :=
  ⟨⟨by decide +kernel, by decide +kernel, by decide +kernel, by decide +kernel, by decide +kernel, by decide +kernel, by decide +kernel⟩, rfl⟩
theorem test_recirc_limit : ({ ctxAt 0 with pass := 3 } : Ctx).pass = 3 ∧ pilotF.ctx? pilot = some (ctxAt 158) := by decide +kernel
theorem test_budget_end : budgetOf .p < 160 + 1 ∧ 159 + 1 ≤ budgetOf .p ∧ budgetOf .s < 64 + 1 ∧ budgetOf .e < 120 + 1 := by decide +kernel
theorem test_never_loaded : wfHdr pilot 16 0 = false ∧ wfHdr rew 1 0 = false ∧ wfMfs stev 0 3 = false ∧ wfExt stev fieldH false = false ∧
    wfMfs (.tug 0) 1 0 = false := by decide +kernel

/-! ### Frames: arrival, release, buffer, egress -/

/-- A 64-byte frame with a good FCS, and one that is a byte short. -/
def wire64 : List Byte := List.replicate 60 0x11 ++ fcsOf (List.replicate 60 0x11)
def wire63 : List Byte := List.replicate 59 0x11 ++ fcsOf (List.replicate 59 0x11)
/-- Port 0 is up in SERVICE with MAX_FRAME 1,518. -/
def port0 : State := ((inMode mSERVICE).setBit F.tmPortStatus_link 0 true).set F.portCfg_maxFrame 0 1518
/-- The same with one frame in the ingress side. -/
def withFrame (f : Frame) : State := { port0 with eng := { port0.eng with frames := [(1, f)], nextFid := 2 } }
def rxFrame (l : List Byte) : Frame := { frame1 .receiving with bytes := l, lenKnown := false }

theorem test_rx_start : port0.linkUp 0 = true ∧ port0.modeNo = mSERVICE ∧ isControl wire64 = false ∧ port0.paused (quayOf 0) = false ∧
    ¬(stagingSize < port0.staged (quayOf 0) + wire64.length) ∧ wire64.length < 256 ∧ 256 ≤ (List.replicate 256 (0x11 : Byte)).length ∧
    isControl (List.replicate 256 (0x11 : Byte)) = false := by decide +kernel
theorem test_rx_start_no_staging : ∀ n, n = 524288 → stagingSize < port0.staged (quayOf 0) + (List.replicate (n + 1) (0x11 : Byte)).length := by
  intro n h; subst h; rw [List.length_replicate]; decide +kernel
theorem test_rx_end : (withFrame (rxFrame wire64)).frame? 1 = some (rxFrame wire64) ∧ (rxFrame wire64).lenKnown = false ∧
    (withFrame (rxFrame wire64)).get F.portCfg_maxFrame (portIx 0) = 1518 ∧ wire64.length = 64 ∧
    wire64.drop 60 = fcsOf (wire64.take 60) ∧ isControl wire64 = false ∧ (rxFrame wire64).stage = .receiving ∧
    (withFrame (rxFrame wire64)).modeNo = mSERVICE := by decide +kernel
theorem test_rx_end_bad : wire63.length < 64 ∧ ¬((0x12 :: wire64.drop 1).drop 60 = fcsOf ((0x12 :: wire64.drop 1).take 60)) ∧
    (withFrame (rxFrame (List.replicate 1519 0))).get F.portCfg_maxFrame (portIx 0) < 1519 := by decide +kernel

/-- Frame 1 waits at quay 0, whose pilots run. -/
def waiting1 : State := ((withFrame (frame1 .queued)).setQuay 0 { waiting := [1] }).setBit F.quayPilotCtrl_dispatchEn 0 true
theorem test_head_waits : (waiting1.quay 0).waiting = 1 :: [] ∧ waiting1.frame? 1 = some (frame1 .queued) ∧ waiting1.freePilot 0 = some (1, 0) ∧
    waiting1.pilotsRun 0 (frame1 .queued) = true ∧ waiting1.prpRole (frame1 .queued) = 0 := by decide +kernel
/-- Quay 0 has one context per engine, and every one is busy. -/
def noPilot : State :=
  let s := waiting1.set F.quayPilotCtrl_ctxMax 0 0
  { s with eng := { s.eng with ctxs := (List.range 64).map (fun n => (n * 8, ctxAt 0)) } }
theorem test_head_no_context : noPilot.freePilot 0 = none ∧ (noPilot.quay 0).waiting = 1 :: [] ∧ noPilot.frame? 1 = some (frame1 .queued) := by
  decide +kernel

/-- A frame whose program has ended, resolved, with a verdict and a queue. -/
def parsed (v : Nat) : Frame := { frame1 .parsed with resolved := true, man := msetBits 0 mAct 0 2 v }
theorem test_release_forward : (withFrame (parsed 0)).frame? 1 = some (parsed 0) ∧ (parsed 0).stage = .parsed ∧ (parsed 0).resolved = true ∧
    (parsed 0).lenKnown = true ∧ (parsed 0).flow = .none ∧ (relFlow ((withFrame (parsed 0)).relLen (parsed 0))).leaves = false ∧
    (withFrame (parsed 0)).listHead 1 (relFlow ((withFrame (parsed 0)).relLen (parsed 0))) = true := by decide +kernel
theorem test_release_drop : (relFlow ((withFrame (parsed vDROP)).relLen (parsed vDROP))).leaves = true ∧
    mVerdict (relFlow ((withFrame (parsed vDROP)).relLen (parsed vDROP))).man = vDROP := by decide +kernel
def behind : State := { withFrame (parsed 0) with eng := { port0.eng with frames := [(0, frame1 .queued), (1, parsed 0)] } }
theorem test_release_behind : behind.frame? 1 = some (parsed 0) ∧ behind.listHead 1 (relFlow (behind.relLen (parsed 0))) = false := by decide +kernel

/-- Queue 5 is a child of class slot 0 of port 0. -/
def queue5 (s : State) : State := ((((s.setBit F.tmQMap_en 5 true).set F.tmQMap_ptype 5 2).set F.tmQMap_parent 5 0).setBit F.tmPortCfg_en 0 true)
/-- A frame at the admission stage for port 0, queue 5, alone in quay 0. -/
def admitted (st : Stage) : Frame := { frame1 st with members := [(0, 5, 0)], resolved := true }
def admit1 (st : Stage) : State := queue5 ((withFrame (admitted st)).setQuay 0 { repl := [1] })
def noBuffers : State := ((((admit1 .admitted).set F.bufPoolCfg_rows 0 0).set F.bufPoolCfg_rows 1 0).set F.bufPoolCfg_rows 2 0)
def tightQueue : State := ((admit1 .admitted).set F.bufQCfg_alpha 5 0).set F.bufPoolCfg_hr 3 (2 ^ 14)

theorem test_alloc_granted : (admit1 .admitted).forwarding = true ∧
    (admit1 .admitted).replFirst 0 (fun x => x == .admitted) = some (1, admitted .admitted) ∧
    (admitted .admitted).members = [(0, 5, 0)] ∧ (admitted .admitted).listed = false ∧
    ((admit1 .admitted).queueAsk 5 0).2 = some (5, 0) ∧ ((admit1 .admitted).queueAsk 5 0).1.onPg (admitted .admitted) = false ∧
    ((admit1 .admitted).queueAsk 5 0).1.thresholdOk 5 (poolCells (poolFor (cellsOf 64))) = true ∧
    (((admit1 .admitted).queueAsk 5 0).1.allocFrom 8 0 false 4 (poolFor (cellsOf 64))).2 = some (bidOf 0 8, 8) := by decide +kernel

/-- A buffer of the frame, held by quay 0 as owner. -/
def desc1 (written : Bool) : Desc :=
  { refc := false, mid := 0x20, refcnt := 0, len := 64, start := 0, seq := 0, crc := 0, pg := 0, acct := 0, bytes := wire64, written := written, t0 := 0 }
def withDesc (w : Bool) (s : State) : State := s.setDesc (bidOf 0 0) (desc1 w)
theorem test_write_start : (withDesc false (admit1 .granted)).replFirst 0 (fun x => x == .granted) = some (1, admitted .granted) ∧
    (withDesc false (admit1 .granted)).desc? (admitted .granted).bid = some (desc1 false) ∧
    (withDesc false (admit1 .granted)).clocks.find? (fun t => decide (0 ≤ t) && decide (((withDesc false (admit1 .granted)).quay 0).writeEnd ≤ t) &&
      (!(decide (bidPool 0 < 2)) || (0 + t) % 16 == 0)) = some 0 := by decide +kernel
theorem test_replication : (admit1 .written).replFirst 0 (fun x => x == .written || x == .copying) = some (1, admitted .written) ∧
    (admitted .written).members = (0, 5, 0) :: [] ∧ (admitted .written).quay = 0 := by decide +kernel

/-- A copy for port 0, queue 5. -/
def copy1 : Copy := (admitted .written).copyFor 0 5 0 0
def made1 : State := withDesc true (queue5 (port0.setQuay 0 { made := [copy1] }))
theorem test_enqueue : made1.forwarding = true ∧ (made1.quay 0).made = copy1 :: [] ∧
    (made1.setQuay 0 { made1.quay 0 with made := [] }).desc? copy1.bid = some (desc1 true) ∧ (desc1 true).refc = false ∧
    ((made1.setQuay 0 { made1.quay 0 with made := [] }).queueAsk copy1.queue copy1.port).2 = some (5, 0) := by decide +kernel
/-- A buffer held by reference whose queue is over its threshold. -/
def madeTight : State := (made1.setDesc (bidOf 0 0) { desc1 true with refc := true, refcnt := 1 }).set F.bufPoolCfg_hr 3 65535 |>.set F.bufQCfg_alpha 5 0
def madeTight0 : State := madeTight.set F.bufQUsed_used 5 1000000
theorem test_enqueue_refused : madeTight0.thresholdOk 5 (poolCells (bidPool copy1.bid)) = false := by decide +kernel

/-- The copy enqueued as number 1, its queue's element chosen. -/
def queued1 : State := { withDesc true (queue5 port0) with tm := { copies := [(1, copy1)], nextCid := 2, queues := [(5, [1])] } }
theorem test_select : queued1.forwarding = true ∧ (queued1.window 0).length < 32 ∧ queued1.coreClk % (quayPorts 0).length = 0 ∧
    queued1.portReady 0 = true ∧ (queued1.portPick 0).2 = some (0, 5) ∧ queued1.queue 5 = 1 :: [] ∧ queued1.copy? 1 = some copy1 ∧
    queued1.headTest 0 copy1 = .go ∧ queued1.tooOld 5 copy1 = false := by decide +kernel
/-- The copy in the window of quay 0, its cells there since 32 clocks and read from clock 48. -/
def window1 : State := 
  { queued1 with ns := 32, tm := { queued1.tm with queues := [], windows := [(0, [1])] },
                 tab := { queued1.tab with objs := [(oZONE * 2 ^ 20, List.replicate 8 0xFFFFFFFFFFFFFFFF)] } }
theorem test_read_start : window1.freeRew 0 = some rew ∧ window1.clocks.find? (fun t => decide (Tab.getD window1.tm.readEnd 0 0 ≤ t) &&
      !(window1.readable 0 t).isEmpty) = some 48 ∧ window1.readable 0 48 = 1 :: [] ∧ window1.desc? copy1.bid = some (desc1 true) ∧
    copy1.port < 130 ∧ window1.isBad tkZONE 0 (mZoneOf copy1.man) = false ∧ window1.zonePermits (mZoneOf copy1.man) 0 = true ∧
    window1.pushBytes copy1.rewrite = some [] ∧ window1.objF oREWRITE copy1.rewrite 15 8 + 14 ≤ (copyBody copy1 (desc1 true)).length := by
  decide +kernel
/-- Its program has ended. -/
def ended1 : Ctx := { ctxAt 4 with ended := true, hlen := 60 }
def commit1 (s : State) : State := { s with eng := { s.eng with ctxs := [(rew.code, ended1)] } }
theorem test_commit : (commit1 queued1).ctx? rew = some ended1 ∧ ended1.ended = true ∧ (commit1 queued1).copy? ended1.cid = some copy1 ∧
    (commit1 queued1).desc? copy1.bid = some (desc1 true) ∧ (commit1 queued1).linkUp copy1.port = true ∧ ended1.sealBad = false ∧
    ¬((commit1 queued1).get F.portCfg_maxFrame (portIx 0) < ended1.hlen + ended1.tail.length + 4) ∧
    (commit1 queued1).launchTest copy1 0 = 1 ∧ (commit1 queued1).commitWaits rew ended1 copy1 = false := by decide +kernel
theorem test_commit_port_down : (commit1 (queued1.setBit F.tmPortStatus_link 0 false)).linkUp copy1.port = false := by decide +kernel
theorem test_commit_paused : (commit1 (queued1.setBit F.tmPortStatus_paused 0 true)).commitWaits rew ended1 copy1 = true := by decide +kernel
theorem test_commit_too_long : (commit1 (queued1.set F.portCfg_maxFrame 0 63)).get F.portCfg_maxFrame (portIx 0) < 60 + 0 + 4 := by decide +kernel
theorem test_commit_late : (({ commit1 queued1 with time := { tl := true, tlNs := 1000 } } : State).launchTest { copy1 with launch := some 0 } 0) = 2 := by
  decide +kernel
def wire1 : State := { queued1 with ports := { queued1.ports with wire := [(0, [⟨1, copy1, wire64, 0, false, 0⟩])] } }
theorem test_tx_complete : Tab.getD wire1.ports.wire 0 [] = ⟨1, copy1, wire64, 0, false, 0⟩ :: [] := by decide +kernel

/-! ### The ledger -/

/-- The ledger on, with slice 0 as given, and frame 1 parsed. -/
def led (v : SliceSt) (f : Frame) : State :=
  let s : State := (((withFrame f).setBit F.ledgerCfg_en 0 true).set F.ledgerCfg_log2rec 0 14).setBit F.timePpsIn_en 0 false
  { s with led := { slices := [(0, v)], asks := [(0, [1])] } }
def key16 : List Byte := List.replicate 16 7
def asked : Frame := { frame1 (.pilot pilot) with flow := .asked 0, askKey := key16, flowReg := 3 }
/-- A pass of frame 1 in berth 0, and a record of its key. -/
def berth1 (ph : BerthPhase) : BerthSt :=
  { fid := 1, quay := 0, prog := 0, gen := false, key := key16, hs := (led {} asked).hsOf key16, man := 0, phase := ph, order := 0 }
def rec1 (cached : Bool) (img : BitVec 1024) (stash : Option Nat) : Rec :=
  { img := img, key := key16, hs := (led {} asked).hsOf key16, inIndex := stash.isNone, alt := false, cached := cached, stashOrd := stash,
    writing := false, dirty := false, used := 0 }
def pass1 (ph : BerthPhase) (f : Frame) : State := led { berths := [(0, berth1 ph)], order := 1, recs := [(4, rec1 false 0 none)] } f

theorem test_flow_accept : (led {} asked).asksOf 0 0 = [1] ∧ ((led {} asked).asksOf 0 0).find? (fun fid =>
      match (led {} asked).frame? fid with | some f => !((led {} asked).askBlocked fid f) | none => false) = some 1 ∧
    (led {} asked).frame? 1 = some asked ∧ firstFree ((led {} asked).slice 0).berths 0 = 0 := by decide +kernel
theorem test_index_read : (pass1 (.indexRead false false) asked).berth? 0 0 = some (berth1 (.indexRead false false)) ∧
    ((pass1 (.indexRead false false) asked).probes 0 key16)[0]? = some (false, (pass1 (.indexRead false false) asked).shape) ∧
    ((((pass1 (.indexRead false false) asked).slice 0).lineRecs false (pass1 (.indexRead false false) asked).shape
      (lineP (pass1 (.indexRead false false) asked).shape key16)).filter (fun e => e.2.alt == false &&
        tagOf (pass1 (.indexRead false false) asked).shape e.2.key == tagOf (pass1 (.indexRead false false) asked).shape key16)) =
      (4, rec1 false 0 none) :: [] := by decide +kernel
theorem test_index_read_empty : (((led { berths := [(0, berth1 (.indexRead false false))] } asked).slice 0).lineRecs false
    (led {} asked).shape (lineP (led {} asked).shape key16)) = [] := by decide +kernel
theorem test_record_read : (pass1 (.recordRead 4) asked).berth? 0 0 = some (berth1 (.recordRead 4)) ∧
    ((pass1 (.recordRead 4) asked).slice 0).recAt 4 = some (rec1 false 0 none) ∧ (rec1 false 0 none).key = (berth1 (.recordRead 4)).key ∧
    ((pass1 (.recordRead 4) asked).makePlace 0 (berth1 (.recordRead 4)).hs).isSome = true := by decide +kernel
theorem test_record_read_other : ({ rec1 false 0 none with key := [1] } : Rec).key ≠ key16 ∧
    ({ berth1 (.recordRead 4) with candidates := [9] } : BerthSt).candidates = 9 :: [] := by decide +kernel
theorem test_pass_ready : (pass1 .ready asked).freeStev 0 = some 0 ∧ ((pass1 .ready asked).passReady 0 0 (berth1 .ready)).isSome = true ∧
    (berth1 .ready).prog < 0xF0 ∧ (pass1 .ready asked).fcsKnown 1 = true ∧
    (pass1 .ready { asked with lenKnown := false }).fcsKnown 1 = false := by decide +kernel
/-- A library pass, of program 0xF2. -/
def libPass : BerthSt := { berth1 .ready with prog := 0xF2 }
theorem test_library_pass : ∃ s2 r, (led { berths := [(0, libPass)] } asked).library libPass ((led { berths := [(0, libPass)] } asked).fView 0 libPass 1024) 64 =
    some (s2, r) := by
  have h : ((led { berths := [(0, libPass)] } asked).library libPass ((led { berths := [(0, libPass)] } asked).fView 0 libPass 1024) 64).isSome = true := by
    decide +kernel
  obtain ⟨x, hx⟩ := Option.isSome_iff_exists.mp h
  exact ⟨x.1, x.2, hx⟩
theorem test_pass_return : (pass1 .done { asked with flow := .berth 0 0 }).frame? 1 = some { asked with flow := .berth 0 0 } ∧
    (berth1 .done).phase = .done ∧ ({ frame1 .parsed with flow := .berth 0 0 } : Frame).stage = .parsed := by decide +kernel

theorem test_index_write : ((led { writes := [4] } asked).slice 0).writes = 4 :: [] := by decide +kernel
theorem test_index_move : ((SliceSt.stashList [(4, rec1 true 0 (some 0))]).findSome? (fun e =>
    match ((led { recs := [(4, rec1 true 0 (some 0))] } asked).slice 0).recAt e.2 with
    | some r => (led {} asked).stashPlace ((led { recs := [(4, rec1 true 0 (some 0))] } asked).slice 0) e.2 r
    | none => none)).isSome = true := by decide +kernel
/-- An idle record of profile 0, whose time-out is 1 s, last used at 0 and visited after 1 s. -/
def idle1 (img : BitVec 1024) (b : Tab BerthSt) : State :=
  { (led { recs := [(4, rec1 true img none)], berths := b } asked).set F.ledgerAgeProfile_idleS 0 1 with time := { tl := true, tlNs := 1000000000 } }
theorem test_ager : (idle1 0 []).bit F.ledgerCfg_en 0 = true ∧ (idle1 0 []).modeNo ≠ mHARBOUR ∧
    ((idle1 0 []).slice 0).nextVisit = some (4, rec1 true 0 none) ∧ recStatic (rec1 true 0 none) = false ∧
    (idle1 0 []).lockHeld 0 (rec1 true 0 none).hs = false ∧ (idle1 0 []).ageIdle (rec1 true 0 none) = true ∧
    recStatic (rec1 true 2 none) = true ∧ (idle1 0 [(0, berth1 .ready)]).lockHeld 0 (rec1 true 0 none).hs = true ∧
    (led {} asked).ageIdle (rec1 true 0 none) = false := by decide +kernel
/-- A rehash whose old table holds one record. -/
def rehash1 (b : Tab BerthSt) (old : Tab Rec) : State :=
  { led {} asked with led := { slices := [(0, { old := old, berths := b })], rehash := some ⟨14, false, 9⟩ } }
theorem test_migrate : (rehash1 [] [(4, rec1 false 0 none)]).led.rehash = some ⟨14, false, 9⟩ ∧
    (((rehash1 [] [(4, rec1 false 0 none)]).slice 0).nextMigrant ⟨14, false, 9⟩).map (fun x => (x.1, x.2.1)) = some (4, rec1 false 0 none) ∧
    ((rehash1 [] []).slice 0).nextMigrant ⟨14, false, 9⟩ = none ∧ (rehash1 [] [(4, rec1 false 0 none)]).ageIdle (rec1 false 0 none) = false ∧
    key16.length ≤ keyMax (rehash1 [] []).compact ∧ ((rehash1 [] [(4, rec1 false 0 none)]).reserveRoom 0 key16).2 = some (0, false) ∧
    (rehash1 [(0, berth1 .ready)] []).lockHeld 0 (rec1 false 0 none).hs = true := by decide +kernel

/-! ### Tables -/

def notice1 : Notice := ⟨1, 0, 0, 0, [1, 2, 3, 4], 0⟩
def learn1 : State := { inMode mSERVICE with tab := { learnWait := [(3, [notice1])] } }
def learnStage : Nat := (kx64 (BitVec.ofNat 8 0 :: [1, 2, 3, 4]) (BitVec.ofNat 64 (learn1.get F.tblEmSeed_seed 0))).toNat % 1024
def learn2 : State := ({ learn1 with tab := { learn1.tab with filter := [(learnStage, [⟨0, [1, 2, 3, 4], 0⟩])] } }.set F.tblLearnCfg_window 0 1)
def emEntry (st hit : Bool) (age : Nat) : EmEntry := ⟨0, [1, 2, 3, 4], 5, st, hit, age, 0⟩
/-- Partition 0 ages, with one entry. -/
def em1 (e : EmEntry) : State :=
  { (((inMode mSERVICE).setBit F.tblEmPart_en 0 true).setBit F.tblEmPart_ageEn 0 true).set F.tblEmPart_ageLimit 0 3 with
    tab := { em := [(0, e)], agers := [(0, { todo := [0] })] } }
def bad1 (b : List (Nat × Nat × Nat)) : State := { inMode mSERVICE with tab := { bad := b, repairs := [(tkEM, 3, 0)] } }

theorem test_learn : Tab.getD learn1.tab.learnWait 3 [] = notice1 :: [] ∧
    (Tab.getD learn1.tab.filter learnStage []).any (fun k => decide (0 < k.postedNs + learn1.get F.tblLearnCfg_window 0 * 1000000)) = false ∧
    (Tab.getD learn2.tab.filter learnStage []).any (fun k => decide (learn2.ns < k.postedNs + learn2.get F.tblLearnCfg_window 0 * 1000000) &&
      k.part == 0 && k.key == [1, 2, 3, 4]) = true := by decide +kernel
theorem test_em_ages : (em1 (emEntry false true 2)).bit F.tblEmPart_ageEn 0 = true ∧ (em1 (emEntry false true 2)).time.tl = true ∧
    ((em1 (emEntry false true 2)).emAger 0).todo = 0 :: [] ∧ Tab.get? (em1 (emEntry true true 2)).tab.em 0 = some (emEntry true true 2) ∧
    (emEntry false false 1).age + 1 < (em1 (emEntry false false 1)).get F.tblEmPart_ageLimit 0 := by decide +kernel
theorem test_frag_ages : (inMode mSERVICE).forwarding = true ∧ (inMode mSERVICE).time.tl = true ∧
    Tab.wf [(3, (⟨[], 0, 0, 0, 0, 8⟩ : FragEntry)), (4, ⟨[], 0, 0, 0, 0, 7⟩)] = true := by decide +kernel
theorem test_repairs : (bad1 [(tkEM, 3, 0)]).tab.repairs = (tkEM, 3, 0) :: [] ∧ (bad1 [(tkEM, 3, 0)]).isBad tkEM 0 0 = false ∧
    (∀ h, h < 4 → h ≠ 3 → (bad1 [(tkEM, 0, 0), (tkEM, 1, 0), (tkEM, 2, 0), (tkEM, 3, 0)]).isBad tkEM h 0 = true) := by decide +kernel

/-! ### Ports and time -/

/-- Port 0 trains at 1 Gb/s and may be up; registers may be set further. -/
def train0 (up : Bool) : State :=
  ((((inMode mSERVICE).set F.portPbMode_mode 0 9).setBit F.portCfg_en 0 true).setBit F.tmPortStatus_link 0 up).setBit F.portStatus_link 0 up
def with0 (v : PortSt) (s : State) : State := s.setPortSt 0 v
/-- A gate list of two entries of 500 ns in force at port 0, on TL, and a second list that changes in at 1 us. -/
def list0 : GateList := ⟨0, 0, 1000, 0, 0, [0x01010000 * 0x100 + 500, 0x2FF000001F4]⟩
def gated (admin : Bool) : State :=
  (((train0 true).setBit F.tmPortCfg_gateEn 0 true).set F.tmPortCfg_gateBase 0 15).setGate 0
    ⟨some list0, if admin then some list0 else none, if admin then some 65536000 else none, false⟩

theorem test_gates : (gated false).gateEn 0 = true ∧ ((gated false).gate 0).oper.isSome = true ∧ ((gated true).gate 0).change16 = some 65536000 ∧
    ((gated true).gate 0).admin = some list0 ∧ (gated true).baseT16 ((gated true).gateBase 0) < 65536000 := by decide +kernel
theorem test_gate_change_due : ({ gated true with time := { tl := true, tlNs := 1000 } } : State).baseT16 15 = 65536000 ∧
    ({ gated true with time := { tl := true, tlNs := 1000 } } : State).gateBase 0 = 15 := by decide +kernel
theorem test_lpi : (train0 true).linkUp 0 = true ∧ ((train0 true).setBit F.portLpi_lpiEn 0 true).lpiAble 0 = true ∧
    ((train0 true).setBit F.portLpi_lpiEn 0 true).bit F.portStatus_txLpi 0 = false ∧
    ((train0 true).setBit F.portLpi_lpiEn 0 true).get F.tmPortStatus_outstanding 0 = 0 ∧ Tab.getD (train0 true).ports.wire 0 [] = [] ∧
    ((train0 true).portSt 0).idleSince + ((train0 true).setBit F.portLpi_lpiEn 0 true).get F.portLpi_lpiIdle 0 * 1000 ≤
      ({ train0 true with ns := 1000000 } : State).ns ∧
    (train0 true).bit F.portCfg_timingPort 0 = false ∧ ((train0 true).setBit F.portCfg_timingPort 0 true).bit F.portCfg_timingPort 0 = true := by
  decide +kernel
def preempt0 (n : Nat) : State := with0 { verifyTries := n } ((train0 true).setBit F.portPreempt_preemptEn 0 true)
theorem test_preempt : (preempt0 0).linkUp 0 = true ∧ (preempt0 0).bit F.portPreempt_preemptEn 0 = true ∧
    (preempt0 0).bit F.portPreempt_verifyDis 0 = false ∧ (preempt0 0).bit F.portStatus_preemptActive 0 = false ∧
    ((preempt0 0).portSt 0).verifySent = none ∧ ((preempt0 3).portSt 0).verifyTries = 3 ∧ ((preempt0 1).portSt 0).verifyTries = 1 := by decide +kernel

theorem test_training : (train0 false).trains 0 = true ∧ (train0 false).linkUp 0 = false ∧ (train0 true).linkUp 0 = true ∧
    ((train0 true).portSt 0).condDown = none ∧ (3 : BitVec 8).toNat = 3 ∧ (4 : BitVec 8).toNat = 4 ∧
    ((train0 false).set F.timePortCal_calState 0 1).get F.timePortCal_calState 0 = 1 := by decide +kernel
/-- The debounce of port 0 began at 0; it is 1 s later. -/
def debounce (up : Bool) : State := { with0 { condUp := if up then none else some 0, condDown := if up then some (0, 4) else none } (train0 up) with ns := 1000000000 }
theorem test_debounce : ((debounce false).portSt 0).condUp = some 0 ∧ (debounce false).trains 0 = true ∧ (debounce false).linkUp 0 = false ∧
    0 + (debounce false).get F.portCfg_linkUpDeb 0 * 1000000 ≤ (debounce false).ns ∧ ((debounce true).portSt 0).condDown = some (0, 4) ∧
    (debounce true).linkUp 0 = true ∧ 0 + (debounce true).get F.portCfg_linkDownDeb 0 * 1000 ≤ (debounce true).ns := by decide +kernel
theorem test_link_hold : (((train0 false).setTmPort 0 { holdUntil := some 0 }).tmPort 0).holdUntil = some 0 ∧
    ((train0 false).setTmPort 0 { holdUntil := some 0 }).linkUp 0 = false ∧ 0 ≤ (train0 false).tlNs / 1000 := by decide +kernel

theorem test_fec : (train0 true).linkUp 0 = true ∧ (train0 true).get F.portCfg_fecDegThr 0 < 2 ^ 30 ∧ ((train0 true).portSt 0).lastFecEvt = none ∧
    (with0 { lastFecEvt := some 0 } (train0 true)).ns < 0 + 1000000000 := by decide +kernel
theorem test_flow_modes : ((train0 true).set F.portFlowctl_mode 0 1).get F.portFlowctl_mode 0 = 1 ∧
    ((train0 true).set F.portFlowctl_mode 0 2).get F.portFlowctl_mode 0 = 2 ∧ ((train0 true).set F.portFlowctl_mode 0 0).get F.portFlowctl_mode 0 = 0 ∧
    ((train0 true).set F.portFlowctl_mode 0 2).linkUp 0 = true ∧ ((train0 true).set F.portFlowctl_mode 0 1).linkUp 0 = true := by decide +kernel
def paused0 : State := with0 { pauseUntil := some 0, pfcUntil := [(7, 0)], refreshNs := some 0, xoff := 0x80 } (train0 true)
theorem test_pause_ends : (paused0.portSt 0).pauseUntil = some 0 ∧ 0 ≤ paused0.ns ∧ Tab.get? (paused0.portSt 0).pfcUntil (7 : Fin 8).val = some 0 ∧
    (paused0.portSt 0).refreshNs = some 0 ∧ (paused0.portSt 0).xoff ≠ 0 := by decide +kernel
/-- The watchdog of every class of port 0 is on; class 7 storms or not, and is paused, with a frame in queue 7. -/
def storm0 (storm : BitVec 8) (last wait : Nat) : State :=
  let s := with0 { storm := storm, pfcLast := [(7, last)], pfcSince := [(7, 0)] }
    ((((train0 true).set F.portFlowctl_mode 0 2).set F.portPfcWd_wdEn 0 255).set F.portPfcWd_wdRestore 0 wait)
  { s.set F.tmPortStatus_pfcPaused 0 0x80 with ns := 10000000, time := { tl := true, tlNs := 10000000 } }
theorem test_watchdog : (storm0 0x80 0 100).linkUp 0 = true ∧ (storm0 0x80 0 100).get F.portFlowctl_mode 0 = 2 ∧
    ((storm0 0x80 0 100).get F.portPfcWd_wdEn 0).testBit 7 = true ∧ ((storm0 0x80 0 100).portSt 0).storm.getLsbD 7 = true ∧
    (storm0 0x80 0 100).msSince (Tab.getD ((storm0 0x80 0 100).portSt 0).pfcLast 7 0) < (storm0 0x80 0 100).get F.portPfcWd_wdRestore 0 ∧
    (storm0 0x80 0 10).get F.portPfcWd_wdRestore 0 ≤ (storm0 0x80 0 10).msSince (Tab.getD ((storm0 0x80 0 10).portSt 0).pfcLast 7 0) ∧
    ((storm0 0 0 10).portSt 0).storm.getLsbD 7 = false ∧ ((storm0 0 0 10).get F.tmPortStatus_pfcPaused 0).testBit 7 = true ∧
    ((storm0 0 0 10).get F.tmPortStatus_pfcPaused 0).testBit 6 = false ∧ (storm0 0 0 10).slotQueues 7 = [] := by decide +kernel

/-- Base 0 runs in a servo state. -/
def base0 (st : Nat) (v : Base) : State :=
  { ((inMode mSERVICE).set F.timeTbStatus_state 0 st).setBase 0 { v with running := true } with ns := 100000000000 }
theorem test_holdover : ((base0 sLOCKED {}).base 0).running = true ∧ (base0 sLOCKED {}).servo 0 ≠ sHOLDOVER ∧
    ((base0 sLOCKED {}).base 0).lastMeasNs + (base0 sLOCKED {}).get F.timeTbServo_measTimeout 0 * 1000000 ≤ (base0 sLOCKED {}).ns := by decide +kernel
def window0 (w : Nat) : State := ((base0 sLOCKED {}).setXg 0 { jumpNs := some 0 }).set F.timeXgCfg_jumpWindow 0 w
theorem test_jump_window : ((window0 100).xg 0).jumpNs = some 0 ∧ 0 + (window0 100).get F.timeXgCfg_jumpWindow 0 * 1000000 ≤ (window0 100).ns ∧
    (window0 0xFFFFF).get F.timeXgCfg_jumpWindow 0 ≤ 0xFFFFF ∧ (∀ n, n < 8 → (window0 100).bit F.timeTbStatus_jumpPending n = false) ∧
    ({ window0 100 with ns := 99999999 } : State).ns < 0 + ({ window0 100 with ns := 99999999 } : State).get F.timeXgCfg_jumpWindow 0 * 1000000 := by
  decide +kernel
theorem test_accept_after : ((base0 sSUSPECT {}).set F.timeTbServo_acceptAfter 0 60).servo 0 = sSUSPECT ∧
    ((base0 sSUSPECT {}).set F.timeTbServo_acceptAfter 0 60).get F.timeTbServo_acceptAfter 0 = 60 ∧
    0 + 60 * 1000000000 ≤ (base0 sSUSPECT {}).ns ∧ ((base0 sSUSPECT {}).base 0).suspectSinceNs = 0 := by decide +kernel
theorem test_quality : ((base0 sLOCKED { lockedSinceNs := some 40000000000 }).base 0).lockedSinceNs = some 40000000000 ∧
    40000000000 + 60000000000 ≤ (base0 sLOCKED {}).ns ∧ (base0 sHOLDOVER {}).servo 0 = sHOLDOVER ∧
    ((base0 sHOLDOVER {}).base 0).holdSinceNs + ((base0 sHOLDOVER {}).set F.timeTbHold_degradeAfter 0 99).get F.timeTbHold_degradeAfter 0 * 1000000000 <
      (base0 sHOLDOVER {}).ns := by decide +kernel
def drift0 (n cal : Nat) : State := (with0 { drift := n } (train0 true)).set F.timePortCal_calState 0 cal
theorem test_replicas : (drift0 2 2).get F.timePortCal_calState 0 = 2 ∧ ((drift0 2 2).portSt 0).drift = 2 ∧ (drift0 0 3).get F.timePortCal_calState 0 = 3 ∧
    (50 < ((51 : Int) - (drift0 2 2).get F.timePortCal_dPmaRx 0).natAbs) := by decide +kernel
def stamp0 : TxEntry := ⟨1, 0, 7, 0, 0, 5⟩
/-- A stamp waits at port 0, for channel 1, an OPEN EVT channel with room or none. -/
def txts0 (room : Bool) : State :=
  let s := (((inMode mSERVICE).set F.cmdChState_state 1 1).set F.cmdChState_type 1 4).set F.timeTxtsChan_handle 0 (handle 1 0 1)
  { s with time := { s.time with txts := [(0, [stamp0])] }, cmd := { chans := [(1, { cqHead := if room then 0 else 1 })] } }
theorem test_txts_drain : (txts0 true).txts 0 = stamp0 :: [] ∧
    ((txts0 true).chanLive ((txts0 true).get F.timeTxtsChan_handle 0) 4 && (txts0 true).evtRoom 1 && ((txts0 true).chan 1).hold.isEmpty) = true ∧
    hIx ((txts0 true).get F.timeTxtsChan_handle 0) = 1 ∧
    ((txts0 false).chanLive ((txts0 false).get F.timeTxtsChan_handle 0) 4 && (txts0 false).evtRoom 1 && ((txts0 false).chan 1).hold.isEmpty) = false := by
  decide +kernel

/-- PPS input 0 is on, with ToD messages or none, in a mode that measures. -/
def pps0 (tod : Bool) (v : PpsIn) : State :=
  { (((inMode mSERVICE).setBit F.timePpsIn_en 0 true).setBit F.timePpsIn_todEn 0 tod).setPpsIn 0 v with ns := 2000000000 }
/-- The ToD message of second 5, with its CRC. -/
def tod5 : List Byte :=
  let l : List Byte := [0x4B, 0x54, 1, 0, 0, 0, 0, 0, 0, 0, 5, 0, 0, 0]
  l ++ [BitVec.ofNat 8 (crc16 l / 256), BitVec.ofNat 8 (crc16 l)]
theorem test_pps_edge : (pps0 false {}).bit F.timePpsIn_en 0 = true ∧ (pps0 false {}).time.tl = true ∧ (pps0 false {}).measMode = true ∧
    (decide ((0 : Nat) < 2) && (pps0 false {}).bit F.timePpsIn_todEn 0) = false ∧ (decide ((0 : Nat) < 2) && (pps0 true {}).bit F.timePpsIn_todEn 0) = true ∧
    ((pps0 false {}).set F.sysMode_mode 0 mHALT).measMode = false := by decide +kernel
theorem test_pps_loss : (Tab.getD (pps0 false { lastNs := some 0 }).time.ppsIn 0 {}).lastNs = some 0 ∧ 0 + 1100000000 < (pps0 false {}).ns := by decide +kernel
theorem test_tod : tod5.length = 16 ∧ tod5.take 3 = [0x4B, 0x54, 1] ∧ beNat (tod5.drop 14) = crc16 (tod5.take 14) ∧
    ({ pps0 true { lastNs := some 1500000000 } with ns := 2000000000 } : State).bit F.timePpsIn_todEn 0 = true ∧
    1500000000 + 1000000 ≤ (2000000000 : Nat) ∧ (2000000000 : Nat) ≤ 1500000000 + 900000000 ∧ ¬((2000000000 : Nat) ≤ 0 + 900000000) := by decide +kernel
/-- Output 0 follows base 0, which has just passed second 1, or TL. -/
def ppsOut0 (tod : Bool) : State :=
  (((((base0 sLOCKED { t40 := 2 ^ 40 * 1000000000 }).set F.timePpsOut_mode 0 1).set F.timePpsOut_base 0 0).setBit F.timePpsOut_todEn 0 tod).setBit
    F.timeTbCfg_en 0 true).set F.timePpsOut_width 0 100
theorem test_pps_out : (ppsOut0 true).get F.timePpsOut_base 0 = 0 ∧ (ppsOut0 true).ppsOutOn 0 0 = true ∧
    ((ppsOut0 true).baseT40 0).1 % (2 ^ 40 * 1000000000) < ((ppsOut0 true).baseT40 0).2 ∧ Tab.get? (ppsOut0 true).time.ppsOutNs 0 = none ∧
    (ppsOut0 true).bit F.timePpsOut_todEn 0 = true ∧ (ppsOut0 false).bit F.timePpsOut_todEn 0 = false := by decide +kernel
def due0 : State := { inMode mSERVICE with time := { tl := true, todDue := [(0, (0, tod5))] }, ns := 1000000 }
theorem test_tod_due : Tab.get? due0.time.todDue 0 = some (0, tod5) ∧ 0 + 1000000 ≤ due0.ns ∧ due0.modeNo ≠ mRESET ∧ due0.modeNo ≠ mHALT := by decide +kernel
def dpll0 (st : Nat) : State :=
  { (inMode mSERVICE).set F.timeDpllStatus_state 0 st with time := { tl := true, dpllLocked := [(0, 0)] }, ns := 60000000000 }
theorem test_dpll : (((dpll0 0).setBit F.timeRclkSel_en 0 true).setBit F.timeRclkSel_squelch 0 false).rclkLive 0 = true ∧
    (dpll0 2).get F.timeDpllStatus_state 0 = (2 : BitVec 2).toNat ∧ (dpll0 0).get F.timeDpllStatus_state 0 ≠ (2 : BitVec 2).toNat ∧
    (1 : BitVec 2).toNat < 2 ∧ Tab.get? (dpll0 2).time.dpllLocked 0 = some 0 ∧ 0 + 60000000000 ≤ (dpll0 2).ns := by decide +kernel

/-! ### Registers -/

theorem test_counter_reads : (inMode mSERVICE).modeNo ≠ mRESET ∧ findReg (4 : BitVec 26).toNat = none ∧
    findReg (6320192 : BitVec 26).toNat = some (.tblCntRepaired, 0, 0) ∧ nowBase .tblCntRepaired 0 = none ∧
    findReg (0 : BitVec 26).toNat = some (.sysMode, 0, 0) ∧ (Reg.sysMode).row.writable 0 4 = false := by decide +kernel
theorem test_direct_modes : (inMode mMOORED).directMode = true ∧ (inMode mSERVICE).directMode = false ∧ (1 : BitVec 32).getLsbD 0 = true ∧
    (inMode mHARBOUR).modeNo = mHARBOUR ∧ (inMode mHALT).modeNo = mHALT := by decide +kernel

/-! ### The host -/

/-- Channel 1 of function 0 is OPEN with a type, and as given; its ring stands at 0x1000 and has 64 slots. -/
def chan1Of (ty : Nat) (v : ChanSt) (m : Nat) : State :=
  let s := ((((inMode m).set F.cmdChState_state 1 1).set F.cmdChState_type 1 ty).set F.cmdChState_gen 1 3).set F.cmdChState_tail 1 1
  { s with cmd := { chans := [(1, { v with ring := 0x1000 })] } }
/-- One entry in its ring: the bytes of the host's memory that are not 0. -/
def entry (l : Memory) (s : State) : State := { s with hostMem := l }

theorem test_doorbells : (chan1Of 1 {} mHALT).modeNo = mHALT ∧ (chan1Of 1 {} mBOOT).modeNo = mBOOT ∧ mMOORED ≤ (chan1Of 1 {} mSERVICE).modeNo ∧
    (chan1Of 1 {} mSERVICE).modeNo ≠ mHALT ∧ (chan1Of 1 {} mSERVICE).bellLive 0 1 2 = false ∧ (chan1Of 1 {} mSERVICE).bellLive 0 1 3 = true ∧
    (chan1Of 1 {} mSERVICE).get F.cmdChState_type 1 = 1 ∧ (chan1Of 4 {} mSERVICE).get F.cmdChState_type 1 = 4 ∧ 2 ^ ((chan1Of 1 {} mSERVICE).chan 1).log2ring = 64 ∧
    2 ^ ((chan1Of 1 {} mSERVICE).chan 1).log2cq = 16 ∧ (chan1Of 1 {} mSERVICE).driverWrites 0 1 [] = chan1Of 1 {} mSERVICE := by decide +kernel
theorem test_doorbell_channel0 : (((inMode mSERVICE).set F.cmdCh0RingBase_base 0 1).set F.cmdCh0CqBase_base 0 1).ch0Up = true := by decide +kernel
theorem test_doorbell_work : (entry [] ((chan1Of 1 {} mSERVICE).set F.cmdChState_tail 1 1)).hasWork (.chan 1) = true := by decide +kernel
/-- A frame waits for RXP delivery; an entry of 128 B is posted or none. -/
def rx1 (posted flag : Bool) : State :=
  entry [(0x1001, 0x80), (0x1008, 128)] ((chan1Of 2 { rx := [⟨0, 0, [], wire64, false, 0, none, 0⟩], flag := flag } mSERVICE).set F.cmdChState_tail 1 (if posted then 1 else 0))
theorem test_rxp : ((rx1 true false).chan 1).rx = ⟨0, 0, [], wire64, false, 0, none, 0⟩ :: [] ∧ (rx1 true false).chanIs 1 2 = true ∧
    (rx1 true false).chanRuns 1 = true ∧ (rx1 true false).modeNo ≠ mHARBOUR ∧
    (rx1 true false).rxEntries 1 ((rx1 true false).chan 1).devHead ⟨0, 0, [], wire64, false, 0, none, 0⟩ = some [(0, 128)] ∧
    (rx1 false false).rxEntries 1 ((rx1 false false).chan 1).devHead ⟨0, 0, [], wire64, false, 0, none, 0⟩ = none ∧
    ((rx1 false false).chan 1).flag = false ∧ 0 + ((rx1 false false).chan 1).stallUs * 1000 ≤ ({ rx1 false false with ns := 1000 } : State).ns := by
  decide +kernel
/-- A frame of `n` bytes at 0x2000 is posted, SOP and EOP. -/
def tx1 (n : Byte) : State :=
  entry [(0x1001, 0x20), (0x1008, n), (0x100A, n), (0x1012, 255), (0x101C, 6)] (chan1Of 3 {} mSERVICE)
theorem test_txp : (tx1 60).chanIs 1 3 = true ∧ (tx1 60).chanRuns 1 = true ∧ (tx1 60).txModes = true ∧ (tx1 60).paused ((tx1 60).txQuay 1).val = false ∧
    ((tx1 60).txFrame 1).isSome = true ∧ (((tx1 60).txFrame 1).map (fun r => (tx1 60).txCheck 1 r)) = some (some (List.replicate 60 0)) ∧
    (((tx1 59).txFrame 1).map (fun r => (tx1 59).txCheck 1 r)) = some none ∧ (tx1 60).staged 0 + 60 + 4 ≤ stagingSize := by decide +kernel
theorem test_txp_no_staging : stagingSize < stagingSize - 63 + 60 + 4 := by decide
def evt1 (full : Bool) : State := chan1Of 4 { hold := [⟨1, [], 0⟩], cqHead := if full then 1 else 0 } mSERVICE
theorem test_evt : ((evt1 false).chan 1).hold = ⟨1, [], 0⟩ :: [] ∧ (evt1 false).chanIs 1 4 = true ∧ (evt1 false).evtRoom 1 = true ∧
    (evt1 true).evtRoom 1 = false ∧ 0 + ((evt1 false).chan 1).stallUs * 1000 ≤ ({ evt1 false with ns := 1000 } : State).ns := by decide +kernel
/-- A REC entry for segment `n` of partition 0, which holds segment 7, written or not; a read in hand or not. -/
def seg7 : Seg := { part := 0, num := 7, drive := 0, slot := 0, written := true }
def rec7 (h n : Byte) (reading : Option Nat) : State :=
  let s := entry [(0x1001, 0x80), (0x1009, 0x10), (0x100F, h), (0x1010, n)] (chan1Of 5 { reading := reading } mSERVICE)
  { (s.set F.logPartStatus_state 0 1).setReg .logDriveStatus 0 2 with log := { s.log with segs := [(4, seg7)] } }
theorem test_rec : (rec7 0x50 7 none).recReady 1 = true ∧ ((rec7 0x50 7 none).chan 1).reading = none ∧
    (rec7 0x50 7 none).partLive ((rec7 0x50 7 none).recEnt 1).2.2.1 = true ∧
    (rec7 0 7 none).partLive ((rec7 0 7 none).recEnt 1).2.2.1 = false ∧
    (rec7 0x50 8 none).segOf 0 ((rec7 0x50 8 none).recEnt 1).2.2.2.1 = none ∧
    (rec7 0x50 7 none).segOf (hIx ((rec7 0x50 7 none).recEnt 1).2.2.1) ((rec7 0x50 7 none).recEnt 1).2.2.2.1 = some (4, seg7) ∧
    seg7.written = true ∧ (rec7 0x50 7 none).get F.logDriveStatus_state 0 = 2 ∧ ((rec7 0x50 7 (some 4)).chan 1).reading = some 4 ∧
    Tab.get? (rec7 0x50 7 (some 4)).log.segs 4 = some seg7 := by decide +kernel

def irq1 (n : Nat) (off : List Nat) : State := { chan1Of 2 { irqCount := 2, irqUs := 5, unsignalled := n, firstNs := 0 } mSERVICE with host := { bmOff := off, pendingVec := [9] } }
theorem test_msix : ((irq1 2 []).chan 1).irqCount ≠ 0 ∧ ((irq1 2 []).chan 1).irqCount ≤ ((irq1 2 []).chan 1).unsignalled ∧ ((irq1 1 []).chan 1).unsignalled ≠ 0 ∧
    (irq1 2 []).host.bmOff.contains ((irq1 2 []).chanFn 1) = false ∧ ((irq1 1 []).chan 1).unsignalled < ((irq1 1 []).chan 1).irqCount ∧
    (irq1 1 []).ns < ((irq1 1 []).chan 1).firstNs + ((irq1 1 []).chan 1).irqUs * 1000 ∧ 9 ∈ (irq1 1 []).host.pendingVec ∧ 8 ∉ (irq1 1 []).host.pendingVec ∧
    0 + 5 * 1000 ≤ ({ irq1 1 [] with ns := 5000 } : State).ns := by decide +kernel
theorem test_dma_error : (tx1 60).chanState 1 = 1 ∧ (tx1 60).chanRuns 1 = true ∧ ((tx1 60).inTxData 1 0x203B).isSome = true ∧ ((tx1 60).inTxData 1 0x203C).isSome = false ∧
    ¬((1 : BitVec 2) = 2 ∧ (tx1 60).chanIs 1 3 = true) ∧ (rx1 true true).chanState 1 = 1 ∧ (rx1 true true).chanRuns 1 = true ∧
    (((rx1 true true).setChan 1 { (rx1 true true).chan 1 with stopped := true }).dmaReport 1 1 0).chan 1 =
      { ring := 0x1000, rx := [⟨0, 0, [], wire64, false, 0, none, 0⟩], flag := true, stopped := true } ∧
    ((((rx1 true false).setChan 1 { (rx1 true false).chan 1 with stopped := true }).dmaReport 1 1 0).chan 1).flag = false := by decide +kernel
theorem test_close : (rx1 true false).chanState 1 = 1 ∧ (rx1 true false).get F.cmdChState_type 1 ≠ 1 ∧ (chan1Of 1 {} mSERVICE).get F.cmdChState_type 1 = 1 ∧
    (1 : Fn).val ≠ 0 := by decide +kernel
def bar4 (size : Nat) (failed : Bool) : State := ((inMode mSERVICE).set F.bufHbmPool_size 0 size).set F.sysStatus_hbmFail 0 failed.toNat
theorem test_bar4 : (bar4 1 false).modeNo ≠ mRESET ∧ (bar4 1 false).modeNo ≠ mBOOT ∧ ((bar4 0 false).hbmRegion 0).2 < (0 : BitVec 32).toNat + 8 ∧
    (0 : BitVec 32).toNat + 8 ≤ ((bar4 1 false).hbmRegion 0).2 ∧ ((1073741816 : BitVec 32).toNat + 8 ≤ ((bar4 1 false).hbmRegion 0).2) ∧
    ((bar4 1 false).hbmRegion 0).2 < (1073741817 : BitVec 32).toNat + 8 ∧ (bar4 1 true).hbmFailed = true ∧ (bar4 1 false).hbmFailed = false ∧
    (bar4 1 false).hbmBad.contains 0 = false := by decide +kernel

/-! ### Command engines: a control instruction of channel 1 -/

def cc (op : Nat) (w : List Word) (s : State) : Ctl := s.directCtl (.chan 1) op 0 w
def go (op : Nat) (w : List Word) (s : State) : State := s.taken 0 (.chan 1) (cc op w s)
/-- Channel 1 starts the instruction. -/
abbrev Ci (op : Nat) (w : List Word) (s : State) : Prop := CtlIssues op (.chan 1) 0 w s (cc op w s) (go op w s)
def starts (s : State) : Bool := s.commandsRun && s.mayIssue (.chan 1) && s.engineFree 0

theorem ctl_taken {op : Nat} {w : List Word} {s : State} (h : (starts s && (go op w s).cqRoom (.chan 1)) = true) :
    CtlTaken op (.chan 1) 0 w s (cc op w s) (go op w s) := by
  simp only [starts, Bool.and_eq_true] at h
  exact ⟨h.1.1.1, h.1.1.2, rfl, ⟨0, by simp [List.range, List.range.loop, h.1.2], rfl⟩, h.2⟩
theorem ctl_issues {op : Nat} {w : List Word} {s : State} {n m : Nat} {p : Bool} {f : CtlFn} (hop : ctlOp op = some (n, m, p, f))
    (h : (starts s && (go op w s).cqRoom (.chan 1) && opModeOk m (go op w s).modeNo &&
      (!p || !((go op w s).issRestricted (.chan 1) (cc op w s))) && decide (n ≤ w.length)) = true) :
    CtlIssues op (.chan 1) 0 w s (cc op w s) (go op w s) := by
  simp only [Bool.and_eq_true, decide_eq_true_eq] at h
  refine { toCtlTaken := ctl_taken (by simp only [Bool.and_eq_true]; exact h.1.1.1), mode := ?_, right := ?_, words := ?_ }
  · intro r hr; rw [hop] at hr; cases hr; exact h.1.1.2
  · intro r hr hp; rw [hop] at hr; cases hr; simpa [show p = true from hp] using h.1.2
  · intro r hr; rw [hop] at hr; cases hr; exact h.2

/-- Channel 1 with a RESTRICTED issuer; with its completion ring full; with every engine taken. -/
def narrow : State := (chan1 mSERVICE).setBit F.cmdChState_restricted 1 true
def cqFull1 : State := (chan1 mSERVICE).setChan 1 { (chan1 mSERVICE).chan 1 with cqTail := 15 }
def busy8 : State := { chan1 mSERVICE with cmd := { engines := (List.range 8).map (fun e => (e, Issuer.tug 0)) } }

theorem test_ctl_judged : (chan1 mBOOT).commandsRun = false ∧ (inMode mSERVICE).mayIssue (.chan 1) = false ∧ starts (chan1 mSERVICE) = true ∧
    (∀ e, e < 8 → busy8.engineFree e = false) ∧ (go 3 [0] cqFull1).cqRoom (.chan 1) = false ∧ starts cqFull1 = true := by decide +kernel
theorem test_ctl_taken : CtlTaken 0x00D (.chan 1) 0 [0] (chan1 mHARBOUR) (cc 0x00D [0] (chan1 mHARBOUR)) (go 0x00D [0] (chan1 mHARBOUR)) ∧
    opModeOk 1 (go 0x00D [0] (chan1 mHARBOUR)).modeNo = false ∧
    CtlTaken 0x00D (.chan 1) 0 [0] narrow (cc 0x00D [0] narrow) (go 0x00D [0] narrow) ∧ opModeOk 1 (go 0x00D [0] narrow).modeNo = true ∧
    (go 0x00D [0] narrow).issRestricted (.chan 1) (cc 0x00D [0] narrow) = true ∧
    CtlTaken 0x003 (.chan 1) 0 [] (chan1 mHARBOUR) (cc 0x003 [] (chan1 mHARBOUR)) (go 0x003 [] (chan1 mHARBOUR)) :=
  ⟨ctl_taken (by decide +kernel), by decide +kernel, ctl_taken (by decide +kernel), by decide +kernel, by decide +kernel, ctl_taken (by decide +kernel)⟩
theorem test_completion : ((chan1 mSERVICE).chan 1).mute = false ∧ (chan1 mSERVICE).chanRuns 1 = true ∧ ((chan1 mSERVICE).chan 1).loc = false ∧
    (chan1 mSERVICE).chanState 1 = 1 := by decide +kernel

/-- A CTL of BARRIER in hand of channel 1, on an engine or waiting until `t`; flight 0 is on its way. -/
def ctl6 (note : Nat) (t : Option Nat) : Ctl := { op := 0x006, tag := 0, slot := 0, w := [0], note := note, untilNs := t, started := true }
def ctl45 : Ctl := { op := 0x045, tag := 0, slot := 0, w := [0], started := true }
def running1 (c : Ctl) : State := { chan1 mSERVICE with cmd := { engines := [(0, .chan 1)], current := [(1, c)] } }
def parked1 (c : Ctl) : State := { chan1 mSERVICE with ns := 10, cmd := { parked := [(1, c)] }, eng := { flights := [(0, (false, 0))], nextFlight := 1 } }
def ready1 (c : Ctl) : State := { chan1 mSERVICE with cmd := { ready := [.chan 1], current := [(1, c)] } }
theorem test_dispatch : (ready1 ctl45).commandsRun = true ∧ (ready1 ctl45).engineFree 0 = true ∧ (ready1 ctl45).cmd.ready = .chan 1 :: [] ∧
    Tab.has (ready1 ctl45).cmd.parked (issKey (.chan 1)) = false ∧ ctl45.settled ≠ some 0x0C ∧
    (State.nextCtl { ready1 ctl45 with cmd := { (ready1 ctl45).cmd with ready := [] } } (.chan 1)).2 = some ctl45 ∧
    (inMode mSERVICE).cmd.ready = [] ∧ busy8.engineFree 0 = false := by decide +kernel
theorem test_slice_end : Tab.get? (running1 ctl45).cmd.engines 0 = some (.chan 1) ∧ Tab.get? (running1 ctl45).cmd.current (issKey (.chan 1)) = some ctl45 ∧
    opResumable ctl45.op = true ∧ ctl45.settled = none := by decide +kernel
theorem test_parked : (parked1 (ctl6 0 none)).handOf (.chan 1) = some (ctl6 0 none) ∧ (parked1 (ctl6 0 none)).parkOver (.chan 1) (ctl6 0 none) = true ∧
    (parked1 (ctl6 1 none)).parkOver (.chan 1) (ctl6 1 none) = false ∧ (parked1 (ctl6 1 (some 10))).handOf (.chan 1) = some (ctl6 1 (some 10)) ∧
    10 ≤ (parked1 (ctl6 1 (some 10))).ns ∧ (parked1 (ctl6 1 (some 11))).ns < 11 ∧
    Tab.get? (parked1 (ctl6 1 none)).cmd.parked (issKey (.chan 1)) = some (ctl6 1 none) ∧ mMOORED ≤ (parked1 (ctl6 1 none)).modeNo ∧
    (parked1 (ctl6 1 none)).modeNo ≠ mHALT := by decide +kernel

/-- CHAN.OPEN of a CMD channel of 64 slots and 16 completions, not LOCAL; its second channel, OPEN with generation 3, and the CTL of another in hand. -/
def openW : List Word := [BitVec.ofNat 64 (1 + 6 * 32 + 4 * 1024), 0x1000, 0x2000, 0]
def chan2 (ty : Nat) (busy : Bool) : State :=
  let s := ((((chan1 mSERVICE).set F.cmdChState_state 2 1).set F.cmdChState_type 2 ty).set F.cmdChState_gen 2 3)
  if busy then { s with cmd := { s.cmd with parked := [(2, ctl6 0 none)] } } else s
theorem test_chan_open : Ci 0x001 openW (chan1 mSERVICE) ∧
    wd openW 0 < 2 ^ 33 ∧ wf openW 0 0 3 = 1 ∧ wf openW 0 5 5 = 6 ∧ wf openW 0 10 5 = 4 ∧ wf openW 0 26 6 = 0 ∧ vecOk 0 (wf openW 0 15 11) = true ∧
    ringOk (wb openW 0 32) (wd openW 1) (2 ^ 6 * entBytes 1) = true ∧ ringOk (wb openW 0 32) (wd openW 2) (2 ^ 4 * 64) = true ∧
    w3Reserved 1 (wd openW 3) = false ∧ (go 0x001 openW (chan1 mSERVICE)).issRestricted (.chan 1) (cc 0x001 openW (chan1 mSERVICE)) = false ∧
    (List.range 1024).find? (fun i => i != 0 && (go 0x001 openW (chan1 mSERVICE)).chanState i == 0) = some 2 :=
  ⟨ctl_issues rfl (by decide +kernel), by decide +kernel⟩
def h2 : List Word := [BitVec.ofNat 64 (handle 1 3 2), 0]
theorem test_chan_close : Ci 0x002 h2 (chan2 2 false) ∧
    (go 0x002 h2 (chan2 2 false)).chanOf (wd h2 0) = some 2 ∧ ((go 0x002 h2 (chan2 2 false)).closeChan 2 false).chanState 2 ≠ 2 ∧
    Ci 0x002 h2 (chan2 1 true) ∧
    (go 0x002 h2 (chan2 1 true)).chanOf (wd h2 0) = some 2 ∧ ((go 0x002 h2 (chan2 1 true)).closeChan 2 false).chanState 2 = 2 :=
  ⟨ctl_issues rfl (by decide +kernel), by decide +kernel, by decide +kernel, ctl_issues rfl (by decide +kernel), by decide +kernel⟩
theorem test_chan_info : Ci 0x003 h2 (chan2 2 false) ∧
    (go 0x003 h2 (chan2 2 false)).chanOf (wd h2 0) = some 2 := ⟨ctl_issues rfl (by decide +kernel), by decide +kernel⟩
theorem test_cmd_abort : Ci 0x004 h2 (chan2 1 true) ∧
    wb h2 1 5 = false ∧ (go 0x004 h2 (chan2 1 true)).chanOf (wd h2 0) = some 2 ∧ keyIss 2 ≠ .chan 1 ∧
    (go 0x004 h2 (chan2 1 true)).handOf (keyIss 2) = some (ctl6 0 none) ∧ ((go 0x004 h2 (chan2 1 true)).stopCtl (keyIss 2)).handOf (keyIss 2) = none :=
  ⟨ctl_issues rfl (by decide +kernel), by decide +kernel⟩
/-- The target's completion ring is full. -/
def abortFull : State := (chan2 1 true).setChan 2 { (chan2 1 true).chan 2 with cqTail := 15 }
theorem test_cmd_abort_waits : Ci 0x004 h2 abortFull ∧
    (go 0x004 h2 abortFull).chanOf (wd h2 0) = some 2 ∧ (go 0x004 h2 abortFull).handOf (keyIss 2) = some (ctl6 0 none) ∧
    ((go 0x004 h2 abortFull).stopCtl (keyIss 2)).handOf (keyIss 2) ≠ none := ⟨ctl_issues rfl (by decide +kernel), by decide +kernel⟩
/-- CMD.WAIT on SYS_MODE.MODE for SERVICE, and for DRYDOCK. -/
def waitW (m : Word) : List Word := [0, 7, m, 5]
theorem test_cmd_wait : Ci 0x005 (waitW 3) (chan1 mSERVICE) ∧
    ((go 0x005 (waitW 3) (chan1 mSERVICE)).regRead (wf (waitW 3) 0 0 26) (if wb (waitW 3) 0 26 then 8 else 4)
      ((go 0x005 (waitW 3) (chan1 mSERVICE)).issMaster (.chan 1))).2.toNat &&& 7 = 3 :=
  ⟨ctl_issues rfl (by decide +kernel), by decide +kernel⟩
def flying : State := { chan1 mSERVICE with eng := { flights := [(0, (false, 0))], nextFlight := 1 } }
theorem test_barrier : Ci 0x006 [0] (chan1 mSERVICE) ∧
    (∀ e ∈ (go 0x006 [0] (chan1 mSERVICE)).eng.flights, (go 0x006 [0] (chan1 mSERVICE)).eng.nextFlight ≤ e.1) ∧
    Ci 0x006 [0] flying ∧
    (∃ e ∈ (go 0x006 [0] flying).eng.flights, e.1 < (go 0x006 [0] flying).eng.nextFlight) :=
  ⟨ctl_issues rfl (by decide +kernel), by decide +kernel, ctl_issues rfl (by decide +kernel), by decide +kernel⟩

/-- GET of SYS_MODE; SET of TM_LAT_CFG of monitor 0, alone and in pairs. -/
def getW : List Word := [BitVec.ofNat 64 (2 ^ 26)]
def latOff : Nat := (Reg.tmLatCfg).row.base
def setW : List Word := [BitVec.ofNat 64 (latOff + 2 ^ 26), 5, 7]
def setmW (v : Word) : List Word := [2, BitVec.ofNat 64 (latOff + 2 ^ 26), 5, BitVec.ofNat 64 (latOff + 0x200 + 2 ^ 26), v]
def pairsOk (x : Except (Nat × Nat) State) : Bool := match x with | .ok t => t.modeNo != mBOOT && t.hbor.check.isNone | .error _ => false
def writes (x : Wrote) : Bool := match x with | .ok t => t.modeNo != mBOOT && t.hbor.check.isNone | .no _ => false
theorem writes_ok {x : Wrote} (h : writes x = true) : ∃ t, x = .ok t ∧ t.modeNo ≠ mBOOT ∧ t.hbor.check = none := by
  cases x with
  | ok t => simp only [writes, Bool.and_eq_true, bne_iff_ne, Option.isNone_iff_eq_none] at h; exact ⟨t, rfl, h.1, h.2⟩
  | no _ => cases h

theorem test_get : Ci 0x008 getW (chan1 mSERVICE) ∧
    widthBytes (wf getW 0 26 2) = some 8 ∧ (go 0x008 getW (chan1 mSERVICE)).issRestricted (.chan 1) (cc 0x008 getW (chan1 mSERVICE)) = false :=
  ⟨ctl_issues rfl (by decide +kernel), by decide +kernel⟩
theorem test_set : Ci 0x009 setW (chan1 mSERVICE) ∧
    wb setW 0 28 = false ∧ widthBytes (wf setW 0 26 2) = some 8 ∧ ∃ t, (go 0x009 setW (chan1 mSERVICE)).regPut (.set (.chan 1))
      ((go 0x009 setW (chan1 mSERVICE)).issFn (.chan 1)) (wf setW 0 0 26) 8 (BitVec.ofNat 320 (2 ^ (8 * 8) - 1)) (BitVec.ofNat 320 (wd setW 1)) = .ok t ∧
      t.modeNo ≠ mBOOT ∧ t.hbor.check = none := ⟨ctl_issues rfl (by decide +kernel), by decide +kernel, by decide +kernel, writes_ok (by decide +kernel)⟩
def maskW : List Word := w0With 28 1 1 setW
theorem test_set_masked : Ci 0x009 maskW (chan1 mSERVICE) ∧
    3 ≤ setW.length ∧ ∃ t, (go 0x009 maskW (chan1 mSERVICE)).regPut (.set (.chan 1)) ((go 0x009 maskW (chan1 mSERVICE)).issFn (.chan 1)) (wf setW 0 0 26) 8
      (BitVec.ofNat 320 (wd setW 2)) (BitVec.ofNat 320 (wd setW 1)) = .ok t ∧ t.modeNo ≠ mBOOT ∧ t.hbor.check = none :=
  ⟨ctl_issues rfl (by decide +kernel), by decide +kernel, writes_ok (by decide +kernel)⟩
theorem test_setm : Ci 0x00A (setmW 5) (chan1 mSERVICE) ∧
    wf (setmW 5) 0 0 3 = 2 ∧ 1 + 2 * 2 ≤ (setmW 5).length ∧
    pairsOk ((go 0x00A (setmW 5) (chan1 mSERVICE)).setPairs (.chan 1) (setmW 5) (blockOf (wf (setmW 5) 1 0 26)) 2 1) = true ∧
    pairsOk ((go 0x00A (setmW 5) (chan1 mSERVICE)).setPairs (.chan 1) (setmW 5) 0 2 1) = false :=
  ⟨ctl_issues rfl (by decide +kernel), by decide +kernel⟩
/-- SYS.MODE from mode `m` to mode `n`. -/
def modeW (n : Nat) : List Word := w0With 0 3 n [0]
def sm (m n : Nat) : Prop := Ci 0x00C (modeW n) (chan1 m)
theorem test_sys_mode : sm mMOORED 3 ∧ sm mSLACK 3 ∧ sm mMOORED 6 ∧ sm mDRYDOCK 2 ∧ sm mSERVICE 2 ∧ sm mSERVICE 4 ∧ sm mSERVICE 7 ∧ sm mHARBOUR 4 ∧ sm mHARBOUR 2 :=
  ⟨ctl_issues rfl (by decide +kernel), ctl_issues rfl (by decide +kernel), ctl_issues rfl (by decide +kernel), ctl_issues rfl (by decide +kernel),
   ctl_issues rfl (by decide +kernel), ctl_issues rfl (by decide +kernel), ctl_issues rfl (by decide +kernel), ctl_issues rfl (by decide +kernel),
   ctl_issues rfl (by decide +kernel)⟩
theorem test_sys_mode_free : (go 0x00C (modeW 3) (chan1 mMOORED)).mode.trans = none ∧ (go 0x00C (modeW 3) (chan1 mMOORED)).modeNo = mMOORED ∧
    (go 0x00C (modeW 3) (chan1 mMOORED)).hbmFailed = false ∧ (go 0x00C (modeW 3) (chan1 mMOORED)).get F.sysHborCause_cause 0 = 0 ∧
    (go 0x00C (modeW 4) (chan1 mHARBOUR)).modeNo = mHARBOUR ∧ (go 0x00C (modeW 4) (chan1 mHARBOUR)).get F.sysHborCause_cause 0 = 0 ∧
    (go 0x00C (modeW 2) (chan1 mDRYDOCK)).modeNo = mDRYDOCK ∧ (go 0x00C (modeW 2) (chan1 mDRYDOCK)).bit F.sysDrydockStatus_busy 0 = false ∧
    (go 0x00C (modeW 3) (chan1 mSLACK)).modeNo = mSLACK ∧ (go 0x00C (modeW 4) (chan1 mSERVICE)).modeNo = mSERVICE := by decide +kernel
/-- MOORED with a lost HBM stack; SAFE HARBOUR with a cause. -/
def lostStack : State := (chan1 mMOORED).set F.sysStatus_hbmFail 0 1
def caused : State := (chan1 mHARBOUR).set F.sysHborCause_cause 0 1
theorem test_mode_refused : Ci 0x00C (modeW 3) lostStack ∧
    (go 0x00C (modeW 3) lostStack).get F.sysStatus_hbmFail 0 ≠ 0 ∧
    Ci 0x00C (modeW 4) caused ∧
    (go 0x00C (modeW 4) caused).get F.sysHborCause_cause 0 ≠ 0 :=
  ⟨ctl_issues rfl (by decide +kernel), by decide +kernel, ctl_issues rfl (by decide +kernel), by decide +kernel⟩
theorem test_harbour : Ci 0x00D [9] (chan1 mSERVICE) ∧
    Ci 0x181 [] (chan1 mSERVICE) :=
  ⟨ctl_issues rfl (by decide +kernel), ctl_issues rfl (by decide +kernel)⟩
/-- An image of 16 bytes is none; whether a whole image is good rests on SHA-3 and signatures, which Config leaves open. -/
theorem test_ucode_patch : Ci 0x180 [0x4000, 16] (chan1 mMOORED) ∧
    (go 0x180 [0x4000, 16] (chan1 mMOORED)).ctlMemOk (.chan 1) (wd [0x4000, 16] 0) (wd [0x4000, 16] 1) = true ∧
    ((go 0x180 [0x4000, 16] (chan1 mMOORED)).ctlRead (.chan 1) 0x4000 16).1.imageGood 0x5450584B 0 ((go 0x180 [0x4000, 16] (chan1 mMOORED)).ctlRead (.chan 1) 0x4000 16).2 = false ∧
    ((go 0x180 [0x4000, 16] (chan1 mMOORED)).ctlRead (.chan 1) 0x4000 16).1.patchReady (.chan 1) = true :=
  ⟨ctl_issues rfl (by decide +kernel), by decide +kernel⟩

/-! ### Table commands -/

/-- Partition 0 is in use with keys of one byte; entry 5A stands in the stash, or nothing does, or everything is taken. -/
def key1 : List Byte := [0x5A]
def emOf (l : Tab EmEntry) : State := { (chan1 mSERVICE).setBit F.tblEmPart_en 0 true with tab := { em := l } }
def em5A : EmEntry := ⟨0, key1, 5, false, false, 0, 0⟩
def emW : List Word := [0, 0x5A]
def emSees (s : State) : Option (Nat × EmEntry) := (go 0x040 emW s).emSeen 0 key1
theorem test_em_ready : (go 0x040 emW (emOf [])).bit F.tblEmPart_en 0 = true ∧ wf emW 0 0 4 = 0 ∧
    1 + keyWords ((go 0x040 emW (emOf [])).emKeyLen 0) ≤ emW.length ∧ (go 0x040 emW (emOf [])).emOpKey (cc 0x040 emW (emOf [])) 0 = key1 ∧
    emSees (emOf [(emStash, em5A)]) = some (emStash, em5A) ∧ emSees (emOf []) = none ∧ (go 0x040 emW (emOf [])).emFind 0 key1 = none ∧
    ((go 0x040 emW (emOf [])).emPut 0 key1 0 (wb emW 0 4)).2.isSome = true := by decide +kernel
theorem test_em_commands : Ci 0x040 emW (emOf []) ∧ Ci 0x040 emW (emOf [(emStash, em5A)]) ∧ Ci 0x041 emW (emOf [(emStash, em5A)]) ∧
    Ci 0x042 emW (emOf [(emStash, em5A)]) ∧ Ci 0x043 emW (emOf [(emStash, em5A)]) ∧ Ci 0x044 emW (emOf [(emStash, em5A)]) ∧ Ci 0x045 emW (emOf []) :=
  ⟨ctl_issues rfl (by decide +kernel), ctl_issues rfl (by decide +kernel), ctl_issues rfl (by decide +kernel), ctl_issues rfl (by decide +kernel),
   ctl_issues rfl (by decide +kernel), ctl_issues rfl (by decide +kernel), ctl_issues rfl (by decide +kernel)⟩
/-- EM.NEXT from the stash on finds the entry, from the next place none; a flush past the last entry is at its end. -/
def nextW (n : Nat) : List Word := [BitVec.ofNat 64 (n * 2 ^ 32)]
def emNextHit (n : Nat) : Option (Nat × EmEntry) :=
  let s := go 0x044 (nextW n) (emOf [(emStash, em5A)])
  s.tab.em.find? (fun e => e.2.part == 0 && decide (wf (nextW n) 0 32 32 ≤ e.1) && !(s.deadEntry tkEM e.1))
theorem test_em_next : emNextHit emStash = some (emStash, em5A) ∧ emNextHit (emStash + 1) = none ∧
    Ci 0x045 (nextW (4 * 2 ^ (emOf []).emL 0 + 512)) (emOf []) :=
  ⟨by decide +kernel, by decide +kernel, ctl_issues rfl (by decide +kernel)⟩

/-- Prefix 7 is 10.0.0.0/8 of table 0. -/
def p10 : LpmEntry := ⟨0, false, 8, 0x0A000000, 5⟩
def lpmOf (l : Tab LpmEntry) (sp : List (Nat × Nat)) : State := { chan1 mSERVICE with tab := { lpm := l, spare := sp } }
def lpmW (len : Nat) (a : Word) (best : Bool) : List Word := [BitVec.ofNat 64 (len * 2 ^ 13 + best.toNat * 2 ^ 21), a]
theorem test_lpm : Ci 0x048 (lpmW 8 0x0A000000 false) (lpmOf [] []) ∧ Ci 0x048 (lpmW 8 0x0A000000 false) (lpmOf [(7, p10)] []) ∧
    Ci 0x049 (lpmW 8 0x0A000000 false) (lpmOf [(7, p10)] []) ∧ Ci 0x04A (lpmW 0 0x0A0B0C0D true) (lpmOf [(7, p10)] []) ∧ Ci 0x04B (nextW 7) (lpmOf [(7, p10)] []) :=
  ⟨ctl_issues rfl (by decide +kernel), ctl_issues rfl (by decide +kernel), ctl_issues rfl (by decide +kernel), ctl_issues rfl (by decide +kernel), ctl_issues rfl (by decide +kernel)⟩
theorem test_lpm_found : wb (lpmW 32 0 false) 0 12 = false ∧ wf (lpmW 32 0 false) 0 13 8 = 32 ∧
    (go 0x048 (lpmW 8 0x0A000000 false) (lpmOf [(7, p10)] [])).lpmSeen (lpmW 8 0x0A000000 false) = some (7, p10) ∧
    (go 0x048 (lpmW 8 0x0A000000 false) (lpmOf [] [])).lpmFind 0 false 8 (lpmAddr (lpmW 8 0x0A000000 false)) = none ∧
    (go 0x04A (lpmW 0 0x0A0B0C0D true) (lpmOf [(7, p10)] [])).lpmBest 0 false (lpmAddr (lpmW 0 0x0A0B0C0D true)) = some (7, p10) ∧
    (go 0x04A (lpmW 0 0x0B000000 true) (lpmOf [(7, p10)] [])).lpmBest 0 false (lpmAddr (lpmW 0 0x0B000000 true)) = none := by decide +kernel
/-- Whatever a rebuild takes, all spare units suffice, and none do not. -/
theorem test_lpm_room : (lpmOf [] []).rebuildUnits ≤ (lpmOf [] []).lpmSpareFree ∧ (lpmOf [] [(393216, 512)]).lpmSpareFree < (lpmOf [] [(393216, 512)]).rebuildUnits := by
  have h1 : (lpmOf [] []).lpmSpareFree = 393216 := by decide +kernel
  have h2 : (lpmOf [] [(393216, 512)]).lpmSpareFree = 0 := by decide +kernel
  constructor
  · rw [h1]; unfold State.rebuildUnits; omega
  · rw [h2]; unfold State.rebuildUnits; omega
def tcamW : List Word := [3, 1, 0, 0, 0, 0, 1, 0, 0, 0, 0]
def clearW (n x : Nat) : List Word := [BitVec.ofNat 64 (x + n * 2 ^ 16)]
theorem test_tcam : Ci 0x050 tcamW (chan1 mSERVICE) ∧ Ci 0x051 [3, 0x4000] (chan1 mSERVICE) ∧ Ci 0x052 (clearW 1 65535) (chan1 mSERVICE) ∧
    (go 0x051 [3, 0x4000] (chan1 mSERVICE)).ctlMemOk (.chan 1) (wd [3, 0x4000] 1) 80 = true ∧ 0 < wf (clearW 1 65535) 0 16 17 ∧
    wf (clearW 1 65535) 0 0 16 + wf (clearW 1 65535) 0 16 17 ≤ 65536 ∧ wf (clearW 65536 0) 0 16 17 = 65536 ∧ wf (clearW 65536 0) 0 0 16 = 0 :=
  ⟨ctl_issues rfl (by decide +kernel), ctl_issues rfl (by decide +kernel), ctl_issues rfl (by decide +kernel), by decide +kernel⟩
theorem test_tcam_one_unit : Nat.min 1 ((go 0x052 (clearW 1 65535) (chan1 mSERVICE)).sliceUnits 1) = 1 := by
  unfold State.sliceUnits; simp [Nat.max]

/-- OBJ.WRITE of a next hop, good and bad, and of a meter. -/
def objW (code ix : Nat) (v : Word) : List Word := [BitVec.ofNat 64 (code + ix * 256), v, 0, 0]
theorem test_obj : Ci 0x058 (objW oNH 262143 0) (chan1 mSERVICE) ∧ Ci 0x058 (objW oMETER 0 0) (chan1 mSERVICE) ∧ Ci 0x059 (objW oNH 262143 0) (chan1 mSERVICE) ∧
    objIxOk oNH 262143 = true ∧ wf (objW oNH 262143 0) 0 8 24 = 262143 ∧ wf (objW oNH 262143 0) 0 0 5 = oNH ∧ oNH ≠ oTEMPLATE ∧ 1 + objWords oNH ≤ 2 ∧
    objOk oNH (objNat [0]) = true ∧ objOk oNH (objNat [0x100]) = false ∧ 262143 < objCount oNH ∧
    objIxOk oMETER 0 = true ∧ objOk oMETER (objNat [0]) = true ∧ 1 + objWords oMETER ≤ 4 :=
  ⟨ctl_issues rfl (by decide +kernel), ctl_issues rfl (by decide +kernel), ctl_issues rfl (by decide +kernel), by decide +kernel⟩

/-- PROG.LOAD of one word at 0 of program store 0: END, or a reserved word. -/
def progState (l : Memory) : State := { chan1 mMOORED with hostMem := l }
def progW : List Word := [0x40000, 0x4000, 0]
def progS (l : Memory) : State := go 0x05C progW (progState l)
def endWord : Memory := [(0x4002, 1), (0x4003, 0xFC)]
theorem test_prog_load : Ci 0x05C progW (progState endWord) ∧ Ci 0x05C progW (progState []) ∧ wf progW 0 18 14 = 1 ∧ wf progW 0 0 2 = 0 ∧ wf progW 0 4 14 = 0 ∧
    wf progW 2 0 16 = 0 ∧ (progS endWord).loadRefused (wb progW 0 2) (wf progW 2 32 32) = none ∧ 0 + 1 ≤ storeSize 0 ∧
    (progS endWord).ctlMemOk (.chan 1) (wd progW 1) (4 * 1) = true ∧
    ((progS endWord).ctlRead (.chan 1) 0x4000 4).1.badWord 0 false false 1 0 (wordsOf ((progS endWord).ctlRead (.chan 1) 0x4000 4).2 1) = none ∧
    ((progS []).ctlRead (.chan 1) 0x4000 4).1.badWord 0 false false 1 0 (wordsOf ((progS []).ctlRead (.chan 1) 0x4000 4).2 1) = some 0 :=
  ⟨ctl_issues rfl (by decide +kernel), ctl_issues rfl (by decide +kernel), by decide +kernel⟩
/-- The generation that is not active is SHADOW, or RETIRING; the active one has a frame in flight or none. -/
def genS (shadow : Bool) (fl : Bool) : State :=
  let s := chan1 mSERVICE
  let s := s.setGenState (!s.activeGen) (if shadow then gSHADOW else gRETIRING)
  if fl then s.setInflight s.activeGen 1 else s
theorem test_gen_swap : Ci 0x05D [0] (genS false false) ∧ Ci 0x05D [0] (genS true false) ∧ Ci 0x05D [1] (genS true true) ∧
    (go 0x05D [0] (genS false false)).genState (!(go 0x05D [0] (genS false false)).activeGen) ≠ gSHADOW ∧
    (go 0x05D [0] (genS true false)).genState (!(go 0x05D [0] (genS true false)).activeGen) = gSHADOW ∧ wb [0] 0 0 = false ∧ wb [1] 0 0 = true ∧
    (go 0x05D [1] (genS true true)).inflight (go 0x05D [1] (genS true true)).activeGen = 1 :=
  ⟨ctl_issues rfl (by decide +kernel), ctl_issues rfl (by decide +kernel), ctl_issues rfl (by decide +kernel), by decide +kernel⟩

/-! ### Flow commands -/

/-- The ledger is on, and every slice is as given. -/
def flow1 (v : SliceSt) : State :=
  let s : State := ((chan1 mSERVICE).setBit F.ledgerCfg_en 0 true).set F.ledgerCfg_log2rec 0 16
  { s with led := { slices := (List.range 16).map (fun i => (i, v)) } }
def flowW (b : Nat) : List Word := [BitVec.ofNat 64 (15 + b * 2 ^ 13), 0x4000, 0x0707070707070707, 0x0707070707070707]
def recF (img : BitVec 1024) (cached : Bool) : Rec := { rec1 cached img none with hs := (flow1 {}).hsOf key16 }
def flowRec (img : BitVec 1024) (cached : Bool) : State := flow1 { recs := [(4, recF img cached)] }
def flowLock : State := flow1 { berths := [(0, { berth1 .ready with hs := (flow1 {}).hsOf key16 })] }
def slF : Nat := (flow1 {}).sliceOf 0 key16
theorem test_flow_keys : (flow1 {}).bit F.ledgerCfg_en 0 = true ∧ wf (flowW 0) 0 0 5 + 1 = 16 ∧ 16 ≤ keyMax (flow1 {}).compact ∧
    2 + keyWords 16 ≤ (flowW 0).length ∧ wkey (flowW 0) 2 16 = key16 ∧ flowLock.lockHeld slF (flowLock.hsOf key16) = true ∧
    (flowRec 0 true).lockHeld slF ((flow1 {}).hsOf key16) = false ∧ ((flow1 {}).slice slF).findKey key16 = none ∧
    ((flowRec 0 true).slice slF).findKey key16 = some (4, recF 0 true) ∧
    (flow1 {}).ctlMemOk (.chan 1) 0x4000 (recLen (flow1 {}).compact) = true := by decide +kernel
theorem test_flow_commands : Ci 0x080 (flowW 0) flowLock ∧ Ci 0x081 (flowW 0) flowLock ∧ Ci 0x082 (flowW 0) flowLock ∧ Ci 0x080 (flowW 0) (flow1 {}) ∧
    Ci 0x082 (flowW 0) (flow1 {}) ∧ Ci 0x080 (flowW 0) (flowRec 0 true) ∧ Ci 0x081 (flowW 0) (flowRec 0 true) ∧ Ci 0x082 (flowW 0) (flowRec 0 true) ∧
    Ci 0x081 (flowW 1) (flow1 {}) ∧ Ci 0x081 (flowW 0) (flow1 {}) :=
  ⟨ctl_issues rfl (by decide +kernel), ctl_issues rfl (by decide +kernel), ctl_issues rfl (by decide +kernel), ctl_issues rfl (by decide +kernel),
   ctl_issues rfl (by decide +kernel), ctl_issues rfl (by decide +kernel), ctl_issues rfl (by decide +kernel), ctl_issues rfl (by decide +kernel),
   ctl_issues rfl (by decide +kernel), ctl_issues rfl (by decide +kernel)⟩
theorem test_flow_create : wb (flowW 1) 0 13 = true ∧ wb (flowW 0) 0 13 = false ∧ ((flow1 {}).makePlace slF ((flow1 {}).hsOf key16)).isSome = true ∧
    ((flow1 {}).reserveRoom slF key16).2.isSome = true := by decide +kernel
/-- A pinned record, and one in a set where two are pinned. -/
def recG (n : Byte) : Rec := { recF 4 true with key := [n] }
def flowFull : State := flow1 { recs := [(4, recF 0 true), (5, recG 1), (6, recG 2)] }
theorem test_flow_pin : Ci 0x083 (w0With 13 1 0 (flowW 0)) (flowRec 4 true) ∧ Ci 0x083 (w0With 13 1 0 (flowW 0)) (flowRec 0 true) ∧
    Ci 0x083 (w0With 13 1 1 (flowW 0)) (flowRec 4 true) ∧ Ci 0x083 (w0With 13 1 0 (flowW 0)) flowFull ∧
    recPinned (recF 4 true) = true ∧ recPinned (recF 0 true) = false ∧ 2 ≤ (flowFull.slice slF).pinnedIn (setOf (recF 0 true).hs) ∧
    (flowFull.slice slF).findKey key16 = some (4, recF 0 true) ∧ ((flowRec 0 true).slice slF).pinnedIn (setOf (recF 0 true).hs) = 0 :=
  ⟨ctl_issues rfl (by decide +kernel), ctl_issues rfl (by decide +kernel), ctl_issues rfl (by decide +kernel), ctl_issues rfl (by decide +kernel), by decide +kernel⟩
def flowNext : List Word := [BitVec.ofNat 64 (slF + 4 * 2 ^ 32), 0x4000]
theorem test_flow_next : Ci 0x084 flowNext (flowRec 0 true) ∧ Ci 0x084 flowNext (flow1 {}) ∧ wb flowNext 0 31 = false ∧
    (((flowRec 0 true).slice slF).recs.find? (fun e => decide (wf flowNext 0 32 32 ≤ e.1) && recReach e.2)) = some (4, recF 0 true) ∧
    (((flow1 {}).slice slF).recs.find? (fun e => decide (wf flowNext 0 32 32 ≤ e.1) && recReach e.2)) = none ∧ wf flowNext 0 0 4 = slF :=
  ⟨ctl_issues rfl (by decide +kernel), ctl_issues rfl (by decide +kernel), by decide +kernel⟩
/-- LEDGER.REHASH to 2^16 records of the same form. -/
def rehashS (r : Option Rehash) : State := { (flow1 {}).set F.ledgerRegionB_size 0 1 with led := { rehash := r } }
theorem test_rehash : Ci 0x085 [16, 5] (rehashS none) ∧ Ci 0x085 [16, 5] (rehashS (some ⟨16, false, 9⟩)) ∧ log2Ok (wb [16, 5] 0 5) (wf [16, 5] 0 0 5) = true ∧
    tableBytes false 16 ≤ (rehashS none).regionBytes (1 - (rehashS none).get F.ledgerStatus_region 0) ∧ wb [16, 5] 0 5 = (rehashS none).compact :=
  ⟨ctl_issues rfl (by decide +kernel), ctl_issues rfl (by decide +kernel), by decide +kernel⟩

/-! ### Commands of time, shapers, the log, buffers and tasks -/

def baseC (st : Nat) (src hc : Nat) (run : Bool) : State :=
  ((((chan1 mSERVICE).set F.timeTbStatus_state 0 st).set F.timeTbCfg_src 0 src).set F.timeTbStatus_hcause 0 hc).setBase 0 { running := run }
def measW : List Word := [0, 5, 0, 100, 0]
theorem test_time_meas : Ci 0x0C0 measW (baseC sLOCKED 0 0 true) ∧ Ci 0x0C0 measW (baseC sLOCKED 1 0 true) ∧ Ci 0x0C1 [0] (baseC sLOCKED 0 0 true) ∧
    Ci 0x0C1 [0] (baseC sLOCKED 0 0 false) ∧ (go 0x0C0 measW (baseC sLOCKED 0 0 true)).get F.timeTbCfg_src 0 = 0 ∧
    (go 0x0C0 measW (baseC sLOCKED 1 0 true)).get F.timeTbCfg_src 0 ≠ 0 ∧ ((go 0x0C1 [0] (baseC sLOCKED 0 0 true)).base 0).running = true ∧
    ((go 0x0C1 [0] (baseC sLOCKED 0 0 false)).base 0).running = false :=
  ⟨ctl_issues rfl (by decide +kernel), ctl_issues rfl (by decide +kernel), ctl_issues rfl (by decide +kernel), ctl_issues rfl (by decide +kernel), by decide +kernel⟩
def accS (a : Nat) (s : State) : State := go 0x0C2 (w0With 4 2 a [0]) s
theorem test_time_accept : Ci 0x0C2 (w0With 4 2 0 [0]) (baseC sHOLDOVER 0 hJUMP true) ∧ Ci 0x0C2 (w0With 4 2 1 [0]) (baseC sSUSPECT 0 0 true) ∧
    Ci 0x0C2 (w0With 4 2 2 [0]) (baseC sLOCKED 0 0 true) ∧ wf (w0With 4 2 2 [0]) 0 0 4 = 0 ∧ wf (w0With 4 2 2 [0]) 0 4 2 = 2 ∧
    (accS 0 (baseC sHOLDOVER 0 hJUMP true)).servo 0 = sHOLDOVER ∧ (accS 0 (baseC sHOLDOVER 0 hJUMP true)).heldJump 0 = true ∧
    (accS 1 (baseC sSUSPECT 0 0 true)).servo 0 = sSUSPECT ∧ (accS 2 (baseC sLOCKED 0 0 true)).servo 0 ≠ sSUSPECT ∧ (accS 2 (baseC sLOCKED 0 0 true)).heldJump 0 = false :=
  ⟨ctl_issues rfl (by decide +kernel), ctl_issues rfl (by decide +kernel), ctl_issues rfl (by decide +kernel), by decide +kernel⟩
/-- Cross-check groups 0 to n - 1 are in use, of no base. -/
def groups (n : Nat) : State := (List.range n).foldl (fun s g => s.setBit F.timeXgCfg_en g true) (chan1 mSERVICE)
def xgFree (w : List Word) (n : Nat) : Option Nat := (List.range 4).find? (fun g => !((go 0x0C3 w (groups n)).bit F.timeXgCfg_en g))
def xgH : List Word := [BitVec.ofNat 64 (handle 6 0 0)]
theorem test_xg : Ci 0x0C3 [3] (groups 0) ∧ Ci 0x0C3 [3] (groups 4) ∧ Ci 0x0C3 [1] (groups 0) ∧ Ci 0x0C4 xgH (groups 1) ∧ Ci 0x0C4 xgH (groups 0) ∧
    ((List.range 8).filter (fun b => (wf [3] 0 0 8).testBit b)) = [0, 1] ∧ ((List.range 8).filter (fun b => (wf [1] 0 0 8).testBit b)).length < 2 ∧
    (∀ b ∈ [0, 1], (go 0x0C3 [3] (groups 4)).groupOf b = none) ∧ xgFree [3] 0 = some 0 ∧ xgFree [3] 4 = none ∧ wd xgH 0 < 2 ^ 32 ∧ hType (wd xgH 0) = 6 ∧
    hIx (wd xgH 0) < 4 ∧ (go 0x0C4 xgH (groups 1)).bit F.timeXgCfg_en (hIx (wd xgH 0)) = true ∧ hGen (wd xgH 0) = ((go 0x0C4 xgH (groups 1)).xg 0).gen ∧
    (go 0x0C4 xgH (groups 0)).bit F.timeXgCfg_en (hIx (wd xgH 0)) = false :=
  ⟨ctl_issues rfl (by decide +kernel), ctl_issues rfl (by decide +kernel), ctl_issues rfl (by decide +kernel), ctl_issues rfl (by decide +kernel),
   ctl_issues rfl (by decide +kernel), by decide +kernel⟩

/-- TM.GCL of one entry of 500 ns at port 129, and of one of 9 ns. -/
def gclS (b : Byte) : State := { chan1 mSERVICE with hostMem := [(0x4000, b), (0x4001, 1)].filter (fun e => e.1 = 0x4000 || b = 0xF4) }
def gclW : List Word := [129, 0, 999999999, 1000, 0x100000000, 0x4000]
def gclEs (b : Byte) : List (BitVec 64) := words64 ((go 0x0A1 gclW (gclS b)).ctlRead (.chan 1) 0x4000 8).2 1
theorem test_gcl : Ci 0x0A0 [0, 1, 1] (chan1 mSERVICE) ∧ Ci 0x0A1 gclW (gclS 0xF4) ∧ Ci 0x0A1 gclW (gclS 9) ∧ wf gclW 0 0 8 < 130 ∧ wf gclW 2 0 32 < 1000000000 ∧
    1000 ≤ wf gclW 3 0 32 ∧ wf gclW 4 32 9 = 1 ∧ (go 0x0A1 gclW (gclS 9)).ctlMemOk (.chan 1) (wd gclW 5) 8 = true ∧ (gclEs 0xF4).all gclEntryOk = true ∧
    (gclEs 9).all gclEntryOk = false ∧ wb gclW 0 8 = false ∧ 0 < glCycle list0 :=
  ⟨ctl_issues rfl (by decide +kernel), ctl_issues rfl (by decide +kernel), ctl_issues rfl (by decide +kernel), by decide +kernel⟩

/-- Partition 0 is OPEN with generation 1 and its KEEP flag, and holds a segment or none. -/
def partS (keep seg : Bool) : State :=
  let s := (chan1 mSERVICE).set F.logPartStatus_state 0 1
  { s with log := { parts := [(0, { gen := 1, w0 := if keep then BitVec.ofNat 64 (2 ^ 9) else 0 })], segs := if seg then [(4, seg7)] else [] } }
def partH : List Word := [BitVec.ofNat 64 (handle 5 1 0)]
def closeIn (keep seg : Bool) : State := go 0x0E2 partH (partS keep seg)
def closing (keep seg : Bool) : State := ((closeIn keep seg).sealPart 0 sgCOMMANDED).set F.logPartStatus_state 0 2
theorem test_log_parts : Ci 0x0E0 [0] (chan1 mSERVICE) ∧ Ci 0x0E0 partH (partS false true) ∧ Ci 0x0E0 partH (chan1 mSERVICE) ∧ Ci 0x0E2 partH (partS false true) ∧
    Ci 0x0E2 partH (partS false false) ∧ Ci 0x0E2 partH (chan1 mSERVICE) ∧ wd partH 0 ≠ 0 ∧ (closeIn false true).partOf (wd partH 0) = some 0 ∧
    (go 0x0E0 partH (chan1 mSERVICE)).partOf (wd partH 0) = none ∧ ((closeIn false true).part 0).keep = false ∧
    ((closing false true).segsOf 0).isEmpty = false ∧ ((closing false false).segsOf 0).isEmpty = true :=
  ⟨ctl_issues rfl (by decide +kernel), ctl_issues rfl (by decide +kernel), ctl_issues rfl (by decide +kernel), ctl_issues rfl (by decide +kernel),
   ctl_issues rfl (by decide +kernel), ctl_issues rfl (by decide +kernel), by decide +kernel⟩
/-- LOG.PART_OPEN on drive 0, which is READY, with the LOG region in place; while the scan runs; with no drive named. -/
def openS (st : Nat) : State := (((chan1 mSERVICE).set F.logStatus_state 0 st).setReg .logDriveStatus 0 2).set F.bufHbmPool_size 1 2
def partW (drives : Nat) : List Word := [BitVec.ofNat 64 (drives + 4 * 16 + 2 ^ 32), BitVec.ofNat 64 (10 * 2 ^ 32), BitVec.ofNat 64 (2 ^ 32), 7]
theorem test_part_open : Ci 0x0E1 (partW 1) (openS 1) ∧ Ci 0x0E1 (partW 1) (openS 0) ∧ Ci 0x0E1 (partW 0) (openS 0) ∧
    (go 0x0E1 (partW 1) (openS 1)).get F.logStatus_state 0 = 1 ∧ (go 0x0E1 (partW 1) (openS 0)).get F.logStatus_state 0 ≠ 1 ∧
    (go 0x0E1 (partW 1) (openS 0)).partBad (partW 1) = none ∧ (go 0x0E1 (partW 1) (openS 0)).dirOf ((partW 1).getD 3 0) = [] ∧
    (List.range 16).find? (fun p => (go 0x0E1 (partW 1) (openS 0)).get F.logPartStatus_state p == 0) = some 0 ∧
    (go 0x0E1 (partW 1) (openS 0)).segMibAll + segMib (wf (partW 1) 0 4 4) + 1024 ≤ (go 0x0E1 (partW 1) (openS 0)).get F.bufHbmPool_size 1 * 1024 :=
  ⟨ctl_issues rfl (by decide +kernel), ctl_issues rfl (by decide +kernel), ctl_issues rfl (by decide +kernel), by decide +kernel⟩

/-- The HOST pool of HBM buffers has 1 GiB or nothing; its buffer 0 is owned by the host, by core 3 or by references, or free. -/
def poolS (n : Nat) (b : Option HbmBuf) : State :=
  let s := (chan1 mSERVICE).set F.bufHbmPool_size 0 n
  { s with buf := { hbmBufs := match b with | some v => [(hbKey 0 0, v)] | none => [] } }
def bufW : List Word := [BitVec.ofNat 64 (hbId 0 0), 3]
def given (b : Option HbmBuf) : State := go 0x142 bufW (poolS 1 b)
theorem test_buf : Ci 0x140 [0] (poolS 1 none) ∧ Ci 0x140 [0] (poolS 0 none) ∧ Ci 0x141 bufW (poolS 1 none) ∧ Ci 0x142 bufW (poolS 0 none) ∧
    Ci 0x142 bufW (poolS 1 (some ⟨0x50, false, 0⟩)) ∧ Ci 0x142 bufW (poolS 1 (some ⟨3, false, 0⟩)) ∧
    ((go 0x140 [0] (poolS 1 none)).hbAlloc 0 0x50 false).2 = some 0 ∧ ((go 0x140 [0] (poolS 0 none)).hbAlloc 0 0x50 false).2 = none ∧
    (go 0x142 bufW (poolS 0 none)).hbOf (wd bufW 0) = none ∧ (given none).hbOf (wd bufW 0) = some (0, 0) ∧ (given none).issMaster (.chan 1) = 0x50 ∧
    Tab.get? (given (some ⟨0x50, false, 0⟩)).buf.hbmBufs (hbKey 0 0) = some ⟨0x50, false, 0⟩ ∧
    Tab.get? (given (some ⟨3, false, 0⟩)).buf.hbmBufs (hbKey 0 0) = some ⟨3, false, 0⟩ ∧ Tab.get? (given none).buf.hbmBufs (hbKey 0 0) = none :=
  ⟨ctl_issues rfl (by decide +kernel), ctl_issues rfl (by decide +kernel), ctl_issues rfl (by decide +kernel), ctl_issues rfl (by decide +kernel),
   ctl_issues rfl (by decide +kernel), ctl_issues rfl (by decide +kernel), by decide +kernel⟩

/-- A task descriptor at level `l` for every core with entry 0, for a new task or again for task 4; an entry that is not aligned. -/
def taskW (e : Word) (k : Nat) : List Word := [BitVec.ofNat 64 (k + 31 * 2 ^ 10 + 2 ^ 15 + 0xFFFF * 2 ^ 18), e, 9, 1]
/-- Task 4, of generation 1, is in a state; it owns mailbox 63, which holds `n` messages. -/
def taskS (st n : Nat) : State :=
  let s := ((((chan1 mSERVICE).set F.tugTaskState_state 4 st).set F.tugTaskState_gen 4 1).setBit F.tugMboxCfg_en 63 true)
  let s := s.set F.tugMboxCfg_owner 63 4
  { s with tug := { tasks := [(4, {})], mail := [(63, List.replicate n (0, 0))] } }
def taskH : List Word := [BitVec.ofNat 64 (handle 2 1 4), 0xFFFFFFFF]
theorem test_task_create : Ci 0x100 (taskW 0 0) (taskS tFREE 0) ∧ Ci 0x100 (taskW 2 0) (taskS tFREE 0) ∧ wb (taskW 0 0) 0 9 = false ∧ taskBad (taskW 0 0) = none ∧
    taskBad (taskW 2 0) = some 1 ∧ (List.range 512).find? (fun k => (go 0x100 (taskW 0 0) (taskS tFREE 0)).taskState k == tFREE) = some 0 :=
  ⟨ctl_issues rfl (by decide +kernel), ctl_issues rfl (by decide +kernel), by decide +kernel⟩
theorem test_task_rearm : Ci 0x100 (w0With 9 1 1 (taskW 0 4)) (taskS tCANCELLED 0) ∧ Ci 0x100 (w0With 9 1 1 (taskW 0 4)) (taskS tREADY 0) ∧
    taskBad (w0With 9 1 1 (taskW 0 4)) = none ∧ wf (w0With 9 1 1 (taskW 0 4)) 0 0 9 = 4 ∧
    (go 0x100 (w0With 9 1 1 (taskW 0 4)) (taskS tCANCELLED 0)).taskState 4 = tCANCELLED ∧
    (go 0x100 (w0With 9 1 1 (taskW 0 4)) (taskS tREADY 0)).taskState 4 ≠ tCANCELLED :=
  ⟨ctl_issues rfl (by decide +kernel), ctl_issues rfl (by decide +kernel), by decide +kernel⟩
theorem test_task_cancel : Ci 0x101 taskH (taskS tCANCELLED 0) ∧ Ci 0x101 taskH (taskS tRUNNING 0) ∧ Ci 0x101 taskH (taskS tREADY 0) ∧ Ci 0x101 taskH (taskS tFREE 0) ∧
    (go 0x101 taskH (taskS tCANCELLED 0)).taskOf (wd taskH 0) = some 4 ∧ (go 0x101 taskH (taskS tFREE 0)).taskOf (wd taskH 0) = none ∧
    (go 0x101 taskH (taskS tRUNNING 0)).taskState 4 = tRUNNING ∧ (go 0x101 taskH (taskS tRUNNING 0)).coreOf 4 = none ∧
    (go 0x101 taskH (taskS tREADY 0)).taskState 4 = tREADY :=
  ⟨ctl_issues rfl (by decide +kernel), ctl_issues rfl (by decide +kernel), ctl_issues rfl (by decide +kernel), ctl_issues rfl (by decide +kernel), by decide +kernel⟩
def mboxW : List Word := [BitVec.ofNat 64 (handle 3 0 63), 5, 6]
def posted (st n : Nat) : State := go 0x103 mboxW (taskS st n)
theorem test_mbox_post : Ci 0x102 taskH (taskS tREADY 0) ∧ Ci 0x102 taskH (taskS tFREE 0) ∧ Ci 0x103 mboxW (taskS tREADY 255) ∧ Ci 0x103 mboxW (taskS tREADY 256) ∧
    Ci 0x103 mboxW (taskS tFREE 0) ∧ Ci 0x103 mboxW (chan1 mSERVICE) ∧ wd mboxW 0 < 2 ^ 32 ∧ hType (wd mboxW 0) = 3 ∧ hIx (wd mboxW 0) = 63 ∧
    (posted tREADY 255).bit F.tugMboxCfg_en 63 = true ∧ hGen (wd mboxW 0) = Tab.getD (posted tREADY 255).tug.mailGen 63 0 ∧ (posted tREADY 255).mboxTakes 63 = true ∧
    ((posted tREADY 255).mailOf 63).length < 256 ∧ 256 ≤ ((posted tREADY 256).mailOf 63).length ∧ (posted tFREE 0).mboxTakes 63 = false ∧
    (go 0x103 mboxW (chan1 mSERVICE)).bit F.tugMboxCfg_en 63 = false :=
  ⟨ctl_issues rfl (by decide +kernel), ctl_issues rfl (by decide +kernel), ctl_issues rfl (by decide +kernel), ctl_issues rfl (by decide +kernel),
   ctl_issues rfl (by decide +kernel), ctl_issues rfl (by decide +kernel), by decide +kernel⟩

/-! ### Windows, tasks and timers of the tug cores -/

/-- Core 0 runs task 0, at the level given, with or without the windows of Table 12.2; task 0 is READY in mail and owns mailbox 63. -/
def winS (sup : Bool) (w3 : Word) (n : Nat) (st : Nat) : State :=
  let s := ((State.set (core0 sup) F.tugTaskState_state 0 st).setBit F.tugMboxCfg_en 63 true)
  { s with tug := { s.tug with tasks := [(0, { w3 := w3 })], mail := [(63, List.replicate n (5, 6))], recv := if n = 1 then [(63, (5, 6))] else [] } }
theorem test_windows : TugIssues 0 (winS true 64 1 tRUNNING) ∧ TugIssues 0 (winS false 64 0 tRUNNING) :=
  ⟨⟨by decide +kernel, by decide +kernel, by decide +kernel, by decide +kernel⟩, ⟨by decide +kernel, by decide +kernel, by decide +kernel, by decide +kernel⟩⟩
theorem test_window_rights : (winS true 64 0 tRUNNING).mayMbox 0 = true ∧ (winS false 64 0 tRUNNING).mayMbox 0 = false ∧
    (winS false (64 + 0x3000000000) 0 tRUNNING).mayMbox 0 = true ∧ (winS false (64 + 0x3000000000) 0 tRUNNING).mayExq 0 = true ∧
    (winS true 64 0 tRUNNING).tsup 0 = true ∧ (winS false 64 0 tRUNNING).tsup 0 = false := by decide +kernel
theorem test_window_mail : (winS true 64 0 tRUNNING).mboxTakes 63 = true ∧ (winS true 64 0 tFREE).mboxTakes 63 = false ∧
    ((winS true 64 255 tRUNNING).mailOf 63).length < 256 ∧ 256 ≤ ((winS true 64 256 tRUNNING).mailOf 63).length ∧
    (winS true 64 0 tRUNNING).running? 0 = some ((winS true 64 0 tRUNNING).mboxOwner 63) ∧ (winS true 64 0 tRUNNING).mailOf 63 = [] ∧
    (winS true 64 1 tRUNNING).mailOf 63 = [(5, 6)] ∧ Tab.get? (winS true 64 1 tRUNNING).tug.recv 63 = some (5, 6) ∧
    Tab.get? (winS true 64 0 tRUNNING).tug.recv 63 = none ∧
    ¬((winS true 64 0 tRUNNING).running? 0 = some (((winS true 64 0 tRUNNING).set F.tugMboxCfg_owner 63 7).mboxOwner 63)) := by decide +kernel

/-- Task 9 is READY at level 3 for every core; core 0 runs task 0 at level 8, and task 9 may be in its NEXT slot. -/
def placeS (idle : Bool) (next : Bool) (sup : Bool) (st : Nat) : State :=
  let s := ((((State.set (core0 sup) F.tugTaskState_state 9 st).set F.tugTaskState_level 9 3).set F.tugTaskState_level 0 8).set F.tugCoreStatus_idle 0 idle.toNat)
  { s with tug := { s.tug with tasks := [(0, { w3 := 64, aff := 0xFFFF }), (9, { aff := if idle then 2 else 1 })], ready := [(3, [9])],
                               cores := [(0, { ctx := { sup := sup }, next := if next then some 9 else none })] } }
theorem test_place : (placeS true false false tREADY).taskState 9 = tREADY ∧ (placeS true false false tREADY).idleCore 9 = some 1 ∧
    (placeS true false false tREADY).firstFor 1 32 = some 9 ∧ (placeS false false false tREADY).idleCore 9 = none ∧
    (placeS false false false tREADY).victimCore 9 = some 0 ∧ (placeS false false false tREADY).firstFor 0 32 = some 9 ∧
    (placeS true false false tFREE).taskState 9 ≠ tREADY ∧ (placeS true false false tREADY).running? 0 = none := by decide +kernel
theorem test_switch : (placeS false true false tREADY).running? 0 = some 0 ∧ (placeS false true true tREADY).preemptPoint 0 = false ∧
    (placeS false true false tREADY).preemptPoint 0 = true ∧ ((placeS false true false tREADY).task 0).cancel = false ∧
    ((placeS false true false tREADY).tcore 0).next = some 9 ∧ (placeS false true false tREADY).level 9 < (placeS false true false tREADY).level 0 ∧
    (placeS false true false tFREE).taskState 9 ≠ tREADY ∧
    (((placeS false true false tREADY).setTask 0 { cancel := true }).task 0).cancel = true := by decide +kernel
theorem test_wait_over : (((inMode mSERVICE).setTask 4 { wait := some (31, 5), regs := List.replicate 32 7 }).task 4).wait = some (31, 5) := by decide +kernel
/-- The timer and the watchdog of core 0 are due at 10, and the time is `ns`. -/
def timerS (ns : Nat) (once : Bool) : State :=
  { core0 true with ns := ns, tug := { (core0 true).tug with cores := [(0, { ctx := { sup := true }, timer := some 10, wdOnce := once })], sysDue := some 10 } }
theorem test_timers : ((timerS 10 true).tcore 0).timer = some 10 ∧ 10 ≤ (timerS 10 true).ns ∧ (timerS 9 true).ns < 10 ∧ (timerS 10 true).running? 0 ≠ none ∧
    ((timerS 1000000000 true).tcore 0).wd + (timerS 1000000000 true).get F.tugCoreCfg_wdMs 0 * 1000000 ≤ (timerS 1000000000 true).ns ∧
    ((timerS 1000000000 true).tcore 0).wdOnce = true ∧ ((timerS 10 false).tcore 0).wdOnce = false ∧
    (((timerS 10 false).set F.tugCoreCfg_wdMs 0 1).ns < ((timerS 10 false).tcore 0).wd + ((timerS 10 false).set F.tugCoreCfg_wdMs 0 1).get F.tugCoreCfg_wdMs 0 * 1000000) ∧
    (timerS 10 true).tug.sysDue = some 10 ∧ (timerS 10 true).modeNo ≠ mHARBOUR := by decide +kernel
theorem test_mbox_enable : (inMode mMOORED).directMode = true ∧ (inMode mMOORED).bit F.tugMboxCfg_en 63 = false ∧ (0x7401 : BitVec 32).getLsbD 0 = true ∧
    (0x7401 : BitVec 32).toNat / 2 ^ 10 % 32 = 29 := by decide +kernel

/-! ### The harbour log -/

/-- A record waits for capture; the log runs or not, and partition 3 is open or not. -/
def cap3 (bid : Option Nat) : Capture := ⟨1, 3, 0, 0, [1, 2], bid⟩
def capS (bid : Option Nat) (run part : Nat) : State :=
  { ((inMode mSERVICE).set F.logStatus_state 0 run).set F.logPartStatus_state 3 part with log := { queue := [cap3 bid], parts := [(3, { w2 := 0 })] } }
theorem test_capture : (capS none 2 1).log.queue = cap3 none :: [] ∧ (cap3 none).bid = none ∧ (cap3 (some 5)).bid = some 5 ∧ (capS none 0 1).logRuns = false ∧
    (capS none 2 0).logRuns = true ∧ (capS none 2 0).get F.logPartStatus_state 3 ≠ 1 ∧ (capS none 2 1).get F.logPartStatus_state 3 = 1 ∧
    (capS none 2 1).partBucket 3 < recordLen 2 * 8000 := by decide +kernel
theorem test_log_enable : (inMode mMOORED).dockMode = true ∧ (inMode mMOORED).bit F.logCfg_en 0 = false ∧ (1 : Word).getLsbD 0 = true ∧
    ((inMode mMOORED).set F.bufHbmPool_bufsz 1 10).get F.bufHbmPool_bufsz 1 = 10 ∧ (95 * 2 + 1 : Word).toNat / 2 % 128 = 95 ∧
    (∀ a ∈ (inMode mMOORED).hbmAreas, meets a.1 a.2 95 1 = false) ∧ (capS none 1 0).get F.logStatus_state 0 = 1 ∧ (capS none 2 0).get F.logStatus_state 0 ≠ 1 := by
  decide +kernel
/-- Partition 0 holds segment 7: open with a record, closed and whole, or written. -/
def seg0 : Seg := { part := 0, num := 7, drive := 0, slot := 0, chunks := [(0, [1])], records := 1, prev := some 0 }
def segS (g : Seg) : State := { (inMode mSERVICE).setReg .logDriveStatus 0 2 with log := { segs := [(4, g)], signQ := if g.isOpen then [] else [4] }, ns := 1000000000 }
def segC : Seg := { seg0 with isOpen := false }
def segD : Seg := { segC with lba := [0] }
def segW : Seg := { segD with sealed := true }
theorem test_segments : (segS seg0).openSeg 0 = some (4, seg0) ∧ seg0.records ≠ 0 ∧ (segS seg0).signRoom = true ∧
    seg0.firstNs + ((segS seg0).part 0).sealMs * 1000000 ≤ (segS seg0).ns ∧ (segS segC).openSeg 0 = none ∧ (segS segD).log.signQ = 4 :: [] ∧
    Tab.get? (segS segD).log.segs 4 = some segD ∧ segD.chunksDone = true ∧ segD.prev.isSome = true ∧ (segS segD).log.signNs = none ∧ segC.chunksDone = false ∧
    (segS segC).segOf 0 7 = some (4, segC) ∧ (segS segC).logWrites = true ∧ (segS segC).get F.logDriveStatus_state 0 = 2 ∧
    segC.chunkClosed segC.lba.length = true ∧ segC.alien = false ∧ segW.sealed = true ∧ segW.chunksDone = true ∧ segW.written = false ∧
    (segS segC).bit F.logDriveStatus_zoned 0 = false := by decide +kernel
def driveS (st : Nat) : State := (inMode mMOORED).setReg .logDriveStatus 0 (BitVec.ofNat 320 st)
def id0 : DriveId := ⟨4096, 1048576, 0, false, 0, 0, 100⟩
theorem test_drives : (driveS 0).get F.logDriveStatus_state 0 = 0 ∧ (driveS 2).get F.logDriveStatus_state 0 ≠ 0 ∧ (driveS 1).directMode = true ∧
    (driveS 1).bit F.logDriveCfg_ready 0 = false ∧ (driveS 1).driveFit 0 id0 1040 = true ∧ (driveS 1).driveFit 0 id0 1039 = false ∧
    (BitVec.ofNat 64 (1040 * 2 ^ 34 + 1)).getLsbD 0 = true ∧ (BitVec.ofNat 64 (1040 * 2 ^ 34 + 1)).toNat / 2 ^ 34 % 2 ^ 16 = 1040 := by decide +kernel
def segR : Seg := { segW with written := true }
def retireS (n : Nat) : State := { (segS segR).set F.logPartStatus_state 0 2 with ns := n }
theorem test_retire : (segS segC).segOf 0 8 = none ∧ segC.written = false ∧ segC.fails = 0 ∧ ({ segC with fails := 1 } : Seg).fails ≠ 0 ∧
    (retireS 0).get F.logPartStatus_state 0 = 2 ∧ (retireS 0).mayRetire 4 segR = true ∧
    (((retireS 0).setPart 0 { w1 := BitVec.ofNat 64 (2 ^ 64 - 1) }).mayRetire 4 segR = false) ∧ segR.written = true := by decide +kernel

/-! ### Modes, SAFE HARBOUR, security -/

def held (b : Bool) (th : Bool) : State := { State.reset with mode := { resetHeld := b, thermtrip := th } }
def boot0 (tl : Bool) : State := { inMode mBOOT with time := { tl := tl } }
theorem test_reset : (held true false).mode.resetHeld = true ∧ (held false false).mode.resetHeld = false ∧ (held true true).mode.thermtrip = true ∧
    (boot0 false).modeNo = mBOOT ∧ (boot0 false).time.tl = false ∧ (boot0 true).time.tl = true ∧ (inMode mMOORED).modeNo ≠ mBOOT := by decide +kernel
theorem test_boot_report : (⟨false, 0, 300, 0x40, [(0, 1)], none, false⟩ : BootReport).harbour = none := rfl

/-- A transition under way to a mode for quay 0, until 10. -/
def transS (target : Nat) (m : Nat) (copies : Bool) : State :=
  { inMode m with mode := { resetHeld := false, trans := some ⟨target, 1, .chan 1, some 10⟩ }, ns := 10,
                  tm := { copies := if copies then [(1, copy1)] else [] } }
theorem test_slack : (inMode mSERVICE).mode.trans = none ∧ (transS mSLACK mSERVICE false).mode.trans = some ⟨mSLACK, 1, .chan 1, some 10⟩ ∧
    (transS mSLACK mSERVICE false).forwarding = true ∧ (transS mSLACK mSERVICE false).quiescedMask 1 = true ∧
    (transS mMOORED mSERVICE false).quiescedMask 0xFFFF = true ∧ (transS mMOORED mSERVICE false).tm.copies = [] ∧
    (transS mMOORED mHARBOUR false).forwarding = false ∧ mMOORED ≠ mSLACK ∧ (transS mMOORED mSERVICE true).tm.copies ≠ [] ∧
    10 ≤ (transS mSLACK mSERVICE false).ns ∧ ({ transS mSLACK mSERVICE false with ns := 9 } : State).ns < 10 := by decide +kernel
def owed : State := { inMode mSERVICE with mode := { resetHeld := false, haltOwed := true } }
theorem test_halt : owed.mode.haltOwed = true ∧ owed.modeNo ≠ mRESET ∧ owed.modeNo ≠ mHALT ∧ (inMode mSERVICE).mode.haltOwed = false ∧
    (inMode mHALT).modeNo = mHALT ∧ (held true true).mode.resetHeld = true ∧ (inMode mSERVICE).mode.resetHeld = false := by decide +kernel

def causeS (m : Nat) : State := { inMode m with mode := { resetHeld := false, causeSeen := true } }
def leaving (n : Nat) (fs : Tab HFrame) : State := { inMode mHARBOUR with hbor := { draining := some 10, exitTo := 4, frames := fs }, ns := n }
def hf0 : HFrame := ⟨0, [], 0, 0, none, 0, 0⟩
theorem test_harbour_entry : (causeS mSERVICE).mode.causeSeen = true ∧ (causeS mSERVICE).mode.haltOwed = false ∧ (causeS mSERVICE).modeNo = mSERVICE ∧
    (inMode mSERVICE).mode.causeSeen = false ∧ (inMode mBOOT).modeNo = mBOOT ∧ (leaving 10 []).modeNo = mHARBOUR ∧ (leaving 10 []).hbor.draining ≠ none ∧
    (leaving 10 []).hbor.frames = [] ∧ (leaving 10 [(0, hf0)]).hbor.frames ≠ [] ∧ (leaving 9 []).ns < 10 ∧ 10 ≤ (leaving 10 []).ns := by decide +kernel
/-- SAFE HARBOUR with frame 1 whole; bank 0 is armed, has passed its check and enables port 0, or none of it; entry 0 takes its address. -/
def plane (armed red : Bool) (maxf : Nat) : State :=
  let s := State.set (withFrame (frame1 .receiving)) F.sysMode_mode 0 mHARBOUR
  let s := ((s.setBit F.hborCfg_armed 0 armed).setBit F.hborPortCfg_en (hbPort 0 0) true).setBit F.hborEntry_valid 0 true
  let s := (((s.set F.hborEntry_dmac 0 (beNat ((frame1 .receiving).bytes.take 6))).set F.hborEntry_inport 0 255).set F.hborEntry_maxf 0 maxf)
  { (s.setBit F.hborEntry_redEn 0 red).set F.hborEntry_vid 0 (hbVid (frame1 .receiving).bytes (s.get F.hborPortCfg_pvid (hbPort 0 0))) with
    hbor := { passed := if armed then [0] else [] } }
def planeVid (s : State) : Nat := hbVid (frame1 .receiving).bytes (s.get F.hborPortCfg_pvid (hbPort 0 0))
theorem test_plane : (plane true false 1518).frame? 1 = some (frame1 .receiving) ∧ (plane true false 1518).modeNo = mHARBOUR ∧
    (frame1 .receiving).lenKnown = true ∧ 1 ∉ ((plane true false 1518).quay 0).waiting ∧ (plane true false 1518).hbor.draining = none ∧
    ((plane true false 1518).delFrame 1).hbArmed = true ∧ ((plane true false 1518).delFrame 1).bit F.hborPortCfg_en (hbPort ((plane true false 1518).delFrame 1).hbBank 0) = true ∧
    ((plane false false 1518).delFrame 1).hbArmed = false ∧ (plane true false 1518).frame? 2 = none := by decide +kernel
theorem test_plane_match : (plane true false 1518).hbMatch 0 (frame1 .receiving).bytes (planeVid (plane true false 1518)) = some 0 ∧
    (plane true false 1518).hbMatch 0 ([1] ++ List.replicate 63 0) (planeVid (plane true false 1518)) = none ∧
    (frame1 .receiving).bytes.length ≤ (plane true false 64).get F.hborEntry_maxf 0 ∧ (plane true false 63).get F.hborEntry_maxf 0 < (frame1 .receiving).bytes.length ∧
    (plane true false 64).bit F.hborEntry_redEn 0 = false := by decide +kernel
theorem test_plane_launch : Tab.getD (plane true false 64).hbor.launchNs 0 0 ≤ (plane true false 64).ns ∧ Tab.getD (plane true false 64).ports.wire 0 [] = [] ∧
    (plane true false 64).linkUp 0 = true ∧ (inMode mSERVICE).modeNo ≠ mHARBOUR := by decide +kernel
def checking (bad : Bool) : State := { (inMode mMOORED).setBit F.hborEntry_valid 4101 bad with hbor := { check := some 1 } }
theorem test_bank : (inMode mMOORED).directMode = true ∧ (3 : Word).toNat / 2 % 2 ≠ (inMode mMOORED).hbBank ∧ (2 : Word).getLsbD 0 = false ∧
    ((inMode mMOORED).setBit F.hborCfg_armed 0 true).bit F.hborCfg_armed 0 = true ∧ (inMode mMOORED).hbor.check = none ∧ (checking false).hbor.check = some 1 ∧
    ((checking false).setBit F.hborStatus_checking 0 false).hbFault 1 = none ∧ ((checking true).setBit F.hborStatus_checking 0 false).hbFault 1 = some 5 := by
  decide +kernel

def drydock (busy : Bool) : State := ((inMode mDRYDOCK).setBit F.sysDrydockStatus_busy 0 busy).set F.sysDrydockCtl_bist 0 0x3F
theorem test_bist : (drydock false).modeNo = mDRYDOCK ∧ (drydock false).bit F.sysDrydockStatus_busy 0 = false ∧ (drydock false).bistRefused 0x7F = false ∧
    (drydock true).bit F.sysDrydockStatus_busy 0 = true ∧ (inMode mSERVICE).modeNo ≠ mDRYDOCK ∧ ((drydock true).get F.sysDrydockCtl_bist 0).testBit 3 = true := by
  decide +kernel
theorem test_temperatures : (94 : BitVec 8).toInt < 95 ∧ 95 ≤ (95 : BitVec 8).toInt ∧ (0xFF : BitVec 8).toInt < 95 ∧
    (BitVec.ofNat 8 ((inMode mSERVICE).get F.sysTemp_alarmThr 0)).toInt ≤ (127 : BitVec 8).toInt ∧
    ((inMode mSERVICE).setBit F.sysTemp_alarm 0 true).bit F.sysTemp_alarm 0 = true := by decide +kernel
/-- The core voltage stands at 3 and is to be 5; `naks` commands have not been acknowledged. -/
def avsS (naks : Nat) : State := { (inMode mSERVICE).setReg .sysAvs 0 (putBits (putBits 0 F.sysAvs_target.lo F.sysAvs_target.len 5) F.sysAvs_applied.lo F.sysAvs_applied.len 3) with
  mode := { resetHeld := false, avsNaks := naks } }
theorem test_avs : (avsS 0).modeNo ≠ mRESET ∧ (avsS 0).bit F.sysAvs_fault 0 = false ∧ (avsS 0).avsNext = 4 ∧ (avsS 0).avsNext ≠ (avsS 0).get F.sysAvs_applied 0 ∧
    (4 : BitVec 5).toNat = (avsS 0).avsNext ∧ (avsS 0).mode.avsNs = none ∧ (avsS 1).mode.avsNaks < 2 ∧ 2 ≤ (avsS 2).mode.avsNaks := by decide +kernel

theorem test_scrub : ¬(MemKind.hbm = MemKind.hbm ∧ hbmSize ≤ hbmSize - 1) ∧ hbmSize ≤ hbmSize ∧ ¬(MemKind.staging = MemKind.hbm ∧ hbmSize ≤ 0) ∧
    ¬((inMode mSERVICE).modeNo = mRESET ∨ (inMode mSERVICE).modeNo = mBOOT ∨ (MemKind.hbm = MemKind.hbm ∧ (inMode mSERVICE).hbmFailed = true)) ∧
    (inMode mBOOT).modeNo = mBOOT := by decide +kernel
def stormS (thr n : Nat) : State := { (inMode mSERVICE).set F.rasSealCfg_stormThr 0 thr with mode := { resetHeld := false, sealFails := n, corr := [(2, n)] } }
theorem test_seal_storm : (stormS 3 3).get F.rasSealCfg_stormThr 0 = 3 ∧ 3 ≤ (stormS 3 3).mode.sealFails ∧ (stormS 3 2).mode.sealFails < 3 ∧
    (stormS 0 2).get F.rasSealCfg_stormThr 0 = 0 ∧ (stormS 3 3).mode.corr = [(2, 3)] ∧ ((stormS 3 3).set F.rasSealCfg_corrThr 0 2).get F.rasSealCfg_corrThr 0 < 3 ∧
    (∀ e ∈ (stormS 3 2).mode.corr, e.2 ≤ ((stormS 3 2).set F.rasSealCfg_corrThr 0 2).get F.rasSealCfg_corrThr 0) := by decide +kernel
def sealS (st len : Nat) (cmp : Bool) (exp : Nat) : State :=
  (((((inMode mMOORED).set F.bufHbmPool_size 0 1).set F.sealCtl_state 0 st).set F.sealSrc_srcLen 0 len).setBit F.sealCfg_cmpEn 0 cmp).set F.sealExpect_value 0 exp
theorem test_seal_unit : (sealS suIDLE 1 false 0).cfgMode = true ∧ ((sealS suIDLE 1 false 0).set F.sealSrc_srcBase 0 (((sealS suIDLE 1 false 0).hbmRegion 0).1 / 64)).sealStartOk 0 = true ∧
    ((sealS suIDLE 1 false 0).sealRange 0).2 ≠ 0 ∧ (sealS suBUSY 1 false 0).sealStartOk 0 = false ∧ (sealS suBUSY 1 false 0).get F.sealCtl_state 0 = suBUSY ∧
    ((sealS suIDLE 0 false 0).sealRange 0).2 = 0 ∧ (sealS suIDLE 0 false 0).get F.sealCtl_state 0 ≠ suBUSY ∧ (sealS suIDLE 0 false 0).get F.sealRunning_value 0 < 2 ^ 32 ∧
    (sealS suIDLE 0 true 5).bit F.sealCfg_cmpEn 0 = true ∧ (sealS suIDLE 0 false 0).bit F.sealCfg_cmpEn 0 = false ∧
    Nat.xor (BitVec.ofNat 32 ((sealS suIDLE 0 true 5).get F.sealRunning_value 0)).toNat ((sealS suIDLE 0 true 5).sealXor 0) ≠ (sealS suIDLE 0 true 5).get F.sealExpect_value 0 ∧
    (sealS suIDLE 0 true 5).bit F.sealCfg_foldEn 0 = false := by decide +kernel

/-- Fuse counts of 3, the image at 5, the debug port open to use or locked; an attestation under way or none. -/
def fuseS (m : Nat) (lock : Bool) : State :=
  { (inMode m).setReg .secStatus 0 (putBits 3 F.secStatus_debugLock.lo 1 lock.toNat) with mode := { resetHeld := false, arbRun := 5, keys := true } }
def owned (x : BitVec 256) : State := { fuseS mMOORED false with mode := { resetHeld := false, fuseOwner1 := some x } }
theorem test_fuses : (fuseS mMOORED false).modeNo = mMOORED ∧ (fuseS mMOORED false).get F.secStatus_arbFw 0 = 3 ∧ (fuseS mMOORED false).mode.arbRun = 5 ∧
    (0 : Fn).val = 0 ∧ (1 : Fn).val ≠ 0 ∧ (fuseS mSERVICE false).modeNo ≠ mMOORED ∧ (fuseS mSERVICE false).modeNo ≠ mRESET ∧
    (fuseS mMOORED false).mode.fuseOwner1 = none ∧ (fuseS mMOORED false).mode.fuseOwner0 = none ∧ (owned 7).mode.fuseOwner1 ≠ none ∧
    (fuseS mMOORED true).bit F.secStatus_debugLock 0 = true ∧ (fuseS mMOORED false).bit F.secStatus_debugLock 0 = false := by decide +kernel
/-- (3 < 5 and 5 ≤ 5, with no patch count asked: the request of a count of 5 is good, one of 6 is not.) -/
theorem test_arb : (3 < (5 : BitVec 32).toNat % 128 ∧ (5 : BitVec 32).toNat % 128 ≤ (fuseS mMOORED false).mode.arbRun ∧ (5 : BitVec 32).toNat / 128 % 64 = 0) ∧
    ¬((6 : BitVec 32).toNat % 128 ≤ (fuseS mMOORED false).mode.arbRun) := by decide +kernel
def attest1 (busy : Bool) : State :=
  let s := ((fuseS mSERVICE false).setBit F.secAttCtl_busy 0 busy).set F.bufHbmPool_size 0 1
  s.set F.secAttCtl_dest 0 ((s.hbmRegion 0).1 / 4096)
theorem test_attestation : (attest1 false).cfgMode = true ∧ (attest1 false).bit F.secAttCtl_busy 0 = false ∧ (attest1 true).bit F.secAttCtl_busy 0 = true ∧
    (attest1 true).modeNo ≠ mHALT ∧ (attest1 true).mode.keys = true ∧ (owned 7).mode.keys = false ∧
    (attest1 true).inRegion 0 ((attest1 true).get F.secAttCtl_dest 0 * 4096) 6360 = true ∧ (attest1 true).hbmFailed = false := by decide +kernel

/-! ### Well-formed terms, and words -/

/-- A term that each check refuses. -/
theorem test_ill_formed : (Instr.add (.chan 0) 1 2 3).wf = false ∧ (Instr.shi pilot 1 2 256).wf = false ∧ (Instr.movi pilot 1 8 0).wf = false ∧
    (Instr.ext pilot 1 ⟨4, 0, 0, 0, false⟩).wf = false ∧ (Instr.ext pilot 1 ⟨1, 127, 0, 8, false⟩).wf = false ∧ (Instr.extc stev 1 fieldF).wf = false ∧
    (Instr.ins pilot 1 fieldH).wf = false ∧ (Instr.ins pilot 1 ⟨3, 0, 0, 7, true⟩).wf = false ∧ (Instr.insc pilot 1 fieldH).wf = false ∧
    (Instr.hdr pilot 16 0 0).wf = false ∧ (Instr.hdr pilot 1 0 256).wf = false ∧ (Instr.advc pilot 1 0 0).wf = false ∧
    (Instr.lkp pilot 0 63 0 1 false).wf = false := by decide +kernel
theorem test_ill_formed_more : (Instr.mtr pilot 0 0 0 4).wf = false ∧ (Instr.hsh pilot 0 1 0).wf = false ∧ (Instr.hsh pilot 0 0 0xFC1).wf = false ∧
    (Instr.flow pilot 0 0 0x4000).wf = false ∧ (Instr.br pilot 0 false 1 2 0).wf = false ∧ (Instr.br pilot 0 false 1 2 1024).wf = false ∧
    (Instr.br pilot 11 false 1 2 1).wf = false ∧ (Instr.br pilot 8 true 1 0 1).wf = false ∧ (Instr.jal 0 1 1 0).wf = false ∧ (Instr.jr 0 1 0 0 0).wf = false ∧
    (Instr.mfs pilot 1 0 9).wf = false ∧ (Instr.mts pilot 0 0 3).wf = false ∧ (Instr.ctl 0 0 0x7C80).wf = false := by decide +kernel
theorem test_ill_formed_lists : (Instr.pfcFrameRx 0 0 [0]).wf = false ∧ (Instr.chanOpen (.chan 0) 0 (List.replicate 16 0)).wf = false ∧
    (Instr.nop (.chan 0)).wf = false ∧ (Instr.endProg stev).wf = false ∧ (Instr.drop (.tug 0) 0).wf = false ∧ (Instr.recirc rew).wf = false ∧
    (Instr.fend pilot false false).wf = false := by decide +kernel
/-- The words of the spec's encodings: opcode at [31:26]. -/
theorem test_words : wordInstr pilot 0x4420301E = some (.extc pilot 1 ⟨0, 12, 0, 15, false⟩) ∧ wordInstr pilot 0x8020D400 = some (.lkp pilot 2 3 10 0 false) ∧
    wordInstr pilot 0 = none ∧ wordInstr (.tug 0) 0xF8408085 = some (.ctl 0 0x040 0x8085) ∧
    wordInstr (.tug 0) 0x04443000 = some (.add (.tug 0) 2 4 6) ∧ wordInstr (.tug 0) 0x0864FFFF = some (.addi (.tug 0) 3 4 0xFFFF) := by decide +kernel
theorem test_table_words : decodeTableWord 32 0 = none ∧ (inMode mSERVICE).withFetchWord 32 0 = inMode mSERVICE := by decide +kernel

end Sys2Proof.Tests
end

section
/-!
PROOFS. The engines' and tug cores' own instructions: arithmetic (R38), branches and jumps (R50-R52), loads and stores (R53).
-/
namespace Sys2Proof.Machine

/-! ### Programs and cores -/

/-- Of two entries put under one number the later one stays. -/
theorem Tab.put_put_self {α : Type} (t : Tab α) (n : Nat) (v w : α) : Tab.put (Tab.put t n v) n w = Tab.put t n w := by
  induction t with
  | nil => simp [Tab.put]
  | cons e t ih =>
    obtain ⟨k, u⟩ := e
    rcases Nat.lt_trichotomy n k with h | rfl | h
    · simp [Tab.put, h]
    · simp [Tab.put]
    · simp [Tab.put, Nat.lt_asymm h, Nat.ne_of_gt h, ih]

@[simp] theorem State.setCtx_setCtx (s : State) (x : CtxId) (c d : Ctx) : (s.setCtx x c).setCtx x d = s.setCtx x d := by
  simp [State.setCtx, Tab.put_put_self]

/-- The pc that a program has moved past its word still gives the word's own address. -/
@[simp] theorem Ctx.after_pc_sub (c : Ctx) (cost : Nat) : (c.after cost).pc - 4 = c.pc := Nat.add_sub_cancel c.pc 4

/-- A word that a core fetches and that spells no instruction of its profile traps ILLEGAL, with the word as detail (R37). -/
theorem State.tugRun_illegal {t : Core} {s : State} (h : TugIssues t s) (body : State → State) :
    s.tugRun t false body = s.trapHere t tcILLEGAL (BitVec.ofNat 64 (leNat (s.dRead t.val (s.tpc t).toNat 4))) := by
  unfold State.tugRun
  simp [h.running, h.kept, h.fetched, h.sound]

/-! ### The functions of Table 2.11 -/

theorem foldl_add_toNat_eq_countP (p : Nat → Bool) (l : List Nat) (n : Nat) :
    l.foldl (fun n i => n + (p i).toNat) n = n + l.countP p := by
  induction l generalizing n with
  | nil => rfl
  | cons i l ih =>
    rw [List.foldl_cons, ih, List.countP_cons]
    cases p i <;> simp [Nat.add_assoc, Nat.add_comm 1]

theorem popCount_eq (a : Word) : popCount a = BitVec.ofNat 64 ((List.range 64).countP (fun i => a.getLsbD i)) := by
  rw [popCount, foldl_add_toNat_eq_countP, Nat.zero_add]

theorem countP_range_le (k n : Nat) : (List.range n).countP (fun i => decide (k ≤ i)) = n - k := by
  induction n with
  | zero => simp
  | succ n ih =>
    rw [List.range_succ, List.countP_append, ih]
    by_cases h : k ≤ n <;> simp [h] <;> omega

/-- The bits that are zeros with all those above them are those from the first one that leaves `a < 2^i`. -/
theorem leadZeros_eq (a : Word) : leadZeros a = BitVec.ofNat 64 ((List.range 64).countP (fun i => decide (a.toNat < 2 ^ i))) := by
  unfold leadZeros
  by_cases h : a = 0
  · subst h
    decide
  · have hne : a.toNat ≠ 0 := fun e => h (BitVec.eq_of_toNat_eq e)
    have hlog : a.toNat.log2 < 64 := (Nat.log2_lt hne).2 a.isLt
    have hcount : (List.range 64).countP (fun i => decide (a.toNat < 2 ^ i)) = 64 - (a.toNat.log2 + 1) := by
      rw [← countP_range_le (a.toNat.log2 + 1) 64]
      simp only [← Nat.log2_lt hne, Nat.lt_iff_add_one_le]
    rw [if_neg h, hcount, show 63 - a.toNat.log2 = 64 - (a.toNat.log2 + 1) by omega]

/-- The bytes of a word are its fields of 8 bits, from the least significant up. -/
theorem leBytes_toNat (n : Nat) (a : Word) : leBytes n a.toNat = (List.range n).map (fun i => a.extractLsb' (8 * i) 8) := by
  suffices h : ∀ m, leBytes n m = (List.range n).map (fun i => BitVec.ofNat 8 (m >>> (8 * i))) from h a.toNat
  intro m
  induction n generalizing m with
  | zero => rfl
  | succ n ih =>
    have hshift : ∀ i, (m / 256) >>> (8 * i) = m >>> (8 * (i + 1)) := fun i => by
      rw [show 8 * (i + 1) = 8 + 8 * i by omega, Nat.shiftRight_add, Nat.shiftRight_eq_div_pow m 8]
    simp [leBytes, ih, hshift, List.range_succ_eq_map, Function.comp_def]

/-- Appending a byte below a word is one step of reading bytes in wire order. -/
theorem toNat_append_byte {n : Nat} (v : BitVec n) (b : Byte) : (v ++ b).toNat = v.toNat * 256 + b.toNat := by
  rw [BitVec.toNat_append, ← Nat.shiftLeft_add_eq_or_of_lt b.isLt, Nat.shiftLeft_eq]

/-- The low `n` bytes in reverse order are the number that they spell in wire order. -/
theorem bswapN_eq_setWidth {m : Nat} (n : Nat) (a : Word) (v : BitVec m)
    (h : beNat ((List.range n).map (fun i => a.extractLsb' (8 * i) 8)) = v.toNat) : bswapN n a = v.setWidth 64 := by
  rw [bswapN, leBytes_toNat, h, BitVec.ofNat_toNat]

theorem bswapN_two (a : Word) : bswapN 2 a = (a.extractLsb' 0 8 ++ a.extractLsb' 8 8).setWidth 64 :=
  bswapN_eq_setWidth 2 a _ (by simp [toNat_append_byte, List.range_succ, beNat, -BitVec.toNat_append])

theorem bswapN_four (a : Word) : bswapN 4 a =
    (a.extractLsb' 0 8 ++ a.extractLsb' 8 8 ++ a.extractLsb' 16 8 ++ a.extractLsb' 24 8).setWidth 64 :=
  bswapN_eq_setWidth 4 a _ (by simp [toNat_append_byte, List.range_succ, beNat, -BitVec.toNat_append])

theorem bswapN_eight (a : Word) : bswapN 8 a =
    a.extractLsb' 0 8 ++ a.extractLsb' 8 8 ++ a.extractLsb' 16 8 ++ a.extractLsb' 24 8 ++
      a.extractLsb' 32 8 ++ a.extractLsb' 40 8 ++ a.extractLsb' 48 8 ++ a.extractLsb' 56 8 :=
  (bswapN_eq_setWidth 8 a _ (by simp [toNat_append_byte, List.range_succ, beNat, -BitVec.toNat_append])).trans (BitVec.setWidth_eq _)

/-- The sum of two 16-bit numbers carries at most once, and the carry goes round (ones' complement). -/
theorem fold16_eq {t : Nat} (h : t ≤ 131070) : fold16 t = if 65536 ≤ t then t - 65535 else t := by
  unfold fold16
  dsimp only
  split <;> omega

/-- An ALU operation is known by the values of its function. -/
theorem aluOp_congr {mn : String} {f g : Word → Word → Word} (h : ∀ a b, f a b = g a b) (x : CtxId) (rd ra rb : RegNo) (s : State) :
    aluOp mn f x rd ra rb s = aluOp mn g x rd ra rb s := by
  rw [funext fun a => funext (h a)]

/-- Each instruction of Table 2.11 is the ALU operation of its row's function. -/
theorem exec_aluTable : ∀ p ∈ aluTable, ∃ mn, ∀ x rd ra rb s, exec (p.1 x rd ra rb) s = aluOp mn p.2 x rd ra rb s := by
  simp only [aluTable, List.forall_mem_cons]
  exact ⟨⟨_, fun x rd ra rb s => Eq.refl (execAdd x rd ra rb s)⟩, ⟨_, fun x rd ra rb s => Eq.refl (execSub x rd ra rb s)⟩,
    ⟨_, fun x rd ra rb s => Eq.refl (execAndd x rd ra rb s)⟩, ⟨_, fun x rd ra rb s => Eq.refl (execOrr x rd ra rb s)⟩,
    ⟨_, fun x rd ra rb s => Eq.refl (execXor x rd ra rb s)⟩, ⟨_, fun x rd ra rb s => Eq.refl (execAndn x rd ra rb s)⟩,
    ⟨_, fun x rd ra rb s => Eq.refl (execShl x rd ra rb s)⟩, ⟨_, fun x rd ra rb s => Eq.refl (execShr x rd ra rb s)⟩,
    ⟨_, fun x rd ra rb s => Eq.refl (execSar x rd ra rb s)⟩, ⟨_, fun x rd ra rb s => Eq.refl (execRol x rd ra rb s)⟩,
    ⟨_, fun x rd ra rb s => Eq.refl (execMinu x rd ra rb s)⟩, ⟨_, fun x rd ra rb s => Eq.refl (execMaxu x rd ra rb s)⟩,
    ⟨"MIN", aluOp_congr (f := fun a b => if a.toInt ≤ b.toInt then a else b) fun a b => by simp only [BitVec.sle_iff_toInt_le]⟩,
    ⟨"MAX", aluOp_congr (f := fun a b => if a.toInt ≤ b.toInt then b else a) fun a b => by simp only [BitVec.sle_iff_toInt_le]⟩,
    ⟨_, fun x rd ra rb s => Eq.refl (execSltu x rd ra rb s)⟩,
    ⟨"SLT", aluOp_congr (f := fun a b => if a.toInt < b.toInt then 1 else 0) fun a b => by simp only [BitVec.slt_iff_toInt_lt]⟩,
    ⟨_, fun x rd ra rb s => Eq.refl (execMul x rd ra rb s)⟩,
    ⟨"POPC", aluOp_congr (f := fun a _ => popCount a) fun a _ => popCount_eq a⟩,
    ⟨"CLZ", aluOp_congr (f := fun a _ => leadZeros a) fun a _ => leadZeros_eq a⟩,
    ⟨"BSWAP16", aluOp_congr (f := fun a _ => bswapN 2 a) fun a _ => bswapN_two a⟩,
    ⟨"BSWAP32", aluOp_congr (f := fun a _ => bswapN 4 a) fun a _ => bswapN_four a⟩,
    ⟨"BSWAP64", aluOp_congr (f := fun a _ => bswapN 8 a) fun a _ => bswapN_eight a⟩,
    ⟨"CSADD", aluOp_congr (f := fun a b => BitVec.ofNat 64 (fold16 (a.toNat % 65536 + b.toNat % 65536))) fun a b => congrArg _ (fold16_eq (by omega))⟩,
    List.forall_mem_nil _⟩

theorem aluOp_engine {mn : String} {f : Word → Word → Word} {x : CtxId} {rd ra rb : RegNo} {s : State} {c : Ctx}
    (h : Issues x 1 [rd, ra, rb] s c) :
    aluOp mn f x rd ra rb s = .next ((s.setCtx x (c.after 1)).setG x rd (f (s.g x ra) (s.g x rb))) := by
  rw [aluOp, inProfiles_pset h.profile, issue_engine h, State.g_setCtx, State.g_setCtx]

theorem aluOp_tug {mn : String} {f : Word → Word → Word} {t : Core} {rd ra rb : RegNo} {s : State} (h : TugIssues t s) :
    aluOp mn f (.tug t) rd ra rb s = .next ((s.setG (.tug t) rd (f (s.g (.tug t) ra) (s.g (.tug t) rb))).tugDone t) :=
  congrArg Host.Outcome.next (State.tugRun_of h _)

/-- A word of opcode 0x01 whose func [10:6] is not 0 spells no instruction (R38). -/
theorem wordInstr_alu_reserved (x : CtxId) {w : BitVec 32} (hop : wbits w 26 6 = 0x01) (hfunc : wbits w 6 5 ≠ 0) :
    wordInstr x w = none := by
  simp only [wordInstr, hop, if_neg hfunc]

/-- Settles O7: each row of Table 2.11 is an ALU operation whose function is the row's, and an ALU operation that issues writes it. -/
theorem aluWritesItsFunction : Obligations.AluWritesItsFunction := by
  intro p hp rd ra rb s
  obtain ⟨mn, hexec⟩ := exec_aluTable p hp
  refine ⟨fun x c h => ?_, fun t h => ?_, fun x w => wordInstr_alu_reserved x⟩
  · rw [hexec, aluOp_engine h]
  · rw [hexec, aluOp_tug h]

/-! ### Branches and jumps -/

/-- The model takes a branch where the condition of Table 2.13a holds. -/
theorem brTaken_iff : ∀ p ∈ branchTable, ∀ (a b : Word) (flags : Nat), brTaken p.1 a b flags = true ↔ p.2 a b flags := by
  simp only [branchTable, List.forall_mem_cons]
  refine ⟨?eq, ?ne, ?lt, ?ge, ?ltu, ?geu, ?bitSet, ?bitClear, ?zero, ?nonzero, ?flag, ?always, List.forall_mem_nil _⟩ <;> intro a b flags
  case ltu => simp [brTaken, BitVec.lt_def]
  case geu => simp [brTaken, BitVec.le_def]
  all_goals simp [brTaken]

/-- BR of an engine that issues: only a taken branch changes the pc that issuing has left. -/
theorem exec_br_engine {x : CtxId} {cond : BitVec 4} {i : Bool} {ra rb : RegNo} {disp : BitVec 11} {s : State} {c : Ctx}
    (h : Issues x 1 (brUses cond.toNat i ra rb) s c) (hwf : wfBr x cond i ra rb disp = true) :
    exec (.br x cond i ra rb disp) s =
      .next (if brTaken cond.toNat (s.g x ra) (s.brB x i rb) (mget c.man mPflags) then
        s.setCtx x { c.after 1 with pc := c.pc + 4 * disp.toNat } else s.setCtx x (c.after 1)) := by
  have hexec : exec (.br x cond i ra rb disp) s =
      engineOnly x "BR" (wfBr x cond i ra rb disp) 1 (brUses cond.toNat i ra rb) s (fun c s =>
        if brTaken cond.toNat (s.g x ra) (s.brB x i rb) (mget c.man mPflags) then s.setCtx x { c with pc := c.pc - 4 + 4 * disp.toNat }
        else s) := by
    cases x with
    | tug t => rcases h.profile with e | e | e <;> cases e
    | _ => rfl
  rw [hexec, hwf, engineOnly_of h]
  simp only [State.brB, State.g_setCtx, State.setCtx_setCtx, Ctx.after_pc_sub]
  rfl

/-- BR of a core that issues. -/
theorem exec_br_tug {t : Core} {cond : BitVec 4} {i : Bool} {ra rb : RegNo} {disp : BitVec 11} {s : State} (h : TugIssues t s)
    (hwf : wfBr (.tug t) cond i ra rb disp = true) :
    exec (.br (.tug t) cond i ra rb disp) s =
      .next (if brTaken cond.toNat (s.g (.tug t) ra) (s.brB (.tug t) i rb) 0 then
        (s.ccnt t.val 7 1).tugJump t (s.tpc t + 4 * disp.signExtend 64) else s.tugDone t) := by
  change Host.Outcome.next (s.tugRun t (wfBr (.tug t) cond i ra rb disp) _) = _
  rw [hwf, State.tugRun_of h]

/-- Settles O15: the two sides of the branch's own test, which is the condition of Table 2.13a. -/
theorem branchesComplete : Obligations.BranchesComplete := by
  intro p hp cond i ra rb disp s hcond
  have htaken := brTaken_iff p hp
  rw [← hcond] at htaken ⊢
  refine ⟨fun x c h hwf => ?_, fun t h hwf => ?_⟩
  · rw [exec_br_engine h hwf, State.brB]
    exact ⟨fun hb => by rw [if_pos ((htaken _ _ _).2 hb)], fun hb => by rw [if_neg (mt (htaken _ _ _).1 hb)]⟩
  · rw [exec_br_tug h hwf, State.brB]
    exact ⟨fun hb => ⟨_, by rw [if_pos ((htaken _ _ _).2 hb)], rfl⟩, fun hb => by rw [if_neg (mt (htaken _ _ _).1 hb)]⟩

/-- JAL as the model runs it: its ra field must be 0. -/
theorem exec_jal (t : Core) (rd ra : RegNo) (imm : BitVec 16) (s : State) : exec (.jal t rd ra imm) s =
    .next (s.tugRun t (decide (ra.val = 0)) (fun s => (s.setG (.tug t) rd (s.tpc t + 4)).tugJump t (s.tpc t + 4 * imm.signExtend 64))) := rfl

/-- JR as the model runs it: its rd, rb and func fields must be 0. -/
theorem exec_jr (t : Core) (rd ra rb : RegNo) (func : BitVec 11) (s : State) : exec (.jr t rd ra rb func) s =
    .next (s.tugRun t (decide (rd.val = 0) && decide (rb.val = 0) && decide (func.toNat = 0)) (fun s =>
      if (s.g (.tug t) ra).toNat % 4 = 0 then s.tugJump t (s.g (.tug t) ra) else s.trapHere t tcMISALIGN (s.g (.tug t) ra))) := rfl

/-- Settles O16: the fields that must be 0 decide whether the word is legal; then the jump runs. -/
theorem jumpsComplete : Obligations.JumpsComplete := by
  intro t rd ra rb imm func s h
  refine ⟨fun hra => ?_, fun hrd hrb hfunc => ?_, fun hra => ?_, fun hbad => ?_⟩
  · rw [exec_jal, decide_eq_true hra, State.tugRun_of h]
  · have hlegal : (decide (rd.val = 0) && decide (rb.val = 0) && decide (func.toNat = 0)) = true := by simp [hrd, hrb, hfunc]
    rw [exec_jr, hlegal, State.tugRun_of h]
    exact ⟨fun ha => by rw [if_pos ha], fun ha => by rw [if_neg ha]⟩
  · rw [exec_jal, decide_eq_false hra, State.tugRun_illegal h]
  · have hillegal : (decide (rd.val = 0) && decide (rb.val = 0) && decide (func.toNat = 0)) = false := by
      simpa only [Bool.and_eq_false_iff, decide_eq_false_iff_not, or_assoc] using hbad
    rw [exec_jr, hillegal, State.tugRun_illegal h]

/-! ### Loads and stores -/

theorem memAllowed_of_isWindow {a n : Nat} (h : isWindow a n = true) (s : State) (t : Core) : s.memAllowed t a n = false := by
  unfold isWindow at h
  unfold State.memAllowed
  split at h <;> simp_all

/-- Memory that the core may reach is no window. -/
theorem isWindow_of_memAllowed {s : State} {t : Core} {a n : Nat} (h : s.memAllowed t a n = true) : isWindow a n = false := by
  cases hw : isWindow a n with
  | false => rfl
  | true => rw [memAllowed_of_isWindow hw] at h; cases h

section access
variable {s : State} {t : Core} {a n : Nat}

theorem State.tugLoad_misaligned (h : a % n ≠ 0) (ue : Bool) : s.tugLoad t a n ue = .trap s tcMISALIGN := by
  simp [State.tugLoad, h]

theorem State.tugStore_misaligned (h : a % n ≠ 0) (v : Word) : s.tugStore t a n v = .trap s tcMISALIGN := by
  simp [State.tugStore, h]

/-- An aligned load outside the windows reads memory (Table 12.1). -/
theorem State.tugLoad_memory (ha : a % n = 0) (hw : isWindow a n = false) (ue : Bool) : s.tugLoad t a n ue =
    if s.memAllowed t a n = false then .trap s tcD_FAULT
    else if ue ∨ s.wordBad t.val a then
      .trap (s.mcheck (if hbmWin ≤ a then 0 else 3) (if hbmWin ≤ a then a - hbmWin else dCell t.val a) t.val) tcMEM_ECC
    else .ok s (BitVec.ofNat 64 (leNat (s.dRead t.val a n))) := by
  unfold isWindow at hw
  unfold State.tugLoad
  rw [if_neg (fun hne => hne ha)]
  split at hw <;> simp_all

/-- An aligned store outside the windows writes memory (Table 12.1). -/
theorem State.tugStore_memory (ha : a % n = 0) (hw : isWindow a n = false) (v : Word) : s.tugStore t a n v =
    if s.memAllowed t a n = false then .trap s tcD_FAULT
    else .ok ((s.dWrite t.val a (leBytes n v.toNat)).wordMend t.val a n) 0 := by
  unfold isWindow at hw
  unfold State.tugStore
  rw [if_neg (fun hne => hne ha)]
  split at hw <;> simp_all

/-- A window takes loads of 8 bytes only (Table 12.2). -/
theorem State.tugLoad_window (ha : a % n = 0) (hw : isWindow a n = true) (hn : n ≠ 8) (ue : Bool) :
    s.tugLoad t a n ue = .trap s tcD_FAULT := by
  have hmem := memAllowed_of_isWindow hw s t
  unfold isWindow at hw
  unfold State.tugLoad
  rw [if_neg (fun hne => hne ha)]
  split at hw <;> simp_all

/-- A window takes stores of 8 bytes only (Table 12.2). -/
theorem State.tugStore_window (ha : a % n = 0) (hw : isWindow a n = true) (hn : n ≠ 8) (v : Word) :
    s.tugStore t a n v = .trap s tcD_FAULT := by
  unfold isWindow at hw
  unfold State.tugStore
  rw [if_neg (fun hne => hne ha)]
  split at hw <;> simp_all

end access

theorem State.tugFinish_trap (rd : Option RegNo) (aw : Word) (n : Nat) (s s2 : State) (t : Core) (cause : Nat) :
    s.tugFinish t rd aw n (.trap s2 cause) = s2.trapHere t cause aw := rfl

theorem State.tugFinish_load (rd : RegNo) (aw : Word) (n : Nat) (s s2 : State) (t : Core) (v : Word) :
    s.tugFinish t (some rd) aw n (.ok s2 v) = ((s2.tugAccCount t aw.toNat n false).setG (.tug t) rd v).tugDone t := rfl

theorem State.tugFinish_store (aw : Word) (n : Nat) (s s2 : State) (t : Core) (v : Word) :
    s.tugFinish t none aw n (.ok s2 v) = (s2.tugAccCount t aw.toNat n true).tugDone t := rfl

/-- Each load of R53 is a load of its row's width. -/
theorem exec_loadTable : ∀ p ∈ loadTable, ∀ t rd ra imm ue s, exec (p.1 t rd ra imm ue) s = loadOp p.2 t rd ra imm ue s := by
  simp only [loadTable, List.forall_mem_cons]
  exact ⟨fun _ _ _ _ _ _ => rfl, fun _ _ _ _ _ _ => rfl, fun _ _ _ _ _ _ => rfl, fun _ _ _ _ _ _ => rfl, List.forall_mem_nil _⟩

/-- Each store of R53 is a store of its row's width. -/
theorem exec_storeTable : ∀ p ∈ storeTable, ∀ t rd ra imm s, exec (p.1 t rd ra imm) s = storeOp p.2 t rd ra imm s := by
  simp only [storeTable, List.forall_mem_cons]
  exact ⟨fun _ _ _ _ _ => rfl, fun _ _ _ _ _ => rfl, fun _ _ _ _ _ => rfl, fun _ _ _ _ _ => rfl, List.forall_mem_nil _⟩

/-- A load of a core that issues ends as its access at g[ra] + sext(imm16) does. -/
theorem loadOp_of {t : Core} {s : State} (h : TugIssues t s) (n : Nat) (rd ra : RegNo) (imm : BitVec 16) (ue : Bool) {aw : Word}
    (haw : aw = s.g (.tug t) ra + imm.signExtend 64) :
    loadOp n t rd ra imm ue s = .next (s.tugFinish t (some rd) aw n (s.tugLoad t aw.toNat n ue)) := by
  rw [loadOp, State.tugRun_of h, haw]
  rfl

/-- A store of a core that issues ends as its access at g[ra] + sext(imm16) does. -/
theorem storeOp_of {t : Core} {s : State} (h : TugIssues t s) (n : Nat) (rd ra : RegNo) (imm : BitVec 16) {aw : Word}
    (haw : aw = s.g (.tug t) ra + imm.signExtend 64) :
    storeOp n t rd ra imm s = .next (s.tugFinish t none aw n (s.tugStore t aw.toNat n (s.g (.tug t) rd))) := by
  rw [storeOp, State.tugRun_of h, haw]
  rfl

/-- Settles O12: an access of a core that issues ends as `tugLoad` or `tugStore` says of its address: one that is misaligned, in a window,
in memory that the core may not reach, or in memory that it may. -/
theorem loadsAndStores : Obligations.LoadsAndStores := by
  refine ⟨fun p hp t rd ra imm ue s h => ?_, fun p hp t rd ra imm s h => ?_⟩
  · intro aw a
    rw [exec_loadTable p hp, loadOp_of h p.2 rd ra imm ue (aw := aw) rfl]
    refine ⟨fun ha => ?_, fun ha hw hmem => ?_, fun ha hw hn => ?_, fun ha hmem hbad => ?_, fun ha hmem hue hok => ?_⟩
    · rw [State.tugLoad_misaligned ha, State.tugFinish_trap]
    · rw [State.tugLoad_memory ha hw, if_pos hmem, State.tugFinish_trap]
    · rw [State.tugLoad_window ha hw hn, State.tugFinish_trap]
    · rw [State.tugLoad_memory ha (isWindow_of_memAllowed hmem), if_neg (ne_false_of_eq_true hmem), if_pos hbad, State.tugFinish_trap]
      exact ⟨_, _, rfl⟩
    · rw [State.tugLoad_memory ha (isWindow_of_memAllowed hmem), if_neg (ne_false_of_eq_true hmem), if_neg (by simp [hue, hok]), State.tugFinish_load]
  · intro aw a
    rw [exec_storeTable p hp, storeOp_of h p.2 rd ra imm (aw := aw) rfl]
    refine ⟨fun ha => ?_, fun ha hw hmem => ?_, fun ha hw hn => ?_, fun ha hmem => ?_⟩
    · rw [State.tugStore_misaligned ha, State.tugFinish_trap]
    · rw [State.tugStore_memory ha hw, if_pos hmem, State.tugFinish_trap]
    · rw [State.tugStore_window ha hw hn, State.tugFinish_trap]
    · rw [State.tugStore_memory ha (isWindow_of_memAllowed hmem), if_neg (ne_false_of_eq_true hmem), State.tugFinish_store]

end Sys2Proof.Machine
end

section
/-!
PROOFS. The tug cores' tasks: a task loaded from its descriptor (R354) and TASK.CREATE with REARM = 1 (R355).
-/
namespace Sys2Proof.Machine

/-! ### Operand words with a fixed field -/

/-- A word with the field of `m` values from `p` replaced by `x` is as long as before, and its field reads as `x`. -/
theorem replaceField_lt_and_read {p m n a x : Nat} (hx : x < m) (ha : a < p * m * n) :
    a - a / p % m * p + x * p < p * m * n ∧ (a - a / p % m * p + x * p) / p % m = x := by
  have hp : 0 < p := Nat.pos_of_ne_zero (by rintro rfl; simp at ha)
  have hhigh : a / p / m < n := by
    rw [Nat.div_div_eq_div_mul]
    exact Nat.div_lt_of_lt_mul ha
  have hparts : a = p * (m * (a / p / m) + a / p % m) + a % p := by rw [Nat.div_add_mod, Nat.div_add_mod]
  have hlow : a % p < p := Nat.mod_lt a hp
  generalize a / p / m = high, a / p % m = old, a % p = low at hhigh hparts hlow ⊢
  have hnew : a - old * p + x * p = p * (m * high + x) + low := by
    subst hparts
    rw [Nat.mul_add, Nat.mul_add, Nat.mul_comm p old, Nat.mul_comm p x]
    omega
  rw [hnew]
  refine ⟨?_, ?_⟩
  · calc p * (m * high + x) + low < p * (m * high + x + 1) := by rw [Nat.mul_succ]; omega
      _ ≤ p * (m * (high + 1)) := Nat.mul_le_mul_left p (by rw [Nat.mul_succ]; omega)
      _ ≤ p * (m * n) := Nat.mul_le_mul_left p (Nat.mul_le_mul_left m hhigh)
      _ = p * m * n := (Nat.mul_assoc p m n).symm
  · rw [Nat.mul_add_div hp, Nat.div_eq_of_lt hlow, Nat.add_zero, Nat.mul_add_mod, Nat.mod_eq_of_lt hx]

@[simp] theorem w0With_length (lo len v : Nat) (w : List Word) : (w0With lo len v w).length = w.length := by
  cases w <;> rfl

/-- The field that a command's row fixes in operand word 0 reads as fixed. -/
theorem wf_w0With {lo len : Nat} (v : Nat) {w : List Word} (hw : w ≠ []) (h : lo + len ≤ 64) :
    wf (w0With lo len v w) 0 lo len = v % 2 ^ len := by
  obtain ⟨a, r, rfl⟩ := List.exists_cons_of_ne_nil hw
  have hsize : 2 ^ 64 = 2 ^ lo * 2 ^ len * 2 ^ (64 - (lo + len)) := by
    rw [← Nat.pow_add, ← Nat.pow_add, Nat.add_sub_cancel' h]
  obtain ⟨hlt, hread⟩ := replaceField_lt_and_read (Nat.mod_lt v (Nat.two_pow_pos len)) (hsize ▸ a.isLt)
  change (BitVec.ofNat 64 _).toNat / 2 ^ lo % 2 ^ len = _
  rw [BitVec.toNat_ofNat, Nat.mod_eq_of_lt (Nat.lt_of_lt_of_eq hlt hsize.symm), hread]

/-! ### Tasks -/

@[simp] theorem State.get_setReady (s : State) (lvl : Nat) (l : List Nat) (f : Fld) (i : Nat) : (s.setReady lvl l).get f i = s.get f i := rfl
@[simp] theorem State.task_set (s : State) (f : Fld) (i x k : Nat) : (s.set f i x).task k = s.task k := rfl
@[simp] theorem State.get_setTask (s : State) (k : Nat) (v : Task) (f : Fld) (i : Nat) : (s.setTask k v).get f i = s.get f i := rfl

@[simp] theorem State.taskState_makeReady (s : State) (k : Nat) : (s.makeReady k).taskState k = tREADY := by
  rw [State.taskState, State.makeReady, State.get_setReady, State.get_set_self _ _ _ _ (by decide)]
  rfl

@[simp] theorem State.task_makeReady (s : State) (j k : Nat) : (s.makeReady j).task k = s.task k := rfl

/-- Making a task READY changes of its TASK_STATE register the state alone. -/
theorem State.get_makeReady_field (s : State) (k : Nat) {f : Fld} (hr : f.reg = .tugTaskState) (hlo : 3 ≤ f.lo) (hlen : f.lo + f.len ≤ 320) :
    (s.makeReady k).get f k = s.get f k := by
  rw [State.makeReady, State.get_setReady, State.get_set_field s F.tugTaskState_state f k tREADY hr hlen (.inr hlo)]

/-- The task that a descriptor describes (R354). -/
def State.describedTask (s : State) (w : List Word) : Task where
  ctx := { pc := w.getD 1 0, sup := wb w 0 15, inten := wb w 0 16, cnten := wb w 0 17,
           tbase := BitVec.ofNat 64 (s.get F.tugTbaseDefault_tbase 0) }
  regs := (List.range 32).map (fun i =>
    if i = 1 then w.getD 2 0 else if i = 2 then BitVec.ofNat 64 ((wf w 3 0 6 + wf w 3 6 7) * 4096) else 0)
  aff := BitVec.ofNat 16 (wf w 0 18 16)
  w3 := w.getD 3 0

theorem State.taskLoad_eq (s : State) (k : Nat) (w : List Word) : s.taskLoad k w =
    (((s.setTask k (s.describedTask w)).set F.tugTaskState_level k (wf w 0 10 5)).set F.tugTaskState_cause k 0).makeReady k := rfl

@[simp] theorem State.task_taskLoad (s : State) (k : Nat) (w : List Word) : (s.taskLoad k w).task k = s.describedTask w := by
  simp [State.taskLoad_eq]

@[simp] theorem State.taskState_taskLoad (s : State) (k : Nat) (w : List Word) : (s.taskLoad k w).taskState k = tREADY := by
  rw [State.taskLoad_eq, State.taskState_makeReady]

@[simp] theorem State.level_taskLoad (s : State) (k : Nat) (w : List Word) : (s.taskLoad k w).level k = wf w 0 10 5 := by
  rw [State.level, State.taskLoad_eq, State.get_makeReady_field _ _ rfl (by decide) (by decide),
    State.get_set_field _ F.tugTaskState_cause F.tugTaskState_level k 0 rfl (by decide) (by decide), State.get_set_self _ _ _ _ (by decide)]
  exact Nat.mod_mod _ _

/-- Loading a task changes of its TASK_STATE register the state, the level and the cause alone. -/
theorem State.get_taskLoad_field (s : State) (k : Nat) (w : List Word) {f : Fld} (hr : f.reg = .tugTaskState) (hlo : 8 ≤ f.lo)
    (hcause : f.lo + f.len ≤ 20 ∨ 22 ≤ f.lo) (hlen : f.lo + f.len ≤ 320) : (s.taskLoad k w).get f k = s.get f k := by
  rw [State.taskLoad_eq, State.get_makeReady_field _ _ hr (by omega) hlen, State.get_set_field _ F.tugTaskState_cause f k 0 hr hlen hcause,
    State.get_set_field _ F.tugTaskState_level f k _ hr hlen (.inr hlo), State.get_setTask]

@[simp] theorem State.taskHandle_taskLoad (s : State) (k : Nat) (w : List Word) : (s.taskLoad k w).taskHandle k = s.taskHandle k := by
  rw [State.taskHandle, State.get_taskLoad_field _ _ _ rfl (by decide) (by decide) (by decide), State.taskHandle]

/-! ### TASK.CREATE with REARM = 1 -/

/-- A control instruction that starts has the operands of its issuer. -/
theorem CtlTaken.operands {op : Nat} {iss : Issuer} {tag : BitVec 6} {w : List Word} {s : State} {c : Ctl} {s1 : State}
    (h : CtlTaken op iss tag w s c s1) : c.w = w := by
  rw [h.ctl]
  exact (s.directCtl_fresh iss op tag.toNat w).2.2.2

/-- A re-arm of a descriptor that is allowed is decided by the task's state. -/
theorem opTaskCreate_rearm {iss : Issuer} {c : Ctl} {s : State} (hdescr : taskBad c.w = none) (hrearm : wb c.w 0 9 = true) :
    opTaskCreate iss c s =
      if s.taskState (wf c.w 0 0 9) ≠ tCANCELLED then ctlBad s 0
      else ctlOk (s.taskLoad (wf c.w 0 0 9) c.w) [s.taskHandle (wf c.w 0 0 9)] := by
  simp only [opTaskCreate, hdescr, hrearm, if_true]

theorem exec_taskRearm (iss : Issuer) (tag : BitVec 6) (w : List Word) (s : State) :
    exec (.taskRearm iss tag w) s = .next (s.direct iss 0x100 tag (w0With 9 1 1 w)) := rfl

/-- Settles O50: the row sets REARM in the descriptor, so the task's state decides; loading a task leaves its generation and flags. -/
theorem rearmedTasks : Obligations.RearmedTasks := by
  intro iss tag w s c s1 v k h hdescr
  have hw : w ≠ [] := by
    have hwords : 4 ≤ v.length := h.words _ rfl
    rw [w0With_length] at hwords
    exact List.ne_nil_of_length_pos (by omega)
  have hrearm : wb v 0 9 = true := by rw [wb, wf_w0With 1 hw (by decide)]; rfl
  have hrun := opTaskCreate_rearm (iss := iss) (c := c) (s := s1) (by rwa [h.operands]) (by rwa [h.operands])
  rw [h.operands] at hrun
  refine ⟨fun hstate => ?_, fun hstate => ?_⟩
  · rw [if_pos hstate] at hrun
    rw [exec_taskRearm, State.direct_issues h rfl hrun]
  · rw [if_neg (not_not_intro hstate)] at hrun
    have hflags : (s1.taskLoad k v).get F.tugTaskState_flags k = s1.get F.tugTaskState_flags k :=
      State.get_taskLoad_field _ _ _ rfl (by decide) (by decide) (by decide)
    have haff : ((s1.taskLoad k v).task k).aff.toNat = wf v 0 18 16 := by
      rw [State.task_taskLoad]
      exact Nat.mod_mod _ _
    refine ⟨?_, State.taskHandle_taskLoad .., hflags, State.taskState_taskLoad .., ?_, ?_, State.level_taskLoad .., ?_, haff⟩
    · rw [exec_taskRearm, State.direct_issues h rfl hrun, State.taskHandle_taskLoad]
      rfl
    all_goals rw [State.task_taskLoad]; rfl

end Sys2Proof.Machine
end

section
/-!
PROOFS. SYS.MODE (Table 15.2): SERVICE requested from MOORED (R427), and the exit from SAFE HARBOUR (R443, R444).
-/
namespace Sys2Proof.Machine

/-! ### Pausing -/

/-- Counting leaves every other register alone. -/
theorem State.get_bump_reg (s : State) {f g : Fld} (i j : Nat) (h : g.reg ≠ f.reg) : (s.bump f i).get g j = s.get g j :=
  State.get_set_reg s f g i j _ (.inl h)

theorem State.get_bumpIf_reg (s : State) (b : Bool) {f g : Fld} (i j : Nat) (h : g.reg ≠ f.reg) :
    (s.bumpIf b f i).get g j = s.get g j := by
  cases b with
  | false => rfl
  | true => exact State.get_bump_reg s i j h

@[simp] theorem State.get_emit (s : State) (e : OutEv) (f : Fld) (i : Nat) : (s.emit e).get f i = s.get f i := rfl
@[simp] theorem State.get_setPortSt (s : State) (p : Nat) (v : PortSt) (f : Fld) (i : Nat) : (s.setPortSt p v).get f i = s.get f i := rfl

/-- A flow-control frame is counted in one of two counters; no other register changes (R281). -/
theorem State.get_sendFlow (s : State) (p : Nat) (mask : BitVec 8) (quanta : List Nat) {f : Fld} (i : Nat)
    (hpause : f.reg ≠ .portCntTxPause) (hpfc : f.reg ≠ .portCntTxPfc) : (s.sendFlow p mask quanta).get f i = s.get f i := by
  unfold State.sendFlow
  split
  · rfl
  · split
    · rw [State.get_bump_reg _ _ _ hpause, State.get_emit]
    · exact List.foldlRecOn (motive := fun t => t.get f i = s.get f i) _ _ (State.get_emit ..) fun t ht _ _ =>
        (State.get_bumpIf_reg t _ (f := F.portCntTxPfc) _ _ hpfc).trans ht
    · rfl

theorem State.get_xoffUpdate (s : State) (p : Nat) {f : Fld} (i : Nat) (hpause : f.reg ≠ .portCntTxPause)
    (hpfc : f.reg ≠ .portCntTxPfc) : (s.xoffUpdate p).get f i = s.get f i := by
  unfold State.xoffUpdate
  extract_lets st now chg q ref t
  have ht : t.get f i = s.get f i := State.get_setPortSt ..
  have hsend : ∀ mask quanta, (t.sendFlow p mask quanta).get f i = s.get f i :=
    fun mask quanta => (State.get_sendFlow t p mask quanta i hpause hpfc).trans ht
  split
  · rfl
  · split
    · split
      · exact hsend _ _
      · split
        · exact hsend _ _
        · exact ht
    · exact hsend _ _

/-- A change of PAUSED may send XOFF frames; apart from their counters it writes PAUSED alone (R429). -/
theorem State.get_setPaused (s : State) (mask : Nat) {f : Fld} (i : Nat) (hpause : f.reg ≠ .portCntTxPause)
    (hpfc : f.reg ≠ .portCntTxPfc) : (s.setPaused mask).get f i = (s.set F.sysMode_paused 0 (mask % 65536)).get f i :=
  List.foldlRecOn (motive := fun t => t.get f i = (s.set F.sysMode_paused 0 (mask % 65536)).get f i) _ _ rfl
    fun t ht p _ => (State.get_xoffUpdate t p i hpause hpfc).trans ht

theorem State.paused_setPaused (s : State) (mask : Nat) : (s.setPaused mask).get F.sysMode_paused 0 = mask % 65536 := by
  rw [State.get_setPaused _ _ _ (by decide) (by decide), State.get_set_self _ _ _ _ (by decide)]
  exact Nat.mod_mod _ _

theorem State.hbor_setPaused (s : State) (mask : Nat) : (s.setPaused mask).hbor = s.hbor :=
  State.setPaused_keeps.frame.hbor.resolve_left (by decide)

/-- The exit from SAFE HARBOUR pauses every quay, whatever the request's mask (R443, R444 step 1). -/
theorem State.paused_exitStart (s : State) (target : Nat) (iss : Issuer) : (s.exitStart target iss).get F.sysMode_paused 0 = 0xFFFF :=
  State.paused_setPaused _ _

/-- The exit keeps its target, and the harbour plane drains for DRAIN_US at most (R444 step 2). -/
theorem State.hbor_exitStart (s : State) (target : Nat) (iss : Issuer) : (s.exitStart target iss).hbor =
    { s.hbor with draining := some (s.ns + s.get F.hborCfg_drainUs 0 * 1000), exitTo := target } :=
  State.hbor_setPaused _ _

theorem State.modeNo_setMode (s : State) (m : Nat) : (s.setMode m).modeNo = m % 8 := State.get_set_self _ _ _ _ (by decide)

/-! ### What a request gives (Table 15.2)

The target is a literal, so the tests of `modeAsk` on it compute; what is left to decide is the mode and what bars the request. -/

/-- `emptyCounts` before it looks whether a RETIRING generation has become SHADOW (R137, R427). -/
def State.zeroCounts (s : State) : State :=
  let s := { s with tab := { s.tab with frag := [] }, eng := { s.eng with flights := [] } }
  (s.setInflight false 0).setInflight true 0

theorem State.emptyCounts_eq (s : State) : s.emptyCounts = (s.zeroCounts.retireCheck false).retireCheck true := rfl

theorem State.inflight_zeroCounts (s : State) : ∀ g, s.zeroCounts.inflight g = 0
  | false => (State.get_set_reg _ F.tblGenInflight1_count F.tblGenInflight0_count _ _ _ (.inl (by decide))).trans
      (State.get_set_self _ F.tblGenInflight0_count _ _ (by decide))
  | true => State.get_set_self _ F.tblGenInflight1_count _ _ (by decide)

theorem State.hbmFailed_iff (s : State) : s.hbmFailed = true ↔ s.get F.sysStatus_hbmFail 0 ≠ 0 := bne_iff_ne

/-- SERVICE from MOORED is refused while a stack has failed or a cause is set (R427). -/
theorem State.modeAsk_service {s : State} (hmode : s.modeNo = mMOORED) (mask : Nat) (iss : Issuer) : s.modeAsk mSERVICE mask iss =
    if s.hbmFailed = true ∨ s.get F.sysHborCause_cause 0 ≠ 0 then .no stBAD_MODE else .done (s.emptyCounts.setMode mSERVICE) :=
  if_pos hmode

/-- SLACK from SAFE HARBOUR is refused while a cause is set (R443). -/
theorem State.modeAsk_slack {s : State} (hmode : s.modeNo = mHARBOUR) (mask : Nat) (iss : Issuer) : s.modeAsk mSLACK mask iss =
    if s.get F.sysHborCause_cause 0 = 0 then .wait (s.exitStart mSLACK iss) else .no stBAD_MODE := by
  have hforwarding : ¬(s.modeNo = mSERVICE ∨ s.modeNo = mSLACK) := by rw [hmode]; decide
  exact (if_neg hforwarding).trans (ite_congr (propext (and_iff_right hmode)) (fun _ => rfl) (fun _ => rfl))

/-- MOORED from SAFE HARBOUR is refused while a cause is set (R443). -/
theorem State.modeAsk_moored {s : State} (hmode : s.modeNo = mHARBOUR) (mask : Nat) (iss : Issuer) : s.modeAsk mMOORED mask iss =
    if s.get F.sysHborCause_cause 0 = 0 then .wait (s.exitStart mMOORED iss) else .no stBAD_MODE := by
  have hdrydock : ¬s.modeNo = mDRYDOCK := by rw [hmode]; decide
  have hforwarding : ¬(s.modeNo = mSERVICE ∨ s.modeNo = mSLACK) := by rw [hmode]; decide
  exact (if_neg hdrydock).trans ((if_neg hforwarding).trans (ite_congr (propext (and_iff_right hmode)) (fun _ => rfl) (fun _ => rfl)))

/-- Both exits from SAFE HARBOUR are decided by the causes alone (R443). -/
theorem State.modeAsk_harbour {s : State} (hmode : s.modeNo = mHARBOUR) {goal : Nat} (hgoal : goal = mSLACK ∨ goal = mMOORED) (mask : Nat)
    (iss : Issuer) : s.modeAsk goal mask iss =
      if s.get F.sysHborCause_cause 0 = 0 then .wait (s.exitStart goal iss) else .no stBAD_MODE := by
  rcases hgoal with rfl | rfl
  · exact s.modeAsk_slack hmode mask iss
  · exact s.modeAsk_moored hmode mask iss

/-! ### SYS.MODE -/

/-- What SYS.MODE makes of the answer to a request of a mode other than HALT. -/
def Ask.out (s : State) (c : Ctl) : Ask → CtlOut
  | .no st => if st = stBAD_PARAM then ctlBad s 0 else ctlEnd s st
  | .done t => ctlOk t [t.modeNo]
  | .wait t => ctlWait t c

section request
variable {iss : Issuer} {tag : BitVec 6} {w : List Word} {s s1 : State} {c : Ctl} {goal : Nat}

/-- SYS.MODE whose row fixes its target asks for that mode, where no transition is under way. -/
theorem CtlIssues.opSysMode_eq (h : CtlIssues 0x00C iss tag (w0With 0 3 goal w) s c s1) (htrans : s1.mode.trans = none)
    (hgoal : goal < mHALT) : opSysMode iss c s1 = (s1.modeAsk goal (wf c.w 0 16 16) iss).out s1 c := by
  have hw : w ≠ [] := by
    have hwords : 1 ≤ (w0With 0 3 goal w).length := h.words _ rfl
    rw [w0With_length] at hwords
    exact List.ne_nil_of_length_pos hwords
  have htarget : wf c.w 0 0 3 = goal := by
    rw [h.operands, wf_w0With goal hw (by decide)]
    exact Nat.mod_eq_of_lt (Nat.lt_succ_of_lt hgoal)
  have hnew : c.started = false := h.ctl ▸ (s.directCtl_fresh iss 0x00C tag.toNat _).2.1
  unfold opSysMode
  rw [htarget, hnew, htrans]
  cases s1.modeAsk goal (wf c.w 0 16 16) iss with
  | no st => rfl
  | done t => rfl
  | wait t => exact if_neg (Nat.ne_of_lt hgoal)

end request

theorem exec_sysModeService (iss : Issuer) (tag : BitVec 6) (w : List Word) (s : State) :
    exec (.sysModeService iss tag w) s = .next (s.direct iss 0x00C tag (w0With 0 3 mSERVICE w)) := rfl

/-- The rows of the exits from SAFE HARBOUR fix their targets. -/
theorem exec_exits (iss : Issuer) (tag : BitVec 6) (w : List Word) (s : State) :
    ∀ r ∈ [(Instr.sysModeSlack, mSLACK), (.sysModeMoored, mMOORED)],
      (r.2 = mSLACK ∨ r.2 = mMOORED) ∧ exec (r.1 iss tag w) s = .next (s.direct iss 0x00C tag (w0With 0 3 r.2 w)) := by
  rw [List.forall_mem_cons, List.forall_mem_singleton]
  exact ⟨⟨.inl rfl, rfl⟩, ⟨.inr rfl, rfl⟩⟩

/-- Settles O43: Table 15.2's answer to the request, which the cause decides, is what SYS.MODE completes or parks with (R427, R443). -/
theorem requestsOfMode : Obligations.RequestsOfMode := by
  intro iss tag w s c s1 htrans cause
  refine ⟨fun h hmode => ⟨fun hbad => ?_, fun hfail hcause => ?_⟩, fun r hr h hmode => ?_⟩
  · have hrun := h.opSysMode_eq htrans (by decide)
    rw [← State.hbmFailed_iff] at hbad
    rw [State.modeAsk_service hmode, if_pos hbad] at hrun
    rw [exec_sysModeService, State.direct_issues h rfl hrun]
  · have hrun := h.opSysMode_eq htrans (by decide)
    have hworks : ¬s1.hbmFailed = true := fun hf => s1.hbmFailed_iff.1 hf hfail
    rw [State.modeAsk_service hmode, if_neg (not_or.2 ⟨hworks, not_not_intro hcause⟩)] at hrun
    refine ⟨s1.zeroCounts, rfl, s1.inflight_zeroCounts _, s1.inflight_zeroCounts _, State.modeNo_setMode .., ?_⟩
    rw [exec_sysModeService, State.direct_issues h rfl hrun, State.modeNo_setMode]
    rfl
  · obtain ⟨hgoal, hexec⟩ := exec_exits iss tag w s r hr
    rw [hexec]
    have hrun := h.opSysMode_eq htrans (by rcases hgoal with e | e <;> rw [e] <;> decide)
    rw [State.modeAsk_harbour hmode hgoal] at hrun
    refine ⟨fun hcause => ?_, fun hcause => ?_⟩
    · rw [if_neg hcause] at hrun
      rw [State.direct_issues h rfl hrun]
    · rw [if_pos hcause] at hrun
      refine ⟨s1.exitStart r.2 iss, by rw [State.direct_parks h rfl hrun], State.paused_exitStart .., ?_⟩
      rw [State.hbor_exitStart]
      exact ⟨rfl, rfl⟩

end Sys2Proof.Machine
end

section
/-!
PROOFS. What every command keeps (chapter 95), the state after reset, and words that spell instructions.
-/
namespace Sys2Proof.Machine

/-! ### What every command keeps -/

/-- A command that keeps some parts of the state is one that may change every part. -/
theorem KeepsOut.whole {m : Nat} {s : State} {o : Outc} (h : KeepsOut m s o) (hm : m ||| 524287 = 524287 := by rfl) : KeepsOut 524287 s o :=
  h.step hm Keeps.refl

/-- What every command keeps: one lemma per command (Laws/), under the mask that names every part. -/
theorem exec_keeps (i : Instr) (s : State) : KeepsOut 524287 s (exec i s) := by
  cases i with
  | frameRxStart => exact execFrameRxStart_keeps.whole
  | frameRxEnd => exact execFrameRxEnd_keeps.whole
  | headDispatch => exact execHeadDispatch_keeps.whole
  | add => exact execAdd_keeps.whole
  | sub => exact execSub_keeps.whole
  | andd => exact execAndd_keeps.whole
  | orr => exact execOrr_keeps.whole
  | xor => exact execXor_keeps.whole
  | andn => exact execAndn_keeps.whole
  | shl => exact execShl_keeps.whole
  | shr => exact execShr_keeps.whole
  | sar => exact execSar_keeps.whole
  | rol => exact execRol_keeps.whole
  | minu => exact execMinu_keeps.whole
  | maxu => exact execMaxu_keeps.whole
  | min => exact execMin_keeps.whole
  | max => exact execMax_keeps.whole
  | sltu => exact execSltu_keeps.whole
  | slt => exact execSlt_keeps.whole
  | mul => exact execMul_keeps.whole
  | popc => exact execPopc_keeps.whole
  | clz => exact execClz_keeps.whole
  | bswap16 => exact execBswap16_keeps.whole
  | bswap32 => exact execBswap32_keeps.whole
  | bswap64 => exact execBswap64_keeps.whole
  | csadd => exact execCsadd_keeps.whole
  | addi => exact execAddi_keeps.whole
  | andi => exact execAndi_keeps.whole
  | ori => exact execOri_keeps.whole
  | xori => exact execXori_keeps.whole
  | shi => exact execShi_keeps.whole
  | movi => exact execMovi_keeps.whole
  | ext => exact execExt_keeps.whole
  | extc => exact execExtc_keeps.whole
  | ins => exact execIns_keeps.whole
  | insc => exact execInsc_keeps.whole
  | hdr => exact execHdr_keeps.whole
  | advc => exact execAdvc_keeps.whole
  | lkp => exact execLkp_keeps.whole
  | lookupReply => exact execLookupReply_keeps.whole
  | mtr => exact execMtr_keeps.whole
  | meterReply => exact execMeterReply_keeps.whole
  | hsh => exact execHsh_keeps.whole
  | flow => exact execFlow_keeps.whole
  | ldb => exact execLdb_keeps.whole
  | ldh => exact execLdh_keeps.whole
  | ldw => exact execLdw_keeps.whole
  | ldd => exact execLdd_keeps.whole
  | stb => exact execStb_keeps.whole
  | sth => exact execSth_keeps.whole
  | stw => exact execStw_keeps.whole
  | std => exact execStd_keeps.whole
  | ldc => exact execLdc_keeps.whole
  | stc => exact execStc_keeps.whole
  | ldcd => exact execLdcd_keeps.whole
  | stcd => exact execStcd_keeps.whole
  | amoAdd => exact execAmoAdd_keeps.whole
  | amoSwap => exact execAmoSwap_keeps.whole
  | amoOr => exact execAmoOr_keeps.whole
  | amoAnd => exact execAmoAnd_keeps.whole
  | amoCas => exact execAmoCas_keeps.whole
  | br => exact execBr_keeps.whole
  | jal => exact execJal_keeps.whole
  | jr => exact execJr_keeps.whole
  | mfs => exact execMfs_keeps.whole
  | mts => exact execMts_keeps.whole
  | ctl => exact execCtl_keeps.whole
  | nop => exact execNop_keeps.whole
  | endProg => exact execEndProg_keeps.whole
  | drop => exact execDrop_keeps.whole
  | excp => exact execExcp_keeps.whole
  | recirc => exact execRecirc_keeps.whole
  | mirror => exact execMirror_keeps.whole
  | fend => exact execFend_keeps.whole
  | waitPend => exact execWaitPend_keeps.whole
  | trap => exact execTrap_keeps.whole
  | tret => exact execTret_keeps.whole
  | fence => exact execFence_keeps.whole
  | waitf => exact execWaitf_keeps.whole
  | yield => exact execYield_keeps.whole
  | interruptTaken => exact execInterruptTaken_keeps.whole
  | flowRequestAccept => exact execFlowRequestAccept_keeps.whole
  | indexReadDone => exact execIndexReadDone_keeps.whole
  | recordReadDone => exact execRecordReadDone_keeps.whole
  | stevedoreDispatch => exact execStevedoreDispatch_keeps.whole
  | flowPassReturn => exact execFlowPassReturn_keeps.whole
  | indexWriteDone => exact execIndexWriteDone_keeps.whole
  | indexUnitMove => exact execIndexUnitMove_keeps.whole
  | ledgerAgerVisit => exact execLedgerAgerVisit_keeps.whole
  | rehashMigrate => exact execRehashMigrate_keeps.whole
  | release => exact execRelease_keeps.whole
  | replicationCopy => exact execReplicationCopy_keeps.whole
  | allocRequest => exact execAllocRequest_keeps.whole
  | cellWriteStart => exact execCellWriteStart_keeps.whole
  | enqueue => exact execEnqueue_keeps.whole
  | tmSelect => exact execTmSelect_keeps.whole
  | egressReadStart => exact execEgressReadStart_keeps.whole
  | egressCommit => exact execEgressCommit_keeps.whole
  | txComplete => exact execTxComplete_keeps.whole
  | breakwaterTick => exact execBreakwaterTick_keeps.whole
  | learnFilter => exact execLearnFilter_keeps.whole
  | emAgeTick => exact execEmAgeTick_keeps.whole
  | emAgerVisit => exact execEmAgerVisit_keeps.whole
  | fragAgeTick => exact execFragAgeTick_keeps.whole
  | lpmSpareReturn => exact execLpmSpareReturn_keeps.whole
  | tableRepair => exact execTableRepair_keeps.whole
  | meterSweep => exact execMeterSweep_keeps.whole
  | depthSampleSweep => exact execDepthSampleSweep_keeps.whole
  | gclEntryAdvance => exact execGclEntryAdvance_keeps.whole
  | gclChange => exact execGclChange_keeps.whole
  | linkUp => exact execLinkUp_keeps.whole
  | linkDown => exact execLinkDown_keeps.whole
  | calDone => exact execCalDone_keeps.whole
  | linkHoldExpiry => exact execLinkHoldExpiry_keeps.whole
  | fecDegradedTick => exact execFecDegradedTick_keeps.whole
  | pauseFrameRx => exact execPauseFrameRx_keeps.whole
  | pfcFrameRx => exact execPfcFrameRx_keeps.whole
  | pauseExpiry => exact execPauseExpiry_keeps.whole
  | pfcRefresh => exact execPfcRefresh_keeps.whole
  | pfcWdTick => exact execPfcWdTick_keeps.whole
  | lpiEnter => exact execLpiEnter_keeps.whole
  | rxLpi => exact execRxLpi_keeps.whole
  | preemptVerifySend => exact execPreemptVerifySend_keeps.whole
  | preemptVerifyResponse => exact execPreemptVerifyResponse_keeps.whole
  | measTimeout => exact execMeasTimeout_keeps.whole
  | jumpWindowEnd => exact execJumpWindowEnd_keeps.whole
  | acceptAfterExpiry => exact execAcceptAfterExpiry_keeps.whole
  | replicaLoopUpdate => exact execReplicaLoopUpdate_keeps.whole
  | ppsInEdge => exact execPpsInEdge_keeps.whole
  | ppsInLoss => exact execPpsInLoss_keeps.whole
  | ppsOutEdge => exact execPpsOutEdge_keeps.whole
  | todTxSend => exact execTodTxSend_keeps.whole
  | todRxMessage => exact execTodRxMessage_keeps.whole
  | dpllQualify => exact execDpllQualify_keeps.whole
  | dpllDisqualify => exact execDpllDisqualify_keeps.whole
  | dpllState => exact execDpllState_keeps.whole
  | txtsDrain => exact execTxtsDrain_keeps.whole
  | doorbellTail => exact execDoorbellTail_keeps.whole
  | doorbellHead => exact execDoorbellHead_keeps.whole
  | cmdDispatch => exact execCmdDispatch_keeps.whole
  | sliceEnd => exact execSliceEnd_keeps.whole
  | parkWake => exact execParkWake_keeps.whole
  | parkTimeout => exact execParkTimeout_keeps.whole
  | chanOpen => exact execChanOpen_keeps.whole
  | chanClose => exact execChanClose_keeps.whole
  | chanInfo => exact execChanInfo_keeps.whole
  | cmdAbort => exact execCmdAbort_keeps.whole
  | cmdWait => exact execCmdWait_keeps.whole
  | barrier => exact execBarrier_keeps.whole
  | getReg => exact execGetReg_keeps.whole
  | setReg => exact execSetReg_keeps.whole
  | setMasked => exact execSetMasked_keeps.whole
  | setm => exact execSetm_keeps.whole
  | sysModeMoored => exact execSysModeMoored_keeps.whole
  | sysModeService => exact execSysModeService_keeps.whole
  | sysModeSlack => exact execSysModeSlack_keeps.whole
  | sysModeDrydock => exact execSysModeDrydock_keeps.whole
  | sysModeHalt => exact execSysModeHalt_keeps.whole
  | harbour => exact execHarbour_keeps.whole
  | emInsert => exact execEmInsert_keeps.whole
  | emDelete => exact execEmDelete_keeps.whole
  | emUpdate => exact execEmUpdate_keeps.whole
  | emSearch => exact execEmSearch_keeps.whole
  | emNext => exact execEmNext_keeps.whole
  | emFlushPort => exact execEmFlushPort_keeps.whole
  | lpmInsert => exact execLpmInsert_keeps.whole
  | lpmDelete => exact execLpmDelete_keeps.whole
  | lpmSearch => exact execLpmSearch_keeps.whole
  | lpmNext => exact execLpmNext_keeps.whole
  | tcamWrite => exact execTcamWrite_keeps.whole
  | tcamRead => exact execTcamRead_keeps.whole
  | tcamClear => exact execTcamClear_keeps.whole
  | objWrite => exact execObjWrite_keeps.whole
  | objRead => exact execObjRead_keeps.whole
  | progLoad => exact execProgLoad_keeps.whole
  | genSwap => exact execGenSwap_keeps.whole
  | flowRead => exact execFlowRead_keeps.whole
  | flowWrite => exact execFlowWrite_keeps.whole
  | flowDelete => exact execFlowDelete_keeps.whole
  | flowPin => exact execFlowPin_keeps.whole
  | flowUnpin => exact execFlowUnpin_keeps.whole
  | flowNext => exact execFlowNext_keeps.whole
  | ledgerRehash => exact execLedgerRehash_keeps.whole
  | tmShaper => exact execTmShaper_keeps.whole
  | tmGcl => exact execTmGcl_keeps.whole
  | timeMeas => exact execTimeMeas_keeps.whole
  | timeMaster => exact execTimeMaster_keeps.whole
  | timeAcceptStep => exact execTimeAcceptStep_keeps.whole
  | timeAcceptSlew => exact execTimeAcceptSlew_keeps.whole
  | timeAcceptKeep => exact execTimeAcceptKeep_keeps.whole
  | timeXgOpen => exact execTimeXgOpen_keeps.whole
  | timeXgClose => exact execTimeXgClose_keeps.whole
  | logSeal => exact execLogSeal_keeps.whole
  | logPartOpen => exact execLogPartOpen_keeps.whole
  | logPartClose => exact execLogPartClose_keeps.whole
  | taskCreate => exact execTaskCreate_keeps.whole
  | taskRearm => exact execTaskRearm_keeps.whole
  | taskCancel => exact execTaskCancel_keeps.whole
  | taskSignal => exact execTaskSignal_keeps.whole
  | mboxPost => exact execMboxPost_keeps.whole
  | bufAlloc => exact execBufAlloc_keeps.whole
  | bufFree => exact execBufFree_keeps.whole
  | bufGive => exact execBufGive_keeps.whole
  | ucodePatch => exact execUcodePatch_keeps.whole
  | ucodeInfo => exact execUcodeInfo_keeps.whole
  | taskPlace => exact execTaskPlace_keeps.whole
  | contextSwitch => exact execContextSwitch_keeps.whole
  | delayListExpiry => exact execDelayListExpiry_keeps.whole
  | send0 => exact execSend0_keeps.whole
  | send1 => exact execSend1_keeps.whole
  | recv0 => exact execRecv0_keeps.whole
  | recv1 => exact execRecv1_keeps.whole
  | exqHeadWrite => exact execExqHeadWrite_keeps.whole
  | wdKick => exact execWdKick_keeps.whole
  | timerWrite => exact execTimerWrite_keeps.whole
  | timerExpiry => exact execTimerExpiry_keeps.whole
  | ipi => exact execIpi_keeps.whole
  | coreWdExpiry => exact execCoreWdExpiry_keeps.whole
  | syswdKick => exact execSyswdKick_keeps.whole
  | syswdExpiry => exact execSyswdExpiry_keeps.whole
  | pmcSnapshot => exact execPmcSnapshot_keeps.whole
  | pmcSampleHead => exact execPmcSampleHead_keeps.whole
  | rxpDelivery => exact execRxpDelivery_keeps.whole
  | rxpStallExpiry => exact execRxpStallExpiry_keeps.whole
  | txpFetch => exact execTxpFetch_keeps.whole
  | evtHoldRelease => exact execEvtHoldRelease_keeps.whole
  | evtHoldExpiry => exact execEvtHoldExpiry_keeps.whole
  | recEntryServe => exact execRecEntryServe_keeps.whole
  | msixSend => exact execMsixSend_keeps.whole
  | msixUnmask => exact execMsixUnmask_keeps.whole
  | dmaReadError => exact execDmaReadError_keeps.whole
  | functionLevelReset => exact execFunctionLevelReset_keeps.whole
  | vfEnableClear => exact execVfEnableClear_keeps.whole
  | busMasterDisable => exact execBusMasterDisable_keeps.whole
  | bar4Access => exact execBar4Access_keeps.whole
  | hostErrStatusClear => exact execHostErrStatusClear_keeps.whole
  | logCapture => exact execLogCapture_keeps.whole
  | sealMsExpiry => exact execSealMsExpiry_keeps.whole
  | sealSign => exact execSealSign_keeps.whole
  | chunkWriteDone => exact execChunkWriteDone_keeps.whole
  | segmentFlushDone => exact execSegmentFlushDone_keeps.whole
  | driveWriteFail => exact execDriveWriteFail_keeps.whole
  | logScanDone => exact execLogScanDone_keeps.whole
  | resetAssert => exact execResetAssert_keeps.whole
  | resetRelease => exact execResetRelease_keeps.whole
  | dpll0Stable => exact execDpll0Stable_keeps.whole
  | bootComplete => exact execBootComplete_keeps.whole
  | bootError => exact execBootError_keeps.whole
  | sysReset => exact execSysReset_keeps.whole
  | harbourNAssert => exact execHarbourNAssert_keeps.whole
  | harbourNDeassert => exact execHarbourNDeassert_keeps.whole
  | harbourEntry => exact execHarbourEntry_keeps.whole
  | hborFrameRx => exact execHborFrameRx_keeps.whole
  | hborLaunch => exact execHborLaunch_keeps.whole
  | hborDrainExpiry => exact execHborDrainExpiry_keeps.whole
  | harbourExitComplete => exact execHarbourExitComplete_keeps.whole
  | slackQuiesced => exact execSlackQuiesced_keeps.whole
  | slackTimeout => exact execSlackTimeout_keeps.whole
  | haltEntry => exact execHaltEntry_keeps.whole
  | hborBankSwitch => exact execHborBankSwitch_keeps.whole
  | hborBankCheckDone => exact execHborBankCheckDone_keeps.whole
  | sysHborCauseClear => exact execSysHborCauseClear_keeps.whole
  | drydockBistStart => exact execDrydockBistStart_keeps.whole
  | drydockBistDone => exact execDrydockBistDone_keeps.whole
  | pwrOkLoss => exact execPwrOkLoss_keeps.whole
  | thermtrip => exact execThermtrip_keeps.whole
  | tempAlarm => exact execTempAlarm_keeps.whole
  | avsCommand => exact execAvsCommand_keeps.whole
  | scrubVisit => exact execScrubVisit_keeps.whole
  | sealStormTick => exact execSealStormTick_keeps.whole
  | corrRateTick => exact execCorrRateTick_keeps.whole
  | sealStart => exact execSealStart_keeps.whole
  | sealRangeDone => exact execSealRangeDone_keeps.whole
  | sealData => exact execSealData_keeps.whole
  | sealFinal => exact execSealFinal_keeps.whole
  | sealReset => exact execSealReset_keeps.whole
  | sealRunningWrite => exact execSealRunningWrite_keeps.whole
  | secArbAdvance => exact execSecArbAdvance_keeps.whole
  | ownerSlotProgram => exact execOwnerSlotProgram_keeps.whole
  | ownerRevoke => exact execOwnerRevoke_keeps.whole
  | debugLock => exact execDebugLock_keeps.whole
  | attestationStart => exact execAttestationStart_keeps.whole
  | attestationDone => exact execAttestationDone_keeps.whole
  | debugOpen => exact execDebugOpen_keeps.whole
  | quayFragFlush => exact execQuayFragFlush_keeps.whole
  | quayBwCfgWrite => exact execQuayBwCfgWrite_keeps.whole
  | egrMirrorCfgWrite => exact execEgrMirrorCfgWrite_keeps.whole
  | tmLatCfgWrite => exact execTmLatCfgWrite_keeps.whole
  | tmLatCountRead => exact execTmLatCountRead_keeps.whole
  | timeNowRead => exact execTimeNowRead_keeps.whole
  | txtsDataRead => exact execTxtsDataRead_keeps.whole
  | logEnable => exact execLogEnable_keeps.whole
  | driveReady => exact execDriveReady_keeps.whole
  | cmdEngineUnfence => exact execCmdEngineUnfence_keeps.whole
  | mboxEnable => exact execMboxEnable_keeps.whole
  | counterReadClear => exact execCounterReadClear_keeps.whole
  | registerWrite => exact execRegisterWrite_keeps.whole
  | illegalInstruction => exact execIllegalInstruction_keeps.whole
  | linkConditionsMet => exact execLinkConditionsMet_keeps.whole
  | linkConditionFailed => exact execLinkConditionFailed_keeps.whole
  | thermtripClear => exact execThermtripClear_keeps.whole
  | hbmStackLost => exact (execHbmStackLost_keeps (arg1 := false)).whole
  | cryptoSelfTestFail => exact execCryptoSelfTestFail_keeps.whole
  | qualityTrained => exact execQualityTrained_keeps.whole
  | degradeAfterExpiry => exact execDegradeAfterExpiry_keeps.whole
  | holdReady => exact execHoldReady_keeps.whole
  | recReadComplete => exact execRecReadComplete_keeps.whole
  | retentionExpiry => exact execRetentionExpiry_keeps.whole
  | driveLinked => exact execDriveLinked_keeps.whole
  | driveRemoved => exact execDriveRemoved_keeps.whole

/-- Settles O5: what every command keeps. -/
theorem commandsKeepTheQueueAndTheTrace : Obligations.CommandsKeepTheQueueAndTheTrace := fun i s t h =>
  have hkeeps := exec_keeps i s t h
  ⟨hkeeps.pending, hkeeps.out, hkeeps.free⟩

/-- Settles O4: the command at the front keeps the canonical form, and so does a cycle of TIME_CLK. -/
theorem everyStepKeepsTheCanonicalForm : Obligations.EveryStepKeepsTheCanonicalForm := by
  intro s t hs hstep
  unfold step at hstep
  split at hstep
  · cases hstep
    exact State.tick_keeps.canonical hs
  · next c rest _ => exact (exec_keeps c { s with pending := rest } t hstep).canonical ⟨hs.regs, hs.dmem, hs.hbm, hs.hostMem⟩

/-- Settles O1: `step` on a queue that holds a command. -/
theorem stepRunsTheFrontCommand : Obligations.StepRunsTheFrontCommand := by
  intro c rest s h
  unfold step
  rw [h]

/-! ### The state after reset -/

/-- Settles O3: in the state after reset every table is empty, so every read gives the default. -/
theorem resetState : Obligations.ResetState :=
  ⟨by decide +kernel, rfl, rfl, rfl, fun _ => rfl, fun x r => by unfold State.g; split <;> rfl, fun _ _ => rfl, fun _ => ⟨rfl, rfl, rfl⟩,
    ⟨rfl, rfl, rfl, rfl⟩⟩

/-! ### Words -/

/-- Settles O23: the words are literals, whose fields compute; what is left to choose is the context. -/
theorem wordsSpellTheirInstructions : Obligations.WordsSpellTheirInstructions := by
  refine ⟨fun x => ⟨rfl, rfl, ?_⟩, fun t => ⟨rfl, rfl, rfl⟩⟩
  cases x <;> rfl

end Sys2Proof.Machine
end

section
/-!
PROOFS. The F-I group (R39), what fields read and write (R40), HDR and ADVC (R42, R43), EXT and INS (R40, R41).
-/
namespace Sys2Proof.Machine

/-! ### The F-I group -/

/-- A word that issues also issues as one that uses fewer registers. -/
theorem Issues.of_subset {x : CtxId} {cost : Nat} {uses fewer : List RegNo} {s : State} {c : Ctx} (h : Issues x cost uses s c)
    (hsub : fewer ⊆ uses) : Issues x cost fewer s c := by
  refine { h with ready := ?_ }
  have hready := h.ready
  simp only [isPending, List.any_eq_false, List.contains_iff_mem] at hready ⊢
  exact fun p hp hmem => hready p hp (hsub hmem)

/-- Bits [7:6] of the immediate choose the shift and bits [5:0] are its amount. -/
theorem shiftKind_imm {imm : BitVec 16} (h : imm.toNat < 256) (a : Word) : shiftKind (immBits imm 6 2) a (immBits imm 0 6) =
    let n := imm.toNat % 64
    if imm.toNat < 64 then a <<< n else if imm.toNat < 128 then a >>> n else if imm.toNat < 192 then a.sshiftRight n else a.rotateLeft n := by
  have hkind : immBits imm 6 2 = imm.toNat / 64 := by
    rw [immBits, BitVec.extractLsb'_toNat, Nat.shiftRight_eq_div_pow]
    exact Nat.mod_eq_of_lt (by omega)
  have hamount : immBits imm 0 6 = imm.toNat % 64 := by rw [immBits, BitVec.extractLsb'_toNat, Nat.shiftRight_zero]
  rw [hkind, hamount]
  obtain hk | hk | hk | hk : imm.toNat / 64 = 0 ∨ imm.toNat / 64 = 1 ∨ imm.toNat / 64 = 2 ∨ imm.toNat / 64 = 3 := by omega
  all_goals rw [hk]; dsimp only
  · rw [if_pos (by omega)]; rfl
  · rw [if_neg (by omega), if_pos (by omega)]; rfl
  · rw [if_neg (by omega), if_neg (by omega), if_pos (by omega)]; rfl
  · rw [if_neg (by omega), if_neg (by omega), if_neg (by omega)]; rfl

/-- Each instruction of the F-I group is the immediate operation of its row's function, on the immediates that it takes. -/
theorem exec_immTable : ∀ p ∈ immTable, ∀ ra imm, p.2.1 ra imm → ∃ (mn : String) (uses : RegNo → List RegNo), (∀ rd, uses rd ⊆ [rd, ra]) ∧
    ∀ x rd s, exec (p.1 x rd ra imm) s = immOp mn true (uses rd) (p.2.2 ra imm) x rd ra s := by
  simp only [immTable, List.forall_mem_cons]
  refine ⟨?addi, ?andi, ?ori, ?xori, ?shi, ?movi, List.forall_mem_nil _⟩ <;> intro ra imm h
  case shi =>
    refine ⟨"SHI", fun rd => [rd, ra], fun _ => List.Subset.refl _, fun x rd s => ?_⟩
    change immOp "SHI" (decide (imm.toNat < 256)) [rd, ra] (fun _ a => shiftKind (immBits imm 6 2) a (immBits imm 0 6)) x rd ra s = _
    rw [decide_eq_true h]
    simp only [shiftKind_imm h]
  case movi =>
    refine ⟨"MOVI", fun rd => [rd], fun _ => List.cons_subset_cons _ (List.nil_subset _), fun x rd s => ?_⟩
    change immOp "MOVI" (decide (ra.val < 8)) [rd] (fun old _ => moviVal ra imm old) x rd ra s = _
    rw [decide_eq_true h]
    rfl
  all_goals exact ⟨_, fun rd => [rd, ra], fun _ => List.Subset.refl _, fun _ _ _ => rfl⟩

/-- Settles O8: an immediate operation runs its function in each place that an instruction may issue in. -/
theorem immediatesWriteTheirFunction : Obligations.ImmediatesWriteTheirFunction := by
  intro p hp rd ra imm s himm
  obtain ⟨mn, uses, hsub, hexec⟩ := exec_immTable p hp ra imm himm
  refine ⟨fun x c h => ?_, fun t h => ?_, fun c hopen => ?_⟩
  · rw [hexec, immOp, issue_engine (h.of_subset (hsub rd)), State.g_setCtx, State.g_setCtx]
  · rw [hexec]
    exact congrArg Host.Outcome.next (State.tugRun_of h _)
  · rw [hexec]
    exact congrArg Host.Outcome.next (if_pos hopen)

/-! ### What a field reads and writes -/

theorem getLsbD_zextN (v : Word) (w k : Nat) (hk : k < 64) : (zextN v w).getLsbD k = (decide (k < w) && v.getLsbD k) := by
  unfold zextN
  split
  · simp [show k < w by omega]
  · rw [BitVec.getLsbD_and, BitVec.getLsbD_ofNat, Nat.testBit_two_pow_sub_one, Bool.and_comm]
    simp [hk]

theorem getLsbD_sextN (v : Word) {w k : Nat} (hw : 0 < w) (hk : k < 64) : (sextN v w).getLsbD k = v.getLsbD (if k < w then k else w - 1) := by
  unfold sextN
  split
  · rw [if_pos (by omega)]
  · next h =>
    rw [BitVec.getLsbD_sshiftRight, BitVec.msb_eq_getLsbD_last]
    simp only [BitVec.getLsbD_shiftLeft]
    by_cases hkw : k < w
    · simp [hkw, show ¬64 ≤ k by omega, show 64 - w + k < 64 by omega]
    · simp [hkw, show ¬64 ≤ k by omega, show ¬64 - w + k < 64 by omega, show ¬(63 : Nat) < 64 - w by omega, show 63 - (64 - w) = w - 1 by omega]

/-- What an extract gives: the field's bits, and above them its top bit or zeros (R40). -/
theorem getLsbD_fopExtend (f : FieldOp) (v : Word) {k : Nat} (hk : k < 64) : (fopExtend f v).getLsbD k =
    if k < f.wm1.toNat + 1 then v.getLsbD k else f.sx && v.getLsbD f.wm1.toNat := by
  unfold fopExtend fopWidth
  cases hsx : f.sx with
  | true =>
    rw [if_pos rfl, getLsbD_sextN _ (Nat.succ_pos _) hk]
    split <;> simp
  | false =>
    rw [if_neg Bool.false_ne_true, getLsbD_zextN _ _ _ hk]
    split <;> simp [*]

/-- Bit `k` of a field in wire order. -/
theorem getLsbD_fieldBe {n : Nat} (v : BitVec n) (first : Nat) {w k : Nat} (hk : k < w) (hw : w ≤ 64) :
    (fieldBe v first w).getLsbD k = wireField v first w k := by
  unfold fieldBe wireField
  simp only [BitVec.getLsbD_setWidth, BitVec.getLsbD_extractLsb', BitVec.getLsbD_append, hk, show k < 64 by omega, decide_true, Bool.true_and]
  by_cases hin : first + w - 1 - k < n
  · rw [if_neg (by omega), show n + 128 - first - w + k - 128 = n - 1 - (first + w - 1 - k) by omega]
    simp [hin]
  · rw [if_pos (by omega)]
    simp [hin]

/-- Bit `k` of a little-endian field. -/
theorem getLsbD_fieldLe {n : Nat} (v : BitVec n) (first : Nat) {w k : Nat} (hk : k < w) (hw : w ≤ 64) :
    (fieldLe v first w).getLsbD k = v.getLsbD (first + k) := by
  simp [fieldLe, hk, show k < 64 by omega]

theorem getLsbD_putLe {n : Nat} (v : BitVec n) (first w : Nat) (x : Word) {k : Nat} (hk : k < n) :
    (putLe v first w x).getLsbD k = if first ≤ k ∧ k < first + w then x.getLsbD (k - first) else v.getLsbD k :=
  getLsbD_putBits v first w x.toNat k hk

theorem getLsbD_putBe {n : Nat} (v : BitVec n) {first w : Nat} (x : Word) {k : Nat} (hk : k < n) (hin : first + w ≤ n) :
    (putBe v first w x).getLsbD k =
      if n - first - w ≤ k ∧ k < n - first then x.getLsbD (k - (n - first - w)) else v.getLsbD k := by
  have hend : n - first - w + w = n - first := by omega
  unfold putBe
  rw [getLsbD_putBits v _ _ _ _ hk, hend]
  rfl

/-- The field that an extract reads, before it is extended: none of a space that no profile reads. -/
def State.fieldBits (s : State) (x : CtxId) (c : Ctx) (f : FieldOp) (cur : Nat) (dyn : Bool) : Word :=
  if f.space = 0 then fieldBe (if dyn = true ∧ x.profile = .e then hCut c.h c.hlen else c.h) (fopFirst f cur) (fopWidth f)
  else if f.space = 1 then fieldLe c.man (fopFirst f cur) (fopWidth f)
  else if f.space = 3 then fieldBe c.key (fopFirst f cur) (fopWidth f)
  else if f.space = 2 then fieldLe (s.fWindow x c) (fopFirst f cur) (fopWidth f)
  else 0

theorem space_cases : ∀ sp : BitVec 3, sp = 0 ∨ sp = 1 ∨ sp = 2 ∨ sp = 3 ∨ sp = 4 ∨ sp = 5 ∨ sp = 6 ∨ sp = 7 := by decide

theorem State.fieldRead_eq (s : State) (x : CtxId) (c : Ctx) (f : FieldOp) (cur : Nat) (dyn : Bool) :
    s.fieldRead x c f cur dyn = fopExtend f (s.fieldBits x c f cur dyn) := by
  unfold State.fieldRead State.fieldBits
  have hcut : (if dyn && x.profile == .e then hCut c.h c.hlen else c.h) = if dyn = true ∧ x.profile = .e then hCut c.h c.hlen else c.h := by
    simp only [Bool.and_eq_true, beq_iff_eq]
  rw [hcut]
  generalize f.space = sp
  rcases space_cases sp with rfl | rfl | rfl | rfl | rfl | rfl | rfl | rfl <;> rfl

/-! ### HDR and ADVC -/

/-- From `m` to `m'` at most the parse flags of the manifest change. -/
structure FlagsOnly (m m' : Man) : Prop where
  same : ∀ b, b < 1024 → ¬(96 ≤ b ∧ b < 128) → m'.getLsbD b = m.getLsbD b

theorem FlagsOnly.refl (m : Man) : FlagsOnly m m := ⟨fun _ _ _ => rfl⟩

theorem FlagsOnly.trans {m m' m'' : Man} (h : FlagsOnly m m') (h' : FlagsOnly m' m'') : FlagsOnly m m'' :=
  ⟨fun b hb hflag => (h'.same b hb hflag).trans (h.same b hb hflag)⟩

theorem FlagsOnly.raise {m m' : Man} (h : FlagsOnly m m') {flag : Nat} (hflag : flag < 32) : FlagsOnly m (mraise m' flag) := by
  refine h.trans ⟨fun b hb hout => ?_⟩
  rw [mraise, msetBits, getLsbD_putBits _ _ _ _ _ hb, if_neg (by dsimp only; omega)]

theorem FlagsOnly.raiseIf {m m' : Man} (h : FlagsOnly m m') (c : Bool) {flag : Nat} (hflag : flag < 32) :
    FlagsOnly m (mraiseIf m' c flag) := by
  cases c with
  | false => exact h
  | true => exact h.raise hflag

theorem FlagsOnly.late {m m' : Man} (h : FlagsOnly m m') (len : Nat) (c : LateCheck) : FlagsOnly m (lateTest len m' c) := by
  unfold lateTest
  split
  · exact h
  · split <;> exact h.raise (by decide)

theorem FlagsOnly.outer {m m' : Man} (h : FlagsOnly m m') (len : Option Nat) (p : Parse) (e : Nat) (atMost : Bool) :
    FlagsOnly m (outerCheck len p m' e atMost).2 := by
  cases len with
  | none => exact h
  | some n => exact h.late n _

theorem FlagsOnly.ip {m m' : Man} (h : FlagsOnly m m') (len : Option Nat) (p : Parse) (e : Nat) : FlagsOnly m (ipEnd len p m' e).2 := by
  unfold ipEnd
  split
  · exact h.raiseIf _ (by decide)
  · exact h.outer ..

theorem FlagsOnly.frag {m m' : Man} (h : FlagsOnly m m') (p : Parse) (off : Nat) (more : Bool) (id : FragId) :
    FlagsOnly m (fragState p m' off more id).2 := by
  unfold fragState
  split
  · exact h
  · split
    · exact h.raise (by decide)
    · exact h.raise (by split <;> decide)

theorem FlagsOnly.hdrIpv4 {m m' : Man} (h : FlagsOnly m m') (head : BitVec 2048) (len : Option Nat) (csum : Bool) (p : Parse) (a n : Nat) :
    FlagsOnly m (hdrIpv4 head len csum p m' a n).2 := by
  unfold Machine.hdrIpv4
  extract_lets b0 ihl tot m1 m2 m3 r
  have h3 : FlagsOnly m m3 := ((h.raiseIf _ (by decide)).raiseIf _ (by decide)).raiseIf _ (by decide)
  exact ((h3.ip ..).frag ..).raiseIf _ (by decide)

theorem FlagsOnly.hdrIpv6 {m m' : Man} (h : FlagsOnly m m') (head : BitVec 2048) (len : Option Nat) (p : Parse) (a n : Nat) :
    FlagsOnly m (hdrIpv6 head len p m' a n).2 := by
  unfold Machine.hdrIpv6
  extract_lets pl m1 m2 r
  have h2 : FlagsOnly m m2 := (h.raiseIf _ (by decide)).raiseIf _ (by decide)
  exact h2.ip ..

theorem FlagsOnly.hdrExt {m m' : Man} (h : FlagsOnly m m') (head : BitVec 2048) (p : Parse) (a n : Nat) :
    FlagsOnly m (hdrExt head p m' a n).2 := by
  unfold Machine.hdrExt
  split
  · exact h
  · dsimp only
    split
    · exact (h.raiseIf _ (flag := pfLEN) (by decide)).frag ..
    · exact h

theorem FlagsOnly.hdrL4 {m m' : Man} (h : FlagsOnly m m') (head : BitVec 2048) (len : Option Nat) (tcp : Bool) (p : Parse) (a n : Nat) :
    FlagsOnly m (hdrL4 head len tcp p m' a n).2 := by
  unfold Machine.hdrL4
  extract_lets ip p2 ul off m2 e
  split
  · exact h
  · have hm2 : FlagsOnly m m2 := by
      unfold m2
      split <;> exact h.raiseIf _ (by decide)
    clear_value m2 p2 e ip
    split
    · exact hm2.raiseIf _ (by decide)
    · exact hm2.outer ..

/-- The checks of a recorded header raise parse flags and change nothing else of the manifest (Table 3.2). -/
theorem FlagsOnly.hdrChecks {m m' : Man} (h : FlagsOnly m m') (head : BitVec 2048) (len : Option Nat) (csum : Bool) (ty : Nat) (p : Parse)
    (a n : Nat) : FlagsOnly m (hdrChecks head len csum ty p m' a n).2 := by
  unfold Machine.hdrChecks
  split
  · exact h
  · exact h.hdrIpv4 ..
  · exact h.hdrIpv6 ..
  · exact h.hdrExt ..
  · exact h.hdrL4 ..
  · exact h.hdrL4 ..
  · exact h

theorem FlagsOnly.csumRun {m m' : Man} (h : FlagsOnly m m') (bytes : List Byte) (j : CsumJob) : FlagsOnly m (csumRun bytes m' j) := by
  unfold Machine.csumRun
  extract_lets
  split
  · exact h
  · split
    · exact h
    · exact h.raiseIf _ (by decide)

/-- Bytes outside the parse flags read the same. -/
theorem FlagsOnly.bytesLe {m m' : Man} (h : FlagsOnly m m') {i k : Nat} (hin : 16 ≤ i) (hend : i + k ≤ 128) :
    Machine.bytesLe m' i k = Machine.bytesLe m i k := by
  unfold Machine.bytesLe
  congr 1
  apply BitVec.eq_of_getLsbD_eq
  intro b hb
  rw [BitVec.getLsbD_extractLsb', BitVec.getLsbD_extractLsb', h.same _ (by omega) (by omega)]

/-- The manifest with a header type and the cursor recorded at place `k` of the header stack (R42). -/
def pushHeader (m : Man) (k ty cur : Nat) : Man :=
  mset (putBytesLe (putBytesLe m (0x20 + 2 * k) 1 ty) (0x21 + 2 * k) 1 cur) mHcount (k + 1)

theorem getLsbD_putBytesLe {n : Nat} (v : BitVec n) (i k x : Nat) {b : Nat} (hb : b < n) : (putBytesLe v i k x).getLsbD b =
    if 8 * i ≤ b ∧ b < 8 * i + 8 * k then x.testBit (b - 8 * i) else v.getLsbD b := getLsbD_putBits v _ _ _ _ hb

/-- A byte reads as what was written to it. -/
theorem bytesLe_putBytesLe_self {n : Nat} (v : BitVec n) {i k : Nat} (x : Nat) (h : 8 * (i + k) ≤ n) :
    bytesLe (putBytesLe v i k x) i k = x % 2 ^ (8 * k) := by
  have hfield : (putBytesLe v i k x).extractLsb' (8 * i) (8 * k) = BitVec.ofNat (8 * k) x := by
    apply BitVec.eq_of_getLsbD_eq
    intro b hb
    rw [BitVec.getLsbD_extractLsb', getLsbD_putBytesLe _ _ _ _ (by omega), if_pos (by omega), BitVec.getLsbD_ofNat,
      Nat.add_sub_cancel_left]
  rw [bytesLe, hfield, BitVec.toNat_ofNat]

/-- Bytes written elsewhere leave a byte alone. -/
theorem bytesLe_putBytesLe_ne {n : Nat} (v : BitVec n) {i k j l : Nat} (x : Nat) (h : 8 * (j + l) ≤ n) (hne : j + l ≤ i ∨ i + k ≤ j) :
    bytesLe (putBytesLe v i k x) j l = bytesLe v j l := by
  unfold bytesLe
  congr 1
  apply BitVec.eq_of_getLsbD_eq
  intro b hb
  rw [BitVec.getLsbD_extractLsb', BitVec.getLsbD_extractLsb', getLsbD_putBytesLe _ _ _ _ (by omega), if_neg (by omega)]

theorem byteLe_eq_bytesLe {n : Nat} (v : BitVec n) (i : Nat) : byteLe v i = bytesLe v i 1 := rfl

section pushHeader
variable {k ty cur : Nat} (m : Man)

theorem pushHeader_type (hk : k < 12) (hty : ty < 256) : bytesLe (pushHeader m k ty cur) (0x20 + 2 * k) 1 = ty := by
  rw [pushHeader, mset, bytesLe_putBytesLe_ne _ _ (by omega) (by left; dsimp only; omega), bytesLe_putBytesLe_ne _ _ (by omega) (by omega),
    bytesLe_putBytesLe_self _ _ (by omega)]
  exact Nat.mod_eq_of_lt hty

theorem pushHeader_cursor (hk : k < 12) (hcur : cur < 256) : bytesLe (pushHeader m k ty cur) (0x21 + 2 * k) 1 = cur := by
  rw [pushHeader, mset, bytesLe_putBytesLe_ne _ _ (by omega) (by left; dsimp only; omega), bytesLe_putBytesLe_self _ _ (by omega)]
  exact Nat.mod_eq_of_lt hcur

theorem pushHeader_count (hk : k < 12) : mget (pushHeader m k ty cur) mHcount = k + 1 := by
  rw [pushHeader, mset, mget, bytesLe_putBytesLe_self _ _ (by decide)]
  exact Nat.mod_eq_of_lt (by dsimp only; omega)

theorem pushHeader_else {b : Nat} (hb : b < 1024) (hstack : ¬(8 * (0x20 + 2 * k) ≤ b ∧ b < 8 * (0x22 + 2 * k)))
    (hcount : ¬(0x1C0 ≤ b ∧ b < 0x1C8)) : (pushHeader m k ty cur).getLsbD b = m.getLsbD b := by
  rw [pushHeader, mset, getLsbD_putBytesLe _ _ _ _ hb, if_neg (by dsimp only; omega), getLsbD_putBytesLe _ _ _ _ hb, if_neg (by omega),
    getLsbD_putBytesLe _ _ _ _ hb, if_neg (by omega)]

end pushHeader

/-- HDR with no room in the header stack or in the window raises PARSE_DEPTH (R42). -/
theorem exec_hdr_deep {x : CtxId} {c : Ctx} {rd ra : RegNo} {imm : BitVec 16} {s : State} (h : Issues x 1 [ra] s c)
    (hwf : wfHdr x rd imm = true) (hdeep : mget c.man mHcount = 12 ∨ 255 < c.cur ∨ 256 < c.cur + ((s.g x ra).toNat + imm.toNat)) :
    exec (.hdr x rd ra imm) s = .next ((s.setCtx x (c.after 1)).setCtx x { c.after 1 with man := mraise (c.after 1).man pfDEPTH }) := by
  change execHdr x rd ra imm s = _
  rw [execHdr, hwf, engineOnly_of h]
  exact congrArg Host.Outcome.next (if_pos hdeep)

/-- HDR with room records type and cursor, and the checks of the header raise parse flags (R42, R76 to R78). -/
theorem exec_hdr_room {x : CtxId} {c : Ctx} {rd ra : RegNo} {imm : BitVec 16} {s : State} (h : Issues x 1 [ra] s c)
    (hwf : wfHdr x rd imm = true) {k n : Nat} (hcount : mget c.man mHcount = k) (hn : (s.g x ra).toNat + imm.toNat = n) (hk : k < 12)
    (hcur : c.cur ≤ 255) (hend : c.cur + n ≤ 256) :
    ∃ m r, FlagsOnly (pushHeader c.man k rd.val c.cur) m ∧ exec (.hdr x rd ra imm) s =
      .next ((s.setCtx x (c.after 1)).setCtx x { c.after 1 with man := m, parse := r, cur := c.cur + n }) := by
  change ∃ m r, _ ∧ execHdr x rd ra imm s = _
  rw [execHdr, hwf, engineOnly_of h]
  dsimp only
  rw [State.g_setCtx, if_neg (by rw [hn]; simp only [Ctx.after]; omega), hn]
  simp only [Ctx.after, hcount]
  generalize hr : hdrChecks _ _ _ _ _ _ _ _ = r
  have hflags : FlagsOnly (pushHeader c.man k rd.val c.cur) r.2 := by
    rw [← hr]
    exact (FlagsOnly.refl _).hdrChecks ..
  refine ⟨_, _, ?_, rfl⟩
  split
  · split
    · dsimp only
      split
      · split
        · exact hflags.csumRun _ _
        · exact hflags
      · exact hflags
    · exact hflags
  · exact hflags

/-- ADVC in the profiles that have it (R43). -/
theorem exec_advc {x : CtxId} {c : Ctx} {rd ra : RegNo} {imm : BitVec 16} {s : State} (h : Issues x 1 [ra] s c)
    (hwf : wfAdvc x rd imm = true) :
    let n := (s.g x ra).toNat + imm.toNat
    let d := c.after 1
    let s1 := s.setCtx x d
    exec (.advc x rd ra imm) s = .next (
       if x.profile = .e then s1.setCtx x { d with cur := Nat.min (c.cur + n) 256 }
       else if 256 < c.cur + n then s1.setCtx x { d with man := mraise d.man pfDEPTH }
       else s1.setCtx x { d with cur := c.cur + n }) := by
  change execAdvc x rd ra imm s = _
  rw [execAdvc, hwf, engineOnly_of h]
  rfl

/-- Settles O9: bit by bit for fields; for HDR, the recorded bytes lie outside the parse flags that the header's checks raise. -/
theorem fieldsHeadersAndCursor : Obligations.FieldsHeadersAndCursor := by
  refine ⟨fun s x c f dyn k hk => ?_, fun n v first w x k hk hw => ⟨getLsbD_putLe v first w x hk, fun hin => getLsbD_putBe v x hk hin⟩,
    fun x c rd ra imm s h => ⟨fun hwf hdeep => exec_hdr_deep h hwf hdeep, fun hwf k hcount hk hcur hend => ?_, fun hwf => exec_advc h hwf⟩⟩
  · have hw : f.wm1.toNat + 1 ≤ 64 := f.wm1.isLt
    intro cur first w bitOf
    have hbits : ∀ j < w, (s.fieldBits x c f cur dyn).getLsbD j = bitOf j := fun j hj => by
      simp only [State.fieldBits, bitOf]
      split
      · exact getLsbD_fieldBe _ _ hj hw
      · split
        · exact getLsbD_fieldLe _ _ hj hw
        · split
          · exact getLsbD_fieldBe _ _ hj hw
          · split
            · exact getLsbD_fieldLe _ _ hj hw
            · exact BitVec.getLsbD_zero
    rw [State.fieldRead_eq, getLsbD_fopExtend f _ hk]
    split
    · exact hbits k ‹_›
    · exact congrArg _ (hbits _ (Nat.lt_succ_self _))
  · obtain ⟨m, r, hflags, hexec⟩ := exec_hdr_room h hwf hcount rfl hk hcur hend
    refine ⟨m, r, hexec, ?_, ?_, ?_, fun b hb hflag hstack hcnt => ?_⟩
    · rw [byteLe_eq_bytesLe, hflags.bytesLe (by omega) (by omega), pushHeader_type _ hk (by omega)]
    · rw [byteLe_eq_bytesLe, hflags.bytesLe (by omega) (by omega), pushHeader_cursor _ hk (by omega)]
    · rw [mget, hflags.bytesLe (by decide) (by decide)]
      exact pushHeader_count _ hk
    · rw [hflags.same b hb hflag, pushHeader_else _ hb hstack hcnt]

/-! ### EXT and INS of an engine -/

/-- An engine's field instruction runs as `fieldIssue` says. -/
theorem exec_extDyn {x : CtxId} (hx : x.profile = .p ∨ x.profile = .s ∨ x.profile = .e) (rd : RegNo) (f : FieldOp) (dyn : Bool) (s : State) :
    ∃ mn, exec (if dyn then .extc x rd f else .ext x rd f) s = fieldIssue x mn (wfExt x f dyn) dyn rd f s (extBody x rd f dyn) := by
  cases x with
  | tug t => rcases hx with e | e | e <;> cases e
  | chan t => rcases hx with e | e | e <;> cases e
  | _ => cases dyn <;> exact ⟨_, rfl⟩

/-- An insert in profile P, S or E; one that is relative to the cursor is discarded where it may not write (R186, R483). -/
def insBody (x : CtxId) (rd : RegNo) (f : FieldOp) (dyn : Bool) (c : Ctx) (s : State) : State :=
  if dyn = true ∧ insDynOk x c f = false then s.faultCount x else s.fieldWrite x f (if dyn then c.cur else 0) (s.g x rd)

theorem insBody_fixed (x : CtxId) (rd : RegNo) (f : FieldOp) : insBody x rd f false = fun _ s => s.fieldWrite x f 0 (s.g x rd) := by
  funext c s
  simp [insBody]

theorem insBody_dyn (x : CtxId) (rd : RegNo) (f : FieldOp) :
    insBody x rd f true = fun c s => if insDynOk x c f then s.fieldWrite x f c.cur (s.g x rd) else s.faultCount x := by
  funext c s
  cases h : insDynOk x c f <;> simp [insBody, h]

theorem exec_insDyn {x : CtxId} (hx : x.profile = .p ∨ x.profile = .s ∨ x.profile = .e) (rd : RegNo) (f : FieldOp) (dyn : Bool) (s : State) :
    ∃ mn, exec (if dyn then .insc x rd f else .ins x rd f) s = fieldIssue x mn (wfIns x f dyn) dyn rd f s (insBody x rd f dyn) := by
  cases dyn
  · rw [insBody_fixed]
    cases x with
    | tug t => rcases hx with e | e | e <;> cases e
    | chan t => rcases hx with e | e | e <;> cases e
    | _ => exact ⟨_, rfl⟩
  · rw [insBody_dyn]
    cases x with
    | tug t => rcases hx with e | e | e <;> cases e
    | chan t => rcases hx with e | e | e <;> cases e
    | _ => exact ⟨_, rfl⟩

theorem State.updCtx_setCtx (s : State) (x : CtxId) (c : Ctx) (g : Ctx → Ctx) : (s.setCtx x c).updCtx x g = (s.setCtx x c).setCtx x (g c) := by
  rw [State.updCtx, State.ctx?_setCtx_self]

/-- What an extract leaves beside its register, by the field's space (R41). -/
def extMarks (x : CtxId) (f : FieldOp) (cur : Nat) (s : State) : State :=
  let s := if f.space.toNat = spF then s.fMark x else s
  if x.profile = .p ∧ f.space.toNat = spH then s.updCtx x (fun c => { c with man := hReadFlags c f cur }) else s

theorem extMarks_window {x : CtxId} {f : FieldOp} (cur : Nat) (s : State) (h : f.space = 2) : extMarks x f cur s = s.fMark x := by
  simp [extMarks, h]

theorem extMarks_head {x : CtxId} {f : FieldOp} (cur : Nat) (s : State) (hp : x.profile = .p) (h : f.space = 0) :
    extMarks x f cur s = s.updCtx x (fun c => { c with man := hReadFlags c f cur }) := by
  simp [extMarks, hp, h]

theorem extMarks_other {x : CtxId} {f : FieldOp} (cur : Nat) (s : State) (hF : f.space ≠ 2) (hH : ¬(x.profile = .p ∧ f.space = 0)) :
    extMarks x f cur s = s := by
  have hF' : ¬f.space.toNat = spF := fun e => hF (BitVec.eq_of_toNat_eq e)
  have hH' : ¬(x.profile = .p ∧ f.space.toNat = spH) := fun e => hH ⟨e.1, BitVec.eq_of_toNat_eq e.2⟩
  simp only [extMarks, if_neg hF', if_neg hH']

theorem extBody_eq (x : CtxId) (rd : RegNo) (f : FieldOp) (dyn : Bool) (c : Ctx) (s : State) : extBody x rd f dyn c s =
    (extMarks x f (if dyn then c.cur else 0) s).setG x rd (s.fieldRead x c f (if dyn then c.cur else 0) dyn) := rfl

/-- The bits of a field in its first byte start below bit 8. -/
theorem FieldOp.bit_mod (f : FieldOp) : f.bit.toNat % 8 = f.bit.toNat := Nat.mod_eq_of_lt f.bit.isLt

theorem exec_ext_tug {t : Core} {rd : RegNo} {f : FieldOp} {s : State} (h : TugIssues t s) (hwf : wfExt (.tug t) f false = true) :
    exec (.ext (.tug t) rd f) s = .next (extTug t rd f s) := by
  change Host.Outcome.next (s.tugRun t (wfExt (.tug t) f false) (extTug t rd f)) = _
  rw [hwf, State.tugRun_of h]

theorem exec_ins_tug {t : Core} {rd : RegNo} {f : FieldOp} {s : State} (h : TugIssues t s) (hwf : wfIns (.tug t) f false = true) :
    exec (.ins (.tug t) rd f) s = .next (insTug t rd f s) := by
  change Host.Outcome.next (s.tugRun t (wfIns (.tug t) f false) (insTug t rd f)) = _
  rw [hwf, State.tugRun_of h]

/-- Settles O10: an engine's field instruction whose field is ready runs its body, which only the field's space decides; on a core the
field's bytes are in memory that it may reach and that holds no error. -/
theorem fieldInstructionsComplete : Obligations.FieldInstructionsComplete := by
  refine ⟨fun x c rd f dyn s h hwf hready => ?_, fun x c rd f dyn s h hwf hready => ?_, fun t rd f s h => ?_⟩
  · intro i cur s1
    obtain ⟨mn, hexec⟩ := exec_extDyn h.profile rd f dyn s
    rw [hwf, fieldIssue_of h hready, extBody_eq] at hexec
    refine ⟨_, hexec, fun hF hH => extMarks_other _ _ hF hH, fun hF => extMarks_window _ _ hF, fun hp hH => ?_⟩
    exact (extMarks_head _ _ hp hH).trans (State.updCtx_setCtx ..)
  · intro i cur first w v d s1
    obtain ⟨mn, hexec⟩ := exec_insDyn h.profile rd f dyn s
    rw [hwf, fieldIssue_of h hready, insBody, State.g_setCtx] at hexec
    split
    · next hbad => exact hexec.trans (congrArg _ (if_pos hbad))
    · next hgood =>
      replace hexec : exec i s = _ := hexec.trans (congrArg _ (if_neg hgood))
      refine ⟨fun hsp => ?_, fun hsp => ?_, fun hsp => ?_, fun hsp => ?_⟩ <;> rw [hexec, State.fieldWrite, hsp]
      · exact congrArg Host.Outcome.next (State.updCtx_setCtx ..)
      · exact congrArg Host.Outcome.next (State.updCtx_setCtx ..)
      · rfl
      · exact congrArg Host.Outcome.next (State.updCtx_setCtx ..)
  · intro p hmem hok d
    have hreach : ¬s.memAllowed t p.1 p.2 = false := ne_false_of_eq_true hmem
    have hgood : ¬s.spanBad t p.1 p.2 = true := ne_true_of_eq_false hok
    refine ⟨fun hwf => ?_, fun hwf => ?_⟩
    · rw [exec_ext_tug h hwf, extTug, FieldOp.bit_mod]
      exact congrArg Host.Outcome.next ((if_neg hreach).trans (if_neg hgood))
    · rw [exec_ins_tug h hwf, insTug, FieldOp.bit_mod]
      exact congrArg Host.Outcome.next ((if_neg hreach).trans (if_neg hgood))

end Sys2Proof.Machine
end

section
/-!
PROOFS. Stored bytes and atomic operations (R53, R54), the register space from a tug core (R55), CTL into a command port (R334, R335).
-/
namespace Sys2Proof.Machine

/-! ### Stored bytes -/

@[simp] theorem leBytes_length (n v : Nat) : (leBytes n v).length = n := by
  induction n generalizing v with
  | zero => rfl
  | succ n ih => rw [leBytes, List.length_cons, ih]

/-- What was stored is read back from the same address. -/
theorem State.dRead_dWrite (s : State) (t a : Nat) (l : List Byte) : (s.dWrite t a l).dRead t a l.length = l := by
  unfold State.dWrite State.dRead
  split <;> exact Memory.bytes_setBytes ..

/-- A store changes tug memory or the HBM. -/
theorem State.dWrite_frame (s : State) (t a : Nat) (l : List Byte) :
    s.dWrite t a l = { s with dmem := (s.dWrite t a l).dmem, hbm := (s.dWrite t a l).hbm } := by
  unfold State.dWrite
  split <;> rfl

theorem State.dWrite_below {a : Nat} (h : a < hbmWin) (s : State) (t : Nat) (l : List Byte) :
    s.dWrite t a l = { s with dmem := s.dmem.setBytes (dCell t a) l } := if_neg (Nat.not_le.2 h)

theorem State.dWrite_hbm {a : Nat} (h : hbmWin ≤ a) (s : State) (t : Nat) (l : List Byte) :
    s.dWrite t a l = { s with hbm := s.hbm.setBytes (a - hbmWin) l } := if_pos h

/-! ### Atomic operations -/

/-- Counting an access counts. -/
theorem State.tugAccCount_counts {s : State} {t : Core} {a n : Nat} {store : Bool} : Counts s (s.tugAccCount t a n store) := by
  unfold State.tugAccCount
  dsimp only
  split
  · exact (State.ccnt_counts.trans State.ccnt_counts).trans State.pmc_counts
  · exact State.ccnt_counts.trans State.pmc_counts
  · exact State.ccnt_counts

theorem exec_amoTable : ∀ p ∈ amoTable, ∀ t rd ra rb ue s, exec (p.1 t rd ra rb ue) s = amoOp p.2 t rd ra rb ue s := by
  simp only [amoTable, List.forall_mem_cons]
  exact ⟨fun _ _ _ _ _ _ => rfl, fun _ _ _ _ _ _ => rfl, fun _ _ _ _ _ _ => rfl, fun _ _ _ _ _ _ => rfl, fun _ _ _ _ _ _ => rfl,
    List.forall_mem_nil _⟩

/-- Settles O13: a store sets bytes of one memory; an atomic operation is a load and, where its function gives a value, a store. -/
theorem storedBytesAndAtomics : Obligations.StoredBytesAndAtomics := by
  refine ⟨fun s t a n v => ?_, fun p hp t rd ra rb ue s h => ?_⟩
  · intro u
    refine ⟨?_, State.dWrite_frame .., fun ha => ?_, fun ha => ?_⟩
    · simpa using s.dRead_dWrite t.val a (leBytes n v)
    · have hu : u = _ := State.dWrite_below ha ..
      rw [hu]
      exact ⟨rfl, fun b hb => Memory.get_setBytes_ne _ _ _ _ (by rwa [leBytes_length])⟩
    · have hu : u = _ := State.dWrite_hbm ha ..
      rw [hu]
      exact ⟨rfl, fun b hb => Memory.get_setBytes_ne _ _ _ _ (by rwa [leBytes_length])⟩
  · intro aw a
    rw [exec_amoTable p hp, amoOp, State.tugRun_of h]
    refine ⟨fun ha => ?_, fun ha hmem hue hok => ?_⟩
    · exact congrArg Host.Outcome.next (if_pos ha)
    · intro old s1
      have hwindow := isWindow_of_memAllowed hmem
      have hload : s.tugLoad t a 8 ue = .ok s old := by
        rw [State.tugLoad_memory ha hwindow, if_neg (ne_false_of_eq_true hmem), if_neg (by simp [hue, hok])]
      dsimp only
      rw [if_neg (not_not_intro ha), if_neg (ne_true_of_eq_false hwindow), hload]
      dsimp only
      rw [State.g_congr State.tugAccCount_counts.eng, State.g_congr State.tugAccCount_counts.eng] <;> rfl

/-! ### The register space -/

theorem exec_ldcs (wide : Bool) (t : Core) (rd ra : RegNo) (imm : BitVec 16) (s : State) :
    exec (if wide then .ldcd t rd ra imm else .ldc t rd ra imm) s = cAccess (if wide then 8 else 4) t rd ra imm none s := by
  cases wide <;> rfl

theorem exec_stcs (wide : Bool) (t : Core) (rd ra : RegNo) (imm : BitVec 16) (s : State) :
    exec (if wide then .stcd t rd ra imm else .stc t rd ra imm) s = cAccess (if wide then 8 else 4) t rd ra imm (some (s.g (.tug t) rd)) s := by
  cases wide <;> rfl

section registerSpace
variable {n : Nat} {t : Core} {rd ra : RegNo} {imm : BitVec 16} {st : Option Word} {s : State} {aw : Word} (h : TugIssues t s)
  (haw : aw = s.g (.tug t) ra + imm.signExtend 64)
include h haw

theorem cAccess_priv (hsup : s.tsup t = false) : cAccess n t rd ra imm st s = .next (s.trapHere t tcPRIV aw) := by
  rw [cAccess, State.tugRun_of h, haw]
  exact congrArg Host.Outcome.next (if_pos hsup)

theorem cAccess_misaligned (hsup : s.tsup t = true) (ha : aw.toNat % n ≠ 0) :
    cAccess n t rd ra imm st s = .next (s.trapHere t tcMISALIGN aw) := by
  rw [cAccess, State.tugRun_of h]
  subst haw
  exact congrArg Host.Outcome.next ((if_neg (ne_false_of_eq_true hsup)).trans (if_pos ha))

theorem cAccess_outside (hsup : s.tsup t = true) (ha : aw.toNat % n = 0) (hout : 0x4000000 ≤ aw.toNat) :
    cAccess n t rd ra imm st s = .next (s.trapHere t tcD_FAULT aw) := by
  rw [cAccess, State.tugRun_of h]
  subst haw
  exact congrArg Host.Outcome.next ((if_neg (ne_false_of_eq_true hsup)).trans ((if_neg (not_not_intro ha)).trans (if_pos hout)))

theorem cAccess_load (hsup : s.tsup t = true) (ha : aw.toNat % n = 0) (hin : aw.toNat < 0x4000000) :
    cAccess n t rd ra imm none s = .next (((s.regRead aw.toNat n t.val).1.setG (.tug t) rd
      ((s.regRead aw.toNat n t.val).2.setWidth 64)).tugDone t) := by
  rw [cAccess, State.tugRun_of h]
  subst haw
  exact congrArg Host.Outcome.next ((if_neg (ne_false_of_eq_true hsup)).trans ((if_neg (not_not_intro ha)).trans (if_neg (Nat.not_le.2 hin))))

theorem cAccess_store (v : Word) (hsup : s.tsup t = true) (ha : aw.toNat % n = 0) (hin : aw.toNat < 0x4000000) :
    cAccess n t rd ra imm (some v) s = .next
      (if (s.modeNo = mSERVICE ∨ s.modeNo = mHARBOUR ∨ s.modeNo = mBOOT) ∧ anyModeReg aw.toNat = false then s.trapHere t tcC_DENIED aw
       else s.cStore t aw.toNat n v) := by
  rw [cAccess, State.tugRun_of h]
  subst haw
  exact congrArg Host.Outcome.next ((if_neg (ne_false_of_eq_true hsup)).trans ((if_neg (not_not_intro ha)).trans (if_neg (Nat.not_le.2 hin))))

end registerSpace

@[simp] theorem State.get_setTpc (s : State) (t : Core) (pc : Word) (f : Fld) (i : Nat) : (s.setTpc t pc).get f i = s.get f i := rfl

@[simp] theorem State.tpc_setTpc (s : State) (t : Core) (pc : Word) : (s.setTpc t pc).tpc t = pc := by
  simp [State.tpc, State.setTpc]

theorem State.tpc_congr {s u : State} (h : u.tug = s.tug) (t : Core) : u.tpc t = s.tpc t := by
  rw [State.tpc, State.tcore, h]
  rfl

section counterStore
variable {s u : State} {t : Core} {a n : Nat} {v : Word}

/-- The write of a store to the register space: every bit, as supervisor of a tug core. -/
def State.cPut (s : State) (a n : Nat) (v : Word) : Wrote :=
  s.regPut (.direct false) 64 a n (BitVec.ofNat 320 (2 ^ 320 - 1)) (v.setWidth 320)

theorem State.cStore_other (hreg : ∀ i b, findReg a ≠ some (.pmcCntValue, i, b)) (hput : s.cPut a n v = .ok u) :
    s.cStore t a n v = u.tugDone t := by
  unfold State.cPut at hput
  unfold State.cStore
  dsimp only
  split
  · exact absurd ‹_› (hreg _ _)
  · rw [hput]

/-- A store to a device counter: the written state with the overflow that the storing instruction has caused and the collision counted. -/
def State.counterStored (s s2 u : State) (t : Core) (i : Nat) : State :=
  let v := if s2.bit F.pmcCntValue_ovf i && !s.bit F.pmcCntValue_ovf i then u.setBit F.pmcCntValue_ovf i true else u
  (v.bumpIf (s2.reg .pmcCntValue i != s.reg .pmcCntValue i) F.pmcCntCollision 0).setTpc t (v.tpc t + 4)

theorem State.cStore_counter {i b : Nat} (hreg : findReg a = some (.pmcCntValue, i, b)) (hput : (s.tugCount t).cPut a n v = .ok u) :
    s.cStore t a n v = s.counterStored (s.tugCount t) u t i := by
  unfold State.cPut at hput
  unfold State.cStore
  dsimp only
  rw [hreg]
  dsimp only
  rw [hput]
  rfl

theorem State.count_counterStored (s s2 u : State) (t : Core) (i : Nat) :
    (s.counterStored s2 u t i).get F.pmcCntValue_count i = u.get F.pmcCntValue_count i := by
  unfold State.counterStored
  dsimp only
  rw [State.get_setTpc, State.get_bumpIf_reg _ _ _ _ (by decide)]
  split
  · exact State.get_set_field _ _ _ _ _ rfl (by decide) (.inl (by decide))
  · rfl

theorem State.tpc_counterStored (s s2 u : State) (t : Core) (i : Nat) : (s.counterStored s2 u t i).tpc t = u.tpc t + 4 := by
  unfold State.counterStored
  rw [State.tpc_setTpc]
  split
  · rfl
  · rfl

theorem State.collision_counterStored {s s2 : State} (u : State) (t : Core) {i : Nat} (hlost : s2.reg .pmcCntValue i ≠ s.reg .pmcCntValue i) :
    (s.counterStored s2 u t i).get F.pmcCntCollision 0 = (u.get F.pmcCntCollision 0 + 1) % 2 ^ 64 := by
  unfold State.counterStored
  dsimp only
  rw [State.get_setTpc, State.bumpIf, if_pos (bne_iff_ne.2 hlost), State.get_bump_self _ _ _ (by decide)]
  split
  · rw [State.setBit, State.get_set_reg _ _ _ _ _ _ (.inl (by decide))]
  · rfl

end counterStore

/-- Settles O14: level, alignment and space are judged in this order; then the register is read, or the mode judges the store. -/
theorem registerSpaceAccesses : Obligations.RegisterSpaceAccesses := by
  intro wide t rd ra imm s h n ld st aw a denied
  have hload : exec ld s = cAccess n t rd ra imm none s := exec_ldcs ..
  have hstore : exec st s = cAccess n t rd ra imm (some (s.g (.tug t) rd)) s := exec_stcs ..
  refine ⟨fun i hi => ?_, fun hsup ha hin => ⟨?_, fun hdenied => ?_, fun hok hreg u hput => ?_, fun hok i b hreg u hput => ?_⟩⟩
  · obtain ⟨v, hexec⟩ : ∃ v, exec i s = cAccess n t rd ra imm v s := by
      rcases hi with rfl | rfl
      · exact ⟨_, hload⟩
      · exact ⟨_, hstore⟩
    rw [hexec]
    exact ⟨cAccess_priv h rfl, cAccess_misaligned h rfl, cAccess_outside h rfl⟩
  · rw [hload]
    exact cAccess_load h rfl hsup ha hin
  · rw [hstore, cAccess_store h rfl _ hsup ha hin]
    exact congrArg _ (if_pos hdenied)
  · rw [hstore, cAccess_store h rfl _ hsup ha hin]
    exact congrArg _ ((if_neg hok).trans (State.cStore_other hreg hput))
  · refine ⟨_, ?_, State.count_counterStored .., State.tpc_counterStored .., State.collision_counterStored _ _⟩
    rw [hstore, cAccess_store h rfl _ hsup ha hin]
    exact congrArg _ ((if_neg hok).trans (State.cStore_counter hreg hput))

/-! ### CTL into a command port -/

/-- A port that an engine serves does not join the ready list (R335). -/
theorem State.joinReady_served {s : State} {iss : Issuer} (h : s.cmd.engines.any (fun e => e.2 == iss) = true) : s.joinReady iss = s := by
  simp [State.joinReady, h]

theorem State.cmd_tugJump (s : State) (t : Core) (pc : Word) : (s.tugJump t pc).cmd = s.cmd := by
  rw [State.tugJump, State.setTpc, State.setTcore_cmd, State.tugCount_counts.cmd]

/-- CTL with room in a port that an engine serves leaves the ready list as it is. -/
theorem exec_ctl_served {t : Core} {op : BitVec 10} {desc : BitVec 16} {s : State} (h : TugIssues t s) (hwf : wfCtl desc = true)
    (hroom : (s.tport t.val).queue.length < 16) (hregs : (ctlDesc desc.toNat).inl = false)
    (hserved : s.cmd.engines.any (fun e => e.2 == .tug t) = true) {u : State} (hexec : exec (.ctl t op desc) s = .next u) :
    u.cmd.ready = s.cmd.ready := by
  change execCtl t op desc s = _ at hexec
  rw [execCtl, hwf, State.tugRun_of h] at hexec
  dsimp only at hexec
  rw [if_neg (Nat.not_le.2 hroom), if_neg (by rw [hregs]; exact fun e => Bool.false_ne_true e.1),
    State.joinReady_served (by rw [State.cmd_tugJump]; exact hserved)] at hexec
  injection hexec with hu
  rw [← hu, State.cmd_tugJump]
  rfl

/-- Task 0 runs on core 0 at supervisor level, engine 0 runs a control instruction of the core's port, and the port's queue is empty. -/
def servedPort : State :=
  State.set { State.reset with
    tug := { cores := [(0, { ctx := { sup := true } })] },
    cmd := { engines := [(0, .tug 0)], current := [(issKey (.tug 0), { op := 0x003, tag := 0, slot := 0, w := [] })] } }
    F.tugCoreStatus_idle 0 0

theorem servedPort_issues : TugIssues 0 servedPort :=
  ⟨by decide +kernel, by decide +kernel, by decide +kernel, by decide +kernel⟩

/-- Refutes O18: the statement puts the core's port on the ready list after every CTL that finds room, but while an engine serves the port
(R335: one CTL of an issuer at a time) it joins the list only when that engine lets go of it. -/
theorem not_ctlIssueAndWaits : ¬ Obligations.CtlIssueAndWaits := by
  intro h
  obtain ⟨u, hexec, -, -, hready, -⟩ := (h.1 0 0 0 servedPort servedPort_issues rfl).2 (by decide +kernel) (fun hinl => absurd hinl (by decide))
  rw [exec_ctl_served servedPort_issues rfl (by decide +kernel) (by decide) (by decide +kernel) hexec] at hready
  exact absurd hready (List.not_mem_nil)

end Sys2Proof.Machine
end

section
/-!
PROOFS. Lookups, hashes, meters and flow requests of the engines (R44 to R47), and the operations that end or mark a program (R58).
-/
namespace Sys2Proof.Machine

/-- Two choices agree where their conditions and their answers do. -/
theorem ite_of_iff {α : Type} {b c : Prop} [Decidable b] [Decidable c] {x y u v : α} (h : b ↔ c) (hx : x = u) (hy : y = v) :
    (if b then x else y) = if c then u else v := ite_congr (propext h) (fun _ => hx) fun _ => hy

/-! ### Keys and results -/

section afterFields
variable (c : Ctx) (cost : Nat)

@[simp] theorem Ctx.after_fid : (c.after cost).fid = c.fid := rfl
@[simp] theorem Ctx.after_gen : (c.after cost).gen = c.gen := rfl
@[simp] theorem Ctx.after_key : (c.after cost).key = c.key := rfl
@[simp] theorem Ctx.after_man : (c.after cost).man = c.man := rfl
@[simp] theorem Ctx.after_pend : (c.after cost).pend = c.pend := rfl
@[simp] theorem Ctx.after_flowDone : (c.after cost).flowDone = c.flowDone := rfl
@[simp] theorem Ctx.after_pass : (c.after cost).pass = c.pass := rfl
@[simp] theorem Ctx.after_berth : (c.after cost).berth = c.berth := rfl

end afterFields

/-- An instruction that reads K issues where its bytes are there. -/
theorem keyIssue_of {x : CtxId} {mn : String} {cost a b : Nat} {uses : List RegNo} {s : State} {c : Ctx} (h : Issues x cost uses s c)
    (hw : prpWaits c a b = false) (body : Ctx → State → State) :
    keyIssue x mn true cost a b uses s body = .next (body (c.after cost) (s.setCtx x (c.after cost))) := by
  unfold keyIssue
  rw [h.running]
  simp only [hw, Bool.and_false, Bool.false_eq_true, if_false]
  exact engineOnly_of h body

/-- Four results may be outstanding (R32). -/
theorem State.fullWait_false {s : State} {x : CtxId} {c : Ctx} (hctx : s.ctx? x = some c) (hroom : outstanding c < 4) : s.fullWait x = false := by
  rw [State.fullWait, hctx]
  exact decide_eq_false (Nat.not_le.2 hroom)

@[simp] theorem State.g_updCtx (s : State) (x y : CtxId) (f : Ctx → Ctx) (r : RegNo) : (s.updCtx x f).g y r = s.g y r := by
  unfold State.updCtx
  split <;> rfl

/-- A result for a program that has ended changes nothing (R44). -/
theorem State.resultTo_ended (s : State) (x : CtxId) (rd : RegNo) (n : Nat) (v : Word) : s.resultTo x false rd n v = s := rfl

theorem State.g_resultTo (s : State) (x y : CtxId) (rd r : RegNo) (n : Nat) (v : Word) :
    (s.resultTo x true rd n v).g y r = if r = 0 then 0 else if y = x ∧ r = rd then v else s.g y r := by
  rw [State.resultTo, if_pos rfl, State.g_updCtx, State.g_setG]

/-- After a result has come back no lookup of its number is pending. -/
theorem State.pend_resultTo {s : State} {x : CtxId} {rd : RegNo} {n : Nat} {v : Word} {c : Ctx}
    (hctx : (s.resultTo x true rd n v).ctx? x = some c) : ∀ p ∈ c.pend, p.2.1 = .flow ∨ p.2.2 ≠ n := by
  rw [State.resultTo, if_pos rfl, State.updCtx] at hctx
  split at hctx
  · rw [State.ctx?_setCtx_self] at hctx
    cases hctx
    intro p hp
    simpa using (List.mem_filter.1 hp).2
  · rename_i hnone
    exact absurd (hnone.symm.trans hctx) nofun

theorem State.lkps_resultTo (s : State) (x : CtxId) (live : Bool) (rd : RegNo) (n : Nat) (v : Word) :
    (s.resultTo x live rd n v).eng.lkps = s.eng.lkps := by
  unfold State.resultTo State.updCtx State.setG
  split
  · split <;> split <;> rfl
  · rfl

/-! ### LKP and LOOKUP_REPLY -/

@[simp] theorem State.desc_setCtx (s : State) (x : CtxId) (c : Ctx) (g : Bool) (n : Nat) : (s.setCtx x c).desc g n = s.desc g n := rfl

/-- The descriptor fits the instruction (R44). -/
def lkpFits (x : CtxId) (klen : BitVec 6) (d : BitVec 64) : Prop :=
  dKind d ≠ 0 ∧ dKlen d = klen.toNat + 1 ∧ (if x.profile = .p then dPok d else dEok d) = true

theorem lkpFits_not {x : CtxId} {klen : BitVec 6} {d : BitVec 64} :
    ¬lkpFits x klen d ↔ dKind d = 0 ∨ dKlen d ≠ klen.toNat + 1 ∨ (if x.profile = .p then dPok d else dEok d) = false := by
  unfold lkpFits
  rw [← Bool.not_eq_true]
  refine ⟨fun hno => ?_, ?_⟩
  · by_cases hkind : dKind d = 0
    · exact .inl hkind
    · by_cases hlen : dKlen d = klen.toNat + 1
      · exact .inr (.inr fun hok => hno ⟨hkind, hlen, hok⟩)
      · exact .inr (.inl hlen)
  · rintro (hkind | hlen | hbad) ⟨hsome, heq, hok⟩
    · exact hsome hkind
    · exact hlen heq
    · exact hbad hok

/-- Program `d` of context `x` sends lookup `l` and waits for its result in `rd` (R44). -/
def State.lookupSent (s : State) (x : CtxId) (d : Ctx) (rd : RegNo) (l : Lookup) : State :=
  let w := (s.setCtx x { d with pend := d.pend ++ [(rd, .lkp, s.eng.serial)] }).pmc { code := 0x0601, master := ctxMaster x }
  { w with eng := { w.eng with serial := s.eng.serial + 1, lkps := Tab.put w.eng.lkps s.eng.serial l } }

theorem State.ctx?_lookupSent (s : State) (x : CtxId) (d : Ctx) (rd : RegNo) (l : Lookup) :
    (s.lookupSent x d rd l).ctx? x = some { d with pend := d.pend ++ [(rd, .lkp, s.eng.serial)] } := by
  unfold State.lookupSent State.ctx?
  dsimp only
  rw [State.pmc_counts.eng]
  exact Tab.get?_put_self ..

theorem State.lkps_lookupSent (s : State) (x : CtxId) (d : Ctx) (rd : RegNo) (l : Lookup) :
    Tab.get? (s.lookupSent x d rd l).eng.lkps s.eng.serial = some l := by
  unfold State.lookupSent
  generalize State.pmc _ _ = w
  exact Tab.get?_put_self ..

/-- Counting and then a change of the engines leave every other part alone. -/
theorem Counts.withEng {s w : State} (h : Counts s w) (eng : Eng) :
    ({ w with eng := eng } : State) = { s with regs := w.regs, tug := w.tug, hbm := w.hbm, eng := eng } := by
  rw [h.frame]

/-- Sending a lookup changes the engines and counts. -/
theorem State.lookupSent_frame (s : State) (x : CtxId) (d : Ctx) (rd : RegNo) (l : Lookup) :
    let u := s.lookupSent x d rd l
    u = { s with regs := u.regs, tug := u.tug, hbm := u.hbm, eng := u.eng } := by
  intro u
  unfold u State.lookupSent
  have hcounts := State.pmc_counts (s := s.setCtx x { d with pend := d.pend ++ [(rd, .lkp, s.eng.serial)] })
    (e := { code := 0x0601, master := ctxMaster x })
  generalize State.pmc _ _ = w at hcounts ⊢
  exact hcounts.withEng _

section lkp
variable {x : CtxId} {c : Ctx} {tbl klen koff : BitVec 6} {rd : RegNo} {nohit : Bool} {s : State} (h : Issues x 1 [rd] s c)
  (hwf : wfLkp x klen koff = true) (hroom : outstanding c < 4)
  (hkey : prpWaits c koff.toNat (koff.toNat + klen.toNat + 1) = false)
include h hwf hroom hkey

theorem exec_lkp_unfit (hfit : ¬lkpFits x klen (s.desc c.gen tbl.toNat)) : exec (.lkp x tbl klen rd koff nohit) s =
    .next (((s.setCtx x (c.after 1)).setG x rd (BitVec.ofNat 64 (2 ^ 62))).faultCount x) := by
  change execLkp x tbl klen rd koff nohit s = _
  rw [execLkp, hwf, State.fullWait_false h.running hroom, keyIssue_of h hkey]
  exact congrArg Host.Outcome.next (if_pos (lkpFits_not.1 hfit))

theorem exec_lkp_fit (hfit : lkpFits x klen (s.desc c.gen tbl.toNat)) : exec (.lkp x tbl klen rd koff nohit) s =
    .next ((s.setCtx x (c.after 1)).lookupSent x (c.after 1) rd ⟨x, rd, (c.after 1).gen, s.desc (c.after 1).gen tbl.toNat,
      keyBytes (c.after 1) koff.toNat (klen.toNat + 1), nohit, ctxGroup x, mget (c.after 1).man mPort, mZoneOf (c.after 1).man, true⟩) := by
  change execLkp x tbl klen rd koff nohit s = _
  rw [execLkp, hwf, State.fullWait_false h.running hroom, Bool.and_false, if_neg Bool.false_ne_true,
    keyIssue_of h hkey]
  have hfit1 : lkpFits x klen ((s.setCtx x (c.after 1)).desc (c.after 1).gen tbl.toNat) := hfit
  rw [← State.desc_setCtx s x (c.after 1)]
  generalize s.setCtx x (c.after 1) = s1, c.after 1 = d at hfit1 ⊢
  exact congrArg Host.Outcome.next (if_neg (fun e => lkpFits_not.2 e hfit1))

end lkp

/-- A reply leaves the engines as they are until its result goes to its register. -/
theorem execLookupReply_eq {n : Nat} {bad : Bool} {l : Lookup} {s : State} (hl : Tab.get? s.eng.lkps n = some l) :
    let s1 : State := { s with eng := { s.eng with lkps := Tab.del s.eng.lkps n } }
    let r := (s1.lookup l.group l.desc l.key).1
    ∃ w, Keeps 33285 s1 w ∧ exec (.lookupReply n bad) s =
      .next (w.resultTo l.x l.live l.rd n (if bad = true ∧ r.getLsbD 63 = true then BitVec.ofNat 64 (2 ^ 62) else r)) := by
  intro s1 r
  change ∃ w, _ ∧ execLookupReply n bad s = _
  unfold execLookupReply
  rw [hl]
  dsimp -zeta only
  extract_lets _ s2 r2 hit v s3 s4 s5 em s6
  have h3 : Keeps 33285 s1 s3 := by
    unfold s3
    split
    · exact State.parityEvent_keeps.mono rfl
    · split
      · exact State.parityEvent_keeps.mono rfl
      · exact Keeps.refl
  have h4 : Keeps 33285 s1 s4 := by
    unfold s4
    split
    · exact h3
    · exact Keeps.step State.markHit_keeps rfl h3
  have h5 : Keeps 33285 s1 s5 := by
    unfold s5
    split
    · exact h4
    · exact Keeps.step State.pmc_keeps rfl h4
  have h6 : Keeps 33285 s1 s6 := by
    unfold s6
    split
    · exact Keeps.step State.learnPost_keeps rfl h5
    · split
      · exact Keeps.step State.learnPost_keeps rfl h5
      · exact h5
  have hv : v = if bad = true ∧ r.getLsbD 63 = true then BitVec.ofNat 64 (2 ^ 62) else r :=
    ite_of_iff (by rw [Bool.and_eq_true]) rfl rfl
  exact ⟨s6, h6, congrArg (fun v => Host.Outcome.next (s6.resultTo l.x l.live l.rd n v)) hv⟩

/-- Settles O19: LKP sends the lookup where the descriptor fits; a reply's result goes to its register alone. -/
theorem lookupsAreAnswered : Obligations.LookupsAreAnswered := by
  refine ⟨fun x c tbl klen koff rd nohit s h hwf hroom hkey => ?_, fun n bad l c s hl hctx => ?_⟩
  · intro d fits s1
    refine ⟨exec_lkp_unfit h hwf hroom hkey, fun hfit => ⟨_, exec_lkp_fit h hwf hroom hkey hfit, State.ctx?_lookupSent .., State.lkps_lookupSent .., ?_⟩⟩
    exact State.lookupSent_frame (s.setCtx x (c.after 1)) ..
  · obtain ⟨w, hkeeps, hexec⟩ := execLookupReply_eq (bad := bad) hl
    have heng := hkeeps.frame.eng.resolve_left (by decide)
    refine ⟨_, hexec, ?_, ?_, ?_, ?_, ?_⟩
    · rw [State.lkps_resultTo, heng]
      exact Tab.get?_del_self ..
    · exact (State.resultTo_keeps.frame.dmem.resolve_left (by decide)).trans (hkeeps.frame.dmem.resolve_left (by decide))
    · exact (State.resultTo_keeps.frame.led.resolve_left (by decide)).trans (hkeeps.frame.led.resolve_left (by decide))
    · exact (State.resultTo_keeps.frame.buf.resolve_left (by decide)).trans (hkeeps.frame.buf.resolve_left (by decide))
    intro r v
    have hg : ∀ y q, w.g y q = s.g y q := fun y q => (State.g_congr heng y q).trans rfl
    cases hlive : l.live with
    | false => exact ⟨nofun, fun _ q => hg _ q, fun y q _ => hg y q⟩
    | true =>
      refine ⟨fun _ => ⟨?_, fun c2 => State.pend_resultTo⟩, nofun, fun y q hne => ?_⟩
      · rw [State.g_resultTo]
        exact ite_of_iff Iff.rfl rfl (if_pos ⟨rfl, rfl⟩)
      · have hother : ¬(y = l.x ∧ q = l.rd) := fun e => hne.elim (fun h => h e.1) (fun h => h e.2)
        rw [State.g_resultTo, if_neg hother, hg]
        split
        · next hq => rw [hq, State.g, if_pos rfl]
        · rfl

/-! ### HSH, MTR and FLOW -/

theorem immBits_zero (imm : BitVec 16) (len : Nat) : immBits imm 0 len = imm.toNat % 2 ^ len := by
  rw [immBits, BitVec.extractLsb'_toNat, Nat.shiftRight_zero]

theorem immBits_eq (imm : BitVec 16) (lo len : Nat) : immBits imm lo len = imm.toNat / 2 ^ lo % 2 ^ len := by
  rw [immBits, BitVec.extractLsb'_toNat, Nat.shiftRight_eq_div_pow]

theorem exec_hsh {x : CtxId} {c : Ctx} {rd ra : RegNo} {imm : BitVec 16} {s : State} (hwf : wfHsh x ra imm = true) {off n u : Nat}
    (hoff : immBits imm 0 6 = off) (hn : immBits imm 6 6 + 1 = n) (hu : immBits imm 12 4 = u) (h : Issues x ((n + 15) / 16) [rd] s c)
    (hkey : prpWaits c off (off + n) = false) : exec (.hsh x rd ra imm) s =
      .next ((s.setCtx x (c.after ((n + 15) / 16))).setG x rd (s.hashUnit u (wireBytes c.key off n))) := by
  change execHsh x rd ra imm s = _
  unfold execHsh
  dsimp only
  rw [hoff, hn, hu, hwf, keyIssue_of h hkey]
  rfl

/-- MTR that issues in profile P asks for the meter of g[ra] (R46). -/
theorem exec_mtr_pilot {x : CtxId} {c : Ctx} {rd ra rb : RegNo} {func : BitVec 11} {s : State} (hx : x.profile = .p)
    (h : Issues x 2 [rd, ra, rb] s c) (hwf : wfMtr x ra func = true) (hroom : outstanding c < 4) :
    let d := c.after 2
    let s1 := s.setCtx x d
    exec (.mtr x rd ra rb func) s = .next (if 262144 ≤ (s.g x ra).toNat then (s1.setG x rd 2).faultCount x else
      { s1.setCtx x { d with pend := c.pend ++ [(rd, .mtr, s.eng.serial)] } with
        eng := { (s1.setCtx x { d with pend := c.pend ++ [(rd, .mtr, s.eng.serial)] }).eng with
          serial := s.eng.serial + 1,
          mtrs := Tab.put s.eng.mtrs s.eng.serial
            ⟨x, rd, (s.g x ra).toNat, (s.g x rb).toNat, func.getLsbD 0, func.getLsbD 1, colourIn c.man (func.getLsbD 0), true⟩ } }) := by
  cases x with
  | pilot q e k =>
    change execMtr (.pilot q e k) rd ra rb func s = _
    unfold execMtr
    dsimp only
    rw [hwf, State.fullWait_false h.running hroom, Bool.and_false, if_neg Bool.false_ne_true, engineOnly_of h]
    rfl
  | _ => cases hx

/-- MTR that issues in profile S runs the meter of the record (R46, R147). -/
theorem exec_mtr_stev {x : CtxId} {c : Ctx} {rd ra rb : RegNo} {func : BitVec 11} {s : State} (hx : x.profile = .s)
    (h : Issues x 2 [rd, rb] s c) (hwf : wfMtr x ra func = true) (hready : s.fReady x 0x30 0x40 = true) :
    exec (.mtr x rd ra rb func) s = .next (mtrRecord x rd rb func (c.after 2) (s.setCtx x (c.after 2))) := by
  cases x with
  | stev sl e =>
    change execMtr (.stev sl e) rd ra rb func s = _
    unfold execMtr
    dsimp only
    rw [hwf, hready, Bool.not_true, Bool.and_false, if_neg Bool.false_ne_true, engineOnly_of h]
  | _ => cases hx

theorem exec_meterReply {n : Nat} {q : MeterReq} {r : State} (hq : Tab.get? r.eng.mtrs n = some q) :
    let r1 := { r with eng := { r.eng with mtrs := Tab.del r.eng.mtrs n } }
    let m := r1.meterRun q.ix (some (q.inCol, q.len, q.test))
    exec (.meterReply n false) r = .next (m.2.resultTo q.x q.live q.rd n (BitVec.ofNat 64 m.1)) := by
  change execMeterReply n false r = _
  unfold execMeterReply
  rw [hq]
  rfl

section flow
variable {x : CtxId} {c : Ctx} {rd ra : RegNo} {imm : BitVec 16} {s : State} {n prog : Nat}

/-- What the first FLOW of a program does (R47, R489). -/
def State.flowFirst (s : State) (x : CtxId) (c : Ctx) (rd : RegNo) (n prog : Nat) : State :=
  let key := wireBytes c.key 0 n
  let man := mset (mset c.man mFhash (s.hsOf key).toNat) mFprog prog
  if s.flowRefused c.gen prog n then
    (s.setCtx x { c with man := mset (mset man mFstat stBAD_PARAM) mFflags 0, flowDone := true }).setG x rd (BitVec.ofNat 64 stBAD_PARAM)
  else
    let sl := s.sliceOf prog key
    let s := s.setCtx x { c with man := man, flowDone := true, pend := c.pend ++ [(rd, .flow, 0)] }
    let s := s.updFrame c.fid (fun f => { f with flow := .asked ⟨sl % 16, Nat.mod_lt _ (by decide)⟩, flowReg := rd, askMan := man,
                                                 askKey := key, askProg := prog })
    let k := ctxUnit x * 16 + sl % 16
    { s with led := { s.led with asks := Tab.put s.led.asks k (Tab.getD s.led.asks k [] ++ [c.fid]) } }

theorem exec_flow (h : Issues x 2 [rd] s c) (hwf : wfFlow x ra imm = true) (hn : immBits imm 0 6 + 1 = n) (hprog : immBits imm 6 8 = prog)
    (hkey : prpWaits c 0 n = false) : exec (.flow x rd ra imm) s =
      .next (if c.flowDone then ((s.setCtx x (c.after 2)).faultCount x).pilotStop x rPROGRAM_FAULT none
        else (s.setCtx x (c.after 2)).flowFirst x (c.after 2) rd n prog) := by
  subst hn hprog
  change execFlow x rd ra imm s = _
  unfold execFlow
  dsimp only
  rw [hwf, keyIssue_of h hkey]
  rfl

theorem State.flowFirst_refused (href : s.flowRefused c.gen prog n = true) : s.flowFirst x c rd n prog =
    (s.setCtx x { c with
      man := mset (mset (mset (mset c.man mFhash (s.hsOf (wireBytes c.key 0 n)).toNat) mFprog prog) mFstat stBAD_PARAM) mFflags 0,
      flowDone := true }).setG x rd (BitVec.ofNat 64 stBAD_PARAM) := if_pos href

theorem State.flowFirst_asks (href : s.flowRefused c.gen prog n = false) {f : Frame} (hf : s.frame? c.fid = some f) :
    let key := wireBytes c.key 0 n
    let man := mset (mset c.man mFhash (s.hsOf key).toNat) mFprog prog
    let u := s.flowFirst x c rd n prog
    u.ctx? x = some { c with man := man, flowDone := true, pend := c.pend ++ [(rd, .flow, 0)] } ∧
      (∃ g, u.frame? c.fid = some g ∧ g.askKey = key ∧ g.askProg = prog ∧ g.askMan = man ∧ g.flowReg = rd) ∧
      u = { s with eng := u.eng, led := u.led } := by
  intro key man u
  have hu : u = _ := if_neg (ne_true_of_eq_false href)
  have hframe : ∀ d : Ctx, (s.setCtx x d).frame? c.fid = some f := fun _ => hf
  dsimp only at hu
  rw [State.updFrame, hframe] at hu
  dsimp only at hu
  rw [hu]
  refine ⟨?_, ⟨_, State.frame?_setFrame_self .., rfl, rfl, rfl, rfl⟩, rfl⟩
  exact State.ctx?_setCtx_self ..

end flow

/-- Settles O20: each instruction issues with its key there; its own tests choose what it does. -/
theorem hashesMetersAndFlows : Obligations.HashesMetersAndFlows := by
  refine ⟨fun x c rd ra imm s hwf => ?_, fun x c rd ra rb func s h hwf hroom => ?_, fun x c rd ra imm s h hwf => ?_⟩
  · intro off n u h hkey key seed
    have hu : immBits imm 12 4 = u := by
      rw [immBits_eq]
      exact Nat.mod_eq_of_lt (by omega)
    exact exec_hsh hwf (immBits_zero ..) (congrArg (· + 1) (immBits_eq ..)) hu h hkey
  · intro d s1
    refine ⟨fun hx hbig => ?_, fun hx hsmall => ?_, fun hx hready => ?_, fun n q r hq => exec_meterReply hq⟩
    · rw [if_neg (by rw [hx]; decide)] at h
      rw [exec_mtr_pilot hx h hwf hroom, if_pos hbig]
    · rw [if_neg (by rw [hx]; decide)] at h
      refine ⟨_, (exec_mtr_pilot hx h hwf hroom).trans (congrArg _ (if_neg (Nat.not_le.2 hsmall))), ?_, rfl, _, Tab.get?_put_self .., rfl, rfl, rfl, rfl⟩
      exact State.ctx?_setCtx_self ..
    · rw [if_pos hx] at h
      exact exec_mtr_stev hx h hwf hready
  · intro n prog d s1 key man hkey
    have hexec := exec_flow h hwf (congrArg (· + 1) (immBits_zero imm 6)) (immBits_eq imm 6 8) hkey
    refine ⟨fun hdone => ?_, fun hfirst href => ?_, fun hfirst href f hf => ?_⟩
    · rw [hexec, if_pos hdone]
    · rw [hexec, if_neg (ne_true_of_eq_false hfirst)]
      exact congrArg _ (State.flowFirst_refused (s := s1) (c := d) href)
    · rw [if_neg (ne_true_of_eq_false hfirst)] at hexec
      obtain ⟨hctx, hframe, hrest⟩ := State.flowFirst_asks (s := s1) (c := d) (x := x) (rd := rd) href hf
      exact ⟨_, hexec, hctx, hframe, hrest⟩

/-! ### Operations that end or mark a program -/

theorem inProfiles_of {x : CtxId} {l : List Profile} (h : x.profile ∈ l) : inProfiles x l = true := by
  simpa [inProfiles] using h

section operations
variable {x : CtxId} {c : Ctx} {s : State} (h : Issues x 1 [] s c)
include h

/-- NOP runs in every profile. -/
theorem exec_nop_engine : exec (.nop x) s = .next (s.setCtx x (c.after 1)) := by
  change issue x "NOP" (inProfiles x [.p, .s, .e, .t]) false [] s id = _
  rw [inProfiles_pset h.profile, issue_engine h]
  rfl

theorem exec_endProg (hx : x.profile = .p ∨ x.profile = .e) : exec (.endProg x) s = .next ((s.setCtx x (c.after 1)).progEnd x) := by
  change engineOnly x "END" (inProfiles x [.p, .e]) 1 [] s (fun _ s => s.progEnd x) = _
  rw [inProfiles_of (by simpa using hx), engineOnly_of h]

theorem exec_drop (reason : BitVec 8) : exec (.drop x reason) s = .next (match x.profile with
    | .s => (s.setCtx x (c.after 1)).setCtx x { c.after 1 with man := flowFlag (c.after 1).man ffDROP reason.toNat }
    | .p => ((s.setCtx x (c.after 1)).setCtx x { c.after 1 with man := mDrop (c.after 1).man reason.toNat }).pilotEnd x false
    | _ => (((s.setCtx x (c.after 1)).rewAsked x).rewDrop x reason.toNat).bump F.egrCntProgDrop (ctxUnit x)) := by
  change execDrop x reason s = _
  rw [execDrop, inProfiles_of (by simpa using h.profile)]
  exact engineOnly_of h ..

theorem exec_excp (cause : BitVec 6) (copy : Bool) : exec (.excp x cause copy) s = .next (match x.profile with
    | .s => (s.setCtx x (c.after 1)).setCtx x { c.after 1 with man := flowFlag (c.after 1).man ffEXC cause.toNat }
    | .p => if copy then (s.setCtx x (c.after 1)).setCtx x { c.after 1 with man := mCopyReq (c.after 1).man cause.toNat }
      else ((s.setCtx x (c.after 1)).setCtx x { c.after 1 with man := mExc (c.after 1).man cause.toNat }).pilotEnd x false
    | _ => if copy then (s.setCtx x (c.after 1)).setCtx x { c.after 1 with excCopy := some cause }
      else (((s.setCtx x (c.after 1)).rewAsked x).rewCopyAsk x cause.toNat).rewDrop x 0) := by
  change execExcp x cause copy s = _
  rw [execExcp, inProfiles_of (by simpa using h.profile)]
  exact engineOnly_of h ..

theorem exec_recirc (hx : x.profile = .p) : exec (.recirc x) s = .next (((s.setCtx x (c.after 1)).setCtx x { c.after 1 with
    man := if c.pass = 3 then mDrop (c.after 1).man rRECIRC_LIMIT else msetBits (c.after 1).man mAct 0 2 vRECIRCULATE }).pilotEnd x false) := by
  change execRecirc x s = _
  rw [execRecirc, inProfiles_of (by simpa using hx), engineOnly_of h]
  rfl

theorem exec_mirror (hx : x.profile = .p ∨ x.profile = .e) (ses : BitVec 4) : exec (.mirror x ses) s = .next (
    if x.profile = .p then (s.setCtx x (c.after 1)).setCtx x { c.after 1 with
      man := msetBits (msetBits (c.after 1).man mAct 9 4 ses.toNat) mAct 13 1 1 }
    else (s.setCtx x (c.after 1)).setCtx x { c.after 1 with mirror := some ses.toNat }) := by
  change execMirror x ses s = _
  rw [execMirror, inProfiles_of (by simpa using hx), engineOnly_of h]

end operations

/-- A number kept by its place in a table is kept by a filter of the places. -/
theorem Tab.get?_filter_key {α : Type} (t : Tab α) (p : Nat → Bool) (k : Nat) :
    Tab.get? (t.filter (fun e => p e.1)) k = if p k then Tab.get? t k else none := by
  induction t with
  | nil => simp [Tab.get?]
  | cons e t ih =>
    obtain ⟨n, v⟩ := e
    by_cases hn : n = k
    · subst hn
      cases hp : p n <;> simp [List.filter, hp, Tab.get?, ih]
    · cases hp : p n <;> simp [List.filter, hp, Tab.get?, ih, hn]

/-- A context whose registers are cleared reads zeros; every other context reads as before. -/
theorem State.g_zeroG (s : State) (x y : CtxId) (r : RegNo) : (s.zeroG x).g y r = if y = x then 0 else s.g y r := by
  have hkey : (y.code * 32 + r.val) / 32 = y.code := by omega
  unfold State.g State.zeroG Tab.getD
  dsimp only
  rw [Tab.get?_filter_key s.eng.gregs (fun n => n / 32 != x.code), hkey]
  by_cases hyx : y = x
  · simp [hyx]
  · have hcode : (y.code != x.code) = true := bne_iff_ne.2 (fun e => hyx (CtxId.code_inj e))
    simp [hyx, hcode]

theorem State.g_ctxFree (s : State) (x y : CtxId) (r : RegNo) : (s.ctxFree x).g y r = if y = x then 0 else s.g y r :=
  State.g_zeroG ((s.orphan x).delCtx x) x y r

theorem State.ctx?_ctxFree_self (s : State) (x : CtxId) : (s.ctxFree x).ctx? x = none := Tab.get?_del_self ..

theorem State.ctx?_ctxFree_ne (s : State) {x y : CtxId} (h : y ≠ x) : (s.ctxFree x).ctx? y = s.ctx? y :=
  Tab.get?_del_ne _ fun e => h (CtxId.code_inj e)

/-- FEND frees the context, puts what the pass has made into its berth, and lets the berths of the slice settle (R58, R157). -/
theorem exec_fend {x : CtxId} {c : Ctx} {s : State} (h : Issues x 1 [] s c) (hx : x.profile = .s) (w dl : Bool) :
    ∃ u : State, exec (.fend x w dl) s = .next (u.passSettleN (ctxUnit x) 3) ∧ u.ctx? x = none ∧
      (∀ st, s.berth? (ctxUnit x) c.berth = some st → ∃ b : BerthSt, u.berth? (ctxUnit x) c.berth = some b ∧ b.phase = .heldLen ∧
        b.out = c.f ∧ b.wrote = c.fW ∧ b.write = w ∧ b.delete = dl ∧ b.manOut = c.man) := by
  change ∃ u : State, execFend x w dl s = _ ∧ _
  rw [execFend, inProfiles_of (by simpa using hx), engineOnly_of h]
  dsimp only
  have hpass : (s.setCtx x (c.after 1)).passOf x = (ctxUnit x, c.berth) := by
    rw [State.passOf, State.ctx?_setCtx_self]
    rfl
  rw [hpass]
  refine ⟨_, rfl, ?_, fun st hst => ?_⟩
  · rw [State.updBerth]
    split <;> exact State.ctx?_ctxFree_self ..
  · have hberth : ((s.setCtx x (c.after 1)).ctxFree x).berth? (ctxUnit x) c.berth = some st := hst
    rw [State.updBerth, hberth]
    dsimp only
    rw [State.setBerth, State.berth?, State.slice_setSlice_self]
    exact ⟨_, Tab.get?_put_self .., rfl, rfl, rfl, rfl, rfl, rfl⟩

theorem exec_waitPend {x : CtxId} {c : Ctx} {s : State} (h : Issues x 0 [] s c) : exec (.waitPend x) s =
    .next (if c.pend = [] then s.setCtx x (c.after 0) else s) := by
  have hexec : exec (.waitPend x) s = (match s.ctx? x with
      | some c => if !c.ended && !c.pend.isEmpty then .next s else engineOnly x "WAIT" (inProfiles x [.p, .s, .e]) 0 [] s (fun _ s => s)
      | none => engineOnly x "WAIT" (inProfiles x [.p, .s, .e]) 0 [] s (fun _ s => s)) := by
    cases x with
    | tug t => rcases h.profile with e | e | e <;> cases e
    | _ => rfl
  rw [hexec, h.running, inProfiles_of (by simpa using h.profile), engineOnly_of h]
  dsimp only
  rw [h.going]
  cases c.pend <;> rfl

/-- The end of a parse program up to the resolution of its frame (R31, R48). -/
def State.pilotEnded (s : State) (x : CtxId) (c : Ctx) (stopped : Bool) : State :=
  ((s.ctxFree x).pmc (frameEv 0x0402 (0x20 + ctxUnit x) c.man false c.cyc)).updFrame c.fid (fun f =>
    { f with man := manMerge c.man f.flowOut f.flowOutW 128, manW := c.manW ||| f.flowOutW, parse := c.parse, stage := .parsed, stopped := stopped })

theorem State.pilotEnd_eq {s : State} {x : CtxId} {c : Ctx} (hctx : s.ctx? x = some c) (stopped : Bool) :
    s.pilotEnd x stopped = (s.pilotEnded x c stopped).resolveFrame c.fid := by
  rw [State.pilotEnd, hctx]
  rfl

theorem State.eng_pilotEnded {s : State} (x : CtxId) {c : Ctx} (stopped : Bool) {f : Frame} (hf : s.frame? c.fid = some f) :
    (s.pilotEnded x c stopped).eng = ((s.ctxFree x).setFrame c.fid { f with
      man := manMerge c.man f.flowOut f.flowOutW 128, manW := c.manW ||| f.flowOutW, parse := c.parse, stage := .parsed, stopped := stopped }).eng := by
  have heng := State.pmc_counts (s := s.ctxFree x) (e := frameEv 0x0402 (0x20 + ctxUnit x) c.man false c.cyc) |>.eng
  unfold State.pilotEnded
  generalize State.pmc _ _ = w at heng
  have hw : w.frame? c.fid = some f := (congrArg (fun eng : Eng => Tab.get? eng.frames c.fid) heng).trans hf
  rw [State.updFrame, hw]
  dsimp only [State.setFrame]
  rw [heng]

/-- Settles O21: an operation that issues does what its profile's case says; the end of a parse program frees its context and gives its
frame the manifest. -/
theorem programOperations : Obligations.ProgramOperations := by
  refine ⟨fun x c reason cause ses w dl s h => ?_, fun x c s h => ?_, fun x c stopped f s hctx hf => ?_⟩
  · intro d s1
    refine ⟨exec_nop_engine h, fun hx => ⟨?_, ?_, ?_, ?_, ?_, ?_⟩, fun hx => ⟨?_, fun b => ?_, exec_fend h hx w dl⟩,
      fun hx => ⟨?_, ?_, ?_, ?_, ?_⟩⟩
    · rw [exec_endProg h (.inl hx), State.progEnd, if_pos hx]
    · rw [exec_drop h, hx]
    · rw [exec_excp h, hx]
      rfl
    · rw [exec_excp h, hx]
      rfl
    · exact exec_recirc h hx
    · rw [exec_mirror h (.inl hx), if_pos hx]
    · rw [exec_drop h, hx]
    · rw [exec_excp h, hx]
    · rw [exec_endProg h (.inr hx), State.progEnd, if_neg (by rw [hx]; decide)]
    · rw [exec_drop h, hx]
    · rw [exec_excp h, hx]
      rfl
    · rw [exec_excp h, hx]
      rfl
    · rw [exec_mirror h (.inr hx), if_neg (by rw [hx]; decide)]
  · rw [exec_waitPend h]
    exact ⟨fun hp => by rw [if_pos hp], fun hp => by rw [if_neg hp]⟩
  · have heng := State.eng_pilotEnded (s := s) x stopped hf
    have hctxs : ∀ y, (s.pilotEnded x c stopped).ctx? y = (s.ctxFree x).ctx? y := fun y => by
      rw [State.ctx?, heng]
      rfl
    have hg : ∀ y r, (s.pilotEnded x c stopped).g y r = (s.ctxFree x).g y r := fun y r => State.g_congr heng y r
    refine ⟨_, State.pilotEnd_eq hctx stopped, ?_, fun r => ?_, fun y hy => ⟨?_, fun r => ?_⟩, ?_⟩
    · rw [hctxs, State.ctx?_ctxFree_self]
    · rw [hg, State.g_ctxFree, if_pos rfl]
    · rw [hctxs, State.ctx?_ctxFree_ne _ hy]
    · rw [hg, State.g_ctxFree, if_neg hy]
    · rw [State.frame?, heng]
      exact ⟨_, Tab.get?_put_self .., rfl, rfl, rfl, rfl, rfl⟩

end Sys2Proof.Machine
end

section
/-!
PROOFS. Modes, resets, HALT, self-tests and sensors: what each step does to the registers that the mode hangs on, and the state it leaves.
-/
namespace Sys2Proof.Machine
set_option Elab.async false

/-! ### Which registers an operation may write -/

/-- From `s` to `t` no register outside the list has been written. -/
structure Writes (l : List Reg) (s t : State) : Prop where
  reg : ∀ r, r ∉ l → ∀ i, t.reg r i = s.reg r i

namespace Writes

theorem refl {l : List Reg} {s : State} : Writes l s s := ⟨fun _ _ _ => rfl⟩

theorem trans {l : List Reg} {s t u : State} (h1 : Writes l s t) (h2 : Writes l t u) : Writes l s u :=
  ⟨fun r hr i => (h2.reg r hr i).trans (h1.reg r hr i)⟩

theorem mono {l k : List Reg} {s t : State} (h : Writes l s t) (hk : ∀ r ∈ l, r ∈ k) : Writes k s t :=
  ⟨fun r hr i => h.reg r (fun hl => hr (hk r hl)) i⟩

theorem of_regs {l : List Reg} {s t : State} (h : t.regs = s.regs) : Writes l s t := ⟨fun _ _ _ => State.reg_congr h ..⟩

theorem set {l : List Reg} {s : State} {f : Fld} {i x : Nat} (h : f.reg ∈ l) : Writes l s (s.set f i x) :=
  ⟨fun _ hr _ => State.reg_setReg_ne _ _ (.inl fun e => hr (e ▸ h))⟩

theorem setBit {l : List Reg} {s : State} {f : Fld} {i : Nat} {b : Bool} (h : f.reg ∈ l) : Writes l s (s.setBit f i b) := set h

theorem foldl {α : Type} {l : List Reg} {s : State} {xs : List α} {f : State → α → State} (h : ∀ t a, Writes l t (f t a)) :
    Writes l s (xs.foldl f s) :=
  List.foldlRecOn (motive := fun t => Writes l s t) xs f refl fun t ht a _ => ht.trans (h t a)

theorem get {l : List Reg} {s t : State} (h : Writes l s t) {f : Fld} (hf : f.reg ∉ l) (i : Nat) : t.get f i = s.get f i := by
  unfold State.get
  rw [h.reg _ hf]

theorem bit {l : List Reg} {s t : State} (h : Writes l s t) {f : Fld} (hf : f.reg ∉ l) (i : Nat) : t.bit f i = s.bit f i := by
  unfold State.bit
  rw [h.get hf]

end Writes

theorem State.get_set_other (s : State) {f g : Fld} (i j x : Nat) (h : g.reg ≠ f.reg) : (s.set f i x).get g j = s.get g j :=
  State.get_set_reg s f g i j x (.inl h)

theorem State.bit_set_other (s : State) {f g : Fld} (i j x : Nat) (h : g.reg ≠ f.reg) : (s.set f i x).bit g j = s.bit g j := by
  rw [State.bit, State.get_set_other _ _ _ _ h, State.bit]

theorem State.bit_setBit_other (s : State) {f g : Fld} (i j : Nat) (b : Bool) (h : g.reg ≠ f.reg) : (s.setBit f i b).bit g j = s.bit g j :=
  State.bit_set_other s i j _ h

/-- Another field of the same register stays as it was. -/
theorem State.bit_setBit_field (s : State) {f g : Fld} (i : Nat) (b : Bool) (hr : g.reg = f.reg) (hg : g.lo + g.len ≤ 320)
    (hd : g.lo + g.len ≤ f.lo ∨ f.lo + f.len ≤ g.lo) : (s.setBit f i b).bit g i = s.bit g i := by
  rw [State.bit, State.setBit, State.get_set_field _ _ _ _ _ hr hg hd, State.bit]

/-- What a fold does for one element of its list, and no other element undoes, holds after it. -/
theorem foldl_makes {α β : Type} {P : β → Prop} {f : β → α → β} {a : α} (hmake : ∀ t, P (f t a)) (hkeep : ∀ t b, P t → P (f t b)) :
    ∀ (l : List α) (t : β), a ∈ l → P (l.foldl f t)
  | b :: l, t, h => by
    rcases List.mem_cons.1 h with rfl | h
    · exact List.foldlRecOn (motive := P) l f (hmake t) fun u hu b _ => hkeep u b hu
    · exact foldl_makes hmake hkeep l _ h

/-- What every element of a fold leaves true is true after it. -/
theorem foldl_keeps {α β : Type} {P : β → Prop} {f : β → α → β} (hkeep : ∀ t b, P t → P (f t b)) (l : List α) {t : β} (h : P t) :
    P (l.foldl f t) :=
  List.foldlRecOn (motive := P) l f h fun u hu b _ => hkeep u b hu

/-! ### HALT -/

/-- HALT up to the links: the log is flushed, the host told, the mode set. -/
def State.haltMode (s : State) : State := (s.logHalt.emit .aer).setMode mHALT

/-- HALT's end of every link (R445). -/
def State.haltLinks (s : State) : State :=
  (s.regIxs .tmPortStatus).foldl (fun s p => (s.setBit F.tmPortStatus_link p false).setBit F.portStatus_link (portIx p) false) s

/-- HALT's end of every core's work (R445). -/
def State.haltCores (s : State) : State :=
  (((List.range 16).foldl (fun s t => s.setIdle t) s).setBit F.hborStatus_active 0 false).setBit F.hborStatus_checking 0 false

/-- HALT's end of all that is under way; of the registers nothing changes any more. -/
def State.haltClear (s : State) : State :=
  { s with
    ports := { s.ports with wire := [] }
    eng := { s.eng with frames := [], ctxs := [], lkps := [], mtrs := [], quays := [] }
    tm := { s.tm with copies := [], queues := [], windows := [] }
    hbor := { s.hbor with frames := [], queues := [], check := none, draining := none }
    time := { s.time with todDue := [] }
    cmd := { s.cmd with ready := [], engines := [], parked := [], current := [] }
    tug := { s.tug with ready := [], delay := [] }
    mode := { s.mode with haltOwed := false, causeSeen := false, trans := none } }

theorem State.haltIn_eq (s : State) : s.haltIn = s.haltMode.haltLinks.haltCores.haltClear := by
  unfold State.haltIn State.haltClear State.haltCores State.haltLinks State.haltMode
  dsimp only

theorem State.regs_haltClear (s : State) : s.haltClear.regs = s.regs := rfl

theorem State.out_haltClear (s : State) : s.haltClear.out = s.out := rfl

theorem State.haltLinks_writes {s : State} : Writes [.tmPortStatus, .portStatus] s s.haltLinks :=
  Writes.foldl fun _ _ => (Writes.setBit (by decide)).trans (Writes.setBit (by decide))

theorem State.haltCores_writes {s : State} : Writes [.tugCoreStatus, .hborStatus] s s.haltCores :=
  ((Writes.foldl fun _ _ => Writes.setBit (by decide)).trans (Writes.setBit (by decide))).trans (Writes.setBit (by decide))

theorem State.modeNo_haltIn (s : State) : s.haltIn.modeNo = mHALT := by
  have hlinks : s.haltMode.haltLinks.modeNo = s.haltMode.modeNo := State.haltLinks_writes.get (by decide) 0
  have hcores : s.haltMode.haltLinks.haltCores.modeNo = s.haltMode.haltLinks.modeNo := State.haltCores_writes.get (by decide) 0
  calc s.haltIn.modeNo = s.haltMode.haltLinks.haltCores.modeNo := by rw [State.haltIn_eq]; exact State.get_congr (State.regs_haltClear _) ..
    _ = s.haltMode.modeNo := hcores.trans hlinks
    _ = mHALT := State.modeNo_setMode ..

theorem Tab.get?_eq_none {α : Type} {t : Tab α} {k : Nat} (h : ∀ e ∈ t, e.1 ≠ k) : Tab.get? t k = none := by
  induction t with
  | nil => rfl
  | cons e t ih =>
    exact (if_neg (h e (List.mem_cons_self ..))).trans (ih fun e' he' => h e' (List.mem_cons_of_mem _ he'))

/-- A port whose status no register holds has no link. -/
theorem State.link_of_not_mem {s : State} {p : Nat} (h : p ∉ s.regIxs .tmPortStatus) : s.bit F.tmPortStatus_link p = false := by
  have hget : Tab.get? s.regs (regKey .tmPortStatus p) = none := by
    refine Tab.get?_eq_none fun e he hkey => h (List.mem_map.2 ⟨e, List.mem_filter.2 ⟨he, ?_⟩, ?_⟩)
    · rw [hkey, regKey, Nat.add_mul_mod_self_left, Nat.mod_eq_of_lt (Reg.ctorIdx_lt _)]
      exact beq_self_eq_true _
    · rw [hkey, regKey, Nat.add_mul_div_left _ _ (by decide), Nat.div_eq_of_lt (Reg.ctorIdx_lt _), Nat.zero_add]
  unfold State.bit State.get State.reg
  rw [hget]
  rfl

/-- Taking a link down leaves every link that is down as it was. -/
theorem State.link_down_keeps {s : State} {p : Nat} (q : Nat) (h : s.bit F.tmPortStatus_link p = false) :
    ((s.setBit F.tmPortStatus_link q false).setBit F.portStatus_link (portIx q) false).bit F.tmPortStatus_link p = false := by
  rw [State.bit_setBit_other _ _ _ _ (by decide)]
  by_cases hqp : q = p
  · exact hqp ▸ State.bit_setBit_self _ _ _ _ (by decide) (by decide)
  · rw [State.bit, State.setBit, State.get_set_reg _ _ _ _ _ _ (.inr (Ne.symm hqp))]
    exact h

theorem State.link_haltLinks (s : State) (p : Nat) : s.haltLinks.bit F.tmPortStatus_link p = false := by
  by_cases hp : p ∈ s.regIxs .tmPortStatus
  · refine foldl_makes (P := fun t : State => t.bit F.tmPortStatus_link p = false) (a := p) (fun t => ?_)
      (fun t q => State.link_down_keeps q) _ _ hp
    rw [State.bit_setBit_other _ _ _ _ (by decide)]
    exact State.bit_setBit_self _ _ _ _ (by decide) (by decide)
  · exact foldl_keeps (P := fun t : State => t.bit F.tmPortStatus_link p = false) (fun t q => State.link_down_keeps q) _
      (State.link_of_not_mem hp)

/-- A core that idles runs nothing. -/
theorem State.running?_of_idle {s : State} {t : Nat} (h : s.bit F.tugCoreStatus_idle t = true) : s.running? t = none := if_pos h

theorem State.idle_haltCores (s : State) (t : Core) : s.haltCores.bit F.tugCoreStatus_idle t.val = true := by
  unfold State.haltCores
  rw [State.bit_setBit_other _ _ _ _ (by decide), State.bit_setBit_other _ _ _ _ (by decide)]
  refine foldl_makes (P := fun u : State => u.bit F.tugCoreStatus_idle t.val = true) (a := t.val) (fun u => ?_) (fun u k hu => ?_) _ _
    (List.mem_range.2 t.isLt)
  · exact State.bit_setBit_self _ _ _ _ (by decide) (by decide)
  · by_cases hk : k = t.val
    · exact hk ▸ State.bit_setBit_self _ _ _ _ (by decide) (by decide)
    · rw [State.bit, State.setIdle, State.setBit, State.get_set_reg _ _ _ _ _ _ (.inr (Ne.symm hk))]
      exact hu

theorem State.bit_haltIn {s : State} {f : Fld} {i : Nat} : s.haltIn.bit f i = s.haltMode.haltLinks.haltCores.bit f i := by
  rw [State.haltIn_eq]
  exact State.bit_congr (State.regs_haltClear _) ..

theorem State.aer_mem_haltIn (s : State) : OutEv.aer ∈ s.haltIn.out := by
  have hlinks : Keeps 1 s.haltMode s.haltMode.haltLinks := Keeps.foldl (fun _ _ => State.setBit_keeps.trans State.setBit_keeps) Keeps.refl
  have hcores : Keeps 1 s.haltMode.haltLinks s.haltMode.haltLinks.haltCores :=
    ((Keeps.foldl (fun _ _ => State.setIdle_keeps) Keeps.refl).trans State.setBit_keeps).trans State.setBit_keeps
  have hmode : OutEv.aer ∈ s.haltMode.out := List.mem_append_right _ (List.mem_singleton_self _)
  rw [State.haltIn_eq, State.out_haltClear]
  exact (hlinks.out.trans hcores.out).subset hmode

/-- HALT ends in HALT with links down, cores idle and nothing under way (R445). -/
theorem State.haltIn_ends (s : State) : s.haltIn.modeNo = mHALT ∧ (∀ t : Core, s.haltIn.running? t.val = none) ∧
    (∀ p, p < 130 → s.haltIn.bit F.tmPortStatus_link p = false) ∧ s.haltIn.cmd.engines = [] ∧ s.haltIn.cmd.current = [] ∧
    s.haltIn.eng.frames = [] ∧ s.haltIn.tm.copies = [] ∧ s.haltIn.mode.haltOwed = false ∧ OutEv.aer ∈ s.haltIn.out := by
  refine ⟨s.modeNo_haltIn, fun t => State.running?_of_idle ?_, fun p _ => ?_, ?_, ?_, ?_, ?_, ?_, s.aer_mem_haltIn⟩
  · rw [State.bit_haltIn, State.idle_haltCores]
  · rw [State.bit_haltIn, State.haltCores_writes.bit (by decide), State.link_haltLinks]
  all_goals
    rw [State.haltIn_eq]
    rfl

/-! ### Transitions under way -/

theorem State.settleTrans_trans {s : State} (status : Nat) : (s.settleTrans status).mode.trans = none := by
  unfold State.settleTrans
  cases h : s.mode.trans with
  | none => exact h
  | some t => rfl

theorem State.regs_settleTrans (s : State) (status : Nat) : (s.settleTrans status).regs = s.regs :=
  State.settleTrans_keeps.frame.regs.resolve_left (by decide)

/-- Taking a mask out of PAUSED clears its bits. -/
theorem testBit_unmask {old mask q : Nat} (hq : q < 16) (h : mask.testBit q = true) :
    ((old &&& Nat.xor 0xFFFF mask) % 65536).testBit q = false := by
  have hxor : (Nat.xor 0xFFFF mask).testBit q = ((0xFFFF : Nat).testBit q ^^ mask.testBit q) := Nat.testBit_xor ..
  have hones : (0xFFFF : Nat).testBit q = true := by
    rw [show (0xFFFF : Nat) = 2 ^ 16 - 1 by rfl, Nat.testBit_two_pow_sub_one]
    exact decide_eq_true hq
  rw [show 65536 = 2 ^ 16 by rfl, Nat.testBit_mod_two_pow, Nat.testBit_and, hxor, hones, h]
  simp

/-- A transition that has run out of time resumes its quays and leaves the mode (R428). -/
theorem exec_slackTimeout_late {s : State} {t : Pending} {d : Nat} (ht : s.mode.trans = some t) (hd : t.deadlineNs = some d) (hlate : d ≤ s.ns) :
    ∃ u : State, exec .slackTimeout s = .next u ∧ u.mode.trans = none ∧ u.modeNo = s.modeNo ∧
      ∀ q, q < 16 → t.mask.toNat.testBit q = true → (u.get F.sysMode_paused 0).testBit q = false := by
  have hexec : exec .slackTimeout s = .next (({ s with hbor := { s.hbor with draining := none } }.setPaused
      (s.get F.sysMode_paused 0 &&& Nat.xor 0xFFFF t.mask.toNat)).settleTrans stTIMEOUT) := by
    change execSlackTimeout s = _
    rw [execSlackTimeout, ht]
    dsimp only
    rw [hd]
    exact congrArg Host.Outcome.next (if_neg (Nat.not_lt.2 hlate))
  refine ⟨_, hexec, State.settleTrans_trans _, ?_, fun q hq hbit => ?_⟩
  · rw [State.modeNo, State.get_congr (State.regs_settleTrans ..), State.get_setPaused _ _ _ (by decide) (by decide),
      State.get_set_field _ F.sysMode_paused F.sysMode_mode _ _ rfl (by decide) (by decide)]
    rfl
  · rw [State.get_congr (State.regs_settleTrans ..), State.paused_setPaused]
    exact testBit_unmask hq hbit

/-- Settles O56: each step's answer is the branch of its definition that the hypotheses choose; what HALT leaves is `State.haltIn_ends`. -/
theorem slackAndHalt : Obligations.SlackAndHalt := by
  intro s
  refine ⟨fun hnone => ?_, fun t ht => ⟨fun hf htarget hq => ?_, fun hf htarget hq hcopies => ?_, fun hstay => ?_, fun d hd hearly => ?_,
    fun d hd hlate => exec_slackTimeout_late ht hd hlate⟩, s.haltIn_ends, fun howed hreset hhalt => ?_, fun howed => ?_, ⟨fun hmode => ?_,
    fun hreset hhalt => ?_⟩, fun hheld => ?_, fun hheld => ?_⟩
  · change execSlackQuiesced s = _ ∧ execSlackTimeout s = _
    rw [execSlackQuiesced, execSlackTimeout, hnone]
    exact ⟨rfl, rfl⟩
  · change execSlackQuiesced s = _
    rw [execSlackQuiesced, ht]
    dsimp only
    rw [if_neg (by rw [hf]; decide), if_pos htarget, hq]
    exact congrArg Host.Outcome.next (if_pos rfl)
  · change execSlackQuiesced s = _
    rw [execSlackQuiesced, ht]
    dsimp only
    rw [if_neg (by rw [hf]; decide), if_neg (by rw [htarget]; decide), hq, hcopies]
    exact congrArg Host.Outcome.next (if_pos rfl)
  · change execSlackQuiesced s = _
    rw [execSlackQuiesced, ht]
    dsimp only
    rcases hstay with hf | ⟨htarget, hcopies⟩
    · rw [if_pos hf]
    · rw [if_neg htarget, List.isEmpty_eq_false_iff.2 hcopies, Bool.and_false]
      exact congrArg Host.Outcome.next (ite_self _)
  · change execSlackTimeout s = _
    rw [execSlackTimeout, ht]
    dsimp only
    rw [hd]
    exact congrArg Host.Outcome.next (if_pos hearly)
  · exact congrArg Host.Outcome.next (if_pos ⟨howed, hreset, hhalt⟩)
  · exact congrArg Host.Outcome.next (if_neg fun h => Bool.false_ne_true (howed.symm.trans h.1))
  · exact congrArg Host.Outcome.next (if_pos hmode)
  · exact congrArg Host.Outcome.next (if_neg fun h => h.elim hreset hhalt)
  · exact congrArg Host.Outcome.next (if_pos hheld)
  · exact congrArg Host.Outcome.next (if_neg (by rw [hheld]; decide))

end Sys2Proof.Machine
end

section
/-!
PROOFS. Self-tests, sensors, resets and boot.
-/
namespace Sys2Proof.Machine
set_option Elab.async false

/-! ### Self-tests -/

/-- Dropping a register's words leaves every other register as it was. -/
theorem State.dropReg_writes {s : State} (r : Reg) : Writes [r] s (s.dropReg r) := by
  refine ⟨fun q hq i => ?_⟩
  have hkey : regKey q i % 1024 = q.ctorIdx := by
    rw [regKey, Nat.add_mul_mod_self_left, Nat.mod_eq_of_lt (Reg.ctorIdx_lt _)]
  have hkept : (regKey q i % 1024 != r.ctorIdx) = true := by
    rw [hkey]
    exact bne_iff_ne.2 fun e => hq (List.mem_singleton.2 (Reg.ctorIdx_inj e))
  unfold State.dropReg State.reg
  rw [Tab.get?_filter_key s.regs (fun n => n % 1024 != r.ctorIdx), if_pos hkept]

theorem State.bistZero_writes {s : State} (k : Nat) : Writes [.hborEntry, .hborGcl, .hborGclHdr] s (s.bistZero k) := by
  match k with
  | 0 => exact Writes.of_regs rfl
  | 1 => exact Writes.of_regs rfl
  | 2 => exact Writes.of_regs rfl
  | 3 => exact Writes.of_regs rfl
  | 4 => exact ((((State.dropReg_writes _).mono (by decide)).trans ((State.dropReg_writes _).mono (by decide))).trans
      ((State.dropReg_writes _).mono (by decide))).trans (Writes.of_regs rfl)
  | _ + 5 => exact Writes.of_regs rfl

/-- No self-test brings a byte of tug memory back. -/
theorem State.bistZero_dmem {s : State} (k : Nat) (h : s.dmem = [] ∧ s.tug.bad = []) : (s.bistZero k).dmem = [] ∧ (s.bistZero k).tug.bad = [] := by
  match k with
  | 0 => exact h
  | 1 => exact h
  | 2 => exact h
  | 3 => exact ⟨rfl, rfl⟩
  | 4 => exact h
  | _ + 5 => exact h

/-- The self-tests that were selected run one after the other (R425). -/
def State.bistRun (s : State) (sel : Nat) : State := (List.range 6).foldl (fun s k => if sel.testBit k then s.bistZero k else s) s

theorem State.bistRun_writes {s : State} (sel : Nat) : Writes [.hborEntry, .hborGcl, .hborGclHdr] s (s.bistRun sel) := by
  refine Writes.foldl fun t k => ?_
  split
  · exact State.bistZero_writes k
  · exact Writes.refl

theorem State.bistRun_dmem {s : State} {sel : Nat} (h : sel.testBit 3 = true) : (s.bistRun sel).dmem = [] ∧ (s.bistRun sel).tug.bad = [] := by
  refine foldl_makes (P := fun t : State => t.dmem = [] ∧ t.tug.bad = []) (a := 3) (fun t => ?_) (fun t k ht => ?_) _ _ (by decide)
  · rw [if_pos h]
    exact ⟨rfl, rfl⟩
  · split
    · exact State.bistZero_dmem k ht
    · exact ht

theorem exec_drydockBistDone {s : State} (fail : BitVec 6) (hmode : s.modeNo = mDRYDOCK) (hbusy : s.bit F.sysDrydockStatus_busy 0 = true) :
    exec (.drydockBistDone fail) s = .next (((s.setBit F.sysDrydockStatus_busy 0 false).set F.sysDrydockStatus_fail 0
      (fail.toNat &&& s.get F.sysDrydockCtl_bist 0)).bistRun (s.get F.sysDrydockCtl_bist 0)) :=
  congrArg Host.Outcome.next (if_neg (not_or.2 ⟨not_not_intro hmode, by rw [hbusy]; decide⟩))

/-! ### Temperatures -/

/-- The temperatures as they are stored. -/
def State.tempMax (s : State) (die hbm : BitVec 8) : State := (s.set F.sysTemp_dieMax 0 die.toNat).set F.sysTemp_hbmMax 0 hbm.toNat

/-- Which stacks are hot is a free choice, but some stack is at 95 degrees. -/
def State.tempHot (s : State) (hbm : BitVec 8) : State :=
  if 95 ≤ hbm.toInt then (s.set F.sysTemp_hbmHot 0 (1 + s.freeVal.toNat % 15)).useFree else s.set F.sysTemp_hbmHot 0 0

/-- The alarm rises once. -/
def State.tempRise (s : State) (die : BitVec 8) : State :=
  if (BitVec.ofNat 8 (s.get F.sysTemp_alarmThr 0)).toInt ≤ die.toInt ∧ s.bit F.sysTemp_alarm 0 = false then
    (s.setBit F.sysTemp_alarm 0 true).emit .alert else s

/-- The cold mark of the core voltage. -/
def State.tempCold (s : State) (die : BitVec 8) : State :=
  if s.modeNo = mRESET then s
  else if die.toInt < 0 then s.setBit F.sysAvs_cold 0 true
  else if 5 ≤ die.toInt then s.setBit F.sysAvs_cold 0 false
  else s

theorem exec_tempAlarm (die hbm : BitVec 8) (s : State) : exec (.tempAlarm die hbm) s =
    .next ((((s.tempMax die hbm).tempHot hbm).tempRise die).tempCold die) := rfl

theorem State.tempCold_writes {s : State} (die : BitVec 8) : Writes [.sysAvs] s (s.tempCold die) := by
  unfold State.tempCold
  split
  · exact Writes.refl
  · split
    · exact Writes.setBit (by decide)
    · split
      · exact Writes.setBit (by decide)
      · exact Writes.refl

theorem State.out_tempCold (s : State) (die : BitVec 8) : (s.tempCold die).out = s.out := by
  unfold State.tempCold
  split
  · rfl
  · split
    · rfl
    · split <;> rfl

/-- A field of the temperatures below the alarm stays as the alarm rises. -/
theorem State.get_tempRise (s : State) (die : BitVec 8) {f : Fld} (hr : f.reg = .sysTemp) (hf : f.lo + f.len ≤ 24 ∨ 25 ≤ f.lo) (hlen : f.lo + f.len ≤ 320) :
    (s.tempRise die).get f 0 = s.get f 0 := by
  unfold State.tempRise
  split
  · exact State.get_set_field s F.sysTemp_alarm f 0 _ hr hlen hf
  · rfl

theorem State.get_tempHot (s : State) (hbm : BitVec 8) {f : Fld} (hr : f.reg = .sysTemp) (hf : f.lo + f.len ≤ 25) :
    (s.tempHot hbm).get f 0 = s.get f 0 := by
  have hset : ∀ v, (s.set F.sysTemp_hbmHot 0 v).get f 0 = s.get f 0 := fun v =>
    State.get_set_field s F.sysTemp_hbmHot f 0 v hr (Nat.le_trans hf (by decide)) (.inl hf)
  unfold State.tempHot
  split
  · exact hset _
  · exact hset _

theorem State.hbmHot_tempHot (s : State) (hbm : BitVec 8) : (s.tempHot hbm).get F.sysTemp_hbmHot 0 =
    if 95 ≤ hbm.toInt then (1 + s.freeVal.toNat % 15) % 16 else 0 := by
  have hset : ∀ v, (s.set F.sysTemp_hbmHot 0 v).get F.sysTemp_hbmHot 0 = v % 16 := fun v => State.get_set_self s _ 0 v (by decide)
  unfold State.tempHot
  split
  · exact hset _
  · exact hset _

/-- The alarm is up where the die is as hot as its threshold. -/
theorem State.alarm_tempRise {s : State} {die : BitVec 8} (h : (BitVec.ofNat 8 (s.get F.sysTemp_alarmThr 0)).toInt ≤ die.toInt) :
    (s.tempRise die).bit F.sysTemp_alarm 0 = true := by
  unfold State.tempRise
  split
  · exact State.bit_setBit_self s _ 0 true (by decide) (by decide)
  · next hno => exact eq_true_of_ne_false fun he => hno ⟨h, he⟩

theorem State.get_tempMax_above (s : State) (die hbm : BitVec 8) {f : Fld} (hr : f.reg = .sysTemp) (hf : 16 ≤ f.lo) (hlen : f.lo + f.len ≤ 320) :
    (s.tempMax die hbm).get f 0 = s.get f 0 := by
  unfold State.tempMax
  rw [State.get_set_field _ F.sysTemp_hbmMax f 0 _ hr hlen (.inr hf),
    State.get_set_field _ F.sysTemp_dieMax f 0 _ hr hlen (.inr (Nat.le_trans (by decide) hf))]

/-! ### The core voltage -/

theorem State.avsNext_le (s : State) : s.avsNext ≤ s.get F.sysAvs_applied 0 + 1 := by
  unfold State.avsNext
  dsimp only
  split <;> omega

/-- The step of the core voltage as it is sent. -/
def State.avsSent (s : State) : State := ({ s with mode := { s.mode with avsNs := some s.ns } }).emit (.avs s.avsNext)

theorem State.avsNaks_avsSent (s : State) : s.avsSent.mode.avsNaks = s.mode.avsNaks := rfl

theorem State.avsAnswer_nak {s : State} (h : s.mode.avsNaks < 2) (next : Nat) :
    s.avsAnswer next false = { s with mode := { s.mode with avsNaks := s.mode.avsNaks + 1 } } := if_neg (Nat.not_le.2 h)

theorem State.avsAnswer_lastNak {s : State} (h : 2 ≤ s.mode.avsNaks) (next : Nat) :
    s.avsAnswer next false = (({ s with mode := { s.mode with avsNaks := 0 } }).setBit F.sysAvs_fault 0 true).emit .alert := if_pos h

theorem exec_avsCommand {s : State} {target : BitVec 5} (hmode : s.modeNo ≠ mRESET) (hfault : s.bit F.sysAvs_fault 0 = false)
    (hgoal : s.avsNext ≠ s.get F.sysAvs_applied 0) (htarget : target.toNat = s.avsNext)
    (hdue : ∀ t, s.mode.avsNs = some t → t + 10000 ≤ s.ns) (acked : Bool) : exec (.avsCommand target acked) s =
      .next (s.avsSent.avsAnswer s.avsNext acked) := by
  have hready : (match s.mode.avsNs with | some t => decide (t + 10000 ≤ s.ns) | none => true) = true := by
    cases hns : s.mode.avsNs with
    | none => rfl
    | some t => exact decide_eq_true (hdue t hns)
  refine congrArg Host.Outcome.next (if_neg ?_)
  rintro (h | h | h | h | h)
  · exact hmode h
  · exact Bool.false_ne_true (hfault.symm.trans h)
  · exact hgoal h
  · exact h htarget
  · exact Bool.false_ne_true (h.symm.trans hready)

/-- Settles O58: what each step writes, field by field; a self-test's clean memory stays clean through the tests after it. -/
theorem testsAndSensors : Obligations.TestsAndSensors := by
  intro s
  refine ⟨fun v hmode hbusy href => ?_, fun v hstay => ?_, fun fail hmode hbusy => ⟨_, exec_drydockBistDone fail hmode hbusy, ?_, ?_, ?_⟩,
    fun die hbm => ⟨_, exec_tempAlarm die hbm s, ?_, ?_, fun hcool => ?_, fun hhot => ?_, fun halarm => ?_, fun hup => ?_⟩,
    fun target hmode hfault hgoal htarget hdue => ⟨⟨_, exec_avsCommand hmode hfault hgoal htarget hdue true, ?_, rfl, rfl⟩,
      fun hnaks => ⟨_, exec_avsCommand hmode hfault hgoal htarget hdue false, ?_⟩,
      fun hnaks => ⟨_, exec_avsCommand hmode hfault hgoal htarget hdue false, ?_⟩⟩,
    fun st hot => ⟨fun hmode => ?_, fun hreset hboot => ?_⟩, fun hmode => ?_⟩
  · have hgo : exec (.drydockBistStart v) s = .next (if v.toNat.testBit 6 then (s.set F.sysDrydockCtl_bist 0 v.toNat).setBit F.sysDrydockStatus_busy 0 true
        else s.set F.sysDrydockCtl_bist 0 v.toNat) := by
      refine congrArg Host.Outcome.next (if_neg ?_)
      rintro (h | h | h)
      · exact h hmode
      · exact Bool.false_ne_true (hbusy.symm.trans h)
      · exact Bool.false_ne_true (href.symm.trans h)
    refine ⟨_, hgo, ?_⟩
    have hbit : v.toNat.testBit 6 = v.getLsbD 6 := rfl
    rw [hbit]
    cases v.getLsbD 6 with
    | false =>
      refine ⟨State.get_set_self s _ 0 _ (by decide), ?_, rfl⟩
      exact (State.bit_set_other s (f := F.sysDrydockCtl_bist) 0 0 _ (by decide)).trans hbusy
    | true =>
      refine ⟨?_, State.bit_setBit_self _ _ 0 true (by decide) (by decide), rfl⟩
      exact (State.get_set_other _ (f := F.sysDrydockStatus_busy) 0 0 _ (by decide)).trans (State.get_set_self s _ 0 _ (by decide))
  · refine congrArg Host.Outcome.next (if_pos ?_)
    exact hstay.elim .inl fun h => .inr (.inl h)
  · rw [(State.bistRun_writes _).bit (by decide), State.bit, State.get_set_field _ F.sysDrydockStatus_fail F.sysDrydockStatus_busy 0 _ rfl (by decide)
      (by decide)]
    exact State.bit_setBit_self s _ 0 false (by decide) (by decide)
  · rw [(State.bistRun_writes _).get (by decide), State.get_set_self _ _ _ _ (by decide)]
    exact Nat.mod_eq_of_lt (Nat.lt_of_le_of_lt Nat.and_le_left fail.isLt)
  · exact State.bistRun_dmem
  · rw [(State.tempCold_writes die).get (by decide), State.get_tempRise _ _ rfl (by decide) (by decide), State.get_tempHot _ _ rfl (by decide), State.tempMax,
      State.get_set_field _ F.sysTemp_hbmMax F.sysTemp_dieMax 0 _ rfl (by decide) (by decide), State.get_set_self _ _ _ _ (by decide)]
    exact Nat.mod_eq_of_lt die.isLt
  · rw [(State.tempCold_writes die).get (by decide), State.get_tempRise _ _ rfl (by decide) (by decide), State.get_tempHot _ _ rfl (by decide), State.tempMax,
      State.get_set_self _ _ _ _ (by decide)]
    exact Nat.mod_eq_of_lt hbm.isLt
  · rw [(State.tempCold_writes die).get (by decide), State.get_tempRise _ _ rfl (by decide) (by decide), State.hbmHot_tempHot, if_neg (Int.not_le.2 hcool)]
  · rw [(State.tempCold_writes die).get (by decide), State.get_tempRise _ _ rfl (by decide) (by decide), State.hbmHot_tempHot, if_pos hhot]
    omega
  · rw [(State.tempCold_writes die).bit (by decide)]
    apply State.alarm_tempRise
    rw [State.get_tempHot _ _ rfl (by decide), State.get_tempMax_above _ _ _ rfl (by decide) (by decide)]
    exact halarm
  · have hstays : ((s.tempMax die hbm).tempHot hbm).bit F.sysTemp_alarm 0 = true := by
      rw [State.bit, State.get_tempHot _ _ rfl (by decide), State.get_tempMax_above _ _ _ rfl (by decide) (by decide)]
      exact hup
    have hrise : ((s.tempMax die hbm).tempHot hbm).tempRise die = (s.tempMax die hbm).tempHot hbm :=
      if_neg fun h => Bool.false_ne_true (h.2.symm.trans hstays)
    have hhot : ((s.tempMax die hbm).tempHot hbm).out = s.out := by
      unfold State.tempHot
      split <;> rfl
    rw [State.out_tempCold, hrise, hhot]
  · have hlt : s.avsNext < 2 ^ 5 := htarget ▸ target.isLt
    exact (State.get_set_self _ F.sysAvs_applied 0 _ (by decide)).trans (Nat.mod_eq_of_lt hlt)
  · rw [State.avsAnswer_nak (s.avsNaks_avsSent ▸ hnaks)]
    exact ⟨rfl, rfl⟩
  · rw [State.avsAnswer_lastNak (s.avsNaks_avsSent ▸ hnaks)]
    exact ⟨State.bit_setBit_self _ F.sysAvs_fault 0 true (by decide) (by decide), List.append_assoc ..⟩
  · exact congrArg Host.Outcome.next (if_pos hmode)
  · refine ⟨s.set F.sysStatus_hbmFail 0 (s.get F.sysStatus_hbmFail 0 ||| 2 ^ st.val), congrArg Host.Outcome.next (if_neg fun h => h.elim hreset hboot), ?_, rfl⟩
    rw [State.get_set_self _ _ _ _ (by decide)]
    exact Nat.mod_eq_of_lt (Nat.or_lt_two_pow (s.get_lt _ _) (Nat.pow_lt_pow_right (by decide) st.isLt))
  · exact ⟨({ s with mode := { s.mode with keys := false } } : State).useFree, s.freeVal.toNat, congrArg Host.Outcome.next (if_neg hmode), rfl⟩

/-! ### Reset -/

theorem State.reg_of_some {s : State} {r : Reg} {i : Nat} {v : RegVal} (h : Tab.get? s.regs (regKey r i) = some v) : s.reg r i = v := by
  unfold State.reg
  rw [h]

theorem State.reg_of_none {s : State} {r : Reg} {i : Nat} (h : Tab.get? s.regs (regKey r i) = none) :
    s.reg r i = BitVec.ofNat 320 (r.resetAt i) := by
  unfold State.reg
  rw [h]

/-- The fuses among the registers that outlive a reset. -/
def State.fuses (s : State) : RegVal := s.reg .secStatus 0 &&& BitVec.ofNat 320 0xFFFF

theorem State.get?_fuseRegs (s : State) {k : Nat} (hpin : k ≠ regKey .sysStatus 0) : Tab.get? s.fuseRegs k =
    if k = regKey .secStatus 0 ∧ s.fuses ≠ BitVec.ofNat 320 (Reg.resetAt .secStatus 0) then some s.fuses else none := by
  change Tab.get? (State.fuseRegs s) k = if k = regKey .secStatus 0 ∧ (s.reg .secStatus 0 &&& BitVec.ofNat 320 0xFFFF) ≠ _
    then some (s.reg .secStatus 0 &&& BitVec.ofNat 320 0xFFFF) else none
  unfold State.fuseRegs
  dsimp only
  generalize s.reg .secStatus 0 &&& BitVec.ofNat 320 0xFFFF = fuse
  generalize (if s.mode.pinLow then BitVec.ofNat 320 (2 ^ 20) else 0) = pin
  generalize BitVec.ofNat 320 (Reg.resetAt .secStatus 0) = was
  have hfuses : Tab.get? (if fuse = was then [] else Tab.put [] (regKey .secStatus 0) fuse) k =
      if k = regKey .secStatus 0 ∧ fuse ≠ was then some fuse else none := by
    by_cases hfuse : fuse = was
    · rw [if_pos hfuse, if_neg fun h => h.2 hfuse]
      rfl
    · by_cases hk : k = regKey .secStatus 0
      · rw [if_neg hfuse, if_pos ⟨hk, hfuse⟩, hk]
        exact Tab.get?_put_self ..
      · rw [if_neg hfuse, if_neg fun h => hk h.1]
        exact Tab.get?_put_ne _ _ hk
  split
  · exact hfuses
  · exact (Tab.get?_put_ne _ _ hpin).trans hfuses

/-- Reset keeps the fuses in SEC_STATUS (R417). -/
theorem State.secStatus_resetCore (s : State) : s.resetCore.reg .secStatus 0 = s.fuses := by
  have hget := s.get?_fuseRegs (k := regKey .secStatus 0) (by decide)
  by_cases hfuse : s.fuses = BitVec.ofNat 320 (Reg.resetAt .secStatus 0)
  · rw [if_neg fun h => h.2 hfuse] at hget
    exact (State.reg_of_none hget).trans hfuse.symm
  · rw [if_pos ⟨rfl, hfuse⟩] at hget
    exact State.reg_of_some hget

/-- Every register but those of the fuses and pins has its reset value after a reset. -/
theorem State.reg_resetCore (s : State) {r : Reg} (hsec : r ≠ .secStatus) (hsys : r ≠ .sysStatus) (i : Nat) :
    s.resetCore.reg r i = State.reset.reg r i := by
  have hget := s.get?_fuseRegs (k := regKey r i) fun e => hsys (regKey_inj e).1
  rw [if_neg fun h => hsec (regKey_inj h.1).1] at hget
  exact (State.reg_of_none hget).trans (State.reg_of_none rfl).symm

theorem State.get_resetCore (s : State) {f : Fld} (hsec : f.reg ≠ .secStatus) (hsys : f.reg ≠ .sysStatus) (i : Nat) :
    s.resetCore.get f i = State.reset.get f i := by
  unfold State.get
  rw [s.reg_resetCore hsec hsys]

/-- A fuse field reads as before a reset. -/
theorem State.fuse_resetCore (s : State) {f : Fld} (hr : f.reg = .secStatus)
    (hf : BitVec.extractLsb' f.lo f.len (BitVec.ofNat 320 0xFFFF) = BitVec.allOnes f.len) : s.resetCore.get f 0 = s.get f 0 := by
  unfold State.get
  rw [hr, s.secStatus_resetCore, State.fuses, BitVec.extractLsb'_and, hf, BitVec.and_allOnes]

theorem State.applied_reset : State.reset.get F.sysAvs_applied 0 = 10 := by
  have hreg : State.reset.reg .sysAvs 0 = BitVec.ofNat 320 (Reg.resetAt .sysAvs 0) := State.reg_of_none rfl
  have hval : Reg.resetAt .sysAvs 0 = Config.avsTarget.toNat + 320 := rfl
  have hlt : Config.avsTarget.toNat < 2 ^ 5 := Config.avsTarget.isLt
  have hget : ∀ s : State, s.get F.sysAvs_applied 0 = (BitVec.extractLsb' 5 5 (s.reg .sysAvs 0)).toNat := fun _ => rfl
  rw [hget, hreg, hval]
  generalize Config.avsTarget.toNat = target at hlt
  rw [BitVec.extractLsb'_toNat, BitVec.toNat_ofNat, Nat.mod_eq_of_lt (by omega), Nat.shiftRight_eq_div_pow]
  omega

/-- A warm reset but for its mode: the PCIe side and the core voltage are kept (R446). -/
def State.warmKept (s : State) : State :=
  if s.get F.sysAvs_applied 0 = 10 then { s.resetCore with host := s.host }
  else ({ s.resetCore with host := s.host } : State).set F.sysAvs_applied 0 (s.get F.sysAvs_applied 0)

/-- Reset released. -/
def State.resetDone (s : State) : State := { s with mode := { s.mode with resetHeld := false } }

theorem State.warmReset_eq (s : State) : s.warmReset = s.warmKept.resetDone.setMode mBOOT := by
  unfold State.warmReset State.warmKept
  rfl

theorem State.warmKept_frame (s : State) : s.warmKept = { s.resetCore with host := s.host, regs := s.warmKept.regs } := by
  unfold State.warmKept
  split <;> rfl

theorem State.applied_warmKept (s : State) : s.warmKept.get F.sysAvs_applied 0 = s.get F.sysAvs_applied 0 := by
  unfold State.warmKept
  split
  · next h =>
    have hreset : State.reset.get F.sysAvs_applied 0 = 10 := State.applied_reset
    exact ((s.get_resetCore (f := F.sysAvs_applied) (by decide) (by decide) 0).trans hreset).trans h.symm
  · exact (State.get_set_self _ _ _ _ (by decide)).trans (Nat.mod_eq_of_lt (s.get_lt F.sysAvs_applied 0))

/-! ### Boot -/

/-- The boot report as SYS_STATUS and the tug memory take it. -/
def State.bootReport (s : State) (b : BootReport) : State :=
  { ((s.setBit F.sysStatus_slot 0 b.slot).set F.sysStatus_hbmFail 0 b.hbmFail.toNat).set F.sysStatus_bootMs 0 (Nat.min b.bootMs 2047) with
    dmem := b.firmware.foldl (fun (m : Memory) (e : Nat × Byte) => m.set e.1 e.2) s.dmem }

/-- The keys and the image of the owner that boots. -/
def State.bootKeys (s : State) (b : BootReport) : State :=
  ({ s.free256.1 with mode := { s.free256.1.mode with
    keys := !s.mode.debugOpen, keyOwner := s.ownerHash, imageHash := s.free256.2, bootSlot := b.slot,
    arbRun := s.get F.secStatus_arbFw 0 + s.free256.1.freeVal.toNat % (65 - s.get F.secStatus_arbFw 0) } }).useFree

/-- The first task and channel 0, once the keys are ready. -/
def State.bootWork (s : State) (b : BootReport) : State := ((s.setBit F.secStatus_keysReady 0 true).bootTask b.entry).ch0Sync

theorem exec_bootComplete {s : State} {b : BootReport} (hmode : s.modeNo = mBOOT) (htl : s.time.tl = true) (hharbour : b.harbour = none) :
    exec (.bootComplete b) s = .next (((((s.bootReport b).bootKeys b).bootWork b).setMode mMOORED).bellsGo) := by
  obtain ⟨slot, hbmFail, bootMs, entry, firmware, harbour, atBoot⟩ := b
  obtain rfl : harbour = none := hharbour
  refine congrArg Host.Outcome.next ((if_pos ⟨hmode, htl⟩).trans ?_)
  rfl

theorem State.bootTask_writes {s : State} (entry : Word) : Writes [.tugTaskState, .tugCoreStatus] s (s.bootTask entry) := by
  unfold State.bootTask
  extract_lets t _ u
  have hu : Writes [.tugTaskState, .tugCoreStatus] s u := Writes.of_regs rfl
  exact ((hu.trans (Writes.set (by decide))).trans (Writes.set (by decide))).trans ((Writes.set (by decide)).trans (Writes.setBit (by decide)))

theorem State.regs_ch0Sync (s : State) : s.ch0Sync.regs = s.regs := rfl

theorem State.bootWork_writes {s : State} (b : BootReport) : Writes [.secStatus, .tugTaskState, .tugCoreStatus] s (s.bootWork b) := by
  have hkeys : Writes [.secStatus, .tugTaskState, .tugCoreStatus] s (s.setBit F.secStatus_keysReady 0 true) := Writes.setBit (by decide)
  exact (hkeys.trans ((State.bootTask_writes b.entry).mono (by decide))).trans (Writes.of_regs (State.regs_ch0Sync _))

/-- SYS_STATUS as the boot report leaves it stands to the end of the boot. -/
theorem State.get_bootWork (s : State) (b : BootReport) {f : Fld} (hf : f.reg = .sysStatus) (i : Nat) :
    (((s.bootReport b).bootKeys b).bootWork b).get f i =
      (((s.setBit F.sysStatus_slot 0 b.slot).set F.sysStatus_hbmFail 0 b.hbmFail.toNat).set F.sysStatus_bootMs 0 (Nat.min b.bootMs 2047)).get f i :=
  (State.bootWork_writes b).get (by rw [hf]; decide) i

theorem State.slot_bootWork (s : State) (b : BootReport) : (((s.bootReport b).bootKeys b).bootWork b).bit F.sysStatus_slot 0 = b.slot := by
  rw [State.bit, s.get_bootWork b rfl, State.get_set_field _ F.sysStatus_bootMs F.sysStatus_slot 0 _ rfl (by decide) (by decide),
    State.get_set_field _ F.sysStatus_hbmFail F.sysStatus_slot 0 _ rfl (by decide) (by decide)]
  exact State.bit_setBit_self s F.sysStatus_slot 0 b.slot (by decide) (by decide)

theorem State.bootMs_bootWork (s : State) (b : BootReport) :
    (((s.bootReport b).bootKeys b).bootWork b).get F.sysStatus_bootMs 0 = Nat.min b.bootMs 2047 := by
  rw [s.get_bootWork b rfl, State.get_set_self _ _ _ _ (by decide)]
  exact Nat.mod_eq_of_lt (Nat.lt_succ_of_le (Nat.min_le_right ..))

/-- The first task runs on core 0 from its entry, at supervisor level. -/
theorem State.tcore_bootTask (s : State) (entry : Word) :
    (s.bootTask entry).tcore 0 = { s.tcore 0 with ctx := { pc := entry, sup := true }, wd := s.ns } := Tab.getD_put_self ..

theorem State.running?_bootTask (s : State) (entry : Word) : (s.bootTask entry).running? 0 = some 0 := by
  unfold State.bootTask State.running?
  extract_lets _ _ _ t
  have hidle : ((t.set F.tugCoreStatus_task 0 0).setBit F.tugCoreStatus_idle 0 false).bit F.tugCoreStatus_idle 0 = false :=
    State.bit_setBit_self _ _ 0 false (by decide) (by decide)
  have htask : ((t.set F.tugCoreStatus_task 0 0).setBit F.tugCoreStatus_idle 0 false).get F.tugCoreStatus_task 0 = 0 :=
    (State.get_set_field _ F.tugCoreStatus_idle F.tugCoreStatus_task 0 _ rfl (by decide) (by decide)).trans
      (State.get_set_self _ _ 0 0 (by decide))
  rw [hidle, htask]
  rfl

theorem State.ch0Sync_keeps_tug (s : State) : s.ch0Sync.tug = s.tug := rfl

theorem State.tcore_bootWork (s : State) (b : BootReport) :
    ((s.bootWork b).tcore 0).ctx.pc = b.entry ∧ ((s.bootWork b).tcore 0).ctx.sup = true := by
  have htug : (s.bootWork b).tcore 0 = ((s.setBit F.secStatus_keysReady 0 true).bootTask b.entry).tcore 0 := by
    rw [State.bootWork, State.tcore, State.ch0Sync_keeps_tug, State.tcore]
  rw [htug, State.tcore_bootTask]
  exact ⟨rfl, rfl⟩

theorem State.running?_bootWork (s : State) (b : BootReport) : (s.bootWork b).running? 0 = some 0 := by
  rw [State.bootWork, State.running?, State.bit_congr (State.regs_ch0Sync _), State.get_congr (State.regs_ch0Sync _)]
  exact State.running?_bootTask _ b.entry

theorem State.dmem_bootWork (s : State) (b : BootReport) : (s.bootWork b).dmem = s.dmem := rfl

/-- Settles O55: what a reset keeps is read off the registers and parts it rebuilds; a good boot is its three stages one after the other. -/
theorem resetAndBoot : Obligations.ResetAndBoot := by
  intro s
  refine ⟨⟨s.resetCore, rfl, ?_, rfl, rfl, rfl, rfl, rfl, rfl, rfl, rfl, rfl, rfl, rfl, rfl, rfl, rfl, ?_, ?_, ?_, fun hheld => ?_⟩,
    fun hheld => ⟨?_, fun htrip => ?_, fun htrip => ?_⟩, fun v => ⟨fun hkey hheld => ⟨s.warmReset, ?_, ?_, ?_, ?_, ?_, ?_, ?_⟩, fun hkey => ?_⟩,
    fun hmode htl => ⟨{ s with time := { s.time with tl := true, tlNs := 0 } }, rfl, rfl, rfl, ?_⟩,
    fun b hmode htl hharbour => ⟨_, exec_bootComplete hmode htl hharbour, s.slot_bootWork b, s.bootMs_bootWork b,
      (State.tcore_bootWork _ b).1, (State.tcore_bootWork _ b).2, State.running?_bootWork _ b, State.dmem_bootWork _ b⟩,
    fun hstay b => ?_, fun code => ⟨fun hmode => ?_, fun hmode => ?_⟩⟩
  · exact (s.get_resetCore (f := F.sysMode_mode) (by decide) (by decide) 0).trans (by decide)
  · exact s.fuse_resetCore rfl (by decide)
  · exact s.fuse_resetCore rfl (by decide)
  · rw [State.bit, s.fuse_resetCore rfl (by decide), State.bit]
  · exact congrArg Host.Outcome.next (if_neg (by rw [hheld]; decide))
  · exact congrArg Host.Outcome.next (if_pos hheld)
  · exact congrArg Host.Outcome.next (if_neg fun h => Bool.false_ne_true (h.2.symm.trans htrip))
  · exact congrArg Host.Outcome.next (if_pos ⟨hheld, htrip⟩)
  · exact congrArg Host.Outcome.next (if_pos ⟨hkey, hheld⟩)
  · rw [State.warmReset_eq]
    exact State.modeNo_setMode ..
  · rw [State.warmReset_eq, State.warmKept_frame]
    rfl
  · rw [State.warmReset_eq, State.warmKept_frame]
    rfl
  · rw [State.warmReset_eq, State.warmKept_frame]
    rfl
  · rw [State.warmReset_eq, State.setMode, State.get_set_other _ _ _ _ (by decide)]
    exact s.applied_warmKept
  · rw [State.warmReset_eq, State.warmKept_frame]
    rfl
  · exact congrArg Host.Outcome.next (if_neg fun h => hkey h.1)
  · exact congrArg Host.Outcome.next (if_pos ⟨hmode, htl⟩)
  · refine congrArg Host.Outcome.next (if_neg fun h => ?_)
    exact hstay.elim (fun hmode => hmode h.1) fun htl => Bool.false_ne_true (htl.symm.trans h.2)
  · exact congrArg Host.Outcome.next (if_pos hmode)
  · exact congrArg Host.Outcome.next (if_neg hmode)

end Sys2Proof.Machine
end

section
/-!
PROOFS. Frames: arrival, the checks at the last byte, and the dispatch of a head to a pilot.
-/
namespace Sys2Proof.Machine
set_option Elab.async false

/-! ### Arrival -/

/-- The frame of a first byte, and the port after it has taken the next sequence ID (R13). -/
def State.rxFrame (s : State) (p : Port) (lane : Fin 4) (bit phi : BitVec 16) (bytes : List Byte) : Frame :=
  s.newFrame p.val (s.rxStamps p.val lane.val bit phi false (s.portSt p.val).lpiStamp) bytes

def State.rxSeq (s : State) (p : Port) : State :=
  s.setPortSt p.val { s.portSt p.val with seqId := ((s.portSt p.val).seqId + 1) % 65536, lpiStamp := false }

theorem exec_frameRxStart {p : Port} {lane : Fin 4} {bit phi : BitVec 16} {bytes : List Byte} {s : State} (hlink : s.linkUp p.val = true)
    (hmode : s.modeNo = mSERVICE) (hplain : isControl bytes = false) (hgo : s.paused (quayOf p.val) = false) :
    exec (.frameRxStart p lane bit phi false bytes) s = .next (
      if stagingSize < s.staged (quayOf p.val) + bytes.length then (s.rxSeq p).bump F.portCntRxStaging (portIx p.val)
      else (s.rxSeq p).enterFrame (s.rxFrame p lane bit phi bytes) (decide (256 ≤ bytes.length))) := by
  have hmode1 : (s.rxSeq p).modeNo = mSERVICE := hmode
  have hkept : (!isControl bytes && !((s.rxSeq p).modeNo == mMOORED && decide (p.val < 128))) = true := by
    rw [hmode1, hplain]
    rfl
  have hpilots : ((!isControl bytes && !((s.rxSeq p).modeNo == mMOORED && decide (p.val < 128))) &&
      ((s.rxSeq p).modeNo != mHARBOUR || (s.rxSeq p).hbor.draining.isSome)) = true := by
    rw [hkept, hmode1]
    rfl
  have hpass : ¬(((!isControl bytes && !((s.rxSeq p).modeNo == mMOORED && decide (p.val < 128))) &&
      ((s.rxSeq p).modeNo != mHARBOUR || (s.rxSeq p).hbor.draining.isSome)) && (s.rxSeq p).paused (quayOf p.val) &&
      !(s.rxSeq p).hasLossless p.val) = true := fun h =>
    Bool.false_ne_true (hgo.symm.trans (Bool.and_eq_true_iff.1 (Bool.and_eq_true_iff.1 h).1).2)
  refine congrArg Host.Outcome.next ((if_neg (by rw [hlink]; decide)).trans ((if_neg hpass).trans ?_))
  by_cases hbig : stagingSize < s.staged (quayOf p.val) + bytes.length
  · exact (if_pos (Bool.and_eq_true_iff.2 ⟨hkept, decide_eq_true hbig⟩)).trans (if_pos hbig).symm
  · refine (if_neg fun h => hbig (of_decide_eq_true (Bool.and_eq_true_iff.1 h).2)).trans (.trans ?_ (if_neg hbig).symm)
    exact congrArg (fun b => (s.rxSeq p).enterFrame (s.rxFrame p lane bit phi bytes) (b && decide (256 ≤ bytes.length))) hpilots

/-- A frame that enters has its bytes under the next number, and waits where its head is there. -/
theorem State.enterFrame_spec (s : State) (f : Frame) (headIn : Bool) :
    (s.enterFrame f headIn).frame? s.eng.nextFid = some (if headIn then { f with stage := .queued } else f) ∧
    (s.enterFrame f headIn).eng.nextFid = s.eng.nextFid + 1 ∧
    (headIn = true → s.eng.nextFid ∈ ((s.enterFrame f headIn).quay f.quay.val).waiting) ∧
    (s.enterFrame f headIn).ports = s.ports ∧ s.enterFrame f headIn = { s with eng := (s.enterFrame f headIn).eng } := by
  cases headIn with
  | false => exact ⟨Tab.get?_put_self .., rfl, fun h => absurd h (by decide), rfl, rfl⟩
  | true =>
    refine ⟨Tab.get?_put_self .., rfl, fun _ => ?_, rfl, rfl⟩
    unfold State.enterFrame
    dsimp only
    rw [if_pos rfl, State.quay_setQuay_self]
    exact List.mem_append_right _ (List.mem_singleton_self _)

/-! ### The last byte -/

/-- The counters of a good frame (R272). -/
def State.rxCount (s : State) (f : Frame) : State :=
  (((s.addTo F.portCntRxOctets (portIx f.port) f.bytes.length).bump F.portCntRxFrames (portIx f.port)).bumpIf
    (f.bytes.take 6 == List.replicate 6 (0xFF : Byte)) F.portCntRxBcast (portIx f.port)).bumpIf
    (!(f.bytes.take 6 == List.replicate 6 (0xFF : Byte)) && (f.bytes.getD 0 0).getLsbD 0) F.portCntRxMcast (portIx f.port)

theorem State.rxCount_frame (s : State) (f : Frame) : s.rxCount f = { s with regs := (s.rxCount f).regs } := by
  unfold State.rxCount State.bumpIf
  split <;> split <;> rfl

theorem State.rxFrames_rxCount (s : State) (f : Frame) : (s.rxCount f).get F.portCntRxFrames (portIx f.port) =
    (s.get F.portCntRxFrames (portIx f.port) + 1) % 2 ^ 64 := by
  unfold State.rxCount
  rw [State.get_bumpIf_reg _ _ _ _ (by decide), State.get_bumpIf_reg _ _ _ _ (by decide), State.get_bump_self _ _ _ (by decide), State.addTo,
    State.get_set_other _ _ _ _ (by decide)]

theorem State.rxOctets_rxCount (s : State) (f : Frame) : (s.rxCount f).get F.portCntRxOctets (portIx f.port) =
    (s.get F.portCntRxOctets (portIx f.port) + f.bytes.length) % 2 ^ 64 := by
  unfold State.rxCount
  rw [State.get_bumpIf_reg _ _ _ _ (by decide), State.get_bumpIf_reg _ _ _ _ (by decide), State.get_bump_reg _ _ _ (by decide), State.addTo,
    State.get_set_self _ _ _ _ (by decide)]

/-- The frame as its last byte leaves it while its head waits. -/
def State.lastQueued (s : State) (f : Frame) : Frame :=
  { f with stage := .queued, lenKnown := true,
           parse := (lastByte f.bytes (s.csumOn f) f.parse f.man).1, man := (lastByte f.bytes (s.csumOn f) f.parse f.man).2 }

theorem State.frameLast_queued (s : State) (fid : Nat) (f : Frame) :
    s.frameLast fid { f with stage := .queued } = s.setFrame fid (s.lastQueued f) := rfl

section lastByte
variable {fid : Nat} {f : Frame} {s : State} (hf : s.frame? fid = some f) (hlen : f.lenKnown = false)
include hf hlen

theorem exec_frameRxEnd_bad : exec (.frameRxEnd fid true) s =
    .next (((s.frameDrop fid).bump F.portCntFecUncorr (portIx f.port)).bump F.portCntRxFcs (portIx f.port)) := by
  change execFrameRxEnd fid true s = _
  rw [execFrameRxEnd, hf]
  dsimp only
  rw [hlen]
  rfl

theorem exec_frameRxEnd_oversize (hbig : s.get F.portCfg_maxFrame (portIx f.port) < f.bytes.length) :
    exec (.frameRxEnd fid false) s = .next ((s.frameDrop fid).bump F.portCntRxOversize (portIx f.port)) := by
  change execFrameRxEnd fid false s = _
  rw [execFrameRxEnd, hf]
  dsimp only
  rw [hlen, if_neg (by decide), if_neg (by decide), if_pos hbig]

theorem exec_frameRxEnd_runt (hbig : f.bytes.length ≤ s.get F.portCfg_maxFrame (portIx f.port)) (hrunt : f.bytes.length < 64) :
    exec (.frameRxEnd fid false) s = .next ((s.frameDrop fid).bump F.portCntRxRunt (portIx f.port)) := by
  change execFrameRxEnd fid false s = _
  rw [execFrameRxEnd, hf]
  dsimp only
  rw [hlen, if_neg (by decide), if_neg (by decide), if_neg (Nat.not_lt.2 hbig), if_pos hrunt]

section legal
variable (hbig : f.bytes.length ≤ s.get F.portCfg_maxFrame (portIx f.port)) (hrunt : 64 ≤ f.bytes.length)
include hbig hrunt

theorem exec_frameRxEnd_badFcs (hfcs : ¬f.bytes.drop (f.bytes.length - 4) = fcsOf (f.bytes.take (f.bytes.length - 4))) :
    exec (.frameRxEnd fid false) s = .next ((s.frameDrop fid).bump F.portCntRxFcs (portIx f.port)) := by
  change execFrameRxEnd fid false s = _
  rw [execFrameRxEnd, hf]
  dsimp only
  rw [hlen, if_neg (by decide), if_neg (by decide), if_neg (Nat.not_lt.2 hbig), if_neg (Nat.not_lt.2 hrunt), if_pos hfcs]

/-- A good frame whose last byte ends its arrival has its length known, is counted, and its head waits (R12, R272). -/
theorem exec_frameRxEnd_good (hfcs : f.bytes.drop (f.bytes.length - 4) = fcsOf (f.bytes.take (f.bytes.length - 4)))
    (hplain : isControl f.bytes = false) (hmode : s.modeNo = mSERVICE) (hstage : f.stage = .receiving) :
    exec (.frameRxEnd fid false) s = .next (((s.rxCount f).setFrame fid ((s.rxCount f).lastQueued f)).setQuay f.quay.val
      { s.quay f.quay.val with waiting := (s.quay f.quay.val).waiting ++ [fid] }) := by
  have hmode1 : (s.rxCount f).modeNo = mSERVICE := by
    unfold State.modeNo State.rxCount
    rw [State.get_bumpIf_reg _ _ _ _ (by decide), State.get_bumpIf_reg _ _ _ _ (by decide), State.get_bump_reg _ _ _ (by decide), State.addTo,
      State.get_set_other _ _ _ _ (by decide)]
    exact hmode
  have hquay : ((s.rxCount f).setFrame fid ((s.rxCount f).lastQueued f)).quay f.quay.val = s.quay f.quay.val := by
    rw [s.rxCount_frame f]
    rfl
  change execFrameRxEnd fid false s = _
  rw [execFrameRxEnd, hf]
  dsimp only
  rw [hlen, if_neg (by decide), if_neg (by decide), if_neg (Nat.not_lt.2 hbig), if_neg (Nat.not_lt.2 hrunt), if_neg (not_not_intro hfcs),
    if_neg (fun h => absurd (hmode.symm.trans h.2.1) (by decide)), hplain, if_neg Bool.false_ne_true, hstage]
  refine congrArg Host.Outcome.next ((if_neg fun h => absurd (hmode1.symm.trans h.1) (by decide)).trans ?_)
  exact congrArg (fun v : QuaySt => ((s.rxCount f).setFrame fid ((s.rxCount f).lastQueued f)).setQuay f.quay.val
    { v with waiting := v.waiting ++ [fid] }) hquay

end legal

end lastByte

/-! ### Dispatch -/

/-- The flight of a frame that starts a pass: its own, or a new one (R73). -/
def State.flightOf (s : State) (f : Frame) : State × Nat × Bool := if f.flight = 0 then s.flightStart else (s, f.flight, f.gen)

theorem State.setInflight_writes {s : State} (g : Bool) (n : Nat) : Writes [.tblGenInflight0, .tblGenInflight1] s (s.setInflight g n) := by
  unfold State.setInflight
  split
  · exact Writes.set (f := F.tblGenInflight1_count) (by decide)
  · exact Writes.set (f := F.tblGenInflight0_count) (by decide)

theorem State.flightOf_writes (s : State) (f : Frame) : Writes [.tblGenInflight0, .tblGenInflight1] s (s.flightOf f).1 := by
  unfold State.flightOf
  split
  · unfold State.flightStart
    refine .trans ?_ (State.setInflight_writes _ _)
    exact .of_regs rfl
  · exact Writes.refl

/-- A new flight leaves contexts, registers, frames and quays as they were. -/
theorem State.flightOf_eng (s : State) (f : Frame) : (s.flightOf f).1.eng.ctxs = s.eng.ctxs ∧ (s.flightOf f).1.eng.gregs = s.eng.gregs ∧
    (s.flightOf f).1.eng.frames = s.eng.frames ∧ (s.flightOf f).1.eng.quays = s.eng.quays := by
  unfold State.flightOf
  split
  · unfold State.flightStart State.setInflight
    dsimp only
    split <;> exact ⟨rfl, rfl, rfl, rfl⟩
  · exact ⟨rfl, rfl, rfl, rfl⟩

theorem State.prpRole_flightOf (s : State) (f g : Frame) : (s.flightOf f).1.prpRole g = s.prpRole g := by
  unfold State.prpRole
  rw [(s.flightOf_writes f).get (by decide)]

/-- The manifest of a frame's next pass. -/
def State.headMan (s : State) (f : Frame) : Man :=
  passMan f.man (s.flightOf f).2.2 (if f.lenKnown then some f.bytes.length else none)

/-- The frame under its pilot. -/
def State.headFrame (s : State) (f : Frame) (x : CtxId) : Frame :=
  { f with gen := (s.flightOf f).2.2, flight := (s.flightOf f).2.1, man := s.headMan f, stage := .pilot x, parse := {}, stopped := false,
           resolved := false, look := false, flow := .none }

/-- The head has left the list and its frame is under its pilot. -/
def State.headTaken (s : State) (q : Quay) (rest : List Nat) (fid : Nat) (f : Frame) (e : Fin 64) (k : Fin 8) (bad : Bool) : State :=
  (((s.flightOf f).1.setQuay q.val { (s.flightOf f).1.quay q.val with waiting := rest, lastEngine := e.val }).setFrame fid
    (s.headFrame f (.pilot q e k))).spoilWord 0 q.val (s.flightOf f).2.2 0 bad

/-- The context that a head's program starts on (R31). -/
def State.headCtx (s : State) (fid : Nat) (f : Frame) : Ctx :=
  { fid := fid, gen := (s.flightOf f).2.2, pass := mPassOf (s.headMan f), pc := 0, man := s.headMan f, manW := f.manW,
    h := ofWire 2048 (f.bytes.take 256), hlen := Nat.min 256 f.bytes.length,
    key := if s.prpRole f != 0 && f.lenKnown then keyPrp 0 (s.prpRole f) f.bytes else 0, prp := s.prpRole f != 0 && !f.lenKnown }

section dispatch
variable {q : Quay} {bad : Bool} {fid : Nat} {rest : List Nat} {f : Frame} {s : State} (hwait : (s.quay q.val).waiting = fid :: rest)
  (hf : s.frame? fid = some f)
include hwait hf

theorem exec_headDispatch_none (hfree : s.freePilot q = none) : exec (.headDispatch q bad) s = .next s := by
  change execHeadDispatch q bad s = _
  rw [execHeadDispatch, hwait]
  dsimp only
  rw [hf, hfree]

theorem exec_headDispatch {e : Fin 64} {k : Fin 8} (hfree : s.freePilot q = some (e, k)) (hrun : s.pilotsRun q.val f = true) :
    exec (.headDispatch q bad) s = .next ((((s.headTaken q rest fid f e k bad).pmc (frameEv 0x0401 (0x20 + q.val) (s.headMan f) false 1)).zeroG
      (.pilot q e k)).setCtx (.pilot q e k) (s.headCtx fid f)) := by
  change execHeadDispatch q bad s = _
  rw [execHeadDispatch, hwait]
  dsimp only
  rw [hf, hfree]
  dsimp only
  rw [hrun, if_neg (by decide), State.headCtx, ← s.prpRole_flightOf f f]
  rfl

end dispatch

/-- A bad word of the program store leaves contexts, registers, frames and quays as they were. -/
theorem State.spoilWord_eng (s : State) (kind unit : Nat) (gen : Bool) (word : Nat) (bad : Bool) :
    (s.spoilWord kind unit gen word bad).eng.ctxs = s.eng.ctxs ∧ (s.spoilWord kind unit gen word bad).eng.gregs = s.eng.gregs ∧
    (s.spoilWord kind unit gen word bad).eng.frames = s.eng.frames ∧ (s.spoilWord kind unit gen word bad).eng.quays = s.eng.quays := by
  cases bad <;> exact ⟨rfl, rfl, rfl, rfl⟩

theorem State.headTaken_eng (s : State) (q : Quay) (rest : List Nat) (fid : Nat) (f : Frame) (e : Fin 64) (k : Fin 8) (bad : Bool) :
    (s.headTaken q rest fid f e k bad).eng.ctxs = s.eng.ctxs ∧ (s.headTaken q rest fid f e k bad).eng.gregs = s.eng.gregs ∧
    (s.headTaken q rest fid f e k bad).frame? fid = some (s.headFrame f (.pilot q e k)) ∧
    ((s.headTaken q rest fid f e k bad).quay q.val).waiting = rest := by
  obtain ⟨hctxs, hgregs, -, -⟩ := s.flightOf_eng f
  unfold State.headTaken State.frame? State.quay
  obtain ⟨h1, h2, h3, h4⟩ := State.spoilWord_eng (((s.flightOf f).1.setQuay q.val
    { (s.flightOf f).1.quay q.val with waiting := rest, lastEngine := e.val }).setFrame fid (s.headFrame f (.pilot q e k)))
    0 q.val (s.flightOf f).2.2 0 bad
  refine ⟨h1.trans hctxs, h2.trans hgregs, ?_, ?_⟩
  · exact (congrArg (fun t : Tab Frame => Tab.get? t fid) h3).trans (Tab.get?_put_self ..)
  · exact (congrArg (fun t : Tab QuaySt => (Tab.getD t q.val {}).waiting) h4).trans (congrArg QuaySt.waiting (Tab.getD_put_self ..))

/-- Settles O24: the checks of a frame's arrival in their order; what a head's dispatch writes is read off its stages, of which counting
changes no context. -/
theorem framesArriveAndStart : Obligations.FramesArriveAndStart := by
  refine ⟨⟨fun p lane bit phi bytes s hlink hmode hplain hgo => ?_, fun fid f s hf hlen => ?_⟩, fun q bad fid rest f s hwait hf => ?_⟩
  · have hexec := exec_frameRxStart (lane := lane) (bit := bit) (phi := phi) hlink hmode hplain hgo
    refine ⟨fun hfits => ?_, fun hbig => ?_⟩
    · rw [if_neg hfits] at hexec
      obtain ⟨hframe, hnext, hwaits, hports, hrest⟩ := (s.rxSeq p).enterFrame_spec (s.rxFrame p lane bit phi bytes) (decide (256 ≤ bytes.length))
      refine ⟨_, _, hexec, hframe, ?_, ?_, ?_, ?_, ?_, hnext, fun hhead => ⟨?_, ?_⟩, fun hshort => ?_, ?_⟩
      · split <;> rfl
      · split <;> rfl
      · split <;> rfl
      · split <;> rfl
      · rw [State.portSt, hports]
        exact congrArg PortSt.seqId (Tab.getD_put_self ..)
      · rw [if_pos (decide_eq_true hhead)]
      · rw [if_pos (decide_eq_true hhead)]
        exact hwaits (decide_eq_true hhead)
      · rw [if_neg (by rw [decide_eq_true_iff]; omega)]
        rfl
      · rw [hrest]
        rfl
    · rw [if_pos hbig] at hexec
      exact ⟨_, hexec, rfl, _, rfl, rfl⟩
  · refine ⟨exec_frameRxEnd_bad hf hlen, exec_frameRxEnd_oversize hf hlen, exec_frameRxEnd_runt hf hlen, exec_frameRxEnd_badFcs hf hlen,
      fun hbig hrunt hfcs hplain hmode hstage => ⟨_, (s.rxCount f).lastQueued f, exec_frameRxEnd_good hf hlen hbig hrunt hfcs hplain hmode hstage,
        Tab.get?_put_self .., rfl, rfl, rfl, ?_, s.rxFrames_rxCount f, s.rxOctets_rxCount f, ?_⟩⟩
    · rw [State.quay_setQuay_self]
    · rw [s.rxCount_frame f]
      rfl
  · refine ⟨exec_headDispatch_none hwait hf, fun e k hfree hrun => ?_⟩
    intro x
    have hexec := exec_headDispatch (bad := bad) hwait hf hfree hrun
    obtain ⟨hctxs, hgregs, hframe, hquay⟩ := s.headTaken_eng q rest fid f e k bad
    have heng := State.pmc_counts (s := s.headTaken q rest fid f e k bad) (e := frameEv 0x0401 (0x20 + q.val) (s.headMan f) false 1) |>.eng
    generalize State.pmc _ _ = w at hexec heng
    have hg : ∀ y r, w.g y r = s.g y r := fun y r => by rw [State.g, heng, hgregs, State.g]
    refine ⟨_, s.headCtx fid f, s.headFrame f x, hexec, State.ctx?_setCtx_self .., rfl, rfl, rfl, rfl, rfl, rfl, fun hrole => ?_, fun r => ?_,
      ?_, ?_, rfl, rfl, fun y hy => ⟨?_, fun r => ?_⟩, fun hflight => ?_⟩
    · have hkey : (s.prpRole f != 0) = false := by rw [hrole]; rfl
      rw [State.headCtx, hkey]
      rfl
    · rw [State.g_setCtx, State.g_zeroG, if_pos rfl]
    · change ((w.quay q.val)).waiting = rest
      rw [State.quay, heng]
      exact hquay
    · change w.frame? fid = _
      rw [State.frame?, heng]
      exact hframe
    · rw [State.ctx?_setCtx_ne _ _ hy]
      change w.ctx? y = s.ctx? y
      rw [State.ctx?, heng, hctxs, State.ctx?]
    · rw [State.g_setCtx, State.g_zeroG, if_neg hy, hg]
    · exact congrArg (fun r : State × Nat × Bool => r.2.2) (if_neg hflight)

end Sys2Proof.Machine
end

section
/-!
PROOFS. Ports: gates, low-power idle, preemption, PAUSE and PFC.
-/
namespace Sys2Proof.Machine
set_option Elab.async false

/-! ### Gates -/

/-- What an operation of a gate entry makes of the hold (R249). -/
def holdOf (op : Nat) (old : Bool) : Bool := if op = 1 then true else if op = 2 then false else old

/-- The operation of the entry in force. -/
def State.gateOp (s : State) (p : Nat) : Nat := (gateAt (s.gate p) (s.baseT16 (s.gateBase p))).2.2.1

theorem State.gate_setGate_self (s : State) (p : Nat) (g : Gate) : (s.setGate p g).gate p = g := Tab.getD_put_self ..

theorem State.gate_setGate_ne (s : State) {p k : Nat} (g : Gate) (h : k ≠ p) : (s.setGate p g).gate k = s.gate k := Tab.getD_put_ne _ _ _ h

/-- The entry in force sets, clears or leaves the hold of its port, and nothing else. -/
theorem State.gateHold_spec (s : State) (p : Nat) : (s.gateHold p).gate p = { s.gate p with hold := holdOf (s.gateOp p) (s.gate p).hold } ∧
    (∀ k, k ≠ p → (s.gateHold p).gate k = s.gate k) ∧ s.gateHold p = { s with tm := { s.tm with gates := (s.gateHold p).tm.gates } } := by
  have hop : (gateAt (s.gate p) (s.baseT16 (s.gateBase p))).2.2.1 = s.gateOp p := rfl
  unfold State.gateHold
  dsimp only
  rw [hop]
  match s.gateOp p with
  | 0 => exact ⟨rfl, fun _ _ => rfl, rfl⟩
  | 1 => exact ⟨State.gate_setGate_self .., fun _ hk => State.gate_setGate_ne _ _ hk, rfl⟩
  | 2 => exact ⟨State.gate_setGate_self .., fun _ hk => State.gate_setGate_ne _ _ hk, rfl⟩
  | _ + 3 => exact ⟨rfl, fun _ _ => rfl, rfl⟩

theorem exec_gclEntryAdvance {p : Port} {s : State} (hen : s.gateEn p.val = true) (hoper : (s.gate p.val).oper.isSome = true) :
    exec (.gclEntryAdvance p) s = .next (s.gateHold p.val) := congrArg Host.Outcome.next (if_pos ⟨hen, hoper⟩)

/-- The slots of a port bring their credits up to date; only the credits change. -/
theorem State.cbsTouch_frame (s : State) (i : Nat) : s.cbsTouch i = { s with tm := { s.tm with cbs := (s.cbsTouch i).tm.cbs } } := by
  unfold State.cbsTouch
  split <;> rfl

def State.cbsAll (s : State) (p : Nat) : State := (List.range 8).foldl (fun s n => s.cbsTouch (p * 8 + n)) s

theorem State.cbsAll_frame (s : State) (p : Nat) : s.cbsAll p = { s with tm := { s.tm with cbs := (s.cbsAll p).tm.cbs } } :=
  foldl_keeps (P := fun t : State => t = { s with tm := { s.tm with cbs := t.tm.cbs } })
    (fun t n ht => by rw [State.cbsTouch_frame, ht]) _ rfl

/-- The change of the gate list, up to the hold of its first entry (R250). -/
def State.gclSwap (s : State) (p : Nat) (a : GateList) : State :=
  let t := ((s.cbsAll p).setGate p { s.gate p with oper := some a, admin := (s.gate p).oper, change16 := none })
  let t := (t.setBit F.tmPortStatus_gclOper p true).setBit F.tmPortStatus_gclPending p false
  (t.setBit F.tmPortStatus_gclList p (!(t.bit F.tmPortStatus_gclList p))).bump F.tmCntGclChange p

theorem exec_gclChange {p : Port} {s : State} {c : Nat} {a : GateList} (hchange : (s.gate p.val).change16 = some c)
    (hadmin : (s.gate p.val).admin = some a) : exec (.gclChange p) s =
    .next (if c ≤ s.baseT16 (s.gateBase p.val) then (s.gclSwap p.val a).gateHold p.val else s) := by
  change execGclChange p s = _
  unfold execGclChange
  dsimp only
  rw [hchange, hadmin]
  rfl

theorem State.gclSwap_regs (s : State) (p : Nat) (a : GateList) : (s.gclSwap p a).bit F.tmPortStatus_gclOper p = true ∧
    (s.gclSwap p a).bit F.tmPortStatus_gclPending p = false ∧
    (s.gclSwap p a).get F.tmCntGclChange p = (s.get F.tmCntGclChange p + 1) % 2 ^ 64 := by
  unfold State.gclSwap
  extract_lets _ t u
  have ht : t.get F.tmCntGclChange p = s.get F.tmCntGclChange p := State.get_congr (by
    change (s.cbsAll p).regs = s.regs
    rw [s.cbsAll_frame p]) ..
  refine ⟨?_, ?_, ?_⟩
  · rw [State.bit, State.get_bump_reg _ _ _ (by decide), ← State.bit,
      State.bit_setBit_field _ (f := F.tmPortStatus_gclList) (g := F.tmPortStatus_gclOper) _ _ rfl (by decide) (by decide),
      State.bit_setBit_field _ (f := F.tmPortStatus_gclPending) (g := F.tmPortStatus_gclOper) _ _ rfl (by decide) (by decide)]
    exact State.bit_setBit_self _ _ _ _ (by decide) (by decide)
  · rw [State.bit, State.get_bump_reg _ _ _ (by decide), ← State.bit,
      State.bit_setBit_field _ (f := F.tmPortStatus_gclList) (g := F.tmPortStatus_gclPending) _ _ rfl (by decide) (by decide)]
    exact State.bit_setBit_self _ _ _ _ (by decide) (by decide)
  · rw [State.get_bump_self _ _ _ (by decide), State.setBit, State.get_set_other _ _ _ _ (by decide)]
    have hu : u.get F.tmCntGclChange p = t.get F.tmCntGclChange p :=
      (State.get_set_other _ (f := F.tmPortStatus_gclPending) _ _ _ (by decide)).trans
        (State.get_set_other _ (f := F.tmPortStatus_gclOper) _ _ _ (by decide))
    rw [hu, ht]

theorem State.gclSwap_frame (s : State) (p : Nat) (a : GateList) :
    s.gclSwap p a = { s with regs := (s.gclSwap p a).regs, tm := (s.gclSwap p a).tm } := by
  unfold State.gclSwap
  rw [s.cbsAll_frame p]
  rfl

theorem State.gate_gclSwap (s : State) (p : Nat) (a : GateList) :
    (s.gclSwap p a).gate p = { s.gate p with oper := some a, admin := (s.gate p).oper, change16 := none } := Tab.getD_put_self ..

/-! ### Low-power idle and preemption -/

theorem since_iff {at0 : Option Nat} {n now : Nat} : since at0 n now = true ↔ ∀ t, at0 = some t → t + n ≤ now := by
  cases at0 with
  | none => exact ⟨fun _ _ h => (Option.some_ne_none _ h.symm).elim, fun _ => rfl⟩
  | some t => exact ⟨fun h u hu => Option.some.inj hu ▸ of_decide_eq_true h, fun h => decide_eq_true (h t rfl)⟩

/-- The port that has heard of its partner's idle marks its next stamp (R288). -/
def State.rxLpiMark (s : State) (p : Port) : State :=
  (s.bump F.portCntRxLpi (portIx p.val)).setPortSt p.val { s.portSt p.val with
    lpiStamp := true, lastLpiEvt := if since (s.portSt p.val).lastLpiEvt 1000000000 s.ns then some s.ns else (s.portSt p.val).lastLpiEvt }

theorem exec_rxLpi {p : Port} {s : State} (hlink : s.linkUp p.val = true) : exec (.rxLpi p) s = .next (
    if s.bit F.portCfg_timingPort (portIx p.val) = true then
      if since (s.portSt p.val).lastLpiEvt 1000000000 s.ns = true then (s.rxLpiMark p).linkEvent 8 p.val 0 else s.rxLpiMark p
    else s.bump F.portCntRxLpi (portIx p.val)) := by
  have hcfg : (s.bump F.portCntRxLpi (portIx p.val)).bit F.portCfg_timingPort (portIx p.val) = s.bit F.portCfg_timingPort (portIx p.val) :=
    State.bit_set_other _ _ _ _ (by decide)
  refine congrArg Host.Outcome.next ((if_neg (by rw [hlink]; decide)).trans ?_)
  dsimp only
  rw [hcfg]
  rfl

/-- Settles O30: each step takes the branch of its definition that the hypotheses choose; the gates' changes are `State.gateHold_spec` and the
lemmas on `State.gclSwap`. -/
theorem gatesIdleAndPreemption : Obligations.GatesIdleAndPreemption := by
  refine ⟨fun p s => ⟨fun hen hoper => ?_, fun c a hchange hadmin hdue => ?_, fun c hchange hearly => ?_⟩, fun p s hlink =>
    ⟨fun hable hlpi hout hwire hidle => ?_, fun htiming => ?_, fun htiming => ?_, fun hen hdis hact htime htries => ?_, fun hen hact hone htries => ?_⟩⟩
  · obtain ⟨hgate, hothers, hrest⟩ := s.gateHold_spec p.val
    refine ⟨_, exec_gclEntryAdvance hen hoper, ?_, ?_, hothers, hrest⟩
    · rw [hgate]
      change holdOf (s.gateOp p.val) (s.gate p.val).hold = _
      rw [State.gateOp]
      dsimp only
      split
      · next h => rw [h]; rfl
      · next h => rw [h]; rfl
      · next h1 h2 => rw [holdOf, if_neg h1, if_neg h2]
    · rw [hgate]
  · obtain ⟨hgate, -, hrest⟩ := (s.gclSwap p.val a).gateHold_spec p.val
    obtain ⟨hoper, hpend, hcnt⟩ := s.gclSwap_regs p.val a
    have hregs : ((s.gclSwap p.val a).gateHold p.val).regs = (s.gclSwap p.val a).regs := by rw [hrest]
    have hexec := exec_gclChange hchange hadmin
    rw [if_pos hdue] at hexec
    rw [s.gate_gclSwap] at hgate
    refine ⟨_, hexec, ?_, ?_, ?_, ?_, ?_, ?_, ?_⟩
    · rw [hgate]
    · rw [hgate]
    · rw [hgate]
    · rw [State.bit_congr hregs, hoper]
    · rw [State.bit_congr hregs, hpend]
    · rw [State.get_congr hregs, hcnt]
    · rw [hrest, s.gclSwap_frame]
  · cases hadmin : (s.gate p.val).admin with
    | none =>
      change execGclChange p s = _
      unfold execGclChange
      dsimp only
      rw [hchange, hadmin]
    | some a => rw [exec_gclChange hchange hadmin, if_neg (Nat.not_le.2 hearly)]
  · refine ⟨_, congrArg Host.Outcome.next (if_pos ⟨hlink, hable, hlpi, hout, hwire, hidle⟩), ?_, rfl, ?_, rfl⟩
    · change ((s.setBit F.portStatus_txLpi (portIx p.val) true).bump F.portCntTxLpi (portIx p.val)).bit F.portStatus_txLpi (portIx p.val) = true
      rw [State.bit, State.get_bump_reg _ _ _ (by decide), ← State.bit]
      exact State.bit_setBit_self _ _ _ _ (by decide) (by decide)
    · rw [State.get_emit, State.get_bump_self _ _ _ (by decide), State.setBit, State.get_set_other _ _ _ _ (by decide)]
  · rw [exec_rxLpi hlink, htiming, if_neg (by decide)]
  · refine ⟨s.rxLpiMark p, State.get_bump_self _ _ _ (by decide), congrArg PortSt.lpiStamp (State.portSt_setPortSt_self ..), rfl, ?_⟩
    rw [exec_rxLpi hlink, if_pos htiming]
    exact congrArg Host.Outcome.next (ite_congr (propext since_iff) (fun _ => rfl) fun _ => rfl)
  · exact congrArg Host.Outcome.next (if_pos ⟨hlink, hen, hdis, hact, since_iff.2 htime, htries⟩)
  · exact ⟨s.setBit F.portStatus_preemptActive (portIx p.val) true, congrArg Host.Outcome.next (if_pos ⟨hlink, hen, hact, hone, htries⟩),
      State.bit_setBit_self _ _ _ _ (by decide) (by decide), rfl⟩

end Sys2Proof.Machine
end

section
/-!
PROOFS. Ports: FEC, PAUSE, PFC and the PFC watchdog.
-/
namespace Sys2Proof.Machine
set_option Elab.async false

/-! ### Bits of a mask -/

/-- Taking a bit that is set out of a number clears that bit alone. -/
theorem testBit_sub_two_pow {x n : Nat} (h : x.testBit n = true) (k : Nat) : (x - 2 ^ n).testBit k = (decide (k ≠ n) && x.testBit k) := by
  have hodd : x / 2 ^ n % 2 = 1 := by rwa [Nat.testBit_eq_decide_div_mod_eq, decide_eq_true_iff] at h
  have hlow : x % 2 ^ n < 2 ^ n := Nat.mod_lt _ (Nat.two_pow_pos n)
  obtain ⟨a, ha⟩ : ∃ a, x / 2 ^ n = 2 * a + 1 := ⟨x / 2 ^ n / 2, by omega⟩
  have hx : x = 2 ^ n * (2 * a + 1) + x % 2 ^ n := by rw [← ha, Nat.div_add_mod]
  have hsub : x - 2 ^ n = 2 ^ n * (2 * a) + x % 2 ^ n := by rw [Nat.mul_add] at hx; omega
  rw [hsub]
  conv => rhs; rw [hx]
  rw [Nat.testBit_two_pow_mul_add _ hlow, Nat.testBit_two_pow_mul_add _ hlow]
  rcases Nat.lt_trichotomy k n with hk | rfl | hk
  · rw [if_pos hk, if_pos hk, decide_eq_true (Nat.ne_of_lt hk), Bool.true_and]
  · simp
  · rw [if_neg (Nat.not_lt.2 (Nat.le_of_lt hk)), if_neg (Nat.not_lt.2 (Nat.le_of_lt hk)), decide_eq_true (Nat.ne_of_gt hk), Bool.true_and,
      show k - n = (k - n - 1) + 1 by omega, Nat.testBit_succ, Nat.testBit_succ]
    congr 1
    omega

/-- A mask with bit `n` set to a value. -/
def putBit (x n : Nat) (b : Bool) : Nat := if b then x ||| 2 ^ n else if x.testBit n then x - 2 ^ n else x

theorem testBit_putBit (x n : Nat) (b : Bool) (k : Nat) : (putBit x n b).testBit k = if k = n then b else x.testBit k := by
  cases b with
  | true =>
    rw [putBit, if_pos rfl, Nat.testBit_or, Nat.testBit_two_pow]
    by_cases hk : k = n
    · simp [hk]
    · simp [hk, Ne.symm hk]
  | false =>
    rw [putBit, if_neg Bool.false_ne_true]
    split
    · next h =>
      rw [testBit_sub_two_pow h]
      by_cases hk : k = n <;> simp [hk]
    · next h =>
      by_cases hk : k = n
      · rw [if_pos hk, hk]
        exact Bool.eq_false_iff.2 h
      · rw [if_neg hk]

theorem putBit_lt {x n m : Nat} (b : Bool) (hx : x < 2 ^ m) (hn : n < m) : putBit x n b < 2 ^ m := by
  unfold putBit
  split
  · exact Nat.or_lt_two_pow hx (Nat.pow_lt_pow_right (by decide) hn)
  · split
    · exact Nat.lt_of_le_of_lt (Nat.sub_le ..) hx
    · exact hx

/-- A mask field after a bit of it has been set. -/
theorem State.testBit_set_putBit (s : State) (f : Fld) (i n : Nat) (b : Bool) (h : f.lo + f.len ≤ 320) (hn : n < f.len) (k : Nat) :
    ((s.set f i (putBit (s.get f i) n b)).get f i).testBit k = if k = n then b else (s.get f i).testBit k := by
  rw [State.get_set_self _ _ _ _ h, Nat.mod_eq_of_lt (putBit_lt b (s.get_lt f i) hn), testBit_putBit]

/-! ### FEC and PAUSE -/

/-- Corrected codewords as counted, with the time of the event where one is due. -/
def State.fecCount (s : State) (p : Port) (corrected : Nat) : State :=
  let t := s.addTo F.portCntFecCorr (portIx p.val) corrected
  if s.get F.portCfg_fecDegThr (portIx p.val) < corrected ∧ since (s.portSt p.val).lastFecEvt 1000000000 s.ns = true then
    t.setPortSt p.val { s.portSt p.val with lastFecEvt := some s.ns } else t

theorem State.fecCount_spec (s : State) (p : Port) (corrected : Nat) :
    (s.fecCount p corrected).get F.portCntFecCorr (portIx p.val) = (s.get F.portCntFecCorr (portIx p.val) + corrected) % 2 ^ 64 ∧
    s.fecCount p corrected = { s with regs := (s.fecCount p corrected).regs, ports := (s.fecCount p corrected).ports } := by
  have hcount : (s.addTo F.portCntFecCorr (portIx p.val) corrected).get F.portCntFecCorr (portIx p.val) =
    (s.get F.portCntFecCorr (portIx p.val) + corrected) % 2 ^ 64 := State.get_set_self _ _ _ _ (by decide)
  unfold State.fecCount
  dsimp only
  split <;> exact ⟨hcount, rfl⟩

theorem exec_fecDegradedTick {p : Port} {s : State} (corrected : Nat) (hlink : s.linkUp p.val = true) :
    exec (.fecDegradedTick p corrected) s = .next (
      if s.get F.portCfg_fecDegThr (portIx p.val) < corrected ∧ since (s.portSt p.val).lastFecEvt 1000000000 s.ns = true then
        (s.fecCount p corrected).linkEvent 3 p.val 0 else s.fecCount p corrected) := by
  have hthr : (s.addTo F.portCntFecCorr (portIx p.val) corrected).get F.portCfg_fecDegThr (portIx p.val) =
    s.get F.portCfg_fecDegThr (portIx p.val) := State.get_set_other _ _ _ _ (by decide)
  refine congrArg Host.Outcome.next ((if_neg (by rw [hlink]; decide)).trans ?_)
  unfold State.fecCount
  dsimp only
  by_cases h : s.get F.portCfg_fecDegThr (portIx p.val) < corrected ∧ since (s.portSt p.val).lastFecEvt 1000000000 s.ns = true
  · rw [if_pos h, if_pos h]
    exact if_pos ⟨by rw [hthr]; exact h.1, h.2⟩
  · rw [if_neg h, if_neg h]
    exact if_neg fun hg => h ⟨by rw [← hthr]; exact hg.1, hg.2⟩

/-- The rate of a port hangs on its mode and configuration alone. -/
theorem State.quantaNs_writes {l : List Reg} {s t : State} (h : Writes l s t) (hmode : F.portPbMode_mode.reg ∉ l) (hcfg : F.portCfg_mgmtRate.reg ∉ l)
    (p q : Nat) : t.quantaNs p q = s.quantaNs p q := by
  unfold State.quantaNs State.portRate State.pbMode
  rw [h.get hmode, h.bit hcfg]

theorem exec_pauseFrameRx {p : Port} {s : State} (q : BitVec 16) (hlink : s.linkUp p.val = true) : exec (.pauseFrameRx p q) s =
    .next (if s.get F.portFlowctl_mode (portIx p.val) = 1 then s.pauseRx p.val q.toNat else s.bump F.portCntRxCtlDiscard (portIx p.val)) :=
  congrArg Host.Outcome.next (if_pos hlink)

theorem State.pauseRx_spec (s : State) (p quanta : Nat) : (s.pauseRx p quanta).bit F.tmPortStatus_paused p = (quanta != 0) ∧
    ((s.pauseRx p quanta).portSt p).pauseUntil = (if quanta = 0 then none else some (s.ns + s.quantaNs p quanta)) ∧
    s.pauseRx p quanta = { s with regs := (s.pauseRx p quanta).regs, ports := (s.pauseRx p quanta).ports } := by
  have hquanta : (s.bump F.portCntRxPause (portIx p)).quantaNs p quanta = s.quantaNs p quanta :=
    State.quantaNs_writes (Writes.set (l := [.portCntRxPause]) (f := F.portCntRxPause) (by decide)) (by decide) (by decide) p quanta
  refine ⟨State.bit_setBit_self _ _ _ _ (by decide) (by decide), ?_, rfl⟩
  rw [← hquanta]
  exact congrArg PortSt.pauseUntil (Tab.getD_put_self ..)

/-! ### PFC -/

/-- The state of a port in which priority `n` is paused or resumed (R281). -/
def State.pfcSet (s : State) (p n : Nat) (st : PortSt) (b : Bool) : State :=
  (s.setPortSt p st).set F.tmPortStatus_pfcPaused p (putBit (s.get F.tmPortStatus_pfcPaused p) n b)

theorem State.pfcSet_testBit (s : State) {p n : Nat} (st : PortSt) (b : Bool) (hn : n < 8) (k : Nat) :
    ((s.pfcSet p n st b).get F.tmPortStatus_pfcPaused p).testBit k = if k = n then b else (s.get F.tmPortStatus_pfcPaused p).testBit k :=
  State.testBit_set_putBit (s.setPortSt p st) F.tmPortStatus_pfcPaused p n b (by decide) hn k

/-- A port that has heard a PFC frame for priority `n`. -/
def State.pfcHeard (s : State) (p n : Nat) : PortSt := { s.portSt p with pfcLast := Tab.put (s.portSt p).pfcLast n s.ns }

/-- A priority that a PFC frame names: what it leaves of the pause bits, and what it does not touch (R281). -/
theorem State.pfcOne_spec (s : State) {p n : Nat} (quanta : Nat) (hn : n < 8) :
    (∀ k, ((s.pfcOne p n quanta).get F.tmPortStatus_pfcPaused p).testBit k =
      if k = n ∧ (s.portSt p).storm.getLsbD n = false then quanta != 0 else (s.get F.tmPortStatus_pfcPaused p).testBit k) ∧
    ((s.pfcOne p n quanta).portSt p).storm = (s.portSt p).storm ∧
    s.pfcOne p n quanta = { s with regs := (s.pfcOne p n quanta).regs, ports := (s.pfcOne p n quanta).ports } := by
  have hold : (s.bump F.portCntRxPfc (portIx p * 8 + n)).get F.tmPortStatus_pfcPaused p = s.get F.tmPortStatus_pfcPaused p :=
    State.get_bump_reg _ _ _ (by decide)
  have hport : ∀ st : PortSt, ((s.bump F.portCntRxPfc (portIx p * 8 + n)).setPortSt p st).portSt p = st := fun st => State.portSt_setPortSt_self ..
  cases hstorm : (s.portSt p).storm.getLsbD n with
  | true =>
    have hone : s.pfcOne p n quanta = (s.bump F.portCntRxPfc (portIx p * 8 + n)).setPortSt p
        { s.portSt p with pfcLast := Tab.put (s.portSt p).pfcLast n s.ns } := if_pos hstorm
    rw [hone, hport]
    refine ⟨fun k => ?_, rfl, rfl⟩
    rw [State.get_setPortSt, hold, if_neg (fun h => Bool.false_ne_true h.2.symm)]
  | false =>
    obtain ⟨st, hst, hone⟩ : ∃ st : PortSt, st.storm = (s.portSt p).storm ∧
        s.pfcOne p n quanta = (s.bump F.portCntRxPfc (portIx p * 8 + n)).pfcSet p n st (quanta != 0) := by
      have hcalm : ¬(s.portSt p).storm.getLsbD n = true := by rw [hstorm]; decide
      by_cases hq : quanta = 0
      · subst hq
        exact ⟨{ s.pfcHeard p n with pfcUntil := Tab.del (s.pfcHeard p n).pfcUntil n, pfcSince := Tab.del (s.pfcHeard p n).pfcSince n }, rfl,
          (if_neg hcalm).trans (if_pos rfl)⟩
      · rw [bne_iff_ne.2 hq]
        refine ⟨{ s.pfcHeard p n with
          pfcUntil := Tab.put (s.pfcHeard p n).pfcUntil n ((s.bump F.portCntRxPfc (portIx p * 8 + n)).ns +
            (s.bump F.portCntRxPfc (portIx p * 8 + n)).quantaNs p quanta)
          pfcSince := if ((s.bump F.portCntRxPfc (portIx p * 8 + n)).get F.tmPortStatus_pfcPaused p).testBit n then (s.pfcHeard p n).pfcSince
            else Tab.put (s.pfcHeard p n).pfcSince n s.ns }, rfl, (if_neg hcalm).trans (if_neg hq)⟩
    rw [hone]
    refine ⟨fun k => ?_, (congrArg PortSt.storm (hport st)).trans hst, rfl⟩
    rw [State.pfcSet_testBit _ _ _ hn, hold]
    exact ite_of_iff (iff_self_and.2 fun _ => rfl) rfl rfl

/-- The priorities of a list that a PFC frame names, one after the other. -/
def State.pfcRun (s : State) (p : Nat) (mask : BitVec 8) (quanta : List Nat) (l : List Nat) : State :=
  l.foldl (fun s n => if mask.getLsbD n then s.pfcOne p n (quanta.getD n 0) else s) s

theorem State.pfcRun_spec (p : Nat) (mask : BitVec 8) (quanta : List Nat) : ∀ (l : List Nat) (s : State), l.Nodup → (∀ n ∈ l, n < 8) →
    (∀ k, ((s.pfcRun p mask quanta l).get F.tmPortStatus_pfcPaused p).testBit k =
      if k ∈ l ∧ mask.getLsbD k = true ∧ (s.portSt p).storm.getLsbD k = false then quanta.getD k 0 != 0
      else (s.get F.tmPortStatus_pfcPaused p).testBit k) ∧
    s.pfcRun p mask quanta l = { s with regs := (s.pfcRun p mask quanta l).regs, ports := (s.pfcRun p mask quanta l).ports }
  | [], s, _, _ => ⟨fun k => (if_neg fun h => List.not_mem_nil h.1).symm, rfl⟩
  | n :: l, s, hnodup, hlt => by
    obtain ⟨hn, hl⟩ := List.nodup_cons.1 hnodup
    have hlt' : ∀ m ∈ l, m < 8 := fun m hm => hlt m (List.mem_cons_of_mem _ hm)
    cases hmask : mask.getLsbD n with
    | false =>
      have hrun : s.pfcRun p mask quanta (n :: l) = s.pfcRun p mask quanta l := by
        rw [State.pfcRun, List.foldl_cons, if_neg (by rw [hmask]; decide), State.pfcRun]
      obtain ⟨hbits, hrest⟩ := State.pfcRun_spec p mask quanta l s hl hlt'
      rw [hrun]
      refine ⟨fun k => (hbits k).trans (ite_of_iff ⟨fun h => ⟨List.mem_cons_of_mem _ h.1, h.2⟩, fun h => ⟨?_, h.2⟩⟩ rfl rfl), hrest⟩
      rcases List.mem_cons.1 h.1 with rfl | hk
      · exact absurd (hmask.symm.trans h.2.1) Bool.false_ne_true
      · exact hk
    | true =>
      have hrun : s.pfcRun p mask quanta (n :: l) = (s.pfcOne p n (quanta.getD n 0)).pfcRun p mask quanta l := by
        rw [State.pfcRun, List.foldl_cons, if_pos hmask, State.pfcRun]
      obtain ⟨hone, hstorm, hframe⟩ := s.pfcOne_spec (p := p) (quanta.getD n 0) (hlt n (List.mem_cons_self ..))
      obtain ⟨hbits, hrest⟩ := State.pfcRun_spec p mask quanta l (s.pfcOne p n (quanta.getD n 0)) hl hlt'
      rw [hrun]
      refine ⟨fun k => ?_, by rw [hrest, hframe]⟩
      rw [hbits, hone, hstorm]
      by_cases hk : k = n
      · subst hk
        rw [if_neg fun h => hn h.1]
        exact ite_of_iff (by simp [hmask]) rfl rfl
      · rw [if_neg (c := k = n ∧ _) fun h => hk h.1]
        exact ite_of_iff (by simp [hk]) rfl rfl

theorem State.pfcRx_spec (s : State) (p : Nat) (mask : BitVec 8) (quanta : List Nat) :
    (∀ n, n < 8 → ((s.pfcRx p mask quanta).get F.tmPortStatus_pfcPaused p).testBit n =
      if mask.getLsbD n = true ∧ (s.portSt p).storm.getLsbD n = false then quanta.getD n 0 != 0
      else (s.get F.tmPortStatus_pfcPaused p).testBit n) ∧
    s.pfcRx p mask quanta = { s with regs := (s.pfcRx p mask quanta).regs, ports := (s.pfcRx p mask quanta).ports } := by
  obtain ⟨hbits, hrest⟩ := State.pfcRun_spec p mask quanta (List.range 8) s List.nodup_range fun n hn => List.mem_range.1 hn
  exact ⟨fun n hn => (hbits n).trans (ite_of_iff (and_iff_right (List.mem_range.2 hn)) rfl rfl), hrest⟩

theorem exec_pfcFrameRx {p : Port} {s : State} (m : BitVec 8) (q : List (BitVec 16)) (hlink : s.linkUp p.val = true) :
    exec (.pfcFrameRx p m q) s = .next (if s.get F.portFlowctl_mode (portIx p.val) = 2 then s.pfcRx p.val m (q.map (fun v => v.toNat))
      else s.bump F.portCntRxCtlDiscard (portIx p.val)) :=
  congrArg Host.Outcome.next (if_pos hlink)

/-! ### The ends of pauses, and storms -/

theorem exec_pauseExpiry {p : Port} {s : State} {t : Nat} (h : (s.portSt p.val).pauseUntil = some t) (hdue : t ≤ s.ns) :
    exec (.pauseExpiry p none) s = .next ((s.setPortSt p.val { s.portSt p.val with pauseUntil := none }).setBit F.tmPortStatus_paused p.val false) := by
  change execPauseExpiry p none s = _
  unfold execPauseExpiry
  dsimp only
  rw [h]
  exact congrArg Host.Outcome.next (if_pos hdue)

theorem exec_pauseExpiry_pfc {p : Port} {n : Fin 8} {s : State} {t : Nat} (h : Tab.get? (s.portSt p.val).pfcUntil n.val = some t) (hdue : t ≤ s.ns) :
    exec (.pauseExpiry p (some n)) s = .next (s.pfcSet p.val n.val { s.portSt p.val with
      pfcUntil := Tab.del (s.portSt p.val).pfcUntil n.val, pfcSince := Tab.del (s.portSt p.val).pfcSince n.val } false) := by
  change execPauseExpiry p (some n) s = _
  unfold execPauseExpiry
  dsimp only
  rw [h]
  exact congrArg Host.Outcome.next (if_pos hdue)

theorem exec_pfcRefresh {p : Port} {s : State} {t : Nat} (h : (s.portSt p.val).refreshNs = some t) (hdue : t ≤ s.ns)
    (hxoff : (s.portSt p.val).xoff ≠ 0) : exec (.pfcRefresh p) s = .next (
      if s.get F.portFlowctl_mode (portIx p.val) = 1 then
        (s.setPortSt p.val { s.portSt p.val with refreshNs := some (s.ns + s.quantaNs p.val (s.get F.portFlowctl_refresh (portIx p.val))) }).sendFlow
          p.val 0xFF [s.get F.portFlowctl_pfcQuanta (portIx p.val)]
      else (s.setPortSt p.val { s.portSt p.val with refreshNs := some (s.ns + s.quantaNs p.val (s.get F.portFlowctl_refresh (portIx p.val))) }).sendFlow
          p.val (s.portSt p.val).xoff
          ((List.range 8).map (fun i => if (s.portSt p.val).xoff.getLsbD i then s.get F.portFlowctl_pfcQuanta (portIx p.val) else 0))) := by
  change execPfcRefresh p s = _
  unfold execPfcRefresh
  dsimp only
  rw [h]
  exact congrArg Host.Outcome.next (if_pos ⟨hdue, hxoff⟩)

/-- A storm's end: the port's mark and its register's. -/
def State.stormClear (s : State) (p n : Nat) : State :=
  (s.setPortSt p { s.portSt p with storm := (s.portSt p).storm &&& ~~~(BitVec.ofNat 8 (2 ^ n)) }).set F.portStatus_pfcStorm (portIx p)
    (putBit (s.get F.portStatus_pfcStorm (portIx p)) n false)

theorem State.stormClear_spec (s : State) {p n : Nat} (hn : n < 8) : ((s.stormClear p n).portSt p).storm.getLsbD n = false ∧
    ((s.stormClear p n).get F.portStatus_pfcStorm (portIx p)).testBit n = false ∧
    s.stormClear p n = { s with regs := (s.stormClear p n).regs, ports := (s.stormClear p n).ports } := by
  refine ⟨?_, ?_, rfl⟩
  · have hport : (s.stormClear p n).portSt p = { s.portSt p with storm := (s.portSt p).storm &&& ~~~(BitVec.ofNat 8 (2 ^ n)) } :=
      State.portSt_setPortSt_self ..
    rw [hport, BitVec.getLsbD_and, BitVec.getLsbD_not, BitVec.getLsbD_ofNat, Nat.testBit_two_pow_self]
    simp
  · exact (State.testBit_set_putBit (s.setPortSt p _) F.portStatus_pfcStorm (portIx p) n false (by decide) hn n).trans (if_pos rfl)

theorem exec_pfcWdTick {p : Port} {n : Fin 8} {s : State} (hlink : s.linkUp p.val = true) (hmode : s.get F.portFlowctl_mode (portIx p.val) = 2)
    (hen : (s.get F.portPfcWd_wdEn (portIx p.val)).testBit n.val = true) : exec (.pfcWdTick p n) s = .next (
      if (s.portSt p.val).storm.getLsbD n.val = true then
        if s.get F.portPfcWd_wdRestore (portIx p.val) ≤ s.msSince (Tab.getD (s.portSt p.val).pfcLast n.val 0) then
          (s.stormClear p.val n.val).linkEvent 5 p.val n.val
        else s
      else if (s.get F.tmPortStatus_pfcPaused p.val).testBit n.val = true ∧ s.slotQueues (p.val * 8 + n.val) ≠ [] then
        let c := Nat.min (Tab.getD (s.portSt p.val).wdTicks n.val 0 + 1) (s.msSince (Tab.getD (s.portSt p.val).pfcSince n.val s.ns))
        let s1 := s.setPortSt p.val { s.portSt p.val with wdTicks := Tab.put (s.portSt p.val).wdTicks n.val c }
        if s.get F.portPfcWd_wdDetect (portIx p.val) ≤ c then s1.stormStart p.val n.val else s1
      else s.setPortSt p.val { s.portSt p.val with wdTicks := Tab.del (s.portSt p.val).wdTicks n.val }) := by
  refine congrArg Host.Outcome.next (if_neg ?_)
  rintro (h | h | h)
  · exact Bool.false_ne_true (h.symm.trans hlink)
  · exact h hmode
  · exact Bool.false_ne_true (h.symm.trans hen)

/-- Settles O32: each step takes the branch of its definition that the hypotheses choose; a mask bit that a step sets leaves the others. -/
theorem pausesAndStorms : Obligations.PausesAndStorms := by
  intro p s
  refine ⟨fun corrected hlink => ?_, fun q hlink => ⟨fun hmode => ?_, fun hmode => ?_⟩, fun m q hlink => ⟨fun hmode => ?_, fun hmode => ?_⟩,
    fun t ht hdue => ⟨_, exec_pauseExpiry ht hdue, ?_, ?_, rfl⟩, fun n t ht hdue => ⟨_, exec_pauseExpiry_pfc ht hdue, ?_, ?_, rfl⟩,
    fun t ht hdue hxoff => exec_pfcRefresh ht hdue hxoff, fun n hlink hmode hen => ?_⟩
  · obtain ⟨hcount, hrest⟩ := s.fecCount_spec p corrected
    refine ⟨s.fecCount p corrected, hcount, hrest, (exec_fecDegradedTick corrected hlink).trans ?_⟩
    exact congrArg Host.Outcome.next (ite_of_iff (and_congr_right fun _ => since_iff) rfl rfl)
  · obtain ⟨hbit, huntil, hrest⟩ := s.pauseRx_spec p.val q.toNat
    exact ⟨_, (exec_pauseFrameRx q hlink).trans (congrArg Host.Outcome.next (if_pos hmode)), hbit, huntil, hrest⟩
  · exact (exec_pauseFrameRx q hlink).trans (congrArg Host.Outcome.next (if_neg hmode))
  · obtain ⟨hbits, hrest⟩ := s.pfcRx_spec p.val m (q.map (fun v => v.toNat))
    refine ⟨_, (exec_pfcFrameRx m q hlink).trans (congrArg Host.Outcome.next (if_pos hmode)), hrest, fun n hn => (hbits n hn).trans ?_⟩
    rw [show (0 : Nat) = (0 : BitVec 16).toNat by rfl, List.getD_eq_getElem?_getD, List.getElem?_map, Option.getD_map,
      ← List.getD_eq_getElem?_getD]
  · exact (exec_pfcFrameRx m q hlink).trans (congrArg Host.Outcome.next (if_neg hmode))
  · exact congrArg PortSt.pauseUntil (State.portSt_setPortSt_self ..)
  · exact State.bit_setBit_self _ _ _ _ (by decide) (by decide)
  · have hport : ∀ st : PortSt, (s.pfcSet p.val n.val st false).portSt p.val = st := fun st => State.portSt_setPortSt_self ..
    rw [hport]
    exact Tab.get?_del_self ..
  · rw [State.pfcSet_testBit _ _ _ n.isLt, if_pos rfl]
  · have hexec := exec_pfcWdTick hlink hmode hen
    refine ⟨fun hstorm hearly => ?_, fun hstorm hlate => ⟨s.stormClear p.val n.val, ?_, s.stormClear_spec n.isLt⟩, fun hstorm hpaused hqueues => ?_,
      fun hstorm hidle => ?_⟩
    · rw [hexec, if_pos hstorm, if_neg (Nat.not_le.2 hearly)]
    · rw [hexec, if_pos hstorm, if_pos hlate]
    · rw [hexec, if_neg (by rw [hstorm]; decide), if_pos ⟨hpaused, hqueues⟩]
    · rw [hexec, if_neg (by rw [hstorm]; decide), if_neg]
      exact fun h => hidle.elim (fun hp => Bool.false_ne_true (hp.symm.trans h.1)) h.2

end Sys2Proof.Machine
end

section
/-!
PROOFS. The ledger's upkeep: posted index writes, stash moves, ageing and migration.
-/
namespace Sys2Proof.Machine
set_option Elab.async false

/-! ### Records of a slice -/

theorem SliceSt.recAt_setRec_self (v : SliceSt) (n : Nat) (e : Rec) : (v.setRec n e).recAt n = some e := by
  unfold SliceSt.setRec SliceSt.recAt
  split
  · exact Tab.get?_put_self ..
  · exact Tab.get?_put_self ..

theorem SliceSt.recAt_setRec_ne (v : SliceSt) {n k : Nat} (e : Rec) (h : k ≠ n) : (v.setRec n e).recAt k = v.recAt k := by
  unfold SliceSt.setRec SliceSt.recAt
  by_cases hn : n < oldOff
  · rw [if_pos hn]
    exact ite_of_iff Iff.rfl (Tab.get?_put_ne _ _ h) rfl
  · rw [if_neg hn]
    by_cases hk : k < oldOff
    · rw [if_pos hk, if_pos hk]
    · rw [if_neg hk, if_neg hk]
      exact Tab.get?_put_ne _ _ (by omega)

theorem SliceSt.recAt_updRec_self (v : SliceSt) (n : Nat) (f : Rec → Rec) : (v.updRec n f).recAt n = (v.recAt n).map f := by
  unfold SliceSt.updRec
  split
  · next e he => rw [SliceSt.recAt_setRec_self, he, Option.map_some]
  · next he => rw [he, Option.map_none]

theorem SliceSt.recAt_updRec_ne (v : SliceSt) {n k : Nat} (f : Rec → Rec) (h : k ≠ n) : (v.updRec n f).recAt k = v.recAt k := by
  unfold SliceSt.updRec
  split
  · exact SliceSt.recAt_setRec_ne v _ h
  · rfl

theorem SliceSt.writes_updRec (v : SliceSt) (n : Nat) (f : Rec → Rec) : (v.updRec n f).writes = v.writes := by
  unfold SliceSt.updRec SliceSt.setRec
  split
  · split <;> rfl
  · rfl

/-- A ledger access to HBM is counted; no slice changes. -/
theorem State.slice_ledHbm (s : State) (sl n k : Nat) (write : Bool) : (s.ledHbm sl n write).slice k = s.slice k := by
  have hled : (s.ledHbm sl n write).led = s.led := State.ledHbm_keeps.frame.led.resolve_left (by decide)
  unfold State.slice
  rw [hled]

theorem State.slice_setSlice_ne (s : State) {n k : Nat} (v : SliceSt) (h : k ≠ n) : (s.setSlice n v).slice k = s.slice k :=
  Tab.getD_put_ne _ _ _ h

theorem State.slice_bump (s : State) (f : Fld) (i k : Nat) : (s.bump f i).slice k = s.slice k := rfl

/-! ### Writes and moves -/

theorem exec_indexWriteDone {sl : Slice} {s : State} {n : Nat} {l : List Nat} (h : (s.slice sl.val).writes = n :: l) :
    exec (.indexWriteDone sl) s = .next ((s.setSlice sl.val
      (({ s.slice sl.val with writes := l } : SliceSt).updRec n (fun e => { e with writing := false }))).ledHbm sl.val 64 true) := by
  change execIndexWriteDone sl s = _
  unfold execIndexWriteDone
  dsimp only
  rw [h]

/-- What a stash entry's move leaves of its record: it is in the index and no longer in the stash (R160). -/
theorem State.stashPlace_places {s : State} {v v2 : SliceSt} {n : Nat} {e : Rec} (h : s.stashPlace v n e = some v2) :
    ∃ g, v2.recAt n = some g ∧ g.inIndex = true ∧ g.stashOrd = none := by
  unfold State.stashPlace at h
  dsimp only at h
  split at h
  · cases h
    exact ⟨_, SliceSt.recAt_setRec_self .., rfl, rfl⟩
  · split at h
    · cases h
    · cases h
      exact ⟨_, SliceSt.recAt_setRec_self .., rfl, rfl⟩

/-! ### Ageing -/

/-- The ager's position and the read of a record that is not cached (R164). -/
def State.agerAt (s : State) (sl : Slice) (n : Nat) (e : Rec) : State :=
  if e.cached then s.setSlice sl.val { s.slice sl.val with agerPos := n + 1 }
  else (s.setSlice sl.val { s.slice sl.val with agerPos := n + 1 }).ledHbm sl.val 64 false

theorem exec_ledgerAgerVisit {sl : Slice} {s : State} {n : Nat} {e : Rec} (hen : s.bit F.ledgerCfg_en 0 = true) (hmode : s.modeNo ≠ mHARBOUR)
    (hnext : (s.slice sl.val).nextVisit = some (n, e)) : exec (.ledgerAgerVisit sl false) s = .next (
      if recStatic e = true ∨ (s.agerAt sl n e).lockHeld sl.val e.hs = true then s.agerAt sl n e
      else if (s.agerAt sl n e).ageIdle e = true then ((s.agerAt sl n e).recDelete sl.val n 1).bump F.ledgerCntAged sl.val
      else if (s.agerAt sl n e).activeDue e = true then (s.agerAt sl n e).exportRec sl.val 2 n e else s.agerAt sl n e) := by
  change execLedgerAgerVisit sl false s = _
  unfold execLedgerAgerVisit
  dsimp only
  rw [if_neg (not_or.2 ⟨by rw [hen]; decide, hmode⟩), hnext]
  dsimp only
  rw [if_neg Bool.false_ne_true]
  rfl

/-- A record that is neither static nor locked is not kept. -/
theorem not_locked {a b : Bool} (ha : a = false) (hb : b = false) : ¬(a = true ∨ b = true) := by
  rw [ha, hb]
  decide

/-! ### Migration -/

theorem exec_rehashMigrate {sl : Slice} {s : State} {r : Rehash} (hrehash : s.led.rehash = some r) (hmode : s.modeNo ≠ mHARBOUR)
    {n : Nat} {e : Rec} {line : Nat} (hnext : (s.slice sl.val).nextMigrant r = some (n, e, line)) :
    exec (.rehashMigrate sl) s = .next (
      if (s.setSlice sl.val { s.slice sl.val with migrate := line }).lockHeld sl.val e.hs = true then
        s.setSlice sl.val { s.slice sl.val with migrate := line }
      else (s.setSlice sl.val { s.slice sl.val with migrate := line }).migrateRec sl.val n e r) := by
  change execRehashMigrate sl s = _
  unfold execRehashMigrate
  rw [hrehash]
  dsimp only
  rw [if_neg hmode, hnext]

/-- A record that moves leaves the old table and is in the new one under the number that was kept for it, with its key (R175). -/
theorem State.migrateRec_moves {s s2 : State} {sl n m : Nat} {e : Rec} {r : Rehash} {stash : Bool} (hstay : recStatic e = true ∨ s.ageIdle e = false)
    (hkey : e.key.length ≤ keyMax s.compact) (hroom : s.reserveRoom sl e.key = (s2, some (m, stash))) :
    ∃ g : Rec, Tab.get? ((s.migrateRec sl n e r).slice sl).old n = none ∧ Tab.get? ((s.migrateRec sl n e r).slice sl).recs m = some g ∧
      g.key = e.key ∧ g.hs = e.hs ∧ g.img = mapForm r.form s.compact e.key e.img ∧
      ((s.migrateRec sl n e r).slice sl).migrated = (s2.slice sl).migrated + 1 := by
  have hkeep : ¬(!(recStatic e) && s.ageIdle e) = true := by
    rcases hstay with h | h <;> rw [h] <;> simp
  unfold State.migrateRec
  dsimp only
  rw [if_neg hkeep, if_neg (Nat.not_lt.2 hkey), hroom]
  dsimp only
  rw [State.slice_bump, State.slice_ledHbm, State.slice_ledHbm, State.slice_setSlice_self]
  exact ⟨_, Tab.get?_del_self .., Tab.get?_put_self .., rfl, rfl, rfl, rfl⟩

/-- Settles O28: a posted write, a stash move, a visit and a migration each write one record; accesses are only counted. -/
theorem ledgerUpkeep : Obligations.LedgerUpkeep := by
  intro sl s
  refine ⟨fun n l hwrites => ⟨_, exec_indexWriteDone hwrites, ?_, fun e he => ?_, fun k hk => ?_, fun k hk => ?_⟩, fun v2 hfind => ⟨?_, ?_⟩,
    fun n e hen hmode hnext => ⟨fun hkeep => ?_, fun hstatic hlock hidle => ?_, fun hstatic hlock hidle => ?_⟩,
    fun r hrehash hmode => ⟨fun hnone => ?_, fun n e line hnext => ⟨fun hlock => ?_, fun s2 m stash hlock hstay hkey hroom => ?_⟩⟩⟩
  · rw [State.slice_ledHbm, State.slice_setSlice_self, SliceSt.writes_updRec]
  · rw [State.slice_ledHbm, State.slice_setSlice_self, SliceSt.recAt_updRec_self] at he
    obtain ⟨g, -, rfl⟩ := Option.map_eq_some_iff.1 he
    rfl
  · rw [State.slice_ledHbm, State.slice_setSlice_self, SliceSt.recAt_updRec_ne _ _ hk]
    rfl
  · rw [State.slice_ledHbm, State.slice_setSlice_ne _ _ hk]
  · change execIndexUnitMove sl s = _
    unfold execIndexUnitMove
    dsimp only
    split
    · next v hv => rw [Option.some.inj (hv.symm.trans hfind)]
    · next hno => exact absurd (hno.symm.trans hfind) nofun
  · obtain ⟨l1, e, l2, hlist, hplace, -⟩ := List.findSome?_eq_some_iff.1 hfind
    split at hplace
    · next g hg =>
      obtain ⟨g2, hrec, hin, hstash⟩ := State.stashPlace_places hplace
      exact ⟨e.2, g2, List.mem_map_of_mem (by rw [hlist]; simp), hrec, hin, hstash⟩
    · cases hplace
  · exact (exec_ledgerAgerVisit hen hmode hnext).trans (congrArg Host.Outcome.next (if_pos hkeep))
  · exact (exec_ledgerAgerVisit hen hmode hnext).trans (congrArg Host.Outcome.next ((if_neg (not_locked hstatic hlock)).trans (if_pos hidle)))
  · exact (exec_ledgerAgerVisit hen hmode hnext).trans (congrArg Host.Outcome.next ((if_neg (not_locked hstatic hlock)).trans
      (if_neg fun h => Bool.false_ne_true (hidle.symm.trans h))))
  · change execRehashMigrate sl s = _
    unfold execRehashMigrate
    rw [hrehash]
    dsimp only
    rw [if_neg hmode, hnone]
  · exact (exec_rehashMigrate hrehash hmode hnext).trans (congrArg Host.Outcome.next (if_pos hlock))
  · obtain ⟨g, hold, hrec, hgkey, hhs, himg, hmig⟩ := State.migrateRec_moves (n := n) (r := r) hstay hkey hroom
    refine ⟨_, g, (exec_rehashMigrate hrehash hmode hnext).trans (congrArg Host.Outcome.next (if_neg ?_)), hold, hrec, hgkey, hhs, himg, hmig⟩
    exact fun h => Bool.false_ne_true (hlock.symm.trans h)

end Sys2Proof.Machine
end

section
/-!
PROOFS. Bases, their time-outs, the replica loop, and the transmit stamps.
-/
namespace Sys2Proof.Machine
set_option Elab.async false

/-! ### The servo of a base -/

theorem State.base_congr {s t : State} (h : t.time = s.time) (b : Nat) : t.base b = s.base b := by
  unfold State.base
  rw [h]

/-- A base that has gone to another state, before that is posted. -/
def State.servoSet (s : State) (b st : Nat) : State :=
  (s.setBase b { s.base b with lockedSinceNs := if st = sLOCKED then some s.ns else none }).set F.timeTbStatus_state b st

theorem State.servoTo_eq {s : State} {b st : Nat} (h : s.servo b ≠ st) (theta : Int) :
    s.servoTo b st theta = (s.servoSet b st).timeEvent 1 b none (some theta) := if_neg h

theorem State.servo_servoSet (s : State) (b st : Nat) (hst : st < 8) : (s.servoSet b st).servo b = st :=
  (State.get_set_self _ F.timeTbStatus_state b st (by decide)).trans (Nat.mod_eq_of_lt hst)

/-- Another field of the status of a base stays as it was. -/
theorem State.get_servoSet (s : State) (b st : Nat) {f : Fld} (hr : f.reg = .timeTbStatus) (hlo : 3 ≤ f.lo) (hlen : f.lo + f.len ≤ 320) :
    (s.servoSet b st).get f b = s.get f b :=
  State.get_set_field _ F.timeTbStatus_state f b st hr hlen (.inr hlo)

theorem State.theta_servoSet (s : State) (b st : Nat) : (s.servoSet b st).theta b = s.theta b := by
  unfold State.theta State.getS
  rw [State.servoSet, State.get_set_other _ _ _ _ (by decide)]
  rfl

theorem State.base_servoSet (s : State) (b st : Nat) :
    (s.servoSet b st).base b = { s.base b with lockedSinceNs := if st = sLOCKED then some s.ns else none } := State.base_setBase_self ..

/-! ### Holdover -/

/-- A base that coasts on its frequency, with the cause (R308). -/
def State.coast (s : State) (b cause : Nat) : State :=
  let t := s.setRate b (-(s.base b).i)
  let t := t.setBase b { t.base b with holdSinceNs := if t.servo b == sHOLDOVER then (t.base b).holdSinceNs else t.ns,
                                       degraded := t.servo b == sHOLDOVER && (t.base b).degraded, accept := none, iso := 0 }
  ((t.set F.timeTbStatus_hcause b cause).setBit F.timeTbStatus_jumpPending b false).setBit F.timeTbStatus_slewing b false

theorem State.holdover_eq (s : State) (b cause : Nat) : s.holdover b cause false = (s.coast b cause).servoTo b sHOLDOVER ((s.coast b cause).theta b) :=
  rfl

theorem State.servo_setRate (s : State) (b : Nat) (rate : Rat) : (s.setRate b rate).servo b = s.servo b :=
  State.get_set_other _ _ _ _ (by decide)

theorem State.t40_setRate (s : State) (b : Nat) (rate : Rat) : ((s.setRate b rate).base b).t40 = (s.base b).t40 := by
  unfold State.setRate
  extract_lets f
  have hbase : ∀ v : Base, ((s.setBase b v).set F.timeTbRate_value b (f.emod (2 ^ 64)).toNat).base b = v := fun v => State.base_setBase_self ..
  rw [hbase]

theorem State.setRate_frame (s : State) (b : Nat) (rate : Rat) :
    s.setRate b rate = { s with regs := (s.setRate b rate).regs, time := (s.setRate b rate).time } := by
  unfold State.setRate
  extract_lets f
  rfl

theorem State.coast_frame (s : State) (b cause : Nat) : s.coast b cause = { s with regs := (s.coast b cause).regs, time := (s.coast b cause).time } := by
  unfold State.coast
  rw [s.setRate_frame b]
  rfl

theorem State.servo_coast (s : State) (b cause : Nat) : (s.coast b cause).servo b = s.servo b := by
  unfold State.coast
  extract_lets t _ u
  have hu : u.servo b = s.servo b := State.servo_setRate ..
  rw [← hu]
  unfold State.servo State.setBit
  rw [State.get_set_field _ F.timeTbStatus_slewing F.timeTbStatus_state b _ rfl (by decide) (by decide),
    State.get_set_field _ F.timeTbStatus_jumpPending F.timeTbStatus_state b _ rfl (by decide) (by decide),
    State.get_set_field _ F.timeTbStatus_hcause F.timeTbStatus_state b _ rfl (by decide) (by decide)]

theorem State.hcause_coast (s : State) (b : Nat) {cause : Nat} (h : cause < 16) : (s.coast b cause).get F.timeTbStatus_hcause b = cause := by
  unfold State.coast State.setBit
  extract_lets t _ u
  rw [State.get_set_field _ F.timeTbStatus_slewing F.timeTbStatus_hcause b _ rfl (by decide) (by decide),
    State.get_set_field _ F.timeTbStatus_jumpPending F.timeTbStatus_hcause b _ rfl (by decide) (by decide),
    State.get_set_self _ _ _ _ (by decide)]
  exact Nat.mod_eq_of_lt h

theorem State.jumpPending_coast (s : State) (b cause : Nat) : (s.coast b cause).bit F.timeTbStatus_jumpPending b = false := by
  unfold State.coast
  extract_lets t _ u
  rw [State.bit_setBit_field _ (f := F.timeTbStatus_slewing) (g := F.timeTbStatus_jumpPending) _ _ rfl (by decide) (by decide)]
  exact State.bit_setBit_self _ _ _ _ (by decide) (by decide)

theorem State.base_coast {s : State} {b : Nat} (h : s.servo b ≠ sHOLDOVER) (cause : Nat) :
    ((s.coast b cause).base b).holdSinceNs = s.ns ∧ ((s.coast b cause).base b).t40 = (s.base b).t40 := by
  unfold State.coast
  extract_lets t _ u
  have ht : (t.servo b == sHOLDOVER) = false := by
    rw [State.servo_setRate]
    exact beq_eq_false_iff_ne.2 h
  have hbase : (((u.set F.timeTbStatus_hcause b cause).setBit F.timeTbStatus_jumpPending b false).setBit F.timeTbStatus_slewing b false).base b =
      { t.base b with holdSinceNs := if t.servo b == sHOLDOVER then (t.base b).holdSinceNs else t.ns,
                      degraded := t.servo b == sHOLDOVER && (t.base b).degraded, accept := none, iso := 0 } := State.base_setBase_self ..
  rw [hbase, ht]
  exact ⟨rfl, State.t40_setRate ..⟩

theorem exec_measTimeout {b : TBase} {s : State} (hrun : (s.base b.val).running = true) (hservo : s.servo b.val ≠ sHOLDOVER)
    (hdue : (s.base b.val).lastMeasNs + s.get F.timeTbServo_measTimeout b.val * 1000000 ≤ s.ns) : exec (.measTimeout b) s =
    .next (((s.coast b.val hTIMEOUT).servoSet b.val sHOLDOVER).timeEvent 1 b.val none
      (some (((s.coast b.val hTIMEOUT).servoSet b.val sHOLDOVER).theta b.val))) := by
  refine (congrArg Host.Outcome.next (if_pos ⟨hrun, hservo, hdue⟩)).trans ?_
  rw [State.holdover_eq, State.servoTo_eq (by rw [State.servo_coast]; exact hservo), State.theta_servoSet]

/-! ### Windows and paths -/

theorem State.windowEnd_idle {s : State} {g : Nat} (h : ∀ n, n < 8 → s.bit F.timeTbStatus_jumpPending n = false) :
    s.windowEnd g = s.setXg g { s.xg g with jumpNs := none, waiting := 0, jumped := 0, locked := 0 } := by
  unfold State.windowEnd
  extract_lets x t
  refine List.foldlRecOn (motive := fun u => u = t) (List.range 8) _ rfl fun u hu n hn => ?_
  have hbit : u.bit F.timeTbStatus_jumpPending n = false := hu ▸ h n (List.mem_range.1 hn)
  rw [hbit, Bool.and_false, if_neg Bool.false_ne_true, hu]

/-- A suspected path that is taken as it is, before that is posted (R313). -/
def State.pathTaken (s : State) (b : Nat) : State :=
  let t := s.setDm b (s.base b).lastD
  let t := t.setBase b { t.base b with accept := none, iso := 0, degraded := false }
  (t.set F.timeTbStatus_hcause b 0).setBit F.timeTbStatus_jumpPending b false

theorem State.acceptPath_eq (s : State) (b : Nat) : s.acceptPath b = (s.pathTaken b).servoTo b sLOCKED (s.theta b) := rfl

theorem State.servo_pathTaken (s : State) (b : Nat) : (s.pathTaken b).servo b = s.servo b := by
  unfold State.pathTaken State.servo State.setBit
  extract_lets t _ u
  rw [State.get_set_field _ F.timeTbStatus_jumpPending F.timeTbStatus_state b _ rfl (by decide) (by decide),
    State.get_set_field _ F.timeTbStatus_hcause F.timeTbStatus_state b _ rfl (by decide) (by decide)]
  exact State.get_set_other _ (f := F.timeTbPdelay_value) _ _ _ (by decide)

theorem State.dm_pathTaken (s : State) (b : Nat) : ((s.pathTaken b).base b).dm = (s.base b).lastD := by
  unfold State.pathTaken
  extract_lets t _ u
  have hdm : (t.base b).dm = (s.base b).lastD := congrArg Base.dm (State.base_setBase_self ..)
  exact (congrArg Base.dm (State.base_setBase_self ..)).trans hdm

theorem State.pathTaken_frame (s : State) (b : Nat) : s.pathTaken b = { s with regs := (s.pathTaken b).regs, time := (s.pathTaken b).time } := rfl

/-! ### The replica loop -/

theorem nudge_lt {a m : Nat} (ha : a < 2 ^ 16) (hm : m < 2 ^ 16) : nudge a m < 2 ^ 16 := by
  have hstep : Nat.min 2 (m - a) ≤ m - a := Nat.min_le_right ..
  unfold nudge
  split
  · omega
  · exact Nat.lt_of_le_of_lt (Nat.sub_le ..) ha

/-- The applied delays one step nearer to the measured ones, and the count of updates that were far off (R302). -/
def State.replicaStep (s : State) (p : Port) (mRx mTx : BitVec 16) (n : Nat) : State :=
  ((s.set F.timePortCal_dPmaRx p.val (nudge (s.get F.timePortCal_dPmaRx p.val) mRx.toNat)).set F.timePortCal_dPmaTx p.val
    (nudge (s.get F.timePortCal_dPmaTx p.val) mTx.toNat)).setPortSt p.val { s.portSt p.val with drift := n }

/-- The step with the state of calibration that it leaves. -/
def State.replicaCal (s : State) (p : Port) (mRx mTx : BitVec 16) (n cal : Nat) : State :=
  (s.replicaStep p mRx mTx n).set F.timePortCal_calState p.val cal

section replica
variable (s : State) (p : Port) (mRx mTx : BitVec 16) (n : Nat)

theorem State.dPmaTx_replicaStep : (s.replicaStep p mRx mTx n).get F.timePortCal_dPmaTx p.val = nudge (s.get F.timePortCal_dPmaTx p.val) mTx.toNat := by
  unfold State.replicaStep
  rw [State.get_setPortSt, State.get_set_self _ _ _ _ (by decide)]
  exact Nat.mod_eq_of_lt (nudge_lt (s.get_lt ..) mTx.isLt)

theorem State.dPmaRx_replicaStep : (s.replicaStep p mRx mTx n).get F.timePortCal_dPmaRx p.val = nudge (s.get F.timePortCal_dPmaRx p.val) mRx.toNat := by
  unfold State.replicaStep
  rw [State.get_setPortSt, State.get_set_field _ F.timePortCal_dPmaTx F.timePortCal_dPmaRx _ _ rfl (by decide) (by decide),
    State.get_set_self _ _ _ _ (by decide)]
  exact Nat.mod_eq_of_lt (nudge_lt (s.get_lt ..) mRx.isLt)

theorem State.calState_replicaStep : (s.replicaStep p mRx mTx n).get F.timePortCal_calState p.val = s.get F.timePortCal_calState p.val := by
  unfold State.replicaStep
  rw [State.get_setPortSt, State.get_set_field _ F.timePortCal_dPmaTx F.timePortCal_calState _ _ rfl (by decide) (by decide),
    State.get_set_field _ F.timePortCal_dPmaRx F.timePortCal_calState _ _ rfl (by decide) (by decide)]

theorem State.replicaStep_spec : (s.replicaStep p mRx mTx n).get F.timePortCal_dPmaRx p.val = nudge (s.get F.timePortCal_dPmaRx p.val) mRx.toNat ∧
    (s.replicaStep p mRx mTx n).get F.timePortCal_dPmaTx p.val = nudge (s.get F.timePortCal_dPmaTx p.val) mTx.toNat ∧
    ((s.replicaStep p mRx mTx n).portSt p.val).drift = n ∧
    s.replicaStep p mRx mTx n = { s with regs := (s.replicaStep p mRx mTx n).regs, ports := (s.replicaStep p mRx mTx n).ports } :=
  ⟨s.dPmaRx_replicaStep p mRx mTx n, s.dPmaTx_replicaStep p mRx mTx n, congrArg PortSt.drift (State.portSt_setPortSt_self ..), rfl⟩

theorem State.dPmaRx_replicaCal (cal : Nat) :
    (s.replicaCal p mRx mTx n cal).get F.timePortCal_dPmaRx p.val = nudge (s.get F.timePortCal_dPmaRx p.val) mRx.toNat := by
  rw [State.replicaCal, State.get_set_field _ F.timePortCal_calState F.timePortCal_dPmaRx _ _ rfl (by decide) (by decide), State.dPmaRx_replicaStep]

theorem State.dPmaTx_replicaCal (cal : Nat) :
    (s.replicaCal p mRx mTx n cal).get F.timePortCal_dPmaTx p.val = nudge (s.get F.timePortCal_dPmaTx p.val) mTx.toNat := by
  rw [State.replicaCal, State.get_set_field _ F.timePortCal_calState F.timePortCal_dPmaTx _ _ rfl (by decide) (by decide), State.dPmaTx_replicaStep]

theorem State.drift_replicaCal (cal : Nat) : ((s.replicaCal p mRx mTx n cal).portSt p.val).drift = n := by
  have hports : (s.replicaCal p mRx mTx n cal).ports = (s.replicaStep p mRx mTx n).ports := rfl
  rw [State.portSt, hports]
  exact (s.replicaStep_spec p mRx mTx n).2.2.1

theorem State.replicaCal_frame (cal : Nat) :
    s.replicaCal p mRx mTx n cal = { s with regs := (s.replicaCal p mRx mTx n cal).regs, ports := (s.replicaCal p mRx mTx n cal).ports } := by
  generalize hv : putBits ((s.replicaStep p mRx mTx n).reg F.timePortCal_calState.reg p.val) F.timePortCal_calState.lo F.timePortCal_calState.len cal = v
  rw [State.replicaCal, State.set, hv]
  rfl

theorem State.calState_replicaCal {cal : Nat} (h : cal < 4) : (s.replicaCal p mRx mTx n cal).get F.timePortCal_calState p.val = cal := by
  rw [State.replicaCal, State.get_set_self _ _ _ _ (by decide)]
  exact Nat.mod_eq_of_lt h

end replica

/-- What a replica update amounts to, with `d` the larger of the two differences and `n` the count it makes. -/
theorem exec_replicaLoopUpdate {p : Port} {s : State} (mRx mTx : BitVec 16) (hcal : s.get F.timePortCal_calState p.val = 2 ∨ s.get F.timePortCal_calState p.val = 3) :
    let dRx : Int := (mRx.toNat : Int) - s.get F.timePortCal_dPmaRx p.val
    let dTx : Int := (mTx.toNat : Int) - s.get F.timePortCal_dPmaTx p.val
    let d := if dTx.natAbs ≤ dRx.natAbs then dRx else dTx
    let n := if 50 < d.natAbs then (s.portSt p.val).drift + 1 else 0
    exec (.replicaLoopUpdate p mRx mTx) s = .next (
      if 3 ≤ n ∧ s.get F.timePortCal_calState p.val = 2 then (s.replicaCal p mRx mTx n 3).timeEvent 6 p.val none (some d)
      else if d.natAbs ≤ 10 then s.replicaCal p mRx mTx n 2 else s.replicaStep p mRx mTx n) :=
  congrArg Host.Outcome.next (if_pos hcal)

/-! ### Transmit stamps -/

theorem exec_txtsDrain {p : Port} {s : State} {e : TxEntry} {l : List TxEntry} (h : s.txts p.val = e :: l) : exec (.txtsDrain p) s = .next (
    if (s.chanLive (s.get F.timeTxtsChan_handle 0) 4 && s.evtRoom (hIx (s.get F.timeTxtsChan_handle 0)) &&
        (s.chan (hIx (s.get F.timeTxtsChan_handle 0))).hold.isEmpty) = true then
      (s.evtWrite (hIx (s.get F.timeTxtsChan_handle 0)) 7 (txtsBytes e)).txtsPop p.val
    else s) := by
  change execTxtsDrain p s = _
  unfold execTxtsDrain
  dsimp only
  rw [h]

/-- Settles O33: each step takes the branch of its definition that the hypotheses choose; a change of servo leaves the other fields of the base's
status. -/
theorem basesAndReplicas : Obligations.BasesAndReplicas := by
  refine ⟨fun b s => ⟨fun hrun hservo hdue => ?_, fun g t hjump => ⟨fun hdue => ?_, fun hdue hidle => ?_, fun hearly => ?_⟩,
    fun hservo hafter hdue => ?_, fun t hlocked hdue => ?_, fun hservo hdue => congrArg Host.Outcome.next (if_pos ⟨hservo, hdue⟩)⟩,
    fun p s => ⟨fun mRx mTx hcal => ?_, fun e l htxts => ⟨fun hroom => ?_, fun hroom => ?_⟩⟩⟩
  · obtain ⟨hsince, ht40⟩ := State.base_coast hservo hTIMEOUT
    refine ⟨_, exec_measTimeout hrun hservo hdue, State.servo_servoSet _ _ _ (by decide), ?_, ?_, ?_, ?_, ?_⟩
    · rw [State.get_servoSet _ _ _ rfl (by decide) (by decide), State.hcause_coast _ _ (by decide)]
    · rw [State.bit, State.get_servoSet _ _ _ rfl (by decide) (by decide), ← State.bit, State.jumpPending_coast]
    · rw [State.base_servoSet]
      exact hsince
    · rw [State.base_servoSet]
      exact ht40
    · rw [s.coast_frame]
      rfl
  · change execJumpWindowEnd g s = _
    rw [execJumpWindowEnd, hjump]
    exact congrArg Host.Outcome.next (if_pos hdue)
  · rw [← State.windowEnd_idle hidle]
    change execJumpWindowEnd g s = _
    rw [execJumpWindowEnd, hjump]
    exact congrArg Host.Outcome.next (if_pos hdue)
  · change execJumpWindowEnd g s = _
    rw [execJumpWindowEnd, hjump]
    exact congrArg Host.Outcome.next (if_neg (Nat.not_le.2 hearly))
  · have hgoes : (s.pathTaken b.val).servo b.val ≠ sLOCKED := by
      rw [State.servo_pathTaken, hservo]
      decide
    refine ⟨(s.pathTaken b.val).servoSet b.val sLOCKED, ?_, State.servo_servoSet _ _ _ (by decide), ?_, ?_⟩
    · refine (congrArg Host.Outcome.next (if_pos ⟨hservo, hafter, hdue⟩)).trans ?_
      rw [State.acceptPath_eq, State.servoTo_eq hgoes]
    · rw [State.base_servoSet]
      exact s.dm_pathTaken b.val
    · rw [s.pathTaken_frame]
      rfl
  · change execQualityTrained b s = _
    rw [execQualityTrained, hlocked]
    exact congrArg Host.Outcome.next (if_pos hdue)
  · have hexec := exec_replicaLoopUpdate mRx mTx hcal
    intro rx tx dRx dTx d n
    by_cases hdrift : 3 ≤ n ∧ s.get F.timePortCal_calState p.val = 2
    · exact ⟨s.replicaCal p mRx mTx n 3, s.dPmaRx_replicaCal .., s.dPmaTx_replicaCal .., s.drift_replicaCal .., s.replicaCal_frame ..,
        fun _ _ => ⟨s.calState_replicaCal p mRx mTx n (by decide), hexec.trans (congrArg Host.Outcome.next (if_pos hdrift))⟩,
        fun h => absurd hdrift h⟩
    · by_cases hnear : d.natAbs ≤ 10
      · refine ⟨s.replicaCal p mRx mTx n 2, s.dPmaRx_replicaCal .., s.dPmaTx_replicaCal .., s.drift_replicaCal .., s.replicaCal_frame .., fun h3 h2 => absurd ⟨h3, h2⟩ hdrift, fun _ => ⟨?_, ?_⟩⟩
        · exact hexec.trans (congrArg Host.Outcome.next ((if_neg hdrift).trans (if_pos hnear)))
        · rw [if_pos hnear]
          exact s.calState_replicaCal p mRx mTx n (by decide)
      · obtain ⟨hrx, htx, hn, hrest⟩ := s.replicaStep_spec p mRx mTx n
        refine ⟨s.replicaStep p mRx mTx n, hrx, htx, hn, hrest, fun h3 h2 => absurd ⟨h3, h2⟩ hdrift, fun _ => ⟨?_, ?_⟩⟩
        · exact hexec.trans (congrArg Host.Outcome.next ((if_neg hdrift).trans (if_neg hnear)))
        · rw [if_neg hnear]
          exact s.calState_replicaStep p mRx mTx n
  · exact (exec_txtsDrain htxts).trans (congrArg Host.Outcome.next (if_pos hroom))
  · exact (exec_txtsDrain htxts).trans (congrArg Host.Outcome.next (if_neg fun h => Bool.false_ne_true (hroom.symm.trans h)))

end Sys2Proof.Machine
end

section
/-!
PROOFS. PPS and time-of-day pins, and the DPLLs.
-/
namespace Sys2Proof.Machine
set_option Elab.async false

/-! ### PPS in -/

section edge
variable (s : State) (n : Fin 4) (phi : BitVec 16)

/-- How far before now the edge was, in units of 1/256000 ns. -/
def State.ppsNum : Int := -(phi.toNat * 1000 : Nat) - signed16 (s.get F.timePpsIn_delay n.val) * 256

/-- The edge's stamp on each base that the input feeds. -/
def State.ppsMarks : List (Nat × Stamp) := (s.ppsBases n.val).map (fun b => (b, s.stampOn b false false (s.ppsNum n phi) 256000))

def State.ppsTod : Bool := decide (n.val < 2) && s.bit F.timePpsIn_todEn n.val

/-- The edge as it is noted (R320). -/
def State.ppsNoted : State :=
  (s.set F.timePpsInLast_last n.val (s.stampOn 15 false false (s.ppsNum n phi) 256000).toNat).setPpsIn n.val
    { lastNs := some s.ns, edge := if s.ppsTod n then s.ppsMarks n phi else [] }

theorem State.last_ppsNoted : (s.ppsNoted n phi).get F.timePpsInLast_last n.val = (s.stampOn 15 false false (s.ppsNum n phi) 256000).toNat := by
  have hset : (s.ppsNoted n phi).get F.timePpsInLast_last n.val = (s.set F.timePpsInLast_last n.val
    (s.stampOn 15 false false (s.ppsNum n phi) 256000).toNat).get F.timePpsInLast_last n.val := State.get_congr rfl ..
  rw [hset, State.get_set_self _ _ _ _ (by decide)]
  exact Nat.mod_eq_of_lt (BitVec.isLt _)

theorem State.measMode_ppsNoted : (s.ppsNoted n phi).measMode = s.measMode := by
  have hmode : (s.ppsNoted n phi).modeNo = s.modeNo := State.get_set_other s (f := F.timePpsInLast_last) _ _ _ (by decide)
  unfold State.measMode State.forwarding
  rw [hmode]

/-- What the edge of an input without ToD is worth to one base. -/
def ppsTake (r : State) (m : Nat × Stamp) : State :=
  let sec := (kts16 m.2 + sec16 / 2) / sec16
  if (((kts16 m.2 : Int) - sec * sec16).natAbs * 2 < sec16) then r.ppsMeasure m.1 m.2 sec else r

variable {s n phi} in
theorem exec_ppsInEdge (hen : s.bit F.timePpsIn_en n.val = true) (htl : s.time.tl = true) : exec (.ppsInEdge n phi) s =
    .next (if (s.ppsTod n || !s.measMode) = true then s.ppsNoted n phi else (s.ppsMarks n phi).foldl ppsTake (s.ppsNoted n phi)) := by
  rw [← s.measMode_ppsNoted n phi]
  exact congrArg Host.Outcome.next (if_pos (Bool.and_eq_true_iff.2 ⟨hen, htl⟩))

end edge

/-- The message of a second that an edge waits for (R321). -/
theorem exec_todRxMessage {m : Fin 2} {msg : List Byte} {t : Nat} {s : State} (hen : s.bit F.timePpsIn_en m.val = true)
    (htod : s.bit F.timePpsIn_todEn m.val = true) (hlen : msg.length = 16) (hhead : msg.take 3 = [0x4B, 0x54, 1])
    (hlast : (Tab.getD s.time.ppsIn m.val {}).lastNs = some t) : exec (.todRxMessage m msg) s = .next (
      if t + 1000000 ≤ s.ns ∧ s.ns ≤ t + 900000000 ∧ beNat (msg.drop 14) = crc16 (msg.take 14) then
        if s.measMode then
          (Tab.getD s.time.ppsIn m.val {}).edge.foldl (fun r e => r.ppsMeasure e.1 e.2 (beNat ((msg.drop 5).take 6)))
            (s.setPpsIn m.val { Tab.getD s.time.ppsIn m.val {} with edge := [] })
        else s.setPpsIn m.val { Tab.getD s.time.ppsIn m.val {} with edge := [] }
      else s.timeEvent 10 m.val none (some 0)) := by
  have hopen : (s.bit F.timePpsIn_en m.val && s.bit F.timePpsIn_todEn m.val && msg.length == 16 && msg.take 3 == [0x4B, 0x54, 1]) = true := by
    rw [hen, htod, hlen, hhead]
    rfl
  refine congrArg Host.Outcome.next ((if_pos hopen).trans ?_)
  dsimp only
  rw [hlast]
  exact ite_of_iff (by simp [and_assoc]) rfl rfl

/-! ### PPS out -/

theorem beNat_beBytes_two (v : Nat) : beNat (beBytes 2 v) = v % 65536 := by
  simp [beNat, beBytes, leBytes]
  omega

theorem length_beBytes (n v : Nat) : (beBytes n v).length = n := by rw [beBytes, List.length_reverse, leBytes_length]

/-- A CRC of 16 bits over some bytes has 16 bits. -/
theorem crc16_append_lt (l : List Byte) (b : Byte) : crc16 (l ++ [b]) < 65536 := by
  have hmask : crc16 (l ++ [b]) = (crcBitsF 16 0x1021#32 (crcF 16 0x1021#32 0xFFFF#32 l ^^^ ((b.setWidth 32 : BitVec 32) <<< (16 - 8))) 8 &&&
      BitVec.ofNat 32 (2 ^ 16 - 1)).toNat := by
    unfold crc16 crcF
    rw [List.foldl_append]
    rfl
  rw [hmask, BitVec.toNat_and]
  exact Nat.lt_succ_of_le Nat.and_le_right

/-- The message of a second before its check. -/
def State.todBody (s : State) (b : Nat) : List Byte :=
  [0x4B, 0x54, 1] ++ leBytes 1 (b + 16 * (if decide (b < 8) then s.baseFlags b else 0))
    ++ leBytes 1 (if decide (b < 8) then s.get F.timeTbStatus_epoch b else 0) ++ beBytes 6 ((s.baseT40 b).1 / (2 ^ 40 * 1000000000))
    ++ leBytes 1 (if decide (b < 8) then s.servo b else s.freeVal.toNat % 256)
    ++ leBytes 1 (if decide (b < 8) then s.get F.timeTbStatus_quality b else s.freeVal.toNat / 256 % 2) ++ [0]

theorem State.todMessage_eq (s : State) (b : Nat) : s.todMessage b = s.todBody b ++ beBytes 2 (crc16 (s.todBody b)) := rfl

theorem State.length_todBody (s : State) (b : Nat) : (s.todBody b).length = 14 := by
  simp [State.todBody, leBytes_length, length_beBytes]

/-- A message of Table 10.7: sixteen bytes, its identification and version, and a good check. -/
theorem State.todMessage_spec (s : State) (b : Nat) : (s.todMessage b).length = 16 ∧ (s.todMessage b).take 3 = [0x4B, 0x54, 1] ∧
    beNat ((s.todMessage b).drop 14) = crc16 ((s.todMessage b).take 14) := by
  have hcrc : crc16 (s.todBody b) < 65536 := crc16_append_lt ..
  rw [State.todMessage_eq]
  refine ⟨?_, ?_, ?_⟩
  · rw [List.length_append, s.length_todBody, length_beBytes]
  · rw [List.take_append_of_le_length (by rw [s.length_todBody]; decide)]
    rfl
  · rw [List.drop_left' (s.length_todBody b), List.take_left' (s.length_todBody b), beNat_beBytes_two, Nat.mod_eq_of_lt hcrc]

/-- The pulse, before its message is made. -/
def State.ppsPulse (s : State) (n : Fin 4) : State :=
  let t := s.emit (.pps n.val)
  { t with time := { t.time with ppsOutNs := Tab.put t.time.ppsOutNs n.val t.ns } }

theorem exec_ppsOutEdge {n : Fin 4} {s : State} (hon : s.ppsOutOn n.val (s.get F.timePpsOut_base n.val) = true)
    (hsec : (s.baseT40 (s.get F.timePpsOut_base n.val)).1 % (2 ^ 40 * 1000000000) < (s.baseT40 (s.get F.timePpsOut_base n.val)).2)
    (hwidth : ∀ l, Tab.get? s.time.ppsOutNs n.val = some l → l + s.get F.timePpsOut_width n.val * 1000 ≤ s.ns) :
    exec (.ppsOutEdge n) s = .next ((s.ppsPulse n).todAfter n (s.get F.timePpsOut_base n.val)) :=
  congrArg Host.Outcome.next (if_pos (Bool.and_eq_true_iff.2 ⟨Bool.and_eq_true_iff.2 ⟨hon, decide_eq_true hsec⟩, since_iff.2 hwidth⟩))

theorem State.todAfter_out (s : State) (n : Fin 4) (b : Nat) : (s.todAfter n b).out = s.out ∧ (s.todAfter n b).time.ppsOutNs = s.time.ppsOutNs := by
  unfold State.todAfter
  split <;> exact ⟨rfl, rfl⟩

theorem exec_todTxSend {m : Fin 2} {t : Nat} {msg : List Byte} {s : State} (hdue : Tab.get? s.time.todDue m.val = some (t, msg))
    (hns : t + 1000000 ≤ s.ns) (hreset : s.modeNo ≠ mRESET) (hhalt : s.modeNo ≠ mHALT) : exec (.todTxSend m) s =
    .next (({ s with time := { s.time with todDue := Tab.del s.time.todDue m.val } }).emit (.tod m.val msg)) := by
  change execTodTxSend m s = _
  rw [execTodTxSend, hdue]
  exact congrArg Host.Outcome.next (if_pos ⟨hns, hreset, hhalt⟩)

/-! ### DPLLs -/

/-- A DPLL that chooses its input writes its input field alone. -/
theorem State.dpllSelect_qualified (s : State) (d : Nat) : (s.dpllSelect d).get F.timeDpllStatus_qualified d = s.get F.timeDpllStatus_qualified d ∧
    s.dpllSelect d = { s with regs := (s.dpllSelect d).regs } := by
  have hset : ∀ i, (s.set F.timeDpllStatus_input d i).get F.timeDpllStatus_qualified d = s.get F.timeDpllStatus_qualified d := fun i =>
    State.get_set_field _ F.timeDpllStatus_input F.timeDpllStatus_qualified d i rfl (by decide) (by decide)
  unfold State.dpllSelect
  split
  · split
    · split
      · exact ⟨hset _, rfl⟩
      · exact ⟨rfl, rfl⟩
    · exact ⟨hset _, rfl⟩
    · exact ⟨rfl, rfl⟩
  · exact ⟨rfl, rfl⟩

/-- A mark changes the qualification of its input alone (R317). -/
theorem State.dpllMark_spec (s : State) (d : Nat) {i : Nat} (on : Bool) (hi : i < 11) : (s.dpllMark d i on).dpllQualified d i = on ∧
    (∀ j, j < 11 → j ≠ i → (s.dpllMark d i on).dpllQualified d j = s.dpllQualified d j) ∧
    s.dpllMark d i on = { s with regs := (s.dpllMark d i on).regs } := by
  have hmark : s.dpllMark d i on = (s.set F.timeDpllStatus_qualified d (putBit (s.get F.timeDpllStatus_qualified d) i on)).dpllSelect d := rfl
  obtain ⟨hqualified, hrest⟩ := (s.set F.timeDpllStatus_qualified d (putBit (s.get F.timeDpllStatus_qualified d) i on)).dpllSelect_qualified d
  have hbit : ∀ j, (s.dpllMark d i on).dpllQualified d j = if j = i then on else s.dpllQualified d j := fun j => by
    rw [hmark, State.dpllQualified, hqualified, State.testBit_set_putBit _ _ _ _ _ (by decide) hi, State.dpllQualified]
  refine ⟨?_, fun j _ hj => ?_, ?_⟩
  · rw [hbit, if_pos rfl]
  · rw [hbit, if_neg hj]
  · rw [hmark, hrest]
    rfl

/-- A DPLL that has gone to another state, before that is posted (R318). -/
def State.dpllWent (s : State) (d : Fin 4) (st : BitVec 2) : State :=
  let t := s.set F.timeDpllStatus_state d.val st.toNat
  let t := if st.toNat = 2 then { t with time := { t.time with dpllLocked := Tab.put t.time.dpllLocked d.val t.ns } } else t
  if st.toNat < 2 then t.setBit F.timeDpllStatus_holdReady d.val false else t

theorem State.dpllWent_low (s : State) (d : Fin 4) {st : BitVec 2} (h : st.toNat < 2) :
    s.dpllWent d st = (s.set F.timeDpllStatus_state d.val st.toNat).setBit F.timeDpllStatus_holdReady d.val false := by
  unfold State.dpllWent
  dsimp only
  rw [if_pos h, if_neg (Nat.ne_of_lt h)]

theorem State.dpllWent_high (s : State) (d : Fin 4) {st : BitVec 2} (h : ¬st.toNat < 2) :
    s.dpllWent d st = if st.toNat = 2 then { s.set F.timeDpllStatus_state d.val st.toNat with
      time := { s.time with dpllLocked := Tab.put s.time.dpllLocked d.val s.ns } } else s.set F.timeDpllStatus_state d.val st.toNat := by
  unfold State.dpllWent
  dsimp only
  rw [if_neg h]
  rfl

theorem State.dpllWent_spec (s : State) (d : Fin 4) (st : BitVec 2) : (s.dpllWent d st).get F.timeDpllStatus_state d.val = st.toNat ∧
    (st.toNat < 2 → (s.dpllWent d st).bit F.timeDpllStatus_holdReady d.val = false) ∧
    (st.toNat = 2 → Tab.get? (s.dpllWent d st).time.dpllLocked d.val = some s.ns) ∧
    s.dpllWent d st = { s with regs := (s.dpllWent d st).regs, time := (s.dpllWent d st).time } := by
  have hstate : (s.set F.timeDpllStatus_state d.val st.toNat).get F.timeDpllStatus_state d.val = st.toNat := by
    rw [State.get_set_self _ _ _ _ (by decide)]
    exact Nat.mod_eq_of_lt st.isLt
  by_cases hlow : st.toNat < 2
  · rw [s.dpllWent_low d hlow]
    refine ⟨?_, fun _ => State.bit_setBit_self _ _ _ _ (by decide) (by decide), fun h => absurd h (Nat.ne_of_lt hlow), rfl⟩
    rw [State.setBit, State.get_set_field _ F.timeDpllStatus_holdReady F.timeDpllStatus_state _ _ rfl (by decide) (by decide), hstate]
  · rw [s.dpllWent_high d hlow]
    split
    · exact ⟨hstate, fun h => absurd h hlow, fun _ => Tab.get?_put_self .., rfl⟩
    · next h2 => exact ⟨hstate, fun h => absurd h hlow, fun h => absurd h h2, rfl⟩

/-- Settles O34: each step takes the branch of its definition that the hypotheses choose; a time-of-day message is good by how it is made. -/
theorem secondsAndDplls : Obligations.SecondsAndDplls := by
  refine ⟨fun n s => ⟨fun phi hen htl => ?_, fun t hlast hen hlate => ?_, fun m msg t hen htod hlen hhead hlast => ?_, ?_,
    fun m t msg hdue hns hreset hhalt => ⟨_, exec_todTxSend hdue hns hreset hhalt, rfl, Tab.get?_del_self .., rfl⟩⟩,
    fun d s => ⟨fun i hself hlive => ?_, fun i => ⟨_, rfl, s.dpllMark_spec d.val false i.isLt⟩, fun st => ⟨fun hsame => ?_, fun hnew => ?_⟩,
      fun t hlocked hstate hdue => ?_⟩⟩
  · have hexec := exec_ppsInEdge (phi := phi) hen htl
    refine ⟨s.ppsNoted n phi, s.last_ppsNoted n phi, Tab.get?_put_self .., rfl, fun hlabel => ?_, fun htod hmeas => ?_⟩
    · refine hexec.trans (congrArg Host.Outcome.next (if_pos ?_))
      rcases hlabel with htod | hmeas
      · exact Bool.or_eq_true_iff.2 (.inl htod)
      · rw [hmeas]
        exact Bool.or_true _
    · refine hexec.trans (congrArg Host.Outcome.next (if_neg ?_))
      rw [hmeas, Bool.or_eq_true_iff]
      rintro (h | h)
      · exact Bool.false_ne_true (htod.symm.trans h)
      · exact absurd h (by decide)
  · change execPpsInLoss n s = _
    rw [execPpsInLoss, hlast]
    exact congrArg Host.Outcome.next (if_pos ⟨hen, hlate⟩)
  · have hexec := exec_todRxMessage hen htod hlen hhead hlast
    exact ⟨fun hgood => hexec.trans (congrArg Host.Outcome.next (if_pos hgood)), fun hbad => hexec.trans (congrArg Host.Outcome.next (if_neg hbad))⟩
  · intro b hon hsec hwidth
    obtain ⟨hout, hpulse⟩ := (s.ppsPulse n).todAfter_out n b
    refine ⟨_, exec_ppsOutEdge hon hsec hwidth, hout, ?_, fun hn htod => ?_, fun hn htod => ?_⟩
    · rw [hpulse]
      exact Tab.get?_put_self ..
    · have hmsg : (s.ppsPulse n).todAfter n b = ({ s.ppsPulse n with time := { (s.ppsPulse n).time with
          todDue := Tab.put (s.ppsPulse n).time.todDue n.val ((s.ppsPulse n).ns, (s.ppsPulse n).todMessage b) } } : State).useFree := if_pos ⟨hn, htod⟩
      rw [hmsg]
      exact ⟨(s.ppsPulse n).todMessage b, Tab.get?_put_self .., (s.ppsPulse n).todMessage_spec b⟩
    · have hnone : (s.ppsPulse n).todAfter n b = s.ppsPulse n := if_neg fun h => Bool.false_ne_true (htod.symm.trans h.2)
      rw [hnone]
      rfl
  · refine ⟨_, congrArg Host.Outcome.next (if_neg ?_), s.dpllMark_spec d.val true i.isLt⟩
    rintro (h | ⟨h6, h9, hdead⟩)
    · exact hself h
    · exact Bool.false_ne_true (hdead.symm.trans (hlive h6 h9))
  · exact congrArg Host.Outcome.next (if_pos hsame)
  · exact ⟨s.dpllWent d st, congrArg Host.Outcome.next (if_neg hnew), s.dpllWent_spec d st⟩
  · change execHoldReady d s = _
    rw [execHoldReady, hlocked]
    exact congrArg Host.Outcome.next (if_pos ⟨hstate, hdue⟩)

end Sys2Proof.Machine
end

section
/-!
PROOFS. Fuses, the debug port and attestation.
-/
namespace Sys2Proof.Machine
set_option Elab.async false

/-! ### Fuse requests -/

section fuse
variable {s : State} {fn : Nat} {ok : Bool} {act : State → State}

/-- Only the PF, in MOORED, programs fuses (R461). -/
theorem State.fuse_taken (hfn : fn = 0) (hmode : s.modeNo = mMOORED) (hok : ok = true) : s.fuse fn ok act = act s :=
  (if_neg (by rw [hmode]; decide)).trans (if_pos ⟨hfn, hmode, hok⟩)

theorem State.fuse_refused (hmode : s.modeNo ≠ mRESET) (h : ¬(fn = 0 ∧ s.modeNo = mMOORED ∧ ok = true)) :
    s.fuse fn ok act = s.bump F.secCntRefused 0 := (if_neg hmode).trans (if_neg h)

theorem State.fuse_refused_of (hmode : s.modeNo ≠ mRESET) (h : fn ≠ 0 ∨ s.modeNo ≠ mMOORED) : s.fuse fn ok act = s.bump F.secCntRefused 0 :=
  State.fuse_refused hmode fun ⟨hfn, hmoored, _⟩ => h.elim (fun h => h hfn) fun h => h hmoored

theorem State.fuse_bad (hmode : s.modeNo = mMOORED) (hok : ok = false) : s.fuse fn ok act = s.bump F.secCntRefused 0 :=
  State.fuse_refused (by rw [hmode]; decide) fun h => Bool.false_ne_true (hok.symm.trans h.2.2)

end fuse

/-- Which advances of the anti-rollback counts are good ones (R461). -/
def State.arbOk (s : State) (fw pt : Nat) : Prop :=
  (s.get F.secStatus_arbFw 0 < fw ∨ s.get F.secStatus_arbPatch 0 < pt) ∧ (fw ≤ s.get F.secStatus_arbFw 0 ∨ fw ≤ s.mode.arbRun) ∧
    (pt ≤ s.get F.secStatus_arbPatch 0 ∨ pt ≤ s.mode.patchArb)

/-- The counts after an advance. -/
def State.arbSet (s : State) (fw pt : Nat) : State :=
  (s.set F.secStatus_arbFw 0 (Nat.max (s.get F.secStatus_arbFw 0) fw)).set F.secStatus_arbPatch 0 (Nat.max (s.get F.secStatus_arbPatch 0) pt)

theorem arb_fields (v : BitVec 32) : (v.extractLsb' 0 7).toNat = v.toNat % 128 ∧ (v.extractLsb' 7 6).toNat = v.toNat / 128 % 64 := by
  constructor
  · rw [BitVec.extractLsb'_toNat]
    rfl
  · rw [BitVec.extractLsb'_toNat, Nat.shiftRight_eq_div_pow]

theorem State.arbAsk_eq {s : State} {fn : Nat} (hfn : fn = 0) (hmode : s.modeNo = mMOORED) (v : BitVec 32) :
    (s.arbOk (v.toNat % 128) (v.toNat / 128 % 64) → s.arbAsk fn v = s.arbSet (v.toNat % 128) (v.toNat / 128 % 64)) ∧
    (¬s.arbOk (v.toNat % 128) (v.toNat / 128 % 64) → s.arbAsk fn v = s.bump F.secCntRefused 0) := by
  have hok : ((decide (s.get F.secStatus_arbFw 0 < v.toNat % 128) || decide (s.get F.secStatus_arbPatch 0 < v.toNat / 128 % 64)) &&
      (decide (v.toNat % 128 ≤ s.get F.secStatus_arbFw 0) || decide (v.toNat % 128 ≤ s.mode.arbRun)) &&
      (decide (v.toNat / 128 % 64 ≤ s.get F.secStatus_arbPatch 0) || decide (v.toNat / 128 % 64 ≤ s.mode.patchArb))) = true ↔
      s.arbOk (v.toNat % 128) (v.toNat / 128 % 64) := by
    simp only [Bool.and_eq_true, Bool.or_eq_true, decide_eq_true_eq, and_assoc]
    rfl
  unfold State.arbAsk
  dsimp only
  rw [(arb_fields v).1, (arb_fields v).2]
  exact ⟨fun h => State.fuse_taken hfn hmode (hok.2 h), fun h => State.fuse_bad hmode (Bool.eq_false_iff.2 fun hg => h (hok.1 hg))⟩

theorem State.arbSet_spec (s : State) {fw pt : Nat} (hfw : fw < 128) (hpt : pt < 64) :
    (s.arbSet fw pt).get F.secStatus_arbFw 0 = Nat.max (s.get F.secStatus_arbFw 0) fw ∧
    (s.arbSet fw pt).get F.secStatus_arbPatch 0 = Nat.max (s.get F.secStatus_arbPatch 0) pt ∧ s.arbSet fw pt = { s with regs := (s.arbSet fw pt).regs } := by
  refine ⟨?_, ?_, rfl⟩
  · rw [State.arbSet, State.get_set_field _ F.secStatus_arbPatch F.secStatus_arbFw _ _ rfl (by decide) (by decide),
      State.get_set_self _ _ _ _ (by decide)]
    exact Nat.mod_eq_of_lt (Nat.max_lt.2 ⟨s.get_lt .., hfw⟩)
  · rw [State.arbSet, State.get_set_self _ _ _ _ (by decide)]
    exact Nat.mod_eq_of_lt (Nat.max_lt.2 ⟨s.get_lt .., hpt⟩)

/-! ### Owners -/

/-- The owner slot in force, once slot 1 is programmed. -/
theorem State.owner_ownerSync {s : State} (h : s.mode.fuseOwner1.isSome = true) : s.ownerSync.get F.secStatus_owner 0 = 2 := by
  have hactive : s.ownerActive = 2 := if_pos h
  rw [State.ownerSync, State.get_set_self _ _ _ _ (by decide), hactive]
  rfl

theorem State.mode_ownerSync (s : State) : s.ownerSync.mode = s.mode := rfl

/-- A hash in slot 1 is the owner's from then on. -/
theorem State.ownerProgram_one (s : State) (hash : BitVec 256) : (s.ownerProgram hash true).mode.fuseOwner1 = some hash ∧
    (s.ownerProgram hash true).get F.secStatus_owner 0 = 2 ∧ (s.ownerProgram hash true).ownerHash = hash := by
  have hprog : s.ownerProgram hash true = ({ s with mode := { s.mode with fuseOwner1 := some hash } } : State).ownerSync := rfl
  refine ⟨rfl, ?_, rfl⟩
  rw [hprog]
  exact State.owner_ownerSync rfl

/-! ### Attestation -/

/-- The message has been taken and the unit is done. -/
def State.attestTaken (s : State) : State :=
  (({ s with mode := { s.mode with attest := [] } } : State).setBit F.secAttCtl_busy 0 false).setBit F.secAttCtl_done 0 true

theorem State.attestTaken_writes {s : State} : Writes [.secAttCtl] s s.attestTaken := by
  have hmode : Writes [.secAttCtl] s ({ s with mode := { s.mode with attest := [] } } : State) := Writes.of_regs rfl
  exact (hmode.trans (Writes.setBit (by decide))).trans (Writes.setBit (by decide))

theorem State.busy_attestTaken (s : State) (status : Nat) : (s.attestTaken.set F.secAttCtl_status 0 status).bit F.secAttCtl_busy 0 = false := by
  unfold State.attestTaken
  rw [State.bit, State.get_set_field _ F.secAttCtl_status F.secAttCtl_busy _ _ rfl (by decide) (by decide), ← State.bit,
    State.bit_setBit_field _ (f := F.secAttCtl_done) (g := F.secAttCtl_busy) _ _ rfl (by decide) (by decide)]
  exact State.bit_setBit_self _ _ _ _ (by decide) (by decide)

theorem State.inRegion_writes {l : List Reg} {s t : State} (h : Writes l s t) (hpool : F.bufHbmPool_base.reg ∉ l) (r a n : Nat) :
    t.inRegion r a n = s.inRegion r a n := by
  unfold State.inRegion State.hbmRegion
  rw [h.get hpool, h.get (f := F.bufHbmPool_size) hpool]

theorem State.hbmFailed_writes {l : List Reg} {s t : State} (h : Writes l s t) (hfail : F.sysStatus_hbmFail.reg ∉ l) : t.hbmFailed = s.hbmFailed := by
  unfold State.hbmFailed
  rw [h.get hfail]

/-- The signed message in HBM. -/
def State.attestStored (s : State) : State :=
  { s.attestTaken with
    hbm := s.hbm.setBytes (s.get F.secAttCtl_dest 0 * 4096) (s.mode.attest ++ fitTo 2420 (Config.sign s.mode.keyOwner s.mode.attest)) }

/-- The end of an attestation: refused without keys, signed and stored where its place is in the HOST region (R464). -/
theorem exec_attestationDone {s : State} (hbusy : s.bit F.secAttCtl_busy 0 = true) (hmode : s.modeNo ≠ mHALT) : exec .attestationDone s = .next (
    if s.mode.keys = false then s.attestTaken.set F.secAttCtl_status 0 stDENIED
    else if (s.inRegion 0 (s.get F.secAttCtl_dest 0 * 4096) 6360 && !s.hbmFailed) = true then
      s.attestStored.set F.secAttCtl_status 0 stOK
    else (s.attestTaken.set F.secAttCtl_status 0 (s.attestTaken.freeVal.toNat % 256)).useFree) := by
  rw [← State.inRegion_writes s.attestTaken_writes (by decide), ← State.hbmFailed_writes s.attestTaken_writes (by decide)]
  exact congrArg Host.Outcome.next (if_neg (not_or.2 ⟨by rw [hbusy]; decide, hmode⟩))

/-- Settles O60: every request for a fuse is taken by the PF in MOORED alone; what each writes is read back field by field. -/
theorem fusesAndKeys : Obligations.FusesAndKeys := by
  intro fn s
  refine ⟨fun v hmode hfn => ?_, fun v hash slot hreset hwho => ⟨?_, ?_, ?_, ?_⟩, fun hmode hfn => ⟨fun hash hblank => ?_, fun hash hblank => ?_,
    fun hblank => ?_, fun hset => ?_, ?_⟩, fun hclosed => ?_, fun hreset hopen => ?_, fun hcfg hidle => ?_, fun hbusy => ?_, fun hbusy hhalt => ?_⟩
  · obtain ⟨hgood, hbad⟩ := State.arbAsk_eq hfn hmode v
    exact ⟨fun hok => ⟨_, congrArg Host.Outcome.next (hgood hok), s.arbSet_spec (Nat.mod_lt _ (by decide)) (Nat.mod_lt _ (by decide))⟩,
      fun hok => congrArg Host.Outcome.next (hbad hok)⟩
  · refine congrArg Host.Outcome.next ?_
    unfold State.arbAsk
    exact State.fuse_refused_of hreset hwho
  · exact congrArg Host.Outcome.next (State.fuse_refused_of hreset hwho)
  · exact congrArg Host.Outcome.next (State.fuse_refused_of hreset hwho)
  · exact congrArg Host.Outcome.next (State.fuse_refused_of hreset hwho)
  · have hok : s.ownerBlank true = true := by rw [State.ownerBlank, hblank]; rfl
    exact ⟨_, congrArg Host.Outcome.next (State.fuse_taken hfn hmode hok), s.ownerProgram_one hash⟩
  · have hok : s.ownerBlank false = true := by rw [State.ownerBlank, hblank]; rfl
    exact ⟨_, congrArg Host.Outcome.next (State.fuse_taken hfn hmode hok), rfl, rfl⟩
  · exact congrArg Host.Outcome.next (State.fuse_bad hmode (by rw [hblank]; rfl))
  · have hsome : s.mode.fuseOwner1.isSome = true := Option.isSome_iff_ne_none.2 hset
    exact ⟨_, congrArg Host.Outcome.next (State.fuse_taken hfn hmode hsome), rfl, State.owner_ownerSync hsome⟩
  · exact ⟨_, congrArg Host.Outcome.next (State.fuse_taken hfn hmode rfl), State.bit_setBit_self _ _ _ _ (by decide) (by decide), rfl⟩
  · exact congrArg Host.Outcome.next (if_pos hclosed)
  · refine ⟨_, congrArg Host.Outcome.next (if_neg (not_or.2 ⟨hreset, by rw [hopen]; decide⟩)), rfl, ?_, rfl⟩
    exact State.bit_setBit_self _ _ _ _ (by decide) (by decide)
  · have hstart : s.attestStart = ({ s with mode := { s.mode with attest := s.attestBody } } : State).setBit F.secAttCtl_busy 0 true :=
      if_neg (by rw [hidle]; decide)
    refine ⟨_, congrArg Host.Outcome.next ((if_pos hcfg).trans hstart), State.bit_setBit_self _ _ _ _ (by decide) (by decide), rfl, rfl⟩
  · have hstart : s.attestStart = s := if_pos hbusy
    refine congrArg Host.Outcome.next ?_
    rw [hstart]
    exact ite_self _
  · have hexec := exec_attestationDone hbusy hhalt
    intro a
    refine ⟨fun hkeys => ?_, fun hkeys hregion hhbm => ?_⟩
    · rw [if_pos hkeys] at hexec
      exact ⟨_, hexec, State.get_set_self _ _ _ _ (by decide), rfl⟩
    · rw [if_neg (by rw [hkeys]; decide), hregion, hhbm, if_pos (by decide)] at hexec
      refine ⟨_, hexec, State.get_set_self _ _ _ _ (by decide), s.busy_attestTaken stOK, rfl, rfl⟩

end Sys2Proof.Machine
end

section
/-!
PROOFS. Scrubbing, and the seal units.
-/
namespace Sys2Proof.Machine
set_option Elab.async false

/-! ### Scrubbing -/

section scrub
variable {mem : MemKind} {unit : BitVec 8} {addr : Nat} {s : State} (hreal : ¬(mem = .hbm ∧ hbmSize ≤ addr))
include hreal

theorem exec_scrubVisit_idle (hidle : s.modeNo = mRESET ∨ s.modeNo = mBOOT ∨ (mem = .hbm ∧ s.hbmFailed = true)) (out : ScrubOut) :
    exec (.scrubVisit mem unit addr out) s = .next s := (if_neg hreal).trans (congrArg Host.Outcome.next (if_pos hidle))

theorem exec_scrubVisit_clean : exec (.scrubVisit mem unit addr .clean) s = .next s :=
  (if_neg hreal).trans (congrArg Host.Outcome.next (ite_self _))

section active
variable (hactive : ¬(s.modeNo = mRESET ∨ s.modeNo = mBOOT ∨ (mem = .hbm ∧ s.hbmFailed = true)))
include hactive

theorem exec_scrubVisit_corrected : exec (.scrubVisit mem unit addr .corrected) s =
    .next (if mem = .tugMem then (s.corrected (memRow mem)).bump F.tugCntEccCorr 0 else s.corrected (memRow mem)) :=
  (if_neg hreal).trans (congrArg Host.Outcome.next (if_neg hactive))

theorem exec_scrubVisit_uncorrectable : exec (.scrubVisit mem unit addr .uncorrectable) s = .next (s.scrubUe mem unit.toNat addr) :=
  (if_neg hreal).trans (congrArg Host.Outcome.next (if_neg hactive))

end active
end scrub

theorem State.rasCntCorr_corrected (s : State) (row : Nat) : (s.corrected row).get F.rasCntCorr row = (s.get F.rasCntCorr row + 1) % 2 ^ 64 :=
  State.get_bump_self s F.rasCntCorr row (by decide)

/-- The failed checks of a tick have been taken. -/
def State.stormTaken (s : State) : State := { s with mode := { s.mode with sealFails := 0 } }

theorem exec_sealStormTick (s : State) : exec .sealStormTick s = .next (
    if s.modeNo ≠ mRESET ∧ s.get F.rasSealCfg_stormThr 0 ≠ 0 ∧ s.get F.rasSealCfg_stormThr 0 ≤ s.mode.sealFails then s.stormTaken.mcheckFree 7
    else s.stormTaken) := rfl

/-- The corrections of a tick have been taken. -/
def State.corrTaken (s : State) : State := { s with mode := { s.mode with corr := [] } }

/-- What a tick does for one memory's corrections. -/
def corrStep (t : State) (e : Nat × Nat) : State :=
  if t.get F.rasSealCfg_corrThr 0 < e.2 then t.useFree.useFree.rasEvent 4 e.1 t.freeMaster e.2 t.useFree.freeVal.toNat else t

theorem exec_corrRateTick (s : State) : exec .corrRateTick s = .next (s.mode.corr.foldl corrStep s.corrTaken) := rfl

theorem foldl_corrStep_low (l : List (Nat × Nat)) (t : State) (h : ∀ e ∈ l, e.2 ≤ t.get F.rasSealCfg_corrThr 0) : l.foldl corrStep t = t :=
  List.foldlRecOn (motive := fun u => u = t) l corrStep rfl fun u hu e he => by
    rw [hu]
    exact if_neg (Nat.not_lt.2 (h e he))

/-! ### The seal units -/

/-- The running value of a unit. -/
def State.sealRun (s : State) (u : Nat) : BitVec 32 := BitVec.ofNat 32 (s.get F.sealRunning_value u)

theorem State.get_sealFeed (s : State) (u : Nat) (l : List Byte) :
    (s.sealFeed u l).get F.sealRunning_value u = (s.sealStep u (s.sealRun u) l).toNat := by
  rw [State.sealFeed, State.get_set_self _ _ _ _ (by decide)]
  exact Nat.mod_eq_of_lt (Nat.lt_trans (BitVec.isLt _) (by decide))

theorem State.sealRun_sealFeed (s : State) (u : Nat) (l : List Byte) : (s.sealFeed u l).sealRun u = s.sealStep u (s.sealRun u) l := by
  rw [State.sealRun, s.get_sealFeed, BitVec.ofNat_toNat, BitVec.setWidth_eq]

theorem State.sealFeed_writes {s : State} {u : Nat} {l : List Byte} : Writes [.sealRunning] s (s.sealFeed u l) := Writes.set (f := F.sealRunning_value) (by decide)

theorem State.sealXor_lt (s : State) (u : Nat) : s.sealXor u < 2 ^ 32 := by
  unfold State.sealXor
  split
  · decide
  · exact s.get_lt F.sealPoly_xorout u
  · decide

theorem State.sealXor_writes {l : List Reg} {s t : State} (h : Writes l s t) (hcfg : F.sealCfg_poly.reg ∉ l) (hpoly : F.sealPoly_xorout.reg ∉ l)
    (u : Nat) : t.sealXor u = s.sealXor u := by
  unfold State.sealXor
  rw [h.get hcfg, h.get hpoly]

theorem State.state_set (s : State) (u : Nat) {st : Nat} (h : st < 4) : (s.set F.sealCtl_state u st).get F.sealCtl_state u = st := by
  rw [State.get_set_self _ _ _ _ (by decide)]
  exact Nat.mod_eq_of_lt h

theorem State.sealReset_spec (s : State) (u : Nat) : (s.sealReset u).get F.sealRunning_value u = s.sealInit u ∧
    (s.sealReset u).get F.sealCtl_state u = suIDLE ∧ (s.sealReset u).bit F.sealCtl_mismatch u = false ∧
    s.sealReset u = { s with regs := (s.sealReset u).regs } := by
  have hinit : s.sealInit u < 2 ^ 64 := by
    unfold State.sealInit
    split
    · decide
    · exact Nat.lt_trans (s.get_lt F.sealPoly_init u) (by decide)
    · decide
  refine ⟨?_, ?_, State.bit_setBit_self _ _ _ _ (by decide) (by decide), rfl⟩
  · rw [State.sealReset, State.setBit, State.get_set_other _ _ _ _ (by decide), State.get_set_other _ _ _ _ (by decide),
      State.get_set_self _ _ _ _ (by decide)]
    exact Nat.mod_eq_of_lt hinit
  · rw [State.sealReset, State.setBit, State.get_set_field _ F.sealCtl_mismatch F.sealCtl_state _ _ rfl (by decide) (by decide),
      State.state_set _ _ (by decide)]

/-- A unit's running value after FOLD (R459). -/
def State.sealFolded (s : State) (u : Nat) : State :=
  if s.bit F.sealCfg_foldEn u then s.sealFeed u (leBytes 8 (s.get F.sealFold_value u)) else s

/-- The last value of a unit, before the final XOR. -/
def State.sealLast (s : State) (u : Nat) : BitVec 32 :=
  if s.bit F.sealCfg_foldEn u then s.sealStep u (s.sealRun u) (leBytes 8 (s.get F.sealFold_value u)) else s.sealRun u

theorem State.sealFolded_writes {s : State} {u : Nat} : Writes [.sealRunning] s (s.sealFolded u) := by
  unfold State.sealFolded
  split
  · exact State.sealFeed_writes
  · exact Writes.refl

theorem State.get_sealFolded {s : State} {u : Nat} (h : s.get F.sealRunning_value u < 2 ^ 32) :
    (s.sealFolded u).get F.sealRunning_value u = (s.sealLast u).toNat := by
  unfold State.sealFolded State.sealLast
  split
  · exact s.get_sealFeed u _
  · rw [State.sealRun, BitVec.toNat_ofNat, Nat.mod_eq_of_lt h]

/-- A unit with its result (R459). -/
def State.sealDone (s : State) (u : Nat) : State :=
  ((s.sealFolded u).set F.sealResult_value u (Nat.xor (s.sealLast u).toNat (s.sealXor u))).set F.sealCtl_state u suDONE

theorem State.sealDone_writes {s : State} {u : Nat} : Writes [.sealRunning, .sealResult, .sealCtl] s (s.sealDone u) :=
  ((State.sealFolded_writes.mono (by decide)).trans (Writes.set (by decide))).trans (Writes.set (by decide))

theorem State.sealDone_spec (s : State) (u : Nat) : (s.sealDone u).get F.sealResult_value u = Nat.xor (s.sealLast u).toNat (s.sealXor u) ∧
    (s.sealDone u).get F.sealCtl_state u = suDONE ∧ s.sealDone u = { s with regs := (s.sealDone u).regs } := by
  refine ⟨?_, State.state_set _ _ (by decide), ?_⟩
  · rw [State.sealDone, State.get_set_other _ _ _ _ (by decide), State.get_set_self _ _ _ _ (by decide)]
    exact Nat.mod_eq_of_lt (Nat.lt_trans (Nat.xor_lt_two_pow (BitVec.isLt _) (s.sealXor_lt u)) (by decide))
  · unfold State.sealDone State.sealFolded
    split <;> rfl

theorem State.sealFinal_eq {s : State} {u : Nat} (hbusy : ¬s.get F.sealCtl_state u = suBUSY) (hrun : s.get F.sealRunning_value u < 2 ^ 32) :
    s.sealFinal u = if (s.bit F.sealCfg_cmpEn u && decide (Nat.xor (s.sealLast u).toNat (s.sealXor u) ≠ s.get F.sealExpect_value u)) = true then
      ((s.sealDone u).setBit F.sealCtl_mismatch u true).rasEvent 3 u (0x80 + u) 0 (Nat.xor (s.sealLast u).toNat (s.sealXor u))
    else s.sealDone u := by
  have hxor : (s.sealFolded u).sealXor u = s.sealXor u := State.sealXor_writes State.sealFolded_writes (by decide) (by decide) u
  rw [← s.sealDone_writes.bit (f := F.sealCfg_cmpEn) (by decide), ← s.sealDone_writes.get (f := F.sealExpect_value) (by decide)]
  unfold State.sealFinal State.sealPartial
  dsimp only
  rw [if_neg hbusy, ← State.sealFolded, State.get_sealFolded hrun, hxor]
  rfl

/-- Settles O59: a visit or a tick takes the branch that the hypotheses choose; a seal unit's registers are written one by one. -/
theorem scrubbingAndSealUnits : Obligations.ScrubbingAndSealUnits := by
  refine ⟨fun mem unit addr s => ⟨fun hunreal out => ?_, fun hreal => exec_scrubVisit_clean hreal, fun hreal hidle out =>
    exec_scrubVisit_idle hreal (Classical.not_not.1 hidle) out, fun hreal hactive => ⟨⟨_, exec_scrubVisit_corrected hreal hactive, ?_, ?_⟩,
      exec_scrubVisit_uncorrectable hreal hactive⟩, ⟨s.stormTaken, rfl, rfl, fun hmode hthr hfails => ?_, fun hcalm => ?_⟩,
    ⟨s.corrTaken, rfl, rfl, fun hlow => ?_, fun i n hcorr hhigh => ?_⟩⟩, fun u v s hcfg => ⟨?_, fun hok hlen => ?_, fun hok => ?_, fun hbusy => ?_,
      fun hlen hidle => ?_, fun hbusy => ?_, fun hidle => ?_, fun hidle => ?_⟩⟩
  · exact if_pos (Classical.not_not.1 hunreal)
  · split
    · exact (State.get_bump_reg _ _ _ (by decide)).trans (s.rasCntCorr_corrected _)
    · exact s.rasCntCorr_corrected _
  · split <;> rfl
  · rw [exec_sealStormTick, if_pos ⟨hmode, hthr, hfails⟩]
  · rw [exec_sealStormTick, if_neg]
    rintro ⟨-, hthr, hfails⟩
    exact hcalm.elim hthr fun h => Nat.not_le.2 h hfails
  · rw [exec_corrRateTick, foldl_corrStep_low _ s.corrTaken hlow]
  · refine ⟨s.corrTaken.useFree.useFree, s.corrTaken.freeMaster, s.corrTaken.useFree.freeVal.toNat, ?_, rfl⟩
    rw [exec_corrRateTick, hcorr]
    exact congrArg Host.Outcome.next (if_pos hhigh)
  · exact ⟨_, congrArg Host.Outcome.next (if_pos hcfg), s.sealReset_spec u.val⟩
  · have hstart : s.sealStart u.val = s.set F.sealCtl_state u.val suBUSY := if_pos (Bool.and_eq_true_iff.2 ⟨hok, bne_iff_ne.2 hlen⟩)
    exact ⟨_, congrArg Host.Outcome.next ((if_pos hcfg).trans hstart), State.state_set _ _ (by decide), rfl⟩
  · have hstart : s.sealStart u.val = s := if_neg fun h => Bool.false_ne_true (hok.symm.trans (Bool.and_eq_true_iff.1 h).1)
    exact congrArg Host.Outcome.next ((if_pos hcfg).trans hstart)
  · refine ⟨_, congrArg Host.Outcome.next (if_pos hbusy), State.state_set _ _ (by decide), ?_, rfl⟩
    have hrun : ((s.sealFeed u.val (s.sealBytesOf u.val)).set F.sealCtl_state u.val suIDLE).sealRun u.val =
        (s.sealFeed u.val (s.sealBytesOf u.val)).sealRun u.val := by rw [State.sealRun, State.get_set_other _ _ _ _ (by decide), State.sealRun]
    exact hrun.trans (s.sealRun_sealFeed u.val _)
  · have hword : s.sealWord u.val v = s.sealFeed u.val (leBytes 8 v.toNat) := if_pos ⟨hlen, hidle⟩
    exact ⟨_, congrArg Host.Outcome.next ((if_pos hcfg).trans hword), s.sealRun_sealFeed u.val _, rfl⟩
  · have hword : s.sealWord u.val v = s := if_neg fun h => h.2 hbusy
    exact congrArg Host.Outcome.next ((if_pos hcfg).trans hword)
  · have hput : s.sealRestore u.val v = s.set F.sealRunning_value u.val v.toNat := if_pos (beq_iff_eq.2 hidle)
    refine ⟨_, congrArg Host.Outcome.next ((if_pos hcfg).trans hput), ?_, rfl⟩
    rw [State.get_set_self _ _ _ _ (by decide)]
    exact Nat.mod_eq_of_lt v.isLt
  · intro last r hrun
    have hfinal := State.sealFinal_eq hidle hrun
    obtain ⟨hresult, hstate, hrest⟩ := s.sealDone_spec u.val
    refine ⟨s.sealDone u.val, hresult, hstate, hrest, fun hmatch => ?_, fun hcmp hbad => ?_⟩
    · refine congrArg Host.Outcome.next ((if_pos hcfg).trans (hfinal.trans (if_neg ?_)))
      rw [Bool.and_eq_true_iff, decide_eq_true_iff]
      rintro ⟨hcmp, hbad⟩
      exact hmatch.elim (fun h => Bool.false_ne_true (h.symm.trans hcmp)) hbad
    · exact congrArg Host.Outcome.next ((if_pos hcfg).trans (hfinal.trans (if_pos (Bool.and_eq_true_iff.2 ⟨hcmp, decide_eq_true hbad⟩))))

end Sys2Proof.Machine
end

section
/-!
PROOFS. Direct register writes by the PF, and the drives of the harbour log.
-/
namespace Sys2Proof.Machine
set_option Elab.async false

/-! ### A direct write -/

/-- The bits of a register that a write may set. -/
def Reg.rwBits (r : Reg) : RegVal := r.row.bits (fun a => a == .rw || a == .rwl || (a == .wo && keepsWo r))

/-- What a write makes of a register, its range clamped and its write-one-to-clear bits cleared (Table 0.5). -/
def State.regNew (s : State) (r : Reg) (i : Nat) (m v : RegVal) : RegVal :=
  wClamp r i ((s.reg r i &&& ~~~(r.rwBits &&& m)) ||| (v &&& (r.rwBits &&& m))) &&& ~~~(v &&& m &&& r.row.bits (· == .w1c))

theorem merge_zero {w : Nat} (x y : BitVec w) : (x &&& ~~~0) ||| (y &&& 0) = x := by simp

theorem and_not_zero {w : Nat} (x y : BitVec w) : x &&& ~~~(y &&& 0) = x := by simp

/-- A direct write to a register that nothing holds is refused, or takes effect whole. -/
theorem State.wMerge_free {s : State} {r : Reg} {i : Nat} (pf : Bool) (m v : RegVal) (hheld : s.wHeld r i = (0, 0)) :
    s.wMerge (.direct pf) r i m v = if s.wRefused (s.setReg r i (s.regNew r i m v)) r i = true then .no stBAD_PARAM
      else .ok (s.wAct (s.setReg r i (s.regNew r i m v)) r i (v &&& m &&& r.row.bits (· == .wo))) := by
  unfold State.wMerge
  dsimp only
  rw [hheld, if_neg fun h : Via.isSet (.direct pf) = true ∧ _ => Bool.false_ne_true h.1]
  dsimp only
  rw [merge_zero, if_neg (c := (0 : RegVal) ≠ 0 ∧ _) fun h => h.1 rfl]
  rfl

theorem State.pfWrite_free {s : State} {r : Reg} {i : Nat} {v : RegVal}
    (hplain : s.wReg (.direct true) 0 r i (BitVec.ofNat 320 (2 ^ r.row.width - 1)) v =
      s.wMerge (.direct true) r i (BitVec.ofNat 320 (2 ^ r.row.width - 1)) v) (hheld : s.wHeld r i = (0, 0)) :
    s.pfWrite r i v = if s.wRefused (s.setReg r i (s.regNew r i (BitVec.ofNat 320 (2 ^ r.row.width - 1)) v)) r i = true then s
      else s.wAct (s.setReg r i (s.regNew r i (BitVec.ofNat 320 (2 ^ r.row.width - 1)) v)) r i
        (v &&& BitVec.ofNat 320 (2 ^ r.row.width - 1) &&& r.row.bits (· == .wo)) := by
  unfold State.pfWrite
  rw [hplain, State.wMerge_free _ _ _ hheld]
  split <;> rename_i h <;> split at h <;> cases h <;> rename_i hif
  · rw [if_neg hif]
  · rw [if_pos hif]

/-- A field that the mask covers is the written value's. -/
theorem extract_merge {w : Nat} (old v mask : BitVec w) {lo len : Nat} (hmask : BitVec.extractLsb' lo len mask = BitVec.allOnes len) :
    BitVec.extractLsb' lo len ((old &&& ~~~mask) ||| (v &&& mask)) = BitVec.extractLsb' lo len v := by
  refine BitVec.eq_of_getLsbD_eq fun k hk => ?_
  have hone : mask.getLsbD (lo + k) = true := by
    have hbit := congrArg (fun x : BitVec len => x.getLsbD k) hmask
    simpa [hk] using hbit
  simp [hk, hone]

/-- A field of a word that is written whole. -/
theorem extract_word {w : Nat} (v : BitVec w) (h : w ≤ 320) (lo len : Nat) :
    (BitVec.extractLsb' lo len (v.setWidth 320)).toNat = v.toNat / 2 ^ lo % 2 ^ len := by
  rw [BitVec.extractLsb'_toNat, BitVec.toNat_setWidth_of_le h, Nat.shiftRight_eq_div_pow]

/-- What a field reads as after a plain write of its whole register. -/
theorem State.get_regNew {w : Nat} (s : State) {f : Fld} (i : Nat) (m : RegVal) (v : BitVec w) (h : w ≤ 320) (hclamp : ∀ x, wClamp f.reg i x = x)
    (hclear : f.reg.row.bits (· == .w1c) = 0) (hmask : BitVec.extractLsb' f.lo f.len (f.reg.rwBits &&& m) = BitVec.allOnes f.len) :
    (s.setReg f.reg i (s.regNew f.reg i m (v.setWidth 320))).get f i = v.toNat / 2 ^ f.lo % 2 ^ f.len := by
  rw [State.get_setReg_self, State.regNew, hclamp, hclear, and_not_zero, extract_merge _ _ _ hmask, extract_word v h]

/-! ### Drives -/

/-- The identity of a drive as it was read. -/
def State.driveKnown (s : State) (r : Nat) (id : DriveId) : State := { s with log := { s.log with ids := Tab.put s.log.ids r id } }

theorem exec_driveReady (r : Fin 4) (id : DriveId) (v : Word) (s : State) :
    exec (.driveReady r id v) s = .next ((s.driveKnown r.val id).pfWrite .logDriveCfg r.val (v.setWidth 320)) := rfl

/-- LOG_DRIVE_CFG as the write leaves it. -/
def State.driveCfg (s : State) (r : Nat) (v : Word) : State :=
  s.setReg .logDriveCfg r (s.regNew .logDriveCfg r (BitVec.ofNat 320 (2 ^ 64 - 1)) (v.setWidth 320))

theorem State.get_driveCfg (s : State) (r : Nat) (v : Word) {f : Fld} (hr : f.reg = .logDriveCfg)
    (hmask : BitVec.extractLsb' f.lo f.len (Reg.logDriveCfg.rwBits &&& BitVec.ofNat 320 (2 ^ 64 - 1)) = BitVec.allOnes f.len) :
    (s.driveCfg r v).get f r = v.toNat / 2 ^ f.lo % 2 ^ f.len := by
  obtain ⟨reg, lo, len⟩ := f
  subst hr
  exact s.get_regNew (f := ⟨.logDriveCfg, lo, len⟩) r _ v (by decide) (fun _ => rfl)
    (show Reg.logDriveCfg.row.bits (· == .w1c) = 0 by decide +kernel) hmask

theorem State.driveCfg_writes {s : State} {r : Nat} {v : Word} : Writes [.logDriveCfg] s (s.driveCfg r v) :=
  ⟨fun _ hq _ => State.reg_setReg_ne _ _ (.inl fun e => hq (e ▸ List.mem_singleton_self _))⟩

theorem State.driveFit_writes {l : List Reg} {s t : State} (h : Writes l s t) (hpart : F.logPartStatus_state.reg ∉ l)
    (hparts : t.log.parts = s.log.parts) (r : Nat) (d : DriveId) (slotMib : Nat) : t.driveFit r d slotMib = s.driveFit r d slotMib := by
  have hnamed : ∀ p, (t.get F.logPartStatus_state p == 1 && (t.part p).drives.testBit r) = (s.get F.logPartStatus_state p == 1 && (s.part p).drives.testBit r) :=
    fun p => by rw [h.get hpart, State.part, hparts, State.part]
  unfold State.driveFit
  simp only [hnamed]

theorem State.pfWrite_driveCfg {s : State} (hmode : s.directMode = true) (r : Nat) (v : Word) :
    s.pfWrite .logDriveCfg r (v.setWidth 320) = if s.wRefused (s.driveCfg r v) .logDriveCfg r = true then s
      else s.wAct (s.driveCfg r v) .logDriveCfg r (v.setWidth 320 &&& BitVec.ofNat 320 (2 ^ 64 - 1) &&& Reg.logDriveCfg.row.bits (· == .wo)) := by
  have hopen : s.wModeNo (.direct true) .logDriveCfg = none := by
    change (if s.directMode = true then none else some stBAD_MODE) = none
    exact if_pos hmode
  refine State.pfWrite_free ?_ rfl
  unfold State.wReg
  rw [hopen]

theorem State.ready_driveCfg (s : State) (r : Nat) {v : Word} (h : v.getLsbD 0 = true) : (s.driveCfg r v).bit F.logDriveCfg_ready r = true := by
  have hone : v.toNat / 2 ^ 0 % 2 ^ 1 = 1 := by
    rw [Nat.pow_zero, Nat.div_one]
    exact of_decide_eq_true ((Nat.testBit_zero v.toNat).symm.trans h)
  rw [State.bit, State.get_driveCfg _ _ _ rfl (by decide +kernel), beq_iff_eq]
  exact hone

/-- A drive that its namespace makes fit is READY (R410). -/
theorem State.driveReady_fit {s : State} {r : Nat} {id : DriveId} {v : Word} (hmode : s.directMode = true)
    (hready : s.bit F.logDriveCfg_ready r = false) (hbit : v.getLsbD 0 = true) :
    (s.driveKnown r id).pfWrite .logDriveCfg r (v.setWidth 320) =
      if s.driveFit r id (v.toNat / 2 ^ 34 % 2 ^ 16) = true then ((s.driveKnown r id).driveCfg r v).driveUp r id else s.driveKnown r id := by
  have hready1 : ((s.driveKnown r id).driveCfg r v).bit F.logDriveCfg_ready r = true := State.ready_driveCfg _ _ hbit
  have hready0 : (s.driveKnown r id).bit F.logDriveCfg_ready r = false := hready
  have hslot : ((s.driveKnown r id).driveCfg r v).get F.logDriveCfg_slotMib r = v.toNat / 2 ^ 34 % 2 ^ 16 :=
    State.get_driveCfg _ _ _ rfl (by decide +kernel)
  have hid : Tab.get? ((s.driveKnown r id).driveCfg r v).log.ids r = some id := Tab.get?_put_self ..
  have hfit : ((s.driveKnown r id).driveCfg r v).driveFit r id (v.toNat / 2 ^ 34 % 2 ^ 16) = s.driveFit r id (v.toNat / 2 ^ 34 % 2 ^ 16) := by
    have hknown : Writes [.logDriveCfg] s (s.driveKnown r id) := Writes.of_regs rfl
    exact State.driveFit_writes (hknown.trans State.driveCfg_writes) (by decide) rfl ..
  have href : (s.driveKnown r id).wRefused ((s.driveKnown r id).driveCfg r v) .logDriveCfg r = !s.driveFit r id (v.toNat / 2 ^ 34 % 2 ^ 16) := by
    unfold State.wRefused
    dsimp only
    rw [hready1, hready0, hid]
    dsimp only
    rw [hslot, hfit]
    rfl
  have hact : ∀ raw, (s.driveKnown r id).wAct ((s.driveKnown r id).driveCfg r v) .logDriveCfg r raw = ((s.driveKnown r id).driveCfg r v).driveUp r id :=
    fun raw => by
      unfold State.wAct
      dsimp only
      rw [hready1, hready0, if_neg Bool.false_ne_true, if_pos rfl, hid]
  have hmode1 : (s.driveKnown r id).directMode = true := hmode
  rw [State.pfWrite_driveCfg hmode1, href, hact]
  cases s.driveFit r id (v.toNat / 2 ^ 34 % 2 ^ 16) <;> rfl

theorem State.driveUp_spec (s : State) (r : Nat) (d : DriveId) : (s.driveUp r d).get F.logDriveStatus_state r = 2 ∧
    (s.driveUp r d).bit F.logDriveStatus_zoned r = d.zoned ∧ Tab.get? (s.driveUp r d).log.ids r = some d ∧
    (s.driveUp r d).bit F.logDriveCfg_ready r = s.bit F.logDriveCfg_ready r := by
  unfold State.driveUp
  extract_lets _ t
  refine ⟨?_, ?_, Tab.get?_put_self .., ?_⟩
  · rw [State.get_set_field _ F.logDriveStatus_free F.logDriveStatus_state _ _ rfl (by decide) (by decide), State.setBit,
      State.get_set_field _ F.logDriveStatus_zoned F.logDriveStatus_state _ _ rfl (by decide) (by decide), State.get_set_self _ _ _ _ (by decide)]
    rfl
  · rw [State.bit, State.get_set_field _ F.logDriveStatus_free F.logDriveStatus_zoned _ _ rfl (by decide) (by decide), ← State.bit]
    exact State.bit_setBit_self _ _ _ _ (by decide) (by decide)
  · rw [State.bit_set_other _ _ _ _ (by decide), State.bit_setBit_other _ _ _ _ (by decide), State.bit_set_other _ _ _ _ (by decide)]
    rfl

/-! ### Failures and retention -/

section segment
variable {p : Fin 16} {seg i : Nat} {g : Seg} {s : State} (h : s.segOf p.val seg = some (i, g))
include h

theorem exec_driveWriteFail (hopen : ¬(g.written = true ∨ g.alien = true)) (hready : s.get F.logDriveStatus_state g.drive = 2) :
    exec (.driveWriteFail p seg) s = .next (if g.fails = 0 then s.setSeg i { g with fails := 1 }
      else (((s.set F.logDriveStatus_state g.drive 3).driveEvent g.drive).hostErr 16).relocateSeg i g) := by
  change execDriveWriteFail p seg s = _
  rw [execDriveWriteFail, h]
  dsimp only
  rw [if_neg hopen, if_pos hready]
  exact congrArg Host.Outcome.next (ite_of_iff (and_iff_left hready) rfl rfl)

theorem exec_driveWriteFail_written (hwritten : g.written = true) : exec (.driveWriteFail p seg) s = .next s := by
  change execDriveWriteFail p seg s = _
  rw [execDriveWriteFail, h]
  exact congrArg Host.Outcome.next (if_pos (.inl hwritten))

theorem exec_retentionExpiry : exec (.retentionExpiry p seg) s = .next (
    if s.get F.logPartStatus_state p.val = 2 ∧ s.mayRetire i g = true then
      if ((s.retireSeg i g).segsOf p.val).isEmpty = true then (s.retireSeg i g).set F.logPartStatus_state p.val 0 else s.retireSeg i g
    else s) := by
  change execRetentionExpiry p seg s = _
  rw [execRetentionExpiry, h]

end segment

/-- Settles O54: a drive's status follows what is seen of it; a write of READY takes effect where the namespace meets R410. -/
theorem drivesComeAndGo : Obligations.DrivesComeAndGo := by
  intro r p seg s
  refine ⟨fun hstate => ⟨_, congrArg Host.Outcome.next (if_pos hstate), State.get_set_self _ _ _ _ (by decide), rfl⟩,
    fun hstate => congrArg Host.Outcome.next (if_neg hstate), ⟨_, rfl, ?_, ?_, Tab.get?_del_self .., rfl⟩, fun id v hmode hready hbit => ?_,
    fun hnone => ⟨?_, ?_⟩, fun i g hseg => ⟨fun hwritten halien hstate => ⟨fun hfails => ?_, fun hfails => ?_⟩,
      exec_driveWriteFail_written hseg, fun hstate hretire => ?_, fun hretire => ?_⟩⟩
  · exact (State.get_set_field _ F.logDriveStatus_free F.logDriveStatus_state _ _ rfl (by decide) (by decide)).trans
      (State.get_set_self _ _ _ _ (by decide))
  · exact State.get_set_self _ F.logDriveStatus_free _ _ (by decide)
  · have hexec := exec_driveReady r id v s
    rw [State.driveReady_fit hmode hready hbit] at hexec
    intro fit
    refine ⟨fun hfit => ?_, fun hfit => ?_⟩
    · obtain ⟨hstate, hzoned, hid, hkept⟩ := ((s.driveKnown r.val id).driveCfg r.val v).driveUp_spec r.val id
      have hon : ((s.driveKnown r.val id).driveCfg r.val v).bit F.logDriveCfg_ready r.val = true := State.ready_driveCfg _ _ hbit
      rw [if_pos hfit] at hexec
      exact ⟨_, hexec, hstate, hzoned, hid, hkept.trans hon⟩
    · rw [if_neg fun h => Bool.false_ne_true (hfit.symm.trans h)] at hexec
      exact hexec
  · change execDriveWriteFail p seg s = _
    rw [execDriveWriteFail, hnone]
  · change execRetentionExpiry p seg s = _
    rw [execRetentionExpiry, hnone]
  · have hopen : ¬(g.written = true ∨ g.alien = true) := by rw [hwritten, halien]; decide
    rw [exec_driveWriteFail hseg hopen hstate, if_pos hfails]
  · have hopen : ¬(g.written = true ∨ g.alien = true) := by rw [hwritten, halien]; decide
    rw [exec_driveWriteFail hseg hopen hstate, if_neg hfails]
  · have hexec := exec_retentionExpiry hseg
    rw [if_pos ⟨hstate, hretire⟩] at hexec
    intro u
    refine ⟨fun hlast => ?_, fun hmore => ?_⟩
    · rw [hexec, if_pos hlast]
    · rw [hexec, if_neg fun h => Bool.false_ne_true (hmore.symm.trans h)]
  · rw [exec_retentionExpiry hseg, if_neg fun h => Bool.false_ne_true (hretire.symm.trans h.2)]

end Sys2Proof.Machine
end

section
/-!
PROOFS. The harbour log: records are captured, segments closed, signed and written.
-/
namespace Sys2Proof.Machine
set_option Elab.async false

/-! ### Capture -/

theorem State.capture_off {s : State} (h : s.logRuns = false) (c : Capture) : s.capture c = s := if_pos h

theorem State.capture_noPart {s : State} {c : Capture} (hruns : s.logRuns = true) (hpart : s.get F.logPartStatus_state c.part ≠ 1) :
    s.capture c = s.bump F.logCntNoPart 0 := (if_neg (by rw [hruns]; decide)).trans (if_pos hpart)

/-- The buckets of a record's partition and of the device, brought up to now. -/
def State.buckets (s : State) (p : Nat) : State :=
  let t : State := { s with log := { s.log with dev := s.devBucket, devNs := s.ns } }
  t.setPart p { t.part p with bucket := s.partBucket p, bucketNs := t.ns }

theorem State.part_setPart_self (s : State) (p : Nat) (v : Part) : (s.setPart p v).part p = v := Tab.getD_put_self ..

theorem State.capture_short {s : State} {c : Capture} (hruns : s.logRuns = true) (hpart : s.get F.logPartStatus_state c.part = 1)
    (hshort : s.partBucket c.part < recordLen c.body.length * 8000 ∨ s.devBucket < recordLen c.body.length) :
    s.capture c = (s.buckets c.part).loseRecord c.part (recordLen c.body.length) (s.buckets c.part).ktsTl :=
  (if_neg (by rw [hruns]; decide)).trans ((if_neg (not_not_intro hpart)).trans (if_pos hshort))

theorem State.lostN_loseRecord (s : State) (p n : Nat) (t : Stamp) : ((s.loseRecord p n t).part p).lostN = (s.part p).lostN + 1 :=
  congrArg Part.lostN (State.part_setPart_self ..)

theorem State.lostN_buckets (s : State) (p : Nat) : ((s.buckets p).part p).lostN = (s.part p).lostN := by
  unfold State.buckets
  dsimp only
  rw [State.part_setPart_self]
  rfl

section record
variable {s : State} {c : Capture} {rest : List Capture} (h : s.log.queue = c :: rest)
include h

theorem exec_logCapture (hbid : c.bid = none) :
    exec .logCapture s = .next (({ s with log := { s.log with queue := rest } } : State).capture c) := by
  change execLogCapture s = _
  rw [execLogCapture, h]
  dsimp only
  rw [hbid]

theorem exec_logCapture_frame {b : Nat} (hbid : c.bid = some b) :
    exec .logCapture s = .next ((({ s with log := { s.log with queue := rest } } : State).capture c).letGo b 0x60) := by
  change execLogCapture s = _
  rw [execLogCapture, h]
  dsimp only
  rw [hbid]

end record

/-! ### Turning the log on -/

/-- LOG_CFG as the write leaves it. -/
def State.logCfg (s : State) (v : Word) : State := s.setReg .logCfg 0 (s.regNew .logCfg 0 (BitVec.ofNat 320 (2 ^ 64 - 1)) (v.setWidth 320))

theorem State.get_logCfg (s : State) (v : Word) {f : Fld} (hr : f.reg = .logCfg)
    (hmask : BitVec.extractLsb' f.lo f.len (Reg.logCfg.rwBits &&& BitVec.ofNat 320 (2 ^ 64 - 1)) = BitVec.allOnes f.len) :
    (s.logCfg v).get f 0 = v.toNat / 2 ^ f.lo % 2 ^ f.len := by
  obtain ⟨reg, lo, len⟩ := f
  subst hr
  exact s.get_regNew (f := ⟨.logCfg, lo, len⟩) 0 _ v (by decide) (fun _ => rfl)
    (show Reg.logCfg.row.bits (· == .w1c) = 0 by decide +kernel) hmask

theorem State.logCfg_writes {s : State} {v : Word} : Writes [.logCfg] s (s.logCfg v) :=
  ⟨fun _ hq _ => State.reg_setReg_ne _ _ (.inl fun e => hq (e ▸ List.mem_singleton_self _))⟩

theorem State.en_logCfg (s : State) {v : Word} (h : v.getLsbD 0 = true) : (s.logCfg v).bit F.logCfg_en 0 = true := by
  have hone : v.toNat / 2 ^ 0 % 2 ^ 1 = 1 := by
    rw [Nat.pow_zero, Nat.div_one]
    exact of_decide_eq_true ((Nat.testBit_zero v.toNat).symm.trans h)
  rw [State.bit, State.get_logCfg _ _ rfl (by decide +kernel), beq_iff_eq]
  exact hone

theorem State.directMode_of_dockMode {s : State} (h : s.dockMode = true) : s.directMode = true := by
  unfold State.dockMode at h
  unfold State.directMode
  rcases Bool.or_eq_true_iff.1 h with h | h <;> rw [h] <;> simp

theorem State.pfWrite_logCfg {s : State} (hmode : s.dockMode = true) (v : Word) :
    s.pfWrite .logCfg 0 (v.setWidth 320) = if s.wRefused (s.logCfg v) .logCfg 0 = true then s
      else s.wAct (s.logCfg v) .logCfg 0 (v.setWidth 320 &&& BitVec.ofNat 320 (2 ^ 64 - 1) &&& Reg.logCfg.row.bits (· == .wo)) := by
  have hopen : s.wModeNo (.direct true) .logCfg = none := by
    change (if s.directMode = true then none else some stBAD_MODE) = none
    exact if_pos (State.directMode_of_dockMode hmode)
  have hheld : s.wHeld .logCfg 0 = (0, 0) := by
    change (if (!s.dockMode) = true then _ else _) = _
    exact if_neg (by rw [hmode]; decide)
  refine State.pfWrite_free ?_ hheld
  unfold State.wReg
  rw [hopen]

/-- Turning the log on with a directory that meets R414 starts the scan. -/
theorem State.logEnable_starts {s : State} {v : Word} (hmode : s.dockMode = true) (hoff : s.bit F.logCfg_en 0 = false) (hbit : v.getLsbD 0 = true)
    (hbuf : s.get F.bufHbmPool_bufsz 1 = 10) (hdir : v.toNat / 2 % 128 < 96)
    (hareas : ∀ a ∈ s.hbmAreas, meets a.1 a.2 (v.toNat / 2 % 128) 1 = false) :
    s.pfWrite .logCfg 0 (v.setWidth 320) = (s.logCfg v).set F.logStatus_state 0 1 := by
  have hon := s.en_logCfg hbit
  have hareas1 : (s.logCfg v).hbmAreas = s.hbmAreas := by
    unfold State.hbmAreas
    rw [State.logCfg_writes.get (by decide), State.logCfg_writes.get (by decide), State.logCfg_writes.get (by decide),
      State.logCfg_writes.get (by decide), State.logCfg_writes.get (by decide), State.logCfg_writes.get (by decide),
      State.logCfg_writes.get (by decide), State.logCfg_writes.get (by decide)]
  have hdir1 : (s.logCfg v).get F.logCfg_dirBase 0 = v.toNat / 2 % 128 := s.get_logCfg v rfl (by decide +kernel)
  have hok : (s.logCfg v).logEnOk = true := by
    unfold State.logEnOk
    rw [hdir1, hareas1, State.logCfg_writes.get (by decide), hbuf]
    exact Bool.and_eq_true_iff.2 ⟨decide_eq_true hdir, List.all_eq_true.2 fun a ha => by rw [hareas a ha]; rfl⟩
  have href : s.wRefused (s.logCfg v) .logCfg 0 = false := by
    unfold State.wRefused
    dsimp only
    rw [hon, hok]
    rfl
  have hact : ∀ raw, s.wAct (s.logCfg v) .logCfg 0 raw = (s.logCfg v).set F.logStatus_state 0 1 := fun raw => by
    unfold State.wAct
    dsimp only
    rw [hon, hoff, if_neg Bool.false_ne_true, if_pos rfl]
  rw [State.pfWrite_logCfg hmode, href, hact]
  rfl

/-! ### The scan -/

/-- The directory as it was found (R414). -/
def State.dirFound (s : State) (found : List SegScan) : State := { s with log := { s.log with dir := found, dev := chunkSize, devNs := s.ns } }

/-- The free slots of one drive. -/
def driveFree (s : State) (r : Nat) : State :=
  match Tab.get? s.log.ids r with
  | some d => if s.get F.logDriveStatus_state r = 2 then s.set F.logDriveStatus_free r (d.slots - (s.slotsUsed r).length) else s
  | none => s

theorem driveFree_frame (s : State) (r : Nat) : driveFree s r = { s with regs := (driveFree s r).regs } := by
  unfold driveFree
  split
  · split <;> rfl
  · rfl

theorem foldl_driveFree_frame (l : List Nat) (s : State) : l.foldl driveFree s = { s with regs := (l.foldl driveFree s).regs } :=
  foldl_keeps (P := fun t : State => t = { s with regs := t.regs }) (fun t r ht => by rw [driveFree_frame, ht]) l rfl

theorem exec_logScanDone {s : State} (h : s.get F.logStatus_state 0 = 1) (found : List SegScan) :
    exec (.logScanDone found) s = .next (((List.range 4).foldl driveFree (s.dirFound found)).set F.logStatus_state 0 2) := by
  refine (congrArg Host.Outcome.next (if_pos h)).trans ?_
  rfl

/-! ### Segments -/

theorem State.seg_setSeg_self (s : State) (i : Nat) (g : Seg) : Tab.get? (s.setSeg i g).log.segs i = some g := Tab.get?_put_self ..

theorem exec_sealMsExpiry {p : Fin 16} {i : Nat} {g : Seg} {s : State} (h : s.openSeg p.val = some (i, g)) : exec (.sealMsExpiry p) s = .next (
    if g.records ≠ 0 ∧ s.signRoom = true ∧ g.firstNs + (s.part p.val).sealMs * 1000000 ≤ s.ns then s.closeSeg i g sgTIMED else s) := by
  change execSealMsExpiry p s = _
  rw [execSealMsExpiry, h]

/-- A segment under its signature, before its link goes to the next one. -/
def State.signed (s : State) (i : Nat) (rest : List Nat) (g : Seg) : State :=
  let t := s.setSeg i { g with sealed := true, sealNs := s.ns, link := Config.sha3 (s.sealBody g),
                               sig := if s.mode.keys then Config.sign s.mode.keyOwner (s.sealBody g) else [] }
  let t := ({ t with log := { t.log with signQ := rest, signNs := some t.ns } } : State).set F.logStatus_sigq 0 rest.length
  t.setPart g.part { t.part g.part with lastLink := Config.sha3 (s.sealBody g), lastSealed := some g.num }

/-- The segment as it is signed: marked where there are no keys (R405). -/
def State.toSign (s : State) (g : Seg) : Seg := if s.mode.keys then g else { g with flags := g.flags ||| sgUNSIGNED }

theorem State.part_toSign (s : State) (g : Seg) : (s.toSign g).part = g.part ∧ (s.toSign g).num = g.num := by
  unfold State.toSign
  split <;> exact ⟨rfl, rfl⟩

theorem exec_sealSign {s : State} {i : Nat} {rest : List Nat} {g : Seg} (hq : s.log.signQ = i :: rest) (hseg : Tab.get? s.log.segs i = some g) :
    exec .sealSign s = .next (if g.chunksDone = true ∧ g.prev.isSome = true ∧ since s.log.signNs 500000 s.ns = true then
      (s.signed i rest (s.toSign g)).linkNext (s.toSign g).part else s) := by
  change execSealSign s = _
  rw [execSealSign, hq]
  dsimp only
  rw [hseg]
  exact congrArg Host.Outcome.next (ite_of_iff (by rw [Bool.and_eq_true_iff, Bool.and_eq_true_iff, and_assoc]; rfl) rfl rfl)

theorem State.signed_spec (s : State) (i : Nat) (rest : List Nat) (g : Seg) :
    Tab.get? (s.signed i rest g).log.segs i = some { g with
      sealed := true, sealNs := s.ns, link := Config.sha3 (s.sealBody g), sig := if s.mode.keys then Config.sign s.mode.keyOwner (s.sealBody g) else [] } ∧
    (s.signed i rest g).log.signQ = rest ∧ (s.signed i rest g).log.signNs = some s.ns ∧
    ((s.signed i rest g).part g.part).lastLink = Config.sha3 (s.sealBody g) ∧ ((s.signed i rest g).part g.part).lastSealed = some g.num ∧
    s.signed i rest g = { s with regs := (s.signed i rest g).regs, log := (s.signed i rest g).log } := by
  refine ⟨Tab.get?_put_self .., rfl, rfl, ?_, ?_, rfl⟩
  · exact congrArg Part.lastLink (State.part_setPart_self ..)
  · exact congrArg Part.lastSealed (State.part_setPart_self ..)

section block
variable {p : Fin 16} {seg lba i : Nat} {g : Seg} {s : State} (h : s.segOf p.val seg = some (i, g)) (hwrites : s.logWrites = true)
  (hready : s.get F.logDriveStatus_state g.drive = 2)
include h hwrites hready

theorem exec_chunkWriteDone (hdone : g.chunksDone = false) (hclosed : g.chunkClosed g.lba.length = true) (hprev : g.prev.isSome = true)
    (halien : g.alien = false) : exec (.chunkWriteDone p seg lba) s = .next ((s.pmc { code := 0x0001, master := 0x60, n := chunkBlocks g g.lba.length * 4096 }).setSeg i
      { g with lba := g.lba ++ [if s.bit F.logDriveStatus_zoned g.drive then lba else nextBlock g], fails := 0 }) := by
  change execChunkWriteDone p seg lba s = _
  rw [execChunkWriteDone, h]
  refine congrArg Host.Outcome.next (if_pos ?_)
  rw [hwrites, hready, hdone, hclosed, hprev, halien]
  rfl

theorem exec_segmentFlushDone (hsealed : g.sealed = true) (hdone : g.chunksDone = true) (hnew : g.written = false) :
    exec (.segmentFlushDone p seg) s = .next (((s.chunksBack g).setSeg i { g with written := true }).bump F.logCntSealed p.val) := by
  change execSegmentFlushDone p seg s = _
  rw [execSegmentFlushDone, h]
  refine congrArg Host.Outcome.next (if_pos ?_)
  rw [hwrites, hready, hdone, hsealed, hnew]
  rfl

end block

/-- Settles O53: a record is captured, lost or counted by the branch that its partition and the buckets choose; a segment's steps each write its
entry. -/
theorem recordsAreCaptured : Obligations.RecordsAreCaptured := by
  refine ⟨fun s => ⟨fun hempty => ?_, fun c rest hqueue => ⟨fun hbid => ?_, fun b hbid => ?_, fun hoff => State.capture_off hoff c,
    fun hruns hpart => State.capture_noPart hruns hpart, fun hruns hpart hshort _ => ?_⟩, fun v hmode hoff hbit hbuf hdir hareas => ?_,
    fun found => ⟨fun hstate => congrArg Host.Outcome.next (if_neg hstate), fun hstate => ⟨_, exec_logScanDone hstate found, ?_, ?_, ?_⟩⟩⟩,
    fun p seg lba s => ⟨fun hnone => ?_, fun i g hopen => ⟨fun hdue => ?_, fun hdue => ?_⟩, fun i g flag => ⟨Tab.get?_put_self .., rfl, rfl⟩,
      fun hempty => ?_, fun i rest g hq hseg => ⟨fun hready => ?_, fun hready => ?_⟩, fun i g hseg =>
        ⟨fun hup hdone hclosed hprev halien => ⟨_, exec_chunkWriteDone hseg hup.1 hup.2 hdone hclosed hprev halien, State.seg_setSeg_self ..⟩,
          fun hup hsealed hdone hnew => ⟨_, exec_segmentFlushDone hseg hup.1 hup.2 hsealed hdone hnew, State.seg_setSeg_self ..⟩⟩⟩⟩
  · change execLogCapture s = _
    rw [execLogCapture, hempty]
  · exact exec_logCapture hqueue hbid
  · exact exec_logCapture_frame hqueue hbid
  · rw [State.capture_short hruns hpart hshort]
    refine ⟨?_, rfl⟩
    rw [State.lostN_loseRecord, State.lostN_buckets]
  · have hexec : exec (.logEnable v) s = .next ((s.logCfg v).set F.logStatus_state 0 1) :=
      congrArg Host.Outcome.next (State.logEnable_starts hmode hoff hbit hbuf hdir hareas)
    refine ⟨_, hexec, State.get_set_self _ _ _ _ (by decide), ?_, rfl⟩
    rw [State.bit_set_other _ _ _ _ (by decide), s.en_logCfg hbit]
  · exact State.get_set_self _ _ _ _ (by decide)
  · rw [foldl_driveFree_frame]
    rfl
  · rw [foldl_driveFree_frame]
    rfl
  · change execSealMsExpiry p s = _
    rw [execSealMsExpiry, hnone]
  · rw [exec_sealMsExpiry hopen, if_pos hdue]
  · rw [exec_sealMsExpiry hopen, if_neg hdue]
  · change execSealSign s = _
    rw [execSealSign, hempty]
  · rw [exec_sealSign hq hseg, if_neg fun h => hready ⟨h.1, h.2.1, since_iff.1 h.2.2⟩]
  · intro g2 link sig
    obtain ⟨hpart, hnum⟩ := s.part_toSign g
    obtain ⟨hseg2, hrest, hns, hlink, hlast, hframe⟩ := s.signed_spec i rest (s.toSign g)
    rw [hpart] at hlink hlast
    rw [hnum] at hlast
    refine ⟨s.signed i rest (s.toSign g), ?_, hseg2, hrest, hns, hlink, hlast, hframe⟩
    rw [exec_sealSign hq hseg, if_pos ⟨hready.1, hready.2.1, since_iff.2 hready.2.2⟩, hpart]

end Sys2Proof.Machine
end

section
/-!
PROOFS. Tasks on their cores: placement, switches, waits, timers and watchdogs, and the mailbox enable.
-/
namespace Sys2Proof.Machine
set_option Elab.async false

/-! ### A task that starts -/

/-- Taking a task out of the NEXT slots touches no task, and of the registers the slots' marks alone. -/
theorem State.unnext_tug (s : State) (k : Nat) : (s.unnext k).tug.tasks = s.tug.tasks ∧ (s.unnext k).tug.delay = s.tug.delay ∧
    Writes [.tugCoreStatus] s (s.unnext k) := by
  unfold State.unnext
  refine foldl_keeps (P := fun u : State => u.tug.tasks = s.tug.tasks ∧ u.tug.delay = s.tug.delay ∧ Writes [.tugCoreStatus] s u) (fun u t hu => ?_) _
    ⟨rfl, rfl, Writes.refl⟩
  obtain ⟨htasks, hdelay, hregs⟩ := hu
  split
  · refine ⟨htasks, hdelay, hregs.trans ?_⟩
    have hcore : Writes [.tugCoreStatus] u (u.setTcore t { u.tcore t with next := none }) := Writes.of_regs rfl
    exact hcore.trans (Writes.setBit (by decide))
  · exact ⟨htasks, hdelay, hregs⟩

/-- A task that is about to start is on no list. -/
def State.taskOff (s : State) (k : Nat) : State := (s.unready k).unnext k

theorem State.task_taskOff (s : State) (k : Nat) : (s.taskOff k).task k = s.task k := by
  unfold State.taskOff State.task
  rw [((s.unready k).unnext_tug k).1]
  rfl

/-- Its registers in the core. -/
def State.taskRegs (s : State) (t : Core) (k : Nat) : State :=
  let u := (s.set F.tugTaskState_state k tRUNNING).set F.tugTaskState_core k t.val
  (List.finRange 32).foldl (fun u (r : RegNo) => u.setG (.tug t) r ((s.task k).regs.getD r.val 0)) (u.zeroG (.tug t))

theorem State.taskRegs_tug (s : State) (t : Core) (k : Nat) : (s.taskRegs t k).tug = s.tug ∧
    (s.taskRegs t k).regs = ((s.set F.tugTaskState_state k tRUNNING).set F.tugTaskState_core k t.val).regs := by
  unfold State.taskRegs
  dsimp only
  refine foldl_keeps (P := fun u : State => u.tug = s.tug ∧
    u.regs = ((s.set F.tugTaskState_state k tRUNNING).set F.tugTaskState_core k t.val).regs) (fun u r hu => ?_) _ ⟨rfl, rfl⟩
  rw [State.setG_tug, State.setG_regs]
  exact hu

/-- The task in the core, before the switch is counted. -/
def State.taskIn (s : State) (t : Core) (k : Nat) : State :=
  (((s.taskRegs t k).setTcore t.val { (s.taskRegs t k).tcore t.val with ctx := (s.task k).ctx, wd := (s.taskRegs t k).ns, wdOnce := false }).set
    F.tugCoreStatus_task t.val k).setBit F.tugCoreStatus_idle t.val false

theorem State.startTask_eq (s : State) (t : Core) (k : Nat) : s.startTask t k = ((s.taskOff k).taskIn t k).ccnt t.val 10 1 := rfl

theorem State.get_setTcore (s : State) (t : Nat) (v : TCore) (f : Fld) (i : Nat) : (s.setTcore t v).get f i = s.get f i := rfl

theorem State.taskIn_spec (s : State) (t : Core) {k : Nat} (hk : k < 512) : (s.taskIn t k).taskState k = tRUNNING ∧
    (s.taskIn t k).bit F.tugCoreStatus_idle t.val = false ∧ (s.taskIn t k).get F.tugCoreStatus_task t.val = k ∧
    ((s.taskIn t k).tcore t.val).ctx = (s.task k).ctx := by
  obtain ⟨-, hregs⟩ := s.taskRegs_tug t k
  have hcore : ∀ (u : State) (v : TCore), (((u.setTcore t.val v).set F.tugCoreStatus_task t.val k).setBit F.tugCoreStatus_idle t.val false).tcore t.val = v :=
    fun u v => State.tcore_setTcore_self ..
  refine ⟨?_, State.bit_setBit_self _ _ _ _ (by decide) (by decide), ?_, by rw [State.taskIn, hcore]⟩
  · rw [State.taskState, State.taskIn, State.setBit, State.get_set_other _ _ _ _ (by decide), State.get_set_other _ _ _ _ (by decide),
      State.get_setTcore, State.get_congr hregs, State.get_set_field _ F.tugTaskState_core F.tugTaskState_state _ _ rfl (by decide) (by decide), State.get_set_self _ _ _ _ (by decide)]
    rfl
  · rw [State.taskIn, State.setBit, State.get_set_field _ F.tugCoreStatus_idle F.tugCoreStatus_task _ _ rfl (by decide) (by decide),
      State.get_set_self _ _ _ _ (by decide)]
    exact Nat.mod_eq_of_lt hk

/-- A task that starts runs on its core with its context (R360). -/
theorem State.startTask_spec (s : State) (t : Core) {k : Nat} (hk : k < 512) : (s.startTask t k).taskState k = tRUNNING ∧
    (s.startTask t k).running? t.val = some k ∧ ((s.startTask t k).tcore t.val).ctx = (s.task k).ctx := by
  obtain ⟨hstate, hidle, htask, hctx⟩ := (s.taskOff k).taskIn_spec t hk
  have hcounts : Counts ((s.taskOff k).taskIn t k) (s.startTask t k) := State.ccnt_counts
  have hidle1 : (s.startTask t k).bit F.tugCoreStatus_idle t.val = false := by
    rw [State.bit, hcounts.get F.tugCoreStatus_idle _ (by decide) (.inr (by decide)) (by decide)]
    exact hidle
  refine ⟨(hcounts.get F.tugTaskState_state _ (by decide) (.inl (by decide)) (by decide)).trans hstate, ?_, ?_⟩
  · rw [State.running?, hidle1, hcounts.get F.tugCoreStatus_task _ (by decide) (.inr (by decide)) (by decide), htask]
    rfl
  · rw [hcounts.core, hctx, State.task_taskOff]

/-! ### Switches -/

/-- The task that leaves its core: its context is saved and it is READY at the head of its level (R361). -/
def State.yieldTask (s : State) (t : Core) (k : Nat) : State :=
  ((s.saveTask t k).set F.tugTaskState_state k tREADY).setReady ((s.saveTask t k).level k)
    (k :: ((s.saveTask t k).set F.tugTaskState_state k tREADY).readyOf ((s.saveTask t k).level k))

theorem State.readyOf_setReady_cons (s : State) (lvl k : Nat) (l : List Nat) : (s.setReady lvl (k :: l)).readyOf lvl = k :: l :=
  Tab.getD_put_self ..

theorem State.yieldTask_spec (s : State) (t : Core) (k : Nat) : (s.yieldTask t k).taskState k = tREADY ∧
    ((s.yieldTask t k).task k).ctx = (s.tcore t.val).ctx ∧ (s.yieldTask t k).readyOf (s.level k) = k :: s.readyOf (s.level k) := by
  refine ⟨?_, congrArg Task.ctx (State.task_setTask_self ..), State.readyOf_setReady_cons ..⟩
  rw [State.yieldTask, State.taskState, State.get_setReady, State.get_set_self _ _ _ _ (by decide)]
  rfl

section switch
variable {t : Core} {i : Nat} {s : State} (hrun : s.running? t.val = some i)
include hrun

theorem exec_contextSwitch_stay (hpoint : s.preemptPoint t = false) : exec (.contextSwitch t) s = .next s := by
  change execContextSwitch t s = _
  rw [execContextSwitch, hrun]
  exact congrArg Host.Outcome.next (if_neg (by rw [hpoint]; decide))

theorem exec_contextSwitch_cancel (hpoint : s.preemptPoint t = true) (hcancel : (s.task i).cancel = true) :
    exec (.contextSwitch t) s = .next (s.cancelHere t i) := by
  change execContextSwitch t s = _
  rw [execContextSwitch, hrun]
  exact congrArg Host.Outcome.next ((if_pos hpoint).trans (if_pos hcancel))

theorem exec_contextSwitch {j : Nat} (hpoint : s.preemptPoint t = true) (hcancel : (s.task i).cancel = false) (hnext : (s.tcore t.val).next = some j) :
    exec (.contextSwitch t) s = .next (if s.taskState j = tREADY ∧ s.level j < s.level i then (s.yieldTask t i).startTask t j
      else s.setNext t.val none) := by
  change execContextSwitch t s = _
  rw [execContextSwitch, hrun]
  dsimp only
  rw [if_pos hpoint, if_neg (by rw [hcancel]; decide), hnext]
  rfl

end switch

/-- A wait that is over: the task is READY with 0 in its register, and on no delay list (R359). -/
theorem State.waitOver_spec {s : State} {j : Nat} {r : RegNo} {w : Word} (h : (s.task j).wait = some (r, w)) :
    (s.waitOver j).taskState j = tREADY ∧ ((s.waitOver j).task j).wait = none ∧ (∀ e ∈ (s.waitOver j).tug.delay, e.2 ≠ j) ∧
    ((s.waitOver j).task j).regs = (if r = 0 then (s.task j).regs else (s.task j).regs.set r.val 0) := by
  have hover : s.waitOver j = ((s.setTask j { s.task j with
      wait := none, regs := if r = 0 then (s.task j).regs else (s.task j).regs.set r.val 0 }).undelay j).makeReady j := by
    unfold State.waitOver
    dsimp only
    rw [h]
  have htask : (s.waitOver j).task j = { s.task j with wait := none, regs := if r = 0 then (s.task j).regs else (s.task j).regs.set r.val 0 } := by
    rw [hover, State.task_makeReady]
    exact State.task_setTask_self ..
  refine ⟨?_, by rw [htask], fun e he => ?_, by rw [htask]⟩
  · rw [hover, State.taskState_makeReady]
  · rw [hover] at he
    exact bne_iff_ne.1 (List.mem_filter.1 he).2

/-! ### Timers and watchdogs -/

section timer
variable {t : Core} {s : State} {d : Nat} (h : (s.tcore t.val).timer = some d)
include h

theorem exec_timerExpiry : exec (.timerExpiry t) s = .next (
    if d ≤ s.ns then (s.setTcore t.val { s.tcore t.val with timer := none }).latchIrq t.val 1 else s) := by
  change execTimerExpiry t s = _
  rw [execTimerExpiry, h]

end timer

theorem exec_coreWdExpiry {t : Core} {s : State} (hrun : s.running? t.val ≠ none)
    (hdue : (s.tcore t.val).wd + s.get F.tugCoreCfg_wdMs t.val * 1000000 ≤ s.ns) : exec (.coreWdExpiry t) s = .next (
      if (s.tcore t.val).wdOnce = true then s.coreReset t.val 1
      else (s.setTcore t.val { s.tcore t.val with wd := s.ns, wdOnce := true }).latchIrq t.val 0) :=
  congrArg Host.Outcome.next (if_pos ⟨Option.isSome_iff_ne_none.2 hrun, hdue⟩)

/-- The system watchdog as it restarts. -/
def State.syswdAgain (s : State) : State := { s with tug := { s.tug with sysDue := some (s.ns + s.get F.tugSyswdCfg_timeout 0 * 1000000) } }

theorem exec_syswdExpiry {s : State} {d : Nat} (h : s.tug.sysDue = some d) (hdue : d ≤ s.ns) : exec .syswdExpiry s =
    .next (if s.modeNo = mHARBOUR then s.syswdAgain.bump F.tugCntSyswdBad 0 else s.syswdAgain.setCause 2) := by
  change execSyswdExpiry s = _
  rw [execSyswdExpiry, h]
  exact congrArg Host.Outcome.next (if_pos hdue)

/-! ### The mailbox enable -/

/-- TUG_MBOX_CFG as the write leaves it. -/
def State.mboxCfg (s : State) (m : Nat) (v : BitVec 32) : State :=
  s.setReg .tugMboxCfg m (s.regNew .tugMboxCfg m (BitVec.ofNat 320 (2 ^ 32 - 1)) (v.setWidth 320))

theorem State.get_mboxCfg (s : State) (m : Nat) (v : BitVec 32) {f : Fld} (hr : f.reg = .tugMboxCfg)
    (hmask : BitVec.extractLsb' f.lo f.len (Reg.tugMboxCfg.rwBits &&& BitVec.ofNat 320 (2 ^ 32 - 1)) = BitVec.allOnes f.len) :
    (s.mboxCfg m v).get f m = v.toNat / 2 ^ f.lo % 2 ^ f.len := by
  obtain ⟨reg, lo, len⟩ := f
  subst hr
  exact s.get_regNew (f := ⟨.tugMboxCfg, lo, len⟩) m _ v (by decide) (fun _ => rfl)
    (show Reg.tugMboxCfg.row.bits (· == .w1c) = 0 by decide +kernel) hmask

/-- A mailbox put into use takes its next generation (R366). -/
theorem State.mboxEnable_goes {s : State} {m : Nat} {v : BitVec 32} (hmode : s.directMode = true) (hoff : s.bit F.tugMboxCfg_en m = false)
    (hon : (s.mboxCfg m v).bit F.tugMboxCfg_en m = true) (hflag : (s.mboxCfg m v).get F.tugMboxCfg_flag m ≤ 29) :
    s.pfWrite .tugMboxCfg m (v.setWidth 320) = { s.mboxCfg m v with
      tug := { (s.mboxCfg m v).tug with mailGen := Tab.put (s.mboxCfg m v).tug.mailGen m ((Tab.getD (s.mboxCfg m v).tug.mailGen m 0 + 1) % 256) } } := by
  have hopen : s.wModeNo (.direct true) .tugMboxCfg = none := by
    change (if s.directMode = true then none else some stBAD_MODE) = none
    exact if_pos hmode
  have hplain : s.wReg (.direct true) 0 .tugMboxCfg m (BitVec.ofNat 320 (2 ^ 32 - 1)) (v.setWidth 320) =
      s.wMerge (.direct true) .tugMboxCfg m (BitVec.ofNat 320 (2 ^ 32 - 1)) (v.setWidth 320) := by
    unfold State.wReg
    rw [hopen]
  have href : s.wRefused (s.mboxCfg m v) .tugMboxCfg m = false := decide_eq_false (Nat.not_lt.2 hflag)
  have hwrite : s.pfWrite .tugMboxCfg m (v.setWidth 320) = if s.wRefused (s.mboxCfg m v) .tugMboxCfg m = true then s
      else s.wAct (s.mboxCfg m v) .tugMboxCfg m (v.setWidth 320 &&& BitVec.ofNat 320 (2 ^ 32 - 1) &&& Reg.tugMboxCfg.row.bits (· == .wo)) :=
    State.pfWrite_free hplain rfl
  refine (hwrite.trans (if_neg ?_)).trans (if_pos ⟨hoff, hon⟩)
  exact fun h => Bool.false_ne_true (href.symm.trans h)

/-- Settles O52: a task that starts runs with the context it was saved with; every other step takes the branch that the hypotheses choose. -/
theorem tasksTimersAndWatchdogs : Obligations.TasksTimersAndWatchdogs := by
  refine ⟨fun k t s => ⟨fun hstate => congrArg Host.Outcome.next (if_neg hstate), fun hstate hcore hfirst => ?_, fun hstate hcore hvictim hfirst => ?_,
    fun hidle => ?_, fun i hrun => ⟨exec_contextSwitch_stay hrun, exec_contextSwitch_cancel hrun, fun j hpoint hcancel hnext =>
      ⟨fun hready hlevel => ?_, fun hready => ?_⟩⟩, rfl, fun j r w hwait => ?_⟩, fun t s => ⟨fun d htimer hdue => ?_, fun d htimer hearly => ?_,
    fun hrun hdue => ⟨fun honce => ?_, fun honce => ?_⟩, fun hearly => ?_, fun d hsys hdue => ⟨s.syswdAgain, rfl, rfl, fun hmode => ?_, fun hmode => ?_⟩,
    fun m v hmode hoff hbit hflag => ?_⟩⟩
  · obtain ⟨hstate1, hrun, hctx⟩ := s.startTask_spec t k.isLt
    have hexec : exec (.taskPlace k) s = .next { s.startTask t k.val with tug := { (s.startTask t k.val).tug with lastCore := t.val } } := by
      refine (congrArg Host.Outcome.next (if_pos hstate)).trans ?_
      rw [hcore]
      exact congrArg Host.Outcome.next (if_pos hfirst)
    generalize s.startTask t k.val = w at hexec hstate1 hrun hctx
    exact ⟨_, hexec, rfl, hstate1, hrun, hctx⟩
  · refine ⟨{ s.setNext t.val (some k.val) with tug := { (s.setNext t.val (some k.val)).tug with lastCore := t.val } }, ?_,
      congrArg TCore.next (State.tcore_setTcore_self ..), rfl, rfl⟩
    refine (congrArg Host.Outcome.next (if_pos hstate)).trans ?_
    rw [hcore]
    dsimp only
    rw [hvictim]
    exact congrArg Host.Outcome.next (if_pos hfirst)
  · change execContextSwitch t s = _
    rw [execContextSwitch, hidle]
  · obtain ⟨hstate, hctx, hqueue⟩ := s.yieldTask_spec t i
    exact ⟨s.yieldTask t i, (exec_contextSwitch hrun hpoint hcancel hnext).trans (congrArg Host.Outcome.next (if_pos ⟨hready, hlevel⟩)),
      fun _ => hstate, hctx, hqueue⟩
  · exact (exec_contextSwitch hrun hpoint hcancel hnext).trans (congrArg Host.Outcome.next (if_neg fun h => hready h.1))
  · obtain ⟨hstate, hnone, hdelay, hregs⟩ := State.waitOver_spec hwait
    exact ⟨fun _ => hstate, hnone, hdelay, hregs⟩
  · exact (exec_timerExpiry htimer).trans (congrArg Host.Outcome.next (if_pos hdue))
  · exact (exec_timerExpiry htimer).trans (congrArg Host.Outcome.next (if_neg (Nat.not_le.2 hearly)))
  · exact (exec_coreWdExpiry hrun hdue).trans (congrArg Host.Outcome.next (if_pos honce))
  · exact (exec_coreWdExpiry hrun hdue).trans (congrArg Host.Outcome.next (if_neg (by rw [honce]; decide)))
  · exact congrArg Host.Outcome.next (if_neg fun h => Nat.not_le.2 hearly h.2)
  · exact (exec_syswdExpiry hsys hdue).trans (congrArg Host.Outcome.next (if_neg hmode))
  · exact (exec_syswdExpiry hsys hdue).trans (congrArg Host.Outcome.next (if_pos hmode))
  · have hone : v.toNat / 2 ^ 0 % 2 ^ 1 = 1 := by
      rw [Nat.pow_zero, Nat.div_one]
      exact of_decide_eq_true ((Nat.testBit_zero v.toNat).symm.trans hbit)
    have hon : (s.mboxCfg m.val v).bit F.tugMboxCfg_en m.val = true := by
      rw [State.bit, State.get_mboxCfg _ _ _ rfl (by decide +kernel), beq_iff_eq]
      exact hone
    have hflag1 : (s.mboxCfg m.val v).get F.tugMboxCfg_flag m.val = v.toNat / 2 ^ 10 % 32 := State.get_mboxCfg _ _ _ rfl (by decide +kernel)
    have howner : (s.mboxCfg m.val v).get F.tugMboxCfg_owner m.val = v.toNat / 2 % 512 := State.get_mboxCfg _ _ _ rfl (by decide +kernel)
    exact ⟨_, congrArg Host.Outcome.next (State.mboxEnable_goes hmode hoff hon (hflag1 ▸ hflag)), hon, howner, hflag1, Tab.get?_put_self .., rfl⟩

end Sys2Proof.Machine
end

section

/-!
PROOFS. The windows of a tug core (O51): mailboxes, exception queue, watchdogs, timers and interrupts between cores.
-/

namespace Sys2Proof.Machine
set_option Elab.async false

/-! ### The addresses of the windows (Table 12.1) -/

/-- The mailbox window: 64 bytes for each mailbox. -/
theorem dReg_mbox (m : Mbox) {off : Nat} (hoff : off + 8 ≤ 64) : dReg (0x02000000 + m.val * 64 + off) 8 = .mbox m.val off := by
  have hm := m.isLt
  have hdiv : (0x02000000 + m.val * 64 + off - 0x02000000) / 64 = m.val := by omega
  have hmod : (0x02000000 + m.val * 64 + off - 0x02000000) % 64 = off := by omega
  unfold dReg
  simp only [hdiv, hmod, Bool.and_eq_true, decide_eq_true_eq]
  rw [if_neg (by omega), if_neg (by omega), if_neg (by omega), if_pos (by omega)]

theorem mboxAddr_aligned (m : Mbox) {off : Nat} (hoff : off % 8 = 0) : (0x02000000 + m.val * 64 + off) % 8 = 0 := by omega

theorem mboxAddr_lt (m : Mbox) {off : Nat} (hoff : off + 8 ≤ 64) : 0x02000000 + m.val * 64 + off < 2 ^ 64 := by
  have hm := m.isLt
  omega

/-! ### A window access that is taken counts as one access of the core -/

/-- Outside HBM and the shared memory an access is counted by the core alone. -/
theorem State.tugAccCount_of_window {a n : Nat} (hw : isWindow a n = true) (s : State) (t : Core) (store : Bool) :
    s.tugAccCount t a n store = s.ccnt t.val (if store then 4 else 3) 1 := by
  unfold isWindow at hw
  unfold State.tugAccCount
  split at hw <;> simp_all

theorem isWindow_mbox (m : Mbox) {off : Nat} (hoff : off + 8 ≤ 64) : isWindow (0x02000000 + m.val * 64 + off) 8 = true := by
  unfold isWindow
  rw [dReg_mbox m hoff]

section access
variable {t : Core} {s : State} {a : Nat} (h : TugIssues t s) (ha : a < 2 ^ 64)
include h

theorem windowStore_trap {v : Word} {cause : Nat} (hr : s.tugStore t a 8 v = .trap s cause) :
    windowStore t a v s = .next (s.trapHere t cause (BitVec.ofNat 64 a)) := by
  rw [windowStore, State.tugRun_of h, hr, State.tugFinish_trap]

theorem windowStore_stall {v : Word} (hr : s.tugStore t a 8 v = .stall) : windowStore t a v s = .next s := by
  rw [windowStore, State.tugRun_of h, hr]
  rfl

theorem windowLoad_trap {rd : RegNo} {cause : Nat} (hr : s.tugLoad t a 8 false = .trap s cause) :
    windowLoad t rd a s = .next (s.trapHere t cause (BitVec.ofNat 64 a)) := by
  rw [windowLoad, State.tugRun_of h, hr, State.tugFinish_trap]

include ha

theorem windowStore_ok {v x : Word} {u : State} (hw : isWindow a 8 = true) (hr : s.tugStore t a 8 v = .ok u x) :
    windowStore t a v s = .next ((u.ccnt t.val 4 1).tugDone t) := by
  rw [windowStore, State.tugRun_of h, hr, State.tugFinish_store, BitVec.toNat_ofNat, Nat.mod_eq_of_lt ha, State.tugAccCount_of_window hw,
    if_pos rfl]

theorem windowLoad_ok {rd : RegNo} {x : Word} {u : State} (hw : isWindow a 8 = true) (hr : s.tugLoad t a 8 false = .ok u x) :
    windowLoad t rd a s = .next (((u.ccnt t.val 3 1).setG (.tug t) rd x).tugDone t) := by
  rw [windowLoad, State.tugRun_of h, hr, State.tugFinish_load, BitVec.toNat_ofNat, Nat.mod_eq_of_lt ha, State.tugAccCount_of_window hw,
    if_neg Bool.false_ne_true]

end access

/-! ### What each window word answers (Table 12.2) -/

section words
variable (t : Core) (m : Mbox) (v : Word) (s : State)

/-- A store to a mailbox word by a task that may use mailboxes. -/
theorem State.tugStore_mbox {off : Nat} (hoff : off + 8 ≤ 64) (hal : off % 8 = 0) (hmay : s.mayMbox t = true) :
    s.tugStore t (0x02000000 + m.val * 64 + off) 8 v =
      if off = 0 then .ok (s.send0Write t v) 0 else if off = 8 then s.send1Write t m.val v else .trap s tcD_FAULT := by
  unfold State.tugStore
  rw [if_neg (fun hne => hne (mboxAddr_aligned m hal)), dReg_mbox m hoff]
  exact if_neg (by simp [hmay])

theorem State.tugStore_mbox_denied {off : Nat} (hoff : off + 8 ≤ 64) (hal : off % 8 = 0) (hmay : s.mayMbox t = false) :
    s.tugStore t (0x02000000 + m.val * 64 + off) 8 v = .trap s tcD_FAULT := by
  unfold State.tugStore
  rw [if_neg (fun hne => hne (mboxAddr_aligned m hal)), dReg_mbox m hoff]
  exact if_pos (.inr hmay)

theorem State.tugStore_send1 (hmay : s.mayMbox t = true) : s.tugStore t (0x02000000 + m.val * 64 + 8) 8 v = s.send1Write t m.val v :=
  s.tugStore_mbox t m v (by decide) rfl hmay

/-- A load of a mailbox word by a task that may use mailboxes. -/
theorem State.tugLoad_mbox {off : Nat} (hoff : off + 8 ≤ 64) (hal : off % 8 = 0) (hmay : s.mayMbox t = true) :
    s.tugLoad t (0x02000000 + m.val * 64 + off) 8 false =
      if off = 0x10 then s.recv0Read t m.val else if off = 0x18 then s.recv1Read t m.val
      else if off = 0x20 then .ok s (BitVec.ofNat 64 (s.mailOf m.val).length) else .trap s tcD_FAULT := by
  unfold State.tugLoad
  rw [if_neg (fun hne => hne (mboxAddr_aligned m hal)), dReg_mbox m hoff]
  exact if_neg (by simp [hmay])

theorem State.tugStore_exqHead (hmay : s.mayExq t = true) : s.tugStore t 0x02010000 8 v = .ok (s.exqFree v) 0 := by
  unfold State.tugStore
  rw [if_neg (by decide), show dReg 0x02010000 8 = .exq 0 from by decide +kernel]
  exact if_pos ⟨rfl, hmay, rfl⟩

theorem State.tugStore_kick : s.tugStore t 0x02020000 8 v = .ok (s.wdRestart t.val) 0 := by
  unfold State.tugStore
  rw [if_neg (by decide), show dReg 0x02020000 8 = .core 0 from by decide +kernel]
  exact (if_neg (by decide)).trans (if_pos rfl)

theorem State.tugStore_timer : s.tugStore t 0x02020008 8 v =
    if s.tsup t = false then .trap s tcD_FAULT else .ok (s.timerSet t v) 0 := by
  unfold State.tugStore
  rw [if_neg (by decide), show dReg 0x02020008 8 = .core 8 from by decide +kernel]
  exact (if_neg (by decide)).trans (if_neg (by decide))

theorem State.tugStore_ipi : s.tugStore t 0x02020010 8 v =
    if s.tsup t = false then .trap s tcD_FAULT else .ok (s.ipiSend v) 0 := by
  unfold State.tugStore
  rw [if_neg (by decide), show dReg 0x02020010 8 = .core 0x10 from by decide +kernel]
  exact (if_neg (by decide)).trans (if_neg (by decide))

theorem State.tugStore_syswd : s.tugStore t 0x02030000 8 v =
    if s.tsup t = true then .ok (s.sysKickWrite v) 0 else .trap s tcD_FAULT := by
  unfold State.tugStore
  rw [if_neg (by decide), show dReg 0x02030000 8 = .syswd 0 from by decide +kernel]
  exact ite_of_iff ⟨fun h => h.2.2, fun h => ⟨rfl, rfl, h⟩⟩ rfl rfl

end words

/-! ### The mailbox reads of the owner (R367) -/

section reads
variable {t : Core} {m : Nat} {s : State}

theorem State.recv0Read_empty (hown : s.running? t.val = some (s.mboxOwner m)) (hmail : s.mailOf m = []) :
    s.recv0Read t m = .ok (s.setLatch m none) 0 := by
  rw [State.recv0Read, if_pos hown, hmail]

theorem State.recv0Read_head {a b : Word} {r : List (Word × Word)} (hown : s.running? t.val = some (s.mboxOwner m))
    (hmail : s.mailOf m = (a, b) :: r) : s.recv0Read t m = .ok (s.setLatch m (some (a, b))) a := by
  rw [State.recv0Read, if_pos hown, hmail]

theorem State.recv1Read_latched {a b : Word} (hown : s.running? t.val = some (s.mboxOwner m)) (hlatch : Tab.get? s.tug.recv m = some (a, b)) :
    s.recv1Read t m = .ok ((s.setMail m (s.mailOf m).tail).setLatch m none) b := by
  rw [State.recv1Read, if_pos hown, hlatch]

theorem State.recv1Read_unlatched (hown : s.running? t.val = some (s.mboxOwner m)) (hlatch : Tab.get? s.tug.recv m = none) :
    s.recv1Read t m = .ok s 0 := by
  rw [State.recv1Read, if_pos hown, hlatch]

end reads

/-! ### The commands -/

section commands
variable {t : Core} {m : Mbox} {rd : RegNo} {v x : Word} {s u : State} (h : TugIssues t s)
include h

theorem exec_send0 (hmay : s.mayMbox t = true) : exec (.send0 t m v) s = .next (((s.send0Write t v).ccnt t.val 4 1).tugDone t) :=
  windowStore_ok h (mboxAddr_lt m (off := 0) (by decide)) (isWindow_mbox m (off := 0) (by decide))
    (s.tugStore_mbox t m v (off := 0) (by decide) rfl hmay)

theorem exec_send1 (hmay : s.mayMbox t = true) (hr : s.send1Write t m.val v = .ok u x) :
    exec (.send1 t m v) s = .next ((u.ccnt t.val 4 1).tugDone t) :=
  windowStore_ok h (mboxAddr_lt m (by decide)) (isWindow_mbox m (by decide)) ((s.tugStore_send1 t m v hmay).trans hr)

theorem exec_recv0 (hmay : s.mayMbox t = true) (hr : s.recv0Read t m.val = .ok u x) :
    exec (.recv0 t rd m) s = .next (((u.ccnt t.val 3 1).setG (.tug t) rd x).tugDone t) :=
  windowLoad_ok h (mboxAddr_lt m (by decide)) (isWindow_mbox m (by decide)) ((s.tugLoad_mbox t m (by decide) rfl hmay).trans hr)

theorem exec_recv1 (hmay : s.mayMbox t = true) (hr : s.recv1Read t m.val = .ok u x) :
    exec (.recv1 t rd m) s = .next (((u.ccnt t.val 3 1).setG (.tug t) rd x).tugDone t) :=
  windowLoad_ok h (mboxAddr_lt m (by decide)) (isWindow_mbox m (by decide)) ((s.tugLoad_mbox t m (by decide) rfl hmay).trans hr)

end commands

/-- Settles O51: each window word's answer of Table 12.2, counted as one access of the core where it is taken. -/
theorem tugWindows : Obligations.TugWindows := by
  intro t m rd v s h
  refine ⟨fun hmay => ⟨exec_send0 h hmay, fun hno => ?_, fun htakes hroom => ?_, fun htakes hfull => ?_, fun hown hmail => ?_,
    fun a b r hown hmail => ?_, fun a b hown hlatch => ?_, fun hown hlatch => ?_, fun hnot => ?_⟩, fun hmay => ?_, fun hmay => ?_, ?_,
    fun hsup => ⟨?_, ?_, ?_⟩, fun hsup => ⟨?_, ?_⟩⟩
  · exact exec_send1 (x := 0) h hmay (if_pos hno)
  · exact exec_send1 (x := 0) h hmay ((if_neg (by simp [htakes])).trans (if_neg (by omega)))
  · exact windowStore_stall h ((s.tugStore_send1 t m v hmay).trans ((if_neg (by simp [htakes])).trans (if_pos hfull)))
  · exact exec_recv0 h hmay (State.recv0Read_empty hown hmail)
  · exact exec_recv0 h hmay (State.recv0Read_head hown hmail)
  · exact exec_recv1 h hmay (State.recv1Read_latched hown hlatch)
  · exact exec_recv1 h hmay (State.recv1Read_unlatched hown hlatch)
  · exact windowLoad_trap h ((s.tugLoad_mbox t m (by decide) rfl hmay).trans (if_neg hnot))
  · exact windowStore_trap h (s.tugStore_mbox_denied t m v (off := 0) (by decide) rfl hmay)
  · exact windowStore_ok h (by decide) (by decide +kernel) (s.tugStore_exqHead t v hmay)
  · exact windowStore_ok h (by decide) (by decide +kernel) (s.tugStore_kick t 0)
  · exact windowStore_ok h (by decide) (by decide +kernel) ((s.tugStore_timer t v).trans (if_neg (by simp [hsup])))
  · exact windowStore_ok h (by decide) (by decide +kernel) ((s.tugStore_ipi t v).trans (if_neg (by simp [hsup])))
  · exact windowStore_ok h (by decide) (by decide +kernel) ((s.tugStore_syswd t v).trans (if_pos hsup))
  · exact windowStore_trap h ((s.tugStore_timer t v).trans (if_pos hsup))
  · exact windowStore_trap h ((s.tugStore_syswd t v).trans (if_neg (by simp [hsup])))

end Sys2Proof.Machine
end

section

/-!
PROOFS. Control instructions of the command engines: TASK.CREATE, TASK.CANCEL, TASK.SIGNAL, MBOX.POST (O49).
-/

namespace Sys2Proof.Machine
set_option Elab.async false

/-! ### A control instruction that starts ends as its work does

`hexec` says that the command is the control instruction of its opcode; it holds by definition. -/

section direct
variable {op n m : Nat} {p : Bool} {f : CtlFn} {iss : Issuer} {tag : BitVec 6} {w : List Word} {s s1 t : State} {c : Ctl} {i : Instr}
  (h : CtlIssues op iss tag w s c s1) (hexec : exec i s = .next (s.direct iss op tag w)) (hop : ctlOp op = some (n, m, p, f))
include h hexec hop

theorem CtlIssues.ends {st pr : Nat} {res : List Word} (hf : f iss c s1 = .done t st pr res) :
    exec i s = .next (t.finish iss c st pr res) :=
  hexec.trans (congrArg Host.Outcome.next (State.direct_issues h hop hf))

theorem CtlIssues.waits {d : Ctl} (hf : f iss c s1 = .wait t d) : exec i s = .next (t.park iss d) :=
  hexec.trans (congrArg Host.Outcome.next (State.direct_parks h hop hf))

end direct

/-! ### TASK.CREATE -/

/-- A new task takes the next generation, and no event flag (R355). -/
def State.taskNew (s : State) (k : Nat) : State :=
  (s.set F.tugTaskState_gen k (s.get F.tugTaskState_gen k + 1)).set F.tugTaskState_flags k 0

theorem State.gen_taskNew (s : State) (k : Nat) : (s.taskNew k).get F.tugTaskState_gen k = (s.get F.tugTaskState_gen k + 1) % 256 := by
  rw [State.taskNew, State.get_set_field _ F.tugTaskState_flags F.tugTaskState_gen k _ rfl (by decide) (by decide),
    State.get_set_self _ _ _ _ (by decide)]
  rfl

section create
variable {iss : Issuer} {c : Ctl} {s : State}

theorem opTaskCreate_bad {i : Nat} (hbad : taskBad c.w = some i) : opTaskCreate iss c s = ctlBad s i := by
  simp only [opTaskCreate, hbad]

theorem opTaskCreate_full (hdescr : taskBad c.w = none) (hnew : wb c.w 0 9 = false)
    (hfree : (List.range 512).find? (fun k => s.taskState k == tFREE) = none) : opTaskCreate iss c s = ctlEnd s stNO_ROOM := by
  simp only [opTaskCreate, hdescr, hnew, hfree, Bool.false_eq_true, if_false]

theorem opTaskCreate_new {k : Nat} (hdescr : taskBad c.w = none) (hnew : wb c.w 0 9 = false)
    (hfree : (List.range 512).find? (fun k => s.taskState k == tFREE) = some k) :
    opTaskCreate iss c s = ctlOk ((s.taskNew k).taskLoad k c.w) [((s.taskNew k).taskLoad k c.w).taskHandle k] := by
  simp only [opTaskCreate, hdescr, hnew, hfree, Bool.false_eq_true, if_false, State.taskHandle_taskLoad]
  rfl

end create

/-! ### TASK.CANCEL and TASK.SIGNAL -/

section cancel
variable {iss : Issuer} {c : Ctl} {s : State}

theorem opTaskCancel_unknown (hno : s.taskOf (wd c.w 0) = none) : opTaskCancel iss c s = ctlEnd s stBAD_HANDLE := by
  simp only [opTaskCancel, hno]

/-- A cancelled task is freed: its record goes (R356). -/
def State.taskFreed (s : State) (k : Nat) : State :=
  { s.set F.tugTaskState_state k tFREE with tug := { s.tug with tasks := Tab.del s.tug.tasks k } }

theorem State.taskState_taskFreed (s : State) (k : Nat) : (s.taskFreed k).taskState k = tFREE := State.get_set_self _ _ _ _ (by decide)

/-- A running task stops at once where its core is at a preemption point, and else at its next one (R356). -/
def State.taskStop (s : State) (k : Nat) : State :=
  (s.coreOf k).elim (s.setTask k { s.task k with cancel := true }) fun t =>
    if s.preemptPoint t then s.cancelHere t k else s.setTask k { s.task k with cancel := true }

theorem State.taskStop_later {s : State} {k : Nat} (hno : ∀ t, s.coreOf k = some t → s.preemptPoint t = false) :
    s.taskStop k = s.setTask k { s.task k with cancel := true } := by
  unfold State.taskStop
  cases hcore : s.coreOf k with
  | none => rfl
  | some t => exact if_neg (by simp [hno t hcore])

theorem opTaskCancel_known {k : Nat} (hk : s.taskOf (wd c.w 0) = some k) : opTaskCancel iss c s = ctlEnd (
    if s.taskState k = tCANCELLED then s.taskFreed k else if s.taskState k = tRUNNING then s.taskStop k else s.cancelTask k 0) stOK := by
  simp only [opTaskCancel, hk, State.taskStop]
  cases s.coreOf k <;> rfl

theorem opTaskSignal_unknown (hno : s.taskOf (wd c.w 0) = none) : opTaskSignal iss c s = ctlEnd s stBAD_HANDLE := by
  simp only [opTaskSignal, hno]

theorem opTaskSignal_known {k : Nat} (hk : s.taskOf (wd c.w 0) = some k) :
    opTaskSignal iss c s = ctlEnd (s.signal k (BitVec.ofNat 32 (wf c.w 1 0 32))) stOK := by
  simp only [opTaskSignal, hk]

end cancel

/-- Settles O49: the descriptor and the first FREE number decide TASK.CREATE, the task's state TASK.CANCEL, the mailbox MBOX.POST. -/
theorem taskCommands : Obligations.TaskCommands := by
  intro iss tag w s c s1
  refine ⟨fun h hnew => ?_, fun h => ?_, fun h => ?_, fun h => ?_⟩ <;> obtain rfl := h.operands
  · refine ⟨fun i hbad => h.ends rfl rfl (opTaskCreate_bad hbad), fun hdescr => ⟨fun hfull => ?_, fun k hfree => ?_⟩⟩
    · exact h.ends rfl rfl (opTaskCreate_full hdescr hnew hfull)
    · exact ⟨s1.taskNew k, s1.gen_taskNew k, h.ends rfl rfl (opTaskCreate_new hdescr hnew hfree)⟩
  · refine ⟨fun hno => h.ends rfl rfl (opTaskCancel_unknown hno), fun k hk => ⟨fun hstate => ?_, fun hstate hcore => ?_,
      fun hnc hnr => ?_⟩⟩
    · refine ⟨s1.taskFreed k, h.ends rfl rfl ((opTaskCancel_known hk).trans ?_), s1.taskState_taskFreed k⟩
      rw [if_pos hstate]
      rfl
    · refine h.ends rfl rfl ((opTaskCancel_known hk).trans ?_)
      rw [if_neg (by rw [hstate]; decide), if_pos hstate, State.taskStop_later hcore]
      rfl
    · refine h.ends rfl rfl ((opTaskCancel_known hk).trans ?_)
      rw [if_neg hnc, if_neg hnr]
      rfl
  · exact ⟨fun hno => h.ends rfl rfl (opTaskSignal_unknown hno),
      fun k hk => h.ends rfl rfl (opTaskSignal_known hk)⟩
  · refine ⟨fun hno => ?_, fun hmine hno => ?_, fun hmine htakes hfull => ?_, fun hmine htakes hroom => ?_⟩
    · exact h.ends rfl rfl (if_neg hno)
    · exact h.ends rfl rfl ((if_pos hmine).trans (if_pos hno))
    · exact h.waits rfl rfl ((if_pos hmine).trans ((if_neg (by simp [htakes])).trans (if_pos hfull)))
    · exact h.ends rfl rfl ((if_pos hmine).trans ((if_neg (by simp [htakes])).trans (if_neg (by omega))))

end Sys2Proof.Machine
end

section

/-!
PROOFS. Control instructions of the shapers and gates, of the harbour log and of the HBM buffers (O48).
-/

namespace Sys2Proof.Machine
set_option Elab.async false

/-! ### TM.GCL (R249, R250) -/

/-- A number of whole cycles that rounds `x` up. -/
theorem le_roundUp (x : Nat) {n : Nat} (hn : 0 < n) : x ≤ (x + n - 1) / n * n := by
  have hdiv := Nat.div_add_mod' (x + n - 1) n
  have hmod := Nat.mod_lt (x + n - 1) hn
  omega

/-- A list starts at its base time, or at the first later start of a cycle that is 1,000 ns away. -/
theorem changeTime_spec {l : GateList} (now : Nat) (hcyc : 0 < glCycle l) :
    now + 65536000 ≤ changeTime l now ∧ glBase l ≤ changeTime l now ∧ (changeTime l now - glBase l) % glCycle l = 0 := by
  unfold changeTime
  dsimp only
  split
  case isTrue hsoon => exact ⟨hsoon, Nat.le_refl _, by rw [Nat.sub_self, Nat.zero_mod]⟩
  case isFalse hlate =>
    have hmult : (now + 1000 * 65536 - glBase l + glCycle l - 1) / glCycle l * glCycle l % glCycle l = 0 := Nat.mul_mod_left ..
    have hround := le_roundUp (now + 1000 * 65536 - glBase l) hcyc
    generalize (now + 1000 * 65536 - glBase l + glCycle l - 1) / glCycle l * glCycle l = up at *
    exact ⟨by omega, Nat.le_add_right .., by rw [Nat.add_sub_cancel_left]; exact hmult⟩

/-- An admitted list waits for its change time. -/
def State.gclAdmit (s : State) (p : Nat) (l : GateList) (t : Nat) : State :=
  (s.setGate p { s.gate p with admin := some l, change16 := some t }).setBit F.tmPortStatus_gclPending p true

theorem State.gate_gclAdmit (s : State) (p : Nat) (l : GateList) (t : Nat) :
    (s.gclAdmit p l t).gate p = { s.gate p with admin := some l, change16 := some t } := State.gate_setGate_self ..

theorem State.gclPending_gclAdmit (s : State) (p : Nat) (l : GateList) (t : Nat) :
    (s.gclAdmit p l t).bit F.tmPortStatus_gclPending p = true := State.bit_setBit_self _ _ _ true (by decide) rfl

/-- The list that TM.GCL's words and the memory they name give. -/
def gclList (w : List Word) (es : List Word) : GateList :=
  ⟨wd w 1, wf w 2 0 32, wf w 3 0 32, wf w 3 32 16, wf w 4 0 32, es⟩

/-- TM.GCL whose words and memory are allowed is decided by the entries read (R249). -/
theorem opTmGcl_read {iss : Issuer} {c : Ctl} {s : State} (hnew : c.started = false) (hp : wf c.w 0 0 8 < 130)
    (hns : wf c.w 2 0 32 < 1000000000) (hcyc : 1000 ≤ wf c.w 3 0 32) (hn : 1 ≤ wf c.w 4 32 9) (hn2 : wf c.w 4 32 9 ≤ 256)
    (hmem : s.ctlMemOk iss (wd c.w 5) (8 * wf c.w 4 32 9) = true) :
    let r := s.ctlRead iss (wd c.w 5) (8 * wf c.w 4 32 9)
    let es := words64 r.2 (wf c.w 4 32 9)
    let t := changeTime (gclList c.w es) (r.1.baseT16 (r.1.gateBase (wf c.w 0 0 8)))
    let u := r.1.gclAdmit (wf c.w 0 0 8) (gclList c.w es) t
    opTmGcl iss c s = if es.all gclEntryOk = false then ctlBad r.1 5
      else if wb c.w 0 8 then ctlWait u { c with note := t, changed := true } else ctlOk u [t / 65536 / 1000000000, t / 65536 % 1000000000] := by
  intro r es t u
  have hn0 : ¬(wf c.w 4 32 9 = 0 ∨ 256 < wf c.w 4 32 9) := by omega
  unfold opTmGcl
  dsimp only
  rw [if_neg (by simp [hnew]), if_neg (Nat.not_le.2 hp), if_neg (Nat.not_le.2 hns), if_neg (Nat.not_lt.2 hcyc), if_neg hn0,
    if_neg (by simp [hmem])]
  rfl

/-! ### The harbour log's partitions (R404, R407, R409) -/

section log
variable {iss : Issuer} {c : Ctl} {s : State} {p : Nat}

theorem opLogSeal_unknown (hw : wd c.w 0 ≠ 0) (hno : s.partOf (wd c.w 0) = none) : opLogSeal iss c s = ctlEnd s stBAD_HANDLE := by
  simp only [opLogSeal, if_neg hw, hno]

theorem opLogSeal_one (hw : wd c.w 0 ≠ 0) (hp : s.partOf (wd c.w 0) = some p) :
    ∃ n, opLogSeal iss c s = ctlOk (s.sealPart p sgCOMMANDED) [n] := by
  simp only [opLogSeal, if_neg hw, hp]
  exact ⟨_, rfl⟩

theorem opLogSeal_all (hw : wd c.w 0 = 0) :
    ∃ n, opLogSeal iss c s = ctlOk ((List.range 16).foldl (fun s p => s.sealPart p sgCOMMANDED) s) [n] :=
  ⟨_, if_pos hw⟩

theorem opLogPartOpen_scanning (hscan : s.get F.logStatus_state 0 = 1) : opLogPartOpen iss c s = ctlWait s c := if_pos hscan

theorem opLogPartOpen_bad {i : Nat} (hscan : s.get F.logStatus_state 0 ≠ 1) (hbad : s.partBad c.w = some i) :
    opLogPartOpen iss c s = ctlBad s i := by
  simp only [opLogPartOpen, if_neg hscan, hbad]

/-- A partition that is opened with its words, before it resumes what the directory lists of its tag (R407). -/
def State.partNew (s : State) (p : Nat) (w : List Word) : State :=
  let v : Part := { gen := ((s.part p).gen + 1) % 256, w0 := w.getD 0 0, w1 := w.getD 1 0, w2 := w.getD 2 0, tag := w.getD 3 0,
                    bucket := wf w 2 32 16 * 2 ^ 20 * 8000, bucketNs := s.ns }
  ((s.setPart p v).set F.logPartStatus_state p 1).setBit F.logPartStatus_stalled p false

theorem State.state_partNew (s : State) (p : Nat) (w : List Word) : (s.partNew p w).get F.logPartStatus_state p = 1 := by
  unfold State.partNew State.setBit
  rw [State.get_set_field _ F.logPartStatus_stalled F.logPartStatus_state p _ rfl (by decide) (by decide),
    State.get_set_self _ _ _ _ (by decide)]
  rfl

theorem State.part_partNew (s : State) (p : Nat) (w : List Word) :
    ((s.partNew p w).part p).gen = ((s.part p).gen + 1) % 256 ∧ ((s.partNew p w).part p).tag = w.getD 3 0 := by
  have hpart : (s.partNew p w).part p = _ := State.part_setPart_self ..
  rw [hpart]
  exact ⟨rfl, rfl⟩

/-- A tag that the directory does not list has nothing to resume. -/
theorem State.partResume_nil (s : State) (p : Nat) : s.partResume p [] = s := rfl

theorem opLogPartOpen_opens (hscan : s.get F.logStatus_state 0 ≠ 1) (hgood : s.partBad c.w = none)
    (hp : (List.range 16).find? (fun p => s.get F.logPartStatus_state p == 0) = some p)
    (hroom : s.segMibAll + segMib (wf c.w 0 4 4) + 1024 ≤ s.get F.bufHbmPool_size 1 * 1024) :
    opLogPartOpen iss c s = ctlOk ((s.partNew p c.w).partResume p (s.dirOf (c.w.getD 3 0))) [handle 5 (((s.part p).gen + 1) % 256) p] := by
  simp only [opLogPartOpen, if_neg hscan, hgood, hp]
  exact if_neg (Nat.not_lt.2 hroom)

theorem opLogPartClose_unknown (hno : s.partOf (wd c.w 0) = none) : opLogPartClose iss c s = ctlEnd s stBAD_HANDLE := by
  simp only [opLogPartClose, hno]

theorem opLogPartClose_known (hp : s.partOf (wd c.w 0) = some p) :
    let t := (s.sealPart p sgCOMMANDED).set F.logPartStatus_state p 2
    opLogPartClose iss c s = if (s.part p).keep = true ∧ (s.segsOf p).isEmpty = false then ctlEnd s stDENIED
      else ctlEnd (if (t.segsOf p).isEmpty then t.set F.logPartStatus_state p 0 else t) stOK := by
  simp only [opLogPartClose, hp]

end log

/-! ### HBM buffers (R215, R216) -/

section buffers
variable {iss : Issuer} {c : Ctl} {s : State}

theorem opBufAlloc_none {t : State} (h : s.hbAlloc (wf c.w 0 0 1) (s.issMaster iss) false = (t, none)) :
    opBufAlloc iss c s = ctlEnd t stPOOL_EMPTY := by
  simp only [opBufAlloc, h]

theorem opBufAlloc_some {t : State} {x : Nat} (h : s.hbAlloc (wf c.w 0 0 1) (s.issMaster iss) false = (t, some x)) :
    opBufAlloc iss c s = ctlOk t [hbId (wf c.w 0 0 1) x, t.hbAddr (wf c.w 0 0 1) x] := by
  simp only [opBufAlloc, h]

theorem opBufFree_unknown (hno : s.hbOf (wd c.w 0) = none) : opBufFree iss c s = ctlBad s 0 := by simp only [opBufFree, hno]

theorem opBufFree_known {h x : Nat} (hb : s.hbOf (wd c.w 0) = some (h, x)) :
    opBufFree iss c s = ctlEnd (s.hbFree h x (s.issMaster iss)).2 (s.hbFree h x (s.issMaster iss)).1 := by
  simp only [opBufFree, hb]

theorem opBufGive_unknown (hno : s.hbOf (wd c.w 0) = none) : opBufGive iss c s = ctlBad s 0 := by simp only [opBufGive, hno]

theorem opBufGive_known {h x : Nat} (hb : s.hbOf (wd c.w 0) = some (h, x)) : opBufGive iss c s =
    ctlEnd (s.hbGive h x (s.issMaster iss) (wf c.w 1 0 8)).2 (s.hbGive h x (s.issMaster iss) (wf c.w 1 0 8)).1 := by
  simp only [opBufGive, hb]

variable {h x req dest : Nat} {b : HbmBuf}

theorem State.hbGive_owner (hb : Tab.get? s.buf.hbmBufs (hbKey h x) = some b) (hrefc : b.refc = false) (hown : b.mid = req) :
    s.hbGive h x req dest = (stOK, { s with buf := { s.buf with hbmBufs := Tab.put s.buf.hbmBufs (hbKey h x) { b with mid := dest } } }) := by
  simp only [State.hbGive, hb, hrefc, hown, Bool.false_eq_true, if_false, ne_eq, not_true_eq_false]

theorem State.hbGive_other (hb : Tab.get? s.buf.hbmBufs (hbKey h x) = some b) (hnot : b.refc = true ∨ b.mid ≠ req) :
    (s.hbGive h x req dest).1 = stNOT_OWNER := by
  simp only [State.hbGive, hb]
  split
  · rfl
  · rw [if_pos (hnot.resolve_left ‹_›)]

theorem State.hbGive_free (hb : Tab.get? s.buf.hbmBufs (hbKey h x) = none) : (s.hbGive h x req dest).1 = stALREADY_FREE := by
  simp only [State.hbGive, hb]

end buffers

/-- A control instruction that an issuer starts now has not started before. -/
theorem CtlTaken.fresh {op : Nat} {iss : Issuer} {tag : BitVec 6} {w : List Word} {s s1 : State} {c : Ctl}
    (h : CtlTaken op iss tag w s c s1) : c.started = false := by
  rw [h.ctl]
  exact (s.directCtl_fresh iss op tag.toNat w).2.1

/-- Settles O48: each command's answer as its operand words, its handle or its owner decide. -/
theorem shaperLogAndBufferCommands : Obligations.ShaperLogAndBufferCommands := by
  refine ⟨fun iss tag w s c s1 => ⟨fun h => ?shaper, fun h => ?gcl, fun l now hcyc => changeTime_spec now hcyc⟩,
    fun iss tag w s c s1 => ⟨fun h => ?logSeal, fun h => ?partOpen, fun h => ?partClose⟩,
    fun iss tag w s c s1 => ⟨fun h => ?alloc, fun h => ?free, fun h => ?give⟩⟩
    <;> obtain rfl := h.operands
  case shaper => exact h.ends rfl rfl rfl
  case gcl =>
    refine ⟨h.fresh, fun hp hns hcyc hn hn2 hmem => ?_⟩
    have hop := opTmGcl_read h.fresh hp hns hcyc hn hn2 hmem
    refine ⟨fun hbad => h.ends rfl rfl (hop.trans (if_pos hbad)), fun hgood => ?_⟩
    generalize s1.ctlRead iss (wd c.w 5) (8 * wf c.w 4 32 9) = r at *
    refine ⟨r.1.gclAdmit _ _ _, congrArg Gate.admin (State.gate_gclAdmit ..), congrArg Gate.change16 (State.gate_gclAdmit ..), State.gclPending_gclAdmit ..,
      fun hnow => ?_, fun hwait => ?_⟩
    · exact h.ends rfl rfl (hop.trans ((if_neg (by simp [hgood])).trans (if_neg (by simp [hnow]))))
    · exact h.waits rfl rfl (hop.trans ((if_neg (by simp [hgood])).trans (if_pos hwait)))
  case logSeal =>
    refine ⟨fun hw => ?_, fun p hw hp => ?_, fun hw hno => h.ends rfl rfl (opLogSeal_unknown hw hno)⟩
    · obtain ⟨n, hn⟩ := opLogSeal_all (iss := iss) (s := s1) hw
      exact ⟨n, h.ends rfl rfl hn⟩
    · obtain ⟨n, hn⟩ := opLogSeal_one (iss := iss) hw hp
      exact ⟨n, h.ends rfl rfl hn⟩
  case partOpen =>
    refine ⟨fun hscan => h.waits rfl rfl (opLogPartOpen_scanning hscan), fun hscan => ⟨fun i hbad =>
      h.ends rfl rfl (opLogPartOpen_bad hscan hbad), fun hgood p hp hroom => ?_⟩⟩
    have hopen := h.ends (i := .logPartOpen iss tag c.w) rfl rfl (opLogPartOpen_opens hscan hgood hp hroom)
    refine ⟨fun hdir => ⟨s1.partNew p c.w, ?_, s1.state_partNew p c.w, s1.part_partNew p c.w⟩, _, hopen⟩
    rw [hdir, State.partResume_nil] at hopen
    exact hopen
  case partClose =>
    refine ⟨fun hno => h.ends rfl rfl (opLogPartClose_unknown hno), fun p hp => ?_⟩
    have hop := opLogPartClose_known (iss := iss) hp
    refine ⟨fun hkept => h.ends rfl rfl (hop.trans (if_pos hkept)), fun hnot => ⟨fun hsegs => ?_, fun hsegs => ?_⟩⟩
    · refine h.ends rfl rfl (hop.trans ((if_neg hnot).trans ?_))
      rw [if_neg (by simp [hsegs])]
      rfl
    · refine h.ends rfl rfl (hop.trans ((if_neg hnot).trans ?_))
      rw [if_pos hsegs]
      rfl
  case alloc =>
    intro t x halloc
    refine ⟨fun hx => ?_, fun n hx => ?_⟩ <;> subst hx
    · exact h.ends rfl rfl (opBufAlloc_none halloc)
    · exact h.ends rfl rfl (opBufAlloc_some halloc)
  case free =>
    exact ⟨fun hno => h.ends rfl rfl (opBufFree_unknown hno), fun hb x hknown => h.ends rfl rfl (opBufFree_known hknown)⟩
  case give =>
    refine ⟨fun hno => h.ends rfl rfl (opBufGive_unknown hno), fun hb x hknown => ?_⟩
    have hop := h.ends (i := .bufGive iss tag c.w) rfl rfl (opBufGive_known hknown)
    refine ⟨fun b hbuf hrefc hown => ?_, fun b hbuf hnot => ?_, fun hfree => ?_⟩
    · rw [State.hbGive_owner hbuf hrefc hown] at hop
      exact ⟨_, hop, Tab.get?_put_self .., rfl⟩
    · rw [State.hbGive_other hbuf hnot] at hop
      exact ⟨_, hop⟩
    · rw [State.hbGive_free hfree] at hop
      exact ⟨_, hop⟩

end Sys2Proof.Machine
end

section

/-!
PROOFS. Control instructions of the time bases: TIME.MEAS, TIME.MASTER, TIME.ACCEPT, TIME.XG_OPEN, TIME.XG_CLOSE (O47).
-/

namespace Sys2Proof.Machine
set_option Elab.async false

/-- A command of a base that exists is that base's work. -/
theorem baseOp_of {c : Ctl} (hb : wf c.w 0 0 4 < 8) (s : State) (f : Nat → CtlOut) : baseOp c s f = f (wf c.w 0 0 4) :=
  if_neg (Nat.not_le.2 hb)

/-! ### TIME.ACCEPT (R310, R314) -/

/-- What TIME.ACCEPT with action `a` makes of a base (R310, R314). -/
def State.timeAccept (s : State) (b a : Nat) : CtlOut :=
  if s.servo b = sSUSPECT then ctlEnd (s.acceptPath b) stOK
  else if s.heldJump b then
    ctlEnd (if a = 2 then s.lock b (s.theta b) else s.setBase b { s.base b with accept := some (decide (a = 0)) }) stOK
  else ctlBad s 0

theorem opTimeAccept_of {iss : Issuer} {c : Ctl} {s : State} {a : Nat} (hb : wf c.w 0 0 4 < 8) (ha : wf c.w 0 4 2 = a) (ha3 : a ≠ 3) :
    opTimeAccept iss c s = s.timeAccept (wf c.w 0 0 4) a := by
  unfold opTimeAccept
  rw [baseOp_of hb]
  dsimp only
  rw [ha, if_neg ha3]
  rfl

/-- The rows of TIME.ACCEPT fix their actions. -/
theorem exec_timeAccepts (iss : Issuer) (tag : BitVec 6) (w : List Word) (s : State) :
    ∀ r ∈ [(Instr.timeAcceptStep, 0), (.timeAcceptSlew, 1), (.timeAcceptKeep, 2)],
      r.2 ≠ 3 ∧ exec (r.1 iss tag w) s = .next (s.direct iss 0x0C2 tag (w0With 4 2 r.2 w)) := by
  simp only [List.forall_mem_cons]
  exact ⟨⟨by decide, rfl⟩, ⟨by decide, rfl⟩, ⟨by decide, rfl⟩, List.forall_mem_nil _⟩

/-- Only a base in HOLDOVER holds a jump, so one that is suspected holds none. -/
theorem servo_ne_suspect_of_holdover {s : State} {b : Nat} (h : s.servo b = sHOLDOVER) : s.servo b ≠ sSUSPECT := by
  rw [h]
  decide

/-! ### Cross-check groups (R313) -/

/-- A group is opened with its members, under a new generation. -/
def State.xgOpened (s : State) (g m : Nat) : State :=
  ((s.setXg g { gen := ((s.xg g).gen + 1) % 256 }).set F.timeXgCfg_members g m).setBit F.timeXgCfg_en g true

theorem State.xgOpened_spec (s : State) (g : Nat) {m : Nat} (hm : m < 256) : (s.xgOpened g m).get F.timeXgCfg_members g = m ∧
    (s.xgOpened g m).bit F.timeXgCfg_en g = true ∧ ((s.xgOpened g m).xg g).gen = ((s.xg g).gen + 1) % 256 := by
  unfold State.xgOpened
  refine ⟨?_, State.bit_setBit_self _ _ _ true (by decide) rfl, congrArg Xg.gen (Tab.getD_put_self ..)⟩
  rw [State.setBit, State.get_set_field _ F.timeXgCfg_en F.timeXgCfg_members g _ rfl (by decide) (by decide),
    State.get_set_self _ _ _ _ (by decide)]
  exact Nat.mod_eq_of_lt hm

section groups
variable {iss : Issuer} {c : Ctl} {s : State}

theorem opTimeXgOpen_few (hfew : ((List.range 8).filter (fun b => (wf c.w 0 0 8).testBit b)).length < 2) :
    opTimeXgOpen iss c s = ctlBad s 0 := if_pos (.inl hfew)

/-- Two or more bases of no group may make one. -/
theorem xgOpen_may {l : List Nat} (hlen : 2 ≤ l.length) (halone : ∀ b ∈ l, s.groupOf b = none) :
    ¬(l.length < 2 ∨ l.any (fun b => (s.groupOf b).isSome) = true) := by
  rintro (hfew | hany)
  · omega
  · obtain ⟨b, hb, hsome⟩ := List.any_eq_true.1 hany
    rw [halone b hb] at hsome
    cases hsome

variable (hlen : 2 ≤ ((List.range 8).filter (fun b => (wf c.w 0 0 8).testBit b)).length)
  (halone : ∀ b ∈ (List.range 8).filter (fun b => (wf c.w 0 0 8).testBit b), s.groupOf b = none)
include hlen halone

theorem opTimeXgOpen_full (hfree : (List.range 4).find? (fun g => !(s.bit F.timeXgCfg_en g)) = none) :
    opTimeXgOpen iss c s = ctlEnd s stNO_ROOM := by
  simp only [opTimeXgOpen, if_neg (xgOpen_may hlen halone), hfree]

theorem opTimeXgOpen_opens {g : Nat} (hfree : (List.range 4).find? (fun g => !(s.bit F.timeXgCfg_en g)) = some g) :
    opTimeXgOpen iss c s = ctlOk (s.xgOpened g (wf c.w 0 0 8)) [handle 6 (((s.xg g).gen + 1) % 256) g] := by
  simp only [opTimeXgOpen, if_neg (xgOpen_may hlen halone), hfree]
  rfl

end groups

/-- Settles O47: the state of the base, or of the group, decides each command (R308 to R314). -/
theorem timeCommands : Obligations.TimeCommands := by
  intro iss tag w s c s1 b
  refine ⟨fun h hb => ?meas, fun h hb => ?master, fun r hr h hbase hact hb => ?accept, fun h => ?xgOpen, fun h => ?xgClose⟩
  case meas =>
    obtain rfl := h.operands
    exact ⟨fun hsrc => h.ends rfl rfl ((baseOp_of hb ..).trans (if_pos hsrc)),
      fun hsrc => h.ends rfl rfl ((baseOp_of hb ..).trans (if_neg (not_not_intro hsrc)))⟩
  case master =>
    obtain rfl := h.operands
    have hrun := baseOp_of hb s1 fun b => ctlEnd (if (s1.base b).running then s1.holdover b hMASTER false else s1) stOK
    refine ⟨fun hrunning => h.ends rfl rfl (hrun.trans ?_), fun hrunning => h.ends rfl rfl (hrun.trans ?_)⟩
    · rw [if_neg (by simp [b, hrunning])]
      rfl
    · rw [if_pos hrunning]
      rfl
  case accept =>
    obtain ⟨hthree, hexec⟩ := exec_timeAccepts iss tag w s r hr
    have hop := opTimeAccept_of (iss := iss) (s := s1) (c := c) (a := r.2) (by rw [h.operands, hbase]; exact hb) (by rw [h.operands, hact]) hthree
    rw [h.operands, hbase] at hop
    refine ⟨fun hsus => h.ends hexec rfl (hop.trans (if_pos hsus)), fun hhold hjump => ?_, fun hsus hjump => ?_⟩
    · have hsus := servo_ne_suspect_of_holdover hhold
      refine ⟨fun hkeep => h.ends hexec rfl (hop.trans ((if_neg hsus).trans ((if_pos hjump).trans ?_))), fun hgo =>
        h.ends hexec rfl (hop.trans ((if_neg hsus).trans ((if_pos hjump).trans ?_)))⟩
      · rw [if_pos hkeep]
        rfl
      · rw [if_neg hgo]
        rfl
    · exact h.ends hexec rfl (hop.trans ((if_neg hsus).trans (if_neg (by simp [hjump]))))
  case xgOpen =>
    obtain rfl := h.operands
    have hm : wf c.w 0 0 8 < 256 := Nat.mod_lt _ (by decide)
    refine ⟨fun hfew => h.ends rfl rfl (opTimeXgOpen_few hfew), fun hlen halone => ⟨fun hfree =>
      h.ends rfl rfl (opTimeXgOpen_full hlen halone hfree), fun g hfree => ⟨s1.xgOpened g (wf c.w 0 0 8), ?_, ?_⟩⟩⟩
    · have hspec := s1.xgOpened_spec g hm
      rw [hspec.2.2]
      exact h.ends rfl rfl (opTimeXgOpen_opens hlen halone hfree)
    · exact s1.xgOpened_spec g hm
  case xgClose =>
    obtain rfl := h.operands
    exact ⟨fun hmine => ⟨_, h.ends rfl rfl (if_pos hmine), State.bit_setBit_self _ _ _ false (by decide) rfl⟩,
      fun hnot => h.ends rfl rfl (if_neg hnot)⟩

end Sys2Proof.Machine
end

section

/-!
PROOFS. Control instructions of objects, programs and generations: OBJ.WRITE, OBJ.READ, PROG.LOAD, GEN.SWAP (O45).
-/

namespace Sys2Proof.Machine
set_option Elab.async false

/-! ### Objects (R339) -/

/-- Clearing a parity mark changes the tables alone, and no object. -/
theorem State.unbad_spec (s : State) (kind n : Nat) :
    (s.unbad kind n).tab.objs = s.tab.objs ∧ s.unbad kind n = { s with tab := (s.unbad kind n).tab } := by
  unfold State.unbad
  split <;> exact ⟨rfl, rfl⟩

/-- What an object's place in the table answers. -/
theorem State.obj_eq (s : State) (code ix : Nat) : s.obj code ix = Tab.getD s.tab.objs (objKey code ix) (objReset code) := rfl

/-- The table of objects with one written: words that are the reset value take no place. -/
def objsPut (s : State) (code ix : Nat) (w : List Word) : Tab (List Word) :=
  if w = objReset code then Tab.del s.tab.objs (objKey code ix) else Tab.put s.tab.objs (objKey code ix) w

theorem getD_objsPut (s : State) (code ix : Nat) (w : List Word) : Tab.getD (objsPut s code ix w) (objKey code ix) (objReset code) = w := by
  unfold objsPut
  split
  case isTrue hreset => rw [hreset, Tab.getD, Tab.get?_del_self, Option.getD_none]
  case isFalse => exact Tab.getD_put_self ..

/-- A write of an object changes the tables alone, and the object reads as written. -/
theorem State.putObj_spec (s : State) (code ix : Nat) (w : List Word) :
    (s.putObj code ix w).tab.objs = objsPut s code ix w ∧ s.putObj code ix w = { s with tab := (s.putObj code ix w).tab } := by
  unfold State.putObj
  dsimp only
  split
  case h_1 kind n _ =>
    obtain ⟨hobjs, htab⟩ := State.unbad_spec { s with tab := { s.tab with objs := objsPut s code ix w } } kind n
    exact ⟨hobjs, htab⟩
  case h_2 => exact ⟨rfl, rfl⟩

/-- What OBJ.WRITE leaves: the object, and no samples of an ECMP group that was rewritten. -/
def State.objWritten (s : State) (code ix : Nat) (w : List Word) : State :=
  if code = oECMP then
    { s.putObj code ix w with tab := { (s.putObj code ix w).tab with ecmpSamples := Tab.del (s.putObj code ix w).tab.ecmpSamples ix } }
  else s.putObj code ix w

theorem State.objWritten_spec (s : State) (code ix : Nat) (w : List Word) :
    (s.objWritten code ix w).obj code ix = w ∧ s.objWritten code ix w = { s with tab := (s.objWritten code ix w).tab } := by
  obtain ⟨hobjs, htab⟩ := s.putObj_spec code ix w
  have hread : ∀ u : State, u.tab.objs = (s.putObj code ix w).tab.objs → u.obj code ix = w := fun u hu => by
    rw [State.obj_eq, hu, hobjs, getD_objsPut]
  unfold State.objWritten
  split
  case isTrue =>
    refine ⟨hread _ rfl, ?_⟩
    rw [htab]
  case isFalse => exact ⟨hread _ rfl, htab⟩

section objects
variable {iss : Issuer} {c : Ctl} {s : State}

/-- OBJ.WRITE of an object other than a template, with the words that its table takes. -/
theorem opObjWrite_of (hix : objIxOk (wf c.w 0 0 5) (wf c.w 0 8 24) = true) (htem : wf c.w 0 0 5 ≠ oTEMPLATE)
    (hlen : 1 + objWords (wf c.w 0 0 5) ≤ c.w.length) :
    let v := (c.w.drop 1).take (objWords (wf c.w 0 0 5))
    opObjWrite iss c s = if objOk (wf c.w 0 0 5) (objNat v) = false then ctlBad s 1
      else if wf c.w 0 0 5 = oMETER then ctlEnd (s.putMeter (wf c.w 0 8 24) (ov (objNat v) 0 12)) stOK
      else ctlEnd (s.objWritten (wf c.w 0 0 5) (wf c.w 0 8 24) v) stOK := by
  unfold opObjWrite
  dsimp only
  rw [if_neg htem, if_neg (by simp [hix]), if_neg (Nat.not_lt.2 hlen), if_neg htem]
  rfl

theorem opObjRead_of (hix : wf c.w 0 8 24 < objCount (wf c.w 0 0 5)) (hlist : ¬(wf c.w 0 0 5 = oLIST ∧ wf c.w 0 8 24 = 0))
    (htem : wf c.w 0 0 5 ≠ oTEMPLATE) : opObjRead iss c s = .done s stOK 0 (s.obj (wf c.w 0 0 5) (wf c.w 0 8 24)) := by
  have hmay : ¬(objCount (wf c.w 0 0 5) ≤ wf c.w 0 8 24 ∨ (wf c.w 0 0 5 = oLIST ∧ wf c.w 0 8 24 = 0)) :=
    not_or.2 ⟨Nat.not_le.2 hix, hlist⟩
  exact (if_neg hmay).trans (if_neg htem)

end objects

/-! ### Programs (R63) -/

section programs
variable {iss : Issuer} {c : Ctl} {s : State}

/-- The words of a program that PROG.LOAD reads. -/
def State.progRead (s : State) (iss : Issuer) (w : List Word) : State × List (BitVec 32) :=
  let r := s.ctlRead iss (wd w 1) (4 * wf w 0 18 14)
  (r.1, wordsOf r.2 (wf w 0 18 14))

variable (hmay : s.loadRefused (wb c.w 0 2) (wf c.w 2 32 32) = none) (hkind : wf c.w 0 0 2 ≠ 3)
  (hfits : wf c.w 0 4 14 + wf c.w 0 18 14 ≤ storeSize (wf c.w 0 0 2)) (hmem : s.ctlMemOk iss (wd c.w 1) (4 * wf c.w 0 18 14) = true)
include hmay hkind hfits hmem

theorem opProgLoad_bad {i : Nat} (hbad : (s.progRead iss c.w).1.badWord (wf c.w 0 0 2) (wb c.w 0 2) (wb c.w 0 3) (wf c.w 0 18 14) 0
    (s.progRead iss c.w).2 = some i) : opProgLoad iss c s = ctlBad (s.progRead iss c.w).1 i := by
  have hplace : ¬(wf c.w 0 0 2 = 3 ∨ storeSize (wf c.w 0 0 2) < wf c.w 0 4 14 + wf c.w 0 18 14) := not_or.2 ⟨hkind, Nat.not_lt.2 hfits⟩
  simp only [State.progRead] at hbad
  simp only [opProgLoad, hmay, if_neg hplace, hmem, Bool.true_eq_false, if_false, hbad]
  rfl

theorem opProgLoad_good (hgood : (s.progRead iss c.w).1.badWord (wf c.w 0 0 2) (wb c.w 0 2) (wb c.w 0 3) (wf c.w 0 18 14) 0
    (s.progRead iss c.w).2 = none) :
    let r := s.progRead iss c.w
    let load := r.1.eng.loads + 1
    opProgLoad iss c s = ctlEnd ((List.range 16).foldl (fun (t : State) u =>
      if wf c.w 2 0 16 = 0 ∨ (wf c.w 2 0 16).testBit u = true then
        t.storeWords (wf c.w 0 0 2) u (wb c.w 0 2) load (wf c.w 0 4 14) r.2 else t)
      { r.1 with eng := { r.1.eng with loads := load } }) stOK := by
  have hplace : ¬(wf c.w 0 0 2 = 3 ∨ storeSize (wf c.w 0 0 2) < wf c.w 0 4 14 + wf c.w 0 18 14) := not_or.2 ⟨hkind, Nat.not_lt.2 hfits⟩
  simp only [State.progRead] at hgood
  simp only [opProgLoad, hmay, if_neg hplace, hmem, Bool.true_eq_false, if_false, hgood]
  rfl

end programs

/-! ### Generations (R137) -/

/-- The swap: the SHADOW generation becomes ACTIVE and the former RETIRING (R137). -/
def State.genSwapped (s : State) (old : Bool) : State :=
  ((s.setBit F.tblGenStatus_active 0 (!old)).setGenState (!old) gACTIVE).setGenState old gRETIRING

theorem State.genSwapped_spec (s : State) (old : Bool) :
    (s.genSwapped old).activeGen = !old ∧ (s.genSwapped old).genState (!old) = gACTIVE ∧ (s.genSwapped old).genState old = gRETIRING := by
  have hactive0 : ∀ (u : State) x, (u.set F.tblGenStatus_g0State 0 x).activeGen = u.activeGen := fun u x =>
    congrArg (· == 1) (State.get_set_field u F.tblGenStatus_g0State F.tblGenStatus_active 0 x rfl (by decide) (by decide))
  have hactive1 : ∀ (u : State) x, (u.set F.tblGenStatus_g1State 0 x).activeGen = u.activeGen := fun u x =>
    congrArg (· == 1) (State.get_set_field u F.tblGenStatus_g1State F.tblGenStatus_active 0 x rfl (by decide) (by decide))
  have hbit : ∀ b, (s.setBit F.tblGenStatus_active 0 b).activeGen = b := fun b => State.bit_setBit_self _ _ _ b (by decide) rfl
  cases old with
  | false =>
    refine ⟨(hactive0 ..).trans ((hactive1 ..).trans (hbit true)), ?_, State.get_set_self _ _ _ _ (by decide)⟩
    exact (State.get_set_field _ F.tblGenStatus_g0State F.tblGenStatus_g1State 0 _ rfl (by decide) (by decide)).trans
      (State.get_set_self _ _ _ _ (by decide))
  | true =>
    refine ⟨(hactive1 ..).trans ((hactive0 ..).trans (hbit false)), ?_, State.get_set_self _ _ _ _ (by decide)⟩
    exact (State.get_set_field _ F.tblGenStatus_g1State F.tblGenStatus_g0State 0 _ rfl (by decide) (by decide)).trans
      (State.get_set_self _ _ _ _ (by decide))

/-- GEN.SWAP that starts: the other generation must be SHADOW; with WAIT set it waits until the former one is SHADOW too. -/
theorem opGenSwap_start {iss : Issuer} {c : Ctl} {s : State} (hnew : c.started = false) :
    let old := s.activeGen
    let u := (s.genSwapped old).retireCheck old
    opGenSwap iss c s = if s.genState (!old) ≠ gSHADOW then ctlEnd s stGEN_BUSY
      else if wb c.w 0 0 = true ∧ u.genState old = gRETIRING then
        ctlWait u { c with note := Tab.getD s.tab.genSets old.toNat 0 + old.toNat * 256 + hGen (s.genHandle (!old)) * 512, changed := true }
      else ctlOk u [s.genHandle (!old)] :=
  if_neg (by simp [hnew])

/-- Settles O45: an object, a program and a generation are taken or refused as their words, the memory named and the state say. -/
theorem objectsAndGenerations : Obligations.ObjectsAndGenerations := by
  intro iss tag w s c s1
  refine ⟨fun h => ?objWrite, fun h hix hlist htem => ?objRead, fun h => ?progLoad, fun h => ?genSwap⟩ <;> obtain rfl := h.operands
  case objWrite =>
    intro code ix hix htem hlen v
    have hop := opObjWrite_of (iss := iss) (s := s1) hix htem hlen
    refine ⟨fun hbad => h.ends rfl rfl (hop.trans (if_pos hbad)), fun hgood hmeter => ⟨s1.objWritten code ix v, ?_, s1.objWritten_spec code ix v⟩,
      fun hgood hmeter => ?_⟩
    · exact h.ends rfl rfl (hop.trans ((if_neg (ne_false_of_eq_true hgood)).trans (if_neg hmeter)))
    · exact h.ends rfl rfl (hop.trans ((if_neg (ne_false_of_eq_true hgood)).trans (if_pos hmeter)))
  case objRead => exact h.ends rfl rfl (opObjRead_of hix hlist htem)
  case progLoad =>
    intro kind gen first n units hmay hkind hfits hmem r words
    exact ⟨fun i hbad => h.ends rfl rfl (opProgLoad_bad hmay hkind hfits hmem hbad),
      fun hgood => h.ends rfl rfl (opProgLoad_good hmay hkind hfits hmem hgood)⟩
  case genSwap =>
    intro old
    have hop := opGenSwap_start (iss := iss) (s := s1) h.fresh
    refine ⟨fun hbusy => h.ends rfl rfl (hop.trans (if_pos hbusy)), fun hshadow => ?_⟩
    obtain ⟨hactive, hnew, hformer⟩ := s1.genSwapped_spec old
    refine ⟨hactive, hnew, hformer, fun hnow => ?_, fun hwait hretiring => ?_⟩
    · exact h.ends rfl rfl (hop.trans ((if_neg (not_not_intro hshadow)).trans (if_neg hnow)))
    · exact ⟨_, h.waits rfl rfl (hop.trans ((if_neg (not_not_intro hshadow)).trans (if_pos ⟨hwait, hretiring⟩))), rfl, rfl, rfl⟩

end Sys2Proof.Machine
end

section

/-!
PROOFS. Control instructions of the tables: EM.*, LPM.*, TCAM.* (O44).
-/

namespace Sys2Proof.Machine
set_option Elab.async false

/-! ### A control instruction that works in slices -/

/-- A CTL that goes on stays its issuer's current one. -/
def State.keepOn (s : State) (iss : Issuer) (c : Ctl) : State :=
  { s with cmd := { s.cmd with current := Tab.put s.cmd.current (issKey iss) c } }

theorem State.current_keepOn (s : State) (iss : Issuer) (c : Ctl) : Tab.get? (s.keepOn iss c).cmd.current (issKey iss) = some c :=
  Tab.get?_put_self ..

/-- One whose slice ends before its work does goes on. -/
theorem State.direct_more {s : State} {iss : Issuer} {op : Nat} {tag : BitVec 6} {w : List Word} {c d : Ctl} {s1 t : State}
    (h : CtlTaken op iss tag w s c s1) (hr : runCtl iss c s1 = .more t d) : s.direct iss op tag w = t.keepOn iss d := by
  obtain ⟨e, he, rfl⟩ := h.engine
  have hc := h.ctl
  have hroom := h.room
  subst hc
  unfold State.direct
  simp only [h.runs, h.may, Bool.and_self, Bool.true_eq_false, if_false, he]
  unfold State.turn
  simp only [State.taken] at hr hroom
  simp only [hroom, Bool.true_eq_false, if_false, hr]
  rfl

theorem CtlIssues.goes {op n m : Nat} {p : Bool} {f : CtlFn} {iss : Issuer} {tag : BitVec 6} {w : List Word} {s s1 t : State} {c d : Ctl}
    {i : Instr} (h : CtlIssues op iss tag w s c s1) (hexec : exec i s = .next (s.direct iss op tag w)) (hop : ctlOp op = some (n, m, p, f))
    (hf : f iss c s1 = .more t d) : exec i s = .next (t.keepOn iss d) :=
  hexec.trans (congrArg Host.Outcome.next (State.direct_more h.toCtlTaken ((runCtl_of h hop).trans hf)))

/-- A slice covers one unit at least (R341). -/
theorem State.sliceUnits_pos (s : State) (left : Nat) : 0 < s.sliceUnits left := Nat.lt_of_lt_of_le Nat.zero_lt_one (Nat.le_add_right ..)

theorem State.slice_pos (s : State) {left : Nat} (h : 0 < left) : 0 < Nat.min left (s.sliceUnits left) :=
  Nat.lt_min.2 ⟨h, s.sliceUnits_pos left⟩

theorem State.tab_publish (s : State) (iss : Issuer) (op x : Nat) : (s.publish iss op x).tab = s.tab := by
  cases iss <;> rfl

/-! ### EM (R109, R111, R114) -/

section em
variable {iss : Issuer} {c : Ctl} {s : State}

/-- A command of a partition in use that names no key is the partition's work. -/
theorem State.emOp_partition (hen : s.bit F.tblEmPart_en (wf c.w 0 0 4) = true) (f : Nat → CtlOut) :
    s.emOp c false f = f (wf c.w 0 0 4) :=
  (if_neg (ne_false_of_eq_true hen).elim).trans (if_neg fun h => Bool.false_ne_true h.1)

/-- One that names a key is, once its words hold the key. -/
theorem State.emOp_key (hen : s.bit F.tblEmPart_en (wf c.w 0 0 4) = true) (hkey : 1 + keyWords (s.emKeyLen (wf c.w 0 0 4)) ≤ c.w.length)
    (f : Nat → CtlOut) : s.emOp c true f = f (wf c.w 0 0 4) :=
  (if_neg (ne_false_of_eq_true hen).elim).trans (if_neg fun h => Nat.not_lt.2 hkey h.2)

/-- An entry that no key matches is not seen either. -/
theorem State.emSeen_of_emFind {p : Nat} {key : List Byte} (h : s.emFind p key = none) : s.emSeen p key = none := by
  simp only [State.emSeen, h]

/-- The words of an entry that EM.SEARCH and EM.NEXT answer first. -/
theorem emWords_map (ix : Nat) (e : EmEntry) : (emWords ix e).map (BitVec.ofNat 64) = [lkHit ix e.data,
    BitVec.ofNat 64 (e.age % 8 + e.hit.toNat * 8 + e.static.toNat * 16 + (decide (emStash ≤ ix)).toNat * 32)] := by
  simp only [emWords, List.map_cons, List.map_nil, BitVec.ofNat_toNat, BitVec.setWidth_eq]

section key
variable (hen : s.bit F.tblEmPart_en (wf c.w 0 0 4) = true) (hkey : 1 + keyWords (s.emKeyLen (wf c.w 0 0 4)) ≤ c.w.length)
include hen hkey

theorem opEmInsert_exists {ix : Nat} {e : EmEntry} (hseen : s.emSeen (wf c.w 0 0 4) (s.emOpKey c (wf c.w 0 0 4)) = some (ix, e)) :
    opEmInsert iss c s = ctlRes s stEXISTS [ix] := by
  simp only [opEmInsert, State.emOp_key hen hkey, hseen]

/-- EM.INSERT of a key that stands nowhere is the place that is found for it. -/
theorem opEmInsert_absent (hno : s.emFind (wf c.w 0 0 4) (s.emOpKey c (wf c.w 0 0 4)) = none) {t : State} {x : Option Nat}
    (hput : s.emPut (wf c.w 0 0 4) (s.emOpKey c (wf c.w 0 0 4)) (BitVec.ofNat 40 (wf c.w 0 24 40)) (wb c.w 0 4) = (t, x)) :
    opEmInsert iss c s = x.elim (ctlEnd t stTABLE_FULL) fun ix => ctlOk t [ix] := by
  simp only [opEmInsert, State.emOp_key hen hkey, State.emSeen_of_emFind hno, hno, hput]
  cases x <;> rfl

theorem opEmDelete_found {ix : Nat} {e : EmEntry} (hseen : s.emSeen (wf c.w 0 0 4) (s.emOpKey c (wf c.w 0 0 4)) = some (ix, e)) :
    opEmDelete iss c s = ctlEnd (s.emRemove (wf c.w 0 0 4) ix) stOK := by
  simp only [opEmDelete, State.emOp_key hen hkey, hseen]

theorem opEmUpdate_found {ix : Nat} {e : EmEntry} (hseen : s.emSeen (wf c.w 0 0 4) (s.emOpKey c (wf c.w 0 0 4)) = some (ix, e)) :
    opEmUpdate iss c s = ctlOk (s.setEm ix { e with data := BitVec.ofNat 40 (wf c.w 0 24 40) }) [ix] := by
  simp only [opEmUpdate, State.emOp_key hen hkey, hseen]

theorem opEmSearch_found {ix : Nat} {e : EmEntry} (hseen : s.emSeen (wf c.w 0 0 4) (s.emOpKey c (wf c.w 0 0 4)) = some (ix, e)) :
    opEmSearch iss c s = .done s stOK 0 [lkHit ix e.data,
      BitVec.ofNat 64 (e.age % 8 + e.hit.toNat * 8 + e.static.toNat * 16 + (decide (emStash ≤ ix)).toNat * 32)] := by
  simp only [opEmSearch, State.emOp_key hen hkey, hseen, ctlOk, emWords_map]

/-- A key that no sound entry holds is NOT_FOUND to the three commands of one entry. -/
theorem opEm_notFound (hno : s.emSeen (wf c.w 0 0 4) (s.emOpKey c (wf c.w 0 0 4)) = none) :
    opEmDelete iss c s = ctlEnd s stNOT_FOUND ∧ opEmUpdate iss c s = ctlEnd s stNOT_FOUND ∧ opEmSearch iss c s = ctlEnd s stNOT_FOUND := by
  simp only [opEmDelete, opEmUpdate, opEmSearch, State.emOp_key hen hkey, hno, and_self]

end key

section partition
variable (hen : s.bit F.tblEmPart_en (wf c.w 0 0 4) = true)
include hen

theorem opEmNext_found {ix : Nat} {e : EmEntry} (hit : s.tab.em.find? (fun e => e.2.part == wf c.w 0 0 4 && decide (wf c.w 0 32 32 ≤ e.1) &&
    !(s.deadEntry tkEM e.1)) = some (ix, e)) : opEmNext iss c s =
      ctlOk s (emWords ix e ++ [leNat e.key % 2 ^ 64, leNat e.key / 2 ^ 64 % 2 ^ 64, leNat e.key / 2 ^ 128]) := by
  simp only [opEmNext, State.emOp_partition hen, hit]

theorem opEmNext_none (hit : s.tab.em.find? (fun e => e.2.part == wf c.w 0 0 4 && decide (wf c.w 0 32 32 ≤ e.1) &&
    !(s.deadEntry tkEM e.1)) = none) : opEmNext iss c s = ctlEnd s stNOT_FOUND := by
  simp only [opEmNext, State.emOp_partition hen, hit]

/-- EM.FLUSH_PORT that starts walks one slice from its position (R114). -/
theorem opEmFlushPort_start (hnew : c.started = false) :
    let x := wf c.w 0 32 32
    let total := 4 * 2 ^ s.emL (wf c.w 0 0 4) + 512
    let n := Nat.min (total - x) (s.sliceUnits (total - x))
    let r := s.useFree.flushFrom (wf c.w 0 0 4) (wf c.w 0 4 8) n x 0
    opEmFlushPort iss c s = if total ≤ x + n then .done (r.1.publish iss c.op (Nat.max x total)) stOK (Nat.max x total) [BitVec.ofNat 64 r.2]
      else .more (r.1.publish iss c.op (x + n)) { c with started := true, progress := x + n, note := r.2, changed := decide (0 < r.2) } := by
  intro x total n r
  unfold opEmFlushPort
  rw [State.emOp_partition hen]
  dsimp only
  rw [hnew]
  rfl

end partition

end em

/-! ### LPM (R119, R120) -/

section lpm
variable {iss : Issuer} {c : Ctl} {s : State}

theorem State.lpmOp_of {len : Bool} (hwords : (if wb c.w 0 12 then 3 else 2) ≤ c.w.length)
    (hlen : len = true → wf c.w 0 13 8 ≤ if wb c.w 0 12 then 128 else 32) (f : CtlOut) : s.lpmOp c len f = f :=
  (if_neg (Nat.not_lt.2 hwords)).trans (if_neg fun h => Nat.not_lt.2 (hlen h.1) h.2)

theorem State.lpmSeen_of_lpmFind {w : List Word} (h : s.lpmFind (wf w 0 0 12) (wb w 0 12) (wf w 0 13 8) (lpmAddr w) = none) :
    s.lpmSeen w = none := by
  simp only [State.lpmSeen, h]

section prefixes
variable (hwords : (if wb c.w 0 12 then 3 else 2) ≤ c.w.length) (hlen : wf c.w 0 13 8 ≤ if wb c.w 0 12 then 128 else 32)
include hwords hlen

theorem opLpmInsert_exists {n : Nat} {e : LpmEntry} (hseen : s.lpmSeen c.w = some (n, e)) : opLpmInsert iss c s = ctlRes s stEXISTS [n] := by
  simp only [opLpmInsert, State.lpmOp_of hwords fun _ => hlen, hseen]

theorem opLpmInsert_absent (hno : s.lpmFind (wf c.w 0 0 12) (wb c.w 0 12) (wf c.w 0 13 8) (lpmAddr c.w) = none) :
    let n := firstFree s.tab.lpm 0
    opLpmInsert iss c s =
      if 3145728 < s.lpmUnits + (if wb c.w 0 12 then 8 else 3) ∨ 2 ^ 20 ≤ n ∨ s.lpmSpareFree < s.rebuildUnits then
        ctlEnd (s.useFree.bump F.tblCntLpmFull 0) stTABLE_FULL
      else ctlOk ((s.useFree.putLpm n ⟨wf c.w 0 0 12, wb c.w 0 12, wf c.w 0 13 8, maskAddr (wb c.w 0 12) (wf c.w 0 13 8) (lpmAddr c.w),
        BitVec.ofNat 40 (wf c.w 0 24 40)⟩).rebuilt s.rebuildUnits) [n] := by
  unfold opLpmInsert
  simp only [State.lpmOp_of hwords fun _ => hlen, State.lpmSeen_of_lpmFind hno, hno] <;> rfl

theorem opLpmDelete_found {n : Nat} {e : LpmEntry} (hseen : s.lpmSeen c.w = some (n, e)) :
    opLpmDelete iss c s = ctlEnd ((s.useFree.delLpm n).rebuilt (Nat.min s.rebuildUnits s.lpmSpareFree)) stOK := by
  simp only [opLpmDelete, State.lpmOp_of hwords fun _ => hlen, hseen]

theorem opLpmDelete_none (hno : s.lpmSeen c.w = none) : opLpmDelete iss c s = ctlEnd s stNOT_FOUND := by
  simp only [opLpmDelete, State.lpmOp_of hwords fun _ => hlen, hno]

end prefixes

/-- LPM.SEARCH answers the longest match where asked to, else the prefix of its length. -/
theorem opLpmSearch_of (hwords : (if wb c.w 0 12 then 3 else 2) ≤ c.w.length)
    (hlen : wb c.w 0 21 = true ∨ wf c.w 0 13 8 ≤ if wb c.w 0 12 then 128 else 32) {hit : Option (Nat × LpmEntry)}
    (hhit : (if wb c.w 0 21 then s.lpmBest (wf c.w 0 0 12) (wb c.w 0 12) (lpmAddr c.w) else s.lpmSeen c.w) = hit) :
    opLpmSearch iss c s = hit.elim (ctlEnd s stNOT_FOUND) fun e => .done s stOK 0 [lkHit e.1 e.2.data, BitVec.ofNat 64 e.2.len] := by
  have hexact : (!(wb c.w 0 21)) = true → wf c.w 0 13 8 ≤ if wb c.w 0 12 then 128 else 32 := fun h =>
    hlen.resolve_left (by simpa using h)
  simp only [opLpmSearch, State.lpmOp_of hwords hexact, hhit]
  cases hit with
  | none => rfl
  | some e => simp only [Option.elim_some, ctlOk, List.map_cons, List.map_nil, BitVec.ofNat_toNat, BitVec.setWidth_eq]

/-- The two words of an address that LPM.NEXT answers. -/
def lpmAddrWords (e : LpmEntry) : List Nat := if e.v6 then [e.addr.toNat / 2 ^ 64, e.addr.toNat % 2 ^ 64] else [e.addr.toNat, 0]

theorem length_lpmAddrWords (e : LpmEntry) : (lpmAddrWords e).length = 2 := by
  unfold lpmAddrWords
  split <;> rfl

theorem opLpmNext_found {n : Nat} {e : LpmEntry} (hit : s.tab.lpm.find? (fun e => e.2.rt == wf c.w 0 0 12 && e.2.v6 == wb c.w 0 12 &&
    decide (wf c.w 0 32 32 ≤ e.1) && !(s.deadEntry tkLPM e.1)) = some (n, e)) :
    opLpmNext iss c s = .done s stOK 0 (lkHit n e.data :: BitVec.ofNat 64 e.len :: (lpmAddrWords e).map (BitVec.ofNat 64)) := by
  simp only [opLpmNext, hit, ctlOk, List.cons_append, List.nil_append, List.map_cons, BitVec.ofNat_toNat, BitVec.setWidth_eq]
  rfl

theorem opLpmNext_none (hit : s.tab.lpm.find? (fun e => e.2.rt == wf c.w 0 0 12 && e.2.v6 == wb c.w 0 12 &&
    decide (wf c.w 0 32 32 ≤ e.1) && !(s.deadEntry tkLPM e.1)) = none) : opLpmNext iss c s = ctlEnd s stNOT_FOUND := by
  simp only [opLpmNext, hit]

end lpm

/-! ### TCAM (R123 to R126) -/

/-- Clearing an entry's parity marks leaves none of it. -/
theorem State.isBad_unbad (s : State) (kind g ix : Nat) : (s.unbad kind ix).isBad kind g ix = false := by
  unfold State.unbad State.isBad
  split
  case isTrue hempty => rw [List.isEmpty_iff.1 hempty]; rfl
  case isFalse =>
    refine eq_false_of_ne_true fun hin => ?_
    have hkept := (List.mem_filter.1 (List.contains_iff_mem.1 hin)).2
    simp at hkept

/-- A rule is stored whole, and its parity holds. -/
def State.tcamPut (s : State) (ix : Nat) (e : TcamEntry) : State :=
  ({ s with tab := { s.tab with tcam := Tab.put s.tab.tcam ix e } }).unbad tkTCAM ix

theorem State.tcam_unbad (s : State) (kind ix : Nat) : (s.unbad kind ix).tab.tcam = s.tab.tcam := by
  unfold State.unbad
  split <;> rfl

theorem State.tcamPut_spec (s : State) (ix : Nat) (e : TcamEntry) : Tab.get? (s.tcamPut ix e).tab.tcam ix = some e ∧
    s.tcamPut ix e = { s with tab := (s.tcamPut ix e).tab } := by
  refine ⟨?_, (State.unbad_spec _ tkTCAM ix).2⟩
  rw [State.tcamPut, State.tcam_unbad]
  exact Tab.get?_put_self ..

/-- What is clear stays clear while more is cleared. -/
theorem State.tcamClearFrom_keeps_clear {ix : Nat} : ∀ (n x : Nat) (s : State), Tab.get? s.tab.tcam ix = none →
    Tab.get? (s.tcamClearFrom n x).tab.tcam ix = none
  | 0, _, _, h => h
  | n + 1, x, s, h => by
    refine State.tcamClearFrom_keeps_clear n (x + 1) _ ?_
    rw [State.tcam_unbad]
    by_cases hx : ix = x
    · rw [hx]; exact Tab.get?_del_self ..
    · exact (Tab.get?_del_ne _ hx).trans h

/-- TCAM.CLEAR of a range leaves none of its rules. -/
theorem State.tcamClearFrom_clears {ix : Nat} : ∀ (n x : Nat) (s : State), x ≤ ix → ix < x + n →
    Tab.get? (s.tcamClearFrom n x).tab.tcam ix = none
  | 0, _, _, _, h => by omega
  | n + 1, x, s, hle, hlt => by
    by_cases hx : ix = x
    · refine State.tcamClearFrom_keeps_clear n (x + 1) _ ?_
      rw [State.tcam_unbad, hx]
      exact Tab.get?_del_self ..
    · exact State.tcamClearFrom_clears n (x + 1) _ (by omega) (by omega)

/-- TCAM.CLEAR that starts clears one slice of its range. -/
theorem opTcamClear_start {iss : Issuer} {c : Ctl} {s : State} (hnew : c.started = false) (hcount : 0 < wf c.w 0 16 17)
    (hend : wf c.w 0 0 16 + wf c.w 0 16 17 ≤ 65536) :
    let x := wf c.w 0 0 16
    let left := wf c.w 0 16 17
    let n := Nat.min left (s.sliceUnits left)
    let u := (s.useFree.tcamClearFrom n x).publish iss c.op (x + n)
    opTcamClear iss c s = if left ≤ n then .done u stOK (x + n) [] else .more u { c with started := true, progress := x + n, changed := true } := by
  intro x left n u
  have hrange : ¬(wf c.w 0 16 17 = 0 ∨ 65536 < wf c.w 0 0 16 + wf c.w 0 16 17) := by omega
  unfold opTcamClear
  dsimp only
  rw [if_neg hrange, hnew, if_neg Bool.false_ne_true, Nat.add_sub_cancel_left]

/-- Settles O44: what each command of a table finds there decides it; the commands that walk end, or go on after one slice. -/
theorem tableCommands : Obligations.TableCommands := by
  refine ⟨fun iss tag w s c s1 => ?em, fun iss tag w s c s1 => ?others⟩
  case em =>
    refine ⟨fun h hready => ?insert, fun h hready => ?delete, fun h hready => ?update, fun h hready => ?search, fun h hen => ?next,
      fun h hen => ?flush⟩ <;> obtain rfl := h.operands
    case insert =>
      obtain ⟨hen, hkey⟩ := hready
      exact ⟨fun ix e hseen => h.ends rfl rfl (opEmInsert_exists hen hkey hseen),
        fun t ix hno hput => h.ends rfl rfl (opEmInsert_absent hen hkey hno hput),
        fun t hno hput => h.ends rfl rfl (opEmInsert_absent hen hkey hno hput)⟩
    case delete =>
      obtain ⟨hen, hkey⟩ := hready
      exact ⟨fun ix e hseen => h.ends rfl rfl (opEmDelete_found hen hkey hseen), fun hno => h.ends rfl rfl (opEm_notFound hen hkey hno).1⟩
    case update =>
      obtain ⟨hen, hkey⟩ := hready
      exact ⟨fun ix e hseen => h.ends rfl rfl (opEmUpdate_found hen hkey hseen), fun hno => h.ends rfl rfl (opEm_notFound hen hkey hno).2.1⟩
    case search =>
      obtain ⟨hen, hkey⟩ := hready
      exact ⟨fun ix e hseen => h.ends rfl rfl (opEmSearch_found hen hkey hseen), fun hno => h.ends rfl rfl (opEm_notFound hen hkey hno).2.2⟩
    case next =>
      refine ⟨fun ix e hit => ⟨_, h.ends rfl rfl (opEmNext_found hen hit), rfl, ?_, ?_⟩, fun hit => h.ends rfl rfl (opEmNext_none hen hit)⟩
      · rw [List.map_append, emWords_map]
        rfl
      · rw [List.map_append, emWords_map]
        exact congrArg some (BitVec.eq_of_toNat_eq (by simp))
    case flush =>
      intro x total n r
      have hop := opEmFlushPort_start (iss := iss) (s := s1) hen h.fresh
      refine ⟨fun hdone => h.ends rfl rfl (hop.trans (if_pos hdone)), fun hmore => ⟨s1.slice_pos (by omega), _,
        h.goes rfl rfl (hop.trans (if_neg (Nat.not_le.2 hmore))), State.current_keepOn ..⟩⟩
  case others =>
    refine ⟨fun h hready => ?insert, fun h hready => ?delete, fun h hwords hlen => ?search, fun h => ?next, fun h => ?write,
      fun h hmem => ?read, fun h hcount hend => ?clear⟩ <;> obtain rfl := h.operands
    case insert =>
      obtain ⟨hwords, hlen⟩ := hready
      refine ⟨fun n e hseen => h.ends rfl rfl (opLpmInsert_exists hwords hlen hseen), fun hno => ?_⟩
      have hop := opLpmInsert_absent (iss := iss) hwords hlen hno
      exact ⟨fun hfull => h.ends rfl rfl (hop.trans (if_pos hfull)), fun hroom => h.ends rfl rfl (hop.trans (if_neg hroom))⟩
    case delete =>
      obtain ⟨hwords, hlen⟩ := hready
      exact ⟨fun n e hseen => h.ends rfl rfl (opLpmDelete_found hwords hlen hseen),
        fun hno => h.ends rfl rfl (opLpmDelete_none hwords hlen hno)⟩
    case search =>
      exact ⟨fun n e hit => h.ends rfl rfl (opLpmSearch_of hwords hlen hit), fun hit => h.ends rfl rfl (opLpmSearch_of hwords hlen hit)⟩
    case next =>
      refine ⟨fun n e hit => ⟨_, h.ends rfl rfl (opLpmNext_found hit), ?_, rfl, rfl⟩, fun hit => h.ends rfl rfl (opLpmNext_none hit)⟩
      rw [List.length_cons, List.length_cons, List.length_map, length_lpmAddrWords]
    case write =>
      exact ⟨s1.tcamPut _ _, h.ends rfl rfl rfl, (s1.tcamPut_spec ..).1, (s1.tcamPut_spec ..).2, fun g => State.isBad_unbad ..⟩
    case read => exact h.ends rfl rfl (if_neg (ne_false_of_eq_true hmem))
    case clear =>
      intro x left n u
      have hop := opTcamClear_start (iss := iss) (s := s1) h.fresh hcount hend
      refine ⟨fun ix hle hlt => ?_, fun hdone => h.ends rfl rfl (hop.trans (if_pos hdone)), fun hmore => ⟨s1.slice_pos hcount, _,
        h.goes rfl rfl (hop.trans (if_neg (Nat.not_le.2 hmore))), State.current_keepOn ..⟩⟩
      rw [State.tab_publish]
      exact State.tcamClearFrom_clears n x _ hle hlt

end Sys2Proof.Machine
end

section

/-!
PROOFS. Control instructions of registers, modes and the micro-store: GET, SET, SETM, SYS.MODE, HARBOUR, UCODE.* (O42).
-/

namespace Sys2Proof.Machine
set_option Elab.async false

/-! ### The fields that a row does not fix -/

/-- Two numbers that agree on the bits of a field have the same field. -/
theorem field_eq_of_testBit {x y lo len : Nat} (h : ∀ i, lo ≤ i → i < lo + len → x.testBit i = y.testBit i) :
    x / 2 ^ lo % 2 ^ len = y / 2 ^ lo % 2 ^ len := by
  refine Nat.eq_of_testBit_eq fun j => ?_
  rw [Nat.testBit_mod_two_pow, Nat.testBit_mod_two_pow, Nat.testBit_div_two_pow, Nat.testBit_div_two_pow]
  by_cases hj : j < len
  · rw [h (j + lo) (by omega) (by omega)]
  · rw [decide_eq_false hj, Bool.false_and, Bool.false_and]

/-- Replacing a field by a number that fits leaves the bits outside it. -/
theorem testBit_replaceField (a v : Nat) {lo len i : Nat} (hi : i < lo ∨ lo + len ≤ i) :
    (a - a / 2 ^ lo % 2 ^ len * 2 ^ lo + v % 2 ^ len * 2 ^ lo).testBit i = a.testBit i := by
  have hsplit : a = 2 ^ lo * (2 ^ len * (a / 2 ^ lo / 2 ^ len) + a / 2 ^ lo % 2 ^ len) + a % 2 ^ lo := by
    rw [Nat.div_add_mod, Nat.div_add_mod]
  have hlow : a % 2 ^ lo < 2 ^ lo := Nat.mod_lt _ (Nat.two_pow_pos lo)
  have hv : v % 2 ^ len < 2 ^ len := Nat.mod_lt _ (Nat.two_pow_pos len)
  have hf : a / 2 ^ lo % 2 ^ len < 2 ^ len := Nat.mod_lt _ (Nat.two_pow_pos len)
  generalize v % 2 ^ len = g at *
  generalize a / 2 ^ lo % 2 ^ len = f at *
  generalize a / 2 ^ lo / 2 ^ len = high at *
  generalize a % 2 ^ lo = low at *
  have hnew : a - f * 2 ^ lo + g * 2 ^ lo = 2 ^ lo * (2 ^ len * high + g) + low := by
    rw [Nat.mul_add, Nat.mul_comm g] 
    rw [Nat.mul_add, Nat.mul_comm (2 ^ lo) f] at hsplit
    omega
  rw [hnew, hsplit]
  rw [Nat.testBit_two_pow_mul_add _ hlow, Nat.testBit_two_pow_mul_add _ hlow]
  split
  · rfl
  · rw [Nat.testBit_two_pow_mul_add _ hv, Nat.testBit_two_pow_mul_add _ hf, if_neg (by omega), if_neg (by omega)]

/-- A row that fixes a field of operand word 0 leaves the fields apart from it. -/
theorem wf_w0With_other {lo len k n : Nat} (v : Nat) (w : List Word) (hn : k + n ≤ 64) (hd : k + n ≤ lo ∨ lo + len ≤ k) :
    wf (w0With lo len v w) 0 k n = wf w 0 k n := by
  cases w with
  | nil => rfl
  | cons a r =>
    change (BitVec.ofNat 64 _).toNat / 2 ^ k % 2 ^ n = a.toNat / 2 ^ k % 2 ^ n
    rw [BitVec.toNat_ofNat]
    refine field_eq_of_testBit fun i hlo hhi => ?_
    rw [Nat.testBit_mod_two_pow, decide_eq_true (by omega), Bool.true_and, testBit_replaceField _ _ (by omega)]

theorem wd_w0With_succ (lo len v i : Nat) (w : List Word) : wd (w0With lo len v w) (i + 1) = wd w (i + 1) := by
  cases w <;> rfl

/-! ### GET, SET, SETM (R342) -/

section registers
variable {iss : Issuer} {c : Ctl} {s t : State}

theorem opGet_of {n : Nat} (hn : widthBytes (wf c.w 0 26 2) = some n)
    (hmay : ¬(s.issRestricted iss c = true ∧ deniedBlock (blockOf (wf c.w 0 0 26)) = true)) :
    let r := s.regRead (wf c.w 0 0 26) n (s.issMaster iss)
    opGet iss c s = ctlOk r.1 (if n = 16 then [r.2.toNat % 2 ^ 64, r.2.toNat / 2 ^ 64] else [r.2.toNat]) := by
  simp only [opGet, hn, if_neg hmay]

/-- A write that starts no boot and no check of the registers completes. -/
theorem setDone_of (hboot : t.modeNo ≠ mBOOT) (hcheck : t.hbor.check = none) : setDone c s t = ctlEnd t stOK := by
  simp only [setDone, if_neg hboot, hcheck]

/-- SET of 4 or 8 bytes writes its value word under all bits, or under those of its mask word. -/
theorem opSet_of {n mask : Nat} (hnew : c.started = false) (hn : widthBytes (wf c.w 0 26 2) = some n) (h16 : n ≠ 16)
    (hmask : (wb c.w 0 28 = false ∧ mask = 2 ^ (8 * n) - 1) ∨ (wb c.w 0 28 = true ∧ 3 ≤ c.w.length ∧ mask = wd c.w 2))
    (hput : s.regPut (.set iss) (s.issFn iss) (wf c.w 0 0 26) n (BitVec.ofNat 320 mask) (BitVec.ofNat 320 (wd c.w 1)) = .ok t)
    (hboot : t.modeNo ≠ mBOOT) (hcheck : t.hbor.check = none) : opSet iss c s = ctlEnd t stOK := by
  have hword : ¬(wb c.w 0 28 = true ∧ c.w.length < 3) := by
    rintro ⟨hm, hlen⟩
    rcases hmask with ⟨hno, -⟩ | ⟨-, hlen3, -⟩
    · rw [hno] at hm; cases hm
    · omega
  have hm : (if wb c.w 0 28 = true then wd c.w 2 else 2 ^ (8 * n) - 1) = mask := by
    rcases hmask with ⟨hno, hmask⟩ | ⟨hyes, -, hmask⟩
    · rw [if_neg (by simp [hno]), hmask]
    · rw [if_pos hyes, hmask]
  simp only [opSet, hnew, hn, h16, and_false, or_false, if_neg hword, hm, hput, Bool.false_eq_true, if_false]
  exact setDone_of hboot hcheck

section pairs
variable (hnew : c.started = false) (hk : 1 ≤ wf c.w 0 0 3) (hwords : 1 + 2 * wf c.w 0 0 3 ≤ c.w.length)
include hnew hk hwords

theorem opSetm_ok (hput : s.setPairs iss c.w (blockOf (wf c.w 1 0 26)) (wf c.w 0 0 3) 1 = .ok t) (hboot : t.modeNo ≠ mBOOT)
    (hcheck : t.hbor.check = none) : opSetm iss c s = ctlEnd t stOK := by
  simp only [opSetm, hnew, if_neg (Nat.ne_of_gt hk), if_neg (Nat.not_lt.2 hwords), hput, Bool.false_eq_true, if_false]
  exact setDone_of hboot hcheck

theorem opSetm_error {st i : Nat} (hput : s.setPairs iss c.w (blockOf (wf c.w 1 0 26)) (wf c.w 0 0 3) 1 = .error (st, i)) :
    opSetm iss c s = .done s st (if st = stBAD_PARAM then i else 0) [] := by
  simp only [opSetm, hnew, if_neg (Nat.ne_of_gt hk), if_neg (Nat.not_lt.2 hwords), hput, Bool.false_eq_true, if_false]
  split
  case isTrue hbad => rw [hbad]; rfl
  case isFalse hbad => rfl

end pairs

end registers

/-! ### SYS.MODE (Table 15.2) -/

section modes
variable {s : State}

theorem State.modeAsk_serviceOfSlack (hmode : s.modeNo = mSLACK) (mask : Nat) (iss : Issuer) :
    s.modeAsk mSERVICE mask iss = .done ((s.setMode mSERVICE).setPaused 0) :=
  (if_neg (by rw [hmode]; decide)).trans (if_pos hmode)

theorem State.modeAsk_drydock (hmode : s.modeNo = mMOORED) (hcause : s.get F.sysHborCause_cause 0 = 0) (mask : Nat) (iss : Issuer) :
    s.modeAsk mDRYDOCK mask iss = .done s.drydockIn := if_pos ⟨hmode, hcause⟩

theorem State.modeAsk_mooredOfDrydock (hmode : s.modeNo = mDRYDOCK) (hidle : s.bit F.sysDrydockStatus_busy 0 = false) (mask : Nat)
    (iss : Issuer) : s.modeAsk mMOORED mask iss = .done (s.setMode mMOORED) :=
  (if_pos hmode).trans (if_neg (by simp [hidle]))

theorem State.modeAsk_mooredOfService (hmode : s.modeNo = mSERVICE ∨ s.modeNo = mSLACK) (mask : Nat) (iss : Issuer) :
    s.modeAsk mMOORED mask iss = .wait ((s.setPaused 0xFFFF).pend mMOORED (0xFFFF &&& (Nat.xor 0xFFFF (s.get F.sysMode_paused 0))) iss) :=
  (if_neg (by rcases hmode with e | e <;> rw [e] <;> decide)).trans (if_pos hmode)

theorem State.modeAsk_slackOfService (hmode : s.modeNo = mSERVICE ∨ s.modeNo = mSLACK) (mask : Nat) (iss : Issuer) :
    let named := if mask = 0 then 0xFFFF else mask
    s.modeAsk mSLACK mask iss = .wait ((s.setPaused named).pend mSLACK named iss) := if_pos hmode

theorem State.modeAsk_halt (mask : Nat) (iss : Issuer) :
    s.modeAsk mHALT mask iss = .wait { s with mode := { s.mode with haltOwed := true } } := rfl

theorem State.modeNo_drydockIn : s.drydockIn.modeNo = mDRYDOCK := State.modeNo_setMode ..

end modes

section requests
variable {iss : Issuer} {tag : BitVec 6} {w : List Word} {s s1 t : State} {c : Ctl} {goal : Nat} {i : Instr}

/-- The words of a row that fixes its target keep the mask. -/
theorem CtlIssues.mask_eq (h : CtlIssues 0x00C iss tag (w0With 0 3 goal w) s c s1) : wf c.w 0 16 16 = wf w 0 16 16 := by
  rw [h.operands, wf_w0With_other goal w (by decide) (.inr (by decide))]

/-- SYS.MODE whose request is granted at once answers the mode. -/
theorem CtlIssues.modeDone (h : CtlIssues 0x00C iss tag (w0With 0 3 goal w) s c s1) (htrans : s1.mode.trans = none) (hgoal : goal < mHALT)
    (hexec : exec i s = .next (s.direct iss 0x00C tag (w0With 0 3 goal w))) (hask : s1.modeAsk goal (wf w 0 16 16) iss = .done t) :
    exec i s = .next (t.finish iss c stOK 0 [BitVec.ofNat 64 t.modeNo]) := by
  refine h.ends hexec rfl ?_
  rw [h.opSysMode_eq htrans hgoal, h.mask_eq, hask]
  rfl

/-- One that takes time parks. -/
theorem CtlIssues.modeWait (h : CtlIssues 0x00C iss tag (w0With 0 3 goal w) s c s1) (htrans : s1.mode.trans = none) (hgoal : goal < mHALT)
    (hexec : exec i s = .next (s.direct iss 0x00C tag (w0With 0 3 goal w))) (hask : s1.modeAsk goal (wf w 0 16 16) iss = .wait t) :
    exec i s = .next (t.park iss { c with started := true }) := by
  refine h.waits hexec rfl ?_
  rw [h.opSysMode_eq htrans hgoal, h.mask_eq, hask]
  rfl

/-- SYS.MODE of HALT owes the HALT and leaves its issuer with nothing (R445). -/
theorem CtlIssues.opSysMode_halt (h : CtlIssues 0x00C iss tag (w0With 0 3 mHALT w) s c s1) (htrans : s1.mode.trans = none) :
    opSysMode iss c s1 = .gone { s1 with mode := { s1.mode with haltOwed := true } } := by
  have hw : w ≠ [] := by
    have hwords : 1 ≤ (w0With 0 3 mHALT w).length := h.words _ rfl
    rw [w0With_length] at hwords
    exact List.ne_nil_of_length_pos hwords
  have htarget : wf c.w 0 0 3 = mHALT := by
    rw [h.operands, wf_w0With mHALT hw (by decide)]
    rfl
  simp only [opSysMode, htarget, h.fresh, htrans, State.modeAsk_halt, Bool.false_eq_true, if_false, if_true, Option.isSome_none]

/-- A CTL that is gone leaves its issuer and its engine. -/
theorem State.direct_gone {op : Nat} (h : CtlTaken op iss tag w s c s1) (hr : runCtl iss c s1 = .gone t) :
    ∃ e, s.direct iss op tag w =
      { t with cmd := { t.cmd with engines := Tab.del t.cmd.engines e, current := Tab.del t.cmd.current (issKey iss) } } := by
  obtain ⟨e, he, rfl⟩ := h.engine
  have hc := h.ctl
  have hroom := h.room
  subst hc
  refine ⟨e, ?_⟩
  unfold State.direct
  simp only [h.runs, h.may, Bool.and_self, Bool.true_eq_false, if_false, he]
  unfold State.turn
  simp only [State.taken] at hr hroom
  simp only [hroom, Bool.true_eq_false, if_false, hr]

end requests

/-! ### The micro-store (R340, R418) -/

/-- The number that bytes spell fits in them. -/
theorem leNat_lt : ∀ l : List Byte, leNat l < 256 ^ l.length
  | [] => Nat.zero_lt_one
  | b :: bs => by
    have hb := b.isLt
    have hbs := leNat_lt bs
    change b.toNat + 256 * leNat bs < 256 ^ (bs.length + 1)
    rw [Nat.pow_succ]
    omega

/-- A field of four bytes of an image is a number of 32 bits. -/
theorem leNat_imgField_lt (img : List Byte) (o : Nat) : leNat (imgField img o 4) < 2 ^ 32 :=
  Nat.lt_of_lt_of_le (leNat_lt _) (Nat.pow_le_pow_right (by decide) (List.length_take_le 4 _))

/-- The fields of an image that UCODE.PATCH notes together come apart again. -/
theorem patchNote_parts {ver arb : Nat} (hash : Nat) (hver : ver < 2 ^ 32) (harb : arb < 2 ^ 32) :
    (ver + arb * 2 ^ 32 + hash * 2 ^ 64) % 2 ^ 16 = ver % 2 ^ 16 ∧ (ver + arb * 2 ^ 32 + hash * 2 ^ 64) / 2 ^ 32 % 2 ^ 32 = arb ∧
    (ver + arb * 2 ^ 32 + hash * 2 ^ 64) / 2 ^ 64 = hash ∧ (ver + arb * 2 ^ 32 + hash * 2 ^ 64) % 2 ^ 32 = ver := by
  omega

section patch
variable {iss : Issuer} {c : Ctl} {s : State} {r : State × List Byte} (hnew : c.started = false)
  (hmem : s.ctlMemOk iss (wd c.w 0) (wd c.w 1) = true) (hread : s.ctlRead iss (wd c.w 0) (wd c.w 1) = r)
include hnew hmem hread

theorem opUcodePatch_bad (hbad : r.1.imageGood 0x5450584B (s.get F.secStatus_arbPatch 0) r.2 = false) :
    opUcodePatch iss c s = ctlEnd r.1 stDENIED := by
  simp only [opUcodePatch, hnew, hmem, hread, hbad, Bool.false_eq_true, Bool.true_eq_false, and_false, if_false]

/-- A good image patches the micro-store where no other engine works (R340). -/
theorem opUcodePatch_good (hgood : r.1.imageGood 0x5450584B (s.get F.secStatus_arbPatch 0) r.2 = true) (hready : r.1.patchReady iss = true) :
    opUcodePatch iss c s = ctlOk (r.1.patchLoad (leNat (imgField r.2 4 4) % 2 ^ 16) (leNat (imgField r.2 8 4))
      (BitVec.ofNat 256 (leNat (imgField r.2 0x10 32)))) [leNat (imgField r.2 4 4)] := by
  obtain ⟨hver16, harb, hhash, hver⟩ := patchNote_parts (leNat (imgField r.2 0x10 32)) (leNat_imgField_lt r.2 4) (leNat_imgField_lt r.2 8)
  simp only [opUcodePatch, hnew, hmem, hread, hgood, hready, Bool.false_eq_true, Bool.true_eq_false, and_false, if_false, if_true,
    hver16, harb, hhash, hver]

end patch

/-- Settles O42: the register access, Table 15.2's answer or the image decides; the words that the rows fix leave the other fields. -/
theorem registersAndModes : Obligations.RegistersAndModes := by
  intro iss tag w s c s1
  refine ⟨fun h n hn hmay => ?get, fun h n t hall hn h16 hput hboot hcheck => ?set, fun h hwords n t hn h16 hput hboot hcheck => ?masked,
    fun h hk hwords => ?setm, fun h htrans => ?service, fun h htrans hmode hcause => ?drydock, fun h htrans => ?moored,
    fun h htrans hmode => ?slack, fun h htrans => ?halt, fun h => ?harbour, fun h hmem => ?patch, fun h => ?info⟩
  case get =>
    obtain rfl := h.operands
    intro r
    refine (h.ends rfl rfl (opGet_of hn hmay)).trans ?_
    split <;> rfl
  case set =>
    obtain rfl := h.operands
    exact h.ends rfl rfl (opSet_of h.fresh hn h16 (.inl ⟨hall, rfl⟩) hput hboot hcheck)
  case masked =>
    have hw : w ≠ [] := List.ne_nil_of_length_pos (by omega)
    have hone : wb (w0With 28 1 1 w) 0 28 = true := by rw [wb, wf_w0With 1 hw (by decide)]; rfl
    refine h.ends rfl rfl (opSet_of h.fresh (mask := wd w 2) ?_ h16 (.inr ⟨?_, ?_, ?_⟩) ?_ hboot hcheck)
    all_goals rw [h.operands]
    · rw [wf_w0With_other 1 w (by decide) (.inl (by decide)), hn]
    · exact hone
    · rw [w0With_length]; exact hwords
    · rw [wd_w0With_succ]
    · rw [wf_w0With_other 1 w (by decide) (.inl (by decide)), wd_w0With_succ, hput]
  case setm =>
    obtain rfl := h.operands
    exact ⟨fun t hput hboot hcheck => h.ends rfl rfl (opSetm_ok h.fresh hk hwords hput hboot hcheck),
      fun st i hput => h.ends rfl rfl (opSetm_error h.fresh hk hwords hput)⟩
  case service =>
    refine ⟨fun hmode hworks hcause => ?_, fun hmode => ⟨_, rfl, h.modeDone htrans (by decide) rfl (State.modeAsk_serviceOfSlack hmode ..)⟩⟩
    have hask := (State.modeAsk_service hmode (wf w 0 16 16) iss).trans (if_neg (by simp [hworks, hcause]))
    rw [h.modeDone htrans (by decide) rfl hask, State.modeNo_setMode]
    rfl
  case drydock =>
    rw [h.modeDone htrans (by decide) rfl (State.modeAsk_drydock hmode hcause ..), State.modeNo_drydockIn]
  case moored =>
    refine ⟨fun hmode hidle => ?_, fun hmode => h.modeWait htrans (by decide) rfl (State.modeAsk_mooredOfService hmode ..)⟩
    rw [h.modeDone htrans (by decide) rfl (State.modeAsk_mooredOfDrydock hmode hidle ..), State.modeNo_setMode]
    rfl
  case slack => exact h.modeWait htrans (by decide) rfl (State.modeAsk_slackOfService hmode ..)
  case halt =>
    obtain ⟨e, he⟩ := State.direct_gone h.toCtlTaken ((runCtl_of h rfl).trans (h.opSysMode_halt htrans))
    exact ⟨_, congrArg Host.Outcome.next he, rfl⟩
  case harbour =>
    obtain rfl := h.operands
    exact h.ends rfl rfl rfl
  case patch =>
    obtain rfl := h.operands
    exact ⟨fun hbad => h.ends rfl rfl (opUcodePatch_bad h.fresh hmem rfl hbad),
      fun hgood hready => h.ends rfl rfl (opUcodePatch_good h.fresh hmem rfl hgood hready)⟩
  case info => exact h.ends rfl rfl rfl

end Sys2Proof.Machine
end

section

/-!
PROOFS. Control instructions of the channels and the waits: CHAN.*, CMD.ABORT, CMD.WAIT, BARRIER (O41).
-/

namespace Sys2Proof.Machine
set_option Elab.async false

/-! ### CHAN.OPEN (R327) -/

/-- The state word of a channel that opens: OPEN, type, generation, RESTRICTED and function; head and tail are 0. -/
def chanWord (ty gen fn : Nat) (rs : Bool) : Nat := 1 + ty * 2 ^ 3 + gen * 2 ^ 7 + rs.toNat * 2 ^ 15 + fn * 2 ^ 16

theorem chanWord_fields {ty gen fn : Nat} (rs : Bool) (hty : ty < 16) (hgen : gen < 256) (hfn : fn < 64) :
    chanWord ty gen fn rs % 2 ^ 2 = 1 ∧ chanWord ty gen fn rs / 2 ^ 3 % 2 ^ 4 = ty ∧ chanWord ty gen fn rs / 2 ^ 7 % 2 ^ 8 = gen ∧
    chanWord ty gen fn rs / 2 ^ 15 % 2 = rs.toNat ∧ chanWord ty gen fn rs / 2 ^ 16 % 2 ^ 6 = fn ∧ chanWord ty gen fn rs < 2 ^ 22 := by
  unfold chanWord
  cases rs <;> simp only [Bool.toNat_false, Bool.toNat_true] <;> omega

/-- A register that holds a number reads its field as that number's. -/
theorem get_of_reg {s : State} {f : Fld} {i x : Nat} (hreg : s.reg f.reg i = BitVec.ofNat 320 x) (hx : x < 2 ^ 320) :
    s.get f i = x / 2 ^ f.lo % 2 ^ f.len := by
  rw [State.get, hreg, BitVec.extractLsb'_toNat, BitVec.toNat_ofNat, Nat.mod_eq_of_lt hx, Nat.shiftRight_eq_div_pow]

/-- The channel that the words of CHAN.OPEN give (Table 11.1). -/
def chanNew (w : List Word) : ChanSt :=
  { ring := wd w 1, cq := wd w 2, log2ring := wf w 0 5 5, log2cq := wf w 0 10 5, vector := wf w 0 15 11, loc := wb w 0 32,
    flag := wb w 0 4, prefixN := if wf w 0 0 3 = 2 then wf w 3 0 2 else 0, stallUs := Nat.max 1 (wf w 3 8 24),
    iq := if wf w 0 0 3 = 3 then wf w 3 0 4 else 0, irqCount := wf w 3 40 8, irqUs := wf w 3 48 16 }

/-- Channel `i` opens with the words of CHAN.OPEN. -/
def State.chanOpened (s : State) (i : Nat) (w : List Word) : State :=
  let gen := (s.get F.cmdChState_gen i + 1) % 256
  let s := s.setChan i (chanNew w)
  let st := chanWord (wf w 0 0 3) gen (wf w 0 26 6) (wb w 0 3)
  let s := ((s.setReg .cmdChState i (BitVec.ofNat 320 st)).setReg .cmdChProgress i 0).setReg .hostChErr i 0
  s.zeroG (.chan ⟨i % 1024, Nat.mod_lt _ (by decide)⟩)

theorem State.chan_chanOpened (s : State) (i : Nat) (w : List Word) : (s.chanOpened i w).chan i = chanNew w := Tab.getD_put_self ..

theorem State.reg_chanOpened (s : State) (i : Nat) (w : List Word) : (s.chanOpened i w).reg .cmdChState i =
    BitVec.ofNat 320 (chanWord (wf w 0 0 3) ((s.get F.cmdChState_gen i + 1) % 256) (wf w 0 26 6) (wb w 0 3)) :=
  (State.reg_setReg_ne _ _ (.inl (by decide))).trans ((State.reg_setReg_ne _ _ (.inl (by decide))).trans (State.reg_setReg_self ..))

theorem State.chanOpened_spec (s : State) (i : Nat) {w : List Word} (hty : wf w 0 0 3 < 16) :
    (s.chanOpened i w).chanState i = 1 ∧ (s.chanOpened i w).get F.cmdChState_type i = wf w 0 0 3 ∧
    (s.chanOpened i w).get F.cmdChState_gen i = (s.get F.cmdChState_gen i + 1) % 256 ∧ (s.chanOpened i w).chanFn i = wf w 0 26 6 ∧
    (s.chanOpened i w).bit F.cmdChState_restricted i = wb w 0 3 ∧ (s.chanOpened i w).get F.cmdChState_head i = 0 ∧
    (s.chanOpened i w).get F.cmdChState_tail i = 0 := by
  obtain ⟨hstate, htype, hgen, hrs, hfn, hlt⟩ := chanWord_fields (ty := wf w 0 0 3) (gen := (s.get F.cmdChState_gen i + 1) % 256)
    (fn := wf w 0 26 6) (wb w 0 3) hty (Nat.mod_lt _ (by decide)) (Nat.mod_lt _ (by decide))
  have hreg := s.reg_chanOpened i w
  generalize chanWord (wf w 0 0 3) ((s.get F.cmdChState_gen i + 1) % 256) (wf w 0 26 6) (wb w 0 3) = x at *
  have hget : ∀ f : Fld, f.reg = .cmdChState → (s.chanOpened i w).get f i = x / 2 ^ f.lo % 2 ^ f.len := fun f hf =>
    get_of_reg (hf ▸ hreg) (Nat.lt_trans hlt (Nat.pow_lt_pow_right (by decide) (by decide)))
  refine ⟨(hget _ rfl).trans ?_, (hget _ rfl).trans htype, (hget _ rfl).trans hgen, (hget _ rfl).trans hfn, ?_, (hget _ rfl).trans ?_,
    (hget _ rfl).trans ?_⟩
  · rw [Nat.pow_zero, Nat.div_one]
    exact hstate
  · have hbit := (hget F.cmdChState_restricted rfl).trans hrs
    rw [State.bit, hbit]
    cases wb w 0 3 <;> rfl
  · rw [Nat.div_eq_of_lt hlt]
    rfl
  · rw [Nat.div_eq_of_lt (Nat.lt_trans hlt (by decide))]
    rfl

section chans
variable {iss : Issuer} {c : Ctl} {s : State} {i : Nat}

theorem opChanOpen_of (hres : s.issRestricted iss c = true → wb c.w 0 3 = true ∧ wf c.w 0 26 6 = s.issFn iss) (hw : wd c.w 0 < 2 ^ 33)
    (hty1 : 1 ≤ wf c.w 0 0 3) (hty5 : wf c.w 0 0 3 ≤ 5) (hk6 : 6 ≤ wf c.w 0 5 5) (hk16 : wf c.w 0 5 5 ≤ 16)
    (hj : wf c.w 0 0 3 = 1 → 4 ≤ wf c.w 0 10 5 ∧ wf c.w 0 10 5 ≤ 14) (hfn : wf c.w 0 26 6 ≠ 0 → wb c.w 0 3 = true)
    (hvec : vecOk (wf c.w 0 26 6) (wf c.w 0 15 11) = true)
    (hring : ringOk (wb c.w 0 32) (wd c.w 1) (2 ^ wf c.w 0 5 5 * entBytes (wf c.w 0 0 3)) = true)
    (hcq : wf c.w 0 0 3 = 1 → ringOk (wb c.w 0 32) (wd c.w 2) (2 ^ wf c.w 0 10 5 * 64) = true)
    (hw3 : w3Reserved (wf c.w 0 0 3) (wd c.w 3) = false)
    (hfree : (List.range 1024).find? (fun i => i != 0 && s.chanState i == 0) = some i) :
    opChanOpen iss c s = ctlOk (s.chanOpened i c.w) [handle 1 ((s.get F.cmdChState_gen i + 1) % 256) i] := by
  have hmay : ¬(s.issRestricted iss c = true ∧ (wb c.w 0 3 = false ∨ wf c.w 0 26 6 ≠ s.issFn iss)) := by
    rintro ⟨hr, hno | hno⟩
    · rw [(hres hr).1] at hno; cases hno
    · exact hno (hres hr).2
  have hw0 : ¬(2 ^ 33 ≤ wd c.w 0 ∨ wf c.w 0 0 3 = 0 ∨ 5 < wf c.w 0 0 3 ∨ wf c.w 0 5 5 < 6 ∨ 16 < wf c.w 0 5 5 ∨
      (wf c.w 0 0 3 = 1 ∧ (wf c.w 0 10 5 < 4 ∨ 14 < wf c.w 0 10 5)) ∨ (wf c.w 0 26 6 ≠ 0 ∧ wb c.w 0 3 = false) ∨
      vecOk (wf c.w 0 26 6) (wf c.w 0 15 11) = false) := by
    rintro (h | h | h | h | h | ⟨h1, hbad⟩ | ⟨h0, hno⟩ | h)
    iterate 5 omega
    · have := hj h1; omega
    · rw [hfn h0] at hno; cases hno
    · rw [hvec] at h; cases h
  have hring2 : ¬(wf c.w 0 0 3 = 1 ∧ ringOk (wb c.w 0 32) (wd c.w 2) (2 ^ wf c.w 0 10 5 * 64) = false) := by
    rintro ⟨h1, hno⟩
    rw [hcq h1] at hno; cases hno
  simp only [opChanOpen, if_neg hmay, if_neg hw0, hring, if_neg hring2, hw3, hfree, Bool.true_eq_false, Bool.false_eq_true, if_false]
  rfl

/-- Who may act on a channel of a RESTRICTED issuer's own function (R329). -/
theorem chanMay_of (hres : s.issRestricted iss c = true → s.chanFn i = s.issFn iss) :
    ¬(s.issRestricted iss c = true ∧ s.chanFn i ≠ s.issFn iss) := fun h => h.2 (hres h.1)

theorem opChanClose_of (hnew : c.started = false) (hi : s.chanOf (wd c.w 0) = some i) (h0 : i ≠ 0)
    (hres : s.issRestricted iss c = true → s.chanFn i = s.issFn iss) :
    let u := s.closeChan i false
    opChanClose iss c s = if u.chanState i = 2 ∧ issKey iss ≠ i then ctlWait u { c with note := i, changed := true } else ctlEnd u stOK := by
  simp only [opChanClose, hnew, hi, if_neg (not_or.2 ⟨h0, chanMay_of hres⟩), Bool.false_eq_true, if_false]

theorem opChanInfo_of (hi : s.chanOf (wd c.w 0) = some i) (hres : s.issRestricted iss c = true → s.chanFn i = s.issFn iss) :
    opChanInfo iss c s = ctlOk s [(s.reg .cmdChState i).toNat, (s.reg .cmdChProgress i).toNat] := by
  simp only [opChanInfo, hi, if_neg (chanMay_of hres)]

/-- CMD.ABORT of a channel's CTL in hand stops it, and waits where it cannot stop at once (R345). -/
theorem opCmdAbort_of {x : Ctl} (hnew : c.started = false) (hchan : wb c.w 1 5 = false) (hi : s.chanOf (wd c.w 0) = some i)
    (hother : keyIss i ≠ iss) (hx : s.handOf (keyIss i) = some x) :
    let u := s.stopCtl (keyIss i)
    opCmdAbort iss c s = if (u.handOf (keyIss i)).isSome then ctlWait u { c with note := issKey (keyIss i) * 1024 + x.op % 1024, changed := true }
      else ctlOk u [x.op] := by
  simp only [opCmdAbort, hnew, hchan, hi, Option.map_some, if_neg hother, hx, Bool.false_eq_true, if_false]

theorem opCmdWait_start (hnew : c.started = false) (hset : c.settled = none) :
    let v := (s.regRead (wf c.w 0 0 26) (if wb c.w 0 26 then 8 else 4) (s.issMaster iss)).2.toNat
    opCmdWait iss c s = if v &&& wd c.w 1 = wd c.w 2 then ctlOk s [v] else ctlWait s { c with untilNs := some (s.ns + wd c.w 3 * 1000) } := by
  simp only [opCmdWait, hset, hnew, Bool.false_eq_true, if_false]

theorem opBarrier_start (hnew : c.started = false) : opBarrier iss c s =
    if s.eng.flights.all (fun e => decide (s.eng.nextFlight ≤ e.1)) then ctlEnd s stOK
    else .wait s { c with started := true, note := s.eng.nextFlight, untilNs := s.barrierDue (wd c.w 0) } := by
  simp only [opBarrier, hnew, Bool.false_eq_true, if_false]

end chans

/-- Settles O41: the channel named, the CTL in hand, the register's value or the flights decide each command. -/
theorem channelsAndWaits : Obligations.ChannelsAndWaits := by
  intro iss tag w s c s1
  refine ⟨fun h i => ?chanOpen, fun h i hi h0 hres => ?chanClose, fun h i hi hres => ?chanInfo, fun h i x hchan hi hother hx => ?abort,
    fun h => ?wait, fun h => ?barrier⟩ <;> obtain rfl := h.operands
  case chanOpen =>
    intro ty rs k j fn loc hres hw hty1 hty5 hk6 hk16 hj hfn hvec hring hcq hw3 hfree gen
    obtain ⟨hstate, htype, hgen, hchanFn, hrs, hhead, htail⟩ := s1.chanOpened_spec i (w := c.w) (Nat.lt_of_le_of_lt hty5 (by decide))
    have hchan := s1.chan_chanOpened i c.w
    exact ⟨s1.chanOpened i c.w, h.ends rfl rfl (opChanOpen_of hres hw hty1 hty5 hk6 hk16 hj hfn hvec hring hcq hw3 hfree), hstate, htype, hgen,
      hchanFn, hrs, hhead, htail, congrArg ChanSt.ring hchan, congrArg ChanSt.cq hchan, congrArg ChanSt.log2ring hchan,
      congrArg ChanSt.loc hchan⟩
  case chanClose =>
    intro u
    have hop := opChanClose_of h.fresh hi h0 hres
    refine ⟨fun hdone => h.ends rfl rfl (hop.trans (if_neg fun hw => ?_)), fun hstate hother => h.waits rfl rfl (hop.trans (if_pos ⟨hstate, hother⟩))⟩
    exact hdone.elim (fun hstate => hstate hw.1) hw.2
  case chanInfo => exact h.ends rfl rfl (opChanInfo_of hi hres)
  case abort =>
    intro u
    have hop := opCmdAbort_of h.fresh hchan hi hother hx
    refine ⟨fun hgone => h.ends rfl rfl (hop.trans (if_neg ?_)), fun hstays => h.waits rfl rfl (hop.trans (if_pos ?_))⟩
    · rw [hgone]
      exact Bool.false_ne_true
    · exact Option.isSome_iff_ne_none.2 hstays
  case wait =>
    have hset : c.settled = none := h.ctl ▸ (s.directCtl_fresh iss 0x005 tag.toNat _).1
    have hop := opCmdWait_start (iss := iss) (s := s1) h.fresh hset
    exact ⟨fun hshows => h.ends rfl rfl (hop.trans (if_pos hshows)), fun hnot => h.waits rfl rfl (hop.trans (if_neg hnot))⟩
  case barrier =>
    have hop := opBarrier_start (iss := iss) (s := s1) h.fresh
    refine ⟨fun hnone => h.ends rfl rfl (hop.trans (if_pos ?_)), fun ⟨e, he, hold⟩ => h.waits rfl rfl (hop.trans (if_neg fun hall => ?_))⟩
    · exact List.all_eq_true.2 fun e he => decide_eq_true (hnone e he)
    · exact Nat.not_le.2 hold (of_decide_eq_true (List.all_eq_true.1 hall e he))

end Sys2Proof.Machine
end

section

/-!
PROOFS. How a control instruction is judged and completed (O39).
-/

namespace Sys2Proof.Machine
set_option Elab.async false

/-! ### The command engines after a completion -/

/-- No CTL of the issuer is in hand, parked or on an engine. -/
structure CtlOver (iss : Issuer) (s : State) : Prop where
  current : Tab.get? s.cmd.current (issKey iss) = none
  parked : Tab.get? s.cmd.parked (issKey iss) = none
  engines : ∀ e ∈ s.cmd.engines, e.2 ≠ iss

/-- The state in which the engine lets its issuer go. -/
def State.ctlReleased (s : State) (iss : Issuer) : State :=
  { s with cmd := { s.cmd with current := Tab.del s.cmd.current (issKey iss), parked := Tab.del s.cmd.parked (issKey iss),
                               engines := s.cmd.engines.filter (fun e => e.2 != iss) } }

theorem CtlOver.ctlReleased (s : State) (iss : Issuer) : CtlOver iss (s.ctlReleased iss) :=
  ⟨Tab.get?_del_self .., Tab.get?_del_self .., fun _ he => bne_iff_ne.1 (List.mem_filter.1 he).2⟩

/-- What changes neither the CTLs in hand nor the engines keeps it so. -/
theorem CtlOver.of_cmd {iss : Issuer} {s u : State} (h : CtlOver iss s) (hcur : u.cmd.current = s.cmd.current)
    (hpark : u.cmd.parked = s.cmd.parked) (heng : u.cmd.engines = s.cmd.engines) : CtlOver iss u :=
  ⟨by rw [hcur]; exact h.current, by rw [hpark]; exact h.parked, by rw [heng]; exact h.engines⟩

theorem CtlOver.closeStep {iss : Issuer} {s : State} (h : CtlOver iss s) (d : Nat) : CtlOver iss (s.closeStep d) := by
  unfold State.closeStep
  split
  · exact h.of_cmd rfl rfl rfl
  · exact h

theorem CtlOver.joinReady {iss : Issuer} {s : State} (h : CtlOver iss s) (i : Issuer) : CtlOver iss (s.joinReady i) := by
  unfold State.joinReady
  split
  · exact h.of_cmd rfl rfl rfl
  · exact h

/-- A completed channel: a failure of a flagged channel is noted, and PARKED and the progress are cleared. -/
def State.chanSettled (s : State) (d : Nat) (fail : Bool) : State :=
  ((s.setChan d { s.chan d with failing := (s.chan d).failing || fail, mute := false }).setBit F.cmdChState_parked d false).setBit
    F.cmdChProgress_valid d false

theorem CtlOver.chanSettled {iss : Issuer} {s : State} (h : CtlOver iss s) (d : Nat) (fail : Bool) : CtlOver iss (s.chanSettled d fail) :=
  h.of_cmd rfl rfl rfl

theorem State.finish_chan (s : State) (d : Chan) (c : Ctl) (st pr : Nat) (res : List Word) : ∃ fail, s.finish (.chan d) c st pr res =
    ((((s.complete (.chan d) c.op c.tag c.slot st pr res c.task none).ctlReleased (.chan d)).chanSettled d.val fail).closeStep d.val).joinReady
      (.chan d) := ⟨_, rfl⟩

theorem State.finish_tug (s : State) (t : Core) (c : Ctl) (st pr : Nat) (res : List Word) : s.finish (.tug t) c st pr res =
    ((s.complete (.tug t) c.op c.tag c.slot st pr res c.task (some c.sup)).ctlReleased (.tug t)).joinReady (.tug t) := rfl

/-- A completion leaves nothing of the CTL with the command engines (R331). -/
theorem ctlOver_finish (s : State) (iss : Issuer) (c : Ctl) (st pr : Nat) (res : List Word) : CtlOver iss (s.finish iss c st pr res) := by
  cases iss with
  | chan d =>
    obtain ⟨fail, heq⟩ := s.finish_chan d c st pr res
    rw [heq]
    exact (((CtlOver.ctlReleased _ _).chanSettled _ _).closeStep _).joinReady _
  | tug t =>
    rw [State.finish_tug]
    exact (CtlOver.ctlReleased _ _).joinReady _

/-! ### What the books of a completion leave alone -/

/-- The command engines, the host side and the channels' and the mode's registers stand. -/
structure BooksOnly (s u : State) : Prop where
  cmd : u.cmd = s.cmd
  host : u.host = s.host
  hostMem : u.hostMem = s.hostMem
  get : ∀ (f : Fld) (i : Nat), f.reg = .cmdChState ∨ f.reg = .sysMode → f.lo + f.len ≤ 320 → u.get f i = s.get f i

theorem BooksOnly.trans {s t u : State} (h1 : BooksOnly s t) (h2 : BooksOnly t u) : BooksOnly s u :=
  ⟨h2.cmd.trans h1.cmd, h2.host.trans h1.host, h2.hostMem.trans h1.hostMem, fun f i hf hlen => (h2.get f i hf hlen).trans (h1.get f i hf hlen)⟩

theorem BooksOnly.refl {s : State} : BooksOnly s s := ⟨rfl, rfl, rfl, fun _ _ _ _ => rfl⟩

theorem BooksOnly.pmc (s : State) (e : PmcEv) : BooksOnly s (s.pmc e) := by
  have h := State.pmc_counts (s := s) (e := e)
  refine ⟨h.cmd, h.host, h.hostMem, fun f i hf hlen => h.get f i ?_ (.inl ?_) hlen⟩
  · rcases hf with e | e <;> rw [e] <;> decide
  · rcases hf with e | e <;> rw [e] <;> decide

theorem BooksOnly.bump (s : State) (f : Fld) (i : Nat) (h : f.reg ≠ .cmdChState ∧ f.reg ≠ .sysMode) : BooksOnly s (s.bump f i) :=
  ⟨rfl, rfl, rfl, fun _ _ hg _ => State.get_set_other _ _ _ _ fun hf =>
    hg.elim (fun e => h.1 (hf.symm.trans e)) fun e => h.2 (hf.symm.trans e)⟩

theorem BooksOnly.setG (s : State) (x : CtxId) (r : RegNo) (v : Word) : BooksOnly s (s.setG x r v) := by
  unfold State.setG
  split
  · exact .refl
  · exact ⟨rfl, rfl, rfl, fun _ _ _ _ => rfl⟩

theorem BooksOnly.useFree (s : State) : BooksOnly s s.useFree := ⟨rfl, rfl, rfl, fun _ _ _ _ => rfl⟩

theorem BooksOnly.microCount (s : State) (master : Nat) : BooksOnly s (s.microCount master) := by
  unfold State.microCount
  split
  · exact (BooksOnly.pmc s _).trans (BooksOnly.useFree _)
  · exact .refl

theorem BooksOnly.chanResults (s : State) (d : Chan) (res : List Word) : BooksOnly s (s.chanResults d res) := by
  match res with
  | [] => exact .refl
  | [a] => exact BooksOnly.setG ..
  | a :: b :: _ => exact (BooksOnly.setG s _ _ a).trans (BooksOnly.setG ..)

/-- The state in which the completion entry of a channel is written: counted, and the results in the channel's registers. -/
def State.booked (s : State) (d : Chan) (res : List Word) (task : Option Nat) (sup : Option Bool) : State :=
  let master := 0x10 + s.engineOf (.chan d)
  (((s.bump F.cmdCntExec (s.engineOf (.chan d))).pmc
    { code := 0x0D01, master := master, sup := sup, task := task.elim 0 s.taskHandle }).microCount
      master).chanResults d res

theorem BooksOnly.booked (s : State) (d : Chan) (res : List Word) (task : Option Nat) (sup : Option Bool) :
    BooksOnly s (s.booked d res task sup) :=
  (((BooksOnly.bump s _ _ ⟨by decide, by decide⟩).trans (BooksOnly.pmc ..)).trans (BooksOnly.microCount ..)).trans (BooksOnly.chanResults ..)

theorem BooksOnly.chan {s u : State} (h : BooksOnly s u) (d : Nat) : u.chan d = s.chan d := by
  unfold State.chan
  rw [h.cmd]

/-- What the books leave alone decides whether a channel runs. -/
theorem BooksOnly.chanRuns {s u : State} (h : BooksOnly s u) (d : Nat) : u.chanRuns d = s.chanRuns d := by
  have hmode : u.modeNo = s.modeNo := h.get _ _ (.inr rfl) (by decide)
  have hfn : u.chanFn d = s.chanFn d := h.get _ _ (.inl rfl) (by decide)
  unfold State.chanRuns State.chan
  rw [hmode, hfn, h.cmd, h.host]

/-! ### The entry of a completion ring (Table 11.3) -/

theorem length_complBytes (st tag op pr slot master : Nat) (res : List Word) (phase : Bool) :
    (complBytes st tag op pr slot master res phase).length = 64 := by
  have hres : ((List.range 5).flatMap fun i => leBytes 8 (res.getD i 0).toNat).length = 40 := by
    simp only [List.length_flatMap, leBytes_length] <;> rfl
  simp only [complBytes, List.length_append, leBytes_length, hres]

section entry
variable {s : State} {d : Chan} {op tag slot st pr : Nat} {res : List Word} {task : Option Nat} {sup : Option Bool}

/-- The next place of a completion ring. -/
def ChanSt.cqNext (ch : ChanSt) : Nat := (ch.cqTail + 1) % 2 ^ ch.log2cq

/-- The ring's tail moves on, and the phase turns over at the ring's end. -/
def ChanSt.moveOn (ch : ChanSt) : ChanSt := { ch with cqTail := ch.cqNext, phase := if ch.cqNext = 0 then !ch.phase else ch.phase }

/-- A completion entry is written at the ring's tail, unless completions are discarded; the tail moves on. -/
def State.chanEntry (s : State) (d : Nat) (bytes : Bool → List Byte) : State :=
  let ch := s.chan d
  if ch.mute then s else
  let t := if s.chanRuns d then s.chPut d (ch.cq + ch.cqTail * 64) (bytes ch.phase) else s
  (t.setChan d { t.chan d with cqTail := ch.cqNext, phase := if ch.cqNext = 0 then !(t.chan d).phase else (t.chan d).phase }).entryWritten d

theorem State.complete_chan : s.complete (.chan d) op tag slot st pr res task sup =
    (s.booked d res task sup).chanEntry d.val (complBytes st tag op pr slot (0x10 + s.engineOf (.chan d)) res) := by
  have hbooked : s.booked d res task sup = (((s.bump F.cmdCntExec (s.engineOf (.chan d))).pmc
      { code := 0x0D01, master := 0x10 + s.engineOf (.chan d), sup := sup, task := match task with | some k => s.taskHandle k | none => 0 }).microCount
        (0x10 + s.engineOf (.chan d))).chanResults d res := by
    cases task <;> rfl
  unfold State.complete
  extract_lets master t u
  have htail : s.booked d res task sup = u.chanResults d res := hbooked
  rw [htail]
  clear_value u
  exact rfl

end entry

/-- A host channel's entry goes to the host's memory and is counted. -/
theorem State.chPut_host {s : State} {d : Nat} (hloc : (s.chan d).loc = false) (a : Nat) (l : List Byte) :
    BooksOnly (s.hostWrite (s.chanFn d) a l) (s.chPut d a l) := by
  have hwrite : s.chWrite d a l = s.hostWrite (s.chanFn d) a l := if_neg (by simp [hloc])
  unfold State.chPut
  rw [hwrite]
  dsimp only
  split
  · exact .refl
  · exact BooksOnly.pmc ..

/-- Noting an entry leaves the ring as it stands. -/
theorem State.entryWritten_spec (s : State) (d : Nat) : ((s.entryWritten d).chan d).cqTail = (s.chan d).cqTail ∧
    ((s.entryWritten d).chan d).phase = (s.chan d).phase ∧ (s.entryWritten d).hostMem = s.hostMem ∧
    (s.entryWritten d).chanState d = s.chanState d := by
  have hchan : (s.entryWritten d).chan d = { s.chan d with
      unsignalled := (s.chan d).unsignalled + 1, firstNs := if (s.chan d).unsignalled = 0 then s.ns else (s.chan d).firstNs } :=
    State.chan_setChan_self ..
  rw [hchan]
  exact ⟨rfl, rfl, rfl, State.get_bump_reg _ _ _ (by decide)⟩

/-- The entry stands in the host's memory at the ring's tail, which moves on. -/
theorem State.chanEntry_spec {s : State} {d : Nat} {bytes : Bool → List Byte} (hmute : (s.chan d).mute = false)
    (hruns : s.chanRuns d = true) (hloc : (s.chan d).loc = false) (hlen : ∀ p, (bytes p).length = 64) :
    (s.chanEntry d bytes).hostMem.bytes (hostCell (s.chanFn d) ((s.chan d).cq + (s.chan d).cqTail * 64)) 64 = bytes (s.chan d).phase ∧
    ((s.chanEntry d bytes).chan d).cqTail = (s.chan d).cqNext ∧
    ((s.chanEntry d bytes).chan d).phase = (if (s.chan d).cqNext = 0 then !(s.chan d).phase else (s.chan d).phase) ∧
    (s.chanEntry d bytes).chanState d = s.chanState d := by
  have hput := State.chPut_host hloc ((s.chan d).cq + (s.chan d).cqTail * 64) (bytes (s.chan d).phase)
  have heq : s.chanEntry d bytes =
      let t := s.chPut d ((s.chan d).cq + (s.chan d).cqTail * 64) (bytes (s.chan d).phase)
      (t.setChan d { t.chan d with cqTail := (s.chan d).cqNext, phase :=
        if (s.chan d).cqNext = 0 then !(t.chan d).phase else (t.chan d).phase }).entryWritten d := by
    unfold State.chanEntry
    dsimp only
    rw [if_neg (by simp [hmute]), if_pos hruns]
  rw [heq]
  generalize s.chPut d ((s.chan d).cq + (s.chan d).cqTail * 64) (bytes (s.chan d).phase) = t at *
  have hchan : t.chan d = s.chan d := hput.chan d
  dsimp only
  obtain ⟨htail, hphase, hmem, hstate⟩ := State.entryWritten_spec (t.setChan d { t.chan d with cqTail := (s.chan d).cqNext, phase :=
    if (s.chan d).cqNext = 0 then !(t.chan d).phase else (t.chan d).phase }) d
  rw [htail, hphase, hmem, hstate, State.chan_setChan_self]
  refine ⟨?_, rfl, by rw [hchan], hput.get _ _ (.inl rfl) (by decide)⟩
  have hbytes := Memory.bytes_setBytes s.hostMem (hostCell (s.chanFn d) ((s.chan d).cq + (s.chan d).cqTail * 64)) (bytes (s.chan d).phase)
  rw [hlen] at hbytes
  change t.hostMem.bytes _ 64 = _
  rw [hput.hostMem]
  exact hbytes

/-- A channel that is OPEN stays as its completion leaves it. -/
theorem State.finish_open {s : State} {d : Chan} {c : Ctl} {st pr : Nat} {res : List Word} {e : State}
    (he : s.complete (.chan d) c.op c.tag c.slot st pr res c.task none = e) (hopen : e.chanState d.val = 1) :
    (s.finish (.chan d) c st pr res).hostMem = e.hostMem ∧
    ((s.finish (.chan d) c st pr res).chan d.val).cqTail = (e.chan d.val).cqTail ∧
    ((s.finish (.chan d) c st pr res).chan d.val).phase = (e.chan d.val).phase := by
  obtain ⟨fail, heq⟩ := s.finish_chan d c st pr res
  rw [heq, he]
  have hjoin : ∀ u : State, (u.joinReady (.chan d)).hostMem = u.hostMem ∧ (u.joinReady (.chan d)).chan d.val = u.chan d.val := fun u => by
    unfold State.joinReady
    split <;> exact ⟨rfl, rfl⟩
  have hstate : ((e.ctlReleased (.chan d)).chanSettled d.val fail).chanState d.val = 1 := by
    unfold State.chanSettled State.chanState State.setBit
    rw [State.get_set_other _ _ _ _ (by decide), State.get_set_field _ F.cmdChState_parked F.cmdChState_state _ _ rfl (by decide) (by decide)]
    exact hopen
  have hclose : ∀ u : State, u.chanState d.val = 1 → u.closeStep d.val = u := fun u hu => if_neg (by rw [hu]; exact fun h => by omega)
  rw [hclose _ hstate, (hjoin _).1, (hjoin _).2]
  have hchan : ((e.ctlReleased (.chan d)).chanSettled d.val fail).chan d.val =
    { e.chan d.val with failing := (e.chan d.val).failing || fail, mute := false } := State.chan_setChan_self ..
  rw [hchan]
  exact ⟨rfl, rfl, rfl⟩

/-- The 64 bytes of the entry stand at the tail of the completion ring, and the tail moves on (R331, Table 11.3). -/
theorem State.finish_entry {s : State} {d : Chan} (c : Ctl) (st pr : Nat) (res : List Word) (hmute : (s.chan d.val).mute = false)
    (hruns : s.chanRuns d.val = true) (hloc : (s.chan d.val).loc = false) (hopen : s.chanState d.val = 1) :
    let u := s.finish (.chan d) c st pr res
    let ch := s.chan d.val
    u.hostRead (s.chanFn d.val) (ch.cq + ch.cqTail * 64) 64 = complBytes st c.tag c.op pr c.slot (0x10 + s.engineOf (.chan d)) res ch.phase ∧
    (u.chan d.val).cqTail = ch.cqNext ∧ (u.chan d.val).phase = (if ch.cqNext = 0 then !ch.phase else ch.phase) := by
  have hbooks := BooksOnly.booked s d res c.task none
  have hcomplete := State.complete_chan (s := s) (d := d) (op := c.op) (tag := c.tag) (slot := c.slot) (st := st) (pr := pr) (res := res)
    (task := c.task) (sup := none)
  have hchan := hbooks.chan d.val
  have hfn : (s.booked d res c.task none).chanFn d.val = s.chanFn d.val := hbooks.get _ _ (.inl rfl) (by decide)
  have hstate : (s.booked d res c.task none).chanState d.val = s.chanState d.val := hbooks.get _ _ (.inl rfl) (by decide)
  have hrun2 := (hbooks.chanRuns d.val).trans hruns
  generalize s.booked d res c.task none = b at *
  obtain ⟨hmem, htail, hphase, hstate2⟩ := State.chanEntry_spec (bytes := complBytes st c.tag c.op pr c.slot (0x10 + s.engineOf (.chan d)) res)
    (by rw [hchan]; exact hmute) hrun2 (by rw [hchan]; exact hloc) (fun p => length_complBytes ..)
  rw [hchan] at hmem htail hphase
  rw [hfn] at hmem
  obtain ⟨hfmem, hftail, hfphase⟩ := State.finish_open hcomplete (hstate2.trans (hstate.trans hopen))
  refine ⟨?_, hftail.trans htail, hfphase.trans hphase⟩
  unfold State.hostRead
  rw [hfmem]
  exact hmem

/-! ### How a control instruction is judged (R335, R338) -/

/-- Each row is the control instruction of its opcode with the words that it fixes. -/
theorem exec_ctlRows : ∀ r ∈ ctlRows, ∀ (iss : Issuer) (tag : BitVec 6) (ops : List Word) (s : State),
    exec (r.1 iss tag ops) s = .next (s.direct iss r.2.1 tag (r.2.2 ops)) := by
  simp only [ctlRows, List.forall_mem_append, List.forall_mem_cons, List.not_mem_nil, false_implies, implies_true, and_true]
  and_intros
  all_goals exact fun _ _ _ _ => rfl

section judged
variable {iss : Issuer} {op : Nat} {tag : BitVec 6} {w : List Word} {s s1 : State} {c : Ctl} {need m : Nat} {p : Bool} {f : CtlFn}

/-- With no engine free nothing happens. -/
theorem State.direct_noEngine (h : ∀ e, e < 8 → s.engineFree e = false) : s.direct iss op tag w = s := by
  have hnone : (List.range 8).find? (fun e => s.engineFree e) = none :=
    List.find?_eq_none.2 fun e he => ne_true_of_eq_false (h e (List.mem_range.1 he))
  simp only [State.direct, hnone, ite_self]

/-- With no room for its completion a CTL parks. -/
theorem State.direct_noRoom {e : Nat} (hruns : s.commandsRun = true) (hmay : s.mayIssue iss = true)
    (he : (List.range 8).find? (fun e => s.engineFree e) = some e)
    (hroom : (s.taken e iss (s.directCtl iss op tag.toNat w)).cqRoom iss = false) :
    s.direct iss op tag w = (s.taken e iss (s.directCtl iss op tag.toNat w)).park iss (s.directCtl iss op tag.toNat w) := by
  simp only [State.direct, hruns, hmay, Bool.and_self, Bool.true_eq_false, if_false, he]
  exact if_pos hroom

/-- A CTL that is new is judged by its row of Table 11.4: its modes, its right, its number of words. -/
theorem runCtl_new (h : CtlTaken op iss tag w s c s1) (hop : ctlOp op = some (need, m, p, f)) : runCtl iss c s1 =
    if opModeOk m s1.modeNo = false then ctlEnd s1 stBAD_MODE else if p = true ∧ s1.issRestricted iss c = true then ctlEnd s1 stDENIED
    else if w.length < need then ctlBad s1 w.length else f iss c s1 := by
  have hnew := s.directCtl_fresh iss op tag.toNat w
  rw [← h.ctl] at hnew
  obtain ⟨hsettled, hstarted, hopc, hw⟩ := hnew
  simp only [runCtl, hsettled, hopc, hop, hstarted, hw, Bool.false_eq_true, if_false]

end judged

/-- Settles O39: the books of a completion leave the ring's entry alone; every row is judged by the same tests, in their order. -/
theorem controlInstructions : Obligations.ControlInstructions := by
  refine ⟨fun s iss c st pr res => ?completed, fun r hr iss tag ops s => ?judged⟩
  case completed =>
    have hover := ctlOver_finish s iss c st pr res
    refine ⟨hover.current, hover.parked, hover.engines, fun d hiss hmute hruns hloc hopen => ?_⟩
    subst hiss
    exact s.finish_entry c st pr res hmute hruns hloc hopen
  case judged =>
    have hexec := exec_ctlRows r hr iss tag ops s
    refine ⟨fun hno => ?_, fun hno => ?_, fun e hruns hmay he hroom => ?_, fun c s1 need m p f htaken hop => ?_⟩
    · rw [hexec, State.direct_idle hno]
    · rw [hexec, State.direct_noEngine hno]
    · rw [hexec, State.direct_noRoom hruns hmay he hroom]
    · have hrun := runCtl_new htaken hop
      refine ⟨fun hmode => ?_, fun hmode hp hres => ?_, fun hmode hright hwords => ?_, fun h => ⟨fun t st pr res hf => h.ends hexec hop hf,
        fun t d hf => h.waits hexec hop hf⟩⟩
      · rw [hexec, State.direct_done htaken (hrun.trans (if_pos hmode))]
      · rw [hexec, State.direct_done htaken (hrun.trans ((if_neg (ne_false_of_eq_true hmode)).trans (if_pos ⟨hp, hres⟩)))]
      · rw [hexec, State.direct_done htaken (hrun.trans ((if_neg (ne_false_of_eq_true hmode)).trans ((if_neg hright).trans (if_pos hwords))))]

end Sys2Proof.Machine
end

section

/-!
PROOFS. Register reads with an effect (O35).
-/

namespace Sys2Proof.Machine
set_option Elab.async false

/-! ### Where the registers of these reads stand -/

theorem findReg_latCount : ∀ n : Fin 64, findReg (0xBF0008 + n.val * 0x200) = some (.tmLatCount, n.val, 0) := by decide +kernel

theorem findReg_tbNow : ∀ x : TBase, findReg (0x100040 + x.val * 0x100) = some (.timeTbNow, x.val, 0) := by decide +kernel

theorem findReg_tlNow : findReg 0x100800 = some (.timeTlNow, 0, 0) := by decide +kernel

theorem findReg_txtsData : ∀ (p : Port) (w : Fin 4), findReg (0x104000 + p.val * 0x40 + w.val * 8) = some (.timeTxtsData, p.val, 8 * w.val) := by
  decide +kernel

/-! ### A read by the host -/

/-- The bits of a register that a read leaves out. -/
abbrev Reg.woBits (r : Reg) : RegVal := r.row.bits (· == .wo)

/-- The bits of a register that a read clears (R6). -/
abbrev Reg.rcBits (r : Reg) : RegVal := r.row.bits (· == .rc)

/-- The bits of one 64-bit read. -/
abbrev readMask : RegVal := BitVec.ofNat 320 (2 ^ 64 - 1)

theorem State.reg_emit (s : State) (e : OutEv) (r : Reg) (i : Nat) : (s.emit e).reg r i = s.reg r i := rfl

section reads
variable {s : State} {off i b : Nat} {r : Reg}

theorem State.readable?_of (h : s.modeNo ≠ mRESET) : s.readable? = true := bne_iff_ne.2 h

/-- A host read draws the register, clears what it clears, and sends the value. -/
theorem State.hostRegRead_of (h : findReg off = some (r, i, b)) : s.hostRegRead off 8 =
    ((s.drawReg r i b 8 0x50).1.clearRc r i).emit (.rdata ((((s.drawReg r i b 8 0x50).2 &&& ~~~r.woBits) >>> (8 * b)) &&& readMask)) := by
  simp only [State.hostRegRead, State.regRead, h]

/-- A register without such bits is not cleared. -/
theorem State.clearRc_none (hrc : r.rcBits = 0) (hidle : r ≠ .bufCntReadIdle) : s.clearRc r i = s := by
  unfold State.clearRc
  dsimp only
  rw [if_neg hidle]
  exact if_pos ((congrArg (s.reg r i &&& ·) hrc).trans (BitVec.and_zero ..))

/-- What a clearing read leaves (R6). -/
theorem State.clearRc_spec (s : State) (r : Reg) (i : Nat) : (s.clearRc r i).reg r i &&& r.rcBits = 0 ∧
    (r ≠ .bufCntReadIdle → (s.clearRc r i).tm = s.tm) ∧ s.clearRc r i = { s with regs := (s.clearRc r i).regs, tm := (s.clearRc r i).tm } := by
  unfold State.clearRc
  extract_lets m _ t
  have ht : (r ≠ .bufCntReadIdle → t.tm = s.tm) ∧ t = { s with tm := t.tm } := by
    by_cases hidle : r = .bufCntReadIdle
    · exact ⟨fun h => absurd hidle h, by simp only [t, if_pos hidle]⟩
    · exact ⟨fun _ => by simp only [t, if_neg hidle], by simp only [t, if_neg hidle]⟩
  obtain ⟨htm, hframe⟩ := ht
  clear_value t
  split
  case isTrue hclear => exact ⟨hclear, htm, hframe.trans (by rw [hframe])⟩
  case isFalse =>
    refine ⟨?_, htm, ?_⟩
    · rw [State.reg_setReg_self, BitVec.and_assoc]
      simp [m]
    · rw [hframe]
      rfl

end reads

/-! ### COUNTER_READ_CLEAR (R6) -/

section plain
variable {s : State} {r : Reg} {i : Nat}

/-- The value that a register shows whose reads latch nothing; the errors of PRBS and a BUSY seal unit's value are drawn freely. -/
theorem State.drawReg_plain (hbase : nowBase r i = none) (htxts : r ≠ .timeTxtsData) (hlat : r ≠ .tmLatCount) (n master : Nat) :
    s.drawReg r i 0 n master = if r = .sealRunning ∧ s.get F.sealCtl_state i = suBUSY then (s.useFree, s.view r i)
      else if r = .sysDrydockPort ∧ s.get F.sysDrydockPort_loop i = 3 then (s.useFree, putBits (s.view r i) 32 32 s.freeVal.toNat)
      else (s, s.view r i) := by
  unfold State.drawReg
  rw [hbase]
  exact (if_neg htxts).trans (if_neg hlat)

theorem State.drawReg_plain_spec (hbase : nowBase r i = none) (htxts : r ≠ .timeTxtsData) (hlat : r ≠ .tmLatCount) (n master : Nat) :
    let lost : Prop := r = .sysDrydockPort ∧ s.get F.sysDrydockPort_loop i = 3
    (¬lost → (s.drawReg r i 0 n master).2 = s.view r i) ∧
    (lost → (s.drawReg r i 0 n master).2 = putBits (s.view r i) 32 32 s.freeVal.toNat) ∧
    (¬(lost ∨ (r = .sealRunning ∧ s.get F.sealCtl_state i = suBUSY)) → (s.drawReg r i 0 n master).1.freeCtr = s.freeCtr) ∧
    (s.drawReg r i 0 n master).1 = { s with freeCtr := (s.drawReg r i 0 n master).1.freeCtr } := by
  intro lost
  rw [State.drawReg_plain hbase htxts hlat]
  by_cases hseal : r = .sealRunning ∧ s.get F.sealCtl_state i = suBUSY
  · rw [if_pos hseal]
    have hno : ¬lost := fun h => absurd (hseal.1.symm.trans h.1) (by decide)
    exact ⟨fun _ => rfl, fun h => absurd h hno, fun h => absurd (.inr hseal) h, rfl⟩
  · rw [if_neg hseal]
    by_cases hlost : lost
    · rw [if_pos hlost]
      exact ⟨fun h => absurd hlost h, fun _ => rfl, fun h => absurd (.inl hlost) h, rfl⟩
    · rw [if_neg hlost]
      exact ⟨fun _ => rfl, fun h => absurd h hlost, fun _ => rfl, rfl⟩

end plain

theorem exec_counterReadClear {s : State} {off : BitVec 26} {r : Reg} {i : Nat} (hmode : s.modeNo ≠ mRESET)
    (hreg : findReg off.toNat = some (r, i, 0)) : exec (.counterReadClear off) s =
      .next (((s.drawReg r i 0 8 0x50).1.clearRc r i).emit (.rdata (((s.drawReg r i 0 8 0x50).2 &&& ~~~r.woBits) &&& readMask))) := by
  have hread := State.hostRegRead_of (s := s) hreg
  rw [Nat.mul_zero, BitVec.ushiftRight_zero] at hread
  exact congrArg Host.Outcome.next ((if_pos (State.readable?_of hmode)).trans hread)

/-! ### TM_LAT_COUNT (R264) -/

/-- The snapshot of a monitor, apart from its bins. -/
def State.latTotals (s : State) (k : Nat) : State :=
  let l := Tab.getD s.tm.lat k {}
  (((s.setReg .tmLatCount k (BitVec.ofNat 320 (l.count % 2 ^ 48 + (decide (l.count < 64)).toNat * 2 ^ 63))).set F.tmLatMin_value k l.least).set
    F.tmLatMax_value k l.most).set F.tmLatSum_value k l.sum

theorem State.latTotals_spec (s : State) (k : Nat) :
    let l := Tab.getD s.tm.lat k {}
    (s.latTotals k).get F.tmLatCount_count k = l.count % 2 ^ 48 ∧ (s.latTotals k).get F.tmLatMin_value k = l.least % 2 ^ 64 ∧
    (s.latTotals k).get F.tmLatMax_value k = l.most % 2 ^ 64 ∧ (s.latTotals k).get F.tmLatSum_value k = l.sum % 2 ^ 64 := by
  intro l
  unfold State.latTotals
  refine ⟨?_, ?_, ?_, State.get_set_self _ _ _ _ (by decide)⟩
  · rw [State.get_set_other _ _ _ _ (by decide), State.get_set_other _ _ _ _ (by decide), State.get_set_other _ _ _ _ (by decide),
      State.get, State.reg_setReg_self, BitVec.extractLsb'_toNat, BitVec.toNat_ofNat, Nat.shiftRight_zero]
    have hpow : (2 : Nat) ^ 48 ∣ 2 ^ 320 := Nat.pow_dvd_pow 2 (by decide)
    rw [show F.tmLatCount_count.len = 48 from rfl, Nat.mod_mod_of_dvd _ hpow]
    cases decide (l.count < 64) <;> simp only [Bool.toNat_false, Bool.toNat_true, l] <;> omega
  · rw [State.get_set_other _ _ _ _ (by decide), State.get_set_other _ _ _ _ (by decide), State.get_set_self _ _ _ _ (by decide)]
  · rw [State.get_set_other _ _ _ _ (by decide), State.get_set_self _ _ _ _ (by decide)]

/-- The bins of a snapshot leave the totals, and change registers alone. -/
theorem State.latSnap_spec (s : State) (k : Nat) : (∀ (f : Fld) (i : Nat), f.reg ≠ .tmLatBin → (s.latSnap k).get f i = (s.latTotals k).get f i) ∧
    s.latSnap k = { s with regs := (s.latSnap k).regs } := by
  have heq : s.latSnap k = (List.range 16).foldl (fun u b => u.set F.tmLatBin_value (k * 16 + b) (Tab.getD (Tab.getD s.tm.lat k {}).bins b 0))
    (s.latTotals k) := rfl
  rw [heq]
  refine foldl_keeps (P := fun u : State => (∀ (f : Fld) (i : Nat), f.reg ≠ .tmLatBin → u.get f i = (s.latTotals k).get f i) ∧
    u = { s with regs := u.regs }) (fun u b hu => ?_) _ ⟨fun _ _ _ => rfl, rfl⟩
  obtain ⟨hget, hframe⟩ := hu
  exact ⟨fun f i hf => (State.get_set_other _ _ _ _ hf).trans (hget f i hf), congrArg (fun v : State => v.set _ _ _) hframe⟩

theorem exec_tmLatCountRead {s : State} (hmode : s.modeNo ≠ mRESET) (n : Fin 64) : exec (.tmLatCountRead n) s =
    .next ((s.latSnap n.val).emit (.rdata ((s.latSnap n.val).reg .tmLatCount n.val &&& readMask))) := by
  have hread := State.hostRegRead_of (s := s) (findReg_latCount n)
  have hdraw : s.drawReg .tmLatCount n.val 0 8 0x50 = (s.latSnap n.val, (s.latSnap n.val).reg .tmLatCount n.val) := by
    unfold State.drawReg
    dsimp only [nowBase]
    rw [if_neg (by decide), if_pos rfl]
  have hwo : ~~~Reg.tmLatCount.woBits = BitVec.allOnes 320 := by decide +kernel
  rw [hdraw] at hread
  generalize s.latSnap n.val = t at *
  rw [State.clearRc_none (by decide +kernel) (by decide), hwo, BitVec.and_allOnes] at hread
  exact congrArg Host.Outcome.next ((if_pos (State.readable?_of hmode)).trans hread)

/-! ### TIME_NOW (R294) -/

/-- A master's latch of a base holds the whole value. -/
def State.nowLatched (s : State) (master k : Nat) : State :=
  { s with time := { s.time with latches := Tab.put s.time.latches (master * 16 + k) (s.nowOf k) } }

/-- The read of the low word of a NOW register. -/
theorem State.regRead_now {s : State} {off i k : Nat} {r : Reg} (h : findReg off = some (r, i, 0)) (hbase : nowBase r i = some k)
    (hbits : r.rcBits = 0 ∧ ~~~r.woBits = BitVec.allOnes 320 ∧ r ≠ .bufCntReadIdle) (master : Nat) :
    s.regRead off 8 master = (s.nowLatched master k, (s.nowOf k).setWidth 320 &&& readMask) := by
  obtain ⟨hrc, hwo, hidle⟩ := hbits
  have hdraw : s.drawReg r i 0 8 master = (s.nowLatched master k, (s.nowOf k).setWidth 320) := by
    unfold State.drawReg
    rw [hbase]
    rfl
  simp only [State.regRead, h, hdraw, State.clearRc_none hrc hidle]
  rw [hwo, BitVec.and_allOnes]
  rfl

/-- The offset of a base's NOW register, and of TL's. -/
def nowOff (b : Option TBase) : Nat := b.elim 0x100800 fun x => 0x100040 + x.val * 0x100

theorem exec_timeNowRead {s : State} (hmode : s.modeNo ≠ mRESET) (m : BitVec 8) (b : Option TBase) {k : Nat}
    (hread : s.regRead (nowOff b) 8 m.toNat = (s.nowLatched m.toNat k, (s.nowOf k).setWidth 320 &&& readMask)) :
    exec (.timeNowRead m b) s = .next (if m = 0x50 then
      (s.nowLatched m.toNat k).emit (.rdata ((s.nowOf k).setWidth 320 &&& readMask)) else s.nowLatched m.toNat k) := by
  have hexec : exec (.timeNowRead m b) s = .next (if s.readable? then
      if m = 0x50 then (s.regRead (nowOff b) 8 m.toNat).1.emit (.rdata (s.regRead (nowOff b) 8 m.toNat).2)
      else (s.regRead (nowOff b) 8 m.toNat).1 else s) := by
    cases b <;> rfl
  rw [hexec, if_pos (State.readable?_of hmode), hread]

/-- What the read of a NOW register leaves. -/
theorem State.nowRead_spec (s : State) (m : BitVec 8) (k : Nat) (v : RegVal) :
    let u := if m = 0x50 then (s.nowLatched m.toNat k).emit (.rdata v) else s.nowLatched m.toNat k
    Tab.get? u.time.latches (m.toNat * 16 + k) = some (s.nowOf k) ∧ u.out = (if m = 0x50 then s.out ++ [OutEv.rdata v] else s.out) ∧
    u = { s with time := u.time, out := u.out } := by
  have hlatch : Tab.get? (s.nowLatched m.toNat k).time.latches (m.toNat * 16 + k) = some (s.nowOf k) := Tab.get?_put_self ..
  intro u
  by_cases hm : m = 0x50
  · have hu : u = (s.nowLatched m.toNat k).emit (.rdata v) := if_pos hm
    rw [hu, if_pos hm]
    exact ⟨hlatch, rfl, rfl⟩
  · have hu : u = s.nowLatched m.toNat k := if_neg hm
    rw [hu, if_neg hm]
    exact ⟨hlatch, rfl, rfl⟩

/-! ### The transmit stamp FIFOs (R306) -/

/-- The 32 bytes that a read of a FIFO sees: its head, or zeros. -/
def State.txHead (s : State) (p : Nat) : BitVec 256 :=
  (s.txts p).head?.elim 0 fun e => BitVec.ofNat 256 (leNat (txtsBytes e))

theorem State.view_txtsData (s : State) (p : Nat) : (s.view .timeTxtsData p).setWidth 256 = s.txHead p := by
  unfold State.view State.txHead
  dsimp only
  cases s.txts p with
  | nil => rfl
  | cons e l => exact BitVec.setWidth_ofNat_of_le (by decide) _

/-- The head of a port's FIFO is latched. -/
def State.txLatched (s : State) (p : Nat) : State :=
  { s with time := { s.time with txLatch := Tab.put s.time.txLatch p (s.txHead p) } }

theorem State.drawReg_txFirst (s : State) (p : Nat) : s.drawReg .timeTxtsData p 0 8 0x50 = (s.txLatched p, (s.txHead p).setWidth 320) := by
  unfold State.drawReg
  dsimp only [nowBase]
  rw [if_pos rfl, State.view_txtsData, if_pos (show 0 < 8 from by decide), if_neg fun h => absurd h.1 (by decide)]
  have hlatch : Tab.getD (s.txLatched p).time.txLatch p 0 = s.txHead p := Tab.getD_put_self ..
  exact congrArg (fun v : BitVec 256 => (s.txLatched p, v.setWidth 320)) hlatch

/-- A later word comes from the latch; the last one of a latched head removes it. -/
theorem State.drawReg_txLater (s : State) (p : Nat) {b : Nat} (hb : 8 ≤ b) : s.drawReg .timeTxtsData p b 8 0x50 =
    (if 24 < b + 8 ∧ Tab.getD s.time.txLatch p 0 = s.txHead p ∧ Tab.getD s.time.txLatch p 0 ≠ 0 then s.txtsPop p else s,
      (Tab.getD s.time.txLatch p 0).setWidth 320) := by
  unfold State.drawReg
  dsimp only [nowBase]
  rw [if_pos rfl, State.view_txtsData, if_neg (Nat.not_lt.2 hb)]

theorem exec_txtsDataRead {s : State} (hmode : s.modeNo ≠ mRESET) (p : Port) (w : Fin 4) {t : State} {v : RegVal}
    (hdraw : s.drawReg .timeTxtsData p.val (8 * w.val) 8 0x50 = (t, v)) :
    exec (.txtsDataRead p w) s = .next (t.emit (.rdata ((v >>> (64 * w.val)) &&& readMask))) := by
  have hread := State.hostRegRead_of (s := s) (findReg_txtsData p w)
  have hwo : ~~~Reg.timeTxtsData.woBits = BitVec.allOnes 320 := by decide +kernel
  rw [hdraw, State.clearRc_none (by decide +kernel) (by decide), hwo, BitVec.and_allOnes, ← Nat.mul_assoc] at hread
  exact congrArg Host.Outcome.next ((if_pos (State.readable?_of hmode)).trans hread)

/-- Settles O35: each read finds its register, which shows, latches, and clears as its kind does. -/
theorem readsWithEffects : Obligations.ReadsWithEffects := by
  intro s hmode
  refine ⟨fun off r i hreg hbase htxts hlat => ?counter, fun n => ?lat, fun m b => ?now, fun p => ?txts⟩
  case counter =>
    intro lost open'
    obtain ⟨hshown, hdrawn, hfree, hdraw⟩ := s.drawReg_plain_spec hbase htxts hlat 8 0x50
    have hexec := exec_counterReadClear hmode hreg
    generalize s.drawReg r i 0 8 0x50 = d at *
    obtain ⟨hrc, htm, hframe⟩ := d.1.clearRc_spec r i
    refine ⟨_, d.2, hexec, hshown, hdrawn, ?_, hrc, fun hno => ?_,
      fun hidle => ?_, ?_⟩
    · have hout : (d.1.clearRc r i).out = s.out := by rw [hframe, hdraw]
      exact congrArg (· ++ _) hout
    · have hctr : (d.1.clearRc r i).freeCtr = d.1.freeCtr := by rw [hframe]
      exact hctr.trans (hfree hno)
    · exact (htm hidle).trans (by rw [hdraw])
    · generalize d.1.clearRc r i = e at *
      rw [hframe, hdraw]
      rfl
  case lat =>
    obtain ⟨hget, hframe⟩ := s.latSnap_spec n.val
    obtain ⟨hcount, hleast, hmost, hsum⟩ := s.latTotals_spec n.val
    have hexec := exec_tmLatCountRead hmode n
    generalize s.latSnap n.val = t at *
    refine ⟨_, hexec, ?_, ?_, ?_, ?_, ?_, ?_⟩
    · rw [State.get_emit, hget _ _ (by decide), hcount]
    · rw [State.get_emit, hget _ _ (by decide), hleast]
    · rw [State.get_emit, hget _ _ (by decide), hmost]
    · rw [State.get_emit, hget _ _ (by decide), hsum]
    · have hout : t.out = s.out := by rw [hframe]
      rw [State.reg_emit]
      exact congrArg (· ++ _) hout
    · exact congrArg (fun u : State => { u with out := t.out ++ [OutEv.rdata (t.reg .tmLatCount n.val &&& readMask)] }) hframe
  case now =>
    intro k
    cases b with
    | some x =>
      have hread := State.regRead_now (s := s) (findReg_tbNow x) rfl ⟨by decide +kernel, by decide +kernel, by decide⟩ m.toNat
      exact ⟨_, exec_timeNowRead hmode m (some x) hread, s.nowRead_spec m x.val _⟩
    | none =>
      have hread := State.regRead_now (s := s) findReg_tlNow rfl ⟨by decide +kernel, by decide +kernel, by decide⟩ m.toNat
      exact ⟨_, exec_timeNowRead hmode m none hread, s.nowRead_spec m 15 _⟩
  case txts =>
    intro head
    have hhead : s.txHead p.val = head := by
      unfold State.txHead
      dsimp only [head]
      cases s.txts p.val <;> rfl
    clear_value head
    subst hhead
    refine ⟨?first, fun w hw => ?later⟩
    case first =>
      have hexec := exec_txtsDataRead hmode p 0 (s.drawReg_txFirst p.val)
      rw [show 64 * (0 : Fin 4).val = 0 from rfl, BitVec.ushiftRight_zero] at hexec
      exact ⟨_, hexec, Tab.get?_put_self .., rfl, rfl⟩
    case later =>
      intro out
      rw [exec_txtsDataRead hmode p w (s.drawReg_txLater p.val (by omega))]
      have hlast : (24 < 8 * w.val + 8 ∧ Tab.getD s.time.txLatch p.val 0 = s.txHead p.val ∧ Tab.getD s.time.txLatch p.val 0 ≠ 0) ↔
          (w.val = 3 ∧ Tab.getD s.time.txLatch p.val 0 = s.txHead p.val ∧ s.txHead p.val ≠ 0) := by
        have hword : 24 < 8 * w.val + 8 ↔ w.val = 3 := by omega
        rw [hword]
        exact and_congr_right fun _ => and_congr_right fun h => by rw [h]
      rw [ite_of_iff hlast rfl rfl]

end Sys2Proof.Machine
end

section

/-!
PROOFS. Doorbells and the descriptor rings (O37).
-/

namespace Sys2Proof.Machine
set_option Elab.async false

/-! ### Doorbells by mode (R338) -/

section bells
variable {s : State} {fn c index gen : Nat}

theorem State.bell_boot (head : Bool) (h : s.modeNo = mBOOT) : s.bell head fn c index gen =
    { s with mode := { s.mode with bells := s.mode.bells ++ [(c, bellCode head fn index gen)] } } := if_pos h

theorem State.bell_halt (head : Bool) (h : s.modeNo = mHALT) : s.bell head fn c index gen = s :=
  (if_neg (by rw [h]; decide)).trans (if_pos (.inl h))

theorem State.bell_acts (head : Bool) (hlow : mMOORED ≤ s.modeNo) (hhalt : s.modeNo ≠ mHALT) :
    s.bell head fn c index gen = if head then s.bellHead fn c index gen else s.bellTail fn c index gen := by
  have hboot : s.modeNo ≠ mBOOT := fun h => by rw [h] at hlow; exact absurd hlow (by decide)
  have hreset : ¬(s.modeNo = mHALT ∨ s.modeNo = mRESET) := not_or.2 ⟨hhalt, fun h => by rw [h] at hlow; exact absurd hlow (by decide)⟩
  exact (if_neg hboot).trans (if_neg hreset)

/-! ### A TAIL that is taken (R330) -/

/-- An issuer with work stands on the ready list or on an engine. -/
def State.isServed (s : State) (iss : Issuer) : Prop := iss ∈ s.cmd.ready ∨ ∃ e ∈ s.cmd.engines, e.2 = iss

/-- Joining the ready list: the list alone changes, and an issuer with work is served. -/
theorem State.joinReady_spec (s : State) (iss : Issuer) :
    (s.joinReady iss).cmd.chans = s.cmd.chans ∧ ((s.joinReady iss).hasWork iss = true → (s.joinReady iss).isServed iss) ∧
    s.joinReady iss = { s with cmd := (s.joinReady iss).cmd } := by
  unfold State.joinReady State.isServed
  split
  case isTrue => exact ⟨rfl, fun _ => .inl (List.mem_append_right _ (List.mem_singleton_self _)), rfl⟩
  case isFalse hno =>
    refine ⟨rfl, fun hwork => ?_, rfl⟩
    refine Classical.byContradiction fun hserved => ?_
    obtain ⟨hready, hengine⟩ := not_or.1 hserved
    refine hno ?_
    rw [hwork, Bool.true_and, Bool.and_eq_true, Bool.not_eq_true', Bool.not_eq_true', List.any_eq_false]
    exact ⟨eq_false_of_ne_true fun hin => hready (List.contains_iff_mem.1 hin), fun e he heq => hengine ⟨e, he, beq_iff_eq.1 heq⟩⟩

/-- The state in which a TAIL has been written and its batch is visible. -/
def State.tailSet (s : State) (c index : Nat) : State :=
  let t := s.set F.cmdChState_tail c index
  if index ≠ s.get F.cmdChState_tail c then t.setChan c { t.chan c with batches := (t.chan c).batches ++ [index] } else t

theorem State.takeTail_other (hty : s.get F.cmdChState_type c ≠ 1) : s.takeTail c index = s.set F.cmdChState_tail c index := by
  have hty2 : (s.set F.cmdChState_tail c index).get F.cmdChState_type c ≠ 1 := by
    rw [State.get_set_field _ F.cmdChState_tail F.cmdChState_type _ _ rfl (by decide) (by decide)]
    exact hty
  unfold State.takeTail
  dsimp only
  rw [if_neg hty2]

theorem State.takeTail_cmd (d : Chan) (hd : d.val = c) (hty : s.get F.cmdChState_type c = 1) :
    s.takeTail c index = (s.tailSet c index).joinReady (.chan d) := by
  have hty2 : (s.set F.cmdChState_tail c index).get F.cmdChState_type c = 1 := by
    rw [State.get_set_field _ F.cmdChState_tail F.cmdChState_type _ _ rfl (by decide) (by decide)]
    exact hty
  have hchan : (⟨c % 1024, Nat.mod_lt _ (by decide)⟩ : Chan) = d := Fin.ext ((congrArg (· % 1024) hd.symm).trans (Nat.mod_eq_of_lt d.isLt))
  unfold State.takeTail State.tailSet
  dsimp only
  rw [if_pos hty2, hchan]
  by_cases hnew : index = s.get F.cmdChState_tail c
  · rw [if_neg (by simp [hnew]), if_neg (not_not_intro hnew)]
  · rw [if_pos (by simp [hnew]), if_pos hnew]

theorem State.tailSet_spec (s : State) (c : Nat) {index : Nat} (hix : index < 2 ^ 16) :
    (s.tailSet c index).get F.cmdChState_tail c = index ∧
    (index ≠ s.get F.cmdChState_tail c → ((s.tailSet c index).chan c).batches = (s.chan c).batches ++ [index]) ∧
    s.tailSet c index = { s with regs := (s.tailSet c index).regs, cmd := (s.tailSet c index).cmd } := by
  have htail : (s.set F.cmdChState_tail c index).get F.cmdChState_tail c = index := by
    rw [State.get_set_self _ _ _ _ (by decide)]
    exact Nat.mod_eq_of_lt hix
  unfold State.tailSet
  dsimp only
  split
  case isTrue hnew => exact ⟨htail, fun _ => by rw [State.chan_setChan_self]; rfl, rfl⟩
  case isFalse hold => exact ⟨htail, fun h => absurd h hold, rfl⟩

/-- A TAIL that is taken (R330, R338). -/
theorem State.takeTail_spec (s : State) (d : Chan) {index : Nat} (hix : index < 2 ^ 16) :
    let u := s.takeTail d.val index
    u.get F.cmdChState_tail d.val = index ∧
    (s.get F.cmdChState_type d.val = 1 → (index ≠ s.get F.cmdChState_tail d.val → (u.chan d.val).batches = (s.chan d.val).batches ++ [index]) ∧
      (u.hasWork (.chan d) = true → u.isServed (.chan d))) ∧
    u = { s with regs := u.regs, cmd := u.cmd } := by
  intro u
  obtain ⟨htail, hbatch, hframe⟩ := s.tailSet_spec d.val hix
  by_cases hty : s.get F.cmdChState_type d.val = 1
  · have hu : u = (s.tailSet d.val index).joinReady (.chan d) := State.takeTail_cmd d rfl hty
    rw [hu]
    generalize s.tailSet d.val index = t at *
    obtain ⟨hchans, hserved, hjoin⟩ := t.joinReady_spec (.chan d)
    generalize t.joinReady (.chan d) = v at *
    have hget : v.get F.cmdChState_tail d.val = t.get F.cmdChState_tail d.val := by rw [hjoin]; rfl
    have hchan : v.chan d.val = t.chan d.val := congrArg (fun l : Tab ChanSt => Tab.getD l d.val {}) hchans
    refine ⟨hget.trans htail, fun _ => ⟨fun hnew => by rw [hchan]; exact hbatch hnew, hserved⟩, ?_⟩
    rw [hjoin, hframe]
  · have hu : u = s.set F.cmdChState_tail d.val index := State.takeTail_other hty
    rw [hu]
    refine ⟨?_, fun h => absurd h hty, rfl⟩
    rw [State.get_set_self _ _ _ _ (by decide)]
    exact Nat.mod_eq_of_lt hix

/-! ### What a doorbell page decides (R330, R332) -/

theorem State.bellTail_stale (h : s.bellLive fn c gen = false) : s.bellTail fn c index gen = s.bump F.cmdCntStaleDb 0 := if_pos h

theorem State.bellTail_live (h : s.bellLive fn c gen = true) (hty : s.get F.cmdChState_type c ≠ 4) : s.bellTail fn c index gen =
    if 2 ^ (s.chan c).log2ring ≤ index then s.bump F.cmdCntBadDb 0
    else if c = 0 ∧ s.ch0Up = false then s.setChan 0 { s.chan 0 with bell := some index } else s.takeTail c index :=
  (if_neg (ne_false_of_eq_true h)).trans (if_neg hty)

theorem State.bellHead_stale (h : s.bellLive fn c gen = false) : s.bellHead fn c index gen = s.bump F.cmdCntStaleDb 0 := if_pos h

/-- A HEAD of a CMD channel frees completion entries, one of an EVT channel ring entries. -/
theorem State.bellHead_live {log2 : Nat} (h : s.bellLive fn c gen = true)
    (hring : (s.get F.cmdChState_type c = 1 ∧ log2 = (s.chan c).log2cq) ∨ (s.get F.cmdChState_type c = 4 ∧ log2 = (s.chan c).log2ring)) :
    s.bellHead fn c index gen =
      if 2 ^ log2 ≤ index then s.bump F.cmdCntBadDb 0 else s.setChan c { s.chan c with cqHead := index } := by
  unfold State.bellHead
  rw [if_neg (ne_false_of_eq_true h)]
  dsimp only
  rcases hring with ⟨hty, rfl⟩ | ⟨hty, rfl⟩
  · rw [hty, if_pos rfl, if_neg fun hno => hno.1 rfl]
  · rw [hty, if_neg (show ¬((4 : Nat) ≠ 1 ∧ (4 : Nat) ≠ 4) from fun hno => hno.2 rfl), if_neg (show ¬(4 : Nat) = 1 from by decide)]

end bells

/-! ### RXP (R386) -/

/-- A channel's ring stands where it stood: its head, its size, and what waits. -/
def RingStands (c : Nat) (s u : State) : Prop :=
  (u.chan c).devHead = (s.chan c).devHead ∧ (u.chan c).log2ring = (s.chan c).log2ring

theorem RingStands.of_cmd {c : Nat} {s u : State} (h : u.cmd = s.cmd) : RingStands c s u := by
  have hchan : u.chan c = s.chan c := congrArg (fun cmd : Cmd => Tab.getD cmd.chans c {}) h
  exact ⟨by rw [hchan], by rw [hchan]⟩

theorem RingStands.trans {c : Nat} {s t u : State} (h1 : RingStands c s t) (h2 : RingStands c t u) : RingStands c s u :=
  ⟨h2.1.trans h1.1, h2.2.trans h1.2⟩

theorem RingStands.chPut {c : Nat} (s : State) (a : Nat) (l : List Byte) : RingStands c s (s.chPut c a l) :=
  .of_cmd (State.chPut_keeps.frame.cmd.resolve_left (by decide))

theorem RingStands.entryWritten {c : Nat} (s : State) : RingStands c s (s.entryWritten c) := by
  have hchan : (s.entryWritten c).chan c = { s.chan c with
      unsignalled := (s.chan c).unsignalled + 1, firstNs := if (s.chan c).unsignalled = 0 then s.ns else (s.chan c).firstNs } :=
    State.chan_setChan_self ..
  exact ⟨by rw [hchan], by rw [hchan]⟩

theorem RingStands.rxWriteBack {c : Nat} (s : State) (ix n : Nat) (w : RxWait) (first last : Bool) (count : Nat) :
    RingStands c s (s.rxWriteBack c ix n w first last count) :=
  (((RingStands.chPut s _ _).trans (RingStands.chPut ..)).trans (RingStands.chPut ..)).trans (RingStands.entryWritten _)

theorem RingStands.rxDone {c : Nat} {w : RxWait} {count : Nat} : ∀ (run : List (Nat × Nat)) (s : State) (first : Bool) (n : Nat),
    RingStands c s (s.rxDone c w count first run n)
  | [], _, _, _ => ⟨rfl, rfl⟩
  | _ :: run, s, _, _ => (RingStands.rxWriteBack s ..).trans (RingStands.rxDone run ..)

/-- A delivery fills the run's buffers and writes its entries back. -/
def State.rxWritten (s : State) (c : Nat) (w : RxWait) (run : List (Nat × Nat)) : State :=
  let data := s.rxPrefix c w ++ w.bytes
  (s.rxFill c run data).rxDone c w run.length true run data.length

theorem RingStands.rxWritten {c : Nat} (s : State) (w : RxWait) (run : List (Nat × Nat)) : RingStands c s (s.rxWritten c w run) :=
  (RingStands.of_cmd (State.rxFill_keeps.frame.cmd.resolve_left (by decide))).trans (RingStands.rxDone ..)

/-- The ring moves past the run, and the frame no longer waits. -/
def State.rxMoved (s : State) (c : Nat) (rest : List RxWait) (n : Nat) : State :=
  (s.setChan c { s.chan c with rx := rest }).setHead c (((s.chan c).devHead + n) % 2 ^ (s.chan c).log2ring)

theorem State.rxMoved_spec (s : State) (c : Nat) (rest : List RxWait) (n : Nat) :
    ((s.rxMoved c rest n).chan c).rx = rest ∧
    ((s.rxMoved c rest n).chan c).devHead = ((s.chan c).devHead + n) % 2 ^ (s.chan c).log2ring ∧
    (s.rxMoved c rest n).get F.cmdChState_head c = ((s.chan c).devHead + n) % 2 ^ (s.chan c).log2ring % 2 ^ 16 := by
  have hchan : (s.rxMoved c rest n).chan c = { (s.setChan c { s.chan c with rx := rest }).chan c with
      devHead := ((s.chan c).devHead + n) % 2 ^ (s.chan c).log2ring } := State.chan_setChan_self ..
  refine ⟨?_, by rw [hchan], State.get_set_self _ _ _ _ (by decide)⟩
  rw [hchan, State.chan_setChan_self]

section rings
variable {c : Chan} {s : State}

/-- RXP_DELIVERY of the oldest waiting frame. -/
theorem exec_rxpDelivery {w : RxWait} {rest : List RxWait} (hrx : (s.chan c.val).rx = w :: rest) (hty : s.chanIs c.val 2 = true)
    (hruns : s.chanRuns c.val = true) (hmode : s.modeNo ≠ mHARBOUR) : exec (.rxpDelivery c) s =
      .next ((s.rxEntries c.val (s.chan c.val).devHead w).elim s fun run =>
        (((s.rxWritten c.val w run).rxMoved c.val rest run.length).deliveryEnd w)) := by
  change execRxpDelivery c s = _
  unfold execRxpDelivery
  rw [hrx]
  dsimp only
  rw [if_pos (by simp [hty, hruns, hmode])]
  cases s.rxEntries c.val (s.chan c.val).devHead w <;> rfl

theorem exec_rxpStallExpiry {w : RxWait} {rest : List RxWait} (hrx : (s.chan c.val).rx = w :: rest) (hflag : (s.chan c.val).flag = false)
    (hdue : w.atNs + (s.chan c.val).stallUs * 1000 ≤ s.ns) : exec (.rxpStallExpiry c) s =
      .next ((s.setChan c.val { s.chan c.val with rx := rest }).rxDrop c.val w) := by
  change execRxpStallExpiry c s = _
  unfold execRxpStallExpiry
  rw [hrx]
  exact congrArg Host.Outcome.next (if_pos ⟨hflag, hdue⟩)

/-! ### TXP (R387 to R389) -/

/-- The frame that a TXP channel enters. -/
def txFrameOf (q : Quay) (l : List Byte) (run : List TxEnt) : Frame :=
  let e := (run.head?.map (fun e => e.raw)).getD []
  { port := 255, src := .host, quay := q, bytes := l ++ fcsOf l, lenKnown := true, man := (txMan e).1, manW := (txMan e).2,
    seqId := txField e 0x0C 2, stamps := [], gen := false, stage := .queued }

theorem exec_txpFetch {run : List TxEnt} (hty : s.chanIs c.val 3 = true) (hruns : s.chanRuns c.val = true) (hmode : s.txModes = true)
    (hpaused : s.paused (s.txQuay c.val).val = false) (hrun : s.txFrame c.val = some run) : exec (.txpFetch c) s =
      .next ((s.txCheck c.val run).elim (((s.txGot c.val run).txBack c.val stBAD_PARAM run).bump F.hostChCntBadDesc c.val) fun l =>
        if stagingSize < s.staged (s.txQuay c.val).val + l.length + 4 then s
        else ((s.txGot c.val run).enterFrame (txFrameOf (s.txQuay c.val) l run) true).txBack c.val stOK run) := by
  change execTxpFetch c s = _
  unfold execTxpFetch
  rw [if_neg (by simp [hty, hruns, hmode, hpaused]), hrun]
  dsimp only
  cases s.txCheck c.val run <;> rfl

/-- A frame that enters takes the next number and waits at the end of its quay. -/
theorem State.enterFrame_head (s : State) {f : Frame} (hstage : f.stage = .queued) :
    (s.enterFrame f true).frame? s.eng.nextFid = some f ∧
    ((s.enterFrame f true).quay f.quay.val).waiting = (s.quay f.quay.val).waiting ++ [s.eng.nextFid] := by
  have hf : { f with stage := .queued } = f := by rw [← hstage]
  refine ⟨?_, congrArg QuaySt.waiting (State.quay_setQuay_self ..)⟩
  rw [(s.enterFrame_spec f true).1, if_pos rfl, hf]

/-! ### EVT and REC (R390, R391) -/

theorem exec_evtHoldRelease {r : EvRec} {rest : List EvRec} (hhold : (s.chan c.val).hold = r :: rest) (hty : s.chanIs c.val 4 = true)
    (hroom : s.evtRoom c.val = true) : exec (.evtHoldRelease c) s =
      .next ((s.setChan c.val { s.chan c.val with hold := rest }).evtWrite c.val r.kind r.bytes) := by
  change execEvtHoldRelease c s = _
  unfold execEvtHoldRelease
  rw [hhold]
  exact congrArg Host.Outcome.next (if_pos (by rw [hty, hroom]; rfl))

theorem exec_evtHoldExpiry {r : EvRec} {rest : List EvRec} (hhold : (s.chan c.val).hold = r :: rest)
    (hdue : r.atNs + (s.chan c.val).stallUs * 1000 ≤ s.ns) : exec (.evtHoldExpiry c) s =
      .next ((s.setChan c.val { s.chan c.val with hold := rest }).evtDrop c.val) := by
  change execEvtHoldExpiry c s = _
  unfold execEvtHoldExpiry
  rw [hhold]
  exact congrArg Host.Outcome.next (if_pos hdue)

section rec
variable (hready : s.recReady c.val = true)
include hready

theorem exec_recEntryServe_dead (hidle : (s.chan c.val).reading = none) (hdead : s.partLive (s.recEnt c.val).2.2.1 = false) :
    exec (.recEntryServe c) s = .next (s.recDone c.val 0 stBAD_HANDLE) := by
  change execRecEntryServe c s = _
  unfold execRecEntryServe
  rw [if_pos (by rw [hready, hidle]; rfl)]
  exact congrArg Host.Outcome.next (if_neg (by simp [hdead]))

theorem exec_recEntryServe_none (hidle : (s.chan c.val).reading = none) (hlive : s.partLive (s.recEnt c.val).2.2.1 = true)
    (hseg : s.segOf (hIx (s.recEnt c.val).2.2.1) (s.recEnt c.val).2.2.2.1 = none) :
    exec (.recEntryServe c) s = .next (s.recDone c.val 0 stNOT_FOUND) := by
  change execRecEntryServe c s = _
  unfold execRecEntryServe
  rw [if_pos (by rw [hready, hidle]; rfl)]
  dsimp only
  rw [if_pos hlive, hseg]

/-- The read of a written segment starts where its drive is READY (R391). -/
theorem exec_recEntryServe_reads {i : Nat} {g : Seg} (hidle : (s.chan c.val).reading = none)
    (hlive : s.partLive (s.recEnt c.val).2.2.1 = true)
    (hseg : s.segOf (hIx (s.recEnt c.val).2.2.1) (s.recEnt c.val).2.2.2.1 = some (i, g)) (hwritten : g.written = true)
    (hdrive : s.get F.logDriveStatus_state g.drive = 2) :
    exec (.recEntryServe c) s = .next (s.setChan c.val { s.chan c.val with reading := some i }) := by
  change execRecEntryServe c s = _
  unfold execRecEntryServe
  rw [if_pos (by rw [hready, hidle]; rfl)]
  dsimp only
  rw [if_pos hlive, hseg]
  exact congrArg Host.Outcome.next (if_pos (by rw [hwritten, hdrive]; rfl))

theorem exec_recReadComplete {i : Nat} {g : Seg} (ok : Bool) (hreading : (s.chan c.val).reading = some i)
    (hseg : Tab.get? s.log.segs i = some g) :
    let e := s.recEnt c.val
    let n := Nat.min (e.2.1 / 4096) 256
    let r := s.segRead g e.2.2.2.2 n
    exec (.recReadComplete c ok) s =
      .next (if ok then (r.1.chPut c.val e.1 r.2).recDone c.val (n * 4096) stOK else s.recDone c.val 0 stPARITY) := by
  change execRecReadComplete c ok s = _
  unfold execRecReadComplete
  rw [if_pos hready, hreading]
  dsimp only
  rw [hseg]

end rec

end rings

/-- Settles O37: mode, page and index decide a doorbell; what stands posted, held or read decides a ring. -/
theorem doorbellsAndRings : Obligations.DoorbellsAndRings := by
  refine ⟨fun fn c index gen mem s => ?bells, fun c s => ?rings⟩
  case bells =>
    intro s1 tail head
    have htail : tail = .next (s1.bell false fn.val c.val index.toNat gen.toNat) := rfl
    have hhead : head = .next (s.bell true fn.val c.val index.toNat gen.toNat) := rfl
    clear_value s1 tail head
    subst htail hhead
    refine ⟨fun h => by rw [State.bell_halt _ h], fun h => by rw [State.bell_halt _ h], fun h => by rw [State.bell_boot _ h],
      fun h => by rw [State.bell_boot _ h], fun hlow hhalt => ?tail, fun hlow hhalt => ?head⟩
    case tail =>
      rw [State.bell_acts _ hlow hhalt, if_neg Bool.false_ne_true]
      refine ⟨fun hstale => by rw [State.bellTail_stale hstale], fun hlive hty => ?_⟩
      rw [State.bellTail_live hlive hty]
      refine ⟨fun hbad => by rw [if_pos hbad], fun hin hup => ⟨s1.takeTail c.val index.toNat, ?_, s1.takeTail_spec c index.isLt⟩⟩
      rw [if_neg (Nat.not_le.2 hin), if_neg fun h => by rw [hup h.1] at h; cases h.2]
    case head =>
      rw [State.bell_acts _ hlow hhalt, if_pos rfl]
      refine ⟨fun hstale => by rw [State.bellHead_stale hstale], fun hlive log2 hring => ?_⟩
      rw [State.bellHead_live hlive hring]
      exact ⟨fun hbad => by rw [if_pos hbad], fun hin => by rw [if_neg (Nat.not_le.2 hin)]⟩
  case rings =>
    refine ⟨fun w rest hrx hty hruns hmode => ?rxp, fun w rest hrx hflag hdue => exec_rxpStallExpiry hrx hflag hdue,
      fun run hty hruns hmode hpaused hrun => ?txp, fun r rest hhold hty hroom => exec_evtHoldRelease hhold hty hroom,
      fun r rest hhold hdue => exec_evtHoldExpiry hhold hdue, fun hready => ?recs⟩
    case rxp =>
      rw [exec_rxpDelivery hrx hty hruns hmode]
      refine ⟨fun hno => by rw [hno]; rfl, fun run hrun => ?_⟩
      rw [hrun]
      obtain ⟨hhead, hsize⟩ := RingStands.rxWritten (c := c.val) s w run
      have hmoved := (s.rxWritten c.val w run).rxMoved_spec c.val rest run.length
      rw [hhead, hsize] at hmoved
      exact ⟨_, rfl, hmoved⟩
    case txp =>
      rw [exec_txpFetch hty hruns hmode hpaused hrun]
      refine ⟨fun hbad => by rw [hbad]; rfl, fun l hl hfull => ?_, fun l hl hroom => ?_⟩
      · rw [hl]
        exact congrArg Host.Outcome.next (if_pos hfull)
      · have heng : (s.txGot c.val run).eng = s.eng := State.txGot_keeps.frame.eng.resolve_left (by decide)
        have hback : (((s.txGot c.val run).enterFrame (txFrameOf (s.txQuay c.val) l run) true).txBack c.val stOK run).eng =
          ((s.txGot c.val run).enterFrame (txFrameOf (s.txQuay c.val) l run) true).eng :=
          State.txBack_keeps.frame.eng.resolve_left (by decide)
        obtain ⟨hframe, hwait⟩ := (s.txGot c.val run).enterFrame_head (f := txFrameOf (s.txQuay c.val) l run) rfl
        refine ⟨((s.txGot c.val run).enterFrame (txFrameOf (s.txQuay c.val) l run) true).txBack c.val stOK run, txFrameOf (s.txQuay c.val) l run, ?_, ?_, rfl, rfl, rfl, rfl, rfl, rfl, ?_⟩
        · rw [hl]
          exact congrArg Host.Outcome.next (if_neg (Nat.not_lt.2 hroom))
        · unfold State.frame? at hframe ⊢
          rw [hback, ← heng]
          exact hframe
        · unfold State.quay at hwait ⊢
          rw [hback, ← heng]
          exact hwait
    case recs =>
      refine ⟨fun hidle hdead => exec_recEntryServe_dead hready hidle hdead, fun hidle hlive hseg => exec_recEntryServe_none hready hidle hlive hseg,
        fun i g hidle hlive hseg hwritten hdrive => exec_recEntryServe_reads hready hidle hlive hseg hwritten hdrive,
        fun i g hreading hseg => ⟨exec_recReadComplete hready false hreading hseg, exec_recReadComplete hready true hreading hseg⟩⟩

end Sys2Proof.Machine
end

section

/-!
PROOFS. The ledger finds a record, runs its pass and returns it (O27).
-/

namespace Sys2Proof.Machine
set_option Elab.async false

/-! ### Berths -/

theorem State.berth?_setBerth_self (s : State) (sl b : Nat) (v : BerthSt) : (s.setBerth sl b v).berth? sl b = some v := by
  unfold State.berth? State.setBerth
  rw [State.slice_setSlice_self]
  exact Tab.get?_put_self ..

theorem State.berth?_delBerth_self (s : State) (sl b : Nat) : (s.delBerth sl b).berth? sl b = none := by
  unfold State.berth? State.delBerth
  rw [State.slice_setSlice_self]
  exact Tab.get?_del_self ..

/-! ### FLOW_REQUEST_ACCEPT (R144, R149) -/

/-- The berth that a request takes. -/
def State.askBerth (s : State) (sl : Nat) (q : Quay) (fid : Nat) (f : Frame) : BerthSt :=
  { fid := fid, quay := q, prog := f.askProg, gen := f.gen, key := f.askKey, hs := s.hsOf f.askKey, man := f.askMan, phase := .chained,
    order := (s.slice sl).order }

/-- The request is in its berth, and no longer waits. -/
def State.askSlotted (s : State) (sl : Slice) (q : Quay) (fid : Nat) (f : Frame) (b : Berth) : State :=
  let v := s.slice sl.val
  let t := s.setSlice sl.val { v with order := v.order + 1, berths := Tab.put v.berths b.val (s.askBerth sl.val q fid f) }
  { t with led := { t.led with asks := Tab.put t.led.asks (q.val * 16 + sl.val) ((s.asksOf q.val sl.val).filter (· != fid)) } }

/-- Its frame notes the berth. -/
def State.askTaken (s : State) (sl : Slice) (q : Quay) (fid : Nat) (f : Frame) (b : Berth) : State :=
  (s.askSlotted sl q fid f b).setFrame fid { f with flow := .berth sl b }

theorem State.askSlotted_updFrame {s : State} {fid : Nat} {f : Frame} (hf : s.frame? fid = some f) (sl : Slice) (q : Quay) (b : Berth) :
    (s.askSlotted sl q fid f b).updFrame fid (fun f => { f with flow := .berth sl b }) = s.askTaken sl q fid f b := by
  have hframe : (s.askSlotted sl q fid f b).frame? fid = some f := hf
  unfold State.updFrame
  rw [hframe]
  rfl

theorem State.askTaken_spec (s : State) (sl : Slice) (q : Quay) (fid : Nat) (f : Frame) (b : Berth) :
    (s.askTaken sl q fid f b).frame? fid = some { f with flow := .berth sl b } ∧
    (s.askTaken sl q fid f b).berth? sl.val b.val = some (s.askBerth sl.val q fid f) ∧
    fid ∉ (s.askTaken sl q fid f b).asksOf q.val sl.val ∧
    s.askTaken sl q fid f b = { s with eng := (s.askTaken sl q fid f b).eng, led := (s.askTaken sl q fid f b).led } := by
  refine ⟨State.frame?_setFrame_self .., ?_, ?_, rfl⟩
  · have hslice : (s.askTaken sl q fid f b).slice sl.val = { s.slice sl.val with
        order := (s.slice sl.val).order + 1, berths := Tab.put (s.slice sl.val).berths b.val (s.askBerth sl.val q fid f) } :=
      State.slice_setSlice_self ..
    rw [State.berth?, hslice]
    exact Tab.get?_put_self ..
  · have hasks : (s.askTaken sl q fid f b).asksOf q.val sl.val = (s.asksOf q.val sl.val).filter (· != fid) := Tab.getD_put_self ..
    rw [hasks]
    exact fun hmem => absurd (List.mem_filter.1 hmem).2 (by simp)

theorem exec_flowRequestAccept {s : State} {sl : Slice} {q : Quay} {fid b : Nat} {f : Frame} (h : b < 1024)
    (hfid : (s.asksOf q.val sl.val).find? (fun fid => (s.frame? fid).elim false fun f => !(s.askBlocked fid f)) = some fid)
    (hf : s.frame? fid = some f) (hb : firstFree (s.slice sl.val).berths 0 = b) : exec (.flowRequestAccept sl q) s =
      .next (if s.lockHeld sl.val (s.hsOf f.askKey) then s.askTaken sl q fid f ⟨b, h⟩
        else (s.askTaken sl q fid f ⟨b, h⟩).lookupStart sl.val b) := by
  subst hb
  have hfree : ∀ p : Nat → Bool, (∀ k, p k = (s.frame? k).elim false fun f => !(s.askBlocked k f)) →
      (s.asksOf q.val sl.val).find? p = some fid := fun p hp => (congrArg (List.find? · _) (funext hp)).trans hfid
  change execFlowRequestAccept sl q s = _
  unfold execFlowRequestAccept
  dsimp only
  split
  case h_1 hnone => cases (hfree _ fun k => by cases s.frame? k <;> rfl).symm.trans hnone
  case h_2 fid2 hsome =>
    cases (hfree _ fun k => by cases s.frame? k <;> rfl).symm.trans hsome
    rw [hf]
    dsimp only
    rw [dif_pos h]
    rw [← State.askSlotted_updFrame hf]
    rfl

/-! ### INDEX_READ_DONE (R153) -/

section index
variable {s : State} {sl : Slice} {b : Berth} {st : BerthSt} {alt other old : Bool} {r : Rehash}

/-- The candidates of a line: its records with the key's tag, in the way that is read. -/
def State.lineHits (s : State) (sl : Nat) (st : BerthSt) (alt old : Bool) (r : Rehash) : List (Nat × Rec) :=
  ((s.slice sl).lineRecs old r (if alt then lineA r st.key else lineP r st.key)).filter
    (fun e => e.2.alt == alt && tagOf r e.2.key == tagOf r st.key)

variable (hst : s.berth? sl.val b.val = some st) (hphase : st.phase = .indexRead alt other)
  (hprobe : (s.probes sl.val st.key)[other.toNat]? = some (old, r))
include hst hphase hprobe

theorem exec_indexReadDone_bad : exec (.indexReadDone sl b true) s = .next (((s.ledHbm sl.val 64 false).setSlice sl.val
    ((s.slice sl.val).clearLine old r (if alt then lineA r st.key else lineP r st.key))).passParity sl.val b.val) := by
  have hslice := s.slice_ledHbm sl.val 64 sl.val false
  change execIndexReadDone sl b true s = _
  unfold execIndexReadDone
  rw [hst]
  dsimp only
  rw [hphase]
  dsimp only
  rw [hprobe]
  dsimp only
  rw [if_pos rfl, hslice]

/-- A line that is sound gives its candidates, or the next line is read. -/
theorem exec_indexReadDone_good : exec (.indexReadDone sl b false) s = .next ((s.lineHits sl.val st alt old r).head?.elim
    ((s.ledHbm sl.val 64 false).nextProbe sl.val b.val st alt other) fun e =>
      (s.ledHbm sl.val 64 false).setBerth sl.val b.val
        { st with phase := .recordRead e.1, candidates := (s.lineHits sl.val st alt old r).tail.map (·.1) }) := by
  have hslice := s.slice_ledHbm sl.val 64 sl.val false
  change execIndexReadDone sl b false s = _
  unfold execIndexReadDone
  rw [hst]
  dsimp only
  rw [hphase]
  dsimp only
  rw [hprobe]
  dsimp only
  rw [if_neg Bool.false_ne_true, hslice]
  unfold State.lineHits
  split
  case h_1 e l hhits => rw [hhits]; rfl
  case h_2 hhits => rw [hhits, List.head?_nil, Option.elim_none]

end index

/-! ### RECORD_READ_DONE (R154) -/

section record
variable {s : State} {sl : Slice} {b : Berth} {st : BerthSt} {n : Nat} {e : Rec}

/-- A record that is installed makes its pass ready. -/
theorem State.berth?_installRec (hplace : (s.makePlace sl.val st.hs).isSome = true) : (s.installRec sl.val b.val n e st).berth? sl.val b.val =
    some { st with phase := .ready, recNo := some n, img := e.img, status := stOK, flags := 0, candidates := [] } := by
  obtain ⟨t, ht⟩ := Option.isSome_iff_exists.1 hplace
  unfold State.installRec
  rw [ht]
  exact State.berth?_setBerth_self ..

/-- The record that the next candidate names is read. -/
def State.otherRead (s : State) (sl : Nat) : State := (s.bump F.ledgerCntAltRead sl).ledHbm sl (recLen (s.bump F.ledgerCntAltRead sl).compact) false

variable (hst : s.berth? sl.val b.val = some st) (hphase : st.phase = .recordRead n) (hrec : (s.slice sl.val).recAt n = some e)
include hst hphase hrec

theorem exec_recordReadDone_hit (hkey : e.key = st.key) : exec (.recordReadDone sl b false) s = .next (s.installRec sl.val b.val n e st) := by
  change execRecordReadDone sl b false s = _
  unfold execRecordReadDone
  rw [hst]
  dsimp only
  rw [hphase]
  dsimp only
  rw [hrec]
  exact congrArg Host.Outcome.next ((if_neg Bool.false_ne_true).trans (if_pos hkey))

theorem exec_recordReadDone_other (hkey : e.key ≠ st.key) {c : Nat} {l : List Nat} (hcand : st.candidates = c :: l) :
    ∃ t : State, exec (.recordReadDone sl b false) s = .next (t.setBerth sl.val b.val { st with phase := .recordRead c, candidates := l }) := by
  change ∃ t : State, execRecordReadDone sl b false s = _
  unfold execRecordReadDone
  rw [hst]
  dsimp only
  rw [hphase]
  dsimp only
  rw [hrec]
  dsimp only
  rw [if_neg Bool.false_ne_true, if_neg hkey, hcand]
  exact ⟨_, rfl⟩

end record

/-! ### STEVEDORE_DISPATCH (R31, R157) -/

/-- The pass that is ready differs from the state in the ledger and in counters: the programs, contexts and frames stand, as do their
registers. -/
structure PassOnly (s u : State) : Prop where
  eng : u.eng = s.eng
  get : ∀ (f : Fld) (i : Nat), f.reg = .ledgerProg → f.lo + f.len ≤ 320 → u.get f i = s.get f i

theorem PassOnly.trans {s t u : State} (h1 : PassOnly s t) (h2 : PassOnly t u) : PassOnly s u :=
  ⟨h2.eng.trans h1.eng, fun f i hf hlen => (h2.get f i hf hlen).trans (h1.get f i hf hlen)⟩

theorem PassOnly.setBerth (s : State) (sl b : Nat) (v : BerthSt) : PassOnly s (s.setBerth sl b v) := ⟨rfl, fun _ _ _ _ => rfl⟩

theorem PassOnly.bump (s : State) {f : Fld} (i : Nat) (h : f.reg ≠ .ledgerProg) : PassOnly s (s.bump f i) :=
  ⟨rfl, fun g j hg _ => State.get_set_other _ _ _ _ (by rw [hg]; exact h.symm)⟩

theorem PassOnly.pmc (s : State) (e : PmcEv) : PassOnly s (s.pmc e) := by
  have h := State.pmc_counts (s := s) (e := e)
  refine ⟨h.eng, fun f i hf hlen => h.get f i ?_ (.inl ?_) hlen⟩
  · rw [hf]; decide
  · rw [hf]; decide

theorem PassOnly.passReady {s s1 : State} {sl : Slice} {b : Nat} {st st1 : BerthSt} (h : s.passReady sl b st = some (s1, st1)) :
    PassOnly s s1 := by
  unfold State.passReady at h
  split at h
  · cases h
    exact .setBerth ..
  · split at h
    · cases h
      exact (PassOnly.bump s _ (by decide)).trans (.setBerth ..)
    · cases h
  · cases h

theorem PassOnly.flowStart {s u : State} (h : PassOnly s u) (gen : Bool) (prog : Nat) : u.flowStart gen prog = s.flowStart gen prog :=
  h.get _ _ rfl (by decide)

/-- The start of a pass is an event of the device counters. -/
def State.passCounted (s : State) (sl : Slice) (st : BerthSt) : State :=
  s.pmc { code := 0x0801, master := 0x40 + sl.val, tc := some (mItcOf st.man), port := mget st.man mPort, who := mget st.man mFhash }

/-- The context of a pass that starts (R31). -/
theorem State.stevStart_spec (s : State) (sl : Slice) (b : Nat) (e : Fin 20) (st : BerthSt) :
    ∃ c : Ctx, (s.stevStart sl b e st).ctx? (.stev sl e) = some c ∧ c.fid = st.fid ∧ c.gen = st.gen ∧ c.pc = 4 * s.flowStart st.gen st.prog ∧
      c.cyc = 0 ∧ c.pend = [] ∧ c.ended = false ∧ c.berth = b ∧ mget c.man mFstat = st.status % 256 ∧
      (∀ r, (s.stevStart sl b e st).g (.stev sl e) r = 0) ∧
      (s.stevStart sl b e st).berth? sl.val b = some { st with phase := .running e } ∧
      ∀ y, y ≠ .stev sl e → (s.stevStart sl b e st).ctx? y = s.ctx? y := by
  refine ⟨_, State.ctx?_setCtx_self .., rfl, rfl, rfl, rfl, rfl, rfl, rfl, ?_, fun r => ?_, ?_, fun y hy => ?_⟩
  · unfold mget mset
    rw [bytesLe_putBytesLe_ne _ _ (by decide) (.inl (by decide)), bytesLe_putBytesLe_self _ _ (by decide)]
    rfl
  · exact (State.g_setCtx ..).trans ((State.g_zeroG ..).trans (if_pos rfl))
  · exact State.berth?_setBerth_self ..
  · exact State.ctx?_setCtx_ne _ _ hy

section dispatch
variable {s s1 : State} {sl : Slice} {b : Berth} {st st1 : BerthSt} {e : Fin 20} (hst : s.berth? sl.val b.val = some st)
  (hfree : s.freeStev sl = some e) (hready : s.passReady sl b.val st = some (s1, st1))
include hst hfree hready

theorem exec_stevedoreDispatch (bad : Bool) : exec (.stevedoreDispatch sl b bad) s = .next (
    let v := s1.passCounted sl st1
    if 0xF0 ≤ st1.prog then
      if s.fcsKnown st1.fid then
        (v.library st1 (v.fView sl.val st1 1024) ((s.frame? st1.fid).elim 0 fun f => f.bytes.length)).elim s fun p => p.1.libEnd sl b.val st1 p.2
      else s
    else (v.spoilWord 1 sl.val st1.gen (v.flowStart st1.gen st1.prog) bad).stevStart sl b.val e st1) := by
  change execStevedoreDispatch sl b bad s = _
  unfold execStevedoreDispatch
  rw [hst, hfree]
  dsimp only
  rw [hready]
  dsimp only
  have hv : s1.pmc { code := 0x0801, master := 0x40 + sl.val, tc := some (mItcOf st1.man), port := mget st1.man mPort, who := mget st1.man mFhash } =
    s1.passCounted sl st1 := rfl
  rw [hv]
  generalize s1.passCounted sl st1 = v
  by_cases hlib : 0xF0 ≤ st1.prog
  · rw [if_pos hlib, if_pos hlib]
    by_cases hfcs : s.fcsKnown st1.fid = true
    · rw [if_pos hfcs, if_pos hfcs]
      cases s.frame? st1.fid with
      | none =>
        rw [Option.elim_none]
        cases v.library st1 (v.fView sl.val st1 1024) 0 <;> rfl
      | some f =>
        rw [Option.elim_some]
        cases v.library st1 (v.fView sl.val st1 1024) f.bytes.length <;> rfl
    · rw [if_neg hfcs, if_neg hfcs]
  · rw [if_neg hlib, if_neg hlib]

end dispatch

/-! ### FLOW_PASS_RETURN (R48, R168) -/

/-- What a pass hands to its frame's manifest. -/
def BerthSt.outMan (st : BerthSt) : Man := mset (mset (mset st.manOut mFstat st.status) mFflags st.flags.toNat) mFcause st.cause.toNat

theorem BerthSt.fflags_outMan (st : BerthSt) : mget st.outMan mFflags = st.flags.toNat := by
  unfold mget BerthSt.outMan mset
  rw [bytesLe_putBytesLe_ne _ _ (by decide) (.inl (by decide)), bytesLe_putBytesLe_self _ _ (by decide)]
  exact Nat.mod_eq_of_lt st.flags.isLt

/-- The frame with its pass back. -/
def flowBack (st : BerthSt) (f : Frame) : Frame :=
  { f with flow := .back, flowDrop := st.drop.map (·.toNat),
           noRoom := st.noRoom && st.write && !(st.flags.getLsbD ffDROP || st.flags.getLsbD ffEXC), sticky := none }

/-- A returned pass that a parse program waits for: FLOW's register takes the status and flags, and is no longer pending. -/
def State.flowAnswered (s : State) (x : CtxId) (r : RegNo) (st : BerthSt) : State :=
  (s.setG x r (BitVec.ofNat 64 (st.status % 256 + st.flags.toNat * 256))).updCtx x
    (fun c => { c with pend := c.pend.filter (fun p => p.2.1 != PendKind.flow) })

section back
variable {s : State} {sl : Slice} {b : Berth} {st : BerthSt} {f : Frame} {x : CtxId} (hst : s.berth? sl.val b.val = some st)
  (hf : s.frame? st.fid = some f) (hphase : st.phase = .done) (hflow : f.flow = .berth sl b)
include hst hf hphase hflow

theorem exec_flowPassReturn_pilot (hstage : f.stage = .pilot x) : exec (.flowPassReturn sl b) s =
    .next (((s.delBerth sl.val b.val).flowAnswered x f.flowReg st).setFrame st.fid
      { flowBack st f with flowOut := st.outMan, flowOutW := st.manOutW ||| byteMask 0x55 3 }) := by
  change execFlowPassReturn sl b s = _
  unfold execFlowPassReturn
  rw [hst]
  dsimp only
  rw [hf]
  dsimp only
  have hns : st.phase ≠ .sticky := hphase ▸ nofun
  rw [if_pos ⟨.inl hphase, hflow⟩, if_neg hns, if_neg (show ¬(none : Option (Slice × Nat)).isSome = true from Bool.false_ne_true), hstage]
  cases hdrop : st.drop <;> simp only [flowBack, hdrop, hstage, Option.map_none, Option.map_some] <;> rfl

theorem exec_flowPassReturn_parsed (hstage : f.stage = .parsed) : exec (.flowPassReturn sl b) s =
    .next (((s.delBerth sl.val b.val).setFrame st.fid { flowBack st f with
      man := manMerge f.man st.outMan (st.manOutW ||| byteMask 0x55 3) 128,
      manW := f.manW ||| (st.manOutW ||| byteMask 0x55 3) }).resolveFrame st.fid) := by
  change execFlowPassReturn sl b s = _
  unfold execFlowPassReturn
  rw [hst]
  dsimp only
  rw [hf]
  dsimp only
  have hns : st.phase ≠ .sticky := hphase ▸ nofun
  rw [if_pos ⟨.inl hphase, hflow⟩, if_neg hns, if_neg (show ¬(none : Option (Slice × Nat)).isSome = true from Bool.false_ne_true), hstage]
  cases hdrop : st.drop <;> simp only [flowBack, hdrop, hstage, Option.map_none, Option.map_some] <;> rfl

end back

/-- The answer stands in FLOW's register; the context that waits loses its pending flow alone. -/
theorem State.flowAnswered_spec (s : State) (x : CtxId) (r : RegNo) (st : BerthSt) :
    (s.flowAnswered x r st).g x r = (if r = 0 then 0 else BitVec.ofNat 64 (st.status % 256 + st.flags.toNat * 256)) ∧
    (∀ c, s.ctx? x = some c → (s.flowAnswered x r st).ctx? x = some { c with pend := c.pend.filter (fun p => p.2.1 != PendKind.flow) }) ∧
    s.flowAnswered x r st = { s with eng := (s.flowAnswered x r st).eng } := by
  have hg : (s.setG x r (BitVec.ofNat 64 (st.status % 256 + st.flags.toNat * 256))).g x r =
      if r = 0 then 0 else BitVec.ofNat 64 (st.status % 256 + st.flags.toNat * 256) := by
    by_cases hr : r = 0
    · rw [if_pos hr, hr]
      rfl
    · rw [if_neg hr, State.g_setG, if_neg hr, if_pos ⟨rfl, rfl⟩]
  have hctx := State.ctx?_setG s x x r (BitVec.ofNat 64 (st.status % 256 + st.flags.toNat * 256))
  have hframe : s.setG x r (BitVec.ofNat 64 (st.status % 256 + st.flags.toNat * 256)) =
      { s with eng := (s.setG x r (BitVec.ofNat 64 (st.status % 256 + st.flags.toNat * 256))).eng } := by
    unfold State.setG
    split <;> rfl
  unfold State.flowAnswered
  generalize s.setG x r (BitVec.ofNat 64 (st.status % 256 + st.flags.toNat * 256)) = t at *
  unfold State.updCtx
  rw [hctx]
  cases s.ctx? x with
  | none =>
    refine ⟨hg, ?_, hframe⟩
    intro c h
    cases h
  | some c =>
    refine ⟨(State.g_setCtx ..).trans hg, fun c2 h => ?_, ?_⟩
    · cases h
      exact State.ctx?_setCtx_self ..
    · exact congrArg (fun u : State => u.setCtx x _) hframe

/-- Settles O27: what the slice, the line, the record, the pass or the frame holds decides the one step that each command takes. -/
theorem flowLookupsAndPasses : Obligations.FlowLookupsAndPasses := by
  refine ⟨fun sl s => ⟨fun q fid b f h hfid hf hb => ?ask, fun b st alt other old r hst hphase hprobe => ?index,
    fun b st n e hst hphase hrec => ?record⟩, fun sl b st s hst => ⟨fun e bad s1 st1 hfree hready => ?dispatch, fun f x hf hphase hflow => ?back⟩⟩
  case ask =>
    obtain ⟨hframe, hberth, hasks, hledger⟩ := s.askTaken_spec sl q fid f ⟨b, h⟩
    refine ⟨s.askTaken sl q fid f ⟨b, h⟩, _, _, exec_flowRequestAccept h ?_ hf hb, hframe, rfl, hberth, rfl, rfl, rfl, rfl, rfl, hasks, hledger⟩
    exact (congrArg (List.find? · _) (funext fun k => by cases s.frame? k <;> rfl)).trans hfid
  case index =>
    intro s1 line hits
    refine ⟨exec_indexReadDone_bad hst hphase hprobe, fun e l hhits => ?_, fun hhits => ?_⟩
    · have hexec := exec_indexReadDone_good hst hphase hprobe
      rw [show s.lineHits sl.val st alt old r = e :: l from hhits, List.head?_cons, Option.elim_some, List.tail_cons] at hexec
      exact hexec
    · have hexec := exec_indexReadDone_good hst hphase hprobe
      rw [show s.lineHits sl.val st alt old r = [] from hhits, List.head?_nil, Option.elim_none] at hexec
      exact hexec
  case record =>
    refine ⟨fun hkey hplace => ⟨_, _, exec_recordReadDone_hit hst hphase hrec hkey, State.berth?_installRec hplace, rfl, rfl, rfl, rfl, rfl⟩,
      fun c l hkey hcand => ?_⟩
    obtain ⟨t, ht⟩ := exec_recordReadDone_other hst hphase hrec hkey hcand
    exact ⟨_, ht, State.berth?_setBerth_self ..⟩
  case dispatch =>
    intro x
    have hexec := exec_stevedoreDispatch hst hfree hready bad
    have hpass : PassOnly s (s1.passCounted sl st1) := (PassOnly.passReady hready).trans (PassOnly.pmc ..)
    have hv : s1.passCounted sl st1 = s1.pmc
      { code := 0x0801, master := 0x40 + sl.val, tc := some (mItcOf st1.man), port := mget st1.man mPort, who := mget st1.man mFhash } := rfl
    generalize s1.passCounted sl st1 = v at *
    dsimp only at hexec
    refine ⟨fun hprog => ?_, fun hprog hno => ?_, fun hprog hknown => ⟨v, hv, fun s2 r hlib => ?_⟩⟩
    · rw [if_neg (Nat.not_le.2 hprog)] at hexec
      have hspoil : ∀ y, (v.spoilWord 1 sl.val st1.gen (v.flowStart st1.gen st1.prog) bad).ctx? y = s.ctx? y := fun y =>
        (congrArg (Tab.get? · y.code) (v.spoilWord_eng ..).1).trans (congrArg (fun e : Eng => Tab.get? e.ctxs y.code) hpass.eng)
      have hstart : (v.spoilWord 1 sl.val st1.gen (v.flowStart st1.gen st1.prog) bad).flowStart st1.gen st1.prog = s.flowStart st1.gen st1.prog := by
        rw [← hpass.flowStart]
        cases bad <;> rfl
      generalize v.spoilWord 1 sl.val st1.gen (v.flowStart st1.gen st1.prog) bad = t at *
      obtain ⟨c, hctx, hfid, hgen, hpc, hcyc, hpend, hended, hberth, hstat, hregs, hrun, hothers⟩ := t.stevStart_spec sl b.val e st1
      rw [hstart] at hpc
      exact ⟨_, c, _, hexec, hctx, hfid, hgen, hpc, hcyc, hpend, hended, hberth, hstat, hregs, hrun, rfl,
        fun y hy => (hothers y hy).trans (hspoil y)⟩
    · rw [hexec, if_pos hprog, if_neg (by rw [hno]; exact Bool.false_ne_true)]
    · have hlib2 : v.library st1 (v.fView sl.val st1 1024) ((s.frame? st1.fid).elim 0 fun f => f.bytes.length) = some (s2, r) := by
        refine Eq.trans (congrArg (v.library st1 _) ?_) hlib
        cases s.frame? st1.fid <;> rfl
      rw [hexec, if_pos hprog, if_pos hknown, hlib2]
      rfl
  case back =>
    refine ⟨fun hstage => ?_, fun hstage => ?_⟩
    · obtain ⟨hg, hctx, hframe⟩ := (s.delBerth sl.val b.val).flowAnswered_spec x f.flowReg st
      have hberth := s.berth?_delBerth_self sl.val b.val
      have hexec := exec_flowPassReturn_pilot hst hf hphase hflow hstage
      have hdel : s.delBerth sl.val b.val = { s with led := (s.delBerth sl.val b.val).led } := rfl
      have hctx0 : (s.delBerth sl.val b.val).ctx? x = s.ctx? x := rfl
      rw [hctx0] at hctx
      generalize s.delBerth sl.val b.val = t at *
      generalize t.flowAnswered x f.flowReg st = u at *
      have hberth2 : u.berth? sl.val b.val = none := by rw [hframe]; exact hberth
      refine ⟨_, _, hexec, hg, hctx, State.frame?_setFrame_self .., rfl, rfl, st.fflags_outMan, hberth2, ?_⟩
      rw [hframe, hdel]
      rfl
    · exact ⟨_, _, exec_flowPassReturn_parsed hst hf hphase hflow hstage, State.frame?_setFrame_self .., rfl, s.berth?_delBerth_self ..⟩

end Sys2Proof.Machine
end

section

/-!
PROOFS. Selection, read, commit and transmission of copies (O26).
-/

namespace Sys2Proof.Machine
set_option Elab.async false

/-! ### What stands on the wires -/

/-- The wires are the same, and what has left the device stays sent. -/
structure WireKept (s t : State) : Prop where
  wire : t.ports.wire = s.ports.wire
  out : s.out <+: t.out

theorem WireKept.refl {s : State} : WireKept s s := ⟨rfl, List.prefix_refl _⟩

theorem WireKept.trans {s t u : State} (h1 : WireKept s t) (h2 : WireKept t u) : WireKept s u :=
  ⟨h2.wire.trans h1.wire, h1.out.trans h2.out⟩

/-- An operation that leaves the ports as they are leaves the wires. -/
theorem WireKept.step {m : Nat} {s t u : State} (h2 : Keeps m t u) (hm : m.testBit 6 = false) (h1 : WireKept s t) : WireKept s u :=
  h1.trans ⟨congrArg Ports.wire (h2.frame.ports.resolve_left (by rw [hm]; exact Bool.false_ne_true)), h2.out⟩

theorem WireKept.of_keeps {m : Nat} {s t : State} (h : Keeps m s t) (hm : m.testBit 6 = false) : WireKept s t := .step h hm .refl

theorem State.xoffUpdate_wire {s : State} {p : Nat} : WireKept s (s.xoffUpdate p) := by
  unfold State.xoffUpdate
  extract_lets
  split
  · exact .refl
  · have hset : ∀ v, WireKept s (s.setPortSt p v) := fun v => ⟨rfl, List.prefix_refl _⟩
    split
    · split
      · exact .step State.sendFlow_keeps rfl (hset _)
      · split
        · exact .step State.sendFlow_keeps rfl (hset _)
        · exact hset _
    · exact .step State.sendFlow_keeps rfl (hset _)

theorem State.pgCheck_wire {s : State} {k : Nat} : WireKept s (s.pgCheck k) := by
  unfold State.pgCheck
  extract_lets
  split
  · exact .refl
  · exact (WireKept.of_keeps State.setPg_keeps rfl).trans State.xoffUpdate_wire

theorem State.pgRelease_wire {s : State} {d : Desc} {n : Nat} : WireKept s (s.pgRelease d n) := by
  unfold State.pgRelease
  split
  · exact (WireKept.of_keeps State.setPg_keeps rfl).trans State.pgCheck_wire
  · split
    · exact (WireKept.of_keeps State.setPg_keeps rfl).trans State.pgCheck_wire
    · exact .refl

theorem State.bufDrop_wire {s : State} {b : Nat} {d : Desc} : WireKept s (s.bufDrop b d) :=
  (WireKept.of_keeps State.delDesc_keeps rfl).trans State.pgRelease_wire

theorem State.bufFree_wire {s : State} {b req : Nat} : WireKept s (s.bufFree b req).2 := by
  unfold State.bufFree
  split
  · exact .step State.ownerRefuse_keeps rfl (.of_keeps State.useFree_keeps rfl)
  · split
    · exact .of_keeps State.ownerRefuse_keeps rfl
    · split
      · exact .of_keeps State.ownerRefuse_keeps rfl
      · exact State.bufDrop_wire

theorem State.refRelease_wire {s : State} {b req : Nat} : WireKept s (s.refRelease b req) := by
  unfold State.refRelease
  split
  · exact .step State.ownerRefuse_keeps rfl (.of_keeps State.useFree_keeps rfl)
  · split
    · exact .of_keeps State.ownerRefuse_keeps rfl
    · split
      · exact State.bufDrop_wire
      · exact .of_keeps State.setDesc_keeps rfl

theorem State.letGo_wire {s : State} {b req : Nat} : WireKept s (s.letGo b req) := by
  unfold State.letGo
  split
  · split
    · exact State.refRelease_wire
    · exact State.bufFree_wire
  · exact State.bufFree_wire

theorem State.copyEnd_wire {s : State} {e : Nat} {cp : Copy} : WireKept s (s.copyEnd e cp) :=
  .step State.flightDone_keeps rfl ((WireKept.of_keeps State.subQUsed_keeps rfl).trans State.letGo_wire)

theorem State.deliveryEnd_wire {s : State} {w : RxWait} : WireKept s (s.deliveryEnd w) := by
  unfold State.deliveryEnd
  refine .step State.flightDone_keeps rfl ?_
  split
  · exact State.letGo_wire
  · exact .refl

theorem State.rxArrive_wire {s : State} {c : Nat} {w : RxWait} : WireKept s (s.rxArrive c w) := by
  have hdrop : WireKept s (s.rxDrop c w) := (WireKept.of_keeps State.bump_keeps rfl).trans State.deliveryEnd_wire
  unfold State.rxArrive
  extract_lets
  split
  · exact hdrop
  · split
    · exact hdrop
    · exact .of_keeps State.setChan_keeps rfl

theorem State.deliver_wire {s : State} {c : Nat} {m : Man} {st : Tab Stamp} {bytes : List Byte} {flight : Nat} {bid : Option Nat} {cut0 : Bool} :
    WireKept s (s.deliver c m st bytes flight bid cut0) := by
  unfold State.deliver
  extract_lets
  split
  · exact (WireKept.of_keeps State.exqFrame_keeps rfl).trans State.deliveryEnd_wire
  · split
    · exact State.rxArrive_wire
    · exact (WireKept.of_keeps State.bump_keeps rfl).trans State.deliveryEnd_wire

theorem State.egressMirror_wire {s : State} {e : Nat} {c : Ctx} {cp : Copy} {out : List Byte} : WireKept s (s.egressMirror e c cp out) := by
  have hflight : ∀ {t : State}, WireKept s t → WireKept s (if cp.flight = 0 then t else t.flightAdd cp.flight) := fun ht => by
    split
    · exact ht
    · exact .step State.flightAdd_keeps rfl ht
  unfold State.egressMirror
  split
  · exact .refl
  · split
    · exact .refl
    · split
      · next hreq => exact .of_keeps (Keeps.of_fst State.mirrorReq_keeps hreq) rfl
      · next t hreq =>
        have ht : WireKept s t := .of_keeps (Keeps.of_fst State.mirrorReq_keeps hreq) rfl
        extract_lets
        split
        · split
          · next hask => exact .step (Keeps.of_fst State.bwAsk_keeps hask) rfl ht
          · next hask => exact (hflight (.step (Keeps.of_fst State.bwAsk_keeps hask) rfl ht)).trans State.deliver_wire
        · exact ⟨(hflight ht).wire, (hflight ht).out⟩

/-! ### TX_COMPLETE (R210, R272) -/

theorem State.txDone_wire {s : State} {p : Nat} {w : OnWire} {bit phi : BitVec 16} {expr : Bool} {cuts : Nat} :
    WireKept (s.emit (.frame p w.bytes w.kill)) (s.txDone p w bit phi expr cuts) := by
  unfold State.txDone
  extract_lets e k sent cut counted stamped freed st idle
  have hcut : WireKept sent cut := by
    unfold cut
    split
    · exact .of_keeps State.addTo_keeps rfl
    · exact .refl
  have hcounted : WireKept sent counted := by
    unfold counted
    split
    · exact .step State.bump_keeps rfl hcut
    · exact .step State.bump_keeps rfl (.step State.bump_keeps rfl (.step State.addTo_keeps rfl hcut))
  have hstamped : WireKept sent stamped := by
    unfold stamped
    split
    · exact hcounted
    · split
      · exact .step State.txtsFlushed_keeps rfl hcounted
      · exact .step State.txStamped_keeps rfl hcounted
  have hfreed : WireKept sent freed := by
    unfold freed
    split
    · exact .step State.setCbs_keeps rfl (.step State.cbsTouch_keeps rfl hstamped)
    · exact hstamped
  have hidle : WireKept sent idle := hfreed.trans ⟨rfl, List.prefix_refl _⟩
  exact (WireKept.step State.delCopy_keeps rfl hidle).trans State.copyEnd_wire

theorem State.copy?_copyEnd (s : State) (e c : Nat) (cp : Copy) : (s.copyEnd e cp).copy? c = s.copy? c :=
  congrArg (fun t : Tm => Tab.get? t.copies c) (State.copyEnd_keeps.frame.tm.resolve_left (by decide))

theorem State.copy?_txDone (s : State) (p : Nat) (w : OnWire) (bit phi : BitVec 16) (expr : Bool) (cuts : Nat) :
    (s.txDone p w bit phi expr cuts).copy? w.cid = none := (State.copy?_copyEnd ..).trans (Tab.get?_del_self ..)

/-- The port's wire without the frame that left. -/
def State.wireShorter (s : State) (p : Nat) (rest : List OnWire) : State :=
  { s with ports := { s.ports with wire := if rest.isEmpty then Tab.del s.ports.wire p else Tab.put s.ports.wire p rest } }

theorem State.wire_wireShorter (s : State) (p : Nat) (rest : List OnWire) : Tab.getD (s.wireShorter p rest).ports.wire p [] = rest := by
  cases rest with
  | nil => exact congrArg (Option.getD · []) (Tab.get?_del_self ..)
  | cons w l => exact Tab.getD_put_self ..

theorem exec_txComplete {p : TmPort} {bit phi : BitVec 16} {ex : Bool} {cuts : Nat} {w : OnWire} {rest : List OnWire} {s : State}
    (hwire : Tab.getD s.ports.wire p.val [] = w :: rest) :
    exec (.txComplete p bit phi ex cuts) s = .next ((s.wireShorter p.val rest).txDone p.val w bit phi ex cuts) := by
  change execTxComplete p bit phi ex cuts s = _
  unfold execTxComplete
  rw [hwire]
  rfl

/-! ### EGRESS_COMMIT (R190, R196, R236, R274) -/

/-- A copy that is sent frees its context and stands last on its port's wire. -/
theorem State.commitSend_spec (s : State) (x : CtxId) (e : Nat) (c : Ctx) (cp : Copy) (d : Desc) (phic : BitVec 16) :
    ∃ w : OnWire, (s.commitSend x e c cp d phic).ctx? x = none ∧
      Tab.getD (s.commitSend x e c cp d phic).ports.wire cp.port [] = Tab.getD s.ports.wire cp.port [] ++ [w] ∧
      w.cid = c.cid ∧ w.kill = c.sealBad := by
  unfold State.commitSend
  extract_lets p pr r r2 timed out bytes sealed mirrored logged freed touched w
  have htimed : WireKept s timed :=
    .step State.timeFields_keeps rfl (.step State.sumAll_keeps rfl (.of_keeps State.predictFor_keeps rfl))
  have hsealed : WireKept s sealed := by
    unfold sealed
    split
    · exact .step State.sealReport_keeps rfl htimed
    · exact htimed
  have hmirrored : WireKept s mirrored := hsealed.trans State.egressMirror_wire
  have hlogged : WireKept s logged := by
    unfold logged
    split
    · next hcap => exact .step State.frameRecord_keeps rfl (.step (Keeps.of_fst State.zoneCapture_keeps hcap) rfl hmirrored)
    · next hcap => exact .step (Keeps.of_fst State.zoneCapture_keeps hcap) rfl hmirrored
  have hfreed : WireKept s freed := .step State.outDone_keeps rfl (.step State.ctxFree_keeps rfl hlogged)
  have hctx : freed.ctx? x = none := State.ctx?_ctxFree_self ..
  have htouched : WireKept s touched ∧ touched.ctx? x = none := by
    unfold touched
    split
    · have hcbs : ∀ i cb, Keeps 32 freed ((freed.cbsTouch i).setCbs i cb) := fun i cb =>
        .step State.setCbs_keeps rfl State.cbsTouch_keeps
      exact ⟨.step (hcbs _ _) rfl hfreed,
        (congrArg (fun g : Eng => Tab.get? g.ctxs x.code) ((hcbs _ _).frame.eng.resolve_left (by decide))).trans hctx⟩
    · exact ⟨hfreed, hctx⟩
  obtain ⟨hwire, hnone⟩ := htouched
  refine ⟨w, hnone, ?_, rfl, rfl⟩
  exact (Tab.getD_put_self ..).trans (congrArg (fun t => Tab.getD t cp.port [] ++ [w]) hwire.wire)

/-- What an ended program's copy meets at its commit point, in order. -/
def State.commitCopy (s : State) (x : CtxId) (e : Nat) (c : Ctx) (cp : Copy) (d : Desc) (phic : BitVec 16) : State :=
  if s.linkUp cp.port = false then (s.bump F.tmCntDropPortDown cp.port).rewDrop x rPORT_DOWN
  else if c.sealBad = true ∧ c.readEnd ≤ s.lastClk then s.rewDrop x rCARGO_SEAL
  else if cp.port < 130 ∧ s.get F.portCfg_maxFrame (portIx cp.port) < c.hlen + c.tail.length + 4 then
    (s.bump F.egrCntTooLong e).rewDrop x rEGRESS_TOO_LONG
  else if s.launchTest cp phic = 2 then (s.bump F.tmCntGateLate cp.port).rewDrop x rGATE_LATE
  else if s.commitWaits x c cp = true ∨ s.launchTest cp phic = 0 then s
  else if 130 ≤ cp.port then
    let r := s.sumAll c e cp d.bytes (wireBytes c.h 0 c.hlen ++ c.tail)
    (r.1.egressMirror e c cp r.2).reenter x e c cp r.2
  else s.commitSend x e c cp d phic

section commit
variable {s : State} {g : Fin 48} {k : Fin 4} {phic : BitVec 16} {c : Ctx} {cp : Copy} {d : Desc}

theorem exec_egressCommit {e : Quay} (hctx : s.ctx? (.rew e g k) = some c) (hended : c.ended = true) (hcopy : s.copy? c.cid = some cp)
    (hdesc : s.desc? cp.bid = some d) :
    exec (.egressCommit (.rew e g k) phic) s = .next (s.commitCopy (.rew e g k) e.val c cp d phic) := by
  change execEgressCommit (.rew e g k) phic s = _
  unfold execEgressCommit
  simp only [hctx, hended, Bool.true_eq_false, false_and, if_false, hcopy, hdesc]
  rfl

variable {x : CtxId} {e : Nat}

theorem State.commitCopy_portDown (hlink : s.linkUp cp.port = false) :
    s.commitCopy x e c cp d phic = (s.bump F.tmCntDropPortDown cp.port).rewDrop x rPORT_DOWN := if_pos hlink

variable (hlink : s.linkUp cp.port = true)
include hlink

theorem State.commitCopy_sealBad (hbad : c.sealBad = true) (hread : c.readEnd ≤ s.lastClk) :
    s.commitCopy x e c cp d phic = s.rewDrop x rCARGO_SEAL := by
  unfold State.commitCopy
  rw [if_neg (by rw [hlink]; decide), if_pos ⟨hbad, hread⟩]

variable (hseal : ¬(c.sealBad = true ∧ c.readEnd ≤ s.lastClk))
include hseal

theorem State.commitCopy_tooLong (hlong : cp.port < 130 ∧ s.get F.portCfg_maxFrame (portIx cp.port) < c.hlen + c.tail.length + 4) :
    s.commitCopy x e c cp d phic = (s.bump F.egrCntTooLong e).rewDrop x rEGRESS_TOO_LONG := by
  unfold State.commitCopy
  rw [if_neg (by rw [hlink]; decide), if_neg hseal, if_pos hlong]

variable (hfits : ¬(cp.port < 130 ∧ s.get F.portCfg_maxFrame (portIx cp.port) < c.hlen + c.tail.length + 4))
include hfits

theorem State.commitCopy_late (hlate : s.launchTest cp phic = 2) :
    s.commitCopy x e c cp d phic = (s.bump F.tmCntGateLate cp.port).rewDrop x rGATE_LATE := by
  unfold State.commitCopy
  rw [if_neg (by rw [hlink]; decide), if_neg hseal, if_neg hfits, if_pos hlate]

variable (hdue : s.launchTest cp phic = 1)
include hdue

theorem State.commitCopy_waits (hwaits : s.commitWaits x c cp = true) : s.commitCopy x e c cp d phic = s := by
  unfold State.commitCopy
  rw [if_neg (by rw [hlink]; decide), if_neg hseal, if_neg hfits, if_neg (by rw [hdue]; decide), if_pos (.inl hwaits)]

theorem State.commitCopy_sends (hready : s.commitWaits x c cp = false) (hport : cp.port < 130) :
    s.commitCopy x e c cp d phic = s.commitSend x e c cp d phic := by
  unfold State.commitCopy
  rw [if_neg (by rw [hlink]; decide), if_neg hseal, if_neg hfits, if_neg (by rw [hdue]; decide),
    if_neg (by rw [hready, hdue]; decide), if_neg (Nat.not_le.2 hport)]

end commit

/-! ### TM_SELECT (R235) -/

theorem State.queue_setQueue_self (s : State) (q : Nat) (l : List Nat) : (s.setQueue q l).queue q = l := by
  cases l with
  | nil => exact congrArg (Option.getD · []) (Tab.get?_del_self ..)
  | cons c l => exact Tab.getD_put_self ..

theorem State.window_setWindow_self (s : State) (e : Nat) (l : List Nat) : (s.setWindow e l).window e = l := by
  cases l with
  | nil => exact congrArg (Option.getD · []) (Tab.get?_del_self ..)
  | cons c l => exact Tab.getD_put_self ..

theorem State.lpiWake_queues (s : State) (p : Nat) : (s.lpiWake p).tm.queues = s.tm.queues := by
  unfold State.lpiWake
  split <;> rfl

theorem State.shaperCharge_queues (s : State) (lo e : Nat) : (s.shaperCharge lo e).tm.queues = s.tm.queues := by
  unfold State.shaperCharge
  cases s.elShaper e <;> rfl

theorem State.cbsSpend_queues (s : State) (i lw tw : Nat) : (s.cbsSpend i lw tw).tm.queues = s.tm.queues := by
  unfold State.cbsSpend
  split <;> rfl

theorem State.latOne_queues (s : State) (n q slot p x : Nat) : (s.latOne n q slot p x).tm.queues = s.tm.queues := by
  unfold State.latOne
  extract_lets target hit
  by_cases hhit : hit = true
  · rw [if_pos hhit]
  · rw [if_neg hhit]

theorem State.latAll_queues (s : State) (q slot p x : Nat) : (s.latAll q slot p x).tm.queues = s.tm.queues := by
  unfold State.latAll
  exact foldl_keeps (P := fun t : State => t.tm.queues = s.tm.queues) (fun t n ht => (t.latOne_queues n q slot p x).trans ht) (List.range 64) rfl

/-- The head selected leaves its queue and joins the window. -/
theorem State.selectHead_spec (s : State) (e p i q cid : Nat) (cp : Copy) :
    (s.selectHead e p i q cid cp).queue q = (s.queue q).drop 1 ∧ cid ∈ (s.selectHead e p i q cid cp).window e := by
  unfold State.selectHead
  extract_lets gated launch lw tw woken late tp paced charged taken spent measured launched windowed counted
  have hcharged : charged.tm.queues = s.tm.queues :=
    foldl_keeps (P := fun t : State => t.tm.queues = s.tm.queues) (fun t n ht => (t.shaperCharge_queues cp.lo n).trans ht) _
      (s.lpiWake_queues p)
  have htaken : taken.queue q = (s.queue q).drop 1 :=
    (State.queue_setQueue_self ..).trans (congrArg (fun t => (Tab.getD t q []).drop 1) hcharged)
  have hmeasured : measured.tm.queues = taken.tm.queues := by
    unfold measured
    rw [State.latAll_queues]
    exact State.cbsSpend_queues ..
  clear_value measured taken
  have hwindowed : cid ∈ windowed.window e := by
    rw [show windowed.window e = _ from State.window_setWindow_self ..]
    exact List.mem_append_right _ (List.mem_singleton_self _)
  have hpmc : ((counted.bump F.tmCntSelected p).pmc (frameEv 0x0B01 (0x30 + e) cp.man true 1)).tm = windowed.tm :=
    State.pmc_counts.tm.trans ((State.bump_tm ..).trans (State.set_tm ..))
  have hqueues : windowed.tm.queues = measured.tm.queues := rfl
  clear_value windowed
  refine ⟨?_, ?_⟩
  · exact (congrArg (fun t : Tm => Tab.getD t.queues q []) hpmc).trans ((congrArg (Tab.getD · q []) (hqueues.trans hmeasured)).trans htaken)
  · exact (congrArg (fun t : Tm => cid ∈ Tab.getD t.windows e []) hpmc).mpr hwindowed

theorem exec_tmSelect {e : Quay} {s s2 : State} {p i q cid : Nat} {ps l : List Nat} {cp : Copy} (hfwd : s.forwarding = true)
    (hroom : (s.window e.val).length < 32)
    (hports : (quayPorts e.val).drop (s.coreClk % (quayPorts e.val).length) ++ (quayPorts e.val).take (s.coreClk % (quayPorts e.val).length)
      = p :: ps)
    (hready : s.portReady p = true) (hpick : s.portPick p = (s2, some (i, q))) (hqueue : s.queue q = cid :: l)
    (hcopy : s.copy? cid = some cp) (htest : ∀ r, s.headTest i cp ≠ .drop r) (hyoung : s.tooOld q cp = false) :
    exec (.tmSelect e) s = .next (s2.selectHead e.val p i q cid cp) := by
  change execTmSelect e s = _
  unfold execTmSelect
  rw [if_neg fun h => h.elim (fun hoff => Bool.false_ne_true (hoff.symm.trans hfwd)) (Nat.not_le.2 hroom)]
  dsimp only
  rw [hports]
  unfold State.selectPort
  rw [if_neg (by rw [hready]; decide), hpick]
  dsimp only
  rw [hqueue]
  dsimp only
  rw [hcopy]
  dsimp only
  rw [hyoung]
  cases hhead : s.headTest i cp with
  | drop r => exact absurd hhead (htest r)
  | wait => rfl
  | go => rfl

/-! ### EGRESS_READ_START (R183, R196) -/

/-- A copy whose read starts at clock `t` has left the window of its egress quay. -/
def State.readTaken (s : State) (e t cid : Nat) (cp : Copy) (d : Desc) : State :=
  let s1 := s.addTo F.bufCntReadIdle e (t - Tab.getD s.tm.readEnd e 0)
  let s2 : State := { s1 with tm := { s1.tm with readEnd := Tab.put s1.tm.readEnd e (t + copyClocks cp d) } }
  (s2.setWindow e ((s2.window e).filter (· != cid))).bumpIf (copyPart cp d) F.bufCntSealUnchecked 0

theorem State.readTaken_tab (s : State) (e t cid : Nat) (cp : Copy) (d : Desc) : (s.readTaken e t cid cp d).tab = s.tab :=
  State.bumpIf_keeps.frame.tab.resolve_left (by decide)

theorem State.window_readTaken (s : State) (e t cid : Nat) (cp : Copy) (d : Desc) : cid ∉ (s.readTaken e t cid cp d).window e := by
  unfold State.readTaken
  extract_lets s1 tm s2
  have hkeep : ((s2.setWindow e ((s2.window e).filter (· != cid))).bumpIf (copyPart cp d) F.bufCntSealUnchecked 0).window e =
      (s2.setWindow e ((s2.window e).filter (· != cid))).window e :=
    congrArg (fun t : Tm => Tab.getD t.windows e []) (State.bumpIf_keeps.frame.tm.resolve_left (by decide))
  rw [hkeep, State.window_setWindow_self]
  exact fun h => absurd (List.mem_filter.1 h).2 (by simp)

/-! What the read asks of the tables. -/

theorem State.objF_of_tab {s v : State} (h : v.tab = s.tab) : v.objF = s.objF := by
  funext code ix lo len
  unfold State.objF State.objN State.obj
  rw [h]

theorem State.pushBytes_of_tab {s v : State} (h : v.tab = s.tab) : v.pushBytes = s.pushBytes := by
  funext r
  unfold State.pushBytes State.pushLen State.tmplByte
  simp only [State.objF_of_tab h]

theorem State.zonePermits_of_tab {s v : State} (h : v.tab = s.tab) : v.zonePermits = s.zonePermits := by
  funext z p
  unfold State.zonePermits State.objN State.obj
  rw [h]

/-- The context of a copy whose program runs (R31). -/
theorem State.readRun_spec {s : State} {x : CtxId} {e cid : Nat} {cp : Copy} {d : Desc} {bad fetchBad : Bool} {stop : Nat} {head : List Byte}
    (hpush : s.pushBytes cp.rewrite = some head) (hlen : s.objF oREWRITE cp.rewrite 15 8 + 14 ≤ (copyBody cp d).length) :
    ∃ c : Ctx, (s.readRun x e cid cp d bad fetchBad stop).ctx? x = some c ∧ c.cid = cid ∧ c.pc = 0 ∧ c.cyc = 0 ∧ c.pend = [] ∧
      c.ended = false ∧ c.gen = cp.gen ∧ (∀ r, (s.readRun x e cid cp d bad fetchBad stop).g x r = 0) ∧
      (s.readRun x e cid cp d bad fetchBad stop).tm = s.tm := by
  have hspoil : (s.spoilWord 2 e cp.gen 0 fetchBad).tm = s.tm := State.spoilWord_keeps.frame.tm.resolve_left (by decide)
  unfold State.readRun
  extract_lets body strip
  rw [hpush]
  dsimp only
  rw [if_neg (Nat.not_lt.2 hlen)]
  exact ⟨_, State.ctx?_setCtx_self .., rfl, rfl, rfl, rfl, rfl, rfl,
    fun r => (State.g_setCtx ..).trans ((State.g_zeroG ..).trans (if_pos rfl)), hspoil⟩

theorem State.readZone_run {s : State} {x : CtxId} {e cid : Nat} {cp : Copy} {d : Desc} {bad fetchBad : Bool} {stop : Nat}
    (hsound : s.isBad tkZONE (e / 4) (mZoneOf cp.man) = false) (hpermits : s.zonePermits (mZoneOf cp.man) cp.port = true) :
    s.readZone x e cid cp d bad false fetchBad stop = s.readRun x e cid cp d bad fetchBad stop := by
  unfold State.readZone
  rw [if_neg (by rw [hsound]; simp), if_neg (by rw [hpermits]; simp)]

theorem exec_egressReadStart {e : Quay} {damaged fetchBad : Bool} {s : State} {x : CtxId} {t cid : Nat} {l : List Nat} {cp : Copy} {d : Desc}
    (hfwd : s.forwarding = true) (hfree : s.freeRew e = some x)
    (hclock : s.clocks.find? (fun t => decide (Tab.getD s.tm.readEnd e.val 0 ≤ t) && !(s.readable e.val t).isEmpty) = some t)
    (hread : s.readable e.val t = cid :: l) (hcopy : s.copy? cid = some cp) (hdesc : s.desc? cp.bid = some d) :
    exec (.egressReadStart e damaged false fetchBad) s = .next ((s.readTaken e.val t cid cp d).readZone x e.val cid cp d
      (!copyPart cp d && (damaged || d.bad || sealOf d.crc d.seq cp.queue (if cp.port < 130 then cp.port else 0xFD) != cp.sealV))
      false fetchBad (t + copyClocks cp d)) := by
  change execEgressReadStart e damaged false fetchBad s = _
  unfold execEgressReadStart
  rw [if_neg (by rw [hfwd]; decide), hfree]
  dsimp only
  rw [hclock]
  dsimp only
  rw [hread]
  dsimp only
  rw [hcopy]
  dsimp only
  rw [hdesc]
  rfl

/-- Settles O26: the queue's head, the window copy, the ended context or the wire's first frame decides the one step that each command
takes. -/
theorem copiesLeave : Obligations.CopiesLeave := by
  refine fun e s => ⟨fun p i q cid ps l cp s2 hfwd hroom hports hready hpick hqueue hcopy htest hyoung => ?select,
    fun x t cid l cp d damaged bad head hfwd hfree hclock hread hcopy hdesc hport hsound hpermits hpush hlen => ?read,
    fun g k phic c cp d hctx hended hcopy hdesc => ?commit, fun p bit phi ex cuts w rest hwire => ?tx⟩
  case select =>
    obtain ⟨hleft, hjoined⟩ := s2.selectHead_spec e.val p i q cid cp
    exact ⟨_, exec_tmSelect hfwd hroom hports hready hpick hqueue hcopy htest hyoung, rfl, hleft, hjoined⟩
  case read =>
    have hexec := exec_egressReadStart (damaged := damaged) (fetchBad := bad) hfwd hfree hclock hread hcopy hdesc
    have htab := s.readTaken_tab e.val t cid cp d
    have hwindow := s.window_readTaken e.val t cid cp d
    generalize s.readTaken e.val t cid cp d = v at *
    rw [← State.pushBytes_of_tab htab] at hpush
    rw [← State.objF_of_tab htab] at hlen
    rw [← State.zonePermits_of_tab htab] at hpermits
    rw [State.readZone_run ((congrArg (fun t : Tables => t.bad.contains _) htab).trans hsound) hpermits] at hexec
    obtain ⟨c, hctx, hcid, hpc, hcyc, hpend, hended, hgen, hregs, htm⟩ := State.readRun_spec hpush hlen
    exact ⟨_, c, hexec, hctx, hcid, hpc, hcyc, hpend, hended, hgen, hregs,
      fun hin => hwindow ((congrArg (fun t : Tm => cid ∈ Tab.getD t.windows e.val []) htm).mp hin)⟩
  case commit =>
    intro x now
    have hexec := exec_egressCommit (e := e) (phic := phic) hctx hended hcopy hdesc
    refine ⟨fun hlink => ?_, fun hlink hbad hend => ?_, fun hlink hseal hlong => ?_, fun ⟨hlink, hseal, hfits⟩ hlate => ?_,
      fun ⟨hlink, hseal, hfits⟩ hdue hwaits => ?_, fun ⟨hlink, hseal, hfits⟩ hdue hready hport => ?_⟩
    · rw [hexec, State.commitCopy_portDown hlink]
    · rw [hexec, State.commitCopy_sealBad hlink hbad hend]
    · rw [hexec, State.commitCopy_tooLong hlink hseal hlong]
    · rw [hexec, State.commitCopy_late hlink hseal hfits hlate]
    · rw [hexec, State.commitCopy_waits hlink hseal hfits hdue hwaits]
    · rw [State.commitCopy_sends hlink hseal hfits hdue hready hport] at hexec
      obtain ⟨w, hnone, hwire, hcid, hkill⟩ := s.commitSend_spec x e.val c cp d phic
      exact ⟨_, w, hexec, hnone, hwire, hcid, hkill⟩
  case tx =>
    have hdone := State.txDone_wire (s := s.wireShorter p.val rest) (p := p.val) (w := w) (bit := bit) (phi := phi) (expr := ex) (cuts := cuts)
    refine ⟨_, exec_txComplete hwire, ?_, hdone.out.subset (List.mem_append_right _ (List.mem_singleton_self _)), State.copy?_txDone ..⟩
    exact (congrArg (Tab.getD · p.val []) hdone.wire).trans (s.wire_wireShorter ..)

end Sys2Proof.Machine
end
